-- ==== Sys2Proof/Word.lean ====
section
/-! DEFINITION. The word types of the module: bytes, 32-bit words and 64-bit values (spec/00_scope.md R4, R5). -/
namespace Sys2Proof

/-- A byte. -/
abbrev Byte := BitVec 8
/-- A 32-bit word of the host port, the lanes and the mailboxes. -/
abbrev Word := BitVec 32
/-- A 64-bit value: an axis value, an offset, a sequence number. -/
abbrev DWord := BitVec 64

/-- The upper 32 bits of a 64-bit value. -/
def hi32 (v : DWord) : Word := v.extractLsb' 32 32
/-- The lower 32 bits of a 64-bit value. -/
def lo32 (v : DWord) : Word := v.extractLsb' 0 32
/-- A 64-bit value from its upper and lower word (R453: high word first). -/
def join64 (h l : Word) : DWord := h ++ l

end Sys2Proof
end

