-- ==== Sys2Proof/Syntax.lean ====
section
/-! DEFINITION. The commands: what may stand in the queue of the block. One constructor per row of the table of
operations and events, with its operands. Request words of mailbox commands stand in the mailbox, so that the row of a
mailbox command names only the mailbox whose command in hand the supervisor executes (R446). -/
namespace Sys2Proof

/-- The three lanes (00, "Names used throughout"). -/
inductive Lane where
  | a | b | c
  deriving DecidableEq, Repr, Inhabited

/-- The two mailboxes (R445). -/
inductive Mb where
  | mb0 | mb1
  deriving DecidableEq, Repr, Inhabited

/-- The four parties that compare frames: the hub voter and one cross-check unit per lane (R162). -/
inductive Party where
  | hub
  | unit (l : Lane)
  deriving DecidableEq, Repr, Inhabited

/-- The four regions, each with a fault queue (R364). -/
inductive Region where
  | lane (l : Lane)
  | hub
  deriving DecidableEq, Repr, Inhabited

/-- The two Flovis planes (11). -/
inductive Plane where
  | a | b
  deriving DecidableEq, Repr, Inhabited

/-- The two groups of field channels (09). -/
inductive Grp where
  | fa | fb
  deriving DecidableEq, Repr, Inhabited

/-- The field stage's timers for the commands of a channel (R235), in µs: how long they have been unequal, or equal, and how long the same
lane has been in the minority. -/
structure DisagreeTimes where
  us : Nat
  minorityUs : Nat
  deriving DecidableEq, Repr, Inhabited

/-- What the open-wire check of a switch sees (R236): the contact voltage in mV, and the largest current in mA over the last ms
milliseconds. -/
structure OpenSense where
  mv : Nat
  ma : Nat
  ms : Nat
  deriving DecidableEq, Repr, Inhabited

/-- The dark test of a group safety switch (R239): it begins, the rail falls below 20 % of nominal within TEST_WIDTH, or TEST_WIDTH
expires. -/
inductive GswPhase where
  | start | fall | expiry
  deriving DecidableEq, Repr, Inhabited

/-- Who reaches a mailbox: the host port, a bridge node, or a TRDP source address (R448, R450). -/
inductive Source where
  | host
  | node (n : Nat)
  | trdp (ip : Word)
  deriving DecidableEq, Repr, Inhabited

/-- Through which side a register is accessed: the host port or the inbound bridge engine (R333). -/
inductive Port where
  | host | bridge
  deriving DecidableEq, Repr, Inhabited

/-- What the timing of one host access leaves to the hardware: the first word whose fetch is late (R437), the word that finds
the write buffer full (R438), how many words the supervisor has meanwhile taken from each request FIFO (R447), and whether the
hub fabric holds host traffic or the write buffer holds more than 32 words (R438). -/
structure HostTiming where
  late : Option Nat := none
  full : Option Nat := none
  drained : Nat := 0
  fabricBusy : Bool := false
  bufferHigh : Bool := false
  deriving DecidableEq, Repr, Inhabited

/-- The outcome of a crossbar transfer's parity checks (R83): right, wrong once and right when retried, wrong twice. -/
inductive Xbar where
  | good | retried | failed
  deriving DecidableEq, Repr, Inhabited

/-- The kinds of ECC memory of a lane (R83, R84). -/
inductive LaneMem where
  | block | slice | queue
  deriving DecidableEq, Repr, Inhabited

/-- A word with its quality nibble (R92). -/
structure QWord where
  v : Word
  q : BitVec 4
  deriving DecidableEq, Repr, Inhabited

/-- One retained line of an output frame: key, line 0 to 15, sixteen words with nibbles (R153). -/
structure RetLine where
  key : Word
  line : Nat
  words : List QWord
  deriving DecidableEq, Repr, Inhabited

/-- An output frame (R153), without its CRC-32C, which is formed over its bytes. -/
structure LaneFrame where
  kind : Nat
  lane : Lane
  task : Nat
  wpos : Nat
  rel : Word
  seq : Word
  runSig : DWord
  runCount : Word
  flags : BitVec 16
  words : List QWord
  lines : List RetLine
  deriving DecidableEq, Repr, Inhabited

/-- What happens to the oldest frame in flight on the link from a lane to a party: it arrives whole, arrives with a wrong
CRC-32C, or another frame with a correct CRC arrives in its place (R155). -/
inductive FrameFate where
  | whole
  | badCrc
  | replaced (f : LaneFrame)
  /-- Arrives whole, and the hub's slot is corrupt when it is read (R156, R163). -/
  | slotCorrupt
  /-- Arrives whole, and the hub's slot holds an old frame when it is read (R162, R163). -/
  | slotStale
  deriving DecidableEq, Repr, Inhabited

/-- A verdict (R157). -/
inductive Verdict where
  | agree | differ | absent
  deriving DecidableEq, Repr, Inhabited

/-- What a party showed of one pattern of an injection test where that is not what its comparator should give: its vector, and for a unit
whether its drive gate opened (R164, R165). -/
structure InjectSeen where
  party : Party
  pattern : Nat
  a : Verdict
  b : Verdict
  c : Verdict
  gate : Bool
  deriving DecidableEq, Repr, Inhabited

/-- How the page at the front of a checkpoint arrives at the hub (R169), and where a lane catches up with it, whether the lane's own CRC of
it agrees (R173). -/
inductive PageFate where
  | whole | damaged
  /-- Whole at the hub, but different in the lane that catches up. -/
  | catchUpDiffers
  deriving DecidableEq, Repr, Inhabited

/-- A release stamp with its image reaches a lane on its lane-hub link, whole or with a wrong CRC-32C (R18, R68). -/
structure StampArrival where
  lane : Lane
  good : Bool := true
  deriving DecidableEq, Repr, Inhabited

/-- Who times an acknowledge source: a lane's cross-check unit, or the reset controller in HALTED (R185). -/
inductive AckReceiver where
  | lane (l : Lane)
  | resetController
  deriving DecidableEq, Repr, Inhabited

/-- The two timed acknowledge sources (R185). -/
inductive AckSource where
  | pin | channel
  deriving DecidableEq, Repr, Inhabited

/-- How a PTP message arrived (R297): its port, whether over UDP, and its domainNumber. -/
structure PtpHead where
  port : Nat
  udp : Bool
  domain : Nat
  deriving DecidableEq, Repr, Inhabited

/-- A delay request (R297, R299): how it arrived, and whether it is a Pdelay_Req. -/
structure PtpReq where
  udp : Bool
  domain : Nat
  peer : Bool
  deriving DecidableEq, Repr, Inhabited

/-- A Sync with its Follow_Up: transmit and receive times and the corrections, all in ns (R301). -/
structure PtpSyncMsg where
  head : PtpHead
  t1 : Int
  t2 : Int
  corrections : Int
  deriving DecidableEq, Repr, Inhabited

/-- The times of one delay measurement (R301): request sent t1 and received t2, response sent t3 and received t4; E2E uses
t1 and t2 as the Sync's, t3 and t4 as the request's. -/
structure PtpDelayMsg where
  head : PtpHead
  t1 : Int
  t2 : Int
  t3 : Int
  t4 : Int
  corrections : Int
  deriving DecidableEq, Repr, Inhabited

/-- The fields of an Announce that the best-master algorithm compares (IEEE 1588-2019, R297). -/
structure PtpAnnounceMsg where
  head : PtpHead
  gmIdentity : BitVec 64
  gmPriority1 : Nat
  gmClass : Nat
  gmAccuracy : Nat
  gmVariance : Nat
  gmPriority2 : Nat
  stepsRemoved : Nat
  parentIdentity : BitVec 64
  parentPort : Nat
  deriving DecidableEq, Repr, Inhabited

/-- A backbone node of a TOPOLOGY frame (R303): its MAC address, the position of its consist counted from 1, and whether that is inverse
to the reference direction. -/
structure TopoNode where
  mac : BitVec 48
  position : Nat
  inverse : Bool
  deriving DecidableEq, Repr, Inhabited

/-- What the module takes from a TTDP TOPOLOGY frame (R303). -/
structure TopologyMsg where
  inaugurated : Bool
  etbTopoCnt : Word
  /-- Number of consists in the train. -/
  consists : Nat
  /-- Source MAC address of the frame. -/
  src : BitVec 48
  /-- The backbone nodes that the frame lists. -/
  nodes : List TopoNode
  deriving DecidableEq, Repr, Inhabited

/-- What the module reads in the IPv4 header of a datagram that it does not reassemble (R304): it carries options; it is a fragment. -/
structure IpHead where
  options : Bool
  fragment : Bool
  deriving DecidableEq, Repr, Inhabited

/-- A piece of an IPv4 datagram (R304): identification, byte offset, and whether more pieces follow. -/
structure IpPiece where
  ident : Nat
  offset : Nat
  more : Bool
  deriving DecidableEq, Repr, Inhabited

/-- Message data as it arrives (R304, R307): options in its IPv4 header, the place in its datagram where it is a fragment, and the
bytes of the TRDP dataset that it brings. -/
structure MdData where
  options : Bool
  piece : Option IpPiece
  bytes : List Byte
  deriving DecidableEq, Repr, Inhabited

/-- An ICMP echo request (R304). -/
structure EchoMsg where
  ip : IpHead
  data : List Byte
  deriving DecidableEq, Repr, Inhabited

/-- How EGRESS_COPY_LEFT ends a frame (R16, R286): its last copy has left, or the switch buffer failed its parity. -/
structure EgressEnd where
  desc : Nat
  parity : Bool
  deriving DecidableEq, Repr, Inhabited

/-- The fields of a TRDP process data header that the module reads (R306), with the verdict on its header FCS and the
source and reply fields of a Pr. -/
structure PdHeader where
  ip : IpHead
  fcsGood : Bool
  major : Nat
  comId : Word
  etbTopoCnt : Word
  datasetLength : Nat
  sequence : Word
  replyComId : Word
  replyIp : Word
  deriving DecidableEq, Repr, Inhabited

/-- What a bridge time limit runs on (R327, R328): a delayed entry or a POST of a node. -/
inductive BridgeWait where
  | delayed (entry : Fin 16)
  | post (node tag : Nat)
  deriving DecidableEq, Repr, Inhabited

/-- A frame on a foreign bus (R338, R340): a CAN frame or the bytes of a serial frame, with the verdict of its line checks. -/
inductive ForeignFrame where
  | can (ident : Word) (ctrl : Byte) (data : List Byte) (good : Bool)
  | async (bytes : List Byte) (good : Bool)
  | hdlc (bytes : List Byte) (good : Bool)
  deriving DecidableEq, Repr, Inhabited

/-- A fault as its detector reports it (R362): before it has a number. -/
structure FaultIn where
  region : Region
  sev : Nat
  level : Nat
  code : BitVec 16
  loc : Word := 0
  arg0 : Word := 0
  arg1 : Word := 0
  hw : Bool := false
  incomplete : Bool := false
  deriving DecidableEq, Repr, Inhabited

/-- What ends a restore step (R405): the domain and what its self-test found. -/
inductive RestoreResult where
  | hub | sound | net
  | lane (l : Lane) (fail : Option Nat) (retired : List (Fin 16 × Fin 16))
  | field (badChannels : BitVec 32) (badA badB : Bool)
  deriving DecidableEq, Repr, Inhabited

/-- An I2C transaction addressed to the wake port, ended by STOP (R413): a write with its data bytes, or a read of n bytes. -/
inductive WakeTx where
  | writeBytes (addr : BitVec 7) (bytes : List Byte)
  | readBytes (addr : BitVec 7) (n : Nat)
  deriving DecidableEq, Repr, Inhabited

/-- The header of a received Jaran frame with a correct CRC (R380). -/
structure JaranHead where
  seq : Word
  harvest : DWord
  flags : Byte
  deriving DecidableEq, Repr, Inhabited

/-- HELLO (R381). -/
structure HelloMsg where
  primary : Bool
  controlling : Bool
  epoch : Word
  mode : Nat
  fil : Nat
  imageDigest : List Byte
  bankDigest : List Byte
  deriving DecidableEq, Repr, Inhabited

/-- HEARTBEAT (R381). -/
structure HeartbeatMsg where
  controlling : Bool
  epoch : Word
  mode : Nat
  lanes : BitVec 3
  latchesClear : Bool
  pairState : Nat
  eligible : Bool
  mismatch : Bool
  vote : Byte
  deriving DecidableEq, Repr, Inhabited

/-- IMAGE (R381): the release stamp as its twelve words with their nibbles, and the input image. -/
structure ImageMsg where
  task : Nat
  stamp : List QWord
  image : List (Nat × QWord)
  deriving DecidableEq, Repr, Inhabited

/-- OUTPUT (R381). -/
structure OutputMsg where
  task : Nat
  rel : Word
  words : List QWord
  lines : List RetLine
  groupSeqs : List (Nat × Word)
  comSeqs : List (Word × Word)
  deriving DecidableEq, Repr, Inhabited

/-- PAGE (R381): 256 words of one page with their nibbles. -/
structure PageMsg where
  task : Nat
  space : Nat
  page : Nat
  generation : Nat
  words : List QWord
  deriving DecidableEq, Repr, Inhabited


/-- The commands of the block: one constructor per row of spec/opcode_table.json, in its order. -/
inductive Instr where
  /-- GET_INFO (R453): Mailbox command that returns identity, firmware slot, serial number and the active program and bank identifiers. -/
  | getInfo (mb : Mb)
  /-- GET_STATUS (R453): Mailbox command that returns MOD_STAT, the module status word, the bring-up stage and stop cause, and other status words. -/
  | getStatus (mb : Mb)
  /-- MODULE_RESET (R453): Mailbox command that requests a reset of the hub and a bring-up from B1, with a session needed in the voted modes and SAFE. -/
  | moduleReset (mb : Mb)
  /-- RESET_EXECUTE (R453): An accepted MODULE_RESET takes effect at ACK or 10 ms after DONE, whichever comes first, and bring-up restarts at B1. -/
  | resetExecute (mb : Mb)
  /-- SESSION_OPEN (R450): Two-phase mailbox command that issues a nonce and then checks an HMAC to open a maintenance session on one mailbox and source. -/
  | sessionOpen (mb : Mb)
  /-- SESSION_CLOSE (R451): Mailbox command that ends the maintenance session of its mailbox and source. -/
  | sessionClose (mb : Mb)
  /-- SESSION_INACTIVITY (R451): A session ends after 600 s without a command from its source. -/
  | sessionInactivity (mb : Mb)
  /-- SAFE_ACK (R186): Mailbox command carrying a token; two such commands 100 ms to 2 s apart from the same mailbox and source form an acknowledge. -/
  | safeAck (mb : Mb)
  /-- START (R427): Mailbox command that releases the lanes when the bank has AUTO_START clear and bring-up waits in LIMITED. -/
  | start (mb : Mb)
  /-- PROG_BEGIN (R210): Mailbox command that erases the non-active image slot, marks it RECEIVING and starts a load. -/
  | progBegin (mb : Mb)
  /-- PROG_DATA (R210): Mailbox command that appends image bytes at the expected offset, refusing a wrong offset. -/
  | progData (mb : Mb)
  /-- PROG_END (R211): Mailbox command that applies the ordered image checks and marks the slot VERIFIED, or erases it on failure. -/
  | progEnd (mb : Mb)
  /-- PROG_ACTIVATE (R216): Mailbox command that activates the shadow image ONLINE by staging and task-by-task switch, or by RESTART. -/
  | progActivate (mb : Mb)
  /-- PROG_DISCARD (R453): Mailbox command that withdraws a staged activation, abandons a RECEIVING load, or erases the shadow slot. -/
  | progDiscard (mb : Mb)
  /-- PROG_INFO (R453): Mailbox command that returns slot state, identifiers, digest and per-task bounds and carry figures of the active or shadow image. -/
  | progInfo (mb : Mb)
  /-- CFG_BEGIN (R210): Mailbox command that erases the non-active bank area and starts a bank load. -/
  | cfgBegin (mb : Mb)
  /-- CFG_DATA (R210): Mailbox command that appends bank bytes at the expected offset. -/
  | cfgData (mb : Mb)
  /-- CFG_END (R211): Mailbox command that applies the bank checks and each section's range checks and marks the bank VERIFIED or erases it. -/
  | cfgEnd (mb : Mb)
  /-- CFG_SWAP (R213): Mailbox command that verifies the shadow bank again, sends it to the lanes for digest check and schedules the swap. -/
  | cfgSwap (mb : Mb)
  /-- CFG_READ (R453): Mailbox command that returns bytes of a section of the active or shadow bank, or the filter coefficients in force. -/
  | cfgRead (mb : Mb)
  /-- FORCE_SET (R146): Mailbox command that adds a force table entry for a permitted target, effective once all three lanes acknowledge. -/
  | forceSet (mb : Mb)
  /-- FORCE_CLEAR (R147): Mailbox command that removes one force entry or all of them, without a session. -/
  | forceClear (mb : Mb)
  /-- FORCE_LIST (R453): Mailbox command that returns the force table entries. -/
  | forceList (mb : Mb)
  /-- AXIS_STEP (R33): Mailbox command that adds a signed delta to an axis offset, subject to the AX0 step limit and source writer rules. -/
  | axisStep (mb : Mb)
  /-- AXIS_SCALE (R32): Mailbox command that writes a new axis scale as a rate change with offset compensation. -/
  | axisScale (mb : Mb)
  /-- AXIS_SOURCE (R35): Mailbox command that selects an axis source, input and edges, optionally with a starting value that makes a step. -/
  | axisSource (mb : Mb)
  /-- TRIG_ARM (R50): Mailbox command that arms or re-arms one of the 64 hardware triggers with kind, axis, value, period and actions. -/
  | trigArm (mb : Mb)
  /-- TRIG_CANCEL (R53): Mailbox command that cancels a host trigger and reports whether a ONESHOT had fired. -/
  | trigCancel (mb : Mb)
  /-- NET_STATUS (R454): Mailbox command that returns the plane, port, lease, group or tunnel record that its selector names. -/
  | netStatus (mb : Mb)
  /-- SLOT_CLAIM (R295): Mailbox command that claims a spare slot on the named planes and waits for the GRANT decision. -/
  | slotClaim (mb : Mb)
  /-- SLOT_CLAIM_TIMEOUT (R295): A SLOT_CLAIM ends with TIMEOUT after 16 cluster cycles without a decision. -/
  | slotClaimTimeout (mb : Mb)
  /-- PORT_RELEASE (R295): Mailbox command that ends a star port's quarantine or revokes its leases. -/
  | portRelease (mb : Mb)
  /-- PTP_STATUS (R301): Mailbox command that returns the PTP port, state, identities, offset, path delay and counts. -/
  | ptpStatus (mb : Mb)
  /-- REC_FLUSH (R359): Mailbox command that starts a flush and responds once every record buffered at the command is in the store. -/
  | recFlush (mb : Mb)
  /-- REC_CLEAR (R359): Mailbox command that removes every record, clears LOST, STORE_FULL and suppressed counters and places a CLEARED record. -/
  | recClear (mb : Mb)
  /-- REC_INFO (R359): Mailbox command that returns recorder sequence numbers, fill levels and per-definition counts. -/
  | recInfo (mb : Mb)
  /-- PWR_VOTE (R420): Mailbox command that sets the HOST vote on MB0 or the REMOTE vote on MB1. -/
  | pwrVote (mb : Mb)
  /-- PWR_STATUS (R420): Mailbox command that returns the power registers, votes, MIN_ON remaining and power counts. -/
  | pwrStatus (mb : Mb)
  /-- DUTY_SET (R420): Mailbox command that replaces the duty-cycled watch fields until the next swap or OFF. -/
  | dutySet (mb : Mb)
  /-- PAIR_STATUS (R397): Mailbox command that returns the strap, role, EPOCH, pair state, partner HEARTBEAT and pairing counts. -/
  | pairStatus (mb : Mb)
  /-- PAIR_SWITCH (R397): Mailbox command that makes a planned switch of control with reason 3. -/
  | pairSwitch (mb : Mb)
  /-- PAIR_RESYNC (R397): Mailbox command that requests a full copy of all tasks and clears FAILED. -/
  | pairResync (mb : Mb)
  /-- FLOW_OPEN (R263): Mailbox command that starts an unbound flow, refused when the flow buffers would exceed their limit. -/
  | flowOpen (mb : Mb)
  /-- FLOW_CLOSE (R263): Mailbox command that stops an unbound flow. -/
  | flowClose (mb : Mb)
  /-- MIX_SET (R259): Mailbox command that sets a new gain target on a mix point not owned by a task. -/
  | mixSet (mb : Mb)
  /-- CH_STATUS (R243): Mailbox command that returns a channel's status word, entry, switching times and counters. -/
  | chStatus (mb : Mb)
  /-- CH_TEST (R243): Mailbox command that asks the lanes to request a dark test of a named output now and reports its verdict. -/
  | chTest (mb : Mb)
  /-- SELFTEST_RUN (R165): Mailbox command that runs the comparator injection test on every party of an ACTIVE lane and the hub voter. -/
  | selftestRun (mb : Mb)
  /-- DBG_ATTACH (R177): Mailbox command that takes one ACTIVE lane into DEBUG in RUN or FREEZE at the next harvest of T0. -/
  | dbgAttach (mb : Mb)
  /-- DBG_DETACH (R178): Mailbox command that ends DEBUG and starts the lane's rejoin path. -/
  | dbgDetach (mb : Mb)
  /-- LANE_STATUS (R453): Mailbox command that returns a lane's state, pans, error counts, voting counts and checkpoint generations, or frozen memory. -/
  | laneStatus (mb : Mb)
  /-- TUNNEL_OPEN (R339): Mailbox command that opens a tunnel endpoint on an interface toward a peer endpoint. -/
  | tunnelOpen (mb : Mb)
  /-- TUNNEL_CLOSE (R339): Mailbox command that closes a tunnel endpoint and discards its queued frames. -/
  | tunnelClose (mb : Mb)
  /-- FENCE_CLEAR (R330): Mailbox command that sends a RESYNC to a fenced node and clears the fence on RESYNC_DONE. -/
  | fenceClear (mb : Mb)
  /-- FENCE_CLEAR_TIMEOUT (R330): A FENCE_CLEAR without RESYNC_DONE within REQ_TIMEOUT fails with TIMEOUT and the fence stays. -/
  | fenceClearTimeout (mb : Mb)
  /-- BAD_CMD (R446): A command with a code reserved at level 3 ends with BAD_CMD. -/
  | badCmd (mb : Mb)
  /-- MB_DATA_WRITE (R446): A word written to MB_DATA enters the request FIFO, or is discarded when the mailbox is not RECEIVING or the FIFO is full. -/
  | mbDataWrite (mb : Mb) (src : Source) (w : Word) (drained : Nat)
  /-- MB_DATA_READ (R446): A read of MB_DATA returns the next response word, or zero beyond RLEN. -/
  | mbDataRead (mb : Mb) (src : Source)
  /-- MB_CTRL_ACK (R445): Writing ACK in DONE returns the mailbox to IDLE and discards any unread response. -/
  | mbCtrlAck (mb : Mb) (src : Source)
  /-- MB_CTRL_ABORT (R445): Writing ABORT in RECEIVING discards the request and returns the mailbox to IDLE. -/
  | mbCtrlAbort (mb : Mb) (src : Source)
  /-- READ (R435): Host port opcode 0xA1 that returns the access status and the addressed words in 1-bit form. -/
  | read (addr : BitVec 24) (count : Nat) (tm : HostTiming)
  /-- WRITE (R435): Host port opcode 0xA2 that writes words in 1-bit form into the host write buffer. -/
  | write (addr : BitVec 24) (words : List Word) (tm : HostTiming)
  /-- QUAD_READ (R435): Host port opcode 0xA5 that reads words in 4-bit form. -/
  | quadRead (addr : BitVec 24) (count : Nat) (tm : HostTiming)
  /-- QUAD_WRITE (R435): Host port opcode 0xA6 that writes words in 4-bit form. -/
  | quadWrite (addr : BitVec 24) (words : List Word) (tm : HostTiming)
  /-- STATUS (R435): Host port opcode 0xAF that returns the current status byte repeatedly. -/
  | status (tm : HostTiming)
  /-- BAD_OPCODE (R435): An unknown host port opcode is ignored after its status byte and recorded in HP_STAT. -/
  | badOpcode (op : Byte)
  /-- REGISTER_WRITE (R8): A write to a register without a row of its own acts on its fields according to their access codes. -/
  | registerWrite (port : Port) (addr : BitVec 24) (w : Word)
  /-- RC_FIELD_READ (R9): A host read that covers an RC field returns its value and clears it. -/
  | rcFieldRead (port : Port) (addr : BitVec 24)
  /-- SNAP (R41): Writing SNAP in AX_SNAP latches value, raw count, offset and scale of all four axes in the same tick. -/
  | snap
  /-- AXN_VAL_HI_READ (R41): A read of AXn_VAL_HI latches the four quantities of axis n unless AX_SNAP was written since. -/
  | axnValHiRead (n : Fin 4)
  /-- MOD_HARVEST_HI_READ (R442): A read of MOD_HARVEST_HI latches MOD_HARVEST_LO. -/
  | modHarvestHiRead
  /-- MBXN_VAL_READ (R442): A read of MBXn_VAL latches MBXn_QUAL. -/
  | mbxnValRead (n : Fin 16)
  /-- REC_CURSOR_LO_WRITE (R357): A write to REC_CURSOR_LO makes the 64-bit recorder cursor take effect and empties the read latch. -/
  | recCursorLoWrite (port : Port) (w : Word)
  /-- REC_DATA_READ (R358): A read of REC_DATA latches the record at or after the cursor when the latch is empty and returns its next word. -/
  | recDataRead (port : Port)
  /-- FLT_CURSOR_LO_WRITE (R372): A write to FLT_CURSOR_LO makes the 64-bit fault log cursor take effect and empties the read latch. -/
  | fltCursorLoWrite (port : Port) (w : Word)
  /-- FLT_LOG_DATA_READ (R372): A read of FLT_LOG_DATA latches the fault record at or after the cursor when needed and returns its next word. -/
  | fltLogDataRead (port : Port)
  /-- CLEAR (R372): Writing CLEAR in FLT_SUM sets LATCHED and COUNT to zero. -/
  | clear
  /-- BR_LOG_DATA_READ (R331): A read of BR_LOG_DATA returns the next word of the oldest bridge log entry and removes the entry after word 4. -/
  | brLogDataRead
  /-- BR_PAGEN_CFG_WRITE (R320): A write to a page configuration register sets class and node and sets EN only where the conditions permit. -/
  | brPagenCfgWrite (n : Fin 16) (w : Word)
  /-- REMOTE_WINDOW_READ (R326): A host read of an enabled page allocates or repeats a delayed read entry and returns RETRY or the completed words. -/
  | remoteWindowRead (addr : BitVec 24) (count : Nat)
  /-- REMOTE_WINDOW_WRITE (R326): A host write to a LOCAL page is a delayed non-posted write completed by a matching repeat. -/
  | remoteWindowWrite (addr : BitVec 24) (words : List Word)
  /-- POST (R328): A host write to a TRAIN page takes a credit and a queue entry and is sent as a posted write with the next tag. -/
  | post (addr : BitVec 24) (words : List Word)
  /-- TIMING_TICK (R34): Each 2 ns tick advances raw counters, applies one pending offset or scale write per axis and evaluates triggers and releases. -/
  | timingTick
  /-- TRIGGER_FIRING (R51): A trigger whose target or lattice point is crossed fires, produces its report and performs its actions. -/
  | triggerFiring (n : Fin 64)
  /-- RELEASE (R127): A release generator fires for a task, latching and sending the release stamp and building the task's image. -/
  | release (t : Fin 16)
  /-- TIMING_INPUT_EDGE (R45): An accepted edge on a timing input is timestamped, captured into its queue and counted on the axes it feeds. -/
  | timingInputEdge (ti : Fin 4) (rising : Bool) (width : Nat) (both : Bool) (half : Bool)
  /-- ZERO_CROSSING (R38): A zero-crossing report reaches the timing unit and sets the AX2 raw count to the next whole cycle or is discarded as early. -/
  | zeroCrossing (ch : Fin 16)
  /-- LOST (R38): No crossing within 2.5 periods sets LOST on AX2, holds the raw count and makes the quality STALE. -/
  | lost
  /-- HOLDOVER_LIMIT (R36): AX0 in HOLDOVER beyond the holdover limit becomes STALE. -/
  | holdoverLimit
  /-- RELEASE_STAMP_ARRIVAL (R68): A lane receives a release stamp, writes stamp and image, initialises counters and enqueues the task's ready instances. -/
  | releaseStampArrival (a : StampArrival)
  /-- PAN_DISPATCH (R74): An idle pan takes the head of its own queue or rakes another block's queue and begins an instance. -/
  | panDispatch (l : Lane) (block pan : Fin 16) (xbar : Xbar)
  /-- INSTANCE_COMMIT (R69): A pan completes an instance, compares its two datapath copies and commits outputs and state together. -/
  | instanceCommit (l : Lane) (block pan : Fin 16) (agree : Bool) (xbar : Xbar)
  /-- WAKE_MESSAGE (R70): A decrement from another block arrives over the crossbar, reduces DEP_LIVE and enqueues the consumer at zero. -/
  | wakeMessage (l : Lane) (k : Nat) (xbar : Xbar)
  /-- COMMIT_TIMEOUT (R83): A pan that does not commit within 256 clocks of dispatch is retired and its instance requeued. -/
  | commitTimeout (l : Lane) (block pan : Fin 16)
  /-- ECC_ERROR (R83): An ECC error in a lane memory is corrected, or if uncorrectable stops all the lane's tasks. -/
  | eccError (l : Lane) (mem : LaneMem) (block : Fin 16) (addr : Nat) (fixed : Bool)
  /-- TASK_WATCHDOG_EXPIRY (R138): A lane's task watchdog expires after DEADLINE and the lane reports the expiry to the hub. -/
  | taskWatchdogExpiry (l : Lane) (t : Fin 16)
  /-- LANE_FRAME_ARRIVAL (R155): A frame's last byte reaches a comparator, which checks it for validity and compares it. -/
  | laneFrameArrival (p : Party) (l : Lane) (t : Fin 16) (fate : FrameFate)
  /-- VOTE_DEADLINE (R152): The skew limit after the first valid frame expires and the vote completes with the frames present. -/
  | voteDeadline (p : Party) (t : Fin 16)
  /-- COMPARATOR_NO_VERDICT (R163): A comparator without a verdict 10 µs after its vote deadline is treated as outvoted by the other parties. -/
  | comparatorNoVerdict (p : Party) (t : Fin 16)
  /-- CHECKPOINT_PAGE (R169): A checkpoint page arrives at the hub, is written to its non-agreed slot and checked against the listed CRCs. -/
  | checkpointPage (fate : PageFate)
  /-- RETAINED_WRITE (R150): The hub writes dirty retained lines to the inactive buffer and then its header, making it active. -/
  | retainedWrite
  /-- RESTART_SELFTEST_DONE (R171): Lanes in a restart finish their self-test and injection patterns and begin loading checkpoint pages. -/
  | restartSelftestDone (l : Lane) (fail : Option Nat) (retired : List (Fin 16 × Fin 16))
  /-- CHECKPOINT_LOAD_DONE (R171): The checkpoint load of a restart or power return completes and the lanes await the first release. -/
  | checkpointLoadDone
  /-- RESET_HOLD_EXPIRY (R172): An excluded lane's 100 µs reset hold ends and it enters REJOINING or stays EXCLUDED by REJOIN_LIMIT. -/
  | resetHoldExpiry (l : Lane)
  /-- REJOIN_LOAD_DONE (R173): The rejoining lane's self-test and checkpoint load complete and it waits for catch-up. -/
  | rejoinLoadDone (l : Lane) (ok : Bool)
  /-- INJECTION_TEST_TIMER (R165): After 24 hours without a SELFTEST_RUN the injection test starts by itself. -/
  | injectionTestTimer
  /-- INJECTION_TEST_RESULT (R165): The injection test completes and each failing party takes the consequence of its mode. -/
  | injectionTestResult (seen : List InjectSeen)
  /-- ACK_EDGE (R185): A valid acknowledge edge ends on the pin or an acknowledge channel and is reported by a lane or timed by the reset controller. -/
  | ackEdge (rcv : AckReceiver) (src : AckSource) (highNs : Nat) (stepped : Bool)
  /-- ACK_REPORT (R185): A lane's acknowledge report reaches the hub, which accepts the acknowledge when two ACTIVE lanes report within 10 ms. -/
  | ackReport (l : Lane) (src : AckSource)
  /-- ACK_JAMMED (R185): An acknowledge source held high beyond 2 s sets ACK_JAMMED and is ignored. -/
  | ackJammed (rcv : AckReceiver) (src : AckSource)
  /-- ACK_JAM_CLEAR (R185): ACK_JAMMED clears after the input has been low without interruption for 1 s. -/
  | ackJamClear (src : AckSource)
  /-- SAFE_TELEGRAM_RECEIVE (R193): The hub stamps a received safe telegram copy and keeps the newest copy of each plane per connection. -/
  | safeTelegramReceive (p : Plane) (bytes : List Byte)
  /-- STAGING_COMPLETE (R218): Staging of an ONLINE activation completes with the digests confirmed and PROG_ACTIVATE responds OK. -/
  | stagingComplete (same : List (Lane × Bool))
  /-- SWITCH_WITHOUT_RELEASE (R219): A task not released within 1 s after the swap point switches at its next rest without a release. -/
  | switchWithoutRelease (t : Fin 16)
  /-- BANK_DIGEST_REPORT (R214): A lane reports the SHA-256 of the shadow bank or staged image, deciding whether the swap proceeds. -/
  | bankDigestReport (l : Lane) (same : Bool)
  /-- SAMPLE_STROBE (R229): Every 10 µs the field stage samples and filters each input channel and sends a sample frame on all drive links. -/
  | sampleStrobe (mv : List Nat) (ma : List Nat)
  /-- STUCK (R232): An input whose val has been 1 for STUCK_TIME sets STUCK with quality INVALID. -/
  | stuck (ch : Fin 32)
  /-- SAMPLE_FRAME_RECEIVE (R240): A lane accepts a sample frame and takes its sample set and the status of the rotated channel. -/
  | sampleFrameReceive (l : Lane) (good : Bool)
  /-- DRIVE_FRAME_SEND (R240): A lane sends a drive frame at least every 100 µs. -/
  | driveFrameSend (l : Lane)
  /-- DRIVE_FRAME_RECEIVE (R235): The field stage accepts a lane's drive frame and votes each channel and group switch 2oo3. -/
  | driveFrameReceive (l : Lane) (good : Bool)
  /-- DRIVE_LINK_TIMEOUT (R235): No valid drive frame from a lane for 500 µs makes its command count as de-energise. -/
  | driveLinkTimeout (l : Lane)
  /-- DISAGREE (R235): Lane commands for a channel unequal for over 1 ms set DISAGREE, and a lane in the minority for 10 ms is recorded. -/
  | disagree (ch : Fin 32) (times : DisagreeTimes)
  /-- SUPPLY_FAULT (R225): A group supply leaving its window switches off the group's outputs and sets SUPPLY_FAULT. -/
  | supplyFault (g : Grp)
  /-- SUPPLY_GOOD (R225): A supply good for 10 ms without interruption clears SUPPLY_FAULT and returns outputs to their voted state. -/
  | supplyGood (g : Grp)
  /-- GROUP_OVERLOAD (R226): Group current above 4.4 A for over 10 ms switches off every output of the group and latches OVERLOAD. -/
  | groupOverload (g : Grp)
  /-- OVERLOAD (R236): An output at its current limit or above 0.55 A for over 10 ms is switched off and latched. -/
  | overload (ch : Fin 32) (limit : Bool)
  /-- OVERTEMP (R236): A switch junction above 150 °C switches the output off and latches OVERTEMP. -/
  | overtemp (ch : Fin 32)
  /-- TRIP_LATCH_CLEAR (R236): An OVERLOAD or OVERTEMP latch clears after the voted ON has been 0 for 10 ms, or after 1 s with RETRY. -/
  | tripLatchClear (ch : Fin 32) (retry : Bool) (cool : Bool)
  /-- OPEN (R236): With OPEN_EN, an open-wire condition held for OPEN_T shows OPEN in the status. -/
  | openWire (ch : Fin 32) (seen : OpenSense)
  /-- RB_ERR (R236): A contact read back wrong 50 µs or 200 µs after a vote decision sets RB_ERR. -/
  | rbErr (ch : Fin 32) (wrong : Bool)
  /-- TEST_PERIOD (R237): A lane's test scheduler sets a channel's TREQ bit in three consecutive drive frames every TEST_PERIOD. -/
  | testPeriod (l : Lane) (ch : Fin 32)
  /-- TEST_WIDTH_EXPIRY (R238): TEST_WIDTH expires without a pass, TEST_FAIL is latched and the switch closes again. -/
  | testWidthExpiry (ch : Fin 32)
  /-- TEST_OVERDUE (R237): A channel with no passed test for 4 × TEST_PERIOD sets TEST_OVERDUE. -/
  | testOverdue (ch : Fin 32)
  /-- GSW_TEST (R239): The group safety switch is dark-tested and a failure sets GSW_FAIL. -/
  | gswTest (g : Grp) (phase : GswPhase)
  /-- MOD_STUCK (R245): A modulator data line holding one level for 4,096 clocks sets MOD_STUCK. -/
  | modStuck (ch : Fin 16)
  /-- MEASUREMENT_BLOCK (R252): At the end of each MEAS_WINDOW a filter channel forms its measurement block. -/
  | measurementBlock (ch : Fin 16) (bits : List Bool)
  /-- MIXER_FRAME (R257): At each lattice time L(n) the mixer computes one frame from its sources with ramped gains. -/
  | mixerFrame (bits : List (Fin 16 × List Bool)) (tdmi : List Word)
  /-- FLOW_PACKET_RECEIVE (R261): A received flow packet's samples are placed in the flow ring by presentation time or discarded and counted. -/
  | flowPacketReceive (node : Nat) (body : List Byte)
  /-- FLOVIS_FRAME_INGRESS (R285): A star's sluice judges a frame at an ingress port and forwards or blocks it. -/
  | flovisFrameIngress (port : Fin 9) (bytes : List Byte)
  /-- FRAME_CUT (R287): A forwarded frame still running at the end of its slot or window is cut with a complemented FCS. -/
  | frameCut (port : Fin 9) (slotEnd : Bool)
  /-- QUARANTINE_END (R288): QUAR_CYCLES cluster cycles after the next boundary the quarantine ends and the counter is zero. -/
  | quarantineEnd (port : Fin 9)
  /-- FLOVIS_FRAME_RECEIVE (R271): A device accepts a Flovis DATA frame and takes its containers, or discards and counts it. -/
  | flovisFrameReceive (p : Plane) (bytes : List Byte)
  /-- REFERENCE_RECEIVE (R280): A received REFERENCE gives θ, feeds the AX0 discipline and drives the node state. -/
  | referenceReceive (p : Plane) (bytes : List Byte)
  /-- COLDSTART_RECEIVE (R282): A COLDSTART from another device restarts the listen timer or makes a contender yield. -/
  | coldstartReceive (p : Plane) (bytes : List Byte)
  /-- LISTEN_TIMER_EXPIRY (R282): The listen timer expires and the device sends COLDSTART and enters CONTEND when the mode permits. -/
  | listenTimerExpiry
  /-- CONTENTION_END (R282): T_B passes after COLDSTART with no other frame and the device becomes acting time master. -/
  | contentionEnd
  /-- REFERENCE_LOSS (R282): No REFERENCE on either plane for 4 basic cycles returns the node to LISTEN. -/
  | referenceLoss (p : Option Plane)
  /-- SLOT_TRANSMIT (R275): At a slot's start minus its path delay the device sends its frame for the slot. -/
  | slotTransmit (slot : Nat)
  /-- RANK_DEADLINE (R278): A backup sends REFERENCE when no lower-rank REFERENCE has arrived by its rank deadline. -/
  | rankDeadline (p : Plane)
  /-- DELAY_REQ (R279): A device sends one DELAY_REQ per cluster cycle in an OPEN window on each measured port. -/
  | delayReq (port : Fin 9)
  /-- DELAY_RESP (R279): A received DELAY_RESP updates the mean link delay of the port. -/
  | delayResp (port : Fin 9) (bytes : List Byte)
  /-- CLAIM (R290): The root star consumes a CLAIM and decides GRANTED, TAKEN or NOT_ELIGIBLE. -/
  | claim (port : Fin 9) (bytes : List Byte)
  /-- GRANT (R291): A received GRANT updates leases at a device or a sub-star's sluices. -/
  | grant (p : Plane) (bytes : List Byte)
  /-- LEASE_LAPSE (R291): A lease lapses after 256 cluster cycles without a forwarded frame of its holder. -/
  | leaseLapse (p : Plane) (slot : Nat)
  /-- SCHEDULE_SWITCH (R292): At the announced SWITCH_COUNT boundary devices holding the announced schedule switch to it. -/
  | scheduleSwitch
  /-- PTP_SYNC (R301): A received Sync and Follow_Up give offsetFromMaster, applied as AX0's measured error under source PTP. -/
  | ptpSync (m : PtpSyncMsg)
  /-- PTP_DELAY_RESP (R301): A delay response updates meanPathDelay. -/
  | ptpDelayResp (m : PtpDelayMsg)
  /-- ANNOUNCE (R297): A received Announce feeds the best-master algorithm. -/
  | announce (m : PtpAnnounceMsg)
  /-- ANNOUNCE_RECEIPT_TIMEOUT (R297): No Announce within the timeout changes the port state and is recorded. -/
  | announceReceiptTimeout
  /-- PORT_ALT_MOVE (R298): PORT losing link moves the PTP instance to PORT_ALT, restarting it in LISTENING. -/
  | portAltMove
  /-- PORT_RETURN (R298): PORT holding link for 10 s returns the instance to PORT. -/
  | portReturn
  /-- PTP_MASTER_SEND (R301): As master the module sends Sync and Announce at their configured intervals. -/
  | ptpMasterSend (isAnnounce : Bool)
  /-- TOPOLOGY (R303): A received TTDP TOPOLOGY frame updates the module signals. -/
  | topology (line : Fin 2) (m : TopologyMsg)
  /-- TOPOLOGY_TIMEOUT (R303): No TOPOLOGY frame on either line for 1 s makes the topology signals STALE. -/
  | topologyTimeout
  /-- TRDP_PD_RECEIVE (R314): A received process data frame is checked and accepted into the group store by sequence. -/
  | trdpPdReceive (line : Fin 3) (h : PdHeader) (data : List Byte)
  /-- TRDP_PR_RECEIVE (R306): A received Pr is answered with a Pp of the current content of a published group. -/
  | trdpPrReceive (line : Fin 3) (src : Word) (h : PdHeader)
  /-- TRDP_PUBLISH (R306): At each lattice point of a cyclic group the module pushes Pd, or sends Pr for a PULL subscription. -/
  | trdpPublish (g : Nat)
  /-- TRDP_MR_RECEIVE (R307): An Mr with MD_COMID carries an MB1 request, answered by an Mp, BUSY or Me. -/
  | trdpMrReceive (src : Word) (comId : Word) (data : MdData)
  /-- TRDP_MN_RECEIVE (R307): An Mn with MD_COMID is executed as an MB1 command without an answer. -/
  | trdpMnReceive (src : Word) (comId : Word) (data : MdData)
  /-- FRESHNESS_EVALUATION (R315): Every 10 µs the hub ages each subscribed group and presents its signals with value and nibble. -/
  | freshnessEvaluation
  /-- ARP_EXPIRY (R304): An ARP entry unconfirmed for 60 s expires, and an unresolved frame is dropped after 1 s. -/
  | arpExpiry (ip : Word) (unresolved : Bool)
  /-- REASSEMBLY_TIMEOUT (R304): An incomplete fragmented datagram is discarded after 1 s. -/
  | reassemblyTimeout (id : Nat)
  /-- INBOUND_REQUEST (R333): The inbound engine performs an arriving remote access request in tag order and answers it. -/
  | inboundRequest (node : Nat) (body : List Byte)
  /-- REMOTE_ACCESS_RESPONSE (R326): A READ_DATA or WRITE_RESULT completes its delayed entry. -/
  | remoteAccessResponse (node : Nat) (body : List Byte)
  /-- CREDIT (R329): A CREDIT response returns credits and fences the node on a far-side error. -/
  | credit (node : Nat) (body : List Byte)
  /-- RESYNC (R330): A target receives a RESYNC, clears its fence for the source and answers RESYNC_DONE. -/
  | resync (node : Nat) (tag : Nat)
  /-- RESYNC_DONE (R330): RESYNC_DONE clears FENCED, restores 32 credits and completes FENCE_CLEAR. -/
  | resyncDone (node : Nat) (tag : Nat)
  /-- REQ_TIMEOUT (R327): No response or credit within REQ_TIMEOUT completes the entry with TIMEOUT, fencing for a POST. -/
  | reqTimeout (what : BridgeWait)
  /-- DISCARD_MS (R327): A completion not collected within DISCARD_MS is discarded and its entry freed. -/
  | discardMs (entry : Fin 16)
  /-- SEQ_GAP (R334): A POST held 10 ms ahead of a missing tag makes the target report SEQ_GAP and fence. -/
  | seqGap (node : Nat)
  /-- FOREIGN_FRAME_RECEIVE (R340): A frame accepted on a CAN or serial interface is wrapped in a tunnel container with its receive time. It began `ago` ns before. -/
  | foreignFrameReceive (iface : Fin 4) (f : ForeignFrame) (ago : Nat)
  /-- TUNNEL_CONTAINER_RECEIVE (R342): A received tunnel container is accepted for an open endpoint and queued for replay. -/
  | tunnelContainerReceive (node : Nat) (body : List Byte)
  /-- REPLAY (R342): At RX_TIME plus REPLAY_DELAY a queued foreign frame is started on the endpoint's interface. -/
  | replay (ep : Fin 32) (ok : Bool)
  /-- BUS_OFF (R343): A CAN interface enters or leaves bus-off. -/
  | busOff (iface : Fin 4) (entered : Bool)
  /-- RECORDER_FIRING (R350): A definition fires and its snapshot is captured in a staging entry with the next SEQ, or lost when staging is full. -/
  | recorderFiring
  /-- STAGED_MOVE (R350): A staged record moves into the record buffer once there is room. -/
  | stagedMove
  /-- FLUSH_START (R352): A flush starts on its first pending condition when no flush is running. -/
  | flushStart
  /-- FLUSH_RECORD_WRITTEN (R352): A record is written to the store, the control area advanced and its buffer space freed. -/
  | flushRecordWritten
  /-- RECORD_AGE (R352): A buffered record becoming 1 s old starts a flush. -/
  | recordAge
  /-- FAULT_RECORD (R365): A fault record enters its region's queue, or displaces or is lost into the overflow record. -/
  | faultRecord (f : FaultIn)
  /-- FAULT_HANDLE (R364): A free region handler takes the next record, performs its software part and writes it to the fault log. -/
  | faultHandle (r : Region) (hold w1 w2 : Bool)
  /-- SUPERVISOR_WATCHDOG (R361): The supervisor not servicing its watchdog for 50 ms halts the lanes and restarts the supervisor. -/
  | supervisorWatchdog
  /-- LEDGER_IMBALANCE (R371): A conserved quantity out of balance beyond its bound is an S2 fault. -/
  | ledgerImbalance (row : Fin 9)
  /-- POWER_FAIL (R409): PF_N low or VSYS low is detected and the power-fail sequence runs to OFF. -/
  | powerFail (vsys : Bool)
  /-- POWER_RETURN (R411): VSYS good and PF_N high for 10 ms power AON up and start bring-up. -/
  | powerReturn (vsysMv : Nat)
  /-- DOMAIN_SHED_STEP (R404): A shed step of one or more domains ends at its stable point and the next step follows. -/
  | domainShedStep
  /-- DOMAIN_RESTORE (R405): A domain finishes its restore delay and becomes usable. -/
  | domainRestore (res : RestoreResult)
  /-- MIN_ON_EXPIRY (R403): A domain on and not demanded reaches MIN_ON and its shed begins. -/
  | minOnExpiry (d : Fin 5)
  /-- WAKE_PORT_STOP (R413): An I2C transaction addressed to the wake port ends at STOP and wakes, sets the HOST vote or is read. -/
  | wakePortStop (tx : WakeTx)
  /-- WAKE_INPUT (R414): A wake input changes to active and holds for WAKE_FILTER, causing a SUPERVISOR wake. -/
  | wakeInput (ch : Fin 8)
  /-- WAKE_STUCK_CLEAR (R414): A wake input marked STUCK returns after 1 s inactive. -/
  | wakeStuckClear (ch : Fin 8)
  /-- AON_TICK (R412): TICK ms after the last shed the AON tick causes a SUPERVISOR wake. -/
  | aonTick
  /-- WAKE_FRAME (R415): A wake frame for the module's DEVICE_ID sets the REMOTE vote and wakes. -/
  | wakeFrame (payload : List Byte)
  /-- WAKE_HOLD_EXPIRY (R412): WAKE_HOLD after the latest wake the SUPERVISOR vote returns to BASE_MASK. -/
  | wakeHoldExpiry
  /-- DUTY_WATCH_CYCLE (R416): Every DUTY_PERIOD the AON sequencer powers the watch supplies, samples, compares and may wake. -/
  | dutyWatchCycle (mv : List (List Nat)) (bits : List Bool)
  /-- PARTNER_VOTE_LOSS (R401): The PARTNER vote becomes 0x00 1 s after LINK_DOWN. -/
  | partnerVoteLoss
  /-- FIRMWARE_VERIFIED (R424): The boot ROM verifies a firmware slot and ends B1, or sets BOOT_FAIL. -/
  | firmwareVerified (ok0 ok1 : Bool)
  /-- SUPERVISOR_START (R425): B2 ends after reading the control areas and the module enters LIMITED. -/
  | supervisorStart (strapPrimary : Bool)
  /-- OBJECT_VERIFICATION (R426): L1 verifies the bank and program again and rebuilds and checks the program. -/
  | objectVerification
  /-- LANE_RELEASE (R427): With program and bank verified, lanes restored and AUTO_START or START, the lanes are released. -/
  | laneRelease
  /-- PROGRAM_LOAD_DONE (R428): L2 loads the program into each lane and checks block-local CRCs. -/
  | programLoadDone (fails : List Lane)
  /-- RETAINED_RESTORE (R151): L4 restores retained pages by key from the valid buffer of higher sequence. -/
  | retainedRestore
  /-- ADMISSION (R429): At the first lattice point of T0 after L4 the passing lanes become ACTIVE and the mode becomes voted or HALTED. -/
  | admission
  /-- STAGE_TIME_LIMIT (R429): Bring-up exceeding its stage limit, or L2 to L4 beyond 1 s, enters HALTED. -/
  | stageTimeLimit
  /-- JTAG_TRST_HIGH (R458): JTAG_TRST_N high makes the module enter HALTED at its next harvest. -/
  | jtagTrstHigh (high : Bool)
  /-- HELLO (R382): A received HELLO compares digests and decides pairing and role. -/
  | hello (h : JaranHead) (payload : List Byte)
  /-- HEARTBEAT (R388): A received HEARTBEAT carries the partner's state and drives role conflicts, mismatch outcomes and takeover conditions. -/
  | heartbeat (h : JaranHead) (payload : List Byte)
  /-- IMAGE (R385): A complete IMAGE frame releases the task in the standby with the copied stamp and image. -/
  | imageFrame (h : JaranHead) (m : ImageMsg)
  /-- OUTPUT (R388): A received OUTPUT frame is compared with the standby's voted output of the same release. -/
  | outputFrame (h : JaranHead) (m : OutputMsg)
  /-- PAGE (R385): A received PAGE is written into the standby's checkpoint store as an agreed slot. -/
  | pageFrame (h : JaranHead) (payload : List Byte)
  /-- SWITCH (R392): A received SWITCH proposes a planned switch at a release of T0 and is answered with SWITCH_ACK. -/
  | switchFrame (h : JaranHead) (rel reason : Nat)
  /-- SWITCH_ACK (R392): A received SWITCH_ACK confirms the planned switch release. -/
  | switchAck (h : JaranHead) (rel : Nat)
  /-- SWITCH_ACK_TIMEOUT (R392): No SWITCH_ACK within one period of T0 abandons the switch. -/
  | switchAckTimeout
  /-- JARAN_RESYNC (R387): A received RESYNC makes the controlling member send all pages of the named tasks. -/
  | jaranResync (h : JaranHead) (mask : BitVec 16)
  /-- JARAN_COPY (R386): At step 6 the controlling member sends dirty pages within the budget, carrying the rest as LAGGING. -/
  | jaranCopy
  /-- LINK_DOWN (R379): No valid comma or frame for 10 µs declares the Jaran link down. -/
  | linkDown
  /-- LINK_UP (R379): Two valid commas declare the Jaran link up. -/
  | linkUp
  /-- ROLE_TIMEOUT (R383): No partner seen within 50 ms of LIMITED lets the module take CONTROLLING after the Flovis check. -/
  | roleTimeout
  /-- TAKEOVER (R390): Three missed HEARTBEAT intervals with no pair DATA seen make the standby raise EPOCH and take control. -/
  | takeover
  /-- LANE_THERMAL_TRIP (R484): A lane chip above 125 °C holds the lane in reset until below 110 °C. -/
  | laneThermalTrip (l : Lane)
  /-- OUTPUT_BUDGET_EXPIRY (R388): The OUTPUT for a release has not arrived within the task's budget, so MISMATCH is set in the next HEARTBEAT. -/
  | outputBudgetExpiry (t : Fin 16)
  /-- LANE_JUNCTION_COOLED (R484): A tripped lane chip's junction falls below 110 °C and the lane may rejoin. -/
  | laneJunctionCooled (l : Lane)
  /-- ETHERNET_LINK_CHANGE (R303): A port's link comes up or goes down; this updates module signal 8,189 and IP routing, and holds down a link at a speed SPEED does not permit. -/
  | ethernetLinkChange (port : Fin 11) (speed : Nat)
  /-- MOD_STUCK_CLEAR (R245): MOD_STUCK clears after 4,096 clocks in which the data line changed at least once in every 64. -/
  | modStuckClear (ch : Fin 16)
  /-- OPEN_AGE_EXPIRY (R285): A best-effort frame queued for an OPEN window is dropped after OPEN_AGE, freeing its descriptor and cells. -/
  | openAgeExpiry (desc : Nat)
  /-- EGRESS_COPY_LEFT (R286): The last egress copy of a frame leaves the switch and its descriptor and cells return to the free lists. -/
  | egressCopyLeft (e : EgressEnd)
  /-- PTP_DELAY_REQUEST_RECEIVE (R299): A received Delay_Req is answered with Delay_Resp, or a Pdelay_Req is answered on the port. -/
  | ptpDelayRequestReceive (port : Nat) (req : PtpReq) (t : DWord)
  /-- DELAY_REQ_RECEIVE (R279): A Flovis DELAY_REQ arrives on a device port and is answered with DELAY_RESP, and it is not forwarded. -/
  | delayReqReceive (port : Fin 9) (bytes : List Byte)
  /-- ARP_FRAME (R304): An ARP request or reply arrives and is answered or enters the ARP cache. -/
  | arpFrame (request : Bool) (ip target : Word) (mac : BitVec 48)
  /-- ICMP_ECHO_REQUEST (R304): An ICMP echo request arrives and the module sends an echo reply. -/
  | icmpEchoRequest (src dst : Word) (data : EchoMsg)
  /-- IGMP_QUERY (R304): An IGMP query arrives and the module sends membership reports for the multicast groups it subscribes. -/
  | igmpQuery (line : Fin 3)
  /-- REJOIN_SELFTEST_DONE (R173): A rejoining lane finishes its self-test, failing back to EXCLUDED or starting its checkpoint load. -/
  | rejoinSelftestDone (l : Lane) (fail : Option Nat) (retired : List (Fin 16 × Fin 16))
  /-- LONE_ACK_REPORT (R185): A lane's acknowledge report finds no second report within 10 ms and is discarded and counted. -/
  | loneAckReport (src : AckSource)
  /-- JARAN_BAD_CRC (R380): A Jaran frame with a wrong CRC is discarded and counted, and the standby enters SYNCING for every task. -/
  | jaranBadCrc
  /-- HELLO_SEND (R381): Each member sends HELLO every 1 ms until paired. -/
  | helloSend
  /-- HUB_THERMAL_TRIP (R484): The hub chip above 125 °C puts the module in HALTED. -/
  | hubThermalTrip
  /-- VHOLD_EXHAUSTED (R356): VHOLD fails during the power-fail sequence, records not yet named by the control area are lost, and PF_PENDING stays set. -/
  | vholdExhausted
  /-- PTP_DELAY_REQUEST_SEND (R297): The PTP instance sends Delay_Req or Pdelay_Req at its LOG_DELAY interval. -/
  | ptpDelayRequestSend
  /-- FORCE_ACKNOWLEDGE (R144): All three lanes have acknowledged a force table change, so FORCE_SET or FORCE_CLEAR responds OK and the change governs the next release. -/
  | forceAcknowledge
  /-- SUPERVISOR_RESTARTED (R361): The supervisor core completes its restart after a watchdog expiry, and the FAULT_N condition of R374 for the watchdog ends. -/
  | supervisorRestarted
  deriving DecidableEq, Repr

end Sys2Proof
end

