-- ==== Sys2Proof/Decode.lean ====
section
/-! DEFINITION. The words of the opcode table: every one of its rows gives no bits, since the module takes commands and fetches no
instruction, so no word spells a command (notes/assumptions 2). -/
namespace Sys2Proof

/-- The command that a word spells by the table's bits: none. -/
def decodeTableWord (_nbits _w : Nat) : Option Instr := none

end Sys2Proof
end

