-- ==== Sys2Proof/Machine/Bytes.lean ====
section
/-! DEFINITION. Bytes, words and lists: the byte order of the module's own formats (R4), CRC-32C and the Ethernet check
(00), CRC-64 of R191, and the canonical byte memories of R21. -/
namespace Sys2Proof.Machine

/-- The big-endian bytes of a 16-bit value (R4). -/
def be16 (n : Nat) : List Byte := [BitVec.ofNat 8 (n / 256), BitVec.ofNat 8 n]

/-- The big-endian bytes of a word (R4). -/
def beWord (w : Word) : List Byte :=
  [w.extractLsb' 24 8, w.extractLsb' 16 8, w.extractLsb' 8 8, w.extractLsb' 0 8]

/-- The big-endian bytes of a 64-bit value (R4). -/
def beDWord (v : DWord) : List Byte := beWord (hi32 v) ++ beWord (lo32 v)

/-- The big-endian bytes of a list of words (R4). -/
def beWords (ws : List Word) : List Byte := ws.flatMap beWord

/-- A number read from big-endian bytes (R4). -/
def beNat (bs : List Byte) : Nat := bs.foldl (fun n b => n * 256 + b.toNat) 0

/-- The n bytes at an offset of a byte string; bytes beyond its end are not there. -/
def slice (bs : List Byte) (off n : Nat) : List Byte := (bs.drop off).take n

/-- The number in the n bytes at an offset (R4). -/
def getNat (bs : List Byte) (off n : Nat) : Nat := beNat (slice bs off n)

/-- The byte at an offset, as a number; zero beyond the end. -/
def getByte (bs : List Byte) (off : Nat) : Nat := (bs.getD off 0).toNat

/-- The word at a byte offset (R4). -/
def getWord (bs : List Byte) (off : Nat) : Word := BitVec.ofNat 32 (getNat bs off 4)

/-- The 64-bit value at a byte offset (R4). -/
def getDWord (bs : List Byte) (off : Nat) : DWord := BitVec.ofNat 64 (getNat bs off 8)

/-- Bits [lo + n - 1 : lo] of a number (R5). -/
def bits (x lo n : Nat) : Nat := x / 2 ^ lo % 2 ^ n

/-- Bit i of a number (R5). -/
def bit (x i : Nat) : Bool := x.testBit i

/-- A flag as a number. -/
def b2n (b : Bool) : Nat := if b then 1 else 0

/-- The words of a byte string whose length is a multiple of 4; a shorter rest is padded with zeros. -/
def wordsOf : Nat → List Byte → List Word
  | 0, _ => []
  | n + 1, bs => if bs.isEmpty then [] else getWord (bs.take 4 ++ [0, 0, 0]) 0 :: wordsOf n (bs.drop 4)

/-- All of the words of a byte string. -/
def toWords (bs : List Byte) : List Word := wordsOf (bs.length / 4 + 1) bs

/-- Zero bytes. -/
def zeros (n : Nat) : List Byte := List.replicate n 0

/-- A number in two's complement on n bits. -/
def signed (n x : Nat) : Int := if x % 2 ^ n < 2 ^ (n - 1) then (x % 2 ^ n : Nat) else (x % 2 ^ n : Nat) - (2 ^ n : Nat)

/-- A list with the element at an index replaced by f of it. -/
def upd {α : Type} (l : List α) (i : Nat) (f : α → α) : List α :=
  match l, i with
  | [], _ => []
  | x :: xs, 0 => f x :: xs
  | x :: xs, i + 1 => x :: upd xs i f

/-- Insert or replace the value at a key of an association list. -/
def putKey {κ α : Type} [DecidableEq κ] (k : κ) (v : α) : List (κ × α) → List (κ × α)
  | [] => [(k, v)]
  | (k', v') :: l => if k' = k then (k, v) :: l else (k', v') :: putKey k v l

/-- The value at a key of an association list. -/
def getKey {κ α : Type} [DecidableEq κ] (k : κ) : List (κ × α) → Option α
  | [] => none
  | (k', v') :: l => if k' = k then some v' else getKey k l

/-- One bit of a reflected CRC of any width. -/
def crcBit {n : Nat} (poly c : BitVec n) : BitVec n := if c.getLsbD 0 then (c >>> 1) ^^^ poly else c >>> 1

/-- One byte of a reflected CRC. -/
def crcByte {n : Nat} (poly c : BitVec n) (b : Byte) : BitVec n :=
  let c := c ^^^ b.setWidth n
  crcBit poly (crcBit poly (crcBit poly (crcBit poly (crcBit poly (crcBit poly (crcBit poly (crcBit poly c)))))))

/-- CRC-32C: Castagnoli 0x1EDC_6F41, reflected, initial value and final XOR all ones (00). -/
def crc32c (bs : List Byte) : Word := bs.foldl (crcByte 0x82F63B78#32) 0xFFFFFFFF#32 ^^^ 0xFFFFFFFF#32

/-- The frame check sequence of IEEE 802.3: 0x04C1_1DB7, reflected (R18, R287). PRESUMED from the standard. -/
def ethFcs (bs : List Byte) : Word := bs.foldl (crcByte 0xEDB88320#32) 0xFFFFFFFF#32 ^^^ 0xFFFFFFFF#32

/-! ### Byte memories (R21): addresses strictly rising, no entry equal to what an unlisted address reads as -/

/-- What an unlisted byte of MRAM or flash reads as: the erased state of R202 (DESIGN CHOICE, notes/assumptions 10). -/
def unlisted : Byte := 0xFF

/-- The canonical form of a byte memory above an address. -/
def cellsWf : Nat → List Host.Cell → Bool
  | _, [] => true
  | lo, (a, b) :: m => decide (lo ≤ a) && decide (b ≠ unlisted) && cellsWf (a + 1) m

/-- The canonical form of a byte memory. -/
abbrev Memory.wf (m : List Host.Cell) : Prop := cellsWf 0 m = true

/-- Reading one byte. -/
def memRead (m : List Host.Cell) (a : Nat) : Byte :=
  match m with
  | [] => unlisted
  | (a', b) :: m => if a = a' then b else memRead m a

/-- Writing one byte, keeping the canonical form. -/
def memWrite (m : List Host.Cell) (a : Nat) (v : Byte) : List Host.Cell :=
  match m with
  | [] => if v = unlisted then [] else [(a, v)]
  | (a', b) :: m =>
    if a < a' then (if v = unlisted then (a', b) :: m else (a, v) :: (a', b) :: m)
    else if a = a' then (if v = unlisted then m else (a, v) :: m)
    else (a', b) :: memWrite m a v

/-- Writing bytes at rising addresses. -/
def memWrites (m : List Host.Cell) (a : Nat) : List Byte → List Host.Cell
  | [] => m
  | b :: bs => memWrites (memWrite m a b) (a + 1) bs

/-- Reading n bytes at rising addresses. -/
def memReads (m : List Host.Cell) (a n : Nat) : List Byte := (List.range n).map (fun i => memRead m (a + i))

/-- Erasing n bytes at an address: they read as unlisted (R202). -/
def memErase (m : List Host.Cell) (a n : Nat) : List Host.Cell := m.filter (fun c => c.1 < a || a + n ≤ c.1)

end Sys2Proof.Machine
end

