-- ==== Sys2Proof/Machine/Float.lean ====
section
/-! DEFINITION. IEEE 754 binary32 and binary64 with roundTiesToEven, by exact integer arithmetic and one rounding (R95). -/
namespace Sys2Proof.Machine

/-- A binary format: precision, least exponent of the last place, greatest exponent of the last place, width. -/
structure Fmt where
  p : Nat
  qmin : Int
  qmax : Int
  deriving DecidableEq, Repr

/-- binary32. -/
def Fmt.b32 : Fmt := { p := 24, qmin := -149, qmax := 104 }
/-- binary64. -/
def Fmt.b64 : Fmt := { p := 53, qmin := -1074, qmax := 971 }

/-- A value of a binary format: NaN, an infinity, or (-1)^neg times m times 2^e. -/
inductive Fl where
  | nan
  | inf (neg : Bool)
  | fin (neg : Bool) (m : Nat) (e : Int)
  deriving DecidableEq, Repr

/-- The rounding of (m plus a little more, if sticky) times 2^e to a format, ties to even. The caller gives m at least two
bits more than the precision where sticky holds. -/
def Fl.round (f : Fmt) (neg : Bool) (m : Nat) (e : Int) (sticky : Bool := false) : Fl :=
  if m = 0 then .fin neg 0 f.qmin
  else
    let q : Int := max (e + (Nat.log2 m + 1 : Nat) - (f.p : Nat)) f.qmin
    let sh := q - e
    let r : Nat :=
      if sh ≤ 0 then m * 2 ^ (-sh).toNat
      else
        let d := 2 ^ sh.toNat
        let t := m / d
        let rem := m % d
        if 2 * rem > d || (2 * rem = d && (sticky || t % 2 = 1)) then t + 1 else t
    let (r, q) := if r = 2 ^ f.p then (r / 2, q + 1) else (r, q)
    if q > f.qmax then .inf neg else .fin neg r q

/-- The value of a binary32 word. -/
def Fl.of32 (w : Word) : Fl :=
  let n := w.toNat
  let s := bit n 31
  let x := bits n 23 8
  let m := bits n 0 23
  if x = 255 then (if m = 0 then .inf s else .nan)
  else if x = 0 then .fin s m (-149)
  else .fin s (m + 2 ^ 23) ((x : Int) - 150)

/-- The binary32 word of a value already rounded; NaN is 0x7FC0_0000 (R95). -/
def Fl.to32 : Fl → Word
  | .nan => 0x7FC00000
  | .inf s => BitVec.ofNat 32 (b2n s * 2 ^ 31 + 255 * 2 ^ 23)
  | .fin s m e =>
    if m < 2 ^ 23 then BitVec.ofNat 32 (b2n s * 2 ^ 31 + m)
    else BitVec.ofNat 32 (b2n s * 2 ^ 31 + (e + 150).toNat * 2 ^ 23 + (m - 2 ^ 23))

/-- The sum before rounding, as a sign, a magnitude and an exponent; the sign of an exact zero sum of opposite signs is
plus (IEEE 754). -/
def Fl.add (f : Fmt) : Fl → Fl → Fl
  | .nan, _ => .nan
  | _, .nan => .nan
  | .inf s, .inf t => if s = t then .inf s else .nan
  | .inf s, .fin .. => .inf s
  | .fin .., .inf t => .inf t
  | .fin s a ea, .fin t b eb =>
    let e := min ea eb
    let x : Int := (if s then -1 else 1) * (a * 2 ^ (ea - e).toNat : Nat)
    let y : Int := (if t then -1 else 1) * (b * 2 ^ (eb - e).toNat : Nat)
    let z := x + y
    if z = 0 then .fin (s && t) 0 f.qmin else Fl.round f (z < 0) z.natAbs e

/-- The opposite value. -/
def Fl.neg : Fl → Fl
  | .nan => .nan
  | .inf s => .inf !s
  | .fin s m e => .fin (!s) m e

/-- The magnitude. -/
def Fl.abs : Fl → Fl
  | .nan => .nan
  | .inf _ => .inf false
  | .fin _ m e => .fin false m e

/-- The difference, rounded once. -/
def Fl.sub (f : Fmt) (a b : Fl) : Fl := Fl.add f a b.neg

/-- The product, rounded once. -/
def Fl.mul (f : Fmt) : Fl → Fl → Fl
  | .nan, _ => .nan
  | _, .nan => .nan
  | .inf s, .inf t => .inf (s != t)
  | .inf s, .fin t m _ => if m = 0 then .nan else .inf (s != t)
  | .fin s m _, .inf t => if m = 0 then .nan else .inf (s != t)
  | .fin s a ea, .fin t b eb => Fl.round f (s != t) (a * b) (ea + eb)

/-- The quotient, rounded once. -/
def Fl.div (f : Fmt) : Fl → Fl → Fl
  | .nan, _ => .nan
  | _, .nan => .nan
  | .inf _, .inf _ => .nan
  | .inf s, .fin t _ _ => .inf (s != t)
  | .fin s _ _, .inf t => .fin (s != t) 0 f.qmin
  | .fin s a ea, .fin t b eb =>
    if b = 0 then (if a = 0 then .nan else .inf (s != t))
    else
      let k := 2 * f.p + 3 + (Nat.log2 b + 1)
      let n := a * 2 ^ k
      Fl.round f (s != t) (n / b) (ea - eb - (k : Nat)) (n % b != 0)

/-- The floor of a square root, bit by bit from 2^k down. -/
def isqrtFrom (n : Nat) : Nat → Nat → Nat
  | 0, r => if (r + 1) * (r + 1) ≤ n then r + 1 else r
  | k + 1, r => let r' := r + 2 ^ (k + 1); isqrtFrom n k (if r' * r' ≤ n then r' else r)

/-- The floor of a square root. -/
def isqrt (n : Nat) : Nat := isqrtFrom n (Nat.log2 n / 2 + 1) 0

/-- The square root, rounded once; of minus zero, minus zero (R105). -/
def Fl.sqrt (f : Fmt) : Fl → Fl
  | .nan => .nan
  | .inf s => if s then .nan else .inf false
  | .fin s m e =>
    if m = 0 then .fin s 0 f.qmin
    else if s then .nan
    else
      let k := 2 * f.p + 4
      let (n, x) := if (e - (k : Nat)) % 2 = 0 then (m * 2 ^ k, e - (k : Nat)) else (m * 2 ^ (k + 1), e - (k : Nat) - 1)
      let r := isqrt n
      Fl.round f false r (x / 2) (r * r != n)

/-- The exact remainder with the sign of the dividend (IEEE fmod, R105). -/
def Fl.fmod (f : Fmt) : Fl → Fl → Fl
  | .fin s a ea, .fin _ b eb =>
    if b = 0 then .nan
    else
      let e := min ea eb
      Fl.round f s ((a * 2 ^ (ea - e).toNat) % (b * 2 ^ (eb - e).toNat)) e
  | .fin s a ea, .inf _ => .fin s a ea
  | _, _ => .nan

/-- a is below b; false where either is NaN; minus zero equals plus zero (R103). -/
def Fl.lt : Fl → Fl → Bool
  | .nan, _ => false
  | _, .nan => false
  | .inf s, .inf t => s && !t
  | .inf s, .fin .. => s
  | .fin .., .inf t => !t
  | .fin s a ea, .fin t b eb =>
    let e := min ea eb
    let x : Int := (if s then -1 else 1) * (a * 2 ^ (ea - e).toNat : Nat)
    let y : Int := (if t then -1 else 1) * (b * 2 ^ (eb - e).toNat : Nat)
    x < y

/-- a equals b as numbers (R103). -/
def Fl.eq (a b : Fl) : Bool := a ≠ .nan && b ≠ .nan && !Fl.lt a b && !Fl.lt b a
/-- a is at most b (R103). -/
def Fl.le (a b : Fl) : Bool := Fl.lt a b || Fl.eq a b
/-- The value is a NaN. -/
def Fl.isNan (a : Fl) : Bool := a == .nan
/-- The value is finite. -/
def Fl.isFin : Fl → Bool
  | .fin .. => true
  | _ => false
/-- The sign of the value. -/
def Fl.sgn : Fl → Bool
  | .nan => false
  | .inf s => s
  | .fin s _ _ => s

/-- An integer, rounded to a format (R107). -/
def Fl.ofInt (f : Fmt) (i : Int) : Fl := Fl.round f (i < 0) i.natAbs 0

/-- A finite value rounded to an integer: toward zero, or to nearest with ties to even (R107). -/
def Fl.toInt (near : Bool) : Fl → Int
  | .fin s m e =>
    let t : Nat :=
      if 0 ≤ e then m * 2 ^ e.toNat
      else
        let d := 2 ^ (-e).toNat
        let t := m / d
        let rem := m % d
        if near && (2 * rem > d || (2 * rem = d && t % 2 = 1)) then t + 1 else t
    if s then -(t : Int) else t
  | _ => 0

/-- binary32 operations on words (R95). -/
def f32add (a b : Word) : Word := (Fl.add .b32 (.of32 a) (.of32 b)).to32
/-- Difference in binary32. -/
def f32sub (a b : Word) : Word := (Fl.sub .b32 (.of32 a) (.of32 b)).to32
/-- Product in binary32. -/
def f32mul (a b : Word) : Word := (Fl.mul .b32 (.of32 a) (.of32 b)).to32
/-- Quotient in binary32. -/
def f32div (a b : Word) : Word := (Fl.div .b32 (.of32 a) (.of32 b)).to32
/-- a < b in binary32. -/
def f32lt (a b : Word) : Bool := Fl.lt (.of32 a) (.of32 b)
/-- a <= b in binary32. -/
def f32le (a b : Word) : Bool := Fl.le (.of32 a) (.of32 b)
/-- NaN in binary32. -/
def f32nan (a : Word) : Bool := (Fl.of32 a).isNan
/-- Finite in binary32. -/
def f32fin (a : Word) : Bool := (Fl.of32 a).isFin
/-- The largest finite value with a sign (R95). -/
def f32max (neg : Bool) : Word := if neg then 0xFF7FFFFF else 0x7F7FFFFF
/-- dt in seconds from a delta in ns: f32(d) times the binary32 nearest to 10^-9 (R97). -/
def f32dt (d : DWord) : Word := f32mul (Fl.ofInt .b32 d.toInt).to32 0x3089705F

end Sys2Proof.Machine
end

