-- ==== Sys2Proof/Machine/Opcodes.lean ====
section
/-! DEFINITION. The function-block instruction set (04): what each opcode admits (R86, R87, R101 to R121) and its result. -/
namespace Sys2Proof.Machine

/-! ### Quality nibbles (R92) -/

/-- A nibble as it is read: any value that is not usable is INVALID (R92). -/
def qNorm (q : BitVec 4) : BitVec 4 := if q.toNat ≤ 4 then q else 8
/-- A nibble is usable (R92). -/
def qUsable (q : BitVec 4) : Bool := decide (q.toNat ≤ 4)
/-- The rank of a nibble (R92). -/
def qRank (q : BitVec 4) : Nat :=
  match q.toNat with
  | 0 => 0 | 3 => 1 | 2 => 2 | 4 => 3 | 1 => 4 | _ => 5
/-- The worse of two nibbles (R92). -/
def qWorse (a b : BitVec 4) : BitVec 4 := if qRank (qNorm a) < qRank (qNorm b) then qNorm b else qNorm a
/-- The worst of a set of nibbles; VALID for none (R92). -/
def qWorst (l : List (BitVec 4)) : BitVec 4 := l.foldl qWorse 0
/-- INVALID (R92). -/
def qInvalid : BitVec 4 := 8

/-! ### What an opcode admits -/

/-- How an input is read (R87, R90). -/
inductive ArgTy where
  | none | bool | word | long | ty
  deriving DecidableEq, Repr, Inhabited

/-- What an opcode writes (R89). -/
inductive OutTy where
  | bool | word | long | ty | five
  deriving DecidableEq, Repr, Inhabited

/-- Carry-over class (R99). -/
inductive Carry where
  | n | s | t | e | q
  deriving DecidableEq, Repr, Inhabited

/-- A row of the opcode tables. Costs are given for the plain types, for REAL32 and for I64. -/
structure OpInfo where
  a : ArgTy := .none
  b : ArgTy := .none
  c : ArgTy := .none
  types : List Nat := [0]
  out : OutTy := .word
  inv : Bool := false
  cls : Carry := .n
  states : Nat := 0
  cost : Nat := 6
  costF : Nat := 0
  costL : Nat := 0
  axis : Bool := false
  deriving DecidableEq, Repr, Inhabited

/-- The row of an opcode; none for a reserved code (R101 to R121). -/
def opInfo (op : Nat) : Option OpInfo :=
  match op with
  | 0x00 | 0x02 | 0x04 => some { a := .bool, b := .bool, out := .bool, inv := true }
  | 0x01 | 0x03 => some { a := .bool, b := .bool, c := .bool, out := .bool, inv := true }
  | 0x05 => some { a := .bool, out := .bool, inv := true }
  | 0x06 | 0x07 | 0x08 | 0x0A | 0x0B | 0x0C | 0x0D => some { a := .word, b := .word, types := [0, 1] }
  | 0x09 => some { a := .word, types := [0, 1] }
  | 0x0E => some { a := .word, b := .word, out := .bool, inv := true }
  | 0x0F => some { a := .word, b := .word, c := .bool, types := [0, 1], cost := 7 }
  | 0x10 | 0x11 | 0x12 | 0x13 | 0x14 | 0x15 =>
    some { a := .ty, b := .ty, types := [0, 1, 2, 3], out := .bool, inv := true, costL := 7 }
  | 0x16 => some { a := .ty, b := .ty, c := .ty, types := [0, 1, 2, 3], out := .bool, inv := true, cost := 7 }
  | 0x17 => some { a := .ty, b := .ty, c := .ty, types := [2], out := .bool, inv := true, cost := 8 }
  | 0x20 | 0x21 | 0x22 | 0x23 =>
    some { a := .ty, b := .ty, types := [0, 1, 2, 3], out := .ty, costF := 8, costL := 7 }
  | 0x24 | 0x25 => some { a := .ty, b := .ty, types := [0, 1, 2], out := .ty, cost := 8 }
  | 0x26 | 0x27 | 0x28 => some { a := .ty, b := .ty, types := [0, 1, 2], out := .ty, cost := 20 }
  | 0x29 | 0x2A | 0x2B | 0x2C => some { a := .ty, types := [0, 2, 3], out := .ty }
  | 0x2D | 0x2E => some { a := .ty, b := .ty, types := [0, 1, 2, 3], out := .ty }
  | 0x2F | 0x30 => some { a := .ty, b := .ty, c := .ty, types := [0, 1, 2], out := .ty, cost := 24 }
  | 0x31 => some { a := .ty, types := [1, 2], out := .ty, cost := 24 }
  | 0x32 | 0x33 => some { a := .ty, types := [0, 1, 2, 3], out := .ty, cost := 8 }
  | 0x34 => some { a := .ty, b := .ty, c := .ty, types := [2], out := .ty, cost := 10 }
  | 0x40 => some { a := .ty, types := [0, 1, 2, 3], out := .ty }
  | 0x41 => some { a := .bool, b := .ty, c := .ty, types := [0, 1, 2, 3], out := .ty }
  | 0x42 => some { a := .ty, b := .ty, c := .ty, types := [0, 1, 2, 3], out := .ty, cost := 7 }
  | 0x43 => some { a := .word, types := [0, 1, 2], out := .ty, cost := 8 }
  | 0x44 => some { a := .ty, types := [2], out := .ty, cost := 40 }
  | 0x45 => some { a := .word, b := .word, out := .long }
  | 0x46 | 0x47 => some { a := .long }
  | 0x48 => some { types := [0, 1, 2, 3], out := .ty }
  | 0x50 | 0x51 | 0x52 =>
    some { a := .bool, b := .long, out := .bool, inv := true, cls := .t, states := 5, cost := 12, axis := true }
  | 0x53 =>
    some { a := .bool, b := .long, c := .bool, out := .bool, inv := true, cls := .t, states := 5, cost := 12, axis := true }
  | 0x54 => some { a := .bool, out := .long, cls := .t, states := 5, cost := 12, axis := true }
  | 0x55 | 0x56 | 0x57 => some { a := .bool, out := .bool, inv := true, cls := .e, states := 1, cost := 8 }
  | 0x58 => some { a := .bool, b := .bool, cls := .s, states := 2, cost := 10 }
  | 0x59 => some { a := .bool, b := .bool, c := .word, cls := .s, states := 2, cost := 10 }
  | 0x5A => some { a := .bool, b := .bool, c := .bool, cls := .s, states := 2, cost := 10 }
  | 0x5B => some { a := .bool, b := .bool, out := .bool, inv := true, cls := .t, states := 5, cost := 14, axis := true }
  | 0x60 | 0x61 => some { a := .bool, b := .bool, out := .bool, inv := true, cls := .s, states := 1, cost := 8 }
  | 0x62 =>
    some { a := .ty, b := .ty, c := .ty, types := [0, 1, 2, 3], out := .bool, inv := true, cls := .s, states := 1, cost := 8 }
  | 0x63 => some { a := .ty, b := .ty, types := [2], out := .ty, cls := .s, states := 4, cost := 24, axis := true }
  | 0x64 => some { a := .ty, b := .ty, c := .bool, types := [2], out := .ty, cls := .s, states := 4, cost := 20, axis := true }
  | 0x65 => some { a := .ty, b := .ty, c := .bool, types := [2], out := .ty, cls := .s, states := 7, cost := 40, axis := true }
  | 0x66 => some { a := .ty, b := .bool, types := [0, 1, 2], out := .ty, cls := .s, states := 2, cost := 7 }
  | 0x70 => some { a := .ty, types := [0, 1, 2, 3] }
  | 0x71 => some { a := .ty, types := [0, 1, 2, 3], out := .bool, inv := true }
  | 0x72 => some { a := .ty, types := [0, 1, 2, 3], out := .ty }
  | 0x73 | 0x74 => some { a := .ty, b := .ty, types := [0, 1, 2, 3], out := .ty }
  | 0x75 => some { a := .ty, b := .ty, c := .ty, types := [0, 1, 2, 3], out := .ty, cost := 8 }
  | 0x76 => some { a := .ty, b := .ty, c := .ty, types := [0, 1, 2, 3], out := .ty, cost := 10 }
  | 0x77 => some { a := .ty, b := .ty, c := .ty, types := [0, 1, 2, 3], out := .ty }
  | 0x80 => some { a := .bool, b := .bool }
  | 0x81 => some { axis := true }
  | 0x82 => some { a := .word, cls := .s, states := 2, cost := 8 }
  | 0x83 => some { a := .bool, b := .long, c := .long, out := .five, cls := .q, states := 6, cost := 12 }
  | 0x84 => some { a := .bool, cls := .q, states := 2, cost := 8 }
  | 0x90 => some { a := .bool, cls := .q, states := 2, cost := 8 }
  | 0x91 => some { a := .word, cost := 8 }
  | 0x92 => some { a := .bool }
  | 0xA0 => some { a := .word }
  | 0xA1 => some { a := .bool, cls := .q, states := 2, cost := 8 }
  | 0xA2 => some { a := .ty, types := [0, 1, 2], out := .ty }
  | _ => none

/-- The fields of PARAM lie in the range the row states, and every bit it does not define is zero (R87, R101). -/
def paramOk (op ty param : Nat) : Bool :=
  let maskOk := param != 0 && decide (param < 256)
  match op with
  | 0x32 | 0x33 => decide (param < 8) && bits param 0 2 != ty
  | 0x43 => decide (param < 2 ^ 24)
  | 0x44 => decide (param < 2 ^ 23) && decide (2 ≤ bits param 16 7) && decide (bits param 16 7 ≤ 64)
  | 0x48 | 0x65 => decide (param < 2 ^ 16)
  | 0x50 | 0x51 | 0x52 | 0x53 | 0x54 => decide (param < 32) && (bits param 0 2 == 1 || bits param 2 2 == 0)
  | 0x5B => bits param 1 3 == 0
  | 0x62 => decide (param < 2)
  | 0x71 | 0x73 | 0x74 | 0x75 | 0x76 => maskOk
  | 0x72 => param == 0 || param == 1 || param == 2 || param == 4 || param == 8
  | 0x81 => decide (param ≤ 12)
  | 0x83 =>
    decide (param < 2 ^ 12) && (bits param 6 2 == 1 || bits param 6 2 == 2)
      && (bits param 10 2 == 0 || (bits param 8 2 == 1 && bits param 10 2 != 3))
  | 0x84 => decide (param < 64)
  | 0x90 => decide (param < 1024)
  | 0x92 => decide (1 ≤ param) && decide (param < 256)
  | 0xA0 | 0xA1 => decide (param < 256)
  | 0xA2 => decide (param < 16)
  | _ => param == 0

/-- Input C of a TRGARM is read only by a PERIODIC (R119). -/
def argC (op param : Nat) (i : OpInfo) : ArgTy := if op == 0x83 && bits param 6 2 == 1 then .none else i.c

/-- The words an input takes (R87, R90). -/
def ArgTy.width (ty : Nat) : ArgTy → Nat
  | .none => 0
  | .bool => 1
  | .word => 1
  | .long => 2
  | .ty => if ty = 3 then 2 else 1

/-- The words an opcode writes (R89); CVT and CVTS take the width of their target type (R107). -/
def outWidth (op ty param : Nat) (o : OutTy) : Nat :=
  match o with
  | .bool => 1
  | .word => 1
  | .long => 2
  | .five => 5
  | .ty => if op == 0x32 || op == 0x33 then (if bits param 0 2 = 3 then 2 else 1) else if ty = 3 then 2 else 1

/-- The words of a constant-pool block named by PARAM: its index and length; none where the opcode reads none (R108, R109, R115). -/
def constBlock (op ty param : Nat) : Option (Nat × Nat) :=
  match op with
  | 0x43 => some (bits param 0 16, bits param 16 8 + 1)
  | 0x44 => some (bits param 0 16, 2 * bits param 16 7)
  | 0x48 => some (bits param 0 16, if ty = 3 then 2 else 1)
  | 0x65 => some (bits param 0 16, 6)
  | _ => none

/-- The modifier combination is permitted for the opcode: LC02 as far as one record shows it (R86, R87, R88, R101). -/
def recordOk (op mods out inA inB inC st param : Nat) : Bool :=
  match opInfo op with
  | none => false
  | some i =>
    let ty := bits mods 6 2
    let c := argC op param i
    i.types.contains ty
      && (!bit mods 5 || i.inv)
      && (!bit mods 4 || i.a ≠ .none) && (!bit mods 3 || i.b ≠ .none) && (!bit mods 2 || c ≠ .none)
      && (!bit mods 1 || (0x58 ≤ op && op ≤ 0x5A))
      && (!bit mods 0 || i.cls = .t || i.cls = .e || i.cls = .q)
      && (i.a ≠ .none || inA = 0) && (i.b ≠ .none || inB = 0) && (c ≠ .none || inC = 0)
      && (i.states ≠ 0 || st = 0)
      && paramOk op ty param && decide (out < 65536)

/-- The cost c_i of an opcode in pan clocks (R100). -/
def opCost (i : OpInfo) (ty : Nat) : Nat :=
  if ty = 2 && i.costF ≠ 0 then i.costF else if ty = 3 && i.costL ≠ 0 then i.costL else i.cost

/-- The page accesses a_i of an instance (R100). -/
def opAccesses (op ty param : Nat) (i : OpInfo) : Nat :=
  b2n (i.a ≠ .none) + b2n (i.b ≠ .none) + b2n (argC op param i ≠ .none) + b2n (i.states ≠ 0) + b2n i.axis
    + b2n (constBlock op ty param).isSome

/-! ### Evaluation -/

/-- An operand as fetched: one or two words and their nibble (R92). -/
structure Opnd where
  w : Word := 0
  l : DWord := 0
  q : BitVec 4 := 0
  deriving DecidableEq, Repr, Inhabited

/-- What an evaluation works on (R69): the record, its operands, its state words and the stamp words with their nibbles. -/
structure EvalIn where
  op : Nat
  ty : Nat
  inv : Bool
  sat : Bool
  initEdge : Bool
  param : Nat
  a : Opnd
  b : Opnd
  c : Opnd
  st : List Word
  stamp : List (Word × BitVec 4)

/-- What an evaluation commits: output words, their nibble, and the state words (R69, R89). -/
structure EvalOut where
  words : List Word
  q : BitVec 4
  st : List Word := []
  deriving DecidableEq, Repr, Inhabited

/-- A word as BOOL (R91). -/
def asBool (w : Word) : Bool := w != 0
/-- A BOOL as written (R91). -/
def boolWord (b : Bool) : Word := if b then 1 else 0
/-- A 64-bit value as two words, high first (R90). -/
def longWords (v : DWord) : List Word := [hi32 v, lo32 v]

/-- An operand as the exact integer of an integer type (R90). -/
def opInt (ty : Nat) (o : Opnd) : Int :=
  if ty = 3 then o.l.toInt else if ty = 1 then (o.w.toNat : Int) else o.w.toInt

/-- The least and greatest value of an integer type (R96). -/
def tyMin (ty : Nat) : Int := if ty = 3 then -2 ^ 63 else if ty = 1 then 0 else -2 ^ 31
/-- The greatest value of an integer type (R96). -/
def tyMax (ty : Nat) : Int := if ty = 3 then 2 ^ 63 - 1 else if ty = 1 then 2 ^ 32 - 1 else 2 ^ 31 - 1

/-- The words of an integer kept to the width of a type (R96, wrap form). -/
def intWords (ty : Nat) (z : Int) : List Word :=
  if ty = 3 then longWords (BitVec.ofInt 64 z) else [BitVec.ofInt 32 z]

/-- An integer result in its wrap or saturating form (R96). -/
def intResult (ty : Nat) (sat : Bool) (z : Int) : List Word :=
  intWords ty (if sat then max (tyMin ty) (min (tyMax ty) z) else z)

/-- A REAL32 result in its plain or saturating form (R95). -/
def realResult (sat : Bool) (x : Fl) (q : BitVec 4) : EvalOut :=
  match x with
  | .nan => { words := [0x7FC00000], q := qInvalid }
  | .inf s => if sat then { words := [f32max s], q := q } else { words := [x.to32], q := qInvalid }
  | .fin .. => { words := [x.to32], q := q }

/-- Division of integers in both forms, of an exact dividend (R96, R106). -/
def intDiv (ty : Nat) (sat : Bool) (n d : Int) (q : BitVec 4) : EvalOut :=
  if d = 0 then
    { words := intWords ty (if !sat then 0 else if 0 < n then tyMax ty else if n < 0 then tyMin ty else 0), q := qInvalid }
  else { words := intResult ty sat (Int.tdiv n d), q := q }

/-- Order of operands as TYPE; none where a REAL32 operand is a NaN (R103, R104). -/
def tyLt (ty : Nat) (x y : Opnd) : Option Bool :=
  if ty = 2 then
    if f32nan x.w || f32nan y.w then none else some (f32lt x.w y.w)
  else some (decide (opInt ty x < opInt ty y))

/-- Smaller (or, with big, larger) of two operands; of minus zero and plus zero, minus zero (plus zero) (R105). -/
def tyMinMax (big : Bool) (ty : Nat) (x y : Opnd) : Opnd :=
  if ty = 2 then
    if f32nan x.w then x else if f32nan y.w then y
    else
      let xy := f32lt x.w y.w
      let yx := f32lt y.w x.w
      let first := if xy then !big else if yx then big else (Fl.of32 x.w).sgn != big
      if first then x else y
  else if (opInt ty x < opInt ty y) != big then x else y

/-- An operand's words under TYPE. -/
def opWords (ty : Nat) (o : Opnd) : List Word := if ty = 3 then longWords o.l else [o.w]

/-- A REAL32 operand as a result under R95: a NaN is written quiet and INVALID, an infinity INVALID. -/
def realOr (ty : Nat) (o : Opnd) (q : BitVec 4) : EvalOut :=
  if ty = 2 then realResult false (.of32 o.w) q else { words := opWords ty o, q := q }

/-- Logic, 0x00 to 0x0F (R102). BITGET reads A and B as words: its row selects a bit of A. -/
def evalLogic (e : EvalIn) : List Word :=
  let a := e.a.w
  let b := e.b.w
  let k := b.toNat % 32
  match e.op with
  | 0x00 => [boolWord (asBool a && asBool b)]
  | 0x01 => [boolWord (asBool a && asBool b && asBool e.c.w)]
  | 0x02 => [boolWord (asBool a || asBool b)]
  | 0x03 => [boolWord (asBool a || asBool b || asBool e.c.w)]
  | 0x04 => [boolWord (asBool a != asBool b)]
  | 0x05 => [boolWord (asBool a)]
  | 0x06 => [a &&& b]
  | 0x07 => [a ||| b]
  | 0x08 => [a ^^^ b]
  | 0x09 => [~~~ a]
  | 0x0A => [a <<< k]
  | 0x0B => [a >>> k]
  | 0x0C => [a.sshiftRight k]
  | 0x0D => [a.rotateLeft k]
  | 0x0E => [boolWord (a.getLsbD k)]
  | _ => [if asBool e.c.w then a ||| (1#32 <<< k) else a &&& ~~~ (1#32 <<< k)]

/-- Compare, 0x10 to 0x17 (R103, R104): the result, or none where a NaN is compared. -/
def evalCompare (e : EvalIn) : Option Bool :=
  let lt := tyLt e.ty
  let le := fun x y => (lt y x).map (!·)
  match e.op with
  | 0x10 => do let x ← lt e.a e.b; let y ← lt e.b e.a; return !x && !y
  | 0x11 => do let x ← lt e.a e.b; let y ← lt e.b e.a; return x || y
  | 0x12 => lt e.a e.b
  | 0x13 => le e.a e.b
  | 0x14 => lt e.b e.a
  | 0x15 => le e.b e.a
  | 0x16 => do let x ← le e.b e.a; let y ← le e.a e.c; return x && y
  | _ =>
    let d := Fl.sub .b32 (.of32 e.a.w) (.of32 e.b.w)
    if d.isNan || f32nan e.c.w then none else some (Fl.le d.abs (.of32 e.c.w))

/-- Arithmetic on integers, 0x20 to 0x31 (R105, R106). -/
def evalInt (e : EvalIn) (q : BitVec 4) : EvalOut :=
  let ty := e.ty
  let a := opInt ty e.a
  let b := opInt ty e.b
  let c := opInt ty e.c
  let r := fun (sat : Bool) (z : Int) => ({ words := intResult ty sat z, q := q } : EvalOut)
  match e.op with
  | 0x20 => r false (a + b)
  | 0x21 => r true (a + b)
  | 0x22 => r false (a - b)
  | 0x23 => r true (a - b)
  | 0x24 => r false (a * b)
  | 0x25 => r true (a * b)
  | 0x26 => intDiv ty false a b q
  | 0x27 => intDiv ty true a b q
  | 0x28 => if b = 0 then { words := intWords ty 0, q := qInvalid } else r false (Int.tmod a b)
  | 0x29 => r false (-a)
  | 0x2A => r true (-a)
  | 0x2B => r false (a.natAbs : Int)
  | 0x2C => r true (a.natAbs : Int)
  | 0x2D => { words := opWords ty (tyMinMax false ty e.a e.b), q := q }
  | 0x2E => { words := opWords ty (tyMinMax true ty e.a e.b), q := q }
  | 0x2F => intDiv ty false (a * b) c q
  | 0x30 => intDiv ty true (a * b) c q
  | _ => r false (isqrt a.toNat : Int)

/-- Arithmetic on REAL32, 0x20 to 0x31 and SCALE (R105, R106). -/
def evalReal (e : EvalIn) (q : BitVec 4) : EvalOut :=
  let a := Fl.of32 e.a.w
  let b := Fl.of32 e.b.w
  let c := Fl.of32 e.c.w
  let isZero := fun x => Fl.eq x (.fin false 0 0)
  let divq := fun x => if isZero x then qInvalid else q
  match e.op with
  | 0x20 => realResult false (Fl.add .b32 a b) q
  | 0x21 => realResult true (Fl.add .b32 a b) q
  | 0x22 => realResult false (Fl.sub .b32 a b) q
  | 0x23 => realResult true (Fl.sub .b32 a b) q
  | 0x24 => realResult false (Fl.mul .b32 a b) q
  | 0x25 => realResult true (Fl.mul .b32 a b) q
  | 0x26 => realResult false (Fl.div .b32 a b) (divq b)
  | 0x27 => realResult true (Fl.div .b32 a b) (divq b)
  | 0x28 => realResult false (Fl.fmod .b32 a b) q
  | 0x29 => realResult false a.neg q
  | 0x2A => realResult true a.neg q
  | 0x2B => realResult false a.abs q
  | 0x2C => realResult true a.abs q
  | 0x2D => realOr 2 (tyMinMax false 2 e.a e.b) q
  | 0x2E => realOr 2 (tyMinMax true 2 e.a e.b) q
  | 0x2F => realResult false (Fl.div .b32 (Fl.mul .b32 a b) c) (divq c)
  | 0x30 => realResult true (Fl.div .b32 (Fl.mul .b32 a b) c) (divq c)
  | 0x31 => realResult false (Fl.sqrt .b32 a) q
  | _ => realResult false (Fl.add .b32 (Fl.mul .b32 a b) c) q

/-- Conversions (R107). A REAL32 is in range where its rounded value is (DESIGN CHOICE, notes/assumptions 163). -/
def evalCvt (e : EvalIn) (q : BitVec 4) : EvalOut :=
  let sat := e.op == 0x33
  let dst := bits e.param 0 2
  if e.ty = 2 then
    let x := Fl.of32 e.a.w
    if x.isNan then { words := intWords dst 0, q := qInvalid }
    else
      let z : Int := if x.isFin then x.toInt (bit e.param 2) else if x.sgn then tyMin dst - 1 else tyMax dst + 1
      if tyMin dst ≤ z ∧ z ≤ tyMax dst then { words := intWords dst z, q := q }
      else if sat then { words := intResult dst true z, q := q }
      else { words := intWords dst 0, q := qInvalid }
  else if dst = 2 then { words := [(Fl.ofInt .b32 (opInt e.ty e.a)).to32], q := q }
  else { words := intResult dst sat (opInt e.ty e.a), q := q }

/-- The table of LINTAB is ascending (R109). -/
def ascending : List Word → Bool
  | x :: y :: l => f32lt x y && ascending (y :: l)
  | _ => true

/-- The largest index of an x at most a (R109). -/
def lintabIndex (a : Word) : List Word → Nat → Nat
  | x :: y :: l, i => if f32le y a then lintabIndex a (y :: l) (i + 1) else if f32le x a then i else i
  | _, i => i

/-- Interpolation (R109). -/
def evalLintab (a : Word) (xs ys : List Word) (q : BitVec 4) : EvalOut :=
  let n := xs.length
  if !ascending xs then realResult false (.of32 (ys.getD 0 0)) qInvalid
  else if f32nan a then { words := [0x7FC00000], q := qInvalid }
  else if f32le a (xs.getD 0 0) then realResult false (.of32 (ys.getD 0 0)) q
  else if f32le (xs.getD (n - 1) 0) a then realResult false (.of32 (ys.getD (n - 1) 0)) q
  else
    let i := lintabIndex a xs 0
    let t1 := f32sub a (xs.getD i 0)
    let t2 := f32sub (ys.getD (i + 1) 0) (ys.getD i 0)
    let t3 := f32sub (xs.getD (i + 1) 0) (xs.getD i 0)
    realResult false (.of32 (f32add (ys.getD i 0) (f32div (f32mul t1 t2) t3))) q

/-! Bits of the flags word (R98). -/

/-- INIT. -/
def fInit : Nat := 0
/-- Stored Q. -/
def fQ : Nat := 3

/-- A bit of a flags word. -/
def flag (w : Word) (i : Nat) : Bool := w.getLsbD i
/-- A flags word from its bits: INIT, previous A, previous B, Q, LATCH, PEND_A, PEND_B (R98). -/
def mkFlags (init pa pb q latch penA penB : Bool) : Word :=
  BitVec.ofNat 32 (b2n init + 2 * b2n pa + 4 * b2n pb + 8 * b2n q + 16 * b2n latch + 32 * b2n penA + 64 * b2n penB)

/-- One edge input at an evaluation (R98, R112): the previous and the current value as far as there are any, the value to
store, and whether the fresh rule stays postponed. `active` is what INIT_EDGE stores. -/
structure EdgeIn where
  rising : Bool
  falling : Bool
  store : Bool
  pend : Bool
  deriving DecidableEq, Repr

/-- The edge of an input whose stored previous value is not updated while it is unusable (R98, R112). -/
def edgeInput (init stored pend usable cur initEdge active : Bool) : EdgeIn :=
  if !usable then { rising := false, falling := false, store := stored, pend := pend || !init }
  else
    let prev := if !init || pend then (if initEdge then active else cur) else stored
    { rising := cur && !prev, falling := !cur && prev, store := cur, pend := false }

/-- The axis value and nibble of axis n in the stamp words (R67, R97). -/
def stampAxis (stamp : List (Word × BitVec 4)) (n : Nat) : DWord × BitVec 4 :=
  let hi := stamp.getD (2 + 2 * n) (0, 8)
  let lo := stamp.getD (3 + 2 * n) (0, 8)
  (join64 hi.1 lo.1, qWorse hi.2 lo.2)

/-- The delta d of R97 before DIR: zero on a fresh state or an unusable axis. -/
def axisDelta (init : Bool) (last now : DWord) (qa : BitVec 4) : Int :=
  if !init || !qUsable qa then 0 else (now - last).toInt

/-- DIR of R111: FWD, REV, PATH, NET. -/
def applyDir (dir : Nat) (d : Int) : Int :=
  match dir with
  | 0 => max d 0
  | 1 => max (-d) 0
  | 2 => (d.natAbs : Int)
  | _ => d

/-- Adding to an elapsed value: saturated at 2^63 - 1, floored at 0 (R111). -/
def addElapsed (e d : Int) : Int := max 0 (min (2 ^ 63 - 1) (e + d))

/-- The timers (R111). TOF and TP keep their Q in bit 3 of the flags word; TON, TACC and TELAP, which form it anew at every evaluation,
write 0 there (DESIGN CHOICE, notes/assumptions 163). -/
def evalTimer (x : EvalIn) (q0 : BitVec 4) : EvalOut :=
  let fl := x.st.getD 4 0
  let init := flag fl fInit
  let e0 : Int := if init then (join64 (x.st.getD 0 0) (x.st.getD 1 0)).toInt else 0
  let last := join64 (x.st.getD 2 0) (x.st.getD 3 0)
  let (now, qa) := stampAxis x.stamp (bits x.param 0 2)
  let d := applyDir (bits x.param 2 2) (axisDelta init last now qa)
  let inp := asBool x.a.w && qUsable x.a.q
  let prev := if init then flag fl 1 else if x.initEdge then x.op == 0x51 else inp
  let qOld := init && flag fl fQ
  let ptNeg := x.op != 0x54 && x.b.l.slt 0
  let pt : Int := max 0 x.b.l.toInt
  let rst := asBool x.c.w && qUsable x.c.q
  let add := addElapsed e0 d
  let (e, q, keepQ) : Int × Bool × Bool :=
    match x.op with
    | 0x51 =>
      if inp then (0, true, true)
      else if prev then (0, decide (0 < pt), decide (0 < pt))
      else if qOld then (add, decide (add < pt), decide (add < pt))
      else (e0, false, false)
    | 0x52 =>
      if qOld then (add, decide (add < pt), decide (add < pt))
      else if inp && !prev then (0, decide (0 < pt), decide (0 < pt))
      else (e0, false, false)
    | 0x53 =>
      let e := if rst then 0 else if inp && prev then add else e0
      (e, !rst && decide (pt ≤ e), false)
    | _ =>
      let e := if !inp then 0 else if prev then add else 0
      (e, inp && decide (pt ≤ e), false)
  let qAxis := if bit x.param 4 then (if qUsable qa then 0 else qInvalid) else qa
  let eW := BitVec.ofInt 64 e
  { words := if x.op == 0x54 then longWords eW else [boolWord (q != x.inv)]
    q := if ptNeg then qInvalid else qWorse q0 qAxis
    st := longWords eW ++ longWords now ++ [mkFlags true inp false keepQ false false false] }

/-- The edge detectors (R112). -/
def evalEdge (x : EvalIn) (q0 : BitVec 4) : EvalOut :=
  let fl := x.st.getD 0 0
  let e := edgeInput (flag fl 0) (flag fl 1) (flag fl 5) (qUsable x.a.q) (asBool x.a.w) x.initEdge (x.op == 0x56)
  let r := if x.op == 0x55 then e.rising else if x.op == 0x56 then e.falling else e.rising || e.falling
  { words := [boolWord (r != x.inv)], q := q0, st := [mkFlags true e.store false false false e.pend false] }

/-- The counters (R112). -/
def evalCounter (x : EvalIn) (q0 : BitVec 4) : EvalOut :=
  let fl := x.st.getD 1 0
  let init := flag fl 0
  let cv : Int := (x.st.getD 0 0).toInt
  let a := edgeInput init (flag fl 1) (flag fl 5) (qUsable x.a.q) (asBool x.a.w) false false
  let b := edgeInput init (flag fl 2) (flag fl 6) (qUsable x.b.q) (asBool x.b.w) false false
  let bOn := asBool x.b.w && qUsable x.b.q
  let cOn := asBool x.c.w && qUsable x.c.q
  let count := fun (d : Int) => intResult 0 x.sat (cv + d)
  let r : List Word :=
    match x.op with
    | 0x58 => if bOn then [0] else count (b2n a.rising)
    | 0x59 => if bOn then [x.c.w] else count (-(b2n a.rising : Nat))
    | _ => if cOn then [0] else count ((b2n a.rising : Int) - b2n b.rising)
  let two := x.op == 0x5A
  { words := r, q := q0, st := r ++ [mkFlags true a.store (two && b.store) false false a.pend (two && b.pend)] }

/-- PAIR (R113). -/
def evalPair (x : EvalIn) (q0 : BitVec 4) : EvalOut :=
  let fl := x.st.getD 4 0
  let init := flag fl 0
  let e0 : Int := (join64 (x.st.getD 0 0) (x.st.getD 1 0)).toInt
  let last := join64 (x.st.getD 2 0) (x.st.getD 3 0)
  let (now, qa) := stampAxis x.stamp 0
  let d := max 0 (axisDelta init last now qa)
  let a := asBool x.a.w && qUsable x.a.q
  let b := qUsable x.b.q && (asBool x.b.w != bit x.param 0)
  let latch := flag fl 4
  let td : Int := (bits x.param 4 28 : Nat) * 1000
  let (e, out, bad, latch') : Int × Bool × Bool × Bool :=
    if latch then (e0, false, true, a || b)
    else if a = b then (0, a, false, false)
    else let e := addElapsed e0 d; (e, false, decide (td < e), decide (td < e))
  { words := [boolWord (out != x.inv)]
    q := if bad then qInvalid else qWorse q0 qa
    st := longWords (BitVec.ofInt 64 e) ++ longWords now ++ [mkFlags true false false false latch' false false] }

/-- SR and RS (R114). -/
def evalLatch (x : EvalIn) (q0 : BitVec 4) : EvalOut :=
  let q := flag (x.st.getD 0 0) fQ
  let s := asBool x.a.w && qUsable x.a.q
  let r := asBool x.b.w || !qUsable x.b.q
  let q' := if x.op == 0x60 then s || (q && !r) else !r && (s || q)
  { words := [boolWord (q' != x.inv)], q := q0, st := [mkFlags true false false q' false false false] }

/-- HYST (R114). -/
def evalHyst (x : EvalIn) (q0 : BitVec 4) : EvalOut :=
  let fl := x.st.getD 0 0
  let held := if flag fl 0 then flag fl fQ else bit x.param 0
  let le := fun u v => (tyLt x.ty v u) == some false
  let bad := (x.ty = 2 && f32nan x.a.w) || tyLt x.ty x.c x.b == some true
  let q' := if bad then held else if le x.c x.a then true else if le x.a x.b then false else held
  { words := [boolWord (q' != x.inv)], q := if bad then qInvalid else q0, st := [mkFlags true false false q' false false false] }

/-- The common part of LAG, RAMP and PID: INIT, the stamp value, its nibble and dt (R97). -/
def realTime (x : EvalIn) (k : Nat) : Bool × DWord × BitVec 4 × Word :=
  let init := flag (x.st.getD (k + 2) 0) 0
  let last := join64 (x.st.getD k 0) (x.st.getD (k + 1) 0)
  let (now, qa) := stampAxis x.stamp 0
  (init, now, qa, f32dt (BitVec.ofInt 64 (max 0 (axisDelta init last now qa))))

/-- LAG and RAMP (R115). A non-finite result holds y and every state word but last. -/
def evalLagRamp (x : EvalIn) (q0 : BitVec 4) : EvalOut :=
  let (init, now, qa, dt) := realTime x 1
  let y0 := x.st.getD 0 0
  let u := x.a.w
  let t := x.b.w
  let q := qWorse q0 qa
  let (y, bad) : Word × Bool :=
    if x.op == 0x63 then
      let y := if init then y0 else u
      if !f32le 0 t then (y, true)
      else if f32lt 0 dt then (f32add y (f32mul (f32div dt (f32add t dt)) (f32sub u y)), false)
      else (y, false)
    else if !init || asBool x.c.w then (u, false)
    else if !f32lt 0 t then (y0, true)
    else
      let s := f32mul t dt
      if f32le (Fl.abs (.of32 (f32sub u y0))).to32 s then (u, false)
      else if f32lt y0 u then (f32add y0 s, false) else (f32sub y0 s, false)
  if f32fin y then
    { words := [y], q := if bad then qInvalid else q, st := [y] ++ longWords now ++ [1] }
  else
    { words := [y0], q := qInvalid, st := [y0] ++ longWords now ++ [x.st.getD 3 0] }

/-- PID (R115). The limited y counts among the intermediates, so that an infinite omin or omax is never written. -/
def evalPid (x : EvalIn) (k : List Word) (q0 : BitVec 4) : EvalOut :=
  let (init, now, qa, dt) := realTime x 4
  let sp := x.a.w
  let pv := x.b.w
  let y0 := x.st.getD 3 0
  let fresh := !init || asBool x.c.w
  let i := if fresh then 0 else x.st.getD 0 0
  let dd := if fresh then 0 else x.st.getD 1 0
  let pvp := if fresh then pv else x.st.getD 2 0
  let kp := k.getD 0 0
  let ki := k.getD 1 0
  let kd := k.getD 2 0
  let tf := k.getD 3 0
  let omin := k.getD 4 0
  let omax := k.getD 5 0
  let e := f32sub sp pv
  let p := f32mul kp e
  let run := f32lt 0 dt
  let kie := f32mul ki e
  let di := if run then f32mul kie dt else 0
  let g := if run then f32div dt (f32add tf dt) else 0
  let dv := f32sub pvp pv
  let kdv := f32mul kd dv
  let dr := if run then f32div kdv dt else 0
  let dif := if run then f32sub dr dd else 0
  let gd := if run then f32mul g dif else 0
  let dd' := if run then f32add dd gd else dd
  let idi := f32add i di
  let pi := f32add p idi
  let u := f32add pi dd'
  let (y, i') :=
    if f32lt omax u then (omax, if f32lt di 0 then idi else i)
    else if f32lt u omin then (omin, if f32lt 0 di then idi else i)
    else (u, idi)
  let inter := if run then [e, p, kie, di, f32add tf dt, g, dv, kdv, dr, dif, gd, dd', idi, pi, u, y] else [e, p, idi, pi, u, y]
  let bad := f32lt omax omin || f32lt tf 0 || k.any f32nan || k.length != 6 || inter.any (fun w => !f32fin w)
  if bad then
    { words := [y0], q := qInvalid
      st := [x.st.getD 0 0, x.st.getD 1 0, x.st.getD 2 0, y0] ++ longWords now ++ [x.st.getD 6 0] }
  else { words := [y], q := qWorse q0 qa, st := [i', dd', pv, y] ++ longWords now ++ [1] }

/-- SAMPLE (R114): its flags word keeps INIT in bit 0 and the stored nibble in [11:8]. -/
def evalSample (x : EvalIn) : EvalOut :=
  let fl := x.st.getD 1 0
  let held : Word × BitVec 4 := if flag fl 0 then (x.st.getD 0 0, fl.extractLsb' 8 4) else (0, 4)
  let en := asBool x.b.w && qUsable x.b.q
  let (v, q) := if en then (x.a.w, qNorm x.a.q) else held
  { words := [v], q := if qUsable x.b.q then q else qInvalid, st := [v, BitVec.ofNat 32 (1 + 256 * q.toNat)] }

/-- A nibble is in the mask of a quality opcode (R116). -/
def acceptable (param : Nat) (q : BitVec 4) : Bool := bit param (qNorm q).toNat

/-- VOTE3 and MID3 (R117). -/
def evalVote (x : EvalIn) : EvalOut :=
  let ty := x.ty
  let ok := fun (o : Opnd) => acceptable x.param o.q
  let same := fun (u v : Opnd) => ok u && ok v && opWords ty u == opWords ty v
  let ps := [x.a, x.b, x.c].filter ok
  if x.op == 0x75 then
    let ab := same x.a x.b
    let bc := same x.b x.c
    let ac := same x.a x.c
    if ab && bc then { words := opWords ty x.a, q := qWorst [x.a.q, x.b.q, x.c.q] }
    else if ab then { words := opWords ty x.a, q := qWorst [x.a.q, x.b.q] }
    else if ac then { words := opWords ty x.a, q := qWorst [x.a.q, x.c.q] }
    else if bc then { words := opWords ty x.b, q := qWorst [x.b.q, x.c.q] }
    else { words := opWords ty x.a, q := qInvalid }
  else
    match ps with
    | [u, v, w] =>
      if ty = 2 && (f32nan u.w || f32nan v.w || f32nan w.w) then { words := [0x7FC00000], q := qInvalid }
      else
        let lo := tyMinMax false ty u v
        let hi := tyMinMax true ty u v
        realOr ty (tyMinMax true ty lo (tyMinMax false ty hi w)) (qWorst [u.q, v.q, w.q])
    | [u, v] =>
      let q := qWorst [u.q, v.q, 2]
      if ty = 2 then realResult false (Fl.mul .b32 (Fl.add .b32 (.of32 u.w) (.of32 v.w)) (.of32 0x3F000000)) q
      else { words := intWords ty ((opInt ty u + opInt ty v) / 2), q := q }
    | [u] => { words := opWords ty u, q := qWorst [u.q, 2] }
    | _ => { words := opWords ty x.a, q := qInvalid }

/-- The remaining quality opcodes, 0x70 to 0x77 (R116). -/
def evalQuality (x : EvalIn) : EvalOut :=
  let aw := opWords x.ty x.a
  let bw := opWords x.ty x.b
  let okA := acceptable x.param x.a.q
  let okB := acceptable x.param x.b.q
  match x.op with
  | 0x70 => { words := [x.a.q.setWidth 32], q := 0 }
  | 0x71 => { words := [boolWord (okA != x.inv)], q := 0 }
  | 0x72 => { words := aw, q := qWorse (BitVec.ofNat 4 x.param) x.a.q }
  | 0x73 => if okA then { words := aw, q := qNorm x.a.q } else { words := bw, q := qWorse 2 x.b.q }
  | 0x74 =>
    if okA then { words := aw, q := qNorm x.a.q } else if okB then { words := bw, q := qNorm x.b.q }
    else { words := aw, q := qInvalid }
  | 0x77 => { words := aw, q := qWorst [x.a.q, x.b.q, x.c.q] }
  | _ => evalVote x

/-- A request word (R118). -/
def requestWord (count : Word) (arg : Nat) : Word := (count <<< 16) ||| BitVec.ofNat 32 (arg % 65536)

/-- TRGCAN, SGTX and RECTRIG (R118, R120, R121). The count's state word runs on over 32 bits, of which the request word carries the low 16
(DESIGN CHOICE, notes/assumptions 163). -/
def evalRequest (x : EvalIn) (q0 : BitVec 4) : EvalOut :=
  let fl := x.st.getD 0 0
  let e := edgeInput (flag fl 0) (flag fl 1) (flag fl 5) (qUsable x.a.q) (asBool x.a.w) x.initEdge false
  let n := x.st.getD 1 0 + boolWord e.rising
  { words := [requestWord n x.param], q := q0, st := [mkFlags true e.store false false false e.pend false, n] }

/-- TRGARM (R119). -/
def evalTrgArm (x : EvalIn) (q0 : BitVec 4) : EvalOut :=
  let fl := x.st.getD 0 0
  let e := edgeInput (flag fl 0) (flag fl 1) (flag fl 5) (qUsable x.a.q) (asBool x.a.w) x.initEdge false
  let periodic := bits x.param 6 2 == 2
  let ok := qUsable x.b.q && (!periodic || qUsable x.c.q)
  let arm := e.rising && ok
  let n := x.st.getD 1 0 + boolWord arm
  let v := if arm then longWords x.b.l else [x.st.getD 2 0, x.st.getD 3 0]
  let p := if arm then (if periodic then longWords x.c.l else [0, 0]) else [x.st.getD 4 0, x.st.getD 5 0]
  { words := requestWord n x.param :: v ++ p
    q := if e.rising && !ok then qInvalid else q0
    st := [mkFlags true e.store false false false e.pend false, n] ++ v ++ p }

/-- CAPNEW (R118). -/
def evalCapnew (x : EvalIn) (q0 : BitVec 4) : EvalOut :=
  let fl := x.st.getD 1 0
  let last := x.st.getD 0 0
  let fresh := !flag fl 0 || flag fl 5
  if qUsable x.a.q then
    { words := [if fresh then 0 else x.a.w - last], q := q0, st := [x.a.w, mkFlags true false false false false false false] }
  else { words := [0], q := qInvalid, st := [last, mkFlags true false false false false fresh false] }

/-- STAMP (R118): a field of the stamp words (R55, R67). -/
def evalStamp (x : EvalIn) : Word :=
  let w := fun i => (x.stamp.getD i (0, 8)).1
  let statusByte := fun n => (w 10).toNat / 2 ^ (24 - 8 * n) % 256
  match x.param with
  | 0 => BitVec.ofNat 32 ((w 0).toNat / 2 ^ 24)
  | 1 => BitVec.ofNat 32 ((w 0).toNat / 2 ^ 16 % 256)
  | 2 => BitVec.ofNat 32 ((w 0).toNat % 65536)
  | 3 => w 1
  | 12 => boolWord (bit (statusByte 1) 2)
  | n => if n < 8 then BitVec.ofNat 32 (statusByte (n - 4)) else boolWord (bit (statusByte (n - 8)) 3)

/-- GAIN (R120): minus 96 to plus 12 dB. -/
def evalGain (x : EvalIn) (q0 : BitVec 4) : EvalOut :=
  if f32nan x.a.w || !qUsable x.a.q then { words := [0xC2C00000], q := qInvalid }
  else if f32lt x.a.w 0xC2C00000 then { words := [0xC2C00000], q := q0 }
  else if f32lt 0x41400000 x.a.w then { words := [0x41400000], q := q0 }
  else { words := [x.a.w], q := q0 }

/-- The complete result of one evaluation (R93 to R121). `konst` gives the words of the constant-pool block that PARAM names. -/
def eval (x : EvalIn) (konst : List Word) : EvalOut :=
  match opInfo x.op with
  | none => { words := [0], q := qInvalid }
  | some i =>
    let qs := (if i.a ≠ .none then [x.a.q] else []) ++ (if i.b ≠ .none then [x.b.q] else [])
      ++ (if argC x.op x.param i ≠ .none then [x.c.q] else [])
    let q := qWorst qs
    let boolOut := fun (b : Bool) => ({ words := [boolWord (b != x.inv)], q := q } : EvalOut)
    if x.op ≤ 0x0F then
      match i.out with
      | .bool => boolOut (asBool ((evalLogic x).getD 0 0))
      | _ => { words := evalLogic x, q := q }
    else if x.op ≤ 0x17 then
      match evalCompare x with
      | some b => boolOut b
      | none => { words := [boolWord ((x.op == 0x11) != x.inv)], q := qInvalid }
    else if x.op ≤ 0x31 then (if x.ty = 2 then evalReal x q else evalInt x q)
    else
      match x.op with
      | 0x32 | 0x33 => evalCvt x q
      | 0x34 => evalReal x q
      | 0x40 => { words := opWords x.ty x.a, q := x.a.q }
      | 0x41 =>
        let o := if asBool x.a.w then x.c else x.b
        { words := opWords x.ty o, q := qWorse x.a.q o.q }
      | 0x42 =>
        if x.ty = 2 && (f32nan x.a.w || f32nan x.b.w || f32nan x.c.w) then { words := [0x7FC00000], q := qInvalid }
        else if tyLt x.ty x.c x.b == some true then { words := opWords x.ty x.b, q := qInvalid }
        else realOr x.ty (tyMinMax true x.ty x.b (tyMinMax false x.ty x.a x.c)) q
      | 0x43 =>
        let n : Int := x.a.w.toInt
        if 0 ≤ n ∧ n < (konst.length : Int) then { words := [konst.getD n.toNat 0], q := q }
        else { words := [konst.getD 0 0], q := qInvalid }
      | 0x44 => evalLintab x.a.w (konst.take (konst.length / 2)) (konst.drop (konst.length / 2)) q
      | 0x45 => { words := [x.a.w, x.b.w], q := q }
      | 0x46 => { words := [hi32 x.a.l], q := q }
      | 0x47 => { words := [lo32 x.a.l], q := q }
      | 0x48 => { words := konst, q := 0 }
      | 0x50 | 0x51 | 0x52 | 0x53 | 0x54 => evalTimer x q
      | 0x55 | 0x56 | 0x57 => evalEdge x q
      | 0x58 | 0x59 | 0x5A => evalCounter x q
      | 0x5B => evalPair x q
      | 0x60 | 0x61 => evalLatch x q
      | 0x62 => evalHyst x q
      | 0x63 | 0x64 => evalLagRamp x q
      | 0x65 => evalPid x konst q
      | 0x66 => evalSample x
      | 0x80 =>
        { words := [BitVec.ofNat 32 (b2n (asBool x.a.w && qUsable x.a.q) + 2 * b2n (asBool x.b.w && qUsable x.b.q))], q := q }
      | 0x81 => { words := [evalStamp x], q := 0 }
      | 0x82 => evalCapnew x q
      | 0x83 => evalTrgArm x q
      | 0x84 | 0x90 | 0xA1 => evalRequest x q
      | 0x91 => evalGain x q
      | 0x92 => { words := [BitVec.ofNat 32 (x.param * 256 + b2n (asBool x.a.w && qUsable x.a.q))], q := q }
      | 0xA0 =>
        { words := [if qUsable x.a.q then x.a.w &&& BitVec.ofNat 32 x.param else BitVec.ofNat 32 x.param], q := q }
      | 0xA2 => { words := [x.a.w], q := qNorm x.a.q }
      | _ => evalQuality x

end Sys2Proof.Machine
end

