-- ==== Sys2Proof/Config.lean ====
section
/-! DEFINITION. What a part or an implementation fixes, and the values the spec leaves open: constants with no body,
so that nothing can be proved of their values (notes/assumptions 3 to 7, 25, 179 to 181). -/
namespace Sys2Proof.Config

/-- ID_VARIANT is 0x0000_0058 when true (KLV-3090-X), 0x0000_0041 when false (R13). -/
opaque variantX : Bool
/-- ID_HWREV, per part (R442). -/
opaque hwRev : Word
/-- Firmware slot 1 rather than slot 0 is the ACTIVE slot of higher GENERATION, which the boot ROM tries first (R424). -/
opaque fwFirst : Bool
/-- ID_FWVER of the firmware in slot 0 or 1, per firmware (R442). -/
opaque fwVer : Nat → Word
/-- ID_SERIAL0 to ID_SERIAL2, per part (R442). -/
opaque serial : Nat → Word
/-- The image public key of a key number 0 to 3, as the coordinates of a P-256 point; none when no key is provisioned (R205). -/
opaque imageKey : Nat → Option (Nat × Nat)
/-- The 32-byte maintenance key of a key number 0 to 3; none when no key is provisioned (R450). -/
opaque maintKey : Nat → Option (List Byte)
/-- The 16 bytes of the k-th nonce of the hub's random source (R450). A free value. -/
opaque nonce : Nat → List Byte
/-- The scale the AX0 discipline asks for, from the measured error in ns and the scale in force; the rule that forms it is
not given (R36). A free value, clamped by its user to the 500 ppm limit. -/
opaque servo : Int → DWord → DWord
/-- Coefficient k of the fixed FIR set of preset P0 to P4, Q1.23 in 24 bits; the sets are not printed (R248). A free value. -/
opaque presetCoef : Nat → Nat → Int
/-- What a measurement word holds as its last value before a channel has formed a block (R253). A free value. -/
opaque noBlock : Nat → Word
/-- The clock identity of the module's PTP clock, per part (R297). -/
opaque clockIdentity : BitVec 64
/-- The link delays and star latencies between the far end of the NODE port of plane A or B and the root star of that plane, in ns: the
installation's, and zero where the far end is the root star. R275 counts them in D_up and no rule says how a device learns them. -/
opaque upstream : Bool → Nat
/-- What the position and the direction of the own consist are while no entry of a TOPOLOGY frame is its own (R303). A free value. -/
opaque ownConsist : Nat → Nat × Bool
/-- The level of the straps WKA[2:0] of the wake port address, per carrier (R413). -/
opaque wka : BitVec 3

end Sys2Proof.Config
end

