-- ==== Sys2Proof/Machine/State.lean ====
section
/-! DEFINITION. The state of the module: plain data, everything the spec gives it, with the value each field has at reset
as the field's default (R424: the machine right after reset has AON and HUB powered and stands in B1). A docstring names the
rule that gives the field; 'reset R<n>' says that the rule gives the reset value, 'own' that the field is the model's. -/
namespace Sys2Proof.Machine

/-- What stops the block: nothing in the spec does, apart from a supply beyond the absolute maximum ratings (R466). -/
inductive Fault where
  /-- Raised by POWER_RETURN when VSYS lies beyond its absolute maximum of R466: the spec gives the module no behaviour
  there, only that it may be damaged. Safe: the model stops. -/
  | beyondAbsoluteMaximum
  deriving DecidableEq, Repr

/-- The level of a line that the module drives. -/
inductive Level where
  | low | high | highZ
  deriving DecidableEq, Repr, Inhabited

/-- A command that has no meaning in the model. -/
inductive Refusal where
  /-- Raised by an arm of exec that is not modelled yet. Safe: the model stops. -/
  | notModelled (mnemonic : String)
  deriving DecidableEq, Repr

/-- One thing for each lane. -/
structure Tri (α : Type) where
  a : α
  b : α
  c : α
  deriving DecidableEq, Repr, Inhabited

/-- The service modes, with the code of MOD_STAT.MODE (R158, R442). -/
inductive Mode where
  | bringup | limited | voted3 | voted2 | safe | halted
  deriving DecidableEq, Repr, Inhabited

/-! ### Timing unit (02) -/

/-- A write that waits for a tick on its axis (R34). -/
inductive AxWrite where
  /-- A step by a signed delta, with its cause of R33. -/
  | step (delta : DWord) (cause : Nat)
  /-- A step to a starting value (R33, R35). -/
  | startAt (v : DWord)
  /-- A scale write (R32). -/
  | scale (v : DWord)
  deriving DecidableEq, Repr, Inhabited

/-- One axis (R30, R31, R41). -/
structure Axis where
  /-- Raw counter, 64 bits (R30); reset R31. -/
  raw : DWord := 0
  /-- Offset, signed 64 bits (R30); reset R31. -/
  offset : DWord := 0
  /-- Scale, 32.32 (R30); reset R31. -/
  scale : DWord := 0x0000000100000000
  /-- Writes that wait for a tick, oldest first (R34). -/
  writes : List AxWrite := []
  /-- AXn_STAT.SRC, source code (R35); reset R41. -/
  src : Nat := 0
  /-- Timing input or sensing channel of the source (R35, R42); reset R42. -/
  input : Nat := 0
  /-- Edges counted: 0 rising, 1 falling, 2 both (R42); reset R42. -/
  edges : Nat := 0
  /-- AX0: LOCKED once, or FREE selected by a bank or AXIS_SOURCE: INITIAL ends (R40); reset R40. -/
  settled : Bool := false
  /-- AXn_STAT.LOCKED (R36); reset R41. -/
  locked : Bool := false
  /-- AXn_STAT.HOLDOVER (R36); reset R41. -/
  holdover : Bool := false
  /-- AX0 has been in HOLDOVER beyond the limit (R36). -/
  holdoverOver : Bool := false
  /-- Raw count of AX0 when HOLDOVER began (R36). -/
  holdoverSince : Nat := 0
  /-- Consecutive measurements within the lock threshold, to 16 (R36). -/
  inLock : Nat := 0
  /-- Consecutive measurements outside the lock threshold, to 4 (R36). -/
  outLock : Nat := 0
  /-- AXn_STAT.LOST (R38); reset R41. -/
  lost : Bool := false
  /-- AXn_STAT.REVERSE (R41); reset R41. -/
  reverse : Bool := false
  /-- AXn_STAT.QERR (R37); reset R41. -/
  qerr : Bool := false
  /-- QERR count of illegal transitions (R37). -/
  qerrCount : Nat := 0
  /-- AXn_STAT.STEPPED (R33); reset R41. -/
  stepped : Bool := false
  /-- AXn_STAT.OVERSPEED (R44); reset R41. -/
  overspeed : Bool := false
  /-- AXn_STAT.STEP_COUNT, saturating (R33); reset R41. -/
  stepCount : BitVec 16 := 0
  /-- Raw count of AX0 at the latest illegal transition or discarded edge (R37, R40). -/
  badAt : Option Nat := none
  /-- Raw AX0 count at the pin time of the latest counted edge, AX1 and AX3 (R47); none before the first. -/
  edgeAt : Option Nat := none
  /-- Value at the end of the previous tick, against which a tick's movement is measured (R34). -/
  prev : DWord := 0
  /-- Absolute travel of counted edges since power-up in 2^-32 µm, AX1 (R52). -/
  path : Nat := 0
  /-- Path at the end of the previous tick (R52). -/
  prevPath : Nat := 0
  /-- Number k of the latest crossing, AX2 (R38). -/
  crossings : Nat := 0
  /-- AX0 time t(k) of the latest crossing (R38); none before the first. -/
  crossedAt : Option DWord := none
  /-- Period P(k) in ns (R38). -/
  period : Nat := 20000000
  /-- Crossings discarded as early (R38). -/
  earlyDiscards : Nat := 0
  /-- Latched value of AXn_VAL (R41); reset R41. -/
  latVal : DWord := 0
  /-- Latched raw count of AXn_RAW (R41); reset R41. -/
  latRaw : DWord := 0
  /-- Latched offset of AXn_OFS (R41); reset R41. -/
  latOfs : DWord := 0
  /-- Latched scale of AXn_SCALE (R41); reset R41. -/
  latScale : DWord := 0x0000000100000000
  /-- AX_SNAP was written since the last read of AXn_VAL_HI (R41). -/
  snapped : Bool := false
  deriving DecidableEq, Repr, Inhabited

/-- Values and qualities of the four axes as latched in one tick (R45, R55). -/
structure AxisSample where
  vals : List DWord := [0, 0, 0, 0]
  quals : List (BitVec 4) := [4, 8, 8, 8]
  deriving DecidableEq, Repr, Inhabited

/-- A capture of an edge (R45). -/
structure Capture where
  input : Nat
  rising : Bool
  axes : AxisSample
  stepped : Bool
  deriving DecidableEq, Repr, Inhabited

/-- An edge at a timing input that waits for the tick in which it arrives (R34, R45): its polarity, the length in ns of the pulse it
belongs to, whether the other channel of a quadrature pair changes in the same tick, and whether its timestamp lies 1 ns before the tick. -/
structure ArrivedEdge where
  ti : Nat
  rising : Bool
  width : Nat
  both : Bool
  half : Bool
  deriving DecidableEq, Repr, Inhabited

/-- A timing input (R43 to R45). -/
structure TimingInput where
  /-- TI_CFG byte: standard, termination, glitch filter (R42); reset R42. -/
  cfg : Byte := 0
  /-- Level at the pin after the last accepted edge (R35). -/
  level : Bool := false
  /-- Raw count of AX0 at the last accepted rising edge (R44). -/
  lastRise : Option Nat := none
  /-- Raw count of AX0 at the last accepted falling edge (R44). -/
  lastFall : Option Nat := none
  /-- TIn_CNT.DISCARD, saturating (R44); reset R41. -/
  discard : BitVec 16 := 0
  /-- TIn_CNT.CAP_LOST, saturating (R45); reset R41. -/
  capLost : BitVec 16 := 0
  /-- Capture queue, at most 16, oldest first (R45). -/
  queue : List Capture := []
  /-- Captures delivered to a task since power-up (R133). -/
  delivered : Word := 0
  /-- Captures lost since they were last delivered, saturating (R133). -/
  lostSince : BitVec 16 := 0
  deriving DecidableEq, Repr, Inhabited

/-- The edge a timed output places (R46). -/
inductive OutEdge where
  | set | clear | toggle
  | pulse (ns : Nat)
  /-- End of a pulse: back to the idle level. -/
  | restore
  deriving DecidableEq, Repr, Inhabited

/-- An edge scheduled on a timed output, at an AX0 raw count (R46 to R48). -/
structure SchedEdge where
  at_ : Nat
  armSeq : Nat
  edge : OutEdge
  deriving DecidableEq, Repr, Inhabited

/-- A timed output (R46 to R49). -/
structure TimedOutput where
  /-- TO_CFG byte: standard, idle level (R42); reset R42. -/
  cfg : Byte := 0
  /-- Level at the pin (R49): idle at reset; reset R49. -/
  level : Bool := false
  /-- Raw count of AX0 at the last edge placed (R48). -/
  lastEdge : Option Nat := none
  /-- Edges scheduled and not yet placed, by time (R46). -/
  sched : List SchedEdge := []
  /-- TO_STAT.TOn_LATE, saturating (R48, R53); reset R41. -/
  late : Byte := 0
  deriving DecidableEq, Repr, Inhabited

/-- Kind of a trigger (R51). -/
inductive TrigKind where
  | capture | oneshot | periodic
  deriving DecidableEq, Repr, Inhabited

/-- Direction of a target or lattice (R51, R54). -/
inductive Dir where
  | fwd | rev | any
  deriving DecidableEq, Repr, Inhabited

/-- Who holds a trigger (R50). -/
inductive TrigOwner where
  | free | host | program
  | recorder (defn : Nat)
  | sound (flow : Nat)
  deriving DecidableEq, Repr, Inhabited

/-- The actions of a firing (R51, TRIG_ARM w5 to w8). -/
structure TrigActions where
  output : Option Nat := none
  edge : OutEdge := .set
  task : Option Nat := none
  recorder : Option Nat := none
  hostIrq : Bool := false
  sound : Option Nat := none
  deriving DecidableEq, Repr, Inhabited

/-- A firing report (R51). -/
structure FiringReport where
  axes : AxisSample := {}
  /-- The trigger's axis at the firing (R133). -/
  axis : Nat := 0
  stepped : Bool := false
  late : Bool := false
  points : Nat := 0
  count : Word := 0
  /-- Raw AX0 count at which an output edge of the firing is due (R46, R47). -/
  at_ : Nat := 0
  /-- The actions in force at the firing. -/
  actions : TrigActions := {}
  deriving DecidableEq, Repr, Inhabited

/-- One of the 64 triggers (R50 to R53). -/
structure Trigger where
  owner : TrigOwner := .free
  armed : Bool := false
  kind : TrigKind := .oneshot
  axis : Nat := 0
  dir : Dir := .fwd
  /-- Target, or the next lattice point of a PERIODIC (R52). -/
  value : DWord := 0
  period : DWord := 0
  /-- Timing input of a CAPTURE (R51). -/
  input : Nat := 0
  actions : TrigActions := {}
  /-- Path at arming (R52). -/
  pathBase : Nat := 0
  /-- Lattice points of path already fired (R52). -/
  pathFired : Nat := 0
  /-- It has reached the timing unit but its first evaluation is still to come (R53). -/
  fresh : Bool := false
  /-- Firings since the trigger was first armed (R50). -/
  count : Word := 0
  /-- A ONESHOT that fired since its last arming (R53). -/
  firedOnce : Bool := false
  /-- Order of arming, for edges on the same tick (R48). -/
  armSeq : Nat := 0
  /-- Firings found by a tick and not yet performed, oldest first (R51). -/
  due : List FiringReport := []
  /-- The latest firing report (R51). -/
  report : Option FiringReport := none
  /-- Event releases dropped because they named a task absent from the running program (R222). -/
  dropped : Nat := 0
  deriving DecidableEq, Repr, Inhabited

/-- The release generator of a task in force: what the program defines (R54). -/
inductive RelSource where
  | none
  | lattice (axis : Nat) (dir : Dir) (phase period : DWord)
  | event (kind number : Nat)
  deriving DecidableEq, Repr, Inhabited

/-- Force targets of R143 with the value, KEEP flag and whether the lanes have acknowledged it (R144). -/
structure Force where
  /-- Index in the table of 256 entries. -/
  slot : Nat
  kind : Nat
  id : Word
  v0 : Word
  v1 : Word
  keep : Bool
  /-- All three lanes have acknowledged the entry (R144). -/
  effective : Bool := false
  /-- The entry is to be removed once the lanes have acknowledged (R144). -/
  leaving : Bool := false
  deriving DecidableEq, Repr, Inhabited

/-- A safe telegram copy as received: plane, bytes, reception AX0 (R193). -/
structure SafeRx where
  conn : Nat
  planeB : Bool
  bytes : List Byte
  rx : DWord
  deriving DecidableEq, Repr, Inhabited

/-- What a release takes as it stands in its tick (R19, R132, R133, R144, R193): the version of the program it was taken for, the hub's part
of the image without captures, the forces, the copies of safe telegrams, and for each timing input the captures queued and lost. -/
structure RelView where
  new : Bool
  image : List (Nat × QWord)
  forces : List Force
  copies : List SafeRx
  caps : List (Nat × BitVec 16)
  deriving DecidableEq, Repr, Inhabited

/-- A release found by a tick, with what the hub latched in that tick (R55). -/
structure RelDue where
  cause : Nat
  axes : AxisSample
  /-- STEPPED of each axis since the task's previous release (R55). -/
  stepped : List Bool
  reverse : Bool
  holdover : Bool
  /-- What the release takes, once its tick is over (R132). -/
  view : Option RelView := none
  deriving DecidableEq, Repr, Inhabited

/-- A release generator (R54). -/
structure Generator where
  source : RelSource := .none
  /-- High-water mark: the most advanced point released or skipped (R54). -/
  hwm : Option DWord := none
  /-- Lattice points skipped since the previous release (R55). -/
  skipped : Nat := 0
  /-- Release count of the task, wrapping (R55). -/
  count : Word := 0
  /-- A step occurred on each axis since the previous release (R55). -/
  stepped : List Bool := [false, false, false, false]
  /-- Path at the origin of an ANY lattice (R54). -/
  pathBase : Nat := 0
  /-- Releases found by a tick, not yet latched into a stamp (R55). -/
  due : List RelDue := []
  /-- An event is kept pending (R128). -/
  eventPending : Bool := false
  /-- AX0 value at the latest release (R128). -/
  lastAx0 : Option DWord := none
  deriving DecidableEq, Repr, Inhabited

/-- A clock at a step of AX0 (R244, R256): raw count and value at the step, raw count at which the period then in progress ends, AX0 value of
the first edge of the new lattice, and the value after the latest step. -/
structure ClockHold where
  raw0 : Nat
  v0 : Int
  endAt : Nat
  resume : Int
  v1 : Int
  deriving DecidableEq, Repr, Inhabited

/-- The timing unit (02). -/
structure Timing where
  axes : List Axis := [{}, {}, {}, {}]
  inputs : List TimingInput := [{}, {}, {}, {}]
  outputs : List TimedOutput := [{}, {}, {}, {}]
  triggers : List Trigger := List.replicate 64 {}
  gens : List Generator := List.replicate 16 {}
  /-- Count of armings (R48). -/
  armCount : Nat := 0
  /-- Edges that have arrived since the last tick, oldest first: step 1 of the next tick takes them (R34). -/
  arrived : List ArrivedEdge := []
  /-- A step is applied on an axis in the current tick (R45). -/
  tickStepped : List Bool := [false, false, false, false]
  /-- The latest step of AX0: raw count, value before and after it (R293). -/
  stepMark : Option (Nat × DWord × DWord) := none
  /-- What the latest step of AX0 left of MCK0, MCK1 and the clocks of TDM0 and TDM1 (R244, R256); none before the first. -/
  clocks : List (Option ClockHold) := [none, none, none, none]
  /-- Levels after the latest tick: MCK0, MCK1, then BCK, FS and DO of TDM0 and of TDM1 (R244, R255). -/
  pins : List Bool := List.replicate 8 false
  /-- STEP_THR in ns (R36); reset R36. -/
  stepThr : Nat := 10000
  /-- LOCK_THR in ns (R36); reset R36. -/
  lockThr : Nat := 1000
  /-- HOLDOVER limit in s (R36); reset R36. -/
  holdoverLimit : Nat := 60
  /-- AX2_NOMINAL in µs (R42); reset R42. -/
  nominal : Nat := 20000
  deriving DecidableEq, Repr, Inhabited

/-- The axis block of section 3 (R42). -/
structure TimCfg where
  /-- SRC, INPUT and EDGES of the four axes; reset R42. -/
  axes : List (Nat × Nat × Nat) := [(0, 0, 0), (0, 0, 0), (0, 0, 0), (0, 0, 0)]
  /-- STEP_THR; reset R42. -/
  stepThr : Nat := 10000
  /-- LOCK_THR; reset R42. -/
  lockThr : Nat := 1000
  /-- HOLDOVER; reset R42. -/
  holdover : Nat := 60
  /-- AX2_NOMINAL; reset R42. -/
  nominal : Nat := 20000
  /-- TI_CFG; reset R42. -/
  inputs : List Byte := [0, 0, 0, 0]
  /-- TO_CFG; reset R42. -/
  outputs : List Byte := [0, 0, 0, 0]
  deriving DecidableEq, Repr, Inhabited

/-! ### Programs (04, 05, 08) -/

/-- An entry of the instance table: key, task, home block and record (R85, R205), with what the loader builds for it: its slot,
DEP_INIT and successors, the latter as positions in the instance table (R64, R81). -/
structure Inst where
  key : Word
  task : Nat
  home : Nat
  op : Nat
  mods : Byte
  out : Nat
  inA : Nat
  inB : Nat
  inC : Nat
  st : Nat
  param : Word
  slot : Nat := 0
  depInit : Nat := 0
  succs : List Nat := []
  deriving DecidableEq, Repr, Inhabited

/-- A declared page: 256 words of a variable (0), state (1) or constant (2) space (R65, R206). -/
structure PageDecl where
  task : Nat
  space : Nat
  page : Nat
  slice : Nat
  retained : Bool
  key : Word
  /-- Initial words, 256 of them; none for all zero (R206). -/
  init : Option (List Word)
  /-- Double-banked: some word is read with a previous-cycle flag (R65). -/
  double : Bool := false
  deriving DecidableEq, Repr, Inhabited

/-- An entry of the task table (R123). -/
structure TaskDef where
  task : Nat
  safety : Bool
  prio : Nat
  source : Nat
  dir : Nat
  period : DWord
  phase : DWord
  event : Word
  deadline : Word
  skew : Nat
  deriving DecidableEq, Repr, Inhabited

/-- An entry of the I/O bindings (R207). -/
structure Binding where
  task : Nat
  kind : Nat
  index : Nat
  id : Word
  arg : Word
  deriving DecidableEq, Repr, Inhabited

/-- A force permission (R205). -/
structure ForcePerm where
  kind : Nat
  id : Word
  deriving DecidableEq, Repr, Inhabited

/-- A signal entry of the signal map (R309). -/
structure SigItem where
  signal : Word
  group : Nat
  /-- 0 BOOL, 1 INT32, 2 UINT32, 3 REAL32, 4 I64. -/
  ty : Nat
  keepLast : Bool
  bit : Nat
  offset : Nat
  subst : DWord
  deriving DecidableEq, Repr, Inhabited

/-- A group entry of the signal map (R309). -/
structure SigGroup where
  group : Nat
  publish : Bool
  /-- 0 KALVI, 1 PLAIN, 2 SAFE. -/
  format : Nat
  /-- 1 Flovis, 2 TRDP. -/
  carrier : Nat
  /-- 0 CYCLIC, 1 ON_REQUEST, 2 PULL. -/
  mode : Nat
  size : Nat
  peer : Nat
  conn : Nat
  comId : Word
  ip : Word
  period : Nat
  fresh : Nat
  grace : Nat
  deriving DecidableEq, Repr, Inhabited

/-- A program as the loader builds it from an image (R81, R205). -/
structure Program where
  /-- PROG_ID (R205). -/
  progId : Word := 0
  /-- PROG_VER (R205). -/
  progVer : Word := 0
  /-- SHA-256 of the signed region (R202). -/
  digest : List Byte := []
  /-- Flash image slot it stands in (R202). -/
  slot : Nat := 0
  insts : List Inst := []
  consts : List (Nat × Nat × List Word) := []
  pages : List PageDecl := []
  tasks : List TaskDef := []
  groups : List SigGroup := []
  sigs : List SigItem := []
  binds : List Binding := []
  perms : List ForcePerm := []
  deriving DecidableEq, Repr, Inhabited

/-! ### Tasks at the hub (05) -/

/-- What the hub keeps for a task (R127 to R142, R160, R218 to R221). -/
structure HubTask where
  /-- A release whose harvest has not completed step 2 (R128). -/
  inFlight : Bool := false
  /-- Lanes whose watchdog for the release in flight expired (R139). -/
  expired : List Lane := []
  /-- An overrun has been declared for the release in flight (R139). -/
  overrun : Bool := false
  /-- Consecutive releases with a SERVICE overrun (R142). -/
  overrunRun : Nat := 0
  /-- The next release point is skipped after a SERVICE overrun (R142). -/
  skipNext : Bool := false
  /-- Deadline misses, wrapping (R131). -/
  misses : BitVec 16 := 0
  /-- Skip counter, wrapping (R128, R131). -/
  skips : BitVec 16 := 0
  /-- Events merged beyond the first into the pending release (R129). -/
  merged : Nat := 0
  /-- Voted output image of the latest harvest with a step 3, in binding order (R134, R136). -/
  voted : Option (List QWord) := none
  /-- Voted request counts the receivers compare with: word index and count (R118). -/
  refs : List (Nat × Nat) := []
  /-- Request words that have had no usable count since the program switch: their next one is the reference and does not act (R118). -/
  noRef : List Nat := []
  /-- The next harvest is the first one after a program switch (R118, R161). -/
  firstAfterSwitch : Bool := false
  /-- The task runs the new program of an exchange (R219). -/
  switched : Bool := false
  /-- W that governs its window (R161, R215). -/
  window : Nat := 8
  /-- Position in the window of the next harvest (R161). -/
  wpos : Nat := 1
  /-- Generation of its checkpoint: harvest sequence of the latest agreed one; none before the first (R167). -/
  generation : Option DWord := none
  /-- The version the agreed checkpoint was taken in is the new program's (R223). -/
  ckptNew : Bool := false
  /-- Harvests of the task since the recorder section took effect (R345). -/
  harvests : Nat := 0
  deriving DecidableEq, Repr, Inhabited

/-! ### Lanes (03, 05, 06) -/

/-- A page of a lane: two banks for a double-banked variable page, one otherwise (R65, R66). -/
structure LanePage where
  task : Nat
  space : Nat
  page : Nat
  bank0 : List QWord
  bank1 : List QWord
  deriving DecidableEq, Repr, Inhabited

/-- An instance of a lane: its position in the instance table of the old or the new program (R218). -/
structure InstRef where
  new : Bool
  i : Nat
  deriving DecidableEq, Repr, Inhabited

/-- A pan (R62, R83). -/
structure Pan where
  retired : Bool := false
  /-- The instance in hand (R69). -/
  busy : Option InstRef := none
  deriving DecidableEq, Repr, Inhabited

/-- A pan block: its pans and its ready queue of instance positions, in the order they were enqueued with retried ones first in
their class (R62, R73, R83). -/
structure PanBlock where
  pans : List Pan := List.replicate 16 {}
  queue : List InstRef := []
  /-- The status published in the latest clock: best class present in the queue and its entries; none for an empty queue (R75). -/
  published : Option (Nat × Nat) := none
  deriving DecidableEq, Repr, Inhabited

/-- The cycle of a task in a lane (R68 to R72). -/
structure Cycle where
  /-- The cycle is running. -/
  active : Bool := false
  /-- Release count k of the cycle (R66). -/
  rel : Word := 0
  /-- DEP_LIVE of the task's instances that still wait: position and count (R68, R70). -/
  live : List (Nat × Nat) := []
  /-- Instances enqueued in this cycle (R70, R83). -/
  enqueued : List Nat := []
  /-- Instances committed in this cycle (R72). -/
  committed : Nat := 0
  /-- Signature partial of each block (R72, R160). -/
  partials : List DWord := List.replicate 16 0
  /-- A pan retired during the cycle (R153). -/
  panRetired : Bool := false
  /-- Retained lines dirtied in the cycle: key and line (R150). -/
  lines : List (Word × Nat) := []
  /-- Output forces that govern the cycle (R144). -/
  forces : List Force := []
  /-- Pages written in the cycle: space and page (R386). -/
  pages : List (Nat × Nat) := []
  deriving DecidableEq, Repr, Inhabited

/-- What a lane keeps for a task. -/
structure LaneTask where
  cyc : Cycle := {}
  /-- RUN_SIG at the end of the last cycle (R160, R161). -/
  runSig : DWord := 0
  /-- RUN_COUNT at the end of the last cycle (R160, R161). -/
  runCount : Word := 0
  /-- The lane runs the task in the new program of an exchange (R219). -/
  newVer : Bool := false
  /-- WPOS of the next frame (R153, R161). -/
  wpos : Nat := 1
  /-- Release whose task watchdog runs (R138). -/
  watch : Option Word := none
  /-- Release whose task watchdog has expired (R138). -/
  expired : Option Word := none
  /-- Retained lines that earlier frames left over: key and line, oldest first (R150, R154). -/
  dirtyLines : List (Word × Nat) := []
  /-- Pages dirty since the last checkpoint: space and page (R168). -/
  dirtyPages : List (Nat × Nat) := []
  /-- The frame of the latest release, which stays in the lane until step 3 (R156). -/
  frame : Option LaneFrame := none
  /-- Caught up in a rejoin (R173). -/
  caughtUp : Bool := false
  /-- Pages are loaded from the checkpoint in a rejoin (R173). -/
  loaded : Bool := false
  deriving DecidableEq, Repr, Inhabited

/-- Lane states of R176. -/
inductive LaneState where
  | off | rejoining | active | debug | excluded
  deriving DecidableEq, Repr, Inhabited

/-- Where a REJOINING lane stands (R171, R173): before its self-test, after it, loaded, and in shadow. -/
inductive LaneStage where
  | selftest | load | await | catchUp
  deriving DecidableEq, Repr, Inhabited

/-- A release on its way to a lane: the stamp words with their nibbles, the hub's part of the input image, the field bindings'
sample set, and what governs the cycle (R55, R68, R132). -/
structure StampMsg where
  task : Nat
  rel : Word
  stamp : List QWord
  image : List (Nat × QWord)
  /-- SEQ of the sample set that R19 selects; none where no field word is bound or no set stands at or before the stamp. -/
  sample : Option Nat := none
  forces : List Force := []
  /-- The newest telegram copies of the connections that the task reads (R193). -/
  copies : List SafeRx := []
  /-- This release switches the task to the new program (R220). -/
  switches : Bool := false
  /-- Stamp and image are copies from the controlling member, payload words included (R385). -/
  copied : Bool := false
  /-- It has reached the lane, where it waits for its sample set (R19, R138). -/
  here : Bool := false
  deriving DecidableEq, Repr, Inhabited

/-- The command of a lane for one channel: CHDRV and TREQ (R235, R240). -/
structure ChCmd where
  on : Bool := false
  testOk : Bool := false
  /-- TREQ frames still to send (R237). -/
  treq : Nat := 0
  deriving DecidableEq, Repr, Inhabited

/-- A sample set as a lane takes it from a sample frame (R229, R240). -/
structure SampleSet where
  /-- Number of the strobe since FIELD power-up; SEQ is its low byte. -/
  seq : Nat
  /-- AX0 value of the strobe. -/
  ax0 : DWord
  /-- Filtered values of the 32 channels with their nibbles. -/
  vals : List QWord
  /-- Status word of the rotated channel and the channel (R240). -/
  rot : Nat
  status : Word
  /-- Raw AX0 count of the latest AX0 step before the strobe (R185); own. -/
  step : Option Nat := none
  deriving DecidableEq, Repr, Inhabited

/-- A receiver's timing of the acknowledge channel on the stamps of its sample frames (R185). -/
structure AckTrack where
  high : Bool := false
  /-- AX0 stamp of the rising edge, and the latest AX0 step before it. -/
  riseAt : DWord := 0
  riseStep : Option Nat := none
  /-- AX0 stamp of the first sample of the present low time. -/
  lowAt : Option DWord := none
  /-- AX0 stamp of the newest sample. -/
  newest : DWord := 0
  /-- A pulse that has ended and waits for ACK_EDGE: its high time in ns, and whether it contains an AX0 step. -/
  ended : Option (Nat × Bool) := none
  deriving DecidableEq, Repr, Inhabited

/-- One lane (R15, R62). -/
structure LaneSt where
  st : LaneState := .off
  /-- REJOINING by the restart path rather than the rejoin path (R176). -/
  restartPath : Bool := false
  stage : LaneStage := .selftest
  /-- Held in reset by the reset controller (R162, R172). -/
  held : Bool := true
  /-- The 100 µs reset hold runs (R172). -/
  holdRunning : Bool := false
  /-- Raw AX0 count at which the reset hold began (R172). -/
  holdAt : Nat := 0
  /-- EXCLUDED beyond REJOIN_LIMIT: stays out until MODULE_RESET or a power cycle (R172). -/
  beyond : Bool := false
  /-- The lane has stopped all tasks (R83). -/
  stopped : Bool := false
  /-- A shadow harvest was not AGREE, or counts AGREE shadow harvests of T0 (R173). -/
  shadowT0 : Nat := 0
  pages : List LanePage := []
  blocks : List PanBlock := List.replicate 16 {}
  /-- Block granted last as a raking requester of each victim queue (R74). -/
  granted : List Nat := List.replicate 16 0
  /-- Decrements on their way to other blocks: position of the consumer (R70). -/
  wakes : List InstRef := []
  tasks : List LaneTask := List.replicate 16 {}
  /-- SEQ of the latest frame sent, on every link of the lane (R153). -/
  seq : Word := 0
  /-- Releases on their way to the lane (R55). -/
  stamps : List StampMsg := []
  /-- Sample sets received, newest first (R19). -/
  samples : List SampleSet := []
  /-- Drive commands kept for the channels (R159, R240). -/
  drive : List ChCmd := List.replicate 32 {}
  /-- Drive gate open at the lane's latest harvest (R159). -/
  gate : Bool := false
  /-- SEQ of the latest drive frame sent (R240). -/
  driveSeq : Nat := 0
  /-- Safe latch (R180): set at reset; reset R180. -/
  latch : Bool := true
  /-- Lockout of group FA and FB (R238). -/
  lockA : Bool := false
  lockB : Bool := false
  /-- Channels whose TEST_FAIL has been taken from a report (R238). -/
  failSeen : List Nat := []
  /-- A lone acknowledge report of the lane stands (R185). -/
  ackReported : List AckSource := []
  /-- Its timing of the acknowledge channel (R185). -/
  ackTrack : AckTrack := {}
  /-- Late frames (R152, R179). -/
  late : Nat := 0
  /-- SEQ gaps (R155, R179). -/
  seqGap : Nat := 0
  /-- DIFFER verdicts (R179). -/
  differ : Nat := 0
  /-- ABSENT verdicts (R179). -/
  absent : Nat := 0
  /-- Frames discarded under R155. -/
  discarded : Nat := 0
  /-- Raw AX0 counts of the exclusions that count toward REJOIN_LIMIT (R172). -/
  exclusions : List Nat := []
  /-- AX0 and harvest sequence of the last exclusion (R179). -/
  lastExclAx0 : DWord := 0
  lastExclHarvest : DWord := 0
  /-- Corrected errors of block banks, slices and queue memories (R84). -/
  eccBlock : Nat := 0
  eccSlice : Nat := 0
  eccQueue : Nat := 0
  /-- Latest corrected address of each kind and its raw AX0 count (R83). -/
  eccLast : List (LaneMem × Nat × Nat × Nat) := []
  /-- DEBUG in FREEZE rather than RUN (R178). -/
  freeze : Bool := false
  freezeTask : Nat := 0
  freezeRel : Word := 0
  /-- FREEZE has taken hold (R178). -/
  frozen : Bool := false
  /-- Thermal trip: the lane is held in reset until it cools (R484). -/
  hot : Bool := false
  /-- Result of its unit's last injection test: none not run, some 0 passed, some p failed pattern p (R165). -/
  injection : Option Nat := none
  /-- The program is loaded and its block banks checked (R428). -/
  loaded : Bool := false
  /-- Digest of the shadow bank or the staged image reported: same, differs, none (R214, R218). -/
  digest : Option Bool := none
  /-- A digest difference has been answered by sending once more (R214). -/
  resent : Bool := false
  deriving DecidableEq, Repr, Inhabited

/-! ### Voting and checkpoints at the hub (06) -/

/-- The verdict vector of a party, with the hub's slot-attributed verdicts (R162). -/
structure Vector3 where
  v : Tri Verdict
  /-- Slot-attributed (hub only, R162). -/
  slot : Tri Bool := ⟨false, false, false⟩
  /-- Verdicts within 2 µs of the party's vote deadline (R162). -/
  near : Tri Bool := ⟨false, false, false⟩
  deriving DecidableEq, Repr, Inhabited

/-- A vote that a comparator holds open or has completed for a release (R152). -/
structure Vote where
  party : Party
  task : Nat
  rel : Word
  /-- The lanes that were ACTIVE at the release: a lane admitted at a harvest votes from the next release on (R152, R173). -/
  act : List Lane := []
  /-- The lanes that were ACTIVE at the task's previous release: their frames of it are late now (R152). -/
  before : List Lane := []
  /-- Valid frames, by lane (R155). -/
  frames : List (Lane × LaneFrame) := []
  /-- Raw AX0 count at the first valid frame of an ACTIVE lane (R152). -/
  started : Option Nat := none
  vector : Option Vector3 := none
  /-- Lanes whose frame reached the party within 2 µs of its vote deadline (R162). -/
  near : List Lane := []
  /-- Slots of the hub found corrupt or stale at read (R163). -/
  slotBad : List Lane := []
  /-- A corrupt slot found no spare: S3 (R163). -/
  noSpare : Bool := false
  /-- The comparator gave no verdict within 10 µs of its vote deadline (R163). -/
  stalled : Bool := false
  /-- The vectors of the release have been compared (R162). -/
  judged : Bool := false
  deriving DecidableEq, Repr, Inhabited

/-- A page of the checkpoint store: its two slots and the agreed one (R167). -/
structure StorePage where
  task : Nat
  space : Nat
  page : Nat
  slot0 : List QWord
  slot1 : List QWord
  agreed : Nat
  deriving DecidableEq, Repr, Inhabited

/-- A page of a checkpoint in progress: its contents, which stay in each ACTIVE lane until they are sent, and the CRC-32C each
ACTIVE lane listed (R168, R169). -/
structure CkptPage where
  space : Nat
  page : Nat
  words : List (Lane × List QWord)
  crcs : List (Lane × Word)
  deriving DecidableEq, Repr, Inhabited

/-- What a lane keeps of a connection in state words of its task (R192 to R194). -/
structure ConnState where
  conn : Nat
  task : Nat
  /-- SEQ of the latest telegram sent (R192), or last_seq (R193). -/
  seq : Word := 0
  /-- last_rx (R193); none before the first acceptance. -/
  lastRx : Option DWord := none
  /-- last_two (R193). -/
  lastTwo : Option DWord := none
  /-- Timed out since the last acceptance (R193). -/
  timedOut : Bool := true
  /-- Accepted on one plane at the latest evaluation (R194). -/
  degraded : Bool := false
  /-- Payload words as bound (R194). -/
  words : List QWord := []
  /-- Release count at which the two copies last disagreed (R194). -/
  mismatchAt : Option Word := none
  deriving DecidableEq, Repr, Inhabited

/-- A checkpoint in progress (R168, R173). -/
structure Ckpt where
  task : Nat
  /-- Release count of the cycle after which it was taken (own). -/
  rel : Word := 0
  gen : DWord
  source : Lane
  /-- The lanes that were ACTIVE when the lists were made (R168). -/
  act : List Lane := []
  /-- Pages still to come, oldest first. -/
  todo : List CkptPage
  /-- Pages written to their non-agreed slots: space, page and contents. -/
  done : List (Nat × Nat × List QWord) := []
  /-- The page at the front has been requested once more (R169). -/
  retried : Bool := false
  /-- Rejoining lane that catches up with it (R173). -/
  catchUp : Option Lane := none
  /-- Taken in the new program of an exchange (R223). -/
  newVer : Bool := false
  /-- Connection states of the task as they stand with it (R192). -/
  conns : List ConnState := []
  deriving DecidableEq, Repr, Inhabited

/-- Who asked for an injection test (R165). -/
inductive InjectBy where
  | command (mb : Mb)
  | timer
  deriving DecidableEq, Repr, Inhabited

/-- The hub voter, the reset controller and the checkpoint store. -/
structure Voter where
  /-- MOD_HARVEST: sequence of the latest harvest (R23); reset R23. -/
  harvest : DWord := 0
  votes : List Vote := []
  /-- Output frames on their way to the comparators, oldest first (R153). -/
  inFlight : List (Party × LaneFrame) := []
  /-- Last accepted SEQ on the link of each party and lane (R155). -/
  lastSeq : List (Party × Lane × Word) := []
  /-- SPLITS (R162). -/
  splits : Nat := 0
  /-- CKPT_DEFER (R170). -/
  deferred : Nat := 0
  /-- Hub slots retired to a spare, of four (R156, R163). -/
  slotsRetired : Nat := 0
  /-- Hub slots found corrupt: lane and task (R163). -/
  badSlots : List (Lane × Nat) := []
  /-- The checkpoint store: voted pages of the tasks (R166, R167). -/
  store : List StorePage := []
  /-- Checkpoints being sent (R168). -/
  ckpts : List Ckpt := []
  /-- A restart from the checkpoint is running (R171). -/
  restarting : Bool := false
  /-- Self-tests of the restart still running (R171). -/
  selftests : List Lane := []
  /-- The load is complete and the lanes wait for the first release (R171). -/
  awaitRelease : Bool := false
  /-- Raw AX0 counts of restarts (R175). -/
  restarts : List Nat := []
  /-- Restarts run since bring-up (R179). -/
  restartCount : Nat := 0
  /-- No restart is run any more: the hub voter failed its test in VOTED2 or SAFE (R165). -/
  noRestart : Bool := false
  /-- Hub voter's result in the last injection test (R165). -/
  hubInjection : Option Nat := none
  /-- An injection test is running and who asked for it (R165). -/
  injecting : Option InjectBy := none
  /-- Pattern frames of a running injection test that reached a party in place of the test's own (R155, R164). -/
  testFrames : List (Party × LaneFrame) := []
  /-- Injection tests run, for lane X of R164. -/
  injectRun : Nat := 0
  /-- Raw AX0 count at the latest injection test (R165). -/
  lastInject : Nat := 0
  /-- DBG_ATTACH accepted and not yet in effect: lane, freeze, task, release count (R177). -/
  attach : Option (Lane × Bool × Nat × Word) := none
  /-- The mailbox whose session attached the lane in DEBUG (R178). -/
  debugMb : Option Mb := none
  /-- Retained lines voted and not yet written, with whether each buffer still needs them: key, line, words, for 0, for 1
  (R150). -/
  retDirty : List (RetLine × Bool × Bool) := []
  /-- A harvest asks for step 5 (R150). -/
  retDue : Bool := false
  /-- Active retained buffer (R150). -/
  retActive : Nat := 0
  /-- The directory must be written to buffer 0, buffer 1 (R150, R151). -/
  retDir0 : Bool := true
  retDir1 : Bool := true
  /-- Retained pages have been restored since bring-up (R151). -/
  retRestored : Bool := false
  deriving DecidableEq, Repr, Inhabited

/-- The module: mode, and what waits for step 8 (R22, R132, R175). -/
structure Module where
  /-- MOD_STAT.MODE (R175); reset R424. -/
  mode : Mode := .bringup
  /-- An acknowledge has been accepted in SAFE and takes effect at step 8 of the next harvest of T0 (R175). -/
  ackPending : Bool := false
  /-- Work for step 7 of a harvest: harvest sequence, task, words of RECTRIG requests' definitions (R22, R345). -/
  step7 : List (DWord × Nat × List Nat) := []
  /-- Work for step 6 (R22, R386): harvest sequence and task. -/
  step6 : List (DWord × Nat) := []
  /-- Work for step 8 (R22): harvest sequence and task. -/
  step8 : List (DWord × Nat) := []
  /-- JTAG_TRST_N is high: the module halts at its next harvest (R458). -/
  jtagHigh : Bool := false
  /-- A hub-voter-fault line has been raised (R162). -/
  hubFaultLines : Nat := 0
  /-- The forces (R143). -/
  forces : List Force := []
  /-- A force change waits for the lanes' acknowledgement, and the mailbox that waits for it (R144). -/
  forceWait : Option Mb := none
  /-- The supervisor watchdog has expired and the supervisor not yet restarted (R361, R374). -/
  wdExpired : Bool := false
  deriving DecidableEq, Repr, Inhabited

/-! ### Safe state and safe telegrams (07) -/

/-- Section 1 of the bank (R209). -/
structure ModuleCfg where
  /-- VOTE_WINDOW (R179); reset R209. -/
  window : Nat := 8
  /-- AUTO_REJOIN (R179); reset R209. -/
  autoRejoin : Bool := true
  /-- BENCH (R179); reset R209. -/
  bench : Bool := false
  /-- FORCE_PERMIT (R146); reset R209. -/
  forcePermit : Bool := false
  /-- AUTO_START (R427); reset R209. -/
  autoStart : Bool := true
  /-- REJOIN_LIMIT (R172); reset R209. -/
  rejoinLimit : Nat := 3
  /-- ACK_SOURCES (R199); reset R209. -/
  ackSources : Nat := 1
  /-- ACK_CHANNEL; none for 0xFF (R199); reset R209. -/
  ackChannel : Option Nat := none
  /-- PLANE_A_LANE (R190); reset R209. -/
  planeA : Nat := 0
  /-- PLANE_B_LANE (R190); reset R209. -/
  planeB : Nat := 1
  /-- PLANE_WAIT in µs (R193); reset R209. -/
  planeWait : Nat := 50
  deriving DecidableEq, Repr, Inhabited

/-- A safe connection of section 9 (R200). -/
structure SafeConn where
  conn : Nat
  send : Bool
  task : Nat
  scid : Word
  peer : Nat
  loc : Nat
  length : Nat
  timeoutMs : Nat
  singleMs : Nat
  passive : List Byte
  deriving DecidableEq, Repr, Inhabited

/-- Timing of one acknowledge source at the reset controller or the mailboxes (R185, R186). -/
structure Ack where
  /-- ACK_JAMMED of the pin and the channel (R185). -/
  pinJammed : Bool := false
  chJammed : Bool := false
  /-- ACK_SHORT (R185). -/
  short : Nat := 0
  /-- Lone acknowledge reports (R185). -/
  lone : Nat := 0
  /-- Reports of the past 10 ms: source, lane, raw AX0 count, and whether the edge has been accepted (R185). -/
  reports : List (AckSource × Lane × Nat × Bool) := []
  /-- The reset controller's timing of the acknowledge channel in HALTED (R185). -/
  track : AckTrack := {}
  /-- Raw AX0 count at the latest end of a pulse at the pin (R185). -/
  pinLow : Option Nat := none
  /-- Pending first SAFE_ACK commands: mailbox, source, token, raw AX0 count (R186). -/
  firsts : List (Mb × Source × Word × Nat) := []
  deriving DecidableEq, Repr, Inhabited

/-- Safe telegrams at the hub (R190, R193). -/
structure SafeHub where
  /-- Newest copies received (R193). -/
  rx : List SafeRx := []
  /-- Latest telegrams sent: connection, plane B, bytes (R190, R192). -/
  tx : List (Nat × Bool × List Byte) := []
  /-- Connection states as checkpointed with their tasks (R192, R193). -/
  ckpt : List ConnState := []
  /-- The connections in force: a swap replaces them task by task (R215). -/
  conns : List SafeConn := []
  /-- Tasks whose connections change at their next release (R215). -/
  connTasks : List Nat := []
  /-- MOD_STAT.SAFE_MISMATCH (R194); reset R442. -/
  mismatch : Bool := false
  deriving DecidableEq, Repr, Inhabited

/-! ### Field stage (09) -/

/-- A group entry of section 2 (R227). -/
structure GrpCfg where
  /-- NOMINAL; reset R227. -/
  nominal : Nat := 4
  /-- GSW_TEST; reset R227. -/
  gswTest : Bool := false
  /-- TEST_PERIOD in s; reset R227. -/
  testPeriod : Nat := 60
  /-- TEST_WIDTH in µs; reset R227. -/
  testWidth : Nat := 300
  deriving DecidableEq, Repr, Inhabited

/-- A channel entry of section 2 (R227). -/
structure ChCfg where
  /-- MODE: 0 OFF to 6 PARALLEL_MEMBER; reset R227. -/
  mode : Nat := 0
  /-- FLAGS: WAKE, OPEN_EN, RETRY, TEST_EN; reset R227. -/
  flags : Nat := 0
  /-- PARTNER; reset R227. -/
  partner : Nat := 0xFF
  /-- PARALLEL; reset R227. -/
  parallel : Nat := 1
  /-- ON_PCT; reset R227. -/
  onPct : Nat := 60
  /-- OFF_PCT; reset R227. -/
  offPct : Nat := 30
  /-- UPPER; reset R227. -/
  upper : Nat := 300
  /-- LOWER; reset R227. -/
  lower : Nat := 0
  /-- CMAX; reset R227. -/
  cmax : Nat := 300
  /-- CHAT_COUNT; reset R227. -/
  chatCount : Nat := 0
  /-- CHAT_LEAK; reset R227. -/
  chatLeak : Nat := 100
  /-- STUCK_TIME in s; reset R227. -/
  stuckTime : Nat := 0
  /-- IMIN in mA; reset R227. -/
  imin : Nat := 0
  /-- OPEN_T in ms; reset R227. -/
  openT : Nat := 100
  deriving DecidableEq, Repr, Inhabited

/-- A channel of the field stage (R229 to R243). -/
structure ChSt where
  /-- Raw value (R229). -/
  raw : Bool := false
  /-- Filter counter (R229). -/
  c : Nat := 0
  /-- Filtered value (R229). -/
  val : Bool := false
  /-- Chatter counter (R231): zero after FIELD power-up; reset R231. -/
  b : Nat := 0
  /-- Leak timer (R231). -/
  leak : Nat := 0
  /-- CHATTER (R231). -/
  chatter : Bool := false
  /-- Value frozen under CHATTER (R231). -/
  frozen : Bool := false
  /-- STUCK (R232). -/
  stuck : Bool := false
  /-- Strobes for which the value still carries INITIAL (R233). -/
  initLeft : Nat := 0
  /-- Value published in the latest sample set (R231). -/
  published : Bool := false
  /-- Transitions of the published value or of the switch (R243). -/
  transitions : Nat := 0
  /-- Voted ON and TEST_OK (R235). -/
  on : Bool := false
  testOk : Bool := false
  /-- OVERLOAD and OVERTEMP latches (R236). -/
  overload : Bool := false
  overtemp : Bool := false
  /-- Automatic retries in a row that have not held (R236). -/
  retries : Nat := 0
  /-- Strobes for which the switch has stayed closed since the latest automatic retry (R236). -/
  heldFor : Nat := 0
  /-- OPEN (R236). -/
  openWire : Bool := false
  /-- RB_ERR (R236). -/
  rbErr : Bool := false
  /-- TEST_FAIL (R238). -/
  testFail : Bool := false
  /-- TEST_OVERDUE (R237). -/
  testOverdue : Bool := false
  /-- A dark test is in progress (R237). -/
  testing : Bool := false
  /-- A test has been made for the present assertion of the TREQ bits (R237). -/
  testMade : Bool := false
  /-- DISAGREE (R235). -/
  disagree : Bool := false
  /-- The lane that a record has named for its present minority (R235). -/
  minority : Option Lane := none
  /-- GSW_FAIL (R239). -/
  gswFail : Bool := false
  /-- SELFTEST_FAIL (R241). -/
  selftestFail : Bool := false
  /-- Contact above ON_PCT at the latest strobe (R242). -/
  contact : Bool := false
  /-- LOAD in 10 mA units (R242). -/
  load : Nat := 0
  /-- Trips, tests passed, tests failed (R243). -/
  trips : Nat := 0
  passed : Nat := 0
  failed : Nat := 0
  deriving DecidableEq, Repr, Inhabited

/-- A group of channels (R225, R226, R235). -/
structure GrpSt where
  /-- SUPPLY_FAULT (R225). -/
  supplyFault : Bool := false
  /-- Voted state of the group safety switch (R235). -/
  closed : Bool := false
  /-- Its dark test is in progress and holds it open (R239). -/
  testing : Bool := false
  deriving DecidableEq, Repr, Inhabited

/-- A drive frame (R240). -/
structure DriveFrame where
  seq : Nat := 0
  gswA : Bool := false
  gswB : Bool := false
  latch : Bool := true
  lockA : Bool := false
  lockB : Bool := false
  on : BitVec 32 := 0
  testOk : BitVec 32 := 0
  treq : BitVec 32 := 0
  deriving DecidableEq, Repr, Inhabited

/-- The drive link of a lane: frames on their way in both directions, what each end last accepted, and discard counts (R240). -/
structure DriveLink where
  /-- Sample frames on their way to the lane, oldest first. -/
  samples : List SampleSet := []
  /-- Drive frames on their way to the field stage, oldest first. -/
  frames : List DriveFrame := []
  /-- Latest valid drive frame (R235). -/
  latest : DriveFrame := {}
  /-- SEQ last accepted by the field stage; none: the next correct frame resynchronises. -/
  fieldSeq : Option Nat := none
  /-- SEQ last accepted by the lane; none: the next correct frame resynchronises. -/
  laneSeq : Option Nat := none
  /-- No valid drive frame for 500 µs (R235). -/
  timeout : Bool := true
  fieldDiscards : Nat := 0
  laneDiscards : Nat := 0
  deriving DecidableEq, Repr, Inhabited

/-- The field stage. -/
structure Field where
  chans : List ChSt := List.replicate 32 {}
  grpA : GrpSt := {}
  grpB : GrpSt := {}
  links : Tri DriveLink := ⟨{}, {}, {}⟩
  /-- Strobes since FIELD power-up: SEQ is its low byte (R240). -/
  strobes : Nat := 0
  /-- Channel of the rotation (R240). -/
  rot : Nat := 0
  /-- Channels with a diagnostic change not yet reported (R240). -/
  changed : List Nat := []
  /-- The latest sample set sent: copy for the reset controller (R185, R240). -/
  latest : Option SampleSet := none
  /-- Sample sets sent, newest first, among which R19 selects. -/
  sent : List SampleSet := []
  /-- CH_TEST commands in progress: mailbox and channel (R243). -/
  chTests : List (Mb × Nat) := []
  deriving DecidableEq, Repr, Inhabited

/-! ### Sound and sensing chain (10) -/

/-- A filter-channel entry of section 5 with its coefficients for P5 (R264). -/
structure FiltCfg where
  enabled : Bool := false
  falling : Bool := false
  mck1 : Bool := false
  preset : Nat := 0
  n : Nat := 0
  r : Nat := 0
  firDec : Nat := 0
  firDelay : Nat := 0
  meas : Nat := 0
  zc : Bool := false
  window : Nat := 0
  hyst : Nat := 0
  scale : Word := 0
  coefs : List Int := []
  deriving DecidableEq, Repr, Inhabited

/-- A flow entry (R260, R264). -/
structure FlowCfg where
  id : Nat
  send : Bool
  channels : Nat
  format : Nat
  peer : Nat
  /-- In 125 µs units. -/
  latency : Nat
  /-- In ms. -/
  depth : Nat
  deriving DecidableEq, Repr, Inhabited

/-- Section 5 of the bank (R264). -/
structure SoundCfg where
  mck0 : Nat := 0
  mck1 : Nat := 0
  outDelay0 : Nat := 0
  outDelay1 : Nat := 0
  inDelay : Nat := 0
  /-- RAMP_TIME in ms (R259); reset R259. -/
  ramp : Nat := 10
  /-- LOCAL_LATENCY in 125 µs units (R258). -/
  latency : Nat := 0
  filters : List FiltCfg := List.replicate 16 {}
  flows : List FlowCfg := []
  /-- Source and destination map: kind and identifier (R264). -/
  sources : List (Nat × Nat) := []
  dests : List (Nat × Nat) := []
  /-- Default gains in 1/256 dB (R264); empty for mute everywhere. -/
  gains : List Int := []
  deriving DecidableEq, Repr, Inhabited

/-- A sample of the chain with its stamp in AX0 ns (R251). -/
structure Sample where
  t : Int
  x : Int
  /-- A stage of the chain saturated on the way to it (R248, R253). -/
  clip : Bool := false
  deriving DecidableEq, Repr, Inhabited

/-- A filter channel (R246 to R254). -/
structure FiltSt where
  integ : List (BitVec 48) := []
  comb : List (BitVec 48) := []
  /-- Bits since the CIC output last (R246). -/
  cicPhase : Nat := 0
  /-- History of the half-band stage, newest first (R247). -/
  half : List Int := []
  halfPhase : Nat := 0
  /-- History of the FIR stage, newest first (R248). -/
  fir : List Int := []
  firPhase : Nat := 0
  /-- Output samples, newest first (R251). -/
  samples : List Sample := []
  /-- CLIP count (R248). -/
  clip : Nat := 0
  /-- A stage has saturated since the latest output sample (R253). -/
  clipped : Bool := false
  /-- MOD_STUCK (R245). -/
  stuck : Bool := false
  /-- AX0 at which the chain started or restarted (R253). -/
  startedAt : Int := 0
  /-- AX0 at which a swap changed the preset and restarted the chain (R215). -/
  presetAt : Option Int := none
  /-- Latest measurement block: stamp, word and nibble (R252, R253). -/
  block : Option (Int × QWord) := none
  /-- The output has been at or below minus ZC_HYST since the last crossing (R254). -/
  armed : Bool := false
  /-- Last sample at or below zero and first above it since (R254). -/
  below : Option Sample := none
  above : Option Sample := none
  deriving DecidableEq, Repr, Inhabited

/-- A mix point: gain target, and the ramp in the factor (R259). -/
structure MixPt where
  p : Nat
  /-- Target factor asked for. -/
  want : Nat := 0
  /-- The target comes from MIX_SET (R259). -/
  set : Bool := false
  /-- Ramp: from, to, frames made. -/
  from_ : Nat := 0
  to_ : Nat := 0
  i : Nat := 0
  deriving DecidableEq, Repr, Inhabited

/-- A flow context (R260 to R263). -/
structure FlowSt where
  id : Nat
  /-- RUN, or opened by FLOW_OPEN (R263). -/
  run : Bool := false
  /-- Samples of a send flow not yet packed: presentation time and channel values. -/
  out : List (Int × List Int) := []
  /-- Ring of a receive flow by presentation time (R261). -/
  ring : List (Int × List Int) := []
  late : Nat := 0
  early : Nat := 0
  underrun : Nat := 0
  deriving DecidableEq, Repr, Inhabited

/-- A TDM port: the frame on it and its slot words, the latest presentation time, SKIP and GAP (R255, R256). -/
structure TdmPort where
  frame : Option Int := none
  words : List Word := []
  presented : Option Int := none
  skip : Nat := 0
  gap : Nat := 0
  deriving DecidableEq, Repr, Inhabited

/-- The sound and sensing chain. -/
structure Sound where
  filters : List FiltSt := List.replicate 16 {}
  mix : List MixPt := []
  flows : List FlowSt := []
  /-- TDMI frames, newest first: stamp and eight 24-bit values (R256). -/
  tdmi : List (Int × List Int) := []
  /-- Values of the destinations in the latest two frames, newest first: frame number and values (R257, R260). -/
  frames : List (Int × List Int) := []
  /-- TDM0 and TDM1. -/
  ports : List TdmPort := [{}, {}]
  /-- CLIP counts of the destinations (R257). -/
  clips : List Nat := List.replicate 32 0
  /-- Crossings reported to the timing unit and not yet taken, oldest first: filter channel and interpolated AX0 time (R254). -/
  zcReports : List (Nat × DWord) := []
  deriving DecidableEq, Repr, Inhabited

/-! ### The lines of the module -/

/-- A UDP datagram of the module (R304 to R307, R323). -/
structure Datagram where
  /-- Egress port: 0 to 7 CP, 8 EP0, 9 EP1, 10 SVC. -/
  port : Nat
  dst : Word
  udp : Nat
  bytes : List Byte
  deriving DecidableEq, Repr, Inhabited

/-- The PTP messages that the module sends (R297). -/
inductive PtpKind where
  | sync | followUp | delayReq | delayResp | pdelayReq | pdelayResp | pdelayFollowUp | announce
  deriving DecidableEq, Repr, Inhabited

/-- A PTP message as the module sends it (R297, R301). -/
structure PtpOut where
  port : Nat
  kind : PtpKind
  /-- EtherType 0x88F7, or UDP port 319 or 320 (R297). -/
  proto : Nat
  /-- Destination MAC address, or destination IP address in its low 32 bits (R297). -/
  dst : BitVec 48
  /-- domainNumber (R298). -/
  domain : Nat
  seq : Nat
  /-- The timestamp that the message carries, in ns of AX0: its egress SOF, or the time it reports. -/
  time : Int := 0
  /-- correctionField in 2^-16 ns (R299). -/
  correction : Int := 0
  /-- The fields of an Announce in the order of R301: currentUtcOffset, priority1, class, accuracy, variance, priority2, identity,
  stepsRemoved, timeSource, ptpTimescale. -/
  fields : List Int := []
  deriving DecidableEq, Repr, Inhabited

/-- What a command put on a line of the module, in order (own): the lines of the module are write-only for it. -/
inductive Emission where
  /-- Access status and words returned on the host port (R437). -/
  | hostData (status : Byte) (words : List Word)
  /-- A frame of TDM0 or TDM1: its number, the AX0 value of its BCK edge 0, and its eight slot words (R255, R258). -/
  | tdm (port : Nat) (frame start : Int) (slots : List Word)
  /-- An Ethernet frame on a consist port: the AX0 value of its SOF and its bytes (R268, R275). A copy that a star forwards is put here
  as it ends, so that a copy that was cut has the bytes it was sent with (R287). -/
  | frame (port : Nat) (at_ : Int) (bytes : List Byte)
  /-- A PTP message (R297, R301). -/
  | ptp (m : PtpOut)
  /-- An IP datagram with a UDP port (R304 to R307, R323). -/
  | udp (d : Datagram)
  /-- An ARP request or reply: port, request, address asked for or answered (R304). -/
  | arp (port : Nat) (request : Bool) (ip : Word)
  /-- An ICMP echo reply (R304). -/
  | echo (port : Nat) (dst : Word) (data : List Byte)
  /-- An IGMPv2 membership report for a group address (R304). -/
  | igmp (port : Nat) (group : Word)
  /-- A TRDP message: port, destination, kind (Pd, Pp, Pr, Mp, Me), ComId, sequenceCounter, etbTopoCnt, dataset (R306, R307), and the
  payload lengths of the IP fragments in which it leaves, none where it leaves whole (R304). -/
  | trdp (port : Nat) (dst : Word) (kind : String) (comId seq topo : Word) (data : List Byte) (frags : List Nat)
  /-- A foreign frame started on an interface (R342). -/
  | foreign (iface : Nat) (bytes : List Byte)
  /-- A Jaran frame: type, flags, SEQ, harvest sequence, payload as words with nibbles, and retained lines (R380, R381). -/
  | jaran (bytes : List Byte)
  /-- Bytes the wake port returns, and whether it acknowledged its address (R413). -/
  | wake (ack : Bool) (taken : Nat) (bytes : List Byte)
  deriving DecidableEq, Repr


/-! ### Flovis (11) -/

/-- A schedule entry (R273). -/
structure SchedEntry where
  /-- 1 REFERENCE, 2 DATA, 3 SPARE, 4 CLAIM, 5 OPEN. -/
  ty : Nat
  planes : Nat
  owner : Nat
  slot : Nat
  rep : Nat
  base : Nat
  start : Nat
  length : Nat
  deriving DecidableEq, Repr, Inhabited

/-- A schedule: what SCHED_ID covers (R272, R277). -/
structure Schedule where
  /-- SCHED_ID; zero where no schedule is held (R277). -/
  id : Word := 0
  /-- CLUSTER_EXP (R272); reset R208 (no bank). -/
  c : Nat := 0
  /-- T_B in ns (R272); reset R272. -/
  tb : Nat := 1000000
  /-- CYCLE_PHASE in ns (R272). -/
  phase : Nat := 0
  /-- Π in ns (R274); reset R274. -/
  pi : Nat := 1000
  entries : List SchedEntry := []
  deriving DecidableEq, Repr, Inhabited

/-- A consist port as configured (R265, R277). -/
structure PortCfg where
  /-- ROLE: 0 OFF, 1 NODE, 2 STAR, 3 UPLINK; reset R426 (OFF without a bank). -/
  role : Nat := 0
  planeB : Bool := false
  speed : Nat := 0
  ranks : Nat := 0
  linkDelay : Nat := 0
  deriving DecidableEq, Repr, Inhabited

/-- An entry of the device map (R277). -/
structure MapEntry where
  device : Nat
  port : Nat
  planeB : Bool
  deriving DecidableEq, Repr, Inhabited

/-- An entry of the transmit list (R277). -/
structure TxEntry where
  slot : Nat
  planes : Nat
  ty : Nat
  auto : Bool
  ident : Nat
  deriving DecidableEq, Repr, Inhabited

/-- The IP block (R305); zero addresses switch IP off; reset R305. -/
structure IpCfg where
  etbAddr : Word := 0
  etbMask : Word := 0
  ecnAddr : Word := 0
  ecnMask : Word := 0
  svcAddr : Word := 0
  svcMask : Word := 0
  gateway : Word := 0
  mdComId : Word := 0
  deriving DecidableEq, Repr, Inhabited

/-- An entry of the train node table (R336). -/
structure TrainNode where
  node : Nat
  ip : Word
  deriving DecidableEq, Repr, Inhabited

/-- The bridge block (R336). -/
structure BridgeCfg where
  /-- INBOUND; reset R336. -/
  inbound : Nat := 0
  /-- DISCARD_MS; reset R336. -/
  discardMs : Nat := 10
  /-- REQ_TIMEOUT in ms; reset R336. -/
  reqTimeout : Nat := 50
  /-- Interfaces CAN0, CAN1, SER0, SER1, 8 bytes each (R338); reset R338 (not enabled). -/
  ifs : List (List Byte) := List.replicate 4 (List.replicate 8 0)
  nodes : List TrainNode := []
  deriving DecidableEq, Repr, Inhabited

/-- Section 4 of the bank (R277, R305, R336). -/
structure NetCfg where
  deviceId : Nat := 0
  /-- RANK, 0xFF for an unranked device. -/
  rank : Nat := 0xFF
  sched : Schedule := {}
  /-- QUAR_CYCLES; reset R277. -/
  quar : Nat := 64
  /-- ETHERTYPE; reset R268. -/
  ethertype : Nat := 0x88B5
  /-- OPEN_AGE in ms; reset R277. -/
  openAge : Nat := 10
  ports : List PortCfg := List.replicate 8 {}
  map : List MapEntry := []
  tx : List TxEntry := []
  ip : IpCfg := {}
  bridge : BridgeCfg := {}
  deriving DecidableEq, Repr, Inhabited

/-- Node states of R282, in the order of R454. -/
inductive NodeState where
  | listen | contend | integrating | sync | silent
  deriving DecidableEq, Repr, Inhabited

/-- What the node keeps of a plane (R278, R280, R454). -/
structure PlaneSt where
  /-- Last, minimum and maximum θ in ns; reset R454 (own: zero before the first). -/
  theta : Int := 0
  thetaMin : Int := 0
  thetaMax : Int := 0
  /-- A θ has been measured (own). -/
  measured : Bool := false
  /-- Offsets of the last 16 REFERENCE arrivals from their cycle starts (R278). -/
  refOffsets : List Int := []
  /-- Raw AX0 count of the latest accepted REFERENCE (R282). -/
  lastRef : Option Nat := none
  /-- The loss of the plane has been recorded (R294). -/
  lossSeen : Bool := false
  /-- Lowest rank seen in the basic cycle of this number (R278). -/
  rankSeen : Option (Int × Nat) := none
  /-- REFERENCE sent by the module in the basic cycle of this number (R278). -/
  sentRef : Option Int := none
  /-- Leases as the latest GRANT of the plane lists them: slot and device (R271, R290). -/
  known : List (Nat × Nat) := []
  /-- Slots leased to the module, with the GRANT frames that no longer list them (R291). -/
  own : List (Nat × Nat) := []
  /-- Decision on the module's last claim (R290), by slot, state as in GRANT. -/
  decided : List (Nat × Nat) := []
  /-- Raw AX0 count until which the module's own best-effort frames take its attachment (R302). -/
  bestUntil : Nat := 0
  deriving DecidableEq, Repr, Inhabited

/-- A claim of the module that waits for a decision (R289): slot, planes still waiting, cluster cycle of its next sending. -/
structure ClaimWait where
  slot : Nat
  planes : Nat
  next : Int
  deriving DecidableEq, Repr, Inhabited

/-- The sluice of an ingress port: eight consist ports and the internal port (R284 to R288). -/
structure Sluice where
  window : Nat := 0
  owner : Nat := 0
  cut : Nat := 0
  kind : Nat := 0
  /-- Consecutive violations (R288). -/
  run : Nat := 0
  /-- Quarantine: the cluster cycle at whose start it ends (R288). -/
  quar : Option Int := none
  quarantines : Nat := 0
  /-- Frames blocked in quarantine (R288). -/
  quarBlocked : Nat := 0
  /-- Blocked COLDSTART frames (R283). -/
  coldBlocked : Nat := 0
  /-- Frames dropped for want of a descriptor or cells (R286). -/
  drops : Nat := 0
  /-- Frames dropped for a parity error of the switch buffer (R16). -/
  parity : Nat := 0
  /-- Last SOF offset in ns (R454). -/
  sof : Int := 0
  deriving DecidableEq, Repr, Inhabited

/-- A frame that holds a descriptor (R286). -/
structure Desc where
  id : Nat
  port : Nat
  /-- Cells that its bytes have taken so far (R286). -/
  cells : Nat := 0
  /-- Egress ports. -/
  egress : List Nat
  bytes : List Byte
  /-- Raw AX0 count and AX0 value at its ingress SOF. -/
  since : Nat
  sof : Int
  /-- Raw AX0 count at which its slot or window ends; none where neither bounds it (R287). -/
  ends : Option Nat := none
  /-- Its egress copies have been ended early (R287). -/
  cut : Bool := false
  /-- Best-effort, queued for a later OPEN window (R285). -/
  queued : Bool := false
  /-- Consecutive violations of its port before it (R288). -/
  run : Nat := 0
  deriving DecidableEq, Repr, Inhabited

/-- A CLAIM that passed the sluice (R285, R290). -/
structure ClaimIn where
  /-- Its cluster cycle. -/
  cycle : Int
  /-- Raw AX0 count of its SOF. -/
  since : Nat
  port : Nat
  bytes : List Byte
  /-- The root star has decided it (R290). -/
  decided : Bool := false
  deriving DecidableEq, Repr, Inhabited

/-- A port of the module: CP0 to CP7, EP0, EP1, SVC (R265, R279, R303). -/
structure LinkPort where
  /-- 0 no link, 1 100 Mbit/s, 2 1000 Mbit/s (R454); reset R417 (power-down). -/
  speed : Nat := 0
  /-- Raw AX0 count at which the link came up (R298). -/
  since : Nat := 0
  /-- Last 16 delay measurements in ns, newest first (R279). -/
  delays : List Int := []
  /-- Transmit time of the DELAY_REQ that waits for its response (R279). -/
  asked : Option Int := none
  /-- Cluster cycle of the latest DELAY_REQ (R279). -/
  askedIn : Option Int := none
  /-- Links held down for their speed (R277). -/
  badSpeed : Nat := 0
  /-- Transport delay measurements of PTP peers (R299). -/
  peerDelay : Int := 0
  deriving DecidableEq, Repr, Inhabited

/-- A lease the star has granted or learned (R290). -/
structure Lease where
  slot : Nat
  device : Nat
  port : Nat
  /-- Cluster cycle of the latest frame forwarded in the slot (R291). -/
  last : Int
  deriving DecidableEq, Repr, Inhabited

/-- The Flovis node and the star (R265 to R295). -/
structure Net where
  node : NodeState := .listen
  /-- REF_CONFLICT (R281). -/
  refConflict : Bool := false
  /-- SCHED_MISMATCH (R282). -/
  schedMismatch : Bool := false
  /-- Schedule in force (R292). -/
  sched : Schedule := {}
  /-- Announced NEXT_SCHED and SWITCH_COUNT; zero when none (R269, R292). -/
  nextId : Word := 0
  switchCount : Word := 0
  /-- Raw AX0 count at which the listen timer last restarted (R282). -/
  listenFrom : Nat := 0
  /-- Raw AX0 count of the latest REFERENCE that held the listen timer (R282). -/
  heldAt : Option Nat := none
  /-- AX0 value at which the module's COLDSTART leaves (R282). -/
  coldAt : Int := 0
  /-- Consecutive REFERENCEs within Π/4 (R281, R282). -/
  good : Nat := 0
  /-- Raw AX0 count of the cluster cycle boundary from which the module sends (R281, R282). -/
  sendFrom : Nat := 0
  /-- Acting time master (R282). -/
  master : Bool := false
  planeA : PlaneSt := {}
  planeB : PlaneSt := {}
  ports : List LinkPort := List.replicate 11 {}
  sluices : List Sluice := List.replicate 9 {}
  descs : List Desc := []
  nextDesc : Nat := 0
  leases : List Lease := []
  /-- Leases revoked since the last GRANT, and the decision of the last claim: device, slot, state (R290). -/
  revoked : List (Nat × Nat) := []
  decision : Option (Nat × Nat × Nat) := none
  /-- COLDSTART forwarded while not integrated: raw AX0 count of its SOF and its port (R283). -/
  coldFwd : Option (Nat × Nat) := none
  /-- REFERENCE forwarded while not integrated, at this raw AX0 count (R283), or in the basic cycle of this number (R285). -/
  refFwd : Option Nat := none
  refCycle : Option Int := none
  /-- The latest CLAIM that passed the sluice (R285). -/
  claimIn : Option ClaimIn := none
  /-- Claims of the module (R289). -/
  claims : List ClaimWait := []
  /-- SLOT_CLAIM that waits: mailbox, slot, planes, cluster cycle at its start (R295). -/
  claimCmd : Option (Mb × Nat × Nat × Int) := none
  /-- The latest CLAIM of the module: its cluster cycle, the spare slot, and the planes on which it has been sent (R289). -/
  claimSent : Option (Int × Nat × Nat) := none
  /-- Slot occurrences taken in the current basic cycle: cycle, slot and sender (R271). -/
  taken : List (Int × Nat × Nat) := []
  /-- Best-effort frames of the module that wait for an OPEN window of a plane, oldest first (R302). -/
  best : List (Bool × Emission) := []
  /-- Frames discarded under R271 and containers skipped. -/
  discarded : Nat := 0
  skipped : Nat := 0
  /-- AX0 value of the latest accepted DATA that carries the module's own DEVICE_ID (R383, R390), as a raw AX0 count. -/
  pairData : Option Nat := none
  deriving DecidableEq, Repr, Inhabited

/-! ### Train time and process data (12) -/

/-- The PTP block of section 3 (R298). -/
structure PtpCfg where
  /-- FLAGS; reset R298. -/
  flags : Nat := 0x20
  /-- DOMAIN; reset R298. -/
  domain : Nat := 0
  /-- PRIORITY1; reset R298. -/
  prio1 : Nat := 128
  /-- PRIORITY2; reset R298. -/
  prio2 : Nat := 128
  /-- CLOCK_CLASS; reset R298. -/
  clockClass : Nat := 248
  /-- PORT; reset R298. -/
  port : Nat := 8
  /-- PORT_ALT; reset R298. -/
  portAlt : Nat := 9
  /-- LOG_SYNC; reset R298. -/
  logSync : Int := -3
  /-- LOG_ANNOUNCE; reset R298. -/
  logAnnounce : Int := 0
  /-- ANNOUNCE_TIMEOUT; reset R298. -/
  announceTimeout : Nat := 3
  /-- LOG_DELAY; reset R298. -/
  logDelay : Int := 0
  /-- UTC_OFFSET; reset R298. -/
  utc : Int := 37
  /-- PORT_MODES; reset R298. -/
  portModes : Nat := 0
  deriving DecidableEq, Repr, Inhabited

/-- portState of IEEE 1588-2019 with its code (R453). -/
inductive PtpState where
  | disabled | listening | master | passive | slave
  deriving DecidableEq, Repr, Inhabited

/-- The PTP instance (R297 to R301). -/
structure Ptp where
  st : PtpState := .disabled
  /-- PORT_ALT is in use (R298). -/
  alt : Bool := false
  /-- The Announce of the best master (R297). -/
  best : Option PtpAnnounceMsg := none
  /-- Raw AX0 count of the latest Announce of the best master, or of the restart of the port state (R297). -/
  heard : Nat := 0
  /-- Last offsetFromMaster in ns (R301). -/
  offset : Int := 0
  /-- Last 16 delay measurements, newest first (R301). -/
  delays : List Int := []
  /-- Announce receipt timeouts and moves to PORT_ALT (R301). -/
  timeouts : Nat := 0
  moves : Nat := 0
  /-- Sequence numbers of the messages sent. -/
  seqSync : Nat := 0
  seqAnnounce : Nat := 0
  seqDelay : Nat := 0
  /-- Egress SOF of the latest Sync or Pdelay_Resp, for the message that follows it (R301). -/
  sentAt : Int := 0
  deriving DecidableEq, Repr, Inhabited

/-- A subscribed group in the store (R314, R315). -/
structure GroupSt where
  group : Nat
  /-- Accepted once: ever (R314). -/
  ever : Bool := false
  seq : Word := 0
  tRx : DWord := 0
  /-- Words and nibbles of a KALVI group, bytes of a PLAIN group. -/
  words : List QWord := []
  bytes : List Byte := []
  accepted : Nat := 0
  old : Nat := 0
  badShape : Nat := 0
  transitions : Nat := 0
  /-- Nibble of the row of R315 in force; reset R315 (never accepted). -/
  nibble : BitVec 4 := 4
  deriving DecidableEq, Repr, Inhabited

/-- An ARP entry (R304). -/
structure ArpEntry where
  ip : Word
  mac : BitVec 48
  /-- Raw AX0 count of its latest confirmation. -/
  at_ : Nat
  deriving DecidableEq, Repr, Inhabited

/-- A datagram of message data that arrives in fragments (R304). -/
structure Reasm where
  src : Word
  ident : Nat
  /-- Raw AX0 count of its first fragment. -/
  since : Nat
  /-- Its pieces so far: offset and bytes. -/
  parts : List (Nat × List Byte)
  /-- Its length, once the last piece is known. -/
  total : Option Nat := none
  deriving DecidableEq, Repr, Inhabited

/-- Trains, IP and TRDP (R302 to R317). -/
structure Train where
  ptp : Ptp := {}
  /-- Latest TOPOLOGY (R303) and the raw AX0 count of its arrival; signals 8,184 to 8,188. -/
  topo : Option TopologyMsg := none
  topoAt : Nat := 0
  /-- TOPOLOGY signals are STALE (R303). -/
  topoStale : Bool := false
  /-- Module signal 8,190 as last evaluated (R303); reset R41. -/
  axStat : Word := 0x0400
  /-- Published Flovis groups of MODE ON_REQUEST that wait for a slot (R118). -/
  sgtx : List Nat := []
  groups : List GroupSt := []
  /-- Presented value of each subscribed signal: identifier and its one or two words (R315). -/
  present : List (Word × List QWord) := []
  /-- Latest voted words of each published signal: identifier and its one or two words (R135, R136, R221). -/
  pubs : List (Word × List QWord) := []
  /-- SEQ of each published group: last used (R313); restart R313. -/
  groupSeq : List (Nat × Word) := []
  /-- Next sequenceCounter per ComId and destination (R306); restart R306. -/
  pdSeq : List (Word × Word × Word) := []
  /-- AX0 value at which the module first entered VOTED3 or VOTED2 (R315). -/
  firstVoted : Option DWord := none
  arp : List ArpEntry := []
  /-- What waits for ARP: raw AX0 count since, next hop, and what is to be sent (R304). -/
  arpWait : List (Nat × Word × Emission) := []
  /-- Counts of R304, R306, R307: discarded process data, unresolved and unroutable frames, discarded message data and
  reassemblies, Pr without a group. -/
  pdDiscard : Nat := 0
  unresolved : Nat := 0
  unroutable : Nat := 0
  mdDiscard : Nat := 0
  reasmDiscard : Nat := 0
  /-- Datagrams discarded for options in their header (R304). -/
  optDiscard : Nat := 0
  /-- Datagrams of message data in reassembly, at most 4 (R304). -/
  reasm : List Reasm := []
  prUnknown : Nat := 0
  /-- Pr sent and not answered (R316). -/
  pullWaiting : List Nat := []
  pullMissed : Nat := 0
  /-- Number of the latest 10 µs evaluation (R315), own. -/
  evals : Nat := 0
  deriving DecidableEq, Repr, Inhabited

/-! ### Bridge and tunnels (13) -/

/-- BR_PAGEn_CFG and BR_PAGEn_BASE (R319). -/
structure BrPage where
  /-- EN; reset R319. -/
  en : Bool := false
  /-- CLASS: TRAIN; reset R319. -/
  train : Bool := false
  /-- NODE; reset R319. -/
  node : Nat := 0
  /-- BASE; reset R319. -/
  base : Nat := 0
  deriving DecidableEq, Repr, Inhabited

/-- A delayed entry (R326, R327). -/
structure DelayedEntry where
  page : Nat
  addr : Nat
  node : Nat
  train : Bool
  remote : Nat
  write : Bool
  count : Nat
  data : List Word
  /-- Raw AX0 count of its request. -/
  at_ : Nat
  /-- Response: CODE, DOMAIN_OFF, words and the raw AX0 count of its arrival; none while it waits. -/
  done : Option (Nat × Bool × List Word × Nat) := none
  /-- REQ_TIMEOUT and DISCARD_MS in force at its request (R337). -/
  reqMs : Nat
  discardMs : Nat
  deriving DecidableEq, Repr, Inhabited

/-- A POST whose credit has not returned (R328). -/
structure PostSt where
  tag : Nat
  page : Nat
  remote : Nat
  count : Nat
  at_ : Nat
  reqMs : Nat
  /-- It has been logged with TIMEOUT: its credit stays taken until RESYNC (R328). -/
  lost : Bool := false
  deriving DecidableEq, Repr, Inhabited

/-- What the module keeps of a target node (R328 to R330). -/
structure NodeSt where
  node : Nat
  /-- Free credits; reset R328. -/
  credits : Nat := 32
  /-- Next tag; reset R328. -/
  next : Nat := 0
  /-- Tag of the last POST sent, none before the first: AFTER (R324). -/
  last : Option Nat := none
  fenced : Bool := false
  posts : List PostSt := []
  /-- FENCE_CLEAR that waits: mailbox, RESYNC tag, raw AX0 count (R330). -/
  clearing : Option (Mb × Nat × Nat) := none
  deriving DecidableEq, Repr, Inhabited

/-- What the module keeps of a source that posts to it (R334). -/
structure SourceSt where
  node : Nat
  /-- Next tag expected. -/
  expect : Nat := 0
  fenced : Bool := false
  /-- POSTs held ahead of a missing tag: tag, body, raw AX0 count. -/
  held : List (Nat × List Byte × Nat) := []
  /-- READs and WRITEs that wait for a POST: body and raw AX0 count. -/
  waits : List (List Byte × Nat) := []
  deriving DecidableEq, Repr, Inhabited

/-- An open tunnel endpoint (R339 to R342). -/
structure Endpoint where
  ep : Nat
  iface : Nat
  peer : Nat
  peerEp : Nat
  delay : Nat
  /-- Filters: IDE and identifier, mask. -/
  filters : List (Word × Word)
  seq : Nat := 0
  /-- Containers to be sent, oldest first. -/
  outQ : List (List Byte) := []
  overrun : Bool := false
  /-- Frames to be replayed, oldest first: RX_TIME and bytes. -/
  inQ : List (Int × List Byte) := []
  lastSeq : Option Nat := none
  sent : Nat := 0
  replayed : Nat := 0
  late : Nat := 0
  gaps : Nat := 0
  drops : Nat := 0
  deriving DecidableEq, Repr, Inhabited

/-- The bridge and tunnel engine (R318 to R343). -/
structure BridgeSt where
  pages : List BrPage := List.replicate 16 {}
  /-- The delayed-read buffer of 16 entries (R326). -/
  delayed : List (Option DelayedEntry) := List.replicate 16 none
  nodes : List NodeSt := []
  sources : List SourceSt := []
  /-- Outbound requests that wait for bridge space: node, TAG of a POST, page, body (R323, R329). -/
  outQ : List (Nat × Option Nat × Nat × List Byte) := []
  /-- Responses and credit returns that wait for bridge space (R323). -/
  respQ : List (Nat × List Byte) := []
  /-- The same for the nodes of the train node table: they leave as soon as the bridge may send (R323). -/
  trainQ : List (Nat × Option Nat × Nat × List Byte) := []
  trainR : List (Nat × List Byte) := []
  /-- Error log, oldest first: words not yet read of each entry (R331). -/
  log : List (List Word) := []
  /-- BR_LOG_STAT.LOST (R331); reset R331. -/
  lost : BitVec 16 := 0
  /-- BR_LOG_STAT.LAST_CODE (R331); reset R331. -/
  lastCode : Byte := 0
  /-- BR_CNT.DISCARD (R331); reset R331. -/
  discard : BitVec 16 := 0
  /-- BR_CNT.REFUSED (R331); reset R331. -/
  refused : BitVec 16 := 0
  eps : List Endpoint := []
  /-- CAN interfaces in bus-off (R343). -/
  busOff : List Nat := []
  /-- Foreign frames discarded: line errors and no endpoint (R338, R339). -/
  lineErrors : Nat := 0
  noEndpoint : Nat := 0
  /-- Tunnel containers discarded (R342). -/
  contDiscard : Nat := 0
  deriving DecidableEq, Repr, Inhabited

/-! ### Recorder (14) -/

/-- A trigger definition of the recorder (R344). -/
structure RecDef where
  defn : Nat
  source : Nat
  flush : Bool
  arg : Word
  holdoff : Nat
  items : List Word
  deriving DecidableEq, Repr, Inhabited

/-- Per definition: the counts of REC_INFO, the suppressed counter and the time of the last capture (R345, R351, R359). -/
structure RecCount where
  defn : Nat
  firings : Nat := 0
  records : Nat := 0
  suppressions : Nat := 0
  holdoffDrops : Nat := 0
  suppressed : Nat := 0
  lastAt : Option Nat := none
  deriving DecidableEq, Repr, Inhabited

/-- A record as captured, before its bytes are formed (R348). -/
structure RecRecord where
  seq : DWord
  trigger : Nat
  flags : Nat
  suppressed : Nat
  words : List Word
  /-- Its definition starts a flush (R352). -/
  flush : Bool := false
  /-- Raw AX0 count at which it entered the buffer (R352). -/
  bufferedAt : Nat := 0
  deriving DecidableEq, Repr, Inhabited

/-- A reader of the record window or the fault log window (R357, R372). -/
structure Reader where
  /-- Cursor in force; reset R357. -/
  cursor : DWord := 0
  /-- Upper word written and not yet in effect (R357). -/
  hi : Word := 0
  /-- Latched record: its sequence number and its remaining words (R358). -/
  latch : Option (DWord × List Word) := none
  deriving DecidableEq, Repr, Inhabited

/-- The recorder (R344 to R359). -/
structure Recorder where
  /-- POLICY: KEEP rather than OVERWRITE (R344); reset R344. -/
  keep : Bool := false
  defs : List RecDef := []
  counts : List RecCount := []
  staging : List RecRecord := []
  /-- Module records held by the supervisor for want of a staging entry (R347). -/
  held : List RecRecord := []
  buffer : List RecRecord := []
  /-- Next SEQ (R349); reset R349. -/
  next : DWord := 1
  /-- Ceiling (R349). -/
  ceiling : DWord := 1
  /-- Generation of the control area (R354). -/
  gen : Nat := 0
  /-- Records in the store: sequence, byte offset in the ring, length; oldest first (R354). -/
  index : List (DWord × Nat × Nat) := []
  /-- Tail and head offsets in the ring (R354). -/
  tail : Nat := 0x1000
  head : Nat := 0x1000
  /-- SEQ one above the newest held in the store (R354). -/
  newest : DWord := 1
  /-- Records overwritten since manufacture (R354). -/
  overwritten : DWord := 0
  /-- REC_STAT.LOST (R357); reset R357. -/
  lost : Bool := false
  /-- REC_STAT.SKIPPED (R357); reset R357. -/
  skipped : Bool := false
  /-- REC_STAT.STORE_FULL (R357); reset R357. -/
  storeFull : Bool := false
  /-- Records the running flush has still to write; none when no flush runs (R352). -/
  flushing : Option Nat := none
  /-- A flush condition is latched (R352). -/
  flushPending : Bool := false
  /-- REC_FLUSH commands that wait: mailbox and the SEQ they wait for (R359). -/
  flushWait : List (Mb × DWord) := []
  /-- Power fail: no further firing is accepted (R356). -/
  closed : Bool := false
  /-- Firings refused since detection (R356). -/
  refused : Nat := 0
  /-- The POWERFAIL record still to be placed and its cause (R356). -/
  pfCause : Option Nat := none
  /-- Cursors and latches of the two readers (R357, R358). -/
  host : Reader := {}
  bridge : Reader := {}
  deriving DecidableEq, Repr, Inhabited

/-! ### Faults (15) -/

/-- A fault record as queued (R362). -/
structure FaultRec where
  fin : FaultIn
  /-- FSEQ; zero until the hub numbers it (R363). -/
  fseq : DWord := 0
  harvest : DWord := 0
  ax0 : DWord := 0
  nested : Bool := false
  /-- It was handled with log writing suspended and stays in the queue until the next bring-up (R367). -/
  offered : Bool := false
  deriving DecidableEq, Repr, Inhabited

/-- The overflow record of entry 32 (R365). -/
structure Overflow where
  lost : Nat
  highest : Nat
  firstCode : BitVec 16
  fseq : DWord := 0
  harvest : DWord := 0
  ax0 : DWord := 0
  deriving DecidableEq, Repr, Inhabited

/-- The fault queue and handler of a region (R364 to R366). -/
structure FaultQueue where
  queue : List FaultRec := []
  overflow : Option Overflow := none
  /-- Records in hand: the current one, then the suspended ones (R366). -/
  hand : List FaultRec := []
  /-- The record at the head has been taken since the overflow record was created: the overflow record is next (R365). -/
  overflowNext : Bool := false
  deriving DecidableEq, Repr, Inhabited

/-- Fault handling (R360 to R374). -/
structure Faults where
  laneQ : Tri FaultQueue := ⟨{}, {}, {}⟩
  hubQ : FaultQueue := {}
  /-- Records raised in BRINGUP before the control area of the log has been read: they enter their queues, and take their FSEQ, when the
  supervisor starts (R363, R425). -/
  early : List FaultRec := []
  /-- Next FSEQ (R363). -/
  next : DWord := 1
  /-- Ceiling of FSEQ in MRAM (R363). -/
  ceiling : DWord := 1
  /-- Generation of the control copies of the log (R373). -/
  gen : Nat := 0
  /-- Log ring: FSEQ and ring position of each record, oldest first (R373). -/
  index : List (DWord × Nat) := []
  /-- Ring position of the next record (R373). -/
  head : Nat := 0
  /-- FLT_SUM.LATCHED (R372); reset R372. -/
  latched : Nat := 0
  /-- FLT_SUM.COUNT, saturating (R372); reset R372. -/
  count : BitVec 16 := 0
  /-- FLT_CNT: records lost per region, saturating (R372); reset R372. -/
  ovfA : Byte := 0
  ovfB : Byte := 0
  ovfC : Byte := 0
  ovfHub : Byte := 0
  /-- FLT_DOFF.WR_DISCARD, saturating (R369); reset R372. -/
  wrDiscard : BitVec 16 := 0
  /-- FLT_DOFF.RD_ZERO, saturating (R369); reset R372. -/
  rdZero : BitVec 16 := 0
  /-- FLT_LOG_STAT.SKIPPED (R372); reset R372. -/
  skipped : Bool := false
  /-- FLT_LOG_STAT.LOG_FAIL (R367); reset R372. -/
  logFail : Bool := false
  /-- Cursors and latches (R372); reset R372. -/
  host : Reader := {}
  bridge : Reader := {}
  deriving DecidableEq, Repr, Inhabited

/-! ### Standby pairing (16) -/

/-- Section 8 of the bank (R395, R396). -/
structure PairCfg where
  /-- PAIR_ENABLE; reset R395. -/
  enable : Bool := false
  /-- AUTO_RETURN; reset R395. -/
  autoReturn : Bool := true
  /-- FLOVIS_CHECK; reset R395. -/
  flovisCheck : Bool := true
  /-- RESYNC_LIMIT; reset R395. -/
  resyncLimit : Nat := 3
  /-- PARTNER_VOTE; reset R395. -/
  partnerVote : Byte := 0xFE
  /-- HOLDOFF; reset R395. -/
  holdoff : Nat := 1000
  /-- STANDBY_ETB_ADDR; reset R395. -/
  etb : Word := 0
  /-- STANDBY_ECN_ADDR; reset R395. -/
  ecn : Word := 0
  deriving DecidableEq, Repr, Inhabited

/-- Pair states of R384, in the order of PAIR_STATUS. -/
inductive PairState where
  | syncing | synced | lagging | linkLost | failed
  deriving DecidableEq, Repr, Inhabited

/-- A page queued for the partner (R386). -/
structure PairPage where
  task : Nat
  space : Nat
  page : Nat
  deriving DecidableEq, Repr, Inhabited

/-- A planned switch (R392). -/
structure PairSwitch where
  /-- Release count of T0 at which it takes place. -/
  rel : Word
  /-- 1 return, 2 yield, 3 command. -/
  reason : Nat
  /-- SWITCH_ACK has been sent or received. -/
  acked : Bool
  /-- This module is the one that takes control. -/
  incoming : Bool
  /-- The mailbox whose PAIR_SWITCH waits. -/
  mb : Option Mb := none
  /-- Raw AX0 count at which SWITCH was sent. -/
  at_ : Nat
  /-- Tasks whose effects the outgoing member holds (R392). -/
  done : List Nat := []
  deriving DecidableEq, Repr, Inhabited

/-- The pair (R375 to R398). -/
structure Pair where
  /-- PAIR_ROLE strap: PRIMARY (R375). -/
  primary : Bool := false
  /-- Role CONTROLLING (R375, R442); reset R442. -/
  controlling : Bool := true
  /-- The role has been taken since LIMITED (R383). -/
  roleTaken : Bool := false
  /-- Raw AX0 count at entry into LIMITED (R383). -/
  limitedAt : Nat := 0
  paired : Bool := false
  /-- INCOMPATIBLE (R382). -/
  incompatible : Bool := false
  /-- STRAP_CONFLICT (R383). -/
  strapConflict : Bool := false
  /-- EPOCH (R383). -/
  epoch : Word := 0
  st : PairState := .syncing
  /-- The link is LINK_UP (R379). -/
  up : Bool := false
  /-- Raw AX0 count of LINK_DOWN (R401). -/
  downAt : Nat := 0
  /-- Next SEQ sent (R380); restart R380. -/
  seqOut : Word := 0
  /-- SEQ last accepted (R380). -/
  seqIn : Option Word := none
  /-- Frames with a wrong CRC and gaps (R380). -/
  discarded : Nat := 0
  gaps : Nat := 0
  /-- Strap of the partner, once seen (R383). -/
  partnerPrimary : Option Bool := none
  /-- The partner's last HEARTBEAT (R397). -/
  beat : Option HeartbeatMsg := none
  /-- A HEARTBEAT was accepted since the latest lattice point of T0 (R390). -/
  beatSeen : Bool := false
  /-- Lattice points of T0 without a HEARTBEAT, and the raw AX0 count of the first (R390). -/
  missed : Nat := 0
  missedFrom : Nat := 0
  /-- The standby was SYNCED when the link went down (R384, R390). -/
  syncedAtLoss : Bool := false
  /-- Tasks whose next IMAGE is the first one after a role switch; in the standby, tasks whose switching release has come and whose
  step 3 has not (R381, R392). -/
  fresh : List Nat := []
  /-- Pages of a full copy that the standby still waits for (R387). -/
  awaited : List PairPage := []
  /-- Tasks in SYNCING (R387). -/
  syncing : List Nat := []
  /-- Full copies requested: raw AX0 counts (R389). -/
  fullAt : List Nat := []
  /-- MISMATCH for the next HEARTBEAT (R388). -/
  mismatch : Bool := false
  /-- Outputs received that wait for the own ones: task, release, compare set (R388). -/
  theirs : List (Nat × Word × List QWord × List RetLine) := []
  /-- Own outputs that wait for those of the partner (R388). -/
  ours : List (Nat × Word × List QWord × List RetLine) := []
  /-- Tasks whose own output waits, with the raw AX0 count since which (R388). -/
  oursAt : List (Nat × Nat) := []
  /-- Pages queued, oldest first (R386). -/
  queue : List PairPage := []
  /-- HOLDOFF count (R393). -/
  hold : Nat := 0
  switch : Option PairSwitch := none
  /-- Mismatches, resyncs and takeovers (R397). -/
  mismatches : Nat := 0
  resyncs : Nat := 0
  takeovers : Nat := 0
  deriving DecidableEq, Repr, Inhabited

/-! ### Power and bring-up (17, 18) -/

/-- Section 7 of the bank (R419). -/
structure PowerCfg where
  /-- BASE_MASK; reset R419. -/
  base : Byte := 0xFF
  /-- WAKE_MASK; reset R419. -/
  wake : Byte := 0xFF
  /-- WAKE_HOLD in s; reset R419. -/
  hold : Nat := 30
  /-- WAKE_SRC; reset R419. -/
  src : Nat := 0x1F
  /-- WAKE_FILTER in ms; reset R419. -/
  filter : Nat := 20
  /-- MIN_ON in ms for HUB, lanes, NET, SOUND, FIELD; reset R419. -/
  minOn : List Nat := [1000, 1000, 1000, 1000, 1000]
  /-- TICK in ms; reset R419. -/
  tick : Nat := 0
  /-- DUTY_PERIOD in ms; reset R419. -/
  period : Nat := 0
  /-- DUTY_SAMPLE in ms; reset R419. -/
  sample : Nat := 10
  /-- DUTY_FLAGS; reset R419. -/
  flags : Nat := 0
  /-- DUTY_SND_CH; reset R419. -/
  sndCh : Nat := 0
  /-- DUTY_CH_MASK; reset R419. -/
  mask : BitVec 32 := 0
  /-- DUTY_PATTERN; reset R419. -/
  pattern : BitVec 32 := 0
  /-- DUTY_SND_DBFS; reset R419. -/
  dbfs : Int := 0
  deriving DecidableEq, Repr, Inhabited

/-- The AON region: votes, sequencer, wake and power fail (R399 to R421). -/
structure PowerSt where
  /-- AON is on (R399); reset R418. -/
  aon : Bool := true
  /-- Domains on, in vote bit order (R401); reset R418. -/
  on : BitVec 8 := 3
  /-- Domains whose restore runs (R405). -/
  restoring : BitVec 8 := 0xFC
  /-- Step of R404 in progress, and the domains still to be shed in the transition. -/
  shedStep : Option Nat := none
  shedding : BitVec 8 := 0
  /-- A shed waits for step 8 of a harvest of T0 (R403). -/
  shedWait : BitVec 8 := 0
  /-- Domains on beyond their MIN_ON (R403). -/
  ripe : BitVec 8 := 0
  /-- Raw AX0 counts at the end of the restores of HUB, lanes, NET, SOUND, FIELD (R403, R420). -/
  onSince : List Nat := [0, 0, 0, 0, 0]
  /-- PWR_VOTE0 to PWR_VOTE19 (R401, R418); reset R401. -/
  votes : List Byte := 0xFF :: List.replicate 19 0
  /-- PWR_STAT as the power manager last wrote it (R418); reset R418. -/
  stat : Word := 0x00030000
  /-- The policy in force, duty fields replaced by DUTY_SET included (R419, R420). -/
  cfg : PowerCfg := {}
  /-- WAKE_STAT.CAUSE (R418); reset R418. -/
  cause : Nat := 0
  /-- WAKE_STAT.STUCK (R418); reset R418. -/
  stuck : Byte := 0
  /-- WAKE_STAT.INPUT (R418); reset R418. -/
  input : Byte := 0
  /-- WAKE_STAT.COUNT (R418); reset R418. -/
  count : Byte := 0
  /-- PF_STAT.PF_SEEN (R418); reset R418. -/
  pfSeen : Bool := false
  /-- PF_STAT.VHOLD_SHORT (R418); reset R418. -/
  vholdShort : Bool := false
  /-- PF_STAT.PF_NOW (R418); reset R418. -/
  pfNow : Bool := false
  /-- PF_STAT.PF_COUNT, kept in MRAM (R418); reset R418. -/
  pfCount : BitVec 16 := 0
  /-- PF_PENDING, in the supervisor area of MRAM (R409). -/
  pfPending : Bool := false
  /-- The power-fail sequence runs (R409). -/
  failing : Bool := false
  /-- The bring-up that follows comes after a power fail (R411). -/
  afterFail : Bool := false
  /-- Votes set during the power-fail sequence, which replace those of R401 at the next AON power-up: client and mask (R408). -/
  kept : List (Nat × Byte) := []
  /-- Transitions, wakes per cause, wake frames discarded (R420). -/
  transitions : Nat := 0
  wakes : List Nat := [0, 0, 0, 0, 0, 0]
  frameDiscards : Nat := 0
  /-- The lanes return by a restart once all are up (R405). -/
  returning : Bool := false
  /-- FAULT_N as AON holds it while HUB is off: low (R374). -/
  faultHeld : Bool := false
  /-- Wake inputs as last seen active (R414). -/
  active : Byte := 0
  /-- Records of events that occurred with HUB off (R421): severity, code, location, argument. -/
  owed : List (Nat × BitVec 16 × Nat × Nat) := []
  /-- Channels CH00 to CH07 with WAKE set, as the wake detectors hold them (R228, R414). -/
  wakeCh : Byte := 0
  /-- Channel entries, group nominals in mV and sound block as the watch sequencer holds them (R416). -/
  watchCh : List ChCfg := List.replicate 32 {}
  watchNom : Nat × Nat := (110000, 110000)
  watchSnd : SoundCfg := {}
  /-- Filtered values of the last sample set before FIELD was shed (R416). -/
  learned : BitVec 32 := 0
  deriving DecidableEq, Repr, Inhabited

/-- Bring-up stages of R422, with 0 outside bring-up. -/
inductive Stage where
  | none | b1 | b2 | l1 | l2 | l3 | l4 | l5
  deriving DecidableEq, Repr, Inhabited

/-- Bring-up (R422 to R431). -/
structure BringUp where
  /-- MOD_STAT.STAGE (R442); reset R442. -/
  stage : Stage := .b1
  /-- MOD_STAT.BOOT_FAIL (R424); reset R442. -/
  bootFail : Bool := false
  /-- Stop cause of GET_STATUS (R453). -/
  cause : Nat := 0
  /-- A START command has been accepted (R427). -/
  started : Bool := false
  /-- Bring-up waits for lane release (R427). -/
  waiting : Bool := false
  /-- Raw AX0 count at lane release, and at the start of the stage (R429). -/
  releasedAt : Nat := 0
  stageAt : Nat := 0
  /-- Lanes that failed their restore self-test, L2 or L3 (R428). -/
  failed : List Lane := []
  /-- L1 is over: bank and program have been verified as far as there are any (R426). -/
  verified : Bool := false
  /-- A firmware slot has been retired and its record waits for the supervisor (R424). -/
  owedSlot : Option Nat := none
  /-- A MODULE_RESET is accepted and takes effect at ACK or 10 ms after DONE: mailbox and raw AX0 count of DONE (R453). -/
  resetWait : Option (Mb × Nat) := none
  /-- The hub-voter's test of L3 runs (R164). -/
  injecting : Bool := false
  deriving DecidableEq, Repr, Inhabited

/-! ### Host port and mailboxes (19) -/

/-- MB_STAT.STATE (R445). -/
inductive MbState where
  | idle | receiving | busy | done
  deriving DecidableEq, Repr, Inhabited

/-- A mailbox (R445 to R448). -/
structure Mailbox where
  /-- MB_STAT.STATE; reset R445. -/
  st : MbState := .idle
  /-- MB_STAT.REJECTED; reset R445. -/
  rejected : Bool := false
  /-- MB_STAT.OVERRUN; reset R445. -/
  overrun : Bool := false
  /-- MB_STAT.RESULT; reset R445. -/
  result : Nat := 0
  /-- TAG of the command in hand; reset R445. -/
  tag : Nat := 0
  /-- CODE of the command in hand; reset R445. -/
  code : Nat := 0
  /-- MB_LEN.LEN; reset R445. -/
  len : Nat := 0
  /-- Request words of the command in hand: LEN when it began (R446). -/
  need : Nat := 0
  /-- Words in the request FIFO, of 1,024 (R447); reset R445. -/
  fill : Nat := 0
  /-- Request words taken into the FIFO for the command in hand, in order (R446). -/
  req : List Word := []
  /-- Response words not yet read (R446). -/
  resp : List Word := []
  /-- MB_RLEN.RLEN; reset R445. -/
  rlen : Nat := 0
  /-- MB_INFO.LAST; reset R445. -/
  last : Nat := 0
  /-- Source that holds the mailbox (R448). -/
  holder : Option Source := none
  /-- The command in hand has been accepted and waits for an event (R448). -/
  waiting : Bool := false
  /-- An Mn carried the command: it is not answered (R307). -/
  silent : Bool := false
  /-- Raw AX0 count at which the command in hand was accepted or done (R453). -/
  since : Nat := 0
  deriving DecidableEq, Repr, Inhabited

/-- A maintenance session (R450). -/
structure Session where
  mb : Mb
  src : Source
  /-- Raw AX0 count of the latest command from its source (R451). -/
  lastCmd : Nat
  deriving DecidableEq, Repr, Inhabited

/-- A live nonce (R450). -/
structure NonceRec where
  mb : Mb
  src : Source
  key : Nat
  bytes : List Byte
  at_ : Nat
  deriving DecidableEq, Repr, Inhabited

/-- A program mailbox slot (R444). -/
structure MbxSlot where
  /-- MBXn_VAL; reset R442. -/
  val : Word := 0
  /-- The slot's nibble; reset R442. -/
  q : BitVec 4 := 4
  /-- MBXn_QUAL latch; reset R442. -/
  lat : BitVec 4 := 4
  deriving DecidableEq, Repr, Inhabited

/-- The host port, the module registers and the mailboxes (R434 to R451). -/
structure HostPort where
  /-- HP_STAT.CAUSE (R441); reset R441. -/
  cause : Nat := 0
  /-- HP_STAT.WORD (R441); reset R441. -/
  word : Nat := 0
  /-- ERR, DOMAIN_OFF and RETRY to report in the next opcode phase (R436). -/
  err : Bool := false
  dOff : Bool := false
  retry : Bool := false
  /-- MOD_IRQ (R442); reset R442. -/
  irq : Word := 0
  /-- MOD_IRQ_EN (R442); reset R442. -/
  irqEn : Word := 0
  /-- MOD_TRIG (R442); reset R442. -/
  trig : DWord := 0
  /-- MBX_CHG (R442); reset R442. -/
  mbxChg : BitVec 16 := 0
  /-- Latch of MOD_HARVEST_LO (R442); reset R442. -/
  harvestLo : Word := 0
  slots : List MbxSlot := List.replicate 16 {}
  mb0 : Mailbox := {}
  mb1 : Mailbox := {}
  sessions : List Session := []
  nonces : List NonceRec := []
  /-- Nonces issued since power-up: what the next one is, own. -/
  nonceCount : Nat := 0
  /-- Raw AX0 counts of DENIED phase 2 attempts: mailbox and count (R450). -/
  denials : List (Mb × Nat) := []
  /-- SESSION_OPEN is refused on a mailbox until this raw AX0 count (R450). -/
  blocked : List (Mb × Nat) := []
  deriving DecidableEq, Repr, Inhabited

/-! ### Loads and exchange (08) -/

/-- A load under R210: the mailbox that began it, the length announced and the bytes received. -/
structure Load where
  mb : Mb
  length : Nat
  received : Nat
  deriving DecidableEq, Repr, Inhabited

/-- An accepted PROG_ACTIVATE (R216 to R218). -/
structure Activation where
  mb : Mb
  online : Bool
  /-- The digests are confirmed and PROG_ACTIVATE has responded (R218). -/
  staged : Bool := false
  deriving DecidableEq, Repr, Inhabited

/-- Objects, loads, swap and exchange (08). -/
structure Exchange where
  /-- MRAM, by the offsets of R21. -/
  mram : List Host.Cell := []
  /-- Flash image slots, by the offsets of R21 (firmware slots are kept as `fwRetired` and `fwSlot`). -/
  flash : List Host.Cell := []
  /-- Active image slot and bank area (R203). -/
  imgSlot : Option Nat := none
  bankSlot : Option Nat := none
  imgLoad : Option Load := none
  bankLoad : Option Load := none
  /-- CFG_SWAP accepted and waiting, and its mailbox (R214). -/
  swap : Option Mb := none
  act : Option Activation := none
  /-- A RESTART activation waits for step 8 of the next harvest of T0 (R217). -/
  restartPending : Bool := false
  /-- The pending RESTART waits for the first harvest after SAFE, which its harvest led to (R27). -/
  restartDeferred : Bool := false
  /-- AX0 value of the swap point while tasks are still to switch (R219). -/
  switchingSince : Option DWord := none
  /-- The exchange is complete, but harvests of tasks that only the old program has are in flight: its space is still in use (R218, R224). -/
  settling : Bool := false
  /-- Firmware slot that runs (R424). -/
  fwSlot : Nat := 0
  /-- A firmware slot has been retired (R424). -/
  fwRetired : Option Nat := none
  deriving DecidableEq, Repr, Inhabited

/-! ### The whole -/

/-- The configuration bank in force (R208), section by section. -/
structure Bank where
  /-- An active bank exists (R203). -/
  valid : Bool := false
  bankId : Word := 0
  bankVer : Word := 0
  modu : ModuleCfg := {}
  grpA : GrpCfg := {}
  grpB : GrpCfg := {}
  chans : List ChCfg := List.replicate 32 {}
  sound : SoundCfg := {}
  conns : List SafeConn := []
  tim : TimCfg := {}
  /-- POLICY KEEP of section 6 (R344); reset R344. -/
  recKeep : Bool := false
  /-- Definitions of section 6 (R344). -/
  recDefs : List RecDef := []
  net : NetCfg := {}
  ptp : PtpCfg := {}
  pair : PairCfg := {}
  pwr : PowerCfg := {}
  deriving DecidableEq, Repr, Inhabited

/-- The state of the module. -/
structure State where
  tim : Timing := {}
  hubt : List HubTask := List.replicate 16 {}
  lanes : Tri LaneSt := ⟨{}, {}, {}⟩
  /-- Connection states of each lane (R193). -/
  conns : Tri (List ConnState) := ⟨[], [], []⟩
  vote : Voter := {}
  field : Field := {}
  snd : Sound := {}
  modu : Module := {}
  /-- Active program: the running one (R203). -/
  prog : Option Program := none
  /-- New program of an exchange (R218). -/
  progNew : Option Program := none
  bank : Bank := {}
  ack : Ack := {}
  safe : SafeHub := {}
  xch : Exchange := {}
  recd : Recorder := {}
  flt : Faults := {}
  hp : HostPort := {}
  pwr : PowerSt := {}
  bring : BringUp := {}
  net : Net := {}
  train : Train := {}
  br : BridgeSt := {}
  pair : Pair := {}
  /-- What the module put on its lines, oldest first (own). -/
  out : List Emission := []
  /-- Commands that wait, first in first out (own). -/
  pending : List Instr := []
  deriving DecidableEq, Repr

/-- The module right after reset. -/
def State.reset : State := {}

end Sys2Proof.Machine
end

