-- ==== Sys2Proof/Machine/Ops.lean ====
section
/-! DEFINITION. Operations that every family shares: lanes and parties, hub time and axis values, interrupts, raising a fault
(R362 to R366), free values, and look-ups in the program and the bank in force. -/
namespace Sys2Proof.Machine

/-! ### Lanes and parties -/

/-- The part of a lane. -/
def Tri.get {α : Type} (t : Tri α) : Lane → α
  | .a => t.a
  | .b => t.b
  | .c => t.c

/-- A lane's part replaced. -/
def Tri.set {α : Type} (t : Tri α) (l : Lane) (x : α) : Tri α :=
  match l with
  | .a => { t with a := x }
  | .b => { t with b := x }
  | .c => { t with c := x }

/-- A lane's part changed. -/
def Tri.mod {α : Type} (t : Tri α) (l : Lane) (f : α → α) : Tri α := t.set l (f (t.get l))
/-- Every lane's part changed. -/
def Tri.map {α β : Type} (t : Tri α) (f : Lane → α → β) : Tri β := ⟨f .a t.a, f .b t.b, f .c t.c⟩

/-- The lanes in the order Lane A, Lane B, Lane C. -/
def allLanes : List Lane := [.a, .b, .c]
/-- 0 Lane A, 1 Lane B, 2 Lane C (R153). -/
def laneNum : Lane → Nat
  | .a => 0 | .b => 1 | .c => 2
/-- The lane of a number. -/
def laneOf : Nat → Lane
  | 0 => .a | 1 => .b | _ => .c
/-- A mask of lanes, Lane A in bit 0. -/
def laneMask (ls : List Lane) : Nat := (ls.map (fun l => 2 ^ laneNum l)).foldl (· + ·) 0
/-- The four parties (R162). -/
def allParties : List Party := [.hub, .unit .a, .unit .b, .unit .c]
/-- A number for each party. -/
def partyNum : Party → Nat
  | .hub => 0 | .unit l => 1 + laneNum l

/-- A lane of the state. -/
abbrev lane (s : State) (l : Lane) : LaneSt := s.lanes.get l
/-- A lane of the state changed. -/
def modLane (s : State) (l : Lane) (f : LaneSt → LaneSt) : State := { s with lanes := s.lanes.mod l f }
/-- Every lane changed. -/
def modLanes (s : State) (f : Lane → LaneSt → LaneSt) : State := { s with lanes := s.lanes.map f }
/-- The lanes in a state of R176. -/
def lanesIn (s : State) (x : LaneState) : List Lane := allLanes.filter (fun l => (lane s l).st = x)
/-- The ACTIVE lanes (R176). -/
def activeLanes (s : State) : List Lane := lanesIn s .active
/-- The number of ACTIVE lanes. -/
def activeCount (s : State) : Nat := (activeLanes s).length

/-- A task record at the hub. -/
def hubTask (s : State) (t : Nat) : HubTask := s.hubt.getD t {}
/-- A task record at the hub changed. -/
def modTask (s : State) (t : Nat) (f : HubTask → HubTask) : State := { s with hubt := upd s.hubt t f }
/-- A task record of a lane. -/
def laneTask (s : State) (l : Lane) (t : Nat) : LaneTask := (lane s l).tasks.getD t {}
/-- A task record of a lane changed. -/
def modLaneTask (s : State) (l : Lane) (t : Nat) (f : LaneTask → LaneTask) : State :=
  modLane s l (fun x => { x with tasks := upd x.tasks t f })

/-! ### Time and axes -/

/-- The value of an axis at a raw count (R30). -/
def axisAt (offset : DWord) (scale raw : DWord) : DWord :=
  offset + BitVec.ofInt 64 ((raw.toInt * (scale.toNat : Int) + 2 ^ 31) / 2 ^ 32)
/-- The value of an axis (R30). -/
def Axis.value (a : Axis) : DWord := axisAt a.offset a.scale a.raw
/-- An axis of the state. -/
def axis (s : State) (n : Nat) : Axis := s.tim.axes.getD n {}
/-- An axis changed. -/
def modAxis (s : State) (n : Nat) (f : Axis → Axis) : State := { s with tim := { s.tim with axes := upd s.tim.axes n f } }
/-- Hub time: the raw counter of AX0, ns since HUB powered up (R31). -/
def rawNow (s : State) : Nat := (axis s 0).raw.toNat
/-- The value of AX0. -/
def ax0 (s : State) : DWord := (axis s 0).value

/-- A time since a moment of hub time has passed. -/
def elapsed (s : State) (since ns : Nat) : Bool := decide (since + ns ≤ rawNow s)

/-- The quality of an axis (R40). The second after an illegal transition or a discarded edge counts on hub time. AX2 with a source selected
and no crossing yet is VALID, since no other row of R40 applies to it (DESIGN CHOICE, notes/assumptions 160). -/
def axisQual (s : State) (n : Nat) : BitVec 4 :=
  let a := axis s n
  let bad := match a.badAt with
    | some t => decide (rawNow s < t + 1000000000)
    | none => false
  if n = 0 then
    (if a.holdoverOver then 1 else if !a.settled then 4 else 0)
  else if a.src = 0 then 8
  else if n = 2 then (if a.lost then 1 else 0)
  else if bad then 8 else 0

/-- The four axes as they stand (R45, R55). -/
def sampleAxes (s : State) : AxisSample :=
  { vals := [0, 1, 2, 3].map (fun n => (axis s n).value), quals := [0, 1, 2, 3].map (axisQual s) }

/-! ### Interrupts, free values, lines -/

/-- Bits of MOD_IRQ (R442). -/
def irqMode : Nat := 0
/-- FAULT. -/
def irqFault : Nat := 1
/-- MB0_DONE. -/
def irqMb0 : Nat := 2
/-- MB1_DONE. -/
def irqMb1 : Nat := 3
/-- BRIDGE. -/
def irqBridge : Nat := 4
/-- OVERRUN. -/
def irqOverrun : Nat := 5
/-- FORCE. -/
def irqForce : Nat := 6
/-- REC. -/
def irqRec : Nat := 7
/-- TRIG. -/
def irqTrig : Nat := 8
/-- MBX. -/
def irqMbx : Nat := 9
/-- AXIS. -/
def irqAxis : Nat := 10
/-- PAIR. -/
def irqPair : Nat := 11
/-- POWER. -/
def irqPower : Nat := 12
/-- NET. -/
def irqNet : Nat := 13
/-- ACK. -/
def irqAck : Nat := 14

/-- A bit of MOD_IRQ set (R442). -/
def setIrq (s : State) (b : Nat) : State := { s with hp := { s.hp with irq := s.hp.irq ||| (1#32 <<< b) } }
/-- A bit of MOD_IRQ set on a condition. -/
def setIrqIf (s : State) (c : Bool) (b : Nat) : State := if c then setIrq s b else s

/-- HOST_IRQ_N is driven low (R443). -/
def hostIrqLow (s : State) : Bool := (s.hp.irq &&& s.hp.irqEn) != 0

/-- Something put on a line of the module. -/
def emit (s : State) (e : Emission) : State := { s with out := s.out ++ [e] }

/-- A saturating increment. -/
def satInc {n : Nat} (x : BitVec n) (k : Nat := 1) : BitVec n := BitVec.ofNat n (min (x.toNat + k) (2 ^ n - 1))

/-! ### The control area of the fault log (R373) -/

/-- MRAM changed. -/
def modMram (s : State) (f : List Host.Cell → List Host.Cell) : State := { s with xch := { s.xch with mram := f s.xch.mram } }

/-- The two control copies are written alternately: the offset of a generation's copy (R354, R373). -/
def copyOffset (gen : Nat) : Nat := if gen % 2 = 0 then 0 else 0x800

/-- The bytes of a control copy with its CRC. -/
def sealCopy (bs : List Byte) : List Byte :=
  let b := bs ++ zeros (60 - bs.length)
  b ++ beWord (crc32c b)

/-- Start of the fault log in MRAM, and of its ring. -/
def logBase : Nat := 0x01C00000
/-- A byte of the two control copies of the fault log (R373). -/
def logCopyByte (a : Nat) : Bool :=
  (decide (logBase ≤ a) && decide (a < logBase + 64)) || (decide (logBase + 0x800 ≤ a) && decide (a < logBase + 0x800 + 64))
/-- The oldest FSEQ in the log. -/
def oldestLogged (s : State) : Option DWord := s.flt.index.head?.map (·.1)

/-- The fault log's control area is written, in the copy whose turn it is. The order of its fields is the recorder's
(DESIGN CHOICE, notes/assumptions 20). -/
def writeLogControl (s : State) : State :=
  let f := s.flt
  let g := f.gen + 1
  let tail := match f.index with
    | x :: _ => x.2
    | [] => f.head
  let newest := match f.index.getLast? with
    | some x => x.1
    | none => 0
  let bs := beWord 0x464C5447 ++ beWord (BitVec.ofNat 32 g) ++ beDWord ((oldestLogged s).getD 0) ++ beDWord newest ++ beDWord f.ceiling
    ++ beWord (BitVec.ofNat 32 (0x1000 + 40 * tail)) ++ beWord (BitVec.ofNat 32 (0x1000 + 40 * f.head))
  let s := { s with flt := { f with gen := g } }
  modMram s (fun m => memWrites m (logBase + copyOffset g) (sealCopy bs))

/-! ### Faults (15) -/

/-- The handler of S3 runs: from the entry into SAFE until the restart is complete (R367). -/
def s3Running (s : State) : Bool := s.modu.mode = .safe && s.vote.restarting

/-- A region's queue. -/
def faultQueue (s : State) : Region → FaultQueue
  | .hub => s.flt.hubQ
  | .lane l => s.flt.laneQ.get l

/-- A region's queue replaced. -/
def setFaultQueue (s : State) (r : Region) (q : FaultQueue) : State :=
  match r with
  | .hub => { s with flt := { s.flt with hubQ := q } }
  | .lane l => { s with flt := { s.flt with laneQ := s.flt.laneQ.set l q } }

/-- FLT_CNT of a region advanced (R365). -/
def countOverflow (s : State) (r : Region) : State :=
  let f := s.flt
  match r with
  | .hub => { s with flt := { f with ovfHub := satInc f.ovfHub } }
  | .lane .a => { s with flt := { f with ovfA := satInc f.ovfA } }
  | .lane .b => { s with flt := { f with ovfB := satInc f.ovfB } }
  | .lane .c => { s with flt := { f with ovfC := satInc f.ovfC } }

/-- The next FSEQ, with the ceiling raised by 4,096 in MRAM before a number at or above it is assigned (R349, R363). -/
def takeFseq (s : State) : DWord × State :=
  let f := s.flt
  let s := if f.ceiling.ule f.next then writeLogControl { s with flt := { f with ceiling := f.ceiling + 4096 } } else s
  (f.next, { s with flt := { s.flt with next := f.next + 1 } })

/-- A record lost for want of an entry: the overflow record of entry 32 is created or updated (R365). -/
def loseFault (s : State) (r : Region) (x : FaultRec) : State :=
  let s := countOverflow s r
  let q := faultQueue s r
  match q.overflow with
  | some o => setFaultQueue s r { q with overflow := some { o with lost := o.lost + 1, highest := max o.highest x.fin.sev } }
  | none =>
    let (n, s) := match r with
      | .hub => takeFseq s
      | .lane _ => (0, s)
    setFaultQueue s r
      { q with
        overflow := some { lost := 1, highest := x.fin.sev, firstCode := x.fin.code, fseq := n, harvest := x.harvest, ax0 := x.ax0 }
        overflowNext := false }

/-- The position of the newest entry of the lowest severity in a queue, and that severity (R365). -/
def lowestNewest : List FaultRec → Nat → Option (Nat × Nat) → Option (Nat × Nat)
  | [], _, best => best
  | x :: l, i, best =>
    let best' := match best with
      | some (j, sv) => if x.fin.sev ≤ sv then some (i, x.fin.sev) else some (j, sv)
      | none => some (i, x.fin.sev)
    lowestNewest l (i + 1) best'

/-- What the supervisor reports of a record it takes in hand: LATCHED, COUNT and the fault interrupt (R372). -/
def reportFault (s : State) (sev : Nat) : State :=
  let f := s.flt
  let s := { s with flt := { f with latched := max f.latched sev, count := if 2 ≤ sev then satInc f.count else f.count } }
  setIrqIf s (2 ≤ sev) irqFault

/-- A record enters a region's queue, pre-empts its handler, displaces another, or is lost (R364 to R366). -/
def enqueueFault (s : State) (r : Region) (x : FaultRec) : State :=
  let q := faultQueue s r
  let busy := !q.hand.isEmpty
  let x := { x with
    nested := x.nested || busy || s3Running s
    fin := { x.fin with hw := x.fin.hw || s3Running s } }
  let (n, s') := match r with
    | .hub => takeFseq s
    | .lane _ => (x.fseq, s)
  let y := { x with fseq := n }
  let pre := match q.hand with
    | h :: _ => decide (h.fin.sev < x.fin.sev)
    | [] => false
  let put := fun (s : State) (q : FaultQueue) =>
    if pre then
      let s := setFaultQueue s r { q with hand := y :: q.hand }
      match r with
      | .hub => reportFault s y.fin.sev
      | .lane _ => s
    else setFaultQueue s r { q with queue := q.queue ++ [y] }
  if q.queue.length + q.hand.length < 31 then put s' q
  else
    match lowestNewest q.queue 0 none with
    | some (i, sv) =>
      if sv < x.fin.sev then
        let lost := q.queue.getD i default
        let s1 := loseFault s' r lost
        let q1 := faultQueue s1 r
        put s1 { q1 with queue := q1.queue.eraseIdx i }
      else loseFault s r x
    | none => loseFault s r x

/-- A fault is detected: its record, with the harvest sequence and AX0 value at detection (R362). In BRINGUP nobody numbers it before
the supervisor has read the control area of the log (R363, R425; DEDUCED, notes/assumptions 79). -/
def raise (s : State) (f : FaultIn) : State :=
  let x : FaultRec := { fin := f, harvest := s.vote.harvest, ax0 := ax0 s }
  if s.modu.mode = .bringup then { s with flt := { s.flt with early := s.flt.early ++ [x] } } else enqueueFault s f.region x

/-- The records raised so far in BRINGUP enter their queues. -/
def enterEarly (s : State) : State :=
  s.flt.early.foldl (fun s x => enqueueFault s x.fin.region x) { s with flt := { s.flt with early := [] } }

/-- A fault of the Hub region. -/
def raiseHub (s : State) (sev : Nat) (code : BitVec 16) (loc : Nat := 0) (arg0 : Nat := 0) (arg1 : Nat := 0)
    (level : Nat := 2) (hw : Bool := false) : State :=
  raise s { region := .hub, sev := sev, level := level, code := code, loc := BitVec.ofNat 32 loc,
            arg0 := BitVec.ofNat 32 arg0, arg1 := BitVec.ofNat 32 arg1, hw := hw }

/-- A fault of a lane. -/
def raiseLane (s : State) (l : Lane) (sev level : Nat) (code : BitVec 16) (block pan : Nat) (arg0 : Word) : State :=
  raise s { region := .lane l, sev := sev, level := level, code := code,
            loc := BitVec.ofNat 32 (block * 2 ^ 14 + pan), arg0 := arg0 }

/-! ### The program and the bank in force -/

/-- The program a task runs at the hub: the new one once the task has switched (R219). -/
def taskProg (s : State) (t : Nat) : Option Program := if (hubTask s t).switched then s.progNew else s.prog

/-- An entry of a program's task table. -/
def Program.taskDef (p : Program) (t : Nat) : Option TaskDef := p.tasks.find? (fun d => d.task = t)

/-- The task-table entry that governs a task. -/
def taskDef (s : State) (t : Nat) : Option TaskDef := (taskProg s t).bind (fun p => p.taskDef t)

/-- The skew limit of a task in ns (R124). -/
def TaskDef.skewNs (d : TaskDef) : Nat :=
  let pct := if d.skew = 0 then 20 else d.skew
  (if d.source = 1 then d.period.toNat else d.deadline.toNat * 1000) * pct / 100

/-- The module is in a voted mode. -/
def voted (s : State) : Bool := s.modu.mode = .voted3 || s.modu.mode = .voted2
/-- The module is in VOTED3, VOTED2 or SAFE: releases occur (R130). -/
def inService (s : State) : Bool := voted s || s.modu.mode = .safe

/-- The module's effects toward the outside are held: it is STANDBY (R377), its strap is in conflict, or its bank pairs it and it
has not taken its role (R383). -/
def effectsHeld (s : State) : Bool :=
  !s.pair.controlling || s.pair.strapConflict || (s.bank.valid && s.bank.pair.enable && !s.pair.roleTaken)
/-- A domain of R399 is on, by its bit in the order of R401; every domain but AON needs HUB. -/
def domainOn (s : State) (d : Nat) : Bool := s.pwr.on.getLsbD d && s.pwr.on.getLsbD 1
/-- A write to a block whose domain is off is discarded and counted (R369). -/
def discardWrite (s : State) : State := { s with flt := { s.flt with wrDiscard := satInc s.flt.wrDiscard } }
/-- Reads of blocks whose domain is off give zero and are counted (R369). -/
def zeroReads (s : State) (n : Nat) : State := { s with flt := { s.flt with rdZero := satInc s.flt.rdZero n } }
/-- The module sends toward the networks: VOTED3, VOTED2 or SAFE (R276), controlling (R377), its lanes up (R406), and NET not
being shed (R404). -/
def sends (s : State) : Bool :=
  inService s && !effectsHeld s && domainOn s 2 && domainOn s 5 && !(s.pwr.shedStep = some 3 && s.pwr.shedding.getLsbD 5)

/-- The code of a mode in MOD_STAT (R132). -/
def modeCode : Mode → Nat
  | .bringup => 0 | .limited => 1 | .voted3 => 2 | .voted2 => 3 | .safe => 4 | .halted => 5

/-- A force is active (R145). -/
def forced (s : State) : Bool := s.modu.forces.any (fun f => f.effective)

/-- FORCE_N: driven low while a force is active, high otherwise, high-impedance with HUB off (R145, R417). -/
def forceN (s : State) : Level := if !s.pwr.on.getLsbD 1 then .highZ else if forced s then .low else .high

/-- A lane is in DEBUG (R177). -/
def debugging (s : State) : Bool := !(lanesIn s .debug).isEmpty

/-- A safe connection is being accepted on one plane (R132, R194). -/
def degraded (s : State) : Bool := allLanes.any (fun l => (lane s l).st = .active && (s.conns.get l).any (fun c => c.degraded))

/-- The latest telegram of a connection for a plane; none while a restart is in progress (R182, R192). -/
def latestTelegram (s : State) (conn : Nat) (pb : Bool) : Option (List Byte) :=
  if s.vote.restarting then none else (s.safe.tx.find? (fun y => y.1 = conn && y.2.1 = pb)).map (fun y => y.2.2)

/-- A latch is set in some ACTIVE lane (R180, R187). -/
def latchesSet (s : State) : Bool := (activeLanes s).any (fun l => (lane s l).latch)

end Sys2Proof.Machine
end

