-- ==== Sys2Proof/Machine/Clocks.lean ====
section
/-! DEFINITION. The clocks of the sensing and audio contacts: the modulator clocks MCK0 and MCK1 (R244, R251) and the bit and frame clocks
of the TDM ports (R255, R256), on the lattice of AX0 and after a step of it. -/
namespace Sys2Proof.Machine

/-! ### Modulator clocks (R244, R251) -/

/-- The frequency of a channel's modulator clock (R264). -/
def mckHz (g : SoundCfg) (c : FiltCfg) : Nat := if c.mck1 then g.mck1 else g.mck0

/-- AX0 of half-clock h of an MCK of f Hz: edges at round(k 10^9 / f), half clocks at the midpoint rounded down (R244, R251). -/
def mckTime (f : Nat) (h : Int) : Int :=
  let edge := fun (k : Int) => (2 * k * 1000000000 + (f : Int)) / (2 * (f : Int))
  if h % 2 = 0 then edge (h / 2) else (edge (h / 2) + edge (h / 2 + 1)) / 2

/-- The latest half-clock of a parity, 0 for rising and 1 for falling edges, at or before an AX0 value. -/
def mckLast (f : Nat) (par u : Int) : Int :=
  let k := u * (f : Int) / 1000000000
  (([k + 1, k, k - 1].map (fun k => 2 * k + par)).find? (fun h => decide (mckTime f h ≤ u))).getD (2 * (k - 2) + par)

/-- The level of an MCK of f Hz at an AX0 value of its lattice (R244). -/
def mckLevel (f : Nat) (u : Int) : Bool := f != 0 && decide (u < mckTime f (mckLast f 0 u + 1))

/-! ### TDM ports (R255) -/

/-- L(n) = floor(n 62,500 / 3) ns (R255). -/
def latticeL (n : Int) : Int := n * 62500 / 3
/-- The frame whose lattice time is the latest at or before an AX0 value. -/
def frameAt (t : Int) : Int := (3 * t + 2) / 62500
/-- The configured delay of a port (R255, R264). -/
def outDelay (g : SoundCfg) (port : Nat) : Int := if port = 0 then g.outDelay0 else g.outDelay1

/-- Falling BCK edge j = 256 n + m of a port with no delay (R255). -/
def bckFall (j : Int) : Int := j * 62500 / 768
/-- The latest falling BCK edge at or before an AX0 value. -/
def bckAt (u : Int) : Int := (768 * u + 767) / 62500
/-- The level of BCK: low from a falling edge to the middle of its period, rounded down (R255; DEDUCED, notes/assumptions 178). -/
def bckLevel (u : Int) : Bool := let j := bckAt u; decide ((bckFall j + bckFall (j + 1)) / 2 ≤ u)
/-- The level of FS: high in BCK period 0 of a frame (R255). -/
def fsLevel (u : Int) : Bool := bckAt u % 256 = 0
/-- The bit that DO drives: bit b of slot k in BCK period 32 k + (31 - b) (R255). -/
def doLevel (words : List Word) (u : Int) : Bool :=
  let m := (bckAt u % 256).toNat
  (words.getD (m / 32) 0).getLsbD (31 - m % 32)
/-- The slot word of a 24-bit value: the sample in [31:8], zero below (R255). -/
def slotWord (x : Int) : Word := BitVec.ofInt 24 x ++ (0 : BitVec 8)

/-! ### After a step of AX0 (R244, R256) -/

/-- The clock of a number: 0 and 1 MCK0 and MCK1, 2 and 3 the ports TDM0 and TDM1; the end of the period that is in progress at a value, and
the first lattice edge at least one period beyond a value. None for an MCK that is held low (R244, R256). -/
def clockSpan (g : SoundCfg) (n : Nat) (v0 v1 : Int) : Option (Int × Int) :=
  if n < 2 then
    let f := if n = 0 then g.mck0 else g.mck1
    if f = 0 then none
    else some (mckTime f (mckLast f 0 v0 + 2), mckTime f (2 * (-(-(v1 * (f : Int)) / 1000000000) + 1)))
  else
    let d := outDelay g (n - 2)
    some (latticeL (frameAt (v0 + d) + 1) - d, latticeL (-(-(3 * (v1 + d)) / 62500) + 1) - d)

/-- A clock still stands as an earlier step left it: its period in progress is not over, or its first lattice edge has not come. -/
def ClockHold.on (h : ClockHold) (raw : Nat) (u : Int) : Bool := decide (raw < h.endAt) || decide (u < h.resume)

/-- The clocks at a step of AX0 from v0 to v1: the period in progress is finished on the raw count, and the clock is then low until its first
edge of the new lattice. A clock that already waits goes on waiting, for the new lattice (R244, R256). -/
def holdClocks (s : State) (v0 v1 : Int) : State :=
  let raw := rawNow s
  { s with tim := { s.tim with clocks := ([0, 1, 2, 3].zip s.tim.clocks).map (fun (n, old) =>
    match clockSpan s.bank.sound n v0 v1, old.filter (fun h => h.on raw v0) with
    | some (_, resume), some h => some { h with resume := resume, v1 := v1 }
    | some (stop, resume), none => some { raw0 := raw, v0 := v0, endAt := raw + (stop - v0).toNat, resume := resume, v1 := v1 }
    | none, _ => none) } }

/-- What a clock shows: the AX0 value of the lattice that it follows now, the unstepped one while its period in progress finishes; none
while it is held low (R244, R256). -/
def clockPhase (s : State) (n : Nat) : Option Int :=
  let u := (ax0 s).toInt
  match s.tim.clocks.getD n none with
  | none => some u
  | some h => if rawNow s < h.endAt then some (h.v0 + ((rawNow s - h.raw0 : Nat) : Int)) else if u < h.resume then none else some u

/-- SOUND is on. -/
def soundOn (s : State) : Bool := s.pwr.on.getLsbD 6 && s.pwr.on.getLsbD 1

/-- The levels of MCK0, MCK1, then BCK, FS and DO of TDM0 and of TDM1, as they stand now (R244, R255). TDMI has the clocks of TDM0. -/
def clockPins (s : State) : List Bool :=
  let g := s.bank.sound
  let on := fun (n : Nat) (f : Int → Bool) => soundOn s && (clockPhase s n).any f
  let port := fun (p : Nat) =>
    let d := outDelay g p
    [on (2 + p) (fun u => bckLevel (u + d)), on (2 + p) (fun u => fsLevel (u + d)),
      on (2 + p) (fun u => doLevel ((s.snd.ports.getD p {}).words) (u + d))]
  [on 0 (mckLevel g.mck0), on 1 (mckLevel g.mck1)] ++ port 0 ++ port 1

/-- The j-th edge of a parity before the latest one of an MCK: its half-clock on its lattice, and what its AX0 value lies above that
lattice. Edges before the latest step of AX0 lie on the old lattice; only the falling edge that finishes the period in progress
lies on none (R244, R251). -/
def mckBack (s : State) (n f : Nat) (par : Int) (j : Nat) : Int × Int :=
  let u := (ax0 s).toInt
  match s.tim.clocks.getD n none with
  | none => (mckLast f par u - 2 * j, 0)
  | some h =>
    let first := (mckLast f 0 h.resume) + par
    let last := mckLast f par u
    let new := if rawNow s < h.endAt || u < h.resume || last < first then 0 else ((last - first) / 2 + 1).toNat
    if j < new then (last - 2 * j, 0)
    else
      let gone := min (h.v0 + ((rawNow s - h.raw0 : Nat) : Int)) (h.v0 + ((h.endAt - h.raw0 : Nat) : Int) - 1)
      let old := mckLast f par gone - 2 * ((j - new : Nat) : Int)
      (old, if h.v0 < mckTime f old then h.v1 - h.v0 else 0)

end Sys2Proof.Machine
end

