-- ==== Sys2Proof/Machine/Cycles.lean ====
section
/-! DEFINITION. The ports of the module and their planes (R265), the cycles of the schedule in force (R272, R273, R293) and its OPEN
windows (R285). -/
namespace Sys2Proof.Machine

/-! ### Ports and planes -/

/-- Codes of the ports that are no consist port: EP0, EP1, SVC (R454), and the internal port of a star (own). -/
def portEp0 : Nat := 8
/-- EP1. -/
def portEp1 : Nat := 9
/-- SVC. -/
def portSvc : Nat := 10
/-- The switch internal port of a star. -/
def portInternal : Nat := 11

/-- A consist port's entry in the active bank; OFF without a bank (R426). -/
def portCfg (s : State) (n : Nat) : PortCfg := if s.bank.valid then s.bank.net.ports.getD n {} else {}
/-- The consist ports of a plane in a role. -/
def portsOf (s : State) (planeB : Bool) (role : Nat) : List Nat :=
  (List.range 8).filter (fun n => (portCfg s n).role = role && (portCfg s n).planeB = planeB)
/-- The module is a star of a plane (R265). -/
def isStar (s : State) (planeB : Bool) : Bool := !(portsOf s planeB 2).isEmpty
/-- The module's attachment to a plane: its NODE port, or the internal port of its star (R265). -/
def nodePort (s : State) (planeB : Bool) : Option Nat :=
  if isStar s planeB then some portInternal else (portsOf s planeB 1).head?
/-- A port. -/
def linkPort (s : State) (n : Nat) : LinkPort := s.net.ports.getD n {}
/-- A port has link: the internal port whenever NET is on. -/
def portUp (s : State) (n : Nat) : Bool := domainOn s 5 && (n = portInternal || (linkPort s n).speed != 0)
/-- The module's attachment to a plane has link. -/
def planeUp (s : State) (planeB : Bool) : Bool :=
  match nodePort s planeB with
  | some n => portUp s n
  | none => false

/-! ### Cycles (R272, R293) -/

/-- Start of basic cycle b (R272). -/
def Schedule.startOf (c : Schedule) (b : Int) : Int := (c.phase : Int) + b * (c.tb : Int)
/-- The basic cycle of an AX0 value (R272). -/
def Schedule.cycleOf (c : Schedule) (t : Int) : Int := (t - (c.phase : Int)) / (c.tb : Int)
/-- C (R272). -/
def Schedule.len (c : Schedule) : Nat := 2 ^ c.c
/-- CYCLE of a basic cycle (R272). -/
def Schedule.cyc (c : Schedule) (b : Int) : Nat := (b % (c.len : Int)).toNat
/-- The cluster cycle of a basic cycle. -/
def Schedule.cluster (c : Schedule) (b : Int) : Int := b / (c.len : Int)
/-- CCOUNT of a basic cycle (R272). -/
def Schedule.ccount (c : Schedule) (b : Int) : Word := BitVec.ofInt 32 (c.cluster b)
/-- An entry is present in a basic cycle on a plane (R273). -/
def SchedEntry.present (e : SchedEntry) (cyc : Nat) (planeB : Bool) : Bool :=
  cyc % e.rep = e.base && bit e.planes (b2n planeB)

/-- AX0 as a number of ns. -/
def now0 (s : State) : Int := (ax0 s).toInt

/-- The basic cycle in progress, and the time since its start, for a moment that lies `ahead` ns from now: none between the end
of a cycle that a step cut from the lattice and the next lattice point (R293). -/
def cycleAt (s : State) (ahead : Int) : Option (Int × Int) :=
  let c := s.net.sched
  let t := now0 s + ahead
  let b := c.cycleOf t
  match s.tim.stepMark with
  | some (raw, old, new) =>
    let b0 := c.cycleOf old.toInt
    let rest := c.startOf (b0 + 1) - old.toInt
    let passed : Int := (rawNow s : Int) - raw
    if passed < rest then some (b0, old.toInt - c.startOf b0 + passed + ahead)
    else if new.toInt < c.startOf b && b0 < b && decide (rest ≤ passed - (t - c.startOf b)) then some (b, t - c.startOf b)
    else none
  | none => some (b, t - c.startOf b)

/-! ### Planes and windows -/

/-- A plane. -/
def planeB (p : Plane) : Bool := p = .b
/-- What the node keeps of a plane. -/
def planeSt (s : State) (b : Bool) : PlaneSt := if b then s.net.planeB else s.net.planeA
/-- The same, changed. -/
def modPlane (s : State) (b : Bool) (f : PlaneSt → PlaneSt) : State :=
  if b then { s with net := { s.net with planeB := f s.net.planeB } } else { s with net := { s.net with planeA := f s.net.planeA } }

/-- A byte on the wire at the lowest speed that any port of the plane permits, in ns (R274). -/
def byteNs (s : State) (pb : Bool) : Nat :=
  if (List.range 8).any (fun n => (portCfg s n).role != 0 && (portCfg s n).planeB = pb && bit (portCfg s n).speed 1) then 80 else 8

/-- A moment `ahead` ns from now lies in an OPEN window of a plane: how long the window then still lasts (R273, R285). -/
def openFrom (s : State) (pb : Bool) (ahead : Int) : Option Int :=
  match cycleAt s ahead with
  | some (b, off) =>
    (s.net.sched.entries.find? (fun e => e.ty = 5 && e.present (s.net.sched.cyc b) pb && decide ((e.start : Int) ≤ off)
      && decide (off < (e.start + e.length : Nat)))).map (fun e => ((e.start + e.length : Nat) : Int) - off)
  | none => none
/-- The same for now. -/
def openLeft (s : State) (pb : Bool) : Option Int := openFrom s pb 0

/-- The basic cycle in progress is one that a backward step cut from the lattice: nothing more is sent in it (R293). -/
def cutBack (s : State) : Bool :=
  let c := s.net.sched
  match s.tim.stepMark with
  | some (raw, old, new) =>
    decide (new.toInt < old.toInt) && decide ((rawNow s : Int) - raw < c.startOf (c.cycleOf old.toInt + 1) - old.toInt)
  | none => false

/-- The node puts frames on its attachments at a moment `ahead` ns from now: it is in SYNC, it has reached the cluster cycle boundary
from which it sends (R281, R282), and no backward step keeps it silent (R293). -/
def nodeSends (s : State) (ahead : Int) : Bool :=
  s.net.node = .sync && decide ((s.net.sendFrom : Int) ≤ (rawNow s : Int) + ahead) && !cutBack s

/-! ### The path to the root star (R275, R279) -/

/-- The link delay of a port in use: configured, or the mean of the measurements (R277, R279). -/
def delayOf (s : State) (n : Nat) : Int :=
  if n = portInternal then 0
  else
    let c := (portCfg s n).linkDelay
    let d := (linkPort s n).delays
    if c != 0 then (c : Int) else if d.isEmpty then 0 else (2 * d.foldl (· + ·) 0 + (d.length : Int)) / (2 * (d.length : Int))

/-- D_up of the module on a plane: the link delays and sub-star latencies on its path to the root (R275). Behind a NODE port the part
beyond the far end is the installation's. -/
def dUp (s : State) (pb : Bool) : Int :=
  match nodePort s pb with
  | some n =>
    if n = portInternal then
      match (portsOf s pb 3).head? with
      | some u => delayOf s u + 1200
      | none => 0
    else delayOf s n + (Config.upstream pb : Int)
  | none => 0

end Sys2Proof.Machine
end

