-- ==== Sys2Proof/Machine/Ip.lean ====
section
/-! DEFINITION. Sending over IP (R304) and the answer of a mailbox command (R446, R448). -/
namespace Sys2Proof.Machine

/-! ### Routing (R304) -/

/-- An address lies in the subnet of an interface that is switched on (R305). -/
def inSubnet (ip addr mask : Word) : Bool := addr != 0 && (ip &&& mask) = (addr &&& mask)

/-- The port and the next hop of a destination; none where it is dropped (R304). -/
def route (s : State) (dst : Word) : Option (Nat × Word) :=
  let c := s.bank.net.ip
  let etb := if portUp s portEp0 then portEp0 else portEp1
  if !s.bank.valid then none
  else if inSubnet dst c.ecnAddr c.ecnMask then
    (if planeUp s false then nodePort s false else nodePort s true).map (fun n => (n, dst))
  else if inSubnet dst c.etbAddr c.etbMask then some (etb, dst)
  else if inSubnet dst c.svcAddr c.svcMask then some (portSvc, dst)
  else if c.gateway = 0 then none else some (etb, c.gateway)

/-- IP traffic of a module whose effects are held leaves only from the standby address of its interface (R377). -/
def mayUse (s : State) (port : Nat) : Bool :=
  !effectsHeld s || (if port = portEp0 || port = portEp1 then s.bank.pair.etb != 0
    else if port = portSvc then false else s.bank.pair.ecn != 0)

/-- The ARP cache holds an unexpired entry for an address (R304). -/
def arpKnown (s : State) (ip : Word) : Bool :=
  s.train.arp.any (fun e => e.ip = ip && !elapsed s e.at_ 60000000000)

/-! ### Best-effort frames and OPEN windows (R285, R302) -/

/-- The port of a best-effort frame. -/
def Emission.port : Emission → Nat
  | .frame n _ _ => n
  | .ptp m => m.port
  | .udp d => d.port
  | .arp n _ _ => n
  | .echo n _ _ => n
  | .igmp n _ => n
  | .trdp n _ _ _ _ _ _ _ => n
  | _ => portSvc

/-- The plane of a port: a consist port's, or that of the star whose internal port it is; none for EP0, EP1 and SVC. -/
def portPlane (s : State) (n : Nat) : Option Bool :=
  if n < 8 then some (portCfg s n).planeB
  else if n = portInternal then some (isStar s true)
  else none

/-- Bytes of the IP fragments of n bytes of IP payload: 1,480 each and the rest (R304; 1,500 bytes of IEEE 802.3 payload, PRESUMED,
notes/assumptions 97). -/
def fragments : Nat → Nat → List Nat
  | 0, _ => []
  | _ + 1, 0 => []
  | k + 1, n => min n 1480 :: fragments k (n - 1480)

/-- The fragments in which a message data datagram with n bytes of dataset leaves: none where it fits whole (R304). UDP puts 8 bytes and the
message data header of IEC 61375-2-3 116 bytes in front (PRESUMED, notes/assumptions 97). -/
def mdFragments (n : Nat) : List Nat := if n + 124 ≤ 1480 then [] else fragments (n + 124) (n + 124)

/-- Bytes on the wire that a best-effort frame takes, with preamble, check sequence and gap. The lengths of the headers are those of the
standards (PRESUMED, notes/assumptions 19). -/
def wireBytes (e : Emission) : Nat :=
  let ip := fun (n : Nat) => 38 + max 46 (20 + n)
  match e with
  | .frame _ _ bs => 20 + bs.length
  | .ptp m => if m.proto = 0x88F7 then 38 + 64 else ip (8 + 64)
  | .udp d => ip (8 + d.bytes.length)
  | .echo _ _ bs => ip (8 + bs.length)
  | .igmp _ _ => ip 12
  | .trdp _ _ kind _ _ _ bs frags =>
    if frags.isEmpty then ip (8 + (if kind = "Mp" || kind = "Me" then 116 else 40) + bs.length) else (frags.map ip).sum
  | _ => 84

/-- The part of AX0 below 1 ns in 2^-16 ns: what the value of R30 rounds away (R299). -/
def ax0Fraction (s : State) : Int :=
  let a := axis s 0
  ((a.raw.toInt * (a.scale.toNat : Int) + 2 ^ 31) % 2 ^ 32 - 2 ^ 31) / 2 ^ 16

/-- The mode of a port for PTP: 0 OFF, 1 TC, 2 ONESTEP (R298). The internal port has none. -/
def ptpMode (s : State) (n : Nat) : Nat := if s.bank.valid && n < 11 then bits s.bank.ptp.portModes (2 * n) 2 else 0

/-- A best-effort frame leaves. A PTP event message takes its egress SOF, and on a ONESTEP port the part below 1 ns of a Sync's goes into
its correctionField; a message that follows one carries the SOF of that (R299, R301). -/
def putOut (s : State) (e : Emission) : State :=
  match e with
  | .ptp m =>
    let now := (ax0 s).toInt
    let keep := fun (s : State) => { s with train := { s.train with ptp := { s.train.ptp with sentAt := now } } }
    match m.kind with
    | .sync => emit (keep s) (.ptp { m with time := now, correction := if ptpMode s m.port = 2 then ax0Fraction s else 0 })
    | .delayReq | .pdelayReq => emit s (.ptp { m with time := now })
    | .pdelayResp => emit (keep s) (.ptp m)
    | .followUp | .pdelayFollowUp => emit s (.ptp { m with time := s.train.ptp.sentAt })
    | _ => emit s (.ptp m)
  | _ => emit s e

/-- The plane's part of what the node keeps, with the time until which best-effort frames take the attachment. -/
def busyUntil (s : State) (pb : Bool) (t : Nat) : State := modPlane s pb (fun x => { x with bestUntil := t })

/-- Best-effort frames of a plane leave in their order while they fit before the end of the OPEN window, each behind the one before
(R285, R302). What is left stays queued. -/
def drainBest (pb : Bool) : List Emission → State → State
  | [], s => s
  | e :: l, s =>
    let now := rawNow s
    let start := max now (planeSt s pb).bestUntil
    let wire := wireBytes e * byteNs s pb
    let fits := match openFrom s pb (dUp s pb) with
      | some left => nodeSends s (dUp s pb) && decide ((start - now + wire : Nat) ≤ left)
      | none => false
    if fits then drainBest pb l (putOut (busyUntil s pb (start + wire)) e)
    else { s with net := { s.net with best := s.net.best ++ (e :: l).map (fun x => (pb, x)) } }

/-- The queue of a plane is worked off (R285). -/
def drainPlane (s : State) (pb : Bool) : State :=
  let mine := s.net.best.filter (fun x => x.1 = pb)
  drainBest pb (mine.map (·.2)) { s with net := { s.net with best := s.net.best.filter (fun x => x.1 ≠ pb) } }

/-- A best-effort frame of the module leaves: at once on EP0, EP1 and SVC, and in OPEN windows on a plane (R302). -/
def leave (s : State) (e : Emission) : State :=
  match portPlane s e.port with
  | none => putOut s e
  | some pb => drainPlane { s with net := { s.net with best := s.net.best ++ [(pb, e)] } } pb

/-- Something is sent to a next hop on a port: as soon as ARP knows the hop, after an ARP request otherwise (R304). -/
def sendHop (s : State) (port : Nat) (hop : Word) (e : Nat → Emission) : State :=
  if !domainOn s 5 || !mayUse s port then s
  else if arpKnown s hop then leave s (e port)
  else leave { s with train := { s.train with arpWait := s.train.arpWait ++ [(rawNow s, hop, e port)] } } (.arp port true hop)

/-- What no route leads to is dropped and counted (R304). -/
def dropUnroutable (s : State) : State := { s with train := { s.train with unroutable := s.train.unroutable + 1 } }

/-- Something is sent to an address (R304). -/
def sendIp (s : State) (dst : Word) (e : Nat → Emission) : State :=
  match route s dst with
  | none => dropUnroutable s
  | some (port, hop) => sendHop s port hop e

/-- Something is sent on a backbone line of the sender's choice (R304, R308): to the address itself in the ETB subnet, to GATEWAY
otherwise. -/
def sendLine (s : State) (port : Nat) (dst : Word) (e : Nat → Emission) : State :=
  let c := s.bank.net.ip
  if inSubnet dst c.etbAddr c.etbMask then sendHop s port dst e
  else if c.gateway = 0 then dropUnroutable s else sendHop s port c.gateway e

/-! ### The end of a mailbox command (R446, R448) -/

/-- A mailbox. -/
def mbox (s : State) : Mb → Mailbox
  | .mb0 => s.hp.mb0
  | .mb1 => s.hp.mb1
/-- A mailbox changed. -/
def modMb (s : State) (mb : Mb) (f : Mailbox → Mailbox) : State :=
  match mb with
  | .mb0 => { s with hp := { s.hp with mb0 := f s.hp.mb0 } }
  | .mb1 => { s with hp := { s.hp with mb1 := f s.hp.mb1 } }

/-- ACK in DONE, or ABORT in RECEIVING: the mailbox returns to IDLE and what it held is discarded (R445, R446). -/
def idleMb (s : State) (mb : Mb) : State :=
  modMb s mb (fun m => { m with st := .idle, resp := [], req := [], fill := 0, holder := none, waiting := false, silent := false })

/-- A command begins in a mailbox: its source holds the mailbox, and its session's inactivity starts again (R446, R448, R451). -/
def startMb (s : State) (mb : Mb) (src : Source) (head : Nat) (need : Nat) (req : List Word) (silent : Bool) : State :=
  let s := modMb s mb (fun m =>
    { m with
      st := if need = req.length then .busy else .receiving
      tag := head / 65536 % 65536, code := head % 65536, need := need, req := req, fill := 0
      holder := some src, silent := silent, since := rawNow s, waiting := false, resp := [] })
  let touch := fun (x : Session) => if x.mb = mb && x.src = src then { x with lastCmd := rawNow s } else x
  { s with hp := { s.hp with sessions := s.hp.sessions.map touch } }

/-- The command in hand of a mailbox ends with a result, its response words, and the index of the last word consumed. A
command that came over TRDP is answered with an Mp, and the module writes ACK itself (R446, R448). -/
def finishMbAt (s : State) (mb : Mb) (result : Nat) (resp : List Word) (last : Nat) : State :=
  let m := mbox s mb
  let s := modMb s mb (fun m =>
    { m with st := .done, result := result, resp := resp, rlen := resp.length, last := last, waiting := false, fill := 0
             since := rawNow s })
  let s := setIrq s (match mb with | .mb0 => irqMb0 | .mb1 => irqMb1)
  match m.holder with
  | some (.trdp ip) =>
    let s :=
      if m.silent then s
      else
        let words := BitVec.ofNat 32 (m.tag * 2 ^ 16 + m.code) :: BitVec.ofNat 32 (result * 2 ^ 16 + last) :: resp
        sendIp s ip (fun port => .trdp port ip "Mp" s.bank.net.ip.mdComId 0 0 (beWords words) (mdFragments (4 * words.length)))
    idleMb s mb
  | _ => s

/-- The command in hand of a mailbox ends after all of its request words (R446). -/
def finishMb (s : State) (mb : Mb) (result : Nat) (resp : List Word) : State :=
  finishMbAt s mb result resp (mbox s mb).req.length

/-- The refusal record of a failure outside every numbered check (R452). -/
def noCheck : List Word := [0, 0xFF, 0xFFFFFFFF]

/-- A result without response words. -/
def resultMb (s : State) (mb : Mb) (result : Nat) : State := finishMb s mb result []

end Sys2Proof.Machine
end

