-- ==== Sys2Proof/Machine/Mbox.lean ====
section
/-! DEFINITION. The execution of the command in hand of a mailbox: whether it is taken, the mode it needs, its length, its session
(R432, R433, R446, R448, R450). -/
namespace Sys2Proof.Machine

/-- The supervisor takes the command in hand of a mailbox, which carries a code: it is complete and not yet accepted (R446, R448). -/
def inHand (s : State) (mb : Mb) (code : Nat) : Bool :=
  let m := mbox s mb
  m.st = .busy && !m.waiting && m.code = code && !s.modu.wdExpired && s.modu.mode != .bringup

/-- A command is accepted in the present mode: in the voted modes and SAFE every command, in LIMITED and HALTED those of R433. -/
def modeTakes (s : State) (limited halted : Bool) : Bool :=
  match s.modu.mode with
  | .limited => limited
  | .halted => halted
  | _ => true

/-- The session of a mailbox is open for the source of its command in hand (R450). -/
def inSession (s : State) (mb : Mb) : Bool :=
  s.hp.sessions.any (fun x => x.mb = mb && (mbox s mb).holder = some x.src)

/-- The command in hand has been accepted and waits for an event (R448). -/
def waitMb (s : State) (mb : Mb) : State := modMb s mb (fun m => { m with waiting := true })

/-- The command in hand ends with OK and its response words (R449). -/
def okMb (s : State) (mb : Mb) (resp : List Word) : State := finishMb s mb 0 resp

/-- One command of the mailbox: nothing where it is not in hand; WRONG_STATE in a mode that does not take it; BAD_ARG where its
request is longer or shorter than its layout, with LAST where the layout was found broken; otherwise its effect (R433, R446). -/
def runCmd (s : State) (mb : Mb) (code : Nat) (limited halted : Bool) (fail : List Word) (need : List Word → Nat)
    (f : State → List Word → State) : Host.Outcome State Fault Refusal :=
  let ws := (mbox s mb).req
  if !inHand s mb code then .next s
  else if !modeTakes s limited halted then .next (finishMb s mb 4 fail)
  else if ws.length != need ws then .next (finishMbAt s mb 3 fail (min ws.length (need ws + 1)))
  else .next (f s ws)

/-- A word of a request, as a number. -/
def wNat (ws : List Word) (k : Nat) : Nat := (ws.getD k 0).toNat
/-- A 64-bit field of a request, high word first (R453). -/
def wLong (ws : List Word) (k : Nat) : DWord := join64 (ws.getD k 0) (ws.getD (k + 1) 0)

end Sys2Proof.Machine
end

