-- ==== Sys2Proof/Machine/Axes.lean ====
section
/-! DEFINITION. The axes, the timing inputs and outputs, the evaluation of triggers and release lattices in a tick, and the
discipline of AX0 (02). -/
namespace Sys2Proof.Machine

/-- MOD_IRQ.AXIS is raised where the quality of an axis differs between two states (R442). -/
def axisIrq (s0 s : State) : State :=
  setIrqIf s ([0, 1, 2, 3].any (fun n => axisQual s0 n != axisQual s n)) irqAxis

/-- The shortest period of a task of the active program released on AX0 (R59). -/
def shortestAx0 (s : State) : Option Nat :=
  match s.prog with
  | none => none
  | some p =>
    (p.tasks.filter (fun d => d.source = 1)).foldl
      (fun m d => match m with
        | none => some d.period.toNat
        | some x => some (min x d.period.toNat)) none

/-- A step of AX0 of this size is permitted in the mode (R59). -/
def stepPermitted (s : State) (delta : Int) : Bool :=
  !inService s || (match shortestAx0 s with
    | some p => decide (delta.natAbs ≤ p)
    | none => true)

/-- A write of an axis as it changes offset and scale (R30, R32, R33): a step adds its delta, a starting value makes the step to it, a
scale is compensated so that the value at the current raw count does not change. -/
def Axis.written (a : Axis) : AxWrite → Axis
  | .step d _ => { a with offset := a.offset + d }
  | .startAt v => { a with offset := a.offset + (v - a.value) }
  | .scale v => { a with offset := a.offset + (axisAt a.offset a.scale a.raw - axisAt a.offset v a.raw), scale := v }

/-- AX0 in the tick in which a write put behind the waiting ones takes effect, before it does: each tick adds 2 to the raw count and
takes one write (R29, R34). -/
def axis0Then (s : State) : Axis :=
  let a := (axis s 0).writes.foldl (fun a w => ({ a with raw := a.raw + 2 } : Axis).written w) (axis s 0)
  { a with raw := a.raw + 2 }

/-- The step that a starting value of AX0 will make (R33, R59). -/
def startDelta (s : State) (v : DWord) : Int := (v - (axis0Then s).value).toInt

/-- A write put behind those that wait on an axis (R34). -/
def pushWrite (s : State) (n : Nat) (w : AxWrite) : State := modAxis s n (fun a => { a with writes := a.writes ++ [w] })

/-! ### Writes that take effect in a tick (R32 to R34) -/

/-- A step of an axis by a delta, with its record; the clocks that follow AX0 take it as R244 and R256 say (R33). -/
def applyStep (s : State) (n : Nat) (delta : DWord) (cause : Nat) : State :=
  let v := (axis s n).value
  let s := modAxis s n (fun a => { a.written (.step delta cause) with stepped := true, stepCount := satInc a.stepCount })
  let s := if n = 0 then holdClocks { s with tim := { s.tim with stepMark := some (rawNow s, v, v + delta) } } v.toInt (v + delta).toInt else s
  let s := { s with tim := { s.tim with
    tickStepped := upd s.tim.tickStepped n (fun _ => true)
    gens := s.tim.gens.map (fun g => { g with stepped := upd g.stepped n (fun _ => true) }) } }
  raiseHub s 0 0x4001 (n + cause * 2 ^ 8 + (axis s n).src * 2 ^ 16) (hi32 delta).toNat (lo32 delta).toNat

/-- A new scale with the compensation of R32: the value at the current raw count does not change. -/
def applyScale (s : State) (n : Nat) (v : DWord) : State :=
  modAxis s n (fun a => a.written (.scale v))

/-- The oldest waiting write of an axis, at most one a tick (R34). -/
def applyWrite (s : State) (n : Nat) : State :=
  match (axis s n).writes with
  | [] => s
  | w :: ws =>
    let s := modAxis s n (fun a => { a with writes := ws })
    match w with
    | .step d c => applyStep s n d c
    | .startAt v => applyStep s n (v - (axis s n).value) 3
    | .scale v => applyScale s n v

/-! ### Triggers (R52, R53, R57, R58, R488) -/

/-- The movement of an axis in a tick: the value before, the value after, the step in it; and the path, in µm times 2^32. -/
structure Move where
  v0 : Int
  v1 : Int
  step : Int
  path : Nat
  deriving DecidableEq, Repr

/-- The raw count of AX2 at an AX0 time in the present cycle (R38). -/
def phaseAt (a : Axis) (tk : DWord) (t : DWord) : Nat :=
  a.crossings * 65536 + min 65535 (65536 * (t.toInt - tk.toInt).toNat / a.period)

/-- AX2 has reached a target by an AX0 time, by the interpolation of the present cycle (R38, R47). -/
def phaseReached (a : Axis) (t : DWord) (target : Int) : Bool :=
  match a.crossedAt with
  | some tk => decide (tk.toInt ≤ t.toInt) && decide (target ≤ (axisAt a.offset a.scale (BitVec.ofNat 64 (phaseAt a tk t))).toInt)
  | none => false

/-- The raw AX0 count at which an output edge of a firing is due: at once when LATE (R53); 100 ns after the pin time of the counted edge
of this tick on AX1 and AX3, and 100 ns after the tick where a step and no edge made the crossing (R47; DESIGN CHOICE, notes/assumptions
158); on AX0 and AX2 the crossing at 1 ns, which lies in this tick or 1 ns before it (R38, R46, R47). -/
def edgeTime (s : State) (n : Nat) (late : Bool) (target : Int) : Nat :=
  let r := rawNow s
  let a := axis s 0
  let before := axisAt a.offset a.scale (a.raw - 1)
  if late then r
  else if n = 1 || n = 3 then
    (match (axis s n).edgeAt with
      | some t => if r ≤ t + 1 then t else r
      | none => r) + 100
  else if n = 0 then (if target ≤ before.toInt then r - 1 else r)
  else if phaseReached (axis s 2) before target then r - 1 else r

/-- The path of a trigger or lattice from its origin, in whole µm (R52). -/
def pathUm (path base : Nat) : Nat := (path - base + 2 ^ 31) / 2 ^ 32

/-- One evaluation of an armed trigger in a tick: the trigger after it. A ONESHOT ANY target has no side on which it is already crossed,
so that it is never LATE (R52, R53; DESIGN CHOICE, notes/assumptions 159). -/
def evalTrigger (s : State) (smp : AxisSample) (mv : Move) (g : Trigger) : Trigger :=
  if !g.armed then g
  else
    let v := g.value.toInt
    let p := g.period.toInt
    let plain := mv.v1 - mv.step
    let fire : Trigger → Bool → Bool → Nat → Trigger := fun g stepped late points =>
      let c := g.count + 1
      { g with
        count := c
        due := g.due ++ [{ axes := smp, axis := g.axis, stepped := stepped, late := late, points := points, count := c,
                           at_ := edgeTime s g.axis late v, actions := g.actions }] }
    let g0 := { g with fresh := false }
    match g.kind with
    | .capture => g0
    | .oneshot =>
      let up := mv.v0 < v && v ≤ mv.v1
      let down := v < mv.v0 && mv.v1 ≤ v
      let late := g.fresh && (match g.dir with
        | .fwd => decide (v ≤ mv.v0)
        | .rev => decide (mv.v0 ≤ v)
        | .any => false)
      let crossed := match g.dir with
        | .fwd => up
        | .rev => down
        | .any => up || down
      if late || crossed then
        let byStep := !late && mv.step != 0 && (if up then decide (plain < v) else decide (v < plain))
        let f := fire g0 byStep late 0
        { f with armed := false, firedOnce := true, owner := if f.owner = .host then .free else f.owner }
      else g0
    | .periodic =>
      match g.dir with
      | .any =>
        let n := pathUm mv.path g.pathBase / g.period.toNat
        if g.pathFired < n then { fire g0 false false (n - g.pathFired) with pathFired := n } else g0
      | .fwd =>
        let v' := if mv.step < 0 then v + mv.step else v
        let late := g.fresh && decide (v ≤ mv.v0)
        if v' ≤ mv.v1 ∧ 0 < p then
          let n := (mv.v1 - v') / p + 1
          { fire g0 (0 < mv.step && decide (plain < v' + (n - 1) * p)) late n.toNat with value := BitVec.ofInt 64 (v' + n * p) }
        else { g0 with value := BitVec.ofInt 64 v' }
      | .rev =>
        let v' := if 0 < mv.step then v + mv.step else v
        let late := g.fresh && decide (mv.v0 ≤ v)
        if mv.v1 ≤ v' ∧ 0 < p then
          let n := (v' - mv.v1) / p + 1
          { fire g0 (mv.step < 0 && decide (v' - (n - 1) * p < plain)) late n.toNat with value := BitVec.ofInt 64 (v' - n * p) }
        else { g0 with value := BitVec.ofInt 64 v' }

/-! ### Release lattices (R54, R57, R58, R128 to R130) -/

/-- Lattice points passed in a tick: how many, how many of them by the step alone, and the last (R54, R57). Points at or behind
the high-water mark do not count. -/
structure Passed where
  count : Nat
  byStep : Nat
  last : Int
  deriving DecidableEq, Repr

/-- The number of points phase + k times period in (lo, hi]. -/
def pointsIn (phase period lo hi : Int) : Nat :=
  if hi ≤ lo then 0 else ((hi - phase) / period - (lo - phase) / period).toNat

/-- The points a lattice passes in a tick. A REV lattice is the mirrored one (R488); an ANY lattice runs on path (R54). -/
def passed (dir : Dir) (phase period : Int) (hwm : Option DWord) (base : Nat) (path0 : Nat) (mv : Move) : Passed :=
  let go := fun (phase v0 v1 step : Int) (h : Option Int) =>
    let lo := match h with
      | some x => max x v0
      | none => v0
    let n := pointsIn phase period lo v1
    let natural := if 0 < step then pointsIn phase period lo (v1 - step) else n
    ({ count := n, byStep := n - natural, last := phase + ((v1 - phase) / period) * period } : Passed)
  if period ≤ 0 then { count := 0, byStep := 0, last := 0 }
  else
    match dir with
    | .fwd => go phase mv.v0 mv.v1 mv.step (hwm.map (·.toInt))
    | .rev =>
      let r := go (-phase) (-mv.v0) (-mv.v1) (-mv.step) (hwm.map (fun x => -x.toInt))
      { r with last := -r.last }
    | .any => go phase (pathUm path0 base) (pathUm mv.path base) 0 (hwm.map (·.toInt))

/-- Lanes take releases: ACTIVE and not restarting, or waiting for the first release after a restart's load (R171). -/
def lanesTakeReleases (s : State) : Bool := s.vote.awaitRelease || (!s.vote.restarting && (activeCount s != 0))

/-- Fewer than 50 µs of AX0 have passed since the previous release of the task (R128). -/
def tooSoon (s : State) (g : Generator) : Bool :=
  match g.lastAx0 with
  | some x => decide ((ax0 s).toInt - x.toInt < 50000)
  | none => false

/-- Points skipped: counted in the skip counter and for the next stamp (R57, R128, R142). -/
def countSkips (s : State) (t n : Nat) : State :=
  let s := modTask s t (fun h => { h with skips := h.skips + BitVec.ofNat 16 n })
  { s with tim := { s.tim with gens := upd s.tim.gens t (fun g => { g with skipped := g.skipped + n }) } }

/-- A release fires for a task in this tick: what the hub latches (R55). -/
def fireRelease (s : State) (t cause : Nat) : State :=
  let s := modTask s t (fun h => { h with inFlight := true, expired := [], overrun := false })
  { s with tim := { s.tim with gens := upd s.tim.gens t (fun g =>
    { g with
      due := g.due ++ [{ cause := cause, axes := sampleAxes s, stepped := g.stepped, reverse := (axis s 1).reverse,
                         holdover := (axis s 0).holdover }]
      stepped := [false, false, false, false]
      lastAx0 := some (ax0 s)
      eventPending := false }) } }

/-- A lattice point of T0 passes in the standby, whose generators release nothing: an interval without an accepted HEARTBEAT is a
miss (R385, R390). -/
def standbyPoint (s : State) (t : Nat) : State :=
  if t != 0 then s
  else
    let p := s.pair
    let n := if p.beatSeen then 0 else p.missed + 1
    { s with pair := { p with beatSeen := false, missed := n, missedFrom := if n = 1 then rawNow s else p.missedFrom } }

/-- A confirmed planned switch that takes place at the next release of T0 (R392). -/
def switchDue (s : State) : Option PairSwitch :=
  match s.pair.switch with
  | some w =>
    let g := s.tim.gens.getD 0 {}
    if w.acked && s.pair.controlling != w.incoming && w.rel = g.count + BitVec.ofNat 32 (g.due.length + 1) then some w else none
  | none => none

/-- Every drive command that the lanes keep is off, until a harvest opens a gate again (R391, R392). -/
def dropDrive (s : State) : State := modLanes s (fun _ x => { x with drive := List.replicate 32 {}, gate := false })

/-- Control changes at the switching release of T0 (R383, R392): EPOCH rises, the record is written, PAIR_SWITCH responds. -/
def flipControl (s : State) (w : PairSwitch) : State :=
  let s := { s with pair := { s.pair with
    controlling := w.incoming, epoch := s.pair.epoch + 1, fresh := if w.incoming then List.range 16 else [], missed := 0
    st := if w.incoming then s.pair.st else .synced, hold := 0, ours := [], theirs := []
    switch := if w.incoming then none else some { w with mb := none, done := [] } } }
  let s := if w.incoming then dropDrive s else s
  let s := setIrq (raiseHub s 0 (if w.reason = 1 then 0xC003 else 0xC002)) irqPair
  match w.mb with
  | some mb => okMb s mb []
  | none => s

/-- One evaluation of a lattice generator in a tick (R54, R57, R128, R130, R142, R171). -/
def evalLattice (s : State) (t : Nat) (axisNo : Nat) (dir : Dir) (phase period : DWord) (path0 : Nat) (mv : Move) : State :=
  let g := s.tim.gens.getD t {}
  let r := passed dir phase.toInt period.toInt g.hwm g.pathBase path0 mv
  let s := match switchDue s with
    | some w => if t = 0 && r.count != 0 then flipControl s w else s
    | none => s
  if r.count = 0 then s
  else if !s.pair.controlling then standbyPoint s t
  else
    let s := { s with tim := { s.tim with gens := upd s.tim.gens t (fun g => { g with hwm := some (BitVec.ofInt 64 r.last) }) } }
    if !inService s then s
    else
      let h := hubTask s t
      let natural := r.count - r.byStep
      if natural = 0 then countSkips s t r.count
      else if !lanesTakeReleases s then countSkips s t r.count
      else if h.skipNext then countSkips (modTask s t (fun h => { h with skipNext := false })) t r.count
      else if h.inFlight || tooSoon s g then
        let s := countSkips s t r.count
        match taskDef s t with
        | some d => if d.safety then raiseHub s 2 0x3005 t else s
        | none => s
      else
        let s := if 1 < r.count then countSkips s t (r.count - 1) else s
        fireRelease s t axisNo

/-- One evaluation of an event generator in a tick: the pending release, once R128 permits it (R129). -/
def evalEvent (s : State) (t : Nat) : State :=
  let g := s.tim.gens.getD t {}
  let h := hubTask s t
  if !g.eventPending || !inService s || !lanesTakeReleases s then s
  else if h.skipNext then
    countSkips { modTask s t (fun h => { h with skipNext := false }) with
      tim := { s.tim with gens := upd s.tim.gens t (fun g => { g with eventPending := false }) } } t 1
  else if h.inFlight || tooSoon s g then s
  else fireRelease s t 3

/-- An event for an event task: held as one pending release, merged into it, or dropped outside VOTED3, VOTED2 and SAFE
(R129, R130). -/
def eventArrive (s : State) (t : Nat) : State :=
  let g := s.tim.gens.getD t {}
  match g.source with
  | .event .. =>
    if !inService s || !s.pair.controlling then s
    else if g.eventPending then modTask s t (fun h => { h with merged := h.merged + 1 })
    else { s with tim := { s.tim with gens := upd s.tim.gens t (fun g => { g with eventPending := true }) } }
  | _ => s

/-- An event for every event task that names it (R129). -/
def eventAll (s : State) (kind number : Nat) : State :=
  (List.range 16).foldl (fun s t =>
    match (s.tim.gens.getD t {}).source with
    | .event k n => if k = kind && n = number then eventArrive s t else s
    | _ => s) s

/-! ### Timed outputs (R46 to R49) -/

/-- The configured idle level (R49). -/
def TimedOutput.idle (o : TimedOutput) : Bool := o.cfg.getLsbD 1

/-- The tick in which an edge at a raw AX0 count falls (R34, R46). -/
def tickOf (at_ : Nat) : Nat := (at_ + 1) / 2

/-- An edge put into the schedule by time; of two for the same tick the one armed later stays (R48). -/
def insertEdge (x : SchedEdge) : List SchedEdge → List SchedEdge
  | [] => [x]
  | y :: l =>
    if tickOf x.at_ = tickOf y.at_ then (if y.armSeq ≤ x.armSeq then x :: l else y :: l)
    else if x.at_ < y.at_ then x :: y :: l
    else y :: insertEdge x l

/-- The edges of an output that are due are placed; one less than 40 ns after the previous edge is moved to 40 ns after it and
counted (R48). The fuel is the number of edges that may be placed. -/
def placeEdges (now : Nat) : Nat → TimedOutput → TimedOutput
  | 0, o => o
  | k + 1, o =>
    match o.sched with
    | [] => o
    | x :: l =>
      if now < x.at_ then o
      else
        let early := match o.lastEdge with
          | some t => decide (x.at_ < t + 40)
          | none => false
        if early then
          let t := o.lastEdge.getD 0 + 40
          placeEdges now k { o with sched := insertEdge { x with at_ := t } l, late := satInc o.late }
        else
          let lvl := match x.edge with
            | .set => true
            | .clear => false
            | .toggle => !o.level
            | .pulse _ => !o.idle
            | .restore => o.idle
          let l := match x.edge with
            | .pulse w => insertEdge { at_ := x.at_ + w, armSeq := x.armSeq, edge := .restore } l
            | _ => l
          placeEdges now k { o with sched := l, level := lvl, lastEdge := some x.at_ }

/-- The level of a timed output at its pin (R49, R377). -/
def outputPin (s : State) (n : Nat) : Bool :=
  let o := s.tim.outputs.getD n {}
  if !inService s || !s.pwr.on.getLsbD 1 || effectsHeld s then o.idle else o.level

/-- An edge is scheduled on an output by a firing (R46, R53). -/
def scheduleEdge (s : State) (n : Nat) (e : OutEdge) (at_ armSeq : Nat) (late : Bool) : State :=
  { s with tim := { s.tim with outputs := upd s.tim.outputs n (fun o =>
    { o with sched := insertEdge { at_ := at_, armSeq := armSeq, edge := e } o.sched
             late := if late then satInc o.late else o.late }) } }

/-! ### The tick (R34) -/

/-- Step 1 of a tick for AX0 and AX2: raw counters advance (R29, R38). -/
def advance (s : State) : State :=
  let s := modAxis s 0 (fun a => { a with raw := a.raw + 2 })
  let t := ax0 s
  modAxis s 2 (fun a =>
    match a.crossedAt with
    | some tk =>
      if a.src = 0 || a.lost then a
      else
        let r := phaseAt a tk t
        { a with raw := if a.raw.toNat < r then BitVec.ofNat 64 r else a.raw }
    | none => a)

/-- Step 3 of a tick: triggers and release generators (R34). `steps` is the step made on each axis in this tick. -/
def evaluate (s : State) (steps : List Int) : State :=
  let smp := sampleAxes s
  let mv := fun (n : Nat) =>
    let a := axis s n
    ({ v0 := a.prev.toInt, v1 := a.value.toInt, step := steps.getD n 0, path := a.path } : Move)
  let s := { s with tim := { s.tim with triggers := s.tim.triggers.map (fun g => evalTrigger s smp (mv g.axis) g) } }
  (List.range 16).foldl (fun s' t =>
    match (s'.tim.gens.getD t {}).source with
    | .none => s'
    | .lattice n dir phase period => evalLattice s' t n dir phase period (axis s n).prevPath (mv n)
    | .event .. => evalEvent s' t) s

/-- The step made on an axis by the write at the front of its list: its delta (R33). -/
def stepOf (a : Axis) : Int :=
  match a.writes with
  | .step d _ :: _ => d.toInt
  | .startAt v :: _ => (v - a.value).toInt
  | _ => 0

/-! ### Timing inputs (R35, R37, R39, R43 to R45) -/

/-- The glitch filter setting of an input in ns (R42, R43). -/
def filterNs (cfg : Byte) : Nat :=
  match bits cfg.toNat 2 3 with
  | 1 => 40 | 2 => 200 | 3 => 1000 | 4 => 5000 | 5 => 20000 | _ => 0

/-- The axes that a timing input feeds (R35). -/
def feeds (s : State) (ti : Nat) : List Nat :=
  let a1 := axis s 1
  let f1 := ((a1.src = 1 || a1.src = 3) && ti < 2) || ((a1.src = 2 || a1.src = 4) && (ti = 2 || ti = 3))
  (if f1 then [1] else [])
    ++ (if (axis s 2).src = 2 && (axis s 2).input = ti then [2] else [])
    ++ (if (axis s 3).src = 1 && (axis s 3).input = ti then [3] else [])

/-- An edge is discarded: counted, OVERSPEED on every axis the input feeds, and their quality INVALID for 1 s (R37, R40, R44). -/
def discardEdge (s : State) (ti : Nat) : State :=
  let fs := feeds s ti
  let r := rawNow s
  let s := { s with tim := { s.tim with inputs := upd s.tim.inputs ti (fun i => { i with discard := satInc i.discard }) } }
  fs.foldl (fun s n => modAxis s n (fun a => { a with overspeed := true, badAt := some r })) s

/-- A counted tacho edge on AX1 with its pin time (R29, R47, R52). -/
def countTravel (s : State) (rev : Bool) (r : Nat) : State :=
  modAxis s 1 (fun a =>
    { a with raw := if rev then a.raw - 1 else a.raw + 1, reverse := rev, path := a.path + a.scale.toNat, edgeAt := some r })

/-- A crossing of the supply phase at an AX0 time (R38). Until two crossings have been seen since the source was selected there is no
P(k), and the configured nominal period stands for it (DESIGN CHOICE, notes/assumptions 160). -/
def crossing (s : State) (t : DWord) : State :=
  let nominal := s.tim.nominal * 1000
  modAxis s 2 (fun a =>
    match a.crossedAt with
    | none =>
      { a with crossings := a.crossings + 1, crossedAt := some t, period := nominal, lost := false
               raw := BitVec.ofNat 64 ((a.crossings + 1) * 65536) }
    | some tk =>
      let dt := (t.toInt - tk.toInt).toNat
      if !a.lost && 2 * dt < a.period then { a with earlyDiscards := a.earlyDiscards + 1 }
      else
        { a with crossings := a.crossings + 1, crossedAt := some t, lost := false
                 period := if a.lost then nominal else max 1000000 (min 100000000 dt)
                 raw := BitVec.ofNat 64 ((a.crossings + 1) * 65536) })

/-- An accepted edge with its timestamp counts on the axes its input feeds (R35, R37, R38, R39): `r` is the raw AX0 count and `t` the AX0
value at which it crossed the pin. `both`: the other channel of the quadrature pair changed in the same tick, reported with channel A. -/
def countEdge (s : State) (ti : Nat) (rising both : Bool) (r : Nat) (t : DWord) : State :=
  let lv := fun n => (s.tim.inputs.getD n {}).level
  let a1 := axis s 1
  let s1 :=
    if !(feeds s ti).contains 1 then s
    else if a1.src ≤ 2 then
      let base := if a1.src = 1 then 0 else 2
      let chA := ti = base
      if both then
        (if chA then
          modAxis s 1 (fun a => { a with qerr := true, qerrCount := a.qerrCount + 1, badAt := some (rawNow s) })
        else s)
      else
        let other := lv (if chA then base + 1 else base)
        let fwd := if chA then rising != other else rising == other
        countTravel s (!fwd) r
    else
      let base := if a1.src = 3 then 0 else 2
      if ti = base && rising then countTravel s (lv (base + 1)) r else s
  let s2 := if (axis s 2).src = 2 && (axis s 2).input = ti && rising then crossing s1 t else s1
  let a3 := axis s 3
  if a3.src = 1 && a3.input = ti && (a3.edges = 2 || (a3.edges = 0) == rising) then
    modAxis s2 3 (fun a => { a with raw := a.raw + 1, edgeAt := some r })
  else s2

/-- An edge of a timing input in its tick: rejected by the glitch filter, discarded, or accepted, captured and counted (R43 to R45). Its
timestamp is the tick's raw count, or 1 ns less. The output edge of a CAPTURE trigger follows its input edge by the 100 ns of R47 (DESIGN
CHOICE, notes/assumptions 158). -/
def inputEdge (s : State) (e : ArrivedEdge) : State :=
  let i := s.tim.inputs.getD e.ti {}
  let r := rawNow s - b2n e.half
  let close := match (if e.rising then i.lastRise else i.lastFall) with
    | some t => decide (r < t + 100)
    | none => false
  if e.width < filterNs i.cfg then s
  else if e.width < 40 || close then discardEdge s e.ti
  else
    let a0 := axis s 0
    let t := axisAt a0.offset a0.scale (if e.half then a0.raw - 1 else a0.raw)
    let s := countEdge s e.ti e.rising e.both r t
    let smp := sampleAxes s
    let smp := { smp with vals := upd smp.vals 0 (fun _ => t) }
    let cap : Capture := { input := e.ti, rising := e.rising, axes := smp, stepped := s.tim.tickStepped.any id }
    { s with tim := { s.tim with
      inputs := upd s.tim.inputs e.ti (fun i =>
        { i with
          level := e.rising
          lastRise := if e.rising then some r else i.lastRise
          lastFall := if e.rising then i.lastFall else some r
          queue := if i.queue.length < 16 then i.queue ++ [cap] else i.queue
          capLost := if i.queue.length < 16 then i.capLost else satInc i.capLost
          lostSince := if i.queue.length < 16 then i.lostSince else satInc i.lostSince })
      triggers := s.tim.triggers.map (fun g =>
        if g.armed && g.kind = .capture && g.input = e.ti then
          { g with count := g.count + 1
                   due := g.due ++ [{ axes := smp, axis := g.axis, stepped := cap.stepped, count := g.count + 1, at_ := r + 100,
                                      actions := g.actions }] }
        else g) } }

/-! ### One tick (R34) -/

/-- A step waits at the front of an axis's writes, and this tick applies it (R34). -/
def Axis.steps (a : Axis) : Bool :=
  match a.writes with
  | .step .. :: _ | .startAt _ :: _ => true
  | _ => false

/-- Step 1 of a tick: raw counters advance, and the edges that arrived during the tick are captured and counted. -/
def tickStep1 (s : State) : State :=
  let s := advance s
  let es := s.tim.arrived
  let s := { s with tim := { s.tim with arrived := [], tickStepped := s.tim.axes.map Axis.steps } }
  es.foldl inputEdge s

/-- One tick of the hub timing clock (R34). -/
def tick (s : State) : State :=
  let s0 := s
  let s := tickStep1 s
  let steps := [0, 1, 2, 3].map (fun n => stepOf (axis s n))
  let s := [0, 1, 2, 3].foldl applyWrite s
  let s := evaluate s steps
  let s := { s with tim := { s.tim with
    outputs := s.tim.outputs.map (fun o => placeEdges (rawNow s) (2 * o.sched.length + 2) o)
    axes := s.tim.axes.map (fun a => { a with prev := a.value, prevPath := a.path }), pins := clockPins s } }
  axisIrq s0 s

/-! ### Discipline of AX0 (R36) -/

/-- A scale limited to 1.0 plus or minus 500 ppm (R32). -/
def clampScale (v : DWord) : DWord :=
  if v.ult 0x00000000FFDF3B64 then 0x00000000FFDF3B64 else if (0x000000010020C49C : DWord).ult v then 0x000000010020C49C else v

/-- One measurement of the error between the source and AX0, in ns to be added to AX0 (R36). -/
def discipline (s : State) (err : Int) : State :=
  let m := err.natAbs
  let s := modAxis s 0 (fun a =>
    let inside := m ≤ s.tim.lockThr
    let il := if inside then min 16 (a.inLock + 1) else 0
    let ol := if inside then 0 else min 4 (a.outLock + 1)
    let locked := if 16 ≤ il then true else if 4 ≤ ol then false else a.locked
    { a with inLock := il, outLock := ol, locked := locked, settled := a.settled || locked, holdover := false
             holdoverOver := false })
  -- in LIMITED every error above 1 µs is stepped (R426)
  if (if s.modu.mode = .limited then 1000 else s.tim.stepThr) < m then
    if stepPermitted s err then pushWrite s 0 (.step (BitVec.ofInt 64 err) 2)
    else pushWrite s 0 (.scale (if err < 0 then 0x00000000FFDF3B64 else 0x000000010020C49C))
  else pushWrite s 0 (.scale (clampScale (Config.servo err (axis s 0).scale)))

/-- The source of the AX0 discipline is lost (R36). -/
def sourceLost (s : State) : State :=
  if (axis s 0).src = 0 || (axis s 0).holdover then s
  else modAxis s 0 (fun a => { a with holdover := true, holdoverSince := rawNow s })

/-- The PTP time is AX0 in HOLDOVER while the module's own clock is best under AX0 source PTP (R301). -/
def masterHoldover (s : State) : State :=
  if s.train.ptp.st = .master && (axis s 0).src = 1 && !(axis s 0).holdover then sourceLost s else s

/-- A source is selected by AXIS_SOURCE or by an active bank (R35, R36, R40, R42). AX0 set FREE counts at the nominal rate: a scale write
takes back what its discipline asked for. -/
def selectSource (s : State) (n src input edges : Nat) (start : Option DWord) : State :=
  let freed := n = 0 && src = 0 && (axis s 0).src != 0
  let s := modAxis s n (fun a =>
    if a.src = src && a.input = input && a.edges = edges then { a with settled := a.settled || (n = 0 && src = 0) }
    else
      { a with src := src, input := input, edges := edges, settled := a.settled || (n = 0 && src = 0)
               locked := false, inLock := 0, outLock := 0, holdover := false, holdoverOver := false
               lost := false, crossedAt := none })
  let s := if freed then pushWrite s 0 (.scale 0x0000000100000000) else s
  let s := if n = 0 then masterHoldover s else s
  match start with
  | some v => pushWrite s n (.startAt v)
  | none => s

/-! ### Commands of the timing unit -/

/-- TIMING_INPUT_EDGE (R34, R45): an edge arrives at an input and is captured and counted in step 1 of its tick. -/
def execTimingInputEdge (ti : Fin 4) (rising : Bool) (width : Nat) (both half : Bool) (s : State) :
    Host.Outcome State Fault Refusal :=
  .next { s with tim := { s.tim with
    arrived := s.tim.arrived ++ [{ ti := ti.val, rising := rising, width := width, both := both, half := half }] } }

/-- The oldest report of a channel among those of the zero-crossing detectors, and the others (R254). -/
def takeReport (ch : Nat) : List (Nat × DWord) → Option (DWord × List (Nat × DWord))
  | [] => none
  | r :: rest => if r.1 = ch then some (r.2, rest) else (takeReport ch rest).map (fun x => (x.1, r :: x.2))

/-- ZERO_CROSSING (R35, R38, R254): the oldest report of a channel's zero-crossing detector reaches the timing unit; it counts while the
channel is the source of AX2. -/
def execZeroCrossing (ch : Fin 16) (s : State) : Host.Outcome State Fault Refusal :=
  match takeReport ch.val s.snd.zcReports with
  | none => .next s
  | some (t, rest) =>
    let s := { s with snd := { s.snd with zcReports := rest } }
    .next (if (axis s 2).src = 1 && (axis s 2).input = ch.val then axisIrq s (crossing s t) else s)

/-- LOST (R38): no crossing within 2.5 periods. -/
def execLost (s : State) : Host.Outcome State Fault Refusal :=
  let a := axis s 2
  match a.crossedAt with
  | some tk =>
    if a.src != 0 && !a.lost && decide (5 * (a.period : Int) ≤ 2 * ((ax0 s).toInt - tk.toInt)) then
      .next (axisIrq s (modAxis s 2 (fun a =>
        { a with lost := true, raw := BitVec.ofNat 64 (a.crossings * 65536 + 65535) })))
    else .next s
  | none => .next s

/-- HOLDOVER_LIMIT (R36): AX0 in HOLDOVER beyond the limit becomes STALE. -/
def execHoldoverLimit (s : State) : Host.Outcome State Fault Refusal :=
  let a := axis s 0
  if a.holdover && !a.holdoverOver && elapsed s a.holdoverSince (s.tim.holdoverLimit * 1000000000) then
    .next (axisIrq s (modAxis s 0 (fun a => { a with holdoverOver := true })))
  else .next s

/-! ### Registers of the axis block (R41) -/

/-- The four quantities of an axis are latched (R41). -/
def latchAxis (a : Axis) : Axis := { a with latVal := a.value, latRaw := a.raw, latOfs := a.offset, latScale := a.scale }

/-- AXn_STAT (R41). -/
def axStat (s : State) (n : Nat) : Word :=
  let a := axis s n
  BitVec.ofNat 32 (a.src % 16 * 2 ^ 28 + (axisQual s n).toNat * 2 ^ 24 + b2n a.locked * 2 ^ 23 + b2n a.holdover * 2 ^ 22
    + b2n a.lost * 2 ^ 21 + b2n a.reverse * 2 ^ 20 + b2n a.qerr * 2 ^ 19 + b2n a.stepped * 2 ^ 18 + b2n a.overspeed * 2 ^ 17
    + a.stepCount.toNat)

/-- SNAP: all four axes are latched in the same tick (R41). -/
def snapAll (s : State) : State :=
  { s with tim := { s.tim with axes := s.tim.axes.map (fun a => { latchAxis a with snapped := true }) } }

/-- A read of AXn_VAL_HI latches axis n, unless AX_SNAP was written since the last one (R41). -/
def readValHi (s : State) (n : Nat) : State :=
  modAxis s n (fun a => { (if a.snapped then a else latchAxis a) with snapped := false })

end Sys2Proof.Machine
end

