-- ==== Sys2Proof/Machine/LaneMem.lean ====
section
/-! DEFINITION. Lane memory: pages and banks (R65, R66), images and bindings (R131, R135, R207), what a program load, a
checkpoint and a carry put into the pages (R137, R166, R220). -/
namespace Sys2Proof.Machine

/-! ### What a program says of a word -/

/-- The TYPE field of an instance (R86). -/
def Inst.ty (i : Inst) : Nat := bits i.mods.toNat 6 2
/-- The words an instance writes: first index and count (R89). -/
def Inst.outWords (i : Inst) : Nat × Nat :=
  match opInfo i.op with
  | some o => (i.out, outWidth i.op i.ty i.param.toNat o.out)
  | none => (i.out, 0)
/-- The state words of an instance: first index and count (R89). -/
def Inst.stateWords (i : Inst) : Nat × Nat :=
  match opInfo i.op with
  | some o => (i.st, o.states)
  | none => (i.st, 0)

/-- A list with positions. -/
def numbered {α : Type} (l : List α) : List (Nat × α) := (List.range l.length).zip l

/-- An input of an instance: first word, words, previous-cycle (R87, R88). -/
def Inst.inputs (i : Inst) : List (Nat × Nat × Bool) :=
  match opInfo i.op with
  | none => []
  | some o =>
    let ty := i.ty
    let m := i.mods.toNat
    [(i.inA, o.a.width ty, bit m 4), (i.inB, o.b.width ty, bit m 3), (i.inC, (argC i.op i.param.toNat o).width ty, bit m 2)].filter
      (fun x => x.2.1 != 0)

/-- Two runs of words overlap. -/
def overlaps (a n b m : Nat) : Bool := decide (a < b + m) && decide (b < a + n)

/-- A sum over a list. -/
def total {α : Type} (l : List α) (f : α → Nat) : Nat := l.foldl (fun n x => n + f x) 0

/-- A signal is I64 in a program's signal map (R310). -/
def Program.sigLong (p : Program) (id : Word) : Bool := p.sigs.any (fun x => x.signal = id && x.ty = 4)

/-- A word is the first word of an I64 output of a task (R134). -/
def Program.longOut (p : Program) (t idx : Nat) : Bool :=
  p.insts.any (fun i => i.task = t && i.out = idx && (i.outWords).2 = 2)

/-- An export of a program by its key (R134). -/
def Program.exportOf (p : Program) (k : Word) : Option Binding := p.binds.find? (fun b => b.kind = 0x4B && b.id = k)

/-- A binding of an output image word (R135). -/
def Binding.isOutput (b : Binding) : Bool := decide (0x41 ≤ b.kind) && decide (b.kind ≤ 0x4B)
/-- A binding of input image words (R131). -/
def Binding.isInput (b : Binding) : Bool := decide (1 ≤ b.kind) && decide (b.kind ≤ 9)

/-- The words of a binding (R131, R133, R134). -/
def Program.width (p : Program) (b : Binding) : Nat :=
  match b.kind with
  | 0x03 | 0x42 => if p.sigLong b.id then 2 else 1
  | 0x05 => 2 + 6 * bits b.arg.toNat 0 8
  | 0x06 => 6
  | 0x07 =>
    match p.exportOf b.id with
    | some e => if p.longOut e.task e.index then 2 else 1
    | none => 1
  | 0x4B => if p.longOut b.task b.index then 2 else 1
  | _ => 1

/-- An instance of the task writes a word. -/
def Program.written (p : Program) (t idx : Nat) : Bool :=
  p.insts.any (fun i => i.task = t && decide (i.out ≤ idx) && decide (idx < i.out + (i.outWords).2))

/-- A safe payload binding that its task reads: no instance writes its word, so that it takes a word of a receiving connection
(R194, R212; DEDUCED, notes/assumptions 60). -/
def Program.isPayloadIn (p : Program) (b : Binding) : Bool := b.kind = 0x43 && !p.written b.task b.index

/-- The output bindings of a task, in binding order (R153). -/
def Program.outputs (p : Program) (t : Nat) : List Binding := p.binds.filter (fun b => b.task = t && b.isOutput && !p.isPayloadIn b)
/-- The payload words of receiving connections that a task reads. -/
def Program.payloads (p : Program) (t : Nat) : List Binding := p.binds.filter (fun b => b.task = t && p.isPayloadIn b)
/-- The input bindings of a task. -/
def Program.inputs (p : Program) (t : Nat) : List Binding := p.binds.filter (fun b => b.task = t && b.isInput)
/-- The word indexes of a task's output image, in binding order (R153). -/
def Program.outputWords (p : Program) (t : Nat) : List Nat :=
  (p.outputs t).flatMap (fun b => (List.range (p.width b)).map (b.index + ·))
/-- Where a binding's first word stands in the output image. -/
def Program.outputPos (p : Program) (t : Nat) (b : Binding) : Nat :=
  ((p.outputs t).takeWhile (· ≠ b)).foldl (fun n x => n + p.width x) 0

/-- The instances of a task, with their positions. -/
def Program.taskInsts (p : Program) (t : Nat) : List (Nat × Inst) :=
  ((List.range p.insts.length).zip p.insts).filter (fun x => x.2.task = t)
/-- The number of instances of a task (R72). -/
def Program.instCount (p : Program) (t : Nat) : Nat := (p.insts.filter (fun i => i.task = t)).length

/-- A variable word of a task has a writer: the release or an instance (R79, R137). -/
def Program.hasWriter (p : Program) (t idx : Nat) : Bool :=
  decide (idx < 12)
    || (p.inputs t).any (fun b => decide (b.index ≤ idx) && decide (idx < b.index + p.width b))
    || (p.payloads t).any (fun b => b.index = idx) || p.written t idx

/-- A state word belongs to an instance of a task (R89). -/
def Program.stateOf (p : Program) (t idx : Nat) : Bool :=
  p.insts.any (fun i => i.task = t && decide ((i.stateWords).1 ≤ idx) && decide (idx < (i.stateWords).1 + (i.stateWords).2))

/-- The initial contents of a declared page (R137, R206); the state words of an instance are zero whatever the layout says of them
(R98). -/
def Program.initPage (p : Program) (d : PageDecl) : LanePage :=
  let w := fun k => if d.space = 1 && p.stateOf d.task (d.page * 256 + k) then 0 else (d.init.getD []).getD k 0
  let bank := (List.range 256).map (fun k =>
    ({ v := w k, q := if d.space = 0 && p.hasWriter d.task (d.page * 256 + k) then 4 else 0 } : QWord))
  { task := d.task, space := d.space, page := d.page, bank0 := bank, bank1 := if d.double then bank else [] }

/-- The layout value and nibble of a variable word as R137 gives it. -/
def Program.layoutWord (p : Program) (t idx : Nat) : QWord :=
  match p.pages.find? (fun d => d.task = t && d.space = 0 && d.page = idx / 256) with
  | some d => { v := (d.init.getD []).getD (idx % 256) 0, q := if p.hasWriter t idx then 4 else 0 }
  | none => { v := 0, q := 8 }

/-! ### The block-local bank (R64) -/

/-- The instances of a block in slot order, with their positions in the instance table. -/
def Program.blockInsts (p : Program) (b : Nat) : List (Nat × Inst) := (numbered p.insts).filter (fun x => x.2.home = b)

/-- SUCC_START of an instance: the successor entries of the slots before its own in its block. -/
def Program.succStart (p : Program) (k : Nat) : Nat :=
  let home := (p.insts.getD k default).home
  total ((p.insts.take k).filter (fun i => i.home = home)) (fun i => i.succs.length)

/-- The 16-byte record of an instance (R85). -/
def Inst.record (i : Inst) : List Word :=
  [BitVec.ofNat 8 i.op ++ i.mods ++ BitVec.ofNat 16 i.out, BitVec.ofNat 16 i.inA ++ BitVec.ofNat 16 i.inB,
   BitVec.ofNat 16 i.inC ++ BitVec.ofNat 16 i.st, i.param]

/-- The control word of an instance: SUCC_START, SUCC_COUNT, DEP_INIT and DEP_LIVE (R64). -/
def Program.controlWord (p : Program) (k : Nat) (i : Inst) (live : Nat) : Word :=
  BitVec.ofNat 32 (p.succStart k * 2 ^ 18 + i.succs.length * 2 ^ 5 + i.depInit * 4 + live % 4)

/-- A successor entry: BLOCK and SLOT of the consumer (R64). -/
def succEntry (c : Inst) : Word := BitVec.ofNat 32 (c.home * 2 ^ 14 + c.slot)

/-- The successor table of a block, in slot order (R64). -/
def Program.succTable (p : Program) (b : Nat) : List Word :=
  (p.blockInsts b).flatMap (fun x => x.2.succs.map (fun j => succEntry (p.insts.getD j default)))

/-- A word of a block-local bank by its byte offset: records, control words, keys and successor table (R64). `live` gives DEP_LIVE by the
position of an instance. What no instance occupies reads zero (DESIGN CHOICE, notes/assumptions 165). -/
def Program.bankWord (p : Program) (b : Nat) (live : Nat → Nat) (off : Nat) : Word :=
  let slot := fun (n : Nat) => (p.blockInsts b)[n]?
  if off < 0x24000 then ((slot (off / 16)).map (fun x => x.2.record.getD (off % 16 / 4) 0)).getD 0
  else if off < 0x2D000 then ((slot ((off - 0x24000) / 4)).map (fun x => p.controlWord x.1 x.2 (live x.1))).getD 0
  else if off < 0x36000 then ((slot ((off - 0x2D000) / 4)).map (fun x => x.2.key)).getD 0
  else (p.succTable b).getD ((off - 0x36000) / 4) 0

/-! ### Reading and writing a lane -/

/-- A page of a lane. -/
def findPage (ps : List LanePage) (t space page : Nat) : Option LanePage :=
  ps.find? (fun x => x.task = t && x.space = space && x.page = page)

/-- The bank of a page for a release count: bit 0 of it where the page is double-banked (R66). -/
def LanePage.bank (x : LanePage) (k : Nat) : List QWord := if x.bank1.isEmpty then x.bank0 else if k % 2 = 0 then x.bank0 else x.bank1

/-- A word of a lane's page in the bank of a release count; INVALID where no page is declared. -/
def readWord (ps : List LanePage) (t space idx k : Nat) : QWord :=
  match findPage ps t space (idx / 256) with
  | some x => (x.bank k).getD (idx % 256) ⟨0, 8⟩
  | none => ⟨0, 8⟩

/-- A word written into the bank of a release count. -/
def writeWord (ps : List LanePage) (t space idx k : Nat) (v : QWord) : List LanePage :=
  ps.map (fun x =>
    if x.task = t ∧ x.space = space ∧ x.page = idx / 256 then
      if x.bank1.isEmpty ∨ k % 2 = 0 then { x with bank0 := upd x.bank0 (idx % 256) (fun _ => v) }
      else { x with bank1 := upd x.bank1 (idx % 256) (fun _ => v) }
    else x)

/-- A word written into both banks. -/
def writeBoth (ps : List LanePage) (t space idx : Nat) (v : QWord) : List LanePage :=
  writeWord (writeWord ps t space idx 0 v) t space idx 1 v

/-- Words written at rising indexes. -/
def writeWords (ps : List LanePage) (t space idx k : Nat) : List QWord → List LanePage
  | [] => ps
  | v :: vs => writeWords (writeWord ps t space idx k v) t space (idx + 1) k vs

/-- The slice of a declared page (R65, R206). -/
def Program.sliceOf (p : Program) (t space page : Nat) : Option Nat :=
  (p.pages.find? (fun d => d.task = t && d.space = space && d.page = page)).map (·.slice)

/-- The retained lines of a program in page-directory order (R149): key and line. -/
def Program.retLines (p : Program) : List (Word × Nat) :=
  (p.pages.filter (fun d => d.retained)).flatMap (fun d => (List.range 16).map (fun j => (d.key, j)))

/-- A retained page of a program by its space and page (R148). -/
def Program.retained (p : Program) (t space page : Nat) : Option PageDecl :=
  p.pages.find? (fun d => d.retained && d.task = t && d.space = space && d.page = page)

/-- An entry added at the end of a list unless it stands there. -/
def addNew {α : Type} [DecidableEq α] (l : List α) (x : α) : List α := if x ∈ l then l else l ++ [x]

/-- A word of a running cycle is written: the page becomes dirty for the checkpoint (R168), and the line, where value or nibble
differs from what the previous cycle left and the page is retained, for the frame (R66, R150). -/
def storeWord (p : Program) (x : LaneSt) (t space idx k : Nat) (v : QWord) : LaneSt :=
  let old := readWord x.pages t space idx (k + 1)
  let page := idx / 256
  let x := { x with pages := writeWord x.pages t space idx k v }
  { x with tasks := upd x.tasks t (fun lt =>
    { lt with
      dirtyPages := addNew lt.dirtyPages (space, page)
      cyc := { lt.cyc with
        pages := addNew lt.cyc.pages (space, page)
        lines := if old = v then lt.cyc.lines else
          match p.retained t space page with
          | some d => addNew lt.cyc.lines (d.key, idx % 256 / 16)
          | none => lt.cyc.lines } }) }

/-- Words of a running cycle are written at rising indexes. -/
def storeWords (p : Program) (x : LaneSt) (t space idx k : Nat) : List QWord → LaneSt
  | [] => x
  | v :: vs => storeWords p (storeWord p x t space idx k v) t space (idx + 1) k vs

/-! ### Loading, checkpoints, carry -/

/-- The pages of a task as a program load leaves them (R66, R137). -/
def Program.loadTask (p : Program) (t : Nat) : List LanePage := (p.pages.filter (fun d => d.task = t)).map p.initPage
/-- The pages of every task as a program load leaves them. -/
def Program.loadAll (p : Program) : List LanePage := p.pages.map p.initPage

/-- The contents of a page of a task at rest: the bank written in the last cycle; state words without nibbles (R166). -/
def restPage (ps : List LanePage) (t space page k : Nat) : List QWord :=
  match findPage ps t space page with
  | some x => if space = 0 then x.bank k else x.bank0.map (fun w => { w with q := 0 })
  | none => []

/-- The CRC-32C of a page's contents: 256 words, then, for a variable page, their nibbles high nibble first. -/
def pageCrc (space : Nat) (ws : List QWord) : Word :=
  let rec nib : List QWord → List Byte
    | x :: y :: l => (x.q ++ y.q) :: nib l
    | _ => []
  crc32c (ws.flatMap (fun w => beWord w.v) ++ (if space = 0 then nib ws else []))

/-- A page of a lane replaced in both banks (R66). -/
def setPage (ps : List LanePage) (t space page : Nat) (ws : List QWord) : List LanePage :=
  ps.map (fun x =>
    if x.task = t ∧ x.space = space ∧ x.page = page then
      { x with bank0 := ws, bank1 := if x.bank1.isEmpty then [] else ws }
    else x)

/-- The words of a fresh instance: state zero, outputs as the layout has them, also where a carried page had other words there (R98,
R137, R220). -/
def freshInst (new : Program) (ps : List LanePage) (n : Inst) : List LanePage :=
  let ps := (List.range (n.stateWords).2).foldl (fun ps j => writeBoth ps n.task 1 (n.st + j) ⟨0, 0⟩) ps
  (List.range (n.outWords).2).foldl (fun ps j => writeBoth ps n.task 0 (n.out + j) (new.layoutWord n.task (n.out + j))) ps

/-- The carry of one new instance into the new pages of its task, in both banks, from the old version's last completed cycle, whose release
count has the parity of k (R220). -/
def carryInst (old new : Program) (olds : List LanePage) (k : Nat) (ps : List LanePage) (n : Inst) : List LanePage :=
  match old.insts.find? (fun o => o.key = n.key && o.task = n.task) with
  | some o =>
    if o.op = n.op ∧ o.ty = n.ty then
      let ps := (List.range (n.stateWords).2).foldl
        (fun ps j => writeBoth ps n.task 1 (n.st + j) (readWord olds n.task 1 (o.st + j) 0)) ps
      (List.range (n.outWords).2).foldl
        (fun ps j => writeBoth ps n.task 0 (n.out + j) (readWord olds n.task 0 (o.out + j) k)) ps
    else freshInst new ps n
  | none => freshInst new ps n

/-- A retained page present in both versions takes the lane's current words of the page with the same retain key, in both banks
(R220). -/
def carryRetained (old new : Program) (t : Nat) (olds : List LanePage) (k : Nat → Nat) (ps : List LanePage) : List LanePage :=
  new.pages.foldl (fun ps d =>
    if d.retained && d.task = t then
      match old.pages.find? (fun o => o.retained && o.key = d.key) with
      | some o =>
        match findPage olds o.task o.space o.page with
        | some x => setPage ps t d.space d.page (x.bank (k o.task))
        | none => ps
      | none => ps
    else ps) ps

/-- The pages of a task in the new program, carried from the old ones; k gives the parity of each task's last completed cycle (R220). -/
def carryTask (old new : Program) (t : Nat) (olds : List LanePage) (k : Nat → Nat) : List LanePage :=
  let ps := carryRetained old new t olds k (new.loadTask t)
  (new.insts.filter (fun i => i.task = t)).foldl (carryInst old new olds (k t)) ps

/-- The words a lane copies for a task in the carry, and the instances carried, fresh and discarded (R220). -/
def carryFigures (old new : Program) (t : Nat) : Nat × Nat × Nat × Nat :=
  let news := new.insts.filter (fun i => i.task = t)
  let match? := fun (n : Inst) => old.insts.any (fun o => o.key = n.key && o.task = n.task && o.op = n.op && o.ty = n.ty)
  let carried := news.filter match?
  let words := carried.foldl (fun v n => v + (n.stateWords).2 + 2 * (n.outWords).2) 0
  let pages := (new.pages.filter (fun d => d.retained && d.task = t && old.pages.any (fun o => o.retained && o.key = d.key)))
  let copied := words + pages.foldl (fun v d => v + (if d.double then 512 else 256)) 0
  let gone := (old.insts.filter (fun o => o.task = t && !news.any (fun n => n.key = o.key))).length
  (copied, carried.length, news.length - carried.length, gone)

end Sys2Proof.Machine
end

