-- ==== Sys2Proof/Machine/LaneExec.lean ====
section
/-! DEFINITION. The pan array of a lane: a release's arrival, ready queues and raking, one instance from dispatch to commit,
its signature contribution, the end of a cycle and the frame it ships (03, R144, R150, R153, R154, R160). -/
namespace Sys2Proof.Machine

/-! ### Signatures (R160) -/

/-- fmix (R160). -/
def fmix (x : DWord) : DWord :=
  let x := (x ^^^ (x >>> 32)) * 0x9E3779B97F4A7C15
  let x := (x ^^^ (x >>> 29)) * 0x9E3779B97F4A7C15
  x ^^^ (x >>> 32)

/-- The loop of mix64 over the output words. -/
def mixWords : Nat → DWord → List Word → DWord
  | _, h, [] => h
  | j, h, w :: ws => mixWords (j + 1) (fmix (h ^^^ w.setWidth 64 ^^^ BitVec.ofNat 64 (j * 2 ^ 40))) ws

/-- mix64: the contribution of an instance: its key, output words and nibble (R160). -/
def mix64 (key : Word) (ws : List Word) (nib : BitVec 4) : DWord :=
  mixWords 0 (fmix ((key.setWidth 64 <<< 32) ||| (nib.setWidth 64 <<< 8) ||| BitVec.ofNat 64 ws.length)) ws

/-! ### Programs and instances of a lane -/

/-- The program a lane runs a task in (R219). -/
def laneProg (s : State) (new : Bool) : Option Program := if new then s.progNew else s.prog
/-- The program a lane runs a task in. -/
def laneTaskProg (s : State) (l : Lane) (t : Nat) : Option Program := laneProg s (laneTask s l t).newVer

/-- An instance of a lane by its reference. -/
def instOf (s : State) (r : InstRef) : Option Inst := (laneProg s r.new).bind (fun p => p.insts[r.i]?)

/-- The ready-queue class of an instance: its task's priority (R73, R125). -/
def refPrio (s : State) (r : InstRef) : Nat :=
  match instOf s r, laneProg s r.new with
  | some i, some p => ((p.taskDef i.task).map (·.prio)).getD 15
  | _, _ => 15

/-- DEP_LIVE of an instance in the cycle of its task (R64, R68). -/
def depLive (s : State) (l : Lane) (r : InstRef) : Nat :=
  match instOf s r with
  | some i => (getKey r.i (laneTask s l i.task).cyc.live).getD 0
  | none => 0

/-- A word of a block-local bank of a lane, for the program of either version (R64). -/
def bankWordOf (s : State) (l : Lane) (b : Nat) (new : Bool) (off : Nat) : Word :=
  match laneProg s new with
  | some p => p.bankWord b (fun k => depLive s l { new := new, i := k }) off
  | none => 0

/-- A lane can execute: its domain is on, it is not held in reset, has not stopped its tasks and is not frozen (R83, R162,
R178). -/
def laneRuns (x : LaneSt) : Bool := x.st != .off && x.st != .excluded && !x.held && !x.stopped && !x.frozen

/-- The lane stops all tasks (R83). -/
def stopLane (s : State) (l : Lane) : State :=
  modLane s l (fun x => { x with
    stopped := true
    wakes := []
    blocks := x.blocks.map (fun b => { b with queue := [], pans := b.pans.map (fun q => { q with busy := none }) })
    tasks := x.tasks.map (fun lt => { lt with cyc := { lt.cyc with active := false } }) })

/-- ARG0 of a lane execution record: task and position of an instance (R455). -/
def instArg (s : State) : Option InstRef → Word
  | some r =>
    match instOf s r with
    | some i => BitVec.ofNat 32 (i.task * 2 ^ 28 + r.i)
    | none => 0xFFFFFFFF
  | none => 0xFFFFFFFF

/-- An instance is put at the end of its home block's queue; enqueued twice in a cycle it is a counter unit error (R63, R70,
R83). -/
def enqueueInst (s : State) (l : Lane) (r : InstRef) : State :=
  match instOf s r with
  | none => s
  | some i =>
    if r.i ∈ (laneTask s l i.task).cyc.enqueued then
      stopLane (raiseLane s l 2 2 0x1007 i.home 0 (instArg s (some r))) l
    else
      let s := modLaneTask s l i.task (fun lt => { lt with cyc := { lt.cyc with enqueued := r.i :: lt.cyc.enqueued } })
      modLane s l (fun x => { x with blocks := upd x.blocks i.home (fun b => { b with queue := b.queue ++ [r] }) })

/-- One decrement of DEP_LIVE; at zero the consumer is enqueued; below zero is a counter unit error (R70, R83). -/
def decrement (s : State) (l : Lane) (r : InstRef) : State :=
  match instOf s r with
  | none => s
  | some i =>
    let lt := laneTask s l i.task
    if !lt.cyc.active || lt.newVer != r.new then s
    else
      match getKey r.i lt.cyc.live with
      | some (n + 1) =>
        let s := modLaneTask s l i.task (fun lt => { lt with cyc := { lt.cyc with live := putKey r.i n lt.cyc.live } })
        if n = 0 then enqueueInst s l r else s
      | _ => stopLane (raiseLane s l 2 2 0x1007 i.home 0 (instArg s (some r))) l

/-! ### Ready queues and raking (R73 to R75) -/

/-- The best class present in a queue and the number of its entries: the status a block publishes (R75). -/
def queueStatus (s : State) (q : List InstRef) : Option (Nat × Nat) :=
  let ps := q.map (refPrio s)
  match ps with
  | [] => none
  | p :: l =>
    let best := l.foldl min p
    some (best, (ps.filter (· = best)).length)

/-- The head entry of a queue: the first of the best class (R73). -/
def queueHead (s : State) (q : List InstRef) : Option InstRef :=
  match queueStatus s q with
  | some (p, _) => q.find? (fun r => refPrio s r = p)
  | none => none

/-- The status that a block published, which a raking pan reads one clock later (R75). -/
def publishedOf (s : State) (l : Lane) (b : Nat) : Option (Nat × Nat) := ((lane s l).blocks.getD b {}).published

/-- One block weighed against the best victim so far: the better class wins, then the longer queue, and the nearer block on a tie
(R75). -/
def betterVictim (st : Nat → Option (Nat × Nat)) (best : Option Nat) (b : Nat) : Option Nat :=
  match st b, best.bind st with
  | none, _ => best
  | some _, none => some b
  | some (p, n), some (pv, nv) => if p < pv || (p = pv && nv < n) then some b else best

/-- The block an idle pan of a block rakes, from the published status: best class, then longest, then nearest in ascending order
(R75). -/
def chooseVictim (s : State) (l : Lane) (own : Nat) : Option Nat :=
  ((List.range 15).map (fun k => (own + k + 1) % 16)).foldl (betterVictim (publishedOf s l)) none

/-- An entry taken from a block's queue. -/
def takeFrom (s : State) (l : Lane) (b : Nat) (r : InstRef) : State :=
  modLane s l (fun x => { x with blocks := upd x.blocks b (fun q => { q with queue := q.queue.erase r }) })

/-- A pan of a lane. -/
def panOf (s : State) (l : Lane) (b p : Nat) : Pan := (((lane s l).blocks.getD b {}).pans).getD p {}
/-- A pan changed. -/
def modPan (s : State) (l : Lane) (b p : Nat) (f : Pan → Pan) : State :=
  modLane s l (fun x => { x with blocks := upd x.blocks b (fun k => { k with pans := upd k.pans p f }) })

/-- The outcome of a crossbar transfer: right, retried with an S1 record, or failed twice, which is an uncorrectable error
(R83). True where the transfer succeeded. -/
def crossbar (s : State) (l : Lane) (b p : Nat) (r : Option InstRef) : Xbar → State × Bool
  | .good => (s, true)
  | .retried => (raiseLane s l 1 2 0x1008 b p (instArg s r), true)
  | .failed =>
    let s := raiseLane s l 1 2 0x1008 b p (instArg s r)
    (stopLane (raiseLane s l 2 2 0x1008 b p (instArg s r)) l, false)

/-- A pan that may take work: healthy and without an instance in hand (R74, R84). -/
def Pan.idle (q : Pan) : Bool := !q.retired && q.busy.isNone

/-- A local pan is granted its block's queue: of several idle pans the lowest number (R74). -/
def localGrant (s : State) (l : Lane) (b p : Nat) : Bool := (((lane s l).blocks.getD b {}).pans.findIdx? Pan.idle) = some p

/-- A block has raking pans in this clock: an idle pan, and an empty queue of its own (R74). -/
def rakes (s : State) (l : Lane) (b : Nat) : Bool :=
  let k := (lane s l).blocks.getD b {}
  k.queue.isEmpty && k.pans.any Pan.idle

/-- The raking block that is granted a victim's queue: none where the victim has an idle pan of its own, which comes first; otherwise the
first requesting block after the one granted last (R74). -/
def rakeGrant (s : State) (l : Lane) (v : Nat) : Option Nat :=
  if ((lane s l).blocks.getD v {}).pans.any Pan.idle then none
  else
    ((List.range 16).map (fun k => ((lane s l).granted.getD v 0 + k + 1) % 16)).find?
      (fun b => rakes s l b && chooseVictim s l b = some v)

/-- A pan without work of its own rakes: it takes the head of its victim's queue where its block is granted it and the queue still has an
entry (R74, R75). -/
def rakeFor (s : State) (l : Lane) (b p : Nat) (xb : Xbar) : State :=
  match chooseVictim s l b with
  | none => s
  | some v =>
    match queueHead s ((lane s l).blocks.getD v {}).queue with
    | none => s
    | some r =>
      if rakeGrant s l v != some b then s
      else
        let (s, ok) := crossbar s l b p (some r) xb
        if ok then
          let s := modLane s l (fun x => { x with granted := upd x.granted v (fun _ => b) })
          modPan (takeFrom s l v r) l b p (fun q => { q with busy := some r })
        else s

/-- One clock of a lane in which a pan asks for work: idle and healthy it takes the head of its own queue, or rakes; a pan that is not
granted asks again in another clock. The queues' status is published for the next clock (R74, R75). -/
def dispatchPan (s : State) (l : Lane) (b p : Nat) (xb : Xbar) : State :=
  if !laneRuns (lane s l) || !(panOf s l b p).idle then s
  else
    let next := fun (x : LaneSt) => { x with blocks := (numbered x.blocks).map (fun k =>
      { k.2 with published := queueStatus s ((lane s l).blocks.getD k.1 {}).queue }) }
    let s' := match queueHead s ((lane s l).blocks.getD b {}).queue with
      | some r =>
        if localGrant s l b p then modPan (takeFrom s l b r) l b p (fun q => { q with busy := some r }) else s
      | none => rakeFor s l b p xb
    modLane s' l next

/-! ### Evaluation and commit (R69 to R72) -/

/-- An operand fetched from the lane (R88, R92). -/
def fetch (ps : List LanePage) (t idx k : Nat) (prev : Bool) (w : Nat) : Opnd :=
  let k := if prev then k + 1 else k
  let x := readWord ps t 0 idx k
  if w = 2 then
    let y := readWord ps t 0 (idx + 1) k
    { w := x.v, l := join64 x.v y.v, q := qWorse x.q y.q }
  else { w := x.v, l := x.v.setWidth 64, q := x.q }

/-- The operands, state words and stamp of an instance at its evaluation (R69, R85, R86). -/
def evalInput (ps : List LanePage) (i : Inst) (k : Nat) : EvalIn :=
  let m := i.mods.toNat
  let o := (opInfo i.op).getD {}
  let ty := i.ty
  let param := i.param.toNat
  let arg := fun (a : ArgTy) (idx : Nat) (prev : Bool) => if a = .none then ({} : Opnd) else fetch ps i.task idx k prev (a.width ty)
  { op := i.op, ty := ty, inv := bit m 5, sat := bit m 1, initEdge := bit m 0, param := param
    a := arg o.a i.inA (bit m 4), b := arg o.b i.inB (bit m 3), c := arg (argC i.op param o) i.inC (bit m 2)
    st := (List.range o.states).map (fun j => (readWord ps i.task 1 (i.st + j) 0).v)
    stamp := (List.range 12).map (fun j => let x := readWord ps i.task 0 j k; (x.v, x.q)) }

/-- The words of the constant-pool block that PARAM names (R108). -/
def constWords (p : Program) (i : Inst) : List Word :=
  match constBlock i.op i.ty i.param.toNat with
  | some (k, n) =>
    (List.range n).map (fun j =>
      match p.consts.find? (fun c => c.1 = i.task && c.2.1 = (k + j) / 256) with
      | some c => c.2.2.getD ((k + j) % 256) 0
      | none => 0)
  | none => []

/-- The result of an instance in a lane's cycle of release count k. -/
def evalInst (p : Program) (ps : List LanePage) (i : Inst) (k : Nat) : EvalOut := eval (evalInput ps i k) (constWords p i)

/-- A block has no healthy pan left. -/
def noPanLeft (b : PanBlock) : Bool := b.pans.all (fun p => p.retired)

/-- The pans of a lane that are retired (R84). -/
def retiredCount (x : LaneSt) : Nat := (x.blocks.map (fun b => (b.pans.filter (fun p => p.retired)).length)).foldl (· + ·) 0

/-- A pan fails its check or its time limit: it is retired, the instance goes back to the head of its class (R83). All three records name
the instance in hand (DEDUCED, notes/assumptions 164). -/
def retirePan (s : State) (l : Lane) (b p : Nat) (r : InstRef) (code : BitVec 16) : State :=
  let s := modPan s l b p (fun q => { q with retired := true, busy := none })
  let s := match instOf s r with
    | some i =>
      let s := modLaneTask s l i.task (fun lt => { lt with cyc := { lt.cyc with panRetired := true } })
      modLane s l (fun x => { x with blocks := upd x.blocks i.home (fun k => { k with queue := r :: k.queue }) })
    | none => s
  let s := raiseLane s l 1 1 code b p (instArg s (some r))
  let s := if noPanLeft ((lane s l).blocks.getD b {}) then raiseLane s l 2 1 0x1005 b p (instArg s (some r)) else s
  if 64 < retiredCount (lane s l) then stopLane (raiseLane s l 2 2 0x1006 b p (instArg s (some r))) l else s

/-- The pages an instance reaches, by task, space and page: operands, state, constants and outputs, the stamp's page included where it reads
an axis (R76, R97, R100). -/
def Inst.pagesReached (i : Inst) : List (Nat × Nat) :=
  let o := (opInfo i.op).getD {}
  let run := fun (space first n : Nat) => if n = 0 then [] else [(space, first / 256)]
  i.inputs.flatMap (fun x => run 0 x.1 x.2.1) ++ run 0 (i.outWords).1 (i.outWords).2 ++ run 1 (i.stateWords).1 (i.stateWords).2
    ++ (match constBlock i.op i.ty i.param.toNat with
      | some (k, n) => run 2 k n
      | none => [])
    ++ (if o.axis then [(0, 0)] else [])

/-- The pages that an instance's commit writes: of its output words and of its state words (R71). -/
def Inst.pagesWritten (i : Inst) : List (Nat × Nat) :=
  let run := fun (space first n : Nat) => (List.range n).map (fun j => (space, (first + j) / 256))
  run 0 (i.outWords).1 (i.outWords).2 ++ run 1 (i.stateWords).1 (i.stateWords).2

/-- An instance executed by a pan of a block uses the crossbar: it is raked from another block, or some page it reads or writes lies in
another block's slice (R62, R75, R76). -/
def crossesBar (p : Program) (i : Inst) (b : Nat) : Bool :=
  i.home != b || i.pagesReached.any (fun x => (p.sliceOf i.task x.1 x.2).any (· != b))

/-- The output words of an instance are committed with its nibble and state words, its block's partial takes its contribution,
and decrements go to its successors: within the block at once, to other blocks as wake messages (R69 to R72, R160). -/
def commitInst (s : State) (l : Lane) (r : InstRef) (p : Program) (i : Inst) : State :=
  let x := lane s l
  let k := (x.tasks.getD i.task {}).cyc.rel.toNat
  let o := evalInst p x.pages i k
  let x := storeWords p x i.task 0 i.out k (o.words.map (fun w => { v := w, q := o.q }))
  let x := storeWords p x i.task 1 i.st 0 (o.st.map (fun w => { v := w, q := 0 }))
  let x := { x with tasks := upd x.tasks i.task (fun lt => { lt with cyc := { lt.cyc with
    committed := lt.cyc.committed + 1
    partials := upd lt.cyc.partials i.home (fun d => d + mix64 i.key o.words o.q) } }) }
  let s := modLane s l (fun _ => x)
  i.succs.foldl (fun s j =>
    match p.insts[j]? with
    | some c =>
      if c.home = i.home then decrement s l { new := r.new, i := j }
      else modLane s l (fun x => { x with wakes := x.wakes ++ [{ new := r.new, i := j }] })
    | none => s) s

/-! ### The end of a cycle: the output frame (R144, R150, R153, R154, R160) -/

/-- The force kind and identifier that an output binding answers to (R143). -/
def outputForce (b : Binding) (idx : Nat) (f : Force) : Bool :=
  match b.kind with
  | 0x41 => f.kind = 2 && f.id = b.id
  | 0x42 => f.kind = 4 && f.id = b.id
  | 0x43 => f.kind = 5 && f.id = BitVec.ofNat 32 (b.id.toNat * 256 + b.arg.toNat)
  | _ => f.kind = 7 && f.id = BitVec.ofNat 32 (b.task * 65536 + idx)

/-- The output image of a task in a lane, with the output forces of the cycle (R144, R153). -/
def outputImage (p : Program) (ps : List LanePage) (t k : Nat) (fs : List Force) : List QWord :=
  (p.outputs t).flatMap (fun b =>
    let n := p.width b
    (List.range n).map (fun j =>
      match fs.find? (outputForce b b.index) with
      | some f => { v := if j = 0 then f.v0 else f.v1, q := 3 }
      | none => readWord ps t 0 (b.index + j) k))

/-- The bytes of nibbles, eight to a word, the first in the highest bits; missing ones are zero (R153). -/
def nibbleWords : Nat → List QWord → List Word
  | 0, _ => []
  | n + 1, ws =>
    if ws.isEmpty then []
    else
      BitVec.ofNat 32 (((List.range 8).map (fun j => ((ws[j]?).map (fun w => w.q.toNat)).getD 0)).foldl (fun a q => a * 16 + q) 0)
        :: nibbleWords n (ws.drop 8)

/-- The bytes of a retained line entry (R153). -/
def retLineBytes (r : RetLine) : List Byte :=
  beWord r.key ++ [BitVec.ofNat 8 r.line, 0, 0, 0] ++ r.words.flatMap (fun w => beWord w.v)
    ++ (nibbleWords 2 r.words).flatMap beWord

/-- The bytes of a frame in its compare set or out of it, by R153: `all` gives the whole frame without its CRC-32C, otherwise
only the compare set. -/
def frameBytes (f : LaneFrame) (all : Bool) : List Byte :=
  let only := fun (bs : List Byte) => if all then bs else []
  [BitVec.ofNat 8 f.kind] ++ only [BitVec.ofNat 8 (laneNum f.lane)] ++ [BitVec.ofNat 8 f.task, BitVec.ofNat 8 f.wpos]
    ++ beWord f.rel ++ only (beWord f.seq) ++ be16 f.words.length ++ be16 f.lines.length ++ beDWord f.runSig
    ++ beWord f.runCount ++ only (be16 f.flags.toNat ++ [0, 0]) ++ f.words.flatMap (fun w => beWord w.v)
    ++ (nibbleWords (f.words.length / 8 + 1) f.words).flatMap beWord ++ f.lines.flatMap retLineBytes

/-- How many retained lines fit behind n output words (R154). -/
def linesFit (n : Nat) : Nat := (16384 - 36 - 4 * n - 4 * ((n + 7) / 8)) / 80

/-- The contents of a dirty retained line as they stand (R150). -/
def lineOf (p : Program) (ps : List LanePage) (t k : Nat) (key : Word) (line : Nat) : RetLine :=
  match p.pages.find? (fun d => d.retained && d.key = key) with
  | some d => { key := key, line := line, words := (List.range 16).map (fun j => readWord ps t d.space (d.page * 256 + line * 16 + j) k) }
  | none => { key := key, line := line, words := [] }

/-- The retained lines that wait for a frame: those left over, then those dirtied in the cycle, in page-directory order, so that every lane
makes the same choice (R150, R154). -/
def linesDue (p : Program) (lt : LaneTask) : List (Word × Nat) :=
  lt.dirtyLines ++ p.retLines.filter (fun d => lt.cyc.lines.contains d && !lt.dirtyLines.contains d)

/-- The frame a lane ships at the end of a cycle, and the lane after it: its task watchdog stops (R72, R138, R153, R154, R160). -/
def makeFrame (p : Program) (l : Lane) (x : LaneSt) (t : Nat) : LaneFrame × LaneSt :=
  let lt := x.tasks.getD t {}
  let c := lt.cyc
  let k := c.rel.toNat
  let words := outputImage p x.pages t k c.forces
  let fit := linesFit words.length
  let now := (linesDue p lt).take fit
  let later := (linesDue p lt).drop fit
  let sig := c.partials.foldl (· + ·) lt.runSig
  let cnt := lt.runCount + BitVec.ofNat 32 c.committed
  let seq := x.seq + 1
  let f : LaneFrame :=
    { kind := 1, lane := l, task := t, wpos := lt.wpos, rel := c.rel, seq := seq, runSig := sig, runCount := cnt
      flags := BitVec.ofNat 16 (b2n (lt.expired = some c.rel) + 2 * b2n c.panRetired + 4 * b2n (!later.isEmpty))
      words := words, lines := now.map (fun d => lineOf p x.pages t k d.1 d.2) }
  (f, { x with
    seq := seq
    tasks := upd x.tasks t (fun lt => { lt with
      cyc := { lt.cyc with active := false, lines := [] }, watch := if lt.watch = some c.rel then none else lt.watch
      runSig := sig, runCount := cnt, dirtyLines := later, frame := some f }) })

/-- The frame goes to the hub and to the three cross-check units, the lane's own included (R22, R153, R156). -/
def sendFrame (s : State) (l : Lane) (f : LaneFrame) : State :=
  { s with vote := { s.vote with
    inFlight := s.vote.inFlight ++ (Party.unit l, f) :: (Party.hub, f) :: (allLanes.filter (· ≠ l)).map (fun o => (Party.unit o, f)) } }

/-- A lane's state of a connection. -/
def connState (s : State) (l : Lane) (c : SafeConn) : ConnState :=
  ((s.conns.get l).find? (fun x => x.conn = c.conn)).getD { conn := c.conn, task := c.task }
/-- A lane's state of a connection replaced. -/
def setConn (s : State) (l : Lane) (x : ConnState) : State :=
  { s with conns := s.conns.mod l (fun xs => x :: xs.filter (fun y => y.conn ≠ x.conn)) }

/-- SEQ of each sending connection that a task owns advances, in the state of a lane that ships the task's frame, whether or not the lane
votes or its gate opens: the state stays the same in all of them (R192; DEDUCED, notes/assumptions 172). -/
def advanceSeq (s : State) (l : Lane) (t : Nat) : State :=
  (s.safe.conns.filter (fun c => c.send && c.task = t)).foldl (fun s c =>
    let x := connState s l c
    setConn s l { x with seq := x.seq + 1 }) s

/-- Step 1 of the harvest in a lane whose cycle is complete; a frozen DEBUG lane stops after the frame it was told (R178). -/
def shipFrame (s : State) (l : Lane) (t : Nat) : State :=
  match laneTaskProg s l t with
  | none => s
  | some p =>
    let (f, x) := makeFrame p l (lane s l) t
    let x := if x.st = .debug && x.freeze && x.freezeTask = t && x.freezeRel = f.rel then { x with frozen := true } else x
    sendFrame (advanceSeq (modLane s l (fun _ => x)) l t) l f

/-- The cycle of a task is complete in a lane: every instance has committed (R72). -/
def cycleDone (s : State) (l : Lane) (t : Nat) : Bool :=
  let c := (laneTask s l t).cyc
  match laneTaskProg s l t with
  | some p => c.active && decide (p.instCount t ≤ c.committed)
  | none => false

/-! ### The start of a cycle (R68, R144, R220, R487) -/

/-- A cycle still running when the next release of its task arrives is abandoned: no frame, no further instances; commits made
stand. The vote of its release is over by then, so that a lane in DEBUG has been counted ABSENT there (R128, R487). -/
def abandonCycle (s : State) (l : Lane) (t : Nat) : State :=
  let lt := laneTask s l t
  if !lt.cyc.active then s
  else
    let mine : InstRef → Bool := fun r => (instOf s r).any (fun i => i.task = t)
    modLane s l (fun x => { x with
      wakes := x.wakes.filter (fun r => !mine r)
      blocks := x.blocks.map (fun b =>
        { b with queue := b.queue.filter (fun r => !mine r)
                 pans := b.pans.map (fun q => { q with busy := q.busy.filter (fun r => !mine r) }) })
      tasks := upd x.tasks t (fun lt => { lt with cyc := { lt.cyc with active := false } }) })

/-- The latest report of a channel's status in the sample sets up to the selected one; its nibble is VALID while it is at most
10 ms old, that is 1,000 strobes: a step of AX0 does not age it (R61, R240, R242). -/
def statusReport (x : LaneSt) (smp : SampleSet) (ch : Nat) : QWord :=
  match (x.samples.filter (fun q => q.seq ≤ smp.seq && q.rot = ch)) with
  | q :: _ => { v := q.status, q := if smp.seq - q.seq ≤ 1000 then 0 else 8 }
  | [] => { v := 0, q := 8 }

/-- The field part of the input image from a sample set (R19, R131, R233, R242). -/
def fieldImage (x : LaneSt) (p : Program) (t : Nat) (smp : SampleSet) : List (Nat × QWord) :=
  (p.inputs t).flatMap (fun b =>
    let ch := b.id.toNat
    if b.kind = 1 then [(b.index, smp.vals.getD ch ⟨0, 8⟩)]
    else if b.kind = 2 then [(b.index, statusReport x smp ch)]
    else [])

/-- The input force of a binding (R143). -/
def inputForce (b : Binding) (f : Force) : Bool :=
  match b.kind with
  | 0x01 => f.kind = 1 && f.id = b.id
  | 0x03 => f.kind = 3 && f.id = b.id
  | 0x04 => f.kind = 6 && f.id = b.id
  | _ => false

/-- The input image words that the forces of the cycle replace (R144). -/
def forcedImage (p : Program) (t : Nat) (fs : List Force) : List (Nat × QWord) :=
  (p.inputs t).flatMap (fun b =>
    match fs.find? (inputForce b) with
    | some f => (List.range (p.width b)).map (fun j => (b.index + j, { v := if j = 0 then f.v0 else f.v1, q := 3 }))
    | none => [])

/-- A list of image words written in a cycle. -/
def storeImage (p : Program) (x : LaneSt) (t k : Nat) (ws : List (Nat × QWord)) : LaneSt :=
  ws.foldl (fun x w => storeWord p x t 0 w.1 k w.2) x

/-- The sample set that R19 selects has arrived, or none is needed. -/
def sampleReady (x : LaneSt) (m : StampMsg) : Bool :=
  match m.sample with
  | some n => x.samples.any (fun q => q.seq = n)
  | none => true

/-- The bank that the last completed cycle of a task wrote in a lane, as the parity of its release count; a cycle that still runs has not
completed, and the one before it has (R66, R220). -/
def lastDone (s : State) (l : Lane) (t : Nat) : Nat :=
  let c := (laneTask s l t).cyc
  if c.active then c.rel.toNat + 1 else c.rel.toNat

/-- The task switches to the new program in a lane: its pages are carried, and every page is dirty for the next checkpoint
(R219, R220, R223). -/
def switchLane (s : State) (l : Lane) (t : Nat) : State :=
  match s.progNew with
  | none => s
  | some new =>
    let carried := fun (ps : List LanePage) =>
      match s.prog with
      | some old => carryTask old new t ps (lastDone s l)
      | none => new.loadTask t
    let dirty := (new.pages.filter (fun d => d.task = t && d.space != 2)).map (fun d => (d.space, d.page))
    modLane (abandonCycle s l t) l (fun x => { x with
      pages := x.pages.filter (fun q => q.task ≠ t) ++ carried x.pages
      tasks := upd x.tasks t (fun lt => { lt with
        newVer := true, dirtyLines := [], dirtyPages := dirty, cyc := { lt.cyc with lines := [] } }) })

/-- A release stamp with its image starts the cycle of its task in a lane (R68, R220, R487). `conn` gives the words that the
lane's check of safe telegrams puts into the image (R193, R194). -/
def startCycle (s : State) (l : Lane) (m : StampMsg) (conn : List (Nat × QWord)) : State :=
  let t := m.task
  let s := if m.switches then switchLane s l t else abandonCycle s l t
  match laneTaskProg s l t with
  | none => s
  | some p =>
    let x := lane s l
    let k := m.rel.toNat
    let smp := (m.sample.bind (fun n => x.samples.find? (fun q => q.seq = n)))
    let field := match smp with
      | some q => fieldImage x p t q
      | none => []
    let x := { x with tasks := upd x.tasks t (fun lt => { lt with cyc := { lines := lt.cyc.lines }, loaded := false }) }
    let x := storeWords p x t 0 0 k m.stamp
    let x := storeImage p x t k (m.image ++ field ++ conn ++ forcedImage p t m.forces)
    let insts := p.taskInsts t
    let new := (x.tasks.getD t {}).newVer
    let x := { x with tasks := upd x.tasks t (fun lt => { lt with cyc :=
      { active := true, rel := m.rel, forces := m.forces, pages := lt.cyc.pages, lines := lt.cyc.lines,
        live := (insts.filter (fun q => q.2.depInit != 0)).map (fun q => (q.1, q.2.depInit)) } }) }
    let s := modLane s l (fun _ => x)
    let ready := insts.filter (fun q => q.2.depInit = 0)
    -- slot order within each block is the order of the instance table
    let s := ready.foldl (fun s q => enqueueInst s l { new := new, i := q.1 }) s
    if cycleDone s l t then shipFrame s l t else s

end Sys2Proof.Machine
end

