-- ==== Sys2Proof/Machine/Groups.lean ====
section
/-! DEFINITION. Signals and groups: voted output words, the formation of published groups (R312, R313), the store of subscribed
groups (R314), freshness (R315), and the module signals (R303). -/
namespace Sys2Proof.Machine

/-! ### Voted words -/

/-- The voted words of an output binding of a task: those of its latest harvest with a step 3, otherwise the layout values with
nibble INITIAL (R134, R136). -/
def votedWords (s : State) (p : Program) (b : Binding) : List QWord :=
  let n := p.width b
  match (hubTask s b.task).voted with
  | some ws => (ws.drop (p.outputPos b.task b)).take n
  | none => (List.range n).map (fun k => { p.layoutWord b.task (b.index + k) with q := 4 })

/-- The binding that publishes a signal, with its program: of the new program once its owner there has switched, otherwise of the
old program, otherwise of the new one (R135, R221). -/
def publishBinding (s : State) (id : Word) : Option (Program × Binding) :=
  let find := fun (p : Program) (ok : Binding → Bool) => (p.binds.find? (fun b => b.kind = 0x42 && b.id = id && ok b)).map (fun b => (p, b))
  match s.progNew.bind (fun p => find p (fun b => (hubTask s b.task).switched)), s.prog.bind (fun p => find p (fun _ => true)) with
  | some x, _ => some x
  | none, some x => some x
  | none, none => s.progNew.bind (fun p => find p (fun _ => true))

/-- The latest voted value of a published signal, one or two words, whichever task wrote it; the layout value with nibble INITIAL before
the first (R136, R221, R313). -/
def publishedSignal (s : State) (x : SigItem) : List QWord :=
  match getKey x.signal s.train.pubs, publishBinding s x.signal with
  | some ws, _ => ws
  | none, some (p, b) => (List.range (p.width b)).map (fun k => { p.layoutWord b.task (b.index + k) with q := 4 })
  | none, none => List.replicate (if x.ty = 4 then 2 else 1) { v := 0, q := 4 }

/-! ### Forming a group (R312, R313) -/

/-- A group of the running program. -/
def groupDef (s : State) (g : Nat) (publish : Bool) : Option SigGroup :=
  s.prog.bind (fun p => p.groups.find? (fun x => x.group = g && x.publish = publish))
/-- The signals of a group. -/
def groupSigs (s : State) (g : Nat) : List SigItem :=
  match s.prog with
  | some p => p.sigs.filter (fun x => x.group = g)
  | none => []

/-- Nibbles, eight to a word, the first in [31:28] (R153, R312). -/
def nibblesOf (ws : List QWord) : List Word := nibbleWords (ws.length / 8 + 1) ws

/-- The next SEQ of a published group, 1 after bring-up (R313). -/
def nextGroupSeq (s : State) (g : Nat) : Word × State :=
  let n := (getKey g s.train.groupSeq).getD 0 + 1
  (n, { s with train := { s.train with groupSeq := putKey g n s.train.groupSeq } })

/-- The data words of a KALVI group; a word that no signal covers is zero (R312). -/
def kalviWords (s : State) (g : SigGroup) : List QWord :=
  (groupSigs s g.group).foldl (fun ws x =>
    let v := publishedSignal s x
    (ws.take x.offset ++ v ++ ws.drop (x.offset + v.length)).take g.size) (List.replicate g.size { v := 0, q := 0 })

/-- The bytes of a PLAIN value: an unusable signal is sent as its SUBST (R312). -/
def plainBytes (g : SigGroup) (xs : List (SigItem × List QWord)) : List Byte :=
  xs.foldl (fun bs (x, ws) =>
    let long : DWord := join64 (ws.getD 0 ⟨0, 0⟩).v (ws.getD 1 ⟨0, 0⟩).v
    let v : DWord :=
      if !(ws.all (fun w => qUsable (qNorm w.q))) then x.subst else if x.ty = 4 then long else ((ws.getD 0 ⟨0, 0⟩).v).setWidth 64
    match x.ty with
    | 0 => upd bs x.offset (fun b => if v != 0 then b ||| (1#8 <<< x.bit) else b)
    | 4 => (bs.take x.offset ++ beDWord v ++ bs.drop (x.offset + 8)).take g.size
    | _ => (bs.take x.offset ++ beWord (lo32 v) ++ bs.drop (x.offset + 4)).take g.size) (zeros g.size)

/-- A published group is formed: its body, and the state with SEQ advanced (R312, R313). -/
def formGroup (s : State) (g : SigGroup) : List Byte × State :=
  if g.format = 0 then
    let (seq, s) := nextGroupSeq s g.group
    let ws := kalviWords s g
    (be16 s.bank.net.deviceId ++ be16 g.group ++ beWord seq ++ be16 g.size ++ zeros 6 ++ beWords (ws.map (·.v))
      ++ beWords (nibblesOf ws), s)
  else (plainBytes g ((groupSigs s g.group).map (fun x => (x, publishedSignal s x))), s)

/-! ### The store of subscribed groups (R314, R315) -/

/-- A subscribed group in the store. -/
def groupSt (s : State) (g : Nat) : GroupSt := (s.train.groups.find? (fun x => x.group = g)).getD { group := g }
/-- A subscribed group changed. -/
def modGroup (s : State) (g : Nat) (f : GroupSt → GroupSt) : State :=
  let l := s.train.groups
  let m := if l.any (fun x => x.group = g) then l.map (fun x => if x.group = g then f x else x) else l ++ [f { group := g }]
  { s with train := { s.train with groups := m } }

/-- A sequence number newer in serial order (R314). -/
def serialNewer (a b : Word) : Bool := let d := (a - b).toNat; decide (1 ≤ d) && decide (d < 2 ^ 31)

/-- The words and nibbles of a KALVI body. -/
def kalviContent (n : Nat) (body : List Byte) : List QWord :=
  (List.range n).map (fun k =>
    { v := getWord body (16 + 4 * k)
      q := BitVec.ofNat 4 (bits (getNat body (16 + 4 * n + 4 * (k / 8)) 4) (28 - 4 * (k % 8)) 4) })

/-- The shape of an arriving group is right (R314): size; KALVI: NODE, GROUP and WORDS. -/
def shapeOk (g : SigGroup) (body : List Byte) : Bool :=
  if g.format = 0 then
    decide (body.length = 16 + 4 * g.size + 4 * ((g.size + 7) / 8)) && decide (getNat body 0 2 = g.peer)
      && decide (getNat body 2 2 = g.group) && decide (getNat body 8 2 = g.size)
  else decide (body.length = g.size)

/-- The received value of a signal, with its nibble (R312, R315). -/
def receivedSignal (g : SigGroup) (st : GroupSt) (x : SigItem) : List QWord :=
  let n := if x.ty = 4 then 2 else 1
  if g.format = 0 then
    let ws := (List.range n).map (fun k => st.words.getD (x.offset + k) ⟨0, 8⟩)
    let q := qWorst (ws.map (fun w => qNorm w.q))
    ws.map (fun w => { w with q := q })
  else
    let one : Word → QWord := fun v => { v := v, q := 0 }
    match x.ty with
    | 0 => [one (if bit (getByte st.bytes x.offset) x.bit then 1 else 0)]
    | 4 => [one (getWord st.bytes x.offset), one (getWord st.bytes (x.offset + 4))]
    | _ => [one (getWord st.bytes x.offset)]

/-- The substitute of a signal with a nibble. -/
def substWords (x : SigItem) (v : DWord) (q : BitVec 4) : List QWord :=
  if x.ty = 4 then [⟨hi32 v, q⟩, ⟨lo32 v, q⟩] else [⟨lo32 v, q⟩]

/-- The nibble of the row of R315 that holds for a group now. -/
def groupNibble (s : State) (g : SigGroup) (st : GroupSt) : BitVec 4 :=
  if !st.ever then
    match s.train.firstVoted with
    | some t => if ((ax0 s) - t).toInt ≤ (g.fresh + g.grace : Int) * 1000 then 4 else 2
    | none => 4
  else
    let a := ((ax0 s) - st.tRx).toInt
    if a ≤ (g.fresh : Int) * 1000 then 0 else if a ≤ (g.fresh + g.grace : Int) * 1000 then 1 else 2

/-- A signal as the store presents it under the row of R315 with that nibble. -/
def presentSignal (g : SigGroup) (st : GroupSt) (x : SigItem) (row : BitVec 4) : List QWord :=
  if !st.ever then substWords x (if x.keepLast then 0 else x.subst) row
  else if row = 0 then receivedSignal g st x
  else if row = 1 then (receivedSignal g st x).map (fun w => { w with q := qWorse w.q 1 })
  else if x.keepLast then (receivedSignal g st x).map (fun w => { w with q := 2 })
  else substWords x x.subst 2

/-- A signal as the store holds it for images and snapshots: as last presented; before the first evaluation as R315 has it for a
group never accepted. -/
def storeSignal (s : State) (x : SigItem) : List QWord :=
  (getKey x.signal s.train.present).getD (substWords x (if x.keepLast then 0 else x.subst) 4)

/-- The store presents the signals of a group under a row of R315: an event for each one that changes (R129). -/
def presentGroup (s : State) (g : SigGroup) (row : BitVec 4) : State :=
  let st := groupSt s g.group
  (groupSigs s g.group).foldl (fun s x =>
    let new := presentSignal g st x row
    if storeSignal s x = new then s
    else eventAll { s with train := { s.train with present := putKey x.signal new s.train.present } } 2 x.signal.toNat) s

/-- A transmission of a subscribed group arrives, with the sequence counter of its process data where it came by TRDP (R314);
its accepted arrival is an event (R129). While the group is fresh or stale the store presents the new content at once, under the row in
force; a group that was neither is presented from the next evaluation on (R132, R316; DEDUCED, notes/assumptions 168). -/
def groupArrive (s : State) (g : SigGroup) (pdSeq : Word) (body : List Byte) : State :=
  let st := groupSt s g.group
  if !shapeOk g body then modGroup s g.group (fun x => { x with badShape := x.badShape + 1 })
  else
    let seq := if g.format = 0 then getWord body 4 else pdSeq
    let now := ax0 s
    if st.ever && decide ((now - st.tRx).toInt ≤ (g.fresh : Int) * 1000) && !serialNewer seq st.seq then
      modGroup s g.group (fun x => { x with old := x.old + 1 })
    else
      let s := modGroup s g.group (fun x => { x with
        ever := true, seq := seq, tRx := now, accepted := x.accepted + 1
        words := if g.format = 0 then kalviContent g.size body else []
        bytes := if g.format = 0 then [] else body })
      let s := if st.ever && (st.nibble = 0 || st.nibble = 1) then presentGroup s g st.nibble else s
      eventAll { s with train := { s.train with pullWaiting := s.train.pullWaiting.filter (· ≠ g.group) } } 3 g.group

/-- The evaluation of one group (R315): transitions and their records (R317), and an event for each signal that changes
(R129). -/
def evalGroup (s : State) (g : SigGroup) : State :=
  let st := groupSt s g.group
  let row := groupNibble s g st
  let s :=
    if row = st.nibble then s
    else
      let s := modGroup s g.group (fun x => { x with nibble := row, transitions := x.transitions + 1 })
      if row = 2 then raiseHub s 1 0x8008 g.group else if row = 0 && st.nibble = 2 then raiseHub s 0 0x8009 g.group else s
  presentGroup s g row

/-! ### Module signals (R303) -/

/-- The signed value in an INT32, saturating. -/
def satInt32 (z : Int) : Word := BitVec.ofInt 32 (max (-2 ^ 31) (min (2 ^ 31 - 1) z))

/-- Position and direction of the own consist: those of the backbone node whose MAC address is the frame's source (R303); zero before the
first frame, and a free value where the frame lists no such node. -/
def ownConsist (t : Option TopologyMsg) : Nat × Bool :=
  match t with
  | none => (0, false)
  | some m =>
    match m.nodes.find? (fun x => x.mac = m.src) with
    | some x => (x.position, x.inverse)
    | none => Config.ownConsist m.etbTopoCnt.toNat

/-- The content and nibble of a module signal by its index. -/
def moduleSignal (s : State) (i : Nat) : QWord :=
  let t := s.train
  let q : BitVec 4 := if t.topo.isNone then 4 else if t.topoStale then 1 else 0
  let m := t.topo.getD { inaugurated := false, etbTopoCnt := 0, consists := 0, src := 0, nodes := [] }
  let own := ownConsist t.topo
  match i with
  | 8184 => ⟨boolWord m.inaugurated, q⟩
  | 8185 => ⟨m.etbTopoCnt, q⟩
  | 8186 => ⟨BitVec.ofNat 32 m.consists, q⟩
  | 8187 => ⟨BitVec.ofNat 32 own.1, q⟩
  | 8188 => ⟨boolWord own.2, q⟩
  | 8189 => ⟨BitVec.ofNat 32 (b2n (portUp s portEp0) + 2 * b2n (portUp s portEp1)), 0⟩
  | 8190 => ⟨BitVec.ofNat 32 ((axStat s 0).toNat / 65536), 0⟩
  | _ => ⟨satInt32 t.ptp.offset, 0⟩

/-- The identifier of a signal (R7). -/
def signalId (node index : Nat) : Nat := node * 8192 + index

/-- A module signal of the module's own DEVICE_ID: its index (R303). -/
def moduleSignalOf (s : State) (id : Nat) : Option Nat :=
  if id / 8192 = s.bank.net.deviceId && decide (8184 ≤ id % 8192) then some (id % 8192) else none

/-- Events for the module signals that differ between two states (R303). -/
def moduleSignalEvents (s0 s : State) : State :=
  (List.range 8).foldl (fun s k =>
    if moduleSignal s0 (8184 + k) = moduleSignal s (8184 + k) then s
    else eventAll s 2 (signalId s.bank.net.deviceId (8184 + k))) s

/-- The module signals that the 10 µs evaluation watches: those that no command of their own changes (R303). -/
def watchModuleSignals (s : State) : State :=
  let t := s.train
  let ax := (moduleSignal s 8190).v
  let s := if ax = t.axStat then s else eventAll s 2 (signalId s.bank.net.deviceId 8190)
  { s with train := { s.train with axStat := ax } }

/-- The words of a bound signal: of the store or of the module (R131). -/
def signalWords (s : State) (p : Program) (id : Word) : List QWord :=
  match moduleSignalOf s id.toNat with
  | some i => [moduleSignal s i]
  | none =>
    match p.sigs.find? (fun x => x.signal = id) with
    | some x => storeSignal s x
    | none => [⟨0, 8⟩]

/-- FRESHNESS_EVALUATION (R315): every subscribed KALVI or PLAIN group is evaluated. -/
def execFreshnessEvaluation (s : State) : Host.Outcome State Fault Refusal :=
  .next (match s.prog with
    | some p =>
      let s := (p.groups.filter (fun g => !g.publish && g.format != 2)).foldl evalGroup s
      watchModuleSignals { s with train := { s.train with evals := s.train.evals + 1 } }
    | none => watchModuleSignals { s with train := { s.train with evals := s.train.evals + 1 } })

end Sys2Proof.Machine
end

