-- ==== Sys2Proof/Machine/Sound.lean ====
section
/-! DEFINITION. The sound and sensing chain: decimation (R246 to R251), measurements (R252, R253), zero crossings (R254), the
mixer and the TDM ports (R255 to R259), and flows (R260 to R263). -/
namespace Sys2Proof.Machine

/-! ### Logarithms and powers in 64-bit fixed point -/

/-- Bits of the binary logarithm of m / 2^63 in [1, 2), by repeated squaring: the k highest fraction bits. -/
def log2Bits : Nat → Nat → Nat → Nat
  | 0, _, acc => acc
  | k + 1, m, acc =>
    let sq := m * m / 2 ^ 63
    if 2 ^ 64 ≤ sq then log2Bits k (sq / 2) (acc * 2 + 1) else log2Bits k sq (acc * 2)

/-- The binary logarithm of num / den in units of 2^-56. -/
def log2Fix (num den : Nat) : Int :=
  let m0 := num * 2 ^ 128 / den
  let e : Int := (Nat.log2 m0 : Int) - 128
  let m := if 63 ≤ Nat.log2 m0 then m0 / 2 ^ (Nat.log2 m0 - 63) else m0 * 2 ^ (63 - Nat.log2 m0)
  e * 2 ^ 56 + (log2Bits 56 m 0 : Nat)

/-- 2 to the fraction f / 2^k in units of 2^-64: the product of the roots of 2 that the bits of f select. -/
def pow2Frac : Nat → Nat → Nat → Nat → Nat
  | 0, _, _, acc => acc
  | k + 1, f, root, acc =>
    pow2Frac k f (isqrt (root * 2 ^ 64)) (if bit f k then acc * root / 2 ^ 64 else acc)

/-- 2 to the power x / 2^60, times 2^22, rounded to nearest. -/
def pow2Factor (x : Int) : Nat :=
  let ip := x / 2 ^ 60
  let f := (x % 2 ^ 60).toNat
  let m := pow2Frac 60 f (isqrt (2 * 2 ^ 128)) (2 ^ 64)
  let sh := ip + 22 - 64
  if 0 ≤ sh then m * 2 ^ sh.toNat else (m + 2 ^ ((-sh).toNat - 1)) / 2 ^ (-sh).toNat

/-- log2(10) in units of 2^-64. -/
def log2Ten : Int := 61278757397652712441

/-- The gain factor of G dB, G = g / 2^s: round(10^(G/20) times 2^22), and 0 at minus 96 dB (R259). -/
def gainFactor (g : Int) (s : Nat) : Nat :=
  if g ≤ -96 * 2 ^ s then 0 else pow2Factor (g * log2Ten / (20 * 2 ^ (s + 4)))

/-- The gain factor of a REAL32 in dB, within minus 96 to plus 12 (R120, R259). -/
def gainOfReal (w : Word) : Nat :=
  match Fl.of32 w with
  | .fin s m e =>
    let v : Int := if s then -(m : Int) else m
    -- every binary32 from -96 to 12 is a multiple of 2^-149; exponents above zero do not occur with such values beyond 2^7
    if 0 ≤ e then gainFactor (v * 2 ^ e.toNat) 0 else gainFactor v (-e).toNat
  | _ => 0

/-! ### The chain (R246 to R249) -/

/-- Clamping to 24 bits, and whether it clamped. -/
def sat24 (x : Int) : Int × Bool :=
  if x < -2 ^ 23 then (-2 ^ 23, true) else if 2 ^ 23 - 1 < x then (2 ^ 23 - 1, true) else (x, false)

/-- N, R, F in half-samples and FIR_DEC of a channel (R250). -/
def chainParams (c : FiltCfg) : Nat × Nat × Nat × Nat :=
  match c.preset with
  | 0 => (4, 32, 62, 1)
  | 1 => (4, 96, 62, 1)
  | 2 => (4, 32, 14, 1)
  | 3 => (4, 128, 30, 1)
  | 4 => (4, 256, 62, 2)
  | _ => (c.n, c.r, c.firDelay, c.firDec)

/-- The MCK frequency a preset requires; none for CUSTOM (R250). -/
def presetHz (preset : Nat) : Option Nat :=
  match preset with
  | 0 | 1 => some 3072000
  | 2 | 3 | 4 => some 20000000
  | _ => none

/-- Twice the group delay D in modulator clocks (R249). -/
def twiceDelay (c : FiltCfg) : Nat :=
  let (n, r, f2, _) := chainParams c
  n * (r - 1) + 22 * r + 2 * r * f2

/-- D in ns of a channel, rounded up (R249). -/
def delayNs (g : SoundCfg) (c : FiltCfg) : Int :=
  let f := mckHz g c
  if f = 0 then 0 else ((twiceDelay c : Int) * 1000000000 + 2 * f - 1) / (2 * f)

/-- G = ceil(N log2 R): the least G with 2^G at least R^N (R246). -/
def cicBits (n r : Nat) : Nat := let x := r ^ n; if 2 ^ Nat.log2 x = x then Nat.log2 x else Nat.log2 x + 1

/-- The 24-bit value of a CIC result (R246). -/
def cicScale (n r : Nat) (v : BitVec 48) : Int × Bool :=
  let g := cicBits n r
  if g ≤ 23 then sat24 (v.toInt * 2 ^ (23 - g)) else sat24 ((v.toInt + 2 ^ (g - 24)) / 2 ^ (g - 23))

/-- The integrators take one value, each adding the one before (R246). -/
def integrate (x : BitVec 48) : List (BitVec 48) → List (BitVec 48)
  | [] => []
  | i :: is => let y := i + x; y :: integrate y is

/-- The combs take one value: outputs and new delays (R246). -/
def combs (x : BitVec 48) : List (BitVec 48) → BitVec 48 × List (BitVec 48)
  | [] => (x, [])
  | d :: ds => let (y, r) := combs (x - d) ds; (y, x :: r)

/-- The half-band coefficients (R247). -/
def halfCoefs : List Int :=
  [-16777, 0, 75497, 0, -184549, 0, 385876, 0, -805306, 0, 2642411, 4194304,
   2642411, 0, -805306, 0, 385876, 0, -184549, 0, 75497, 0, -16777]

/-- An exact sum of products, divided by 2^23 with ties up, saturated (R247, R248). -/
def firSum (cs xs : List Int) : Int × Bool := sat24 (((cs.zip xs).foldl (fun a (c, x) => a + c * x) 0 + 2 ^ 22) / 2 ^ 23)

/-- The FIR coefficients in force of a channel (R248). -/
def firCoefs (c : FiltCfg) : List Int :=
  if c.preset = 5 then c.coefs
  else
    let (_, _, f2, _) := chainParams c
    (List.range 64).map (fun k => if f2 < k then 0 else Config.presetCoef c.preset (min k (f2 - k)))

/-- One output sample: kept, and looked at for a crossing, which needs a sample above 0 (R251, R254). -/
def outputSample (c : FiltCfg) (x : FiltSt) (smp : Sample) : FiltSt × Option DWord :=
  let x := { x with samples := smp :: x.samples }
  if !c.zc then (x, none)
  else
    let h : Int := (c.hyst : Int) * 2 ^ 23 / 65536
    let armed := x.armed || smp.x ≤ -h
    let below := if smp.x ≤ 0 then some smp else x.below
    let above := if smp.x ≤ 0 then none else (x.above <|> some smp)
    if armed && h ≤ smp.x && above.isSome then
      match below, above with
      | some u, some v =>
        let t := u.t + (v.t - u.t) * (-u.x) / (v.x - u.x)
        ({ x with armed := false, below := below, above := above }, some (BitVec.ofInt 64 t))
      | _, _ => ({ x with armed := false, below := below, above := above }, none)
    else ({ x with armed := armed, below := below, above := above }, none)

/-- Saturations at a stage are counted, and marked for the output sample that they go into (R248, R253). -/
def FiltSt.clips (x : FiltSt) (c : Bool) : FiltSt := { x with clip := x.clip + b2n c, clipped := x.clipped || c }

/-- One modulator bit, sampled at half-clock h of its MCK with AX0 that much above the lattice (R245 to R248, R251): the channel after it,
and a crossing to report. -/
def feedBit (f : Nat) (c : FiltCfg) (x : FiltSt) (h above : Int) (one : Bool) : FiltSt × Option DWord :=
  let (n, r, _, dec) := chainParams c
  let integ := integrate (if one then 1 else -1) (if x.integ.length = n then x.integ else List.replicate n 0)
  let x := { x with integ := integ, cicPhase := x.cicPhase + 1 }
  if x.cicPhase < r then (x, none)
  else
    let (v, comb) := combs (integ.getLastD 0) (if x.comb.length = n then x.comb else List.replicate n 0)
    let (u, clip0) := cicScale n r v
    let x := { x.clips clip0 with cicPhase := 0, comb := comb, half := (u :: x.half).take 23, halfPhase := x.halfPhase + 1 }
    if x.halfPhase < 2 then (x, none)
    else
      let (w, clip1) := firSum halfCoefs x.half
      let x := { x.clips clip1 with halfPhase := 0, fir := (w :: x.fir).take 64, firPhase := x.firPhase + 1 }
      if x.firPhase < dec then (x, none)
      else
        let (y, clip2) := firSum (firCoefs c) x.fir
        let x := x.clips clip2
        outputSample c { x with firPhase := 0, clipped := false } { t := mckTime f (h - (twiceDelay c : Int)) + above, x := y, clip := x.clipped }

/-- A run of bits with the edges that sampled them (R245). -/
def feedRun (f : Nat) (c : FiltCfg) : FiltSt → List ((Int × Int) × Bool) → List DWord → FiltSt × List DWord
  | x, [], zs => (x, zs)
  | x, (e, b) :: bs, zs =>
    let (x, z) := feedBit f c x e.1 e.2 b
    feedRun f c x bs (zs ++ z.toList)

/-- How far back the samples of a channel are kept, in ns: what a measurement window and the mixer may still ask for (R252, R257). -/
def keepNs (g : SoundCfg) (c : FiltCfg) : Int := 2 * (c.window : Int) * 1000000 + (g.latency : Int) * 125000 + 100000000

/-- The bits of a channel up to now enter its chain: the last of them was sampled at the latest edge of its MCK (R244, R245). -/
def feedChannel (s : State) (ch : Nat) (bs : List Bool) : State :=
  let g := s.bank.sound
  let c := g.filters.getD ch {}
  let f := mckHz g c
  if !soundOn s || !c.enabled || f = 0 then s
  else
    let n := bs.length
    let edges := (List.range n).map (fun i => mckBack s (b2n c.mck1) f (b2n c.falling : Nat) (n - 1 - i))
    let (x, zs) := feedRun f c (s.snd.filters.getD ch {}) (edges.zip bs) []
    let old := ((x.samples.head?).map (·.t)).getD 0 - keepNs g c
    { s with snd := { s.snd with
      filters := upd s.snd.filters ch (fun _ => { x with samples := x.samples.takeWhile (fun q => decide (old ≤ q.t)) })
      zcReports := s.snd.zcReports ++ zs.map (fun t => (ch, t)) } }

/-! ### Measurements (R252, R253) -/

/-- The value of a measurement over the samples of a window, computed in binary64 and rounded once (R252). -/
def measure (c : FiltCfg) (xs : List Int) : Word :=
  let n := xs.length
  let i := Fl.ofInt .b64
  let sum := xs.foldl (· + ·) 0
  let sq := xs.foldl (fun a x => a + x * x) 0
  let peak := xs.foldl (fun a x => max a x.natAbs) 0
  let scale := Fl.of32 c.scale
  let full := i (2 ^ 23)
  let mean := Fl.div .b64 (Fl.mul .b64 scale (i sum)) (i ((n : Int) * 2 ^ 23))
  let root := Fl.div .b64 (Fl.sqrt .b64 (Fl.div .b64 (i sq) (i n))) full
  let r : Fl := match c.meas with
    | 0 => mean
    | 1 => Fl.mul .b64 scale root
    | 2 => Fl.div .b64 (Fl.mul .b64 scale (i peak)) full
    | _ =>
      if sq = 0 then i (-120)
      else
        -- 10 log10(sq / (n 2^46)) = 10 log10(2) times the binary logarithm
        let l := log2Fix sq.toNat (n * 2 ^ 46)
        let db := Fl.round .b64 (l < 0) (l.natAbs * 55530232885233571322) (-120)
        if Fl.lt db (i (-120)) then i (-120) else db
  match r with
  | .fin s m e => (Fl.round .b32 s m e).to32
  | x => x.to32

/-- The window that ended last before the newest sample, and the block over it (R252, R253). -/
def formBlock (s : State) (ch : Nat) : State :=
  let g := s.bank.sound
  let c := g.filters.getD ch {}
  let x := s.snd.filters.getD ch {}
  let w : Int := (c.window : Int) * 1000000
  match x.samples with
  | [] => s
  | newest :: _ =>
    if w ≤ 0 then s
    else
      let e := newest.t / w * w
      let xs := (x.samples.filter (fun q => decide (e - w ≤ q.t) && decide (q.t < e))).map (·.x)
      if xs.isEmpty then s
      else
        let d := delayNs g c
        let soon := fun (t : Int) => decide (t ≤ e) && decide (e ≤ t + d)
        let clip := x.samples.any (fun q => q.clip && decide (e - w ≤ q.t) && decide (q.t < e))
        let q : BitVec 4 :=
          if !c.enabled || !soundOn s || (clockPhase s (b2n c.mck1)).isNone || mckHz g c = 0 || x.stuck || clip then 8
          else if soon x.startedAt || (s.tim.clocks.getD (b2n c.mck1) none).any (fun h => soon h.v1) then 4 else 0
        { s with snd := { s.snd with filters := upd s.snd.filters ch (fun x =>
          { x with block := some (e, { v := measure c xs, q := q }) }) } }

/-- A measurement as a release takes it: the latest block at or before the stamp, STALE when it is older than two windows or there is none,
and INVALID while the channel does not measure, or within one group delay after a swap changed its preset (R132, R215, R253). What stands for
the last value where there has been no block is left free (notes/assumptions 179). -/
def measurementAt (s : State) (ch : Nat) (t : Int) : QWord :=
  let g := s.bank.sound
  let c := g.filters.getD ch {}
  let x := s.snd.filters.getD ch {}
  let v := (x.block.map (fun b => b.2.v)).getD (Config.noBlock ch)
  if !c.enabled || !soundOn s || (clockPhase s (b2n c.mck1)).isNone || mckHz g c = 0 || x.stuck
      || x.presetAt.any (fun p => decide (p ≤ t) && decide (t < p + delayNs g c)) then ⟨v, 8⟩
  else
    match x.block with
    | some (e, w) => if e + 2 * (c.window : Int) * 1000000 < t then { w with q := if w.q = 8 then 8 else 1 } else w
    | none => ⟨v, 1⟩

/-! ### Flows (R260 to R263) -/

/-- The presentation time of flow sample j for a rate code 8, 16, 32, 48 kHz (R260). -/
def flowTime (rate : Nat) (j : Int) : Int :=
  match rate with
  | 0 => latticeL (6 * j)
  | 1 => latticeL (3 * j)
  | 2 => j * 31250
  | _ => latticeL j

/-- Samples a second of a rate code. -/
def flowHz (rate : Nat) : Nat := [8000, 16000, 32000, 48000].getD rate 48000

/-- A flow's entry in the bank. -/
def flowCfg (s : State) (id : Nat) : Option FlowCfg := s.bank.sound.flows.find? (fun f => f.id = id)
/-- A flow's state. -/
def flowSt (s : State) (id : Nat) : FlowSt := (s.snd.flows.find? (fun f => f.id = id)).getD { id := id }
/-- A flow's state changed. -/
def modFlow (s : State) (id : Nat) (f : FlowSt → FlowSt) : State :=
  let l := s.snd.flows
  let m := if l.any (fun x => x.id = id) then l.map (fun x => if x.id = id then f x else x) else l ++ [f { id := id }]
  { s with snd := { s.snd with flows := m } }

/-- The buffer bytes of a flow (R261). -/
def flowBytes (c : FlowCfg) : Nat :=
  let rate := flowHz (bits c.format 0 2)
  if c.send then c.channels * rate * 4 * (c.latency * 125) / 1000000 else c.channels * rate * 4 * c.depth / 1000

/-- The flow buffer bytes committed: the sum over open flows (R371). -/
def flowCommitted (s : State) : Nat :=
  (s.bank.sound.flows.filter (fun c => (flowSt s c.id).run)).foldl (fun n c => n + flowBytes c) 0

/-- A flow is bound to a FLOW word of the active program (R263). -/
def flowOwned (s : State) (id : Nat) : Bool :=
  s.prog.any (fun p => p.binds.any (fun b => b.kind = 0x47 && b.id.toNat = id))
/-- A mix point is bound to a GAIN word of the active program (R259). -/
def mixOwned (s : State) (p : Nat) : Bool :=
  s.prog.any (fun q => q.binds.any (fun b => b.kind = 0x46 && b.id.toNat = p))

/-- RUN of a flow as voted or opened (R263): a send flow that stops drops what it has not sent. -/
def setRun (s : State) (id : Nat) (run : Bool) : State :=
  modFlow s id (fun f => { f with run := run, out := if run then f.out else [] })

/-- The frame that a port presents now, or at its next start (R255). -/
def portFrame (s : State) (p : Nat) : Int := frameAt ((ax0 s).toInt + outDelay s.bank.sound p)
/-- A port is held low after a step of AX0 (R256). -/
def portHeld (s : State) (p : Nat) : Bool := (s.tim.clocks.getD (2 + p) none).any (fun h => h.on (rawNow s) (ax0 s).toInt)
/-- The presentation time being played: that of the frame that the most advanced port in use has begun (R255, R261). -/
def playing (s : State) : Int :=
  let uses := fun (p : Nat) => s.bank.sound.dests.any (fun x => x.1 = p + 1)
  let ahead := fun (p : Nat) (n : Int) => if uses p then max n (portFrame s p) else n
  latticeL (ahead 0 (ahead 1 (frameAt (ax0 s).toInt)))

/-- One sample of a received packet is placed by its presentation time, or discarded and counted (R261). -/
def placeSample (c : FlowCfg) (playing : Int) (f : FlowSt) (p : Int) (xs : List Int) : FlowSt :=
  if p ≤ playing then { f with late := f.late + 1 }
  else if playing + (c.depth : Int) * 1000000 < p then { f with early := f.early + 1 }
  else if f.ring.any (fun y => y.1 = p) then f
  else { f with ring := f.ring ++ [(p, xs)] }

/-- The samples of a received packet: count and interleaved channels from a first presentation time (R260, R261). -/
def placePacket (s : State) (id : Nat) (p0 : Int) (samples : List (List Int)) : State :=
  match flowCfg s id with
  | some c =>
    if c.send || !soundOn s then s
    else
      let rate := bits c.format 0 2
      let j0 : Int := (p0 * (flowHz rate : Int) + 999999999) / 1000000000
      modFlow s id (fun f => (((List.range samples.length).zip samples).foldl
        (fun f (k, xs) => placeSample c (playing s) f (flowTime rate (j0 + (k : Nat))) xs) f))
  | none => s

/-! ### The mixer (R257 to R259) -/

/-- Linear interpolation at t between two samples, rounded to nearest (R257). -/
def interp (u v : Int × Int) (t : Int) : Int :=
  let d := v.1 - u.1
  if d = 0 then u.2 else u.2 + (2 * (v.2 - u.2) * (t - u.1) + d) / (2 * d)

/-- The value at t of samples given newest first; zero where no two of them bracket t. -/
def valueAt (xs : List (Int × Int)) (t : Int) : Int :=
  match xs with
  | v :: u :: r => if v.1 = t then v.2 else if u.1 ≤ t && t < v.1 then interp u v t else valueAt (u :: r) t
  | [v] => if v.1 = t then v.2 else 0
  | [] => 0

/-- The value of a receive flow at a presentation time: its sample there, or the interpolation of the two samples that bracket it; zero
where a sample that it takes is not present (R257, R261). -/
def flowValue (rate : Nat) (held : Int → Option Int) (t : Int) : Int :=
  let j0 := t * (flowHz rate : Int) / 1000000000
  let j := ([j0 + 1, j0].find? (fun j => decide (flowTime rate j ≤ t))).getD (j0 - 1)
  let u := flowTime rate j
  let v := flowTime rate (j + 1)
  match held u, held v with
  | some a, some b => if u = t then a else interp (u, a) (v, b) t
  | some a, none => if u = t then a else 0
  | none, _ => 0

/-- The value of a source for a frame with capture time t (R257). -/
def sourceValue (s : State) (k : Nat × Nat) (t : Int) : Int :=
  match k.1 with
  | 1 => valueAt ((s.snd.filters.getD k.2 {}).samples.map (fun q => (q.t, q.x))) t
  | 2 => valueAt (s.snd.tdmi.map (fun q => (q.1, q.2.getD k.2 0))) t
  | 3 =>
    let f := flowSt s (k.2 / 8)
    if !f.run then 0
    else
      let rate := bits (((flowCfg s (k.2 / 8)).map (·.format)).getD 0) 0 2
      flowValue rate (fun p => (f.ring.find? (fun q => q.1 = p)).map (fun q => q.2.getD (k.2 % 8) 0)) (t + (s.bank.sound.latency : Int) * 125000)
  | _ => 0

/-- Gains are muted and flows closed in BRINGUP, LIMITED and HALTED (R182), and while SOUND is being shed (R404). -/
def soundMuted (s : State) : Bool :=
  !inService s || effectsHeld s || (s.pwr.shedStep = some 3 && s.pwr.shedding.getLsbD 6)

/-- The default factor of a mix point (R264). -/
def defaultFactor (s : State) (p : Nat) : Nat := gainFactor (s.bank.sound.gains.getD p (-24576)) 8

/-- A mix point. -/
def mixPt (s : State) (p : Nat) : MixPt :=
  (s.snd.mix.find? (fun m => m.p = p)).getD { p := p, want := defaultFactor s p }
/-- A mix point changed. -/
def modMix (s : State) (p : Nat) (f : MixPt → MixPt) : State :=
  let m := f (mixPt s p)
  { s with snd := { s.snd with mix := m :: s.snd.mix.filter (fun x => x.p ≠ p) } }

/-- The current factor of a mix point in its ramp (R259). -/
def MixPt.current (m : MixPt) (frames : Nat) : Nat :=
  if frames ≤ m.i then m.to_ else ((m.from_ : Int) + ((m.to_ : Int) - m.from_) * m.i / frames).toNat

/-- One frame of a mix point's ramp: a target that has changed starts a new ramp from the current factor (R259). -/
def MixPt.step (m : MixPt) (frames : Nat) (target : Nat) : MixPt :=
  if m.to_ = target then { m with i := min frames (m.i + 1) }
  else { m with from_ := m.current frames, to_ := target, i := 1 }

/-- The gains step by one frame toward their targets (R182, R259). -/
def stepGains (s : State) : State :=
  let frames := s.bank.sound.ramp * 48
  let muted := soundMuted s
  (List.range 1024).foldl (fun s p =>
    let q := mixPt s p
    let t := if muted then 0 else q.want
    if q.to_ = t && frames ≤ q.i then s else if q.to_ = t && q.from_ = t && t = 0 then s
    else modMix s p (fun q => q.step frames t)) s

/-- A destination of a frame with capture time t: its value, and whether it saturated (R257). -/
def destValue (s : State) (xs : List Int) (d : Nat) : Int × Bool :=
  let frames := s.bank.sound.ramp * 48
  sat24 ((((List.range 32).foldl (fun a k => a + xs.getD k 0 * ((mixPt s (32 * k + d)).current frames : Int)) 0) + 2 ^ 21) / 2 ^ 22)

/-- The value of every source at a capture time (R257). -/
def sourceValues (s : State) (t : Int) : List Int := (List.range 32).map (fun k => sourceValue s (s.bank.sound.sources.getD k (0, 0)) t)

/-- The frame that a TDM port begins: its slots carry the destinations of the mixer frame presented then. A frame at or before the latest one
presented carries zero and counts in GAP; frames passed over count in SKIP; a held port begins none (R255, R256, R258). -/
def portOut (s : State) (p : Nat) (vals : List Int) : State :=
  if portHeld s p then s
  else
    let n := portFrame s p
    let x := s.snd.ports.getD p {}
    let pres := latticeL n
    let again := x.presented.any (fun t => decide (pres ≤ t))
    let passedOver := match x.presented with
      | some t => (n - frameAt t - 1).toNat
      | none => 0
    let slot := fun (k : Nat) => if again then 0 else
      ((List.range 32).zip s.bank.sound.dests).foldl (fun a (d, y) => if y = (p + 1, k) then vals.getD d 0 else a) 0
    let words := (List.range 8).map (fun k => slotWord (slot k))
    let x := { x with
      frame := some n, words := words, presented := if again then x.presented else some pres
      skip := x.skip + passedOver, gap := x.gap + b2n again }
    emit { s with snd := { s.snd with ports := upd s.snd.ports p (fun _ => x) } } (.tdm p n (pres - outDelay s.bank.sound p) words)

/-- One mixer frame (R255 to R260): the TDMI frame that has come, then every destination: of a port for the frame that the port begins, which
its OUT_DELAY puts ahead, of a send flow for the frame of now (R258; DEDUCED, notes/assumptions 178). -/
def mixFrame (s : State) (tdmi : List Word) : State :=
  let g := s.bank.sound
  let lat : Int := (g.latency : Int) * 125000
  let m := frameAt (ax0 s).toInt
  let n := m - 6 * (g.latency : Int)
  let cap := latticeL n
  let ins := tdmi.map (fun w => ((w.extractLsb' 8 24 : BitVec 24)).toInt)
  let s := if portHeld s 0 then s else { s with snd := { s.snd with
    tdmi := ((latticeL (portFrame s 0) - (g.outDelay0 : Int) - (g.inDelay : Int), ins) :: s.snd.tdmi).take (6 * g.latency + 256) } }
  let s := stepGains s
  let here := sourceValues s cap
  let port := fun (p : Nat) => sourceValues s (latticeL (portFrame s p) - lat)
  let port0 := port 0
  let port1 := port 1
  let ys := ((List.range 32).zip g.dests).map (fun (d, k) => destValue s (if k.1 = 1 then port0 else if k.1 = 2 then port1 else here) d)
  let vals := ys.map (·.1)
  let prev := s.snd.frames
  let s := { s with snd := { s.snd with
    clips := (s.snd.clips.zip ys).map (fun (c, y) => c + b2n y.2), frames := ((n, vals) :: prev).take 2 } }
  let s := portOut (portOut s 0 vals) 1 vals
  -- samples of the send flows whose presentation time falls in this frame (R258, R260)
  let s := g.flows.foldl (fun s c =>
    if !c.send || !(flowSt s c.id).run || soundMuted s then s
    else
      let rate := bits c.format 0 2
      let p0 := cap + (c.latency : Int) * 125000
      let prevT := latticeL (n - 1) + (c.latency : Int) * 125000
      let j := p0 * (flowHz rate : Int) / 1000000000
      let t := [flowTime rate (j + 1), flowTime rate j].find? (fun t => decide (prevT < t) && decide (t ≤ p0))
      match t with
      | none => s
      | some t =>
        let ch := (List.range c.channels).map (fun k =>
          let d := ((List.range 32).zip g.dests).find? (fun (_, x) => x.1 = 3 && x.2 = c.id * 8 + k)
          match d with
          | some (d, _) => valueAt ([(p0, vals.getD d 0)] ++ (prev.map (fun f => (prevT, f.2.getD d 0))).take 1) t
          | none => 0)
        modFlow s c.id (fun f => { f with out := f.out ++ [(t, ch)] })) s
  -- receive flows play the presentation time that this frame has reached (R261)
  let p := playing s
  g.flows.foldl (fun s c =>
    if c.send || !(flowSt s c.id).run then s
    else
      let rate := bits c.format 0 2
      let j := p * (flowHz rate : Int) / 1000000000
      let due := [flowTime rate (j + 1), flowTime rate j].find? (fun t => decide (latticeL (frameAt p - 1) < t) && decide (t ≤ p))
      modFlow s c.id (fun f =>
        { f with
          underrun := match due with
            | some t => if f.ring.any (fun q => q.1 = t) then f.underrun else f.underrun + 1
            | none => f.underrun
          ring := f.ring.filter (fun q => decide (latticeL m - 1000000 < q.1)) })) s

/-! ### Commands -/

/-- MOD_STUCK (R245). -/
def execModStuck (ch : Fin 16) (s : State) : Host.Outcome State Fault Refusal :=
  .next (if soundOn s then { s with snd := { s.snd with filters := upd s.snd.filters ch.val (fun x => { x with stuck := true }) } }
    else s)

/-- MOD_STUCK_CLEAR (R245). -/
def execModStuckClear (ch : Fin 16) (s : State) : Host.Outcome State Fault Refusal :=
  .next { s with snd := { s.snd with filters := upd s.snd.filters ch.val (fun x => { x with stuck := false }) } }

/-- MEASUREMENT_BLOCK (R252): the bits of the modulator up to now, then the block of the window that has ended. -/
def execMeasurementBlock (ch : Fin 16) (bs : List Bool) (s : State) : Host.Outcome State Fault Refusal :=
  .next (formBlock (feedChannel s ch.val bs) ch.val)

/-- MIXER_FRAME (R257): the bits of the filter channels and the TDMI frame up to now, then one frame. -/
def execMixerFrame (bs : List (Fin 16 × List Bool)) (tdmi : List Word) (s : State) : Host.Outcome State Fault Refusal :=
  if soundOn s then .next (mixFrame (bs.foldl (fun s b => feedChannel s b.1.val b.2) s) tdmi) else .next s

end Sys2Proof.Machine
end

