-- ==== Sys2Proof/Machine/Flovis.lean ====
section
/-! DEFINITION. Flovis: cycles and schedules (R272 to R277, R292, R293), frames (R268 to R271), the node (R278 to R282), the
star and its sluice (R283 to R288), spare slots (R289 to R291) and the records of R294. -/
namespace Sys2Proof.Machine

/-! ### Frames (R268, R269) -/

/-- The frame check sequence as its four bytes are sent (R268; PRESUMED from IEEE 802.3). -/
def fcsBytes (bs : List Byte) : List Byte := (beWord (ethFcs bs)).reverse
/-- A frame with its check sequence. -/
def withFcs (bs : List Byte) : List Byte := bs ++ fcsBytes bs
/-- A frame's check sequence is right. -/
def fcsGood (bs : List Byte) : Bool := decide (64 ≤ bs.length) && bs.drop (bs.length - 4) = fcsBytes (bs.take (bs.length - 4))

/-- A Flovis frame of the module (R268). -/
def flovisFrame (s : State) (pb : Bool) (kind slot cycle : Nat) (cc : Word) (payload : List Byte) : List Byte :=
  let c := s.bank.net
  let ranked := decide (c.rank ≤ 3)
  let flags := b2n pb + 2 * b2n ranked + 4 * (if ranked then c.rank else 0)
  let body := [0x03, 0x46, 0x4C, 0x56, 0x00, BitVec.ofNat 8 (b2n pb), 0x02, 0x46, 0x4C, 0x56,
      BitVec.ofNat 8 (b2n pb * 16 + c.deviceId / 256), BitVec.ofNat 8 c.deviceId] ++ be16 c.ethertype
    ++ [BitVec.ofNat 8 (16 + kind), BitVec.ofNat 8 flags] ++ be16 c.deviceId ++ [BitVec.ofNat 8 slot, BitVec.ofNat 8 cycle]
    ++ be16 payload.length ++ beWord cc ++ beWord s.net.sched.id ++ payload
  withFcs (body ++ zeros (60 - body.length))

/-- Fields of a received frame: kind, FLAGS, NODE, SLOT, CYCLE, LENGTH, CCOUNT, SCHED_ID (R268). -/
def fType (bs : List Byte) : Nat := getNat bs 12 2
/-- The version. -/
def fVersion (bs : List Byte) : Nat := getByte bs 14 / 16
/-- The kind. -/
def fKind (bs : List Byte) : Nat := getByte bs 14 % 16
/-- FLAGS. -/
def fFlags (bs : List Byte) : Nat := getByte bs 15
/-- RANK, when RANKED is set. -/
def fRank (bs : List Byte) : Option Nat := if bit (fFlags bs) 1 then some (bits (fFlags bs) 2 2) else none
/-- NODE. -/
def fNode (bs : List Byte) : Nat := getNat bs 16 2
/-- SLOT. -/
def fSlot (bs : List Byte) : Nat := getByte bs 18
/-- CYCLE. -/
def fCycle (bs : List Byte) : Nat := getByte bs 19
/-- LENGTH. -/
def fLength (bs : List Byte) : Nat := getNat bs 20 2
/-- CCOUNT. -/
def fCcount (bs : List Byte) : Word := getWord bs 22
/-- SCHED_ID. -/
def fSched (bs : List Byte) : Word := getWord bs 26
/-- The payload. -/
def fPayload (bs : List Byte) : List Byte := slice bs 30 (fLength bs)

/-- EtherType, version, kind and reserved bits of a header are valid (R271). -/
def headerGood (s : State) (bs : List Byte) : Bool :=
  fType bs = s.bank.net.ethertype && fVersion bs = 1 && decide (1 ≤ fKind bs) && decide (fKind bs ≤ 6)
    && fFlags bs / 16 = 0 && fNode bs / 1024 = 0

/-- A schedule identifier that a frame may carry now: the one in force, or the announced one in the cluster cycle of the switch
(R271). -/
def schedKnown (s : State) (id : Word) : Bool :=
  let c := s.net.sched
  (id = c.id && c.id != 0)
    || (s.net.nextId != 0 && id = s.net.nextId && c.ccount (c.cycleOf (now0 s)) = s.net.switchCount)

/-- A frame passes the checks of R271 that every kind has. -/
def frameGood (s : State) (bs : List Byte) : Bool :=
  fcsGood bs && headerGood s bs && decide (30 + fLength bs + 4 ≤ bs.length) && schedKnown s (fSched bs)

/-! ### Records (R294) -/

/-- A network record (R294): plane, port, SLOT, CYCLE and device in LOCATION, what the event gives in ARG0, and CCOUNT in ARG1 (DESIGN
CHOICE, notes/assumptions 48). -/
def netRecord (s : State) (sev : Nat) (code : BitVec 16) (pb : Bool) (port device arg0 slot : Nat) : State :=
  let c := s.net.sched
  let b := c.cycleOf (now0 s)
  raiseHub s sev code (b2n pb * 2 ^ 28 + port % 16 * 2 ^ 24 + slot % 256 * 2 ^ 16 + c.cyc b * 2 ^ 10 + device % 1024) arg0 (c.ccount b).toNat
/-- A record of the module's own node on a plane: its attachment there, and 15 where it has none. -/
def nodeRecord (s : State) (sev : Nat) (code : BitVec 16) (pb : Bool) (arg0 slot : Nat) : State :=
  netRecord s sev code pb ((nodePort s pb).getD 15) s.bank.net.deviceId arg0 slot

/-- The node state changes: MOD_IRQ.NET, the loss of leases on leaving SYNC (R291), the star's record (R284). -/
def setNode (s : State) (x : NodeState) : State :=
  if s.net.node = x then s
  else
    let was := s.net.node
    let s := setIrq { s with net := { s.net with node := x, good := 0 } } irqNet
    if was = .sync then
      let forget := fun (p : PlaneSt) => { p with own := [], decided := [] }
      let s := modPlane (modPlane s false forget) true forget
      let s := { s with net := { s.net with master := false } }
      let s := if isStar s false then nodeRecord s 2 0x7005 false 0 0 else s
      if isStar s true then nodeRecord s 2 0x7005 true 0 0 else s
    else s

/-- The listen timer restarts (R282). -/
def restartListen (s : State) : State := { s with net := { s.net with listenFrom := rawNow s, heldAt := none } }
/-- LISTEN is entered (R282). -/
def enterListen (s : State) : State := restartListen (setNode s .listen)

/-! ### Sending (R275, R276) -/

/-- The longest frame of a slot (R275). -/
def frameLimit (s : State) (pb : Bool) (e : SchedEntry) : Nat :=
  min 1518 ((e.length - 2 * s.net.sched.pi) / byteNs s pb - 20)

/-- A container (R270). -/
def container (ty dst : Nat) (body : List Byte) : List Byte :=
  [BitVec.ofNat 8 ty, 0] ++ be16 body.length ++ be16 dst ++ zeros 2 ++ body ++ zeros ((4 - body.length % 4) % 4)

/-- The module sends on a plane at a moment `ahead` ns from now (R276, R281, R282, R293). -/
def planeSends (s : State) (ahead : Int) : Bool := sends s && nodeSends s ahead

/-- A frame put on the module's attachment to a plane at an AX0 value. -/
def sendOn (s : State) (pb : Bool) (at_ : Int) (bs : List Byte) : State :=
  match nodePort s pb with
  | some n => if portUp s n then emit s (.frame n at_ bs) else s
  | none => s

/-- The samples of a flow packet that fit in n bytes, and the rest (R260, R270). -/
def flowBody (c : FlowCfg) (xs : List (Int × List Int)) : List Byte :=
  let wide := bit c.format 2
  let sample := fun (x : Int) =>
    let v := BitVec.ofInt 24 x
    if wide then [v.extractLsb' 16 8, v.extractLsb' 8 8, v.extractLsb' 0 8] else [v.extractLsb' 16 8, v.extractLsb' 8 8]
  [BitVec.ofNat 8 c.id, BitVec.ofNat 8 c.channels, BitVec.ofNat 8 c.format, 0]
    ++ beDWord (BitVec.ofInt 64 ((xs.head?.map (·.1)).getD 0)) ++ be16 xs.length ++ zeros 2
    ++ xs.flatMap (fun x => x.2.flatMap sample)

/-- An open tunnel endpoint. -/
def endpoint (s : State) (ep : Nat) : Option Endpoint := s.br.eps.find? (fun e => e.ep = ep)
/-- An open tunnel endpoint changed. -/
def modEp (s : State) (ep : Nat) (f : Endpoint → Endpoint) : State :=
  { s with br := { s.br with eps := s.br.eps.map (fun e => if e.ep = ep then f e else e) } }

/-- Bytes a container of a body takes. -/
def containerSize (n : Nat) : Nat := 8 + (n + 3) / 4 * 4

/-- As many bodies from the front of a list as fit in n bytes as containers: those that fit, and the rest (R323, R341). -/
def takeFit (α : Type) (size : α → Nat) : Nat → List α → List α × List α
  | _, [] => ([], [])
  | n, x :: l =>
    if containerSize (size x) ≤ n then
      let (a, b) := takeFit α size (n - containerSize (size x)) l
      (x :: a, b)
    else ([], x :: l)

/-- Bytes of a KALVI group of n words (R312). -/
def kalviSize (n : Nat) : Nat := 16 + 4 * n + 4 * ((n + 7) / 8)

/-- The content of one transmit-list entry for a slot with n bytes left: containers for plane A and plane B, which differ only
in safe telegrams (R190, R276), and the state after it. What does not fit in the room left is not sent in this slot (R275). -/
def entryContent (s : State) (x : TxEntry) (left : Nat) : List Byte × List Byte × State :=
  match x.ty with
  | 1 =>
    match groupDef s x.ident true with
    | some g =>
      if g.carrier = 1 && (g.mode = 0 || x.ident ∈ s.train.sgtx) && decide (containerSize (kalviSize g.size) ≤ left) then
        let (body, s) := formGroup s g
        let c := container 1 g.peer body
        (c, c, { s with train := { s.train with sgtx := s.train.sgtx.filter (· ≠ x.ident) } })
      else ([], [], s)
    | none => ([], [], s)
  | 2 =>
    let one := fun (pb : Bool) =>
      match latestTelegram s x.ident pb, s.safe.conns.find? (fun k => k.conn = x.ident) with
      | some y, some k => if containerSize y.length ≤ left then container 2 k.peer y else []
      | _, _ => []
    (one false, one true, s)
  | 3 =>
    match flowCfg s x.ident with
    | some c =>
      let f := flowSt s x.ident
      let fit := (min (left / 4 * 4 - 8) 1476 - 16) / (c.channels * (if bit c.format 2 then 3 else 2))
      let xs := f.out.take (min fit f.out.length)
      if xs.isEmpty || !c.send then ([], [], s)
      else
        let k := container 3 c.peer (flowBody c xs)
        (k, k, modFlow s x.ident (fun f => { f with out := f.out.drop xs.length }))
    | none => ([], [], s)
  | 4 =>
    match endpoint s x.ident with
    | some e =>
      let (now, later) := takeFit (List Byte) (·.length) left e.outQ
      let k := now.flatMap (container 4 e.peer)
      (k, k, modEp s x.ident (fun e => { e with outQ := later, sent := e.sent + now.length }))
    | none => ([], [], s)
  | _ =>
    let (r, r') := takeFit (Nat × List Byte) (·.2.length) (min left x.ident) s.br.respQ
    let used := r.foldl (fun n y => n + containerSize y.2.length) 0
    let (q, q') := takeFit (Nat × Option Nat × Nat × List Byte) (·.2.2.2.length) (min left x.ident - used) s.br.outQ
    let k := r.flatMap (fun y => container 6 y.1 y.2) ++ q.flatMap (fun y => container 5 y.1 y.2.2.2)
    (k, k, { s with br := { s.br with respQ := r', outQ := q' } })

/-- The containers of a slot for both planes: the transmit list in its order (R276). -/
def slotContent (s : State) (slot planes : Nat) (limit : Nat) : List Byte × List Byte × State :=
  (s.bank.net.tx.filter (fun x => x.slot = slot && (x.planes &&& planes) != 0)).foldl
    (fun (a, b, s) x =>
      let (a', b', s) := entryContent s x (limit - (max a.length b.length))
      (a ++ (if bit x.planes 0 then a' else []), b ++ (if bit x.planes 1 then b' else []), s)) ([], [], s)

/-- The payload of a REFERENCE of the module (R269, R278). -/
def referencePayload (s : State) (origin : Int) : List Byte :=
  beDWord (BitVec.ofInt 64 origin) ++ zeros 8
    ++ [BitVec.ofNat 8 ((axisQual s 0).toNat * 16 + b2n (axis s 0).holdover), 0, 0, 0]
    ++ beWord s.net.nextId ++ beWord s.net.switchCount ++ zeros 4

/-- A spare slot is the module's on a plane (R289, R291). -/
def leased (s : State) (pb : Bool) (slot : Nat) : Bool := (planeSt s pb).own.any (fun x => x.1 = slot)

/-- The entry of a slot number on a plane in a basic cycle (R273). -/
def slotEntry (s : State) (pb : Bool) (slot : Nat) (b : Int) : Option SchedEntry :=
  s.net.sched.entries.find? (fun e => e.slot = slot && e.present (s.net.sched.cyc b) pb)

/-- The module still wants a spare slot on a plane: it does not hold it, and no decision denied it (R289, R290). -/
def undecided (s : State) (pb : Bool) (slot : Nat) : Bool :=
  !leased s pb slot && !((planeSt s pb).decided.any (fun y => y.1 = slot))

/-- The planes on which the module wants a spare slot: those of the claim that waits, or of the transmit-list entries marked AUTO. -/
def claimPlanes (s : State) (slot : Nat) : Nat :=
  match s.net.claims.find? (fun x => x.slot = slot) with
  | some x => x.planes
  | none => ((s.bank.net.tx.filter (fun x => x.slot = slot && x.auto)).map (·.planes)).foldl (· ||| ·) 0

/-- The slot that the module's CLAIM in a cluster cycle names on a plane (R289): the one already claimed in it on the other plane, where
it is wanted here too; otherwise a claim that waits and is due, or one that an AUTO entry makes. At most one slot is claimed per cluster
cycle. -/
def claimDue (s : State) (pb : Bool) (k : Int) : Option Nat :=
  let p := b2n pb
  let fresh :=
    match s.net.claims.find? (fun x => bit x.planes p && decide (x.next ≤ k) && undecided s pb x.slot) with
    | some x => some x.slot
    | none =>
      (s.bank.net.tx.find? (fun x => x.auto && bit x.planes p && undecided s pb x.slot
        && s.net.sched.entries.any (fun e => e.slot = x.slot && e.ty = 3)
        && !(s.net.claims.any (fun y => y.slot = x.slot)))).map (·.slot)
  match s.net.claimSent with
  | some (k', slot, sent) =>
    if k' != k then fresh
    else if bit (claimPlanes s slot) p && !bit sent p && undecided s pb slot then some slot
    else none
  | none => fresh

/-- The CLAIM of a slot has been sent on a plane: it is sent again after (DEVICE_ID mod 8) + 1 cluster cycles unless decided (R289). -/
def claimNoted (s : State) (pb : Bool) (k : Int) (slot : Nat) : State :=
  let next := k + (s.bank.net.deviceId % 8 : Nat) + 1
  let cs := s.net.claims
  let cs := if cs.any (fun x => x.slot = slot) then cs.map (fun x => if x.slot = slot then { x with next := next } else x)
    else cs ++ [{ slot := slot, planes := claimPlanes s slot, next := next }]
  let sent := match s.net.claimSent with
    | some (k', _, sent) => if k' = k then sent else 0
    | none => 0
  { s with net := { s.net with claims := cs, claimSent := some (k, slot, sent ||| 2 ^ b2n pb) } }

/-- The entry of a slot in a plane, with the basic cycle and the instant on AX0 at which its frame leaves, where the node sends in that
cycle (R275, R281). The instant is counted from now, so that a cycle that a step moved completes on the raw count (R293). -/
def sendEntry (s : State) (pb : Bool) (slot : Nat) : Option (Int × SchedEntry × Int) :=
  match cycleAt s (dUp s pb) with
  | some (b, off) =>
    if planeSends s (dUp s pb) then (slotEntry s pb slot b).map (fun e => (b, e, now0 s + ((e.start : Int) - off))) else none
  | none => none

/-- The same where the slot is the module's own: owned, or spare and leased (R275, R289). -/
def ownEntry (s : State) (pb : Bool) (slot : Nat) : Option (Int × SchedEntry × Int) :=
  (sendEntry s pb slot).filter (fun x => (x.2.1.ty = 2 && x.2.1.owner = s.bank.net.deviceId) || (x.2.1.ty = 3 && leased s pb slot))

/-- The DATA frame of a slot, on each plane on which it is the module's own, with one content (R275, R276). -/
def sendData (s : State) (slot : Nat) : State :=
  let data := [false, true].filterMap (fun pb => (ownEntry s pb slot).map (fun x => (pb, x)))
  match data with
  | [] => s
  | (_, _, e, _) :: _ =>
    let limit := ((data.map (fun x => frameLimit s x.1 x.2.2.1)).foldl min (frameLimit s false e)) - 34
    let planes := (data.map (fun x => 2 ^ b2n x.1)).foldl (· + ·) 0
    let (a, bb, s) := slotContent s slot planes limit
    data.foldl (fun s (pb, b, _, t) =>
      sendOn s pb t (flovisFrame s pb 3 slot (s.net.sched.cyc b) (s.net.sched.ccount b) (if pb then bb else a))) s

/-- REFERENCE of the module on a plane in a basic cycle, leaving at an AX0 value: the sender is the acting time master (R278, R282). -/
def sendReference (s : State) (pb : Bool) (b t : Int) : State :=
  let c := s.net.sched
  let s := { s with net := { s.net with master := true } }
  let s := modPlane s pb (fun p => { p with sentRef := some b })
  sendOn s pb t (flovisFrame s pb 1 0 (c.cyc b) (c.ccount b) (referencePayload s t))

/-- What a slot of no owner holds: the REFERENCE of a time master of rank 0 in slot 0, the CLAIM of a device, and the module's best-effort
frames in an OPEN window (R278, R289, R302). -/
def sendControl (s : State) (slot : Nat) (pb : Bool) (b : Int) (e : SchedEntry) (t : Int) : State :=
  if e.ty = 1 && slot = 0 && s.bank.net.rank = 0 then (if (planeSt s pb).sentRef = some b then s else sendReference s pb b t)
  else if e.ty = 4 then
    let k := s.net.sched.cluster b
    match claimDue s pb k with
    | some want =>
      sendOn (claimNoted s pb k want) pb t
        (flovisFrame s pb 4 slot (s.net.sched.cyc b) (s.net.sched.ccount b) [BitVec.ofNat 8 want, 0, 0, 0])
    | none => s
  else if e.ty = 5 then drainPlane s pb
  else s

/-- SLOT_TRANSMIT (R275, R276): the module's frame for a slot it owns or leases, its REFERENCE as rank 0, its CLAIM, or its best-effort
frames. -/
def transmitSlot (s : State) (slot : Nat) : State :=
  let es := [false, true].filterMap (fun pb => (sendEntry s pb slot).map (fun x => (pb, x)))
  es.foldl (fun s x => sendControl s slot x.1 x.2.1 x.2.2.1 x.2.2.2) (sendData s slot)

/-! ### The node (R278 to R282) -/

/-- The plane that feeds the discipline and the node state: A, or B while A is lost (R35, R280). -/
def refPlane (s : State) : Bool :=
  let lost := fun (b : Bool) => match (planeSt s b).lastRef with
    | some t => elapsed s t (4 * s.net.sched.tb)
    | none => true
  lost false && !lost true

/-- The numbers of basic and cluster cycles that the node keeps, moved from the lattice of the schedule in force to that of another at
this moment (R292). -/
def renumber (s : State) (c : Schedule) : State :=
  let o := s.net.sched
  let b := o.cycleOf (now0 s)
  let b' := c.cycleOf (now0 s)
  let db := b' - b
  let dk := c.cluster b' - o.cluster b
  let plane := fun (x : PlaneSt) => { x with rankSeen := x.rankSeen.map (fun y => (y.1 + db, y.2)), sentRef := x.sentRef.map (· + db) }
  let s := modPlane (modPlane s false plane) true plane
  { s with net := { s.net with
    refCycle := s.net.refCycle.map (· + db)
    claimIn := s.net.claimIn.map (fun x => { x with cycle := x.cycle + dk })
    claims := s.net.claims.map (fun x => { x with next := x.next + dk })
    claimCmd := s.net.claimCmd.map (fun (m, slot, planes, k) => (m, slot, planes, k + dk))
    claimSent := s.net.claimSent.map (fun (k, slot, planes) => (k + dk, slot, planes))
    leases := s.net.leases.map (fun l => { l with last := l.last + dk })
    sluices := s.net.sluices.map (fun x => { x with quar := x.quar.map (· + dk) })
    ports := s.net.ports.map (fun x => { x with askedIn := x.askedIn.map (· + dk) })
    taken := s.net.taken.map (fun x => (x.1 + db, x.2)) } }

/-- A schedule takes over; the record names the plane whose REFERENCE leads to it (R292, R294). -/
def switchSchedule (s : State) (c : Schedule) (pb : Bool) : State :=
  let s := renumber s c
  nodeRecord { s with net := { s.net with sched := c, nextId := 0, switchCount := 0, schedMismatch := false } } 0 0x7008 pb 0 0

/-- SCHED_MISMATCH is set in LISTEN (R282, R292). -/
def mismatch (s : State) (pb : Bool) : State :=
  let s := if s.net.schedMismatch then s else nodeRecord s 2 0x7004 pb 2 0
  { s with net := { s.net with schedMismatch := true } }

/-- A REFERENCE whose schedule is neither in force nor announced: discarded and counted (R271), and in LISTEN it sets SCHED_MISMATCH and
holds the listen timer (R282). No other row of R282 names it. -/
def foreignReference (s : State) (pb : Bool) : State :=
  let s := { s with net := { s.net with discarded := s.net.discarded + 1 } }
  if s.net.node != .listen then s
  else
    let now := rawNow s
    let held := match s.net.heldAt with
      | some t => if elapsed s t (4 * s.net.sched.tb) then 0 else now - t
      | none => 0
    let s := mismatch s pb
    { s with net := { s.net with heldAt := some now, listenFrom := s.net.listenFrom + held } }

/-- Raw AX0 count of the next cluster cycle boundary (R281, R282). -/
def nextClusterCycle (s : State) : Nat :=
  let c := s.net.sched
  rawNow s + (c.startOf ((c.cluster (c.cycleOf (now0 s)) + 1) * (c.len : Int)) - now0 s).toNat

/-- SYNC is entered; sending starts at the next cluster cycle boundary (R281, R282). -/
def enterSync (s : State) : State :=
  let t := nextClusterCycle s
  let s := setNode s .sync
  { s with net := { s.net with sendFrom := t, refConflict := false } }

/-- What an accepted REFERENCE does to the node state (R281, R282). -/
def referenceNode (s : State) (pb : Bool) (theta : Int) (consistent : Bool) : State :=
  let pi : Int := s.net.sched.pi
  let m : Int := theta.natAbs
  let close := decide (4 * m ≤ pi)
  match s.net.node with
  | .listen =>
    let s := setNode s .integrating
    { s with net := { s.net with schedMismatch := false } }
  | .contend => enterListen s
  | .integrating =>
    let g := if close && consistent then s.net.good + 1 else 0
    if 2 ≤ g then enterSync s else { s with net := { s.net with good := g } }
  | .sync =>
    if pi < 2 * m then
      let conflict := s.bank.net.rank = 0
      let s := setNode s .silent
      let s := { s with net := { s.net with refConflict := conflict } }
      nodeRecord s 2 0x7004 pb (if conflict then 1 else 0) 0
    else s
  | .silent =>
    let g := if close then s.net.good + 1 else 0
    if 2 ≤ g then enterSync s else { s with net := { s.net with good := g } }

/-- The basic cycle whose start is nearest to an AX0 value: that of a REFERENCE that arrives at it (R278; DEDUCED, notes/assumptions 180). -/
def Schedule.nearest (c : Schedule) (t : Int) : Int := c.cycleOf (t + ((c.tb / 2 : Nat) : Int))

/-- A REFERENCE of the schedule in force or announced: theta, the discipline of AX0, the announced switch and the node state follow it
(R280 to R282, R292). A time master keeps the schedule it announces itself over a backup's repetition (R278, R292). -/
def followReference (s : State) (pb : Bool) (bs : List Byte) : State :=
  let p := fPayload bs
  let now := now0 s
  let port := nodePort s pb
  let theta := now - ((getDWord p 0).toInt + (getDWord p 8).toInt + (match port with | some n => delayOf s n | none => 0))
  let c := s.net.sched
  let b := c.nearest now
  let rank := (fRank bs).getD 4
  let s := modPlane s pb (fun x => { x with
    theta := theta, measured := true
    thetaMin := if x.measured then min x.thetaMin theta else theta
    thetaMax := if x.measured then max x.thetaMax theta else theta
    refOffsets := ((now - c.startOf b) :: x.refOffsets).take 16
    lastRef := some (rawNow s), lossSeen := false
    rankSeen := some (b, match x.rankSeen with | some (b', r) => if b' = b then min r rank else rank | none => rank) })
  let own := s.net.master && !(decide (rank < s.bank.net.rank))
  let s := { s with net := { s.net with
    nextId := if own then s.net.nextId else getWord p 20
    switchCount := if own then s.net.switchCount else getWord p 24
    master := own } }
  if refPlane s != pb then s
  else
    let s := if (axis s 0).src = 2 then discipline s (-theta) else s
    referenceNode s pb theta (fCycle bs = c.cyc b && fCcount bs = c.ccount b)

/-- REFERENCE_RECEIVE (R278, R280 to R282, R292). -/
def receiveReference (s : State) (pb : Bool) (bs : List Byte) : State :=
  if !domainOn s 5 || !s.bank.valid then s
  else if !(fcsGood bs && headerGood s bs && fKind bs = 1 && decide (30 + fLength bs + 4 ≤ bs.length)) || fNode bs = s.bank.net.deviceId
    then { s with net := { s.net with discarded := s.net.discarded + 1 } }
  else
    let id := fSched bs
    let own := s.bank.net.sched
    let s := if schedKnown s id then s else if own.id != 0 && id = own.id then switchSchedule s own pb else s
    if !schedKnown s id then foreignReference s pb
    else followReference s pb bs

/-- COLDSTART_RECEIVE (R282). -/
def receiveColdstart (s : State) (bs : List Byte) : State :=
  if !domainOn s 5 || !(frameGood s bs && fKind bs = 2) then { s with net := { s.net with discarded := s.net.discarded + 1 } }
  else if fNode bs = s.bank.net.deviceId then s
  else match s.net.node with
    | .listen => restartListen s
    | .contend => enterListen s
    | _ => s

/-- T_L in ns (R282). -/
def listenTime (s : State) : Nat := (2 * s.net.sched.len + s.bank.net.rank) * s.net.sched.tb

/-- LISTEN_TIMER_EXPIRY (R282): COLDSTART on both planes at the next basic cycle start. -/
def listenExpiry (s : State) : State :=
  let c := s.net.sched
  let held := match s.net.heldAt with
    | some t => !elapsed s t (4 * c.tb)
    | none => false
  if s.net.node = .listen && s.bank.net.rank ≤ 3 && sends s && c.id != 0 && elapsed s s.net.listenFrom (listenTime s) && !held then
    let b := c.cycleOf (now0 s) + 1
    let t := c.startOf b
    let s := setNode s .contend
    let s := { s with net := { s.net with coldAt := t, schedMismatch := false } }
    let payload := beDWord (BitVec.ofInt 64 t) ++ zeros 8
    [false, true].foldl (fun s pb => sendOn s pb t (flovisFrame s pb 2 0 (c.cyc b) (c.ccount b) payload)) s
  else s

/-- CONTENTION_END (R282): T_B has passed since the module's COLDSTART with no other frame. The module is the acting time master, and its
first REFERENCE leaves at this basic cycle start. -/
def contentionEnd (s : State) : State :=
  if s.net.node = .contend && decide (s.net.coldAt + (s.net.sched.tb : Int) ≤ now0 s) then
    let b := s.net.sched.cycleOf (now0 s)
    let s := setNode s .sync
    let s := { s with net := { s.net with master := true, sendFrom := rawNow s } }
    if planeSends s 0 then [false, true].foldl (fun s pb => sendReference s pb b (now0 s)) s else s
  else s

/-- No REFERENCE for 4 basic cycles on a plane. -/
def refLost (s : State) (pb : Bool) : Bool :=
  match (planeSt s pb).lastRef with
  | some t => elapsed s t (4 * s.net.sched.tb)
  | none => true

/-- The module itself has sent REFERENCE on a plane within 4 basic cycles (R282). -/
def sendsReference (s : State) (pb : Bool) : Bool :=
  match (planeSt s pb).sentRef with
  | some b => decide (s.net.sched.cycleOf (now0 s) < b + 4)
  | none => false

/-- REFERENCE_LOSS (R36, R282, R294): on one plane, or on both while the module sends none itself. -/
def referenceLoss (s : State) (p : Option Bool) : State :=
  match p with
  | some pb =>
    if refLost s pb && !sendsReference s pb && !(planeSt s pb).lossSeen && nodePort s pb != none then
      nodeRecord (modPlane s pb (fun x => { x with lossSeen := true })) 2 0x7006 pb 0 0
    else s
  | none =>
    if refLost s false && refLost s true then
      let s := if (axis s 0).src = 2 then sourceLost s else s
      if sendsReference s false || sendsReference s true then s
      else match s.net.node with
        | .integrating | .sync | .silent => enterListen { s with net := { s.net with refConflict := false } }
        | _ => s
    else s

/-- D_ref (R278). -/
def dRef (s : State) (pb : Bool) : Int :=
  let l := (planeSt s pb).refOffsets
  if l.isEmpty then 0 else l.foldl (· + ·) 0 / (l.length : Int)

/-- RANK_DEADLINE (R278): a backup sends REFERENCE on a plane where none of a lower rank has arrived in the basic cycle. -/
def rankDeadline (s : State) (pb : Bool) : State :=
  let r := s.bank.net.rank
  match cycleAt s 0 with
  | some (b, off) =>
    let seen := match (planeSt s pb).rankSeen with
      | some (b', r') => b' = b && decide (r' < r)
      | none => false
    if 1 ≤ r && r ≤ 3 && planeSends s 0 && !seen && (planeSt s pb).sentRef != some b
        && decide ((r : Int) * 2000 + dRef s pb ≤ off) then sendReference s pb b (now0 s)
    else s
  | none => s

/-! ### The star: ports, cells and copies (R267, R279, R286, R287) -/

/-- The plane the module is a star of (R265). -/
def starPlane (s : State) : Option Bool := if isStar s false then some false else if isStar s true then some true else none
/-- The module is a root star (R265). -/
def isRoot (s : State) : Bool :=
  match starPlane s with
  | some pb => (portsOf s pb 3).isEmpty
  | none => false
/-- The star is integrated (R284). -/
def integrated (s : State) : Bool := s.net.node = .sync
/-- A sluice. -/
def sluice (s : State) (n : Nat) : Sluice := s.net.sluices.getD n {}
/-- A sluice changed. -/
def modSluice (s : State) (n : Nat) (f : Sluice → Sluice) : State := { s with net := { s.net with sluices := upd s.net.sluices n f } }

/-- The port of a sluice: the consist ports, and the internal port as sluice 8. -/
def sluicePort (n : Nat) : Nat := if n = 8 then portInternal else n
/-- Speed code of a sluice port; the internal port works at 1000 Mbit/s. -/
def sluiceSpeed (s : State) (n : Nat) : Nat := if n = 8 then 2 else (linkPort s n).speed
/-- A byte on the wire of a sluice port in ns (R274). -/
def portByteNs (s : State) (n : Nat) : Nat := if sluiceSpeed s n = 1 then 80 else 8

/-- Cells of a frame (R286). -/
def cellsOf (n : Nat) : Nat := (n + 255) / 256
/-- Free cells (R286). -/
def freeCells (s : State) : Nat := 8192 - (s.net.descs.map (·.cells)).foldl (· + ·) 0
/-- Free descriptors (R286). -/
def freeDescs (s : State) : Nat := 4096 - s.net.descs.length
/-- A descriptor and its cells return to the free lists (R286). -/
def freeDesc (s : State) (id : Nat) : State := { s with net := { s.net with descs := s.net.descs.filter (fun d => d.id ≠ id) } }
/-- A descriptor changed. -/
def modDesc (s : State) (id : Nat) (f : Desc → Desc) : State :=
  { s with net := { s.net with descs := s.net.descs.map (fun d => if d.id = id then f d else d) } }

/-- The egress ports of a frame that entered at a port: every STAR and UPLINK port of the plane but that one, and the internal
port, which is number 8 here (R267). -/
def egressPorts (s : State) (pb : Bool) (n : Nat) : List Nat :=
  (portsOf s pb 2 ++ portsOf s pb 3).filter (· ≠ n) ++ (if n = 8 then [] else [8])

/-- SOF to SOF latency of a frame from one port to another in ns (R267). A frame that leaves more slowly than it entered starts 1,200 ns
after its reception (DEDUCED, notes/assumptions 180). -/
def latency (s : State) (n m len : Nat) : Nat :=
  if sluiceSpeed s n = 1 then 4000
  else if sluiceSpeed s m = 1 then 1200 + 8 * (len + 8) else 1200

/-- Where the PTP header of a frame stands, and whether the frame is UDP (R297, R299). -/
def ptpHeader (bs : List Byte) : Option (Nat × Bool) :=
  if fType bs = 0x88F7 then some (14, false)
  else if fType bs = 0x0800 && getByte bs 14 = 0x45 && getByte bs 23 = 17 && (getNat bs 36 2 = 319 || getNat bs 36 2 = 320) then some (42, true)
  else none

/-- A frame is a peer-delay message: Pdelay_Req, Pdelay_Resp or Pdelay_Resp_Follow_Up (R297, R299). -/
def isPeerDelay (bs : List Byte) : Bool :=
  match ptpHeader bs with
  | some (o, _) => let msg := getByte bs o % 16; msg = 2 || msg = 3 || msg = 10
  | none => false

/-- The egress ports on which a frame that entered at a port is forwarded: a port in TC or ONESTEP does not pass peer-delay messages
under P2P (R299). -/
def peerFree (s : State) (n : Nat) (egress : List Nat) (bs : List Byte) : List Nat :=
  if isPeerDelay bs && s.bank.valid && bit s.bank.ptp.flags 3 then
    if n < 8 && ptpMode s n != 0 then [] else egress.filter (fun m => m = 8 || ptpMode s m = 0)
  else egress

/-- Bytes put over others at an offset. -/
def patch (bs : List Byte) (off : Nat) (v : List Byte) : List Byte := bs.take off ++ v ++ bs.drop (off + v.length)

/-- A frame as it leaves an egress port `lat` ns after its ingress SOF: residence time and path delay enter the correction of REFERENCE
(R280) and of PTP event messages (R299), and the FCS is formed again. The internal port has no PTP mode. -/
def corrected (s : State) (n m lat : Nat) (bs : List Byte) : List Byte :=
  let body := bs.take (bs.length - 4)
  if fType bs = s.bank.net.ethertype && fKind bs = 1 then
    let add : Int := (lat : Int) + delayOf s (sluicePort n)
    withFcs (patch body 38 (beDWord (getDWord bs 38 + BitVec.ofInt 64 add)))
  else
    match ptpHeader bs with
    | some (o, udp) =>
      let msg := getByte bs o % 16
      if m = 8 || ptpMode s m = 0 || 4 ≤ msg then bs
      else
        let peer : Int := if bit s.bank.ptp.flags 3 && msg = 0 then (linkPort s n).peerDelay else 0
        let v := getDWord bs (o + 8) + BitVec.ofInt 64 (((lat : Int) + peer) * 65536)
        let body := patch body (o + 8) (beDWord v)
        withFcs (if udp then patch body 40 [0, 0] else body)
    | none => bs

/-- A copy of a frame starts `lat` ns after its ingress SOF and leaves whole (R267, R280, R299). -/
def copyOut (s : State) (d : Desc) (m lat : Nat) : State :=
  emit s (.frame (sluicePort m) (d.sof + (lat : Int)) (corrected s d.port m lat d.bytes))

/-- The egress copies of a frame that have started are ended at a raw AX0 count: each with the complement of the FCS of the bytes already
sent, of those received by then (R287). -/
def endCopies (s : State) (d : Desc) (t : Nat) : State :=
  if d.queued then s
  else d.egress.foldl (fun s m =>
    let lat := latency s d.port m d.bytes.length
    if d.since + lat < t then
      let k := min ((t - (d.since + lat)) / portByteNs s m - 8) ((t - d.since) / portByteNs s d.port - 8)
      let part := (corrected s d.port m lat d.bytes).take k
      emit s (.frame (sluicePort m) (d.sof + (lat : Int)) (part ++ (fcsBytes part).map (~~~ ·)))
    else s) s

/-- The port's run of violations is that before a frame which was not forwarded to its end (R288). -/
def restoreRun (s : State) (d : Desc) : State := modSluice s d.port (fun x => { x with run := d.run })

/-- A frame is dropped at a raw AX0 count, for want of cells (reason 1) or for a parity error of the buffer (reason 2): its copies end, its
descriptor and cells return, the drop is counted and recorded (R16, R285, R286). -/
def dropFrame (s : State) (d : Desc) (t reason : Nat) : State :=
  let s := restoreRun (freeDesc (endCopies s d t) d.id) d
  let s := modSluice s d.port (fun x => if reason = 2 then { x with parity := x.parity + 1 } else { x with drops := x.drops + 1 })
  netRecord s 1 0x7002 ((starPlane s).getD false) (sluicePort d.port) (fNode d.bytes) reason (fSlot d.bytes)

/-- Raw AX0 count at which a frame in reception takes its next cell: as the first byte of the cell arrives (R286); none when it takes no
more. Bytes beyond 1,518 are not kept (R287). -/
def nextCell (s : State) (d : Desc) : Option Nat :=
  if d.cut || cellsOf (min d.bytes.length 1518) ≤ d.cells then none
  else some (d.since + (8 + 256 * d.cells) * portByteNs s d.port)

/-- The frame that takes a cell first of those that have by now, and when. -/
def firstCell (s : State) : Option (Nat × Desc) :=
  s.net.descs.foldl (fun best d =>
    match nextCell s d, best with
    | some t, none => if t ≤ rawNow s then some (t, d) else none
    | some t, some (t', d') => if t ≤ rawNow s && t < t' then some (t, d) else some (t', d')
    | none, b => b) none

/-- The cells that bytes have taken up to now, in the order of their arrival; a frame that finds none free is dropped (R286). -/
def takeCells : Nat → State → State
  | 0, s => s
  | k + 1, s =>
    match firstCell s with
    | some (t, d) =>
      takeCells k (if freeCells s = 0 then dropFrame s d t 1 else modDesc s d.id (fun d => { d with cells := d.cells + 1 }))
    | none => s

/-- The switch frame buffer as it stands now (R286). -/
def settle (s : State) : State := takeCells ((s.net.descs.map (fun d => cellsOf d.bytes.length)).foldl (· + ·) 0) s

/-! ### Violations (R288, R294) -/

/-- Kinds of violation as the records number them: 1 WINDOW, 2 OWNER, 3 CUT, 4 KIND (R294, R455). -/
def violate (s : State) (pb : Bool) (n kind device slot : Nat) : State :=
  let s := modSluice s n (fun x => { x with
    window := x.window + b2n (kind = 1), owner := x.owner + b2n (kind = 2), cut := x.cut + b2n (kind = 3)
    kind := x.kind + b2n (kind = 4), run := x.run + 1 })
  let s := netRecord s 1 0x7001 pb (sluicePort n) device kind slot
  if 3 ≤ (sluice s n).run && (sluice s n).quar.isNone then
    let c := s.net.sched
    let k := c.cluster (c.cycleOf (now0 s)) + 1 + (s.bank.net.quar : Int)
    let s := modSluice s n (fun x => { x with quar := some k, quarantines := x.quarantines + 1 })
    setIrq (netRecord s 2 0x7003 pb (sluicePort n) device kind slot) irqNet
  else s

/-- The violation counter of a port is zero (R288); frames in reception keep no older count. -/
def clearRun (s : State) (n : Nat) : State :=
  let s := modSluice s n (fun x => { x with run := 0 })
  { s with net := { s.net with descs := s.net.descs.map (fun d => if d.port = n then { d with run := 0 } else d) } }
/-- A quarantine ends: the port is judged afresh (R288). -/
def endQuarantine (s : State) (n : Nat) : State := clearRun (modSluice s n (fun x => { x with quar := none })) n

/-- A frame takes a descriptor and is forwarded, or queued for later OPEN windows; or it is dropped for want of a descriptor (R285, R286).
The port's violation run ends (R288) unless the frame is cut or dropped later. -/
def forward (s : State) (pb : Bool) (n : Nat) (egress : List Nat) (bs : List Byte) (queue : Bool) (ends : Option Nat) : State :=
  let egress := peerFree s n egress bs
  if egress.isEmpty then modSluice s n (fun x => { x with run := 0 })
  else if freeDescs s = 0 then
    netRecord (modSluice s n (fun x => { x with drops := x.drops + 1 })) 1 0x7002 pb (sluicePort n) (fNode bs) 0 (fSlot bs)
  else
    let d : Desc := { id := s.net.nextDesc, port := n, egress := egress, bytes := bs, since := rawNow s, sof := now0 s, ends := ends
                      queued := queue, run := (sluice s n).run }
    let s := modSluice s n (fun x => { x with run := 0 })
    { s with net := { s.net with descs := s.net.descs ++ [d], nextDesc := s.net.nextDesc + 1 } }

/-! ### Link delays (R279) -/

/-- A port measures its link delay (R279). -/
def measuresDelay (s : State) (n : Nat) : Bool := (portCfg s n).role != 0 && (portCfg s n).linkDelay = 0
/-- A received frame is rejected (R271). -/
def reject (s : State) : State := { s with net := { s.net with discarded := s.net.discarded + 1 } }
/-- A frame on a quarantined star port goes nowhere (R288). -/
def portBlocked (s : State) (n : Nat) : Bool := (portCfg s n).role = 2 && (sluice s n).quar.isSome
/-- A frame is a DELAY_REQ (1) or a DELAY_RESP (2) (R269). -/
def isDelay (bs : List Byte) (subtype : Nat) : Bool := fKind bs = 6 && getByte (fPayload bs) 0 = subtype

/-- DELAY_REQ: one per cluster cycle and port, in an OPEN window in which it fits (R279); nothing is sent in SILENT (R281). -/
def sendDelayReq (s : State) (n : Nat) : State :=
  let pb := (portCfg s n).planeB
  let c := s.net.sched
  let b := c.cycleOf (now0 s)
  let fits := match openLeft s pb with
    | some left => decide ((84 * portByteNs s n : Nat) ≤ left)
    | none => false
  if measuresDelay s n && portUp s n && s.net.node != .silent && !cutBack s && fits && (linkPort s n).askedIn != some (c.cluster b) then
    let p := { linkPort s n with asked := some (now0 s), askedIn := some (c.cluster b) }
    emit { s with net := { s.net with ports := upd s.net.ports n (fun _ => p) } }
      (.frame n (now0 s) (flovisFrame s pb 6 0 (c.cyc b) (c.ccount b) ([1, 0, 0, 0] ++ zeros 16)))
  else s

/-- DELAY_RESP: a measurement of the port's link delay (R271, R279). -/
def takeDelayResp (s : State) (n : Nat) (bs : List Byte) : State :=
  if !portUp s n || (portCfg s n).role = 0 || portBlocked s n then s
  else if !(frameGood s bs && isDelay bs 2) then reject s
  else match (linkPort s n).asked with
    | some t1 =>
      let p := fPayload bs
      let t2 := (getDWord p 4).toInt
      let t3 := (getDWord p 12).toInt
      let d := ((now0 s - t1) - (t3 - t2)) / 2
      { s with net := { s.net with ports := upd s.net.ports n (fun l => { l with asked := none, delays := (d :: l.delays).take 16 }) } }
    | none => s

/-- DELAY_REQ_RECEIVE (R271, R279): answered with the SOF times of the request and of the response, which leaves behind the request's
reception; not forwarded. An integrated star answers in OPEN windows only (R285), and the sluice has judged the frame (notes/assumptions
180); nothing is sent in SILENT (R281). -/
def answerDelayReq (s : State) (n : Nat) (bs : List Byte) : State :=
  let pb := (portCfg s n).planeB
  let c := s.net.sched
  let b := c.cycleOf (now0 s)
  if !portUp s n || (portCfg s n).role = 0 || portBlocked s n then s
  else if !(frameGood s bs && isDelay bs 1) then reject s
  else if s.net.node = .silent || cutBack s || ((portCfg s n).role = 2 && integrated s && (openLeft s pb).isNone) then s
  else
    let t3 := now0 s + (((bs.length + 20) * portByteNs s n : Nat) : Int)
    emit s (.frame n t3 (flovisFrame s pb 6 0 (c.cyc b) (c.ccount b)
      ([2, 0, 0, 0] ++ beDWord (ax0 s) ++ beDWord (BitVec.ofInt 64 t3))))

/-! ### The sluice (R283 to R285) -/

/-- Entries whose START lies within Π of now, in this basic cycle or the next: cycle, entry, offset (R285). -/
def nearSlots (s : State) (pb : Bool) : List (Int × SchedEntry × Int) :=
  match cycleAt s 0 with
  | some (b, off) =>
    let c := s.net.sched
    [(b, off), (b + 1, off - (c.tb : Int))].flatMap (fun (b, off) =>
      (c.entries.filter (fun e => e.present (c.cyc b) pb)).filterMap (fun e =>
        let d := off - (e.start : Int)
        if d.natAbs ≤ c.pi then some (b, e, d) else none))
  | none => []

/-- Raw AX0 count at which a slot ends, from the offset of now to its START (R287). -/
def slotEnds (s : State) (e : SchedEntry) (d : Int) : Nat := rawNow s + ((e.length : Int) - d).toNat

/-- A device is mapped to a sluice port (R277). -/
def mappedTo (s : State) (pb : Bool) (device n : Nat) : Bool :=
  s.bank.net.map.any (fun m => m.device = device && m.port = n && m.planeB = pb)

/-- The device that owns a slot, or leases a SPARE one (R285). -/
def slotOwner (s : State) (e : SchedEntry) : Option Nat :=
  if e.ty = 2 then some e.owner else if e.ty = 3 then (s.net.leases.find? (fun l => l.slot = e.slot)).map (·.device) else none

/-- The ranks that may reach a star through a port: RANKS, and the module's own through the internal port (R277, R285). -/
def portRanks (s : State) (n : Nat) : Nat :=
  if n = 8 then (if s.bank.net.rank ≤ 3 then 2 ^ s.bank.net.rank else 0) else (portCfg s n).ranks

/-- The GRANT payload of a root star: leases, the decision of the last claim, and revoked leases (R269, R290). -/
def grantPayload (s : State) : List Byte :=
  let e := fun (d slot st : Nat) => be16 d ++ [BitVec.ofNat 8 slot, BitVec.ofNat 8 st]
  let ls := s.net.leases.map (fun l => e l.device l.slot 0)
  let ds := match s.net.decision with
    | some (d, slot, st) => [e d slot st]
    | none => []
  let rs := s.net.revoked.map (fun (slot, d) => e d slot 4)
  let all := ls ++ ds ++ rs
  be16 all.length ++ zeros 2 ++ all.flatten

/-- A root star sends GRANT directly behind the copies of the REFERENCE that it forwards from a port, in the first basic cycle of a cluster
cycle and after each decision (R290). -/
def sendGrant (s : State) (pb : Bool) (b : Int) (n len : Nat) : State :=
  let c := s.net.sched
  if isRoot s && (c.cyc b = 0 || s.net.decision.isSome) then
    let f := flovisFrame s pb 5 0 (c.cyc b) (c.ccount b) (grantPayload s)
    let s := (portsOf s pb 2 ++ [8]).foldl (fun s m =>
      emit s (.frame (sluicePort m) (now0 s + ((latency s n m len + (len + 20) * portByteNs s m : Nat) : Int)) f)) s
    { s with net := { s.net with decision := none, revoked := [] } }
  else s

/-- Of two frames of one kind on one 2 ns tick the one on the lower port goes on (R283, R285): the frame that entered at a port on this tick
is taken back before a byte of it has left. -/
def takeBack (s : State) (n : Nat) : State :=
  { s with net := { s.net with descs := s.net.descs.filter (fun d => !(d.port = n && d.since = rawNow s)) } }

/-- A star that is not integrated (R283, R284): the first COLDSTART in T_B, on a tie that of the lower port, and one REFERENCE in T_B, from
ports with RANKS. -/
def ingressAlone (s : State) (pb : Bool) (n : Nat) (bs : List Byte) : State :=
  let now := rawNow s
  let blocked := fun (s : State) (n : Nat) => modSluice s n (fun x => { x with coldBlocked := x.coldBlocked + 1 })
  if portRanks s n = 0 || !headerGood s bs then s
  else if fKind bs = 2 then
    let go := fun (s : State) =>
      forward { s with net := { s.net with coldFwd := some (now, n) } } pb n (egressPorts s pb n) bs false none
    match s.net.coldFwd with
    | some (t, n') =>
      if elapsed s t s.net.sched.tb then go s
      else if t = now && n < n' then go (blocked (takeBack s n') n')
      else blocked s n
    | none => go s
  else if fKind bs = 1 then
    if s.net.refFwd.any (fun t => !elapsed s t s.net.sched.tb) then s
    else forward { s with net := { s.net with refFwd := some now } } pb n (egressPorts s pb n) bs false none
  else s

/-- A best-effort frame in an OPEN window: its copies start where each fits before the window ends, and it is queued where not (R285). -/
def bestEffort (s : State) (pb : Bool) (n : Nat) (bs : List Byte) : State :=
  match openLeft s pb with
  | some left =>
    let out := egressPorts s pb n
    let fits := out.all (fun m => decide ((latency s n m bs.length + (bs.length + 20) * portByteNs s m : Nat) ≤ left))
    forward s pb n out bs (!fits) (some (rawNow s + left.toNat))
  | none => violate s pb n 1 (fNode bs) (fSlot bs)

/-- A CLAIM in the CLAIM slot (R285): the first passes, on a tie that of the lower port; the root star consumes it, and a sub-star forwards
it on its UPLINK. -/
def claimIngress (s : State) (pb : Bool) (n : Nat) (bs : List Byte) (b : Int) (e : SchedEntry) (d : Int) : State :=
  let k := s.net.sched.cluster b
  let pass := fun (s : State) =>
    let s := { s with net := { s.net with claimIn := some { cycle := k, since := rawNow s, port := n, bytes := bs } } }
    if isRoot s then modSluice s n (fun x => { x with run := 0 }) else forward s pb n (portsOf s pb 3) bs false (some (slotEnds s e d))
  match s.net.claimIn with
  | some x =>
    if x.cycle != k then pass s
    else if x.since = rawNow s && n < x.port then pass (takeBack s x.port)
    else s
  | none => pass s

/-- The sluice of an integrated star (R285). -/
def sluiceJudge (s : State) (pb : Bool) (n : Nat) (bs : List Byte) : State :=
  let c := s.net.sched
  let out := egressPorts s pb n
  let bad := fun (kind : Nat) => violate s pb n kind (fNode bs) (fSlot bs)
  if fType bs != s.bank.net.ethertype then bestEffort s pb n bs
  else if !headerGood s bs then bad 4
  else match fKind bs with
    | 3 =>
      let near := nearSlots s pb
      let s := match near with
        | (_, _, d) :: _ => modSluice s n (fun x => { x with sof := d })
        | [] => s
      let mine := near.filter (fun (_, e, _) => match slotOwner s e with | some d => mappedTo s pb d n | none => false)
      let bad := fun (kind : Nat) => violate s pb n kind (fNode bs) (fSlot bs)
      match mine.find? (fun (b, e, _) => slotOwner s e = some (fNode bs) && fSlot bs = e.slot && fCycle bs = c.cyc b
          && fCcount bs = c.ccount b && schedKnown s (fSched bs)) with
      | some (b, e, d) =>
        let s := if e.ty = 3 then
            { s with net := { s.net with leases := s.net.leases.map (fun l =>
              if l.slot = e.slot then { l with last := c.cluster b } else l) } }
          else s
        forward s pb n out bs false (some (slotEnds s e d))
      | none => if mine.isEmpty then bad 1 else bad 2
    | 1 =>
      match cycleAt s 0 with
      | some (b, off) =>
        let rank := (fRank bs).getD 4
        let early := decide ((c.tb : Int) - (c.pi : Int) ≤ off)
        let k := if early then b + 1 else b
        let off := if early then off - (c.tb : Int) else off
        if !decide (off ≤ (rank : Int) * 2000 + 6000 + (c.pi : Int)) then bad 1
        else if !bit (portRanks s n) rank || s.net.refCycle = some k then s
        else
          let ends := (slotEntry s pb 0 k).map (fun e => slotEnds s e off)
          let s := { s with net := { s.net with refCycle := some k } }
          sendGrant (forward s pb n out bs false ends) pb k n bs.length
      | none => bad 1
    | 4 =>
      match (nearSlots s pb).find? (fun (_, e, _) => e.ty = 4) with
      | some (b, e, d) => claimIngress s pb n bs b e d
      | none => bad 1
    | 6 =>
      if getByte (fPayload bs) 0 = 3 then bestEffort s pb n bs
      else match openLeft s pb with
        | some _ => s
        | none => bad 1
    | _ => bad 4

/-- FLOVIS_FRAME_INGRESS (R267, R283 to R288). A sub-star that is integrated does not judge what comes on its UPLINK (R267); DELAY frames end
at the port (R279). -/
def frameIngress (s : State) (n : Nat) (bs : List Byte) : State :=
  match starPlane s with
  | some pb =>
    let s := settle s
    let role := if n = 8 then 2 else if (portCfg s n).planeB = pb then (portCfg s n).role else 0
    let delay := fType bs = s.bank.net.ethertype && fKind bs = 6 && getByte (fPayload bs) 0 != 3
    if !domainOn s 5 || bs.length < 18 then s
    else if role != 2 && role != 3 then s
    else if role = 2 && (sluice s n).quar.isSome then modSluice s n (fun x => { x with quarBlocked := x.quarBlocked + 1 })
    else if !integrated s then ingressAlone s pb n bs
    else if role = 3 then (if delay then s else forward s pb n (portsOf s pb 2 ++ [8]) bs false none)
    else sluiceJudge s pb n bs
  | none => s

/-! ### The end of a frame (R286, R287) -/

/-- Raw AX0 count at which a frame's transmission at the ingress ends. -/
def Desc.received (s : State) (d : Desc) : Nat := d.since + (8 + d.bytes.length) * portByteNs s d.port

/-- Raw AX0 count at which a frame is cut at the end of its slot or window (R287). -/
def Desc.cutAtEnd (s : State) (d : Desc) : Option Nat := d.ends.filter (fun e => decide (e < d.received s))
/-- Raw AX0 count at which a frame is cut at byte 1,518 (R287). -/
def Desc.cutAtLimit (s : State) (d : Desc) : Option Nat :=
  if 1518 < d.bytes.length then some (d.since + (8 + 1518) * portByteNs s d.port) else none

/-- FRAME_CUT (R287): at the end of the slot or window, or at byte 1,518. The frame's copies end there, and a frame that waited in a queue goes
nowhere. The violation follows those before the frame (R288). -/
def frameCut (s : State) (n : Nat) (slotEnd : Bool) : State :=
  let s := settle s
  let due := fun (d : Desc) => (if slotEnd then d.cutAtEnd s else d.cutAtLimit s).filter (fun t => decide (t ≤ rawNow s))
  match s.net.descs.find? (fun d => d.port = n && !d.cut && (due d).isSome) with
  | some d =>
    let s := endCopies s d ((due d).getD 0)
    let s := if d.queued then freeDesc s d.id else modDesc s d.id (fun d => { d with cut := true })
    violate (restoreRun s d) ((starPlane s).getD false) n 3 (fNode d.bytes) (fSlot d.bytes)
  | none => s

/-- QUARANTINE_END (R288). -/
def quarantineEnd (s : State) (n : Nat) : State :=
  match (sluice s n).quar with
  | some k =>
    let c := s.net.sched
    if k ≤ c.cluster (c.cycleOf (now0 s)) then endQuarantine s n else s
  | none => s

/-- OPEN_AGE_EXPIRY (R285). -/
def openAgeExpiry (s : State) (id : Nat) : State :=
  let s := settle s
  match s.net.descs.find? (fun d => d.id = id) with
  | some d => if d.queued && elapsed s d.since (s.bank.net.openAge * 1000000) then freeDesc s id else s
  | none => s

/-- The time in ns that the copies of a queued frame take, the longest of them. -/
def Desc.wire (s : State) (d : Desc) : Nat := (d.egress.map (fun m => (d.bytes.length + 20) * portByteNs s m)).foldl max 0

/-- The last copy of a frame has left (R286): of one that waited, in an OPEN window that holds the whole of it, begun after its reception
(R285); of another, when all its bytes have been sent. A frame that is due to be cut does not leave whole (R287). -/
def lastCopy (s : State) (d : Desc) : State :=
  let now := rawNow s
  if d.cut then freeDesc s d.id
  else if (d.cutAtEnd s).isSome || (d.cutAtLimit s).isSome then s
  else if d.queued then
    let wire := d.wire s
    match openFrom s ((starPlane s).getD false) (-(wire : Int)) with
    | some left =>
      if (wire : Int) ≤ left && d.received s + wire ≤ now then
        freeDesc (d.egress.foldl (fun s m => copyOut s { d with sof := now0 s - (wire : Int) - ((now - wire - d.since : Nat) : Int) } m
          (now - wire - d.since)) s) d.id
      else s
    | none => s
  else if d.egress.all (fun m => decide (d.since + latency s d.port m d.bytes.length + (8 + d.bytes.length) * portByteNs s m ≤ now)) then
    freeDesc (d.egress.foldl (fun s m => copyOut s d m (latency s d.port m d.bytes.length)) s) d.id
  else s

/-- EGRESS_COPY_LEFT (R286): with the last copy the descriptor and its cells are freed; a frame for which the buffer fails its parity is
dropped (R16). -/
def egressCopyLeft (s : State) (x : EgressEnd) : State :=
  let s := settle s
  match s.net.descs.find? (fun d => d.id = x.desc) with
  | some d => if x.parity then dropFrame s d (rawNow s) 2 else lastCopy s d
  | none => s

/-! ### Spare slots (R289 to R291) -/

/-- The decision of a root star on a claim (R290): 1 GRANTED, 2 TAKEN, 3 NOT_ELIGIBLE. -/
def claimDecision (s : State) (pb : Bool) (n device want : Nat) : Nat :=
  match s.net.sched.entries.find? (fun e => e.ty = 3 && e.slot = want && bit e.planes (b2n pb)),
      s.net.leases.find? (fun l => l.slot = want) with
  | some e, none => if bit e.owner n then 1 else 3
  | some _, some l => if l.device = device then 3 else 2
  | none, _ => 3

/-- CLAIM (R271, R290): the root star decides the claim that its sluice consumed, once it is received. -/
def decideClaim (s : State) (n : Nat) (bs : List Byte) : State :=
  match starPlane s, s.net.claimIn with
  | some pb, some x =>
    if !isRoot s || !integrated s || x.decided || x.port != n || x.bytes != bs
        || !elapsed s x.since ((8 + bs.length) * portByteNs s n) then s
    else
      let s := { s with net := { s.net with claimIn := some { x with decided := true } } }
      if !(frameGood s bs && fKind bs = 4) then reject s
      else
        let want := getByte (fPayload bs) 0
        let device := fNode bs
        let c := s.net.sched
        let r := claimDecision s pb n device want
        let s := { s with net := { s.net with decision := some (device, want, r) } }
        if r = 1 then
          netRecord { s with net := { s.net with
            leases := s.net.leases ++ [{ slot := want, device := device, port := n, last := c.cluster (c.cycleOf (now0 s)) }] } }
            0 0x7007 pb (sluicePort n) device 0 want
        else s
  | _, _ => s

/-- The state of the module's claim of a slot on a plane as R295 reports it: as in GRANT, 0xFF for a plane not named; none while undecided. -/
def claimState (s : State) (planes slot : Nat) (pb : Bool) : Option Nat :=
  if !bit planes (b2n pb) then some 0xFF
  else if leased s pb slot then some 1 else getKey slot (planeSt s pb).decided

/-- The SLOT_CLAIM that waits ends with NO_SPACE on the first denial, and with OK once every named plane has granted (R295). -/
def endSlotClaim (s : State) : State :=
  match s.net.claimCmd with
  | some (mb, slot, planes, _) =>
    let a := claimState s planes slot false
    let b := claimState s planes slot true
    let done := { s with net := { s.net with claimCmd := none, claims := s.net.claims.filter (fun x => x.slot ≠ slot) } }
    let denied := fun (x : Option Nat) => x = some 2 || x = some 3
    if denied a || denied b then resultMb done mb 0x0A
    else match a, b with
      | some a, some b => finishMb done mb 0 [BitVec.ofNat 32 (a + 256 * b)]
      | _, _ => s
  | none => s

/-- The entries of a GRANT: device, slot, state (R269). -/
def grantEntries (p : List Byte) : List (Nat × Nat × Nat) :=
  (List.range (getNat p 0 2)).map (fun i => (getNat p (4 + 4 * i) 2, getByte p (6 + 4 * i), getByte p (7 + 4 * i)))

/-- The entries of a good GRANT: what the module and a sub-star know of the leases, and the decision on a claim (R289 to R291, R295). -/
def followGrant (s : State) (pb : Bool) (bs : List Byte) : State :=
  let es := grantEntries (fPayload bs)
  let me := s.bank.net.deviceId
  let live := es.filter (fun e => e.2.2 = 0 || e.2.2 = 1)
  let mine := live.filter (fun e => e.1 = me)
  let gone := (es.filter (fun e => e.1 = me && e.2.2 = 4)).map (fun e => e.2.1)
  let s := modPlane s pb (fun x => { x with
    known := live.map (fun e => (e.2.1, e.1))
    own :=
      (if s.net.node = .sync then
        (mine.map (fun e => (e.2.1, 0)))
          ++ (x.own.filter (fun o => !(mine.any (fun e => e.2.1 = o.1)) && !(o.1 ∈ gone) && o.2 = 0)).map (fun o => (o.1, 1))
      else [])
    decided := ((es.filter (fun e => e.1 = me && (e.2.2 = 2 || e.2.2 = 3))).map (fun e => (e.2.1, e.2.2)))
      ++ x.decided.filter (fun d => !(es.any (fun e => e.1 = me && e.2.1 = d.1))) })
  let s :=
    if starPlane s = some pb && !isRoot s then
      let k := s.net.sched.cluster (s.net.sched.cycleOf (now0 s))
      { s with net := { s.net with leases := live.map (fun e => { slot := e.2.1, device := e.1, port := 0, last := k }) } }
    else s
  let s := { s with net := { s.net with claims := s.net.claims.filter (fun x =>
    [false, true].any (fun pb => bit x.planes (b2n pb) && undecided s pb x.slot) || (s.net.claimCmd.any (fun y => y.2.1 = x.slot))) } }
  endSlotClaim s

/-- GRANT (R290, R291): leases at a device, and at a sub-star's sluices. -/
def receiveGrant (s : State) (pb : Bool) (bs : List Byte) : State :=
  if !domainOn s 5 || !(frameGood s bs && fKind bs = 5) then { s with net := { s.net with discarded := s.net.discarded + 1 } }
  else followGrant s pb bs

/-- LEASE_LAPSE (R291): 256 complete cluster cycles have passed since that of the last forwarded frame. -/
def leaseLapse (s : State) (pb : Bool) (slot : Nat) : State :=
  let k := s.net.sched.cluster (s.net.sched.cycleOf (now0 s))
  match s.net.leases.find? (fun l => l.slot = slot) with
  | some l =>
    if isRoot s && starPlane s = some pb && decide (l.last + 257 ≤ k) then
      netRecord { s with net := { s.net with leases := s.net.leases.filter (fun l => l.slot ≠ slot) } }
        0 0x7007 pb (sluicePort l.port) l.device 1 slot
    else s
  | none => s

/-- A device yields a spare slot only by GRANT; a star that loses its ports' leases lists them as revoked (R291). -/
def revokeLeases (s : State) (n : Nat) : State :=
  let pb := (starPlane s).getD false
  let gone := s.net.leases.filter (fun l => l.port = n)
  let s := { s with net := { s.net with
    leases := s.net.leases.filter (fun l => l.port ≠ n)
    revoked := s.net.revoked ++ gone.map (fun l => (l.slot, l.device)) } }
  gone.foldl (fun s l => netRecord s 0 0x7007 pb (sluicePort l.port) l.device 2 l.slot) s

/-! ### Schedule changes (R292) -/

/-- AX0 value at which the announced schedule takes over (R292): of the boundary of the old lattice at which CCOUNT equals SWITCH_COUNT, or
of the first basic cycle start of the new schedule at or after it, where the module holds that. -/
def switchInstant (s : State) : Int :=
  let c := s.net.sched
  let b := c.cycleOf (now0 s)
  let t := c.startOf ((c.cluster b + (s.net.switchCount - c.ccount b).toInt) * (c.len : Int))
  let n := s.bank.net.sched
  if n.id = s.net.nextId then n.startOf (-(((n.phase : Int) - t) / (n.tb : Int))) else t

/-- SCHEDULE_SWITCH (R292): a device that holds the announced schedule switches to it, and another enters SCHED_MISMATCH. -/
def scheduleSwitch (s : State) : State :=
  if s.net.nextId = 0 || s.net.nextId = s.net.sched.id || decide (now0 s < switchInstant s) then s
  else if s.bank.net.sched.id = s.net.nextId then switchSchedule s s.bank.net.sched (refPlane s)
  else
    let s := mismatch (enterListen s) (refPlane s)
    { s with net := { s.net with nextId := 0, switchCount := 0 } }

/-- A configuration bank takes effect: the node keeps its schedule and, as acting time master, announces the new one; a node
without a schedule takes it (R292). -/
def adoptSchedule (s : State) : State :=
  let new := s.bank.net.sched
  let c := s.net.sched
  if c.id = 0 then { s with net := { s.net with sched := new, listenFrom := rawNow s } }
  else if new.id = c.id || new.id = 0 then s
  else if s.net.node = .sync && s.net.master then
    { s with net := { s.net with nextId := new.id, switchCount := c.ccount (c.cycleOf (now0 s)) + 16 } }
  else s

/-! ### DATA frames (R271) -/

/-- A DATA frame is accepted: its slot is the current one and its sender owns or leases it (R271). The window reaches from Π before
START to the end of the slot. -/
def dataGood (s : State) (pb : Bool) (bs : List Byte) : Bool :=
  let c := s.net.sched
  frameGood s bs && fKind bs = 3 &&
    (match cycleAt s 0 with
      | some (b, off) =>
        fCycle bs = c.cyc b && fCcount bs = c.ccount b &&
          (match slotEntry s pb (fSlot bs) b with
            | some e =>
              decide ((e.start : Int) - (c.pi : Int) ≤ off) && decide (off < (e.start + e.length : Nat)) &&
                ((e.ty = 2 && e.owner = fNode bs) || (e.ty = 3 && getKey e.slot (planeSt s pb).known = some (fNode bs)))
            | none => false)
      | none => false)

/-- The containers of a DATA payload: TYPE, DST and body (R270). -/
def containers : Nat → List Byte → List (Nat × Nat × List Byte)
  | 0, _ => []
  | k + 1, bs =>
    if bs.length < 9 then []
    else
      let n := getNat bs 2 2
      (getByte bs 0, getNat bs 4 2, slice bs 8 n) :: containers k (bs.drop (containerSize n))

/-! ### Commands -/

/-- FLOVIS_FRAME_INGRESS. -/
def execFlovisFrameIngress (port : Fin 9) (bytes : List Byte) (s : State) : Host.Outcome State Fault Refusal :=
  .next (frameIngress s port.val bytes)
/-- FRAME_CUT. -/
def execFrameCut (port : Fin 9) (slotEnd : Bool) (s : State) : Host.Outcome State Fault Refusal := .next (frameCut s port.val slotEnd)
/-- QUARANTINE_END. -/
def execQuarantineEnd (port : Fin 9) (s : State) : Host.Outcome State Fault Refusal := .next (quarantineEnd s port.val)
/-- REFERENCE_RECEIVE. -/
def execReferenceReceive (p : Plane) (bytes : List Byte) (s : State) : Host.Outcome State Fault Refusal :=
  .next (axisIrq s (receiveReference s (planeB p) bytes))
/-- COLDSTART_RECEIVE. -/
def execColdstartReceive (p : Plane) (bytes : List Byte) (s : State) : Host.Outcome State Fault Refusal :=
  .next (if nodePort s (planeB p) = none then s else receiveColdstart s bytes)
/-- LISTEN_TIMER_EXPIRY. -/
def execListenTimerExpiry (s : State) : Host.Outcome State Fault Refusal := .next (listenExpiry s)
/-- CONTENTION_END. -/
def execContentionEnd (s : State) : Host.Outcome State Fault Refusal := .next (contentionEnd s)
/-- REFERENCE_LOSS. -/
def execReferenceLoss (p : Option Plane) (s : State) : Host.Outcome State Fault Refusal := .next (referenceLoss s (p.map planeB))
/-- SLOT_TRANSMIT. -/
def execSlotTransmit (slot : Nat) (s : State) : Host.Outcome State Fault Refusal := .next (transmitSlot s slot)
/-- RANK_DEADLINE. -/
def execRankDeadline (p : Plane) (s : State) : Host.Outcome State Fault Refusal := .next (rankDeadline s (planeB p))
/-- DELAY_REQ. -/
def execDelayReq (port : Fin 9) (s : State) : Host.Outcome State Fault Refusal := .next (sendDelayReq s port.val)
/-- DELAY_RESP. -/
def execDelayResp (port : Fin 9) (bytes : List Byte) (s : State) : Host.Outcome State Fault Refusal :=
  .next (takeDelayResp s port.val bytes)
/-- DELAY_REQ_RECEIVE. -/
def execDelayReqReceive (port : Fin 9) (bytes : List Byte) (s : State) : Host.Outcome State Fault Refusal :=
  .next (answerDelayReq s port.val bytes)
/-- CLAIM. -/
def execClaim (port : Fin 9) (bytes : List Byte) (s : State) : Host.Outcome State Fault Refusal := .next (decideClaim s port.val bytes)
/-- GRANT. -/
def execGrant (p : Plane) (bytes : List Byte) (s : State) : Host.Outcome State Fault Refusal := .next (receiveGrant s (planeB p) bytes)
/-- LEASE_LAPSE. -/
def execLeaseLapse (p : Plane) (slot : Nat) (s : State) : Host.Outcome State Fault Refusal := .next (leaseLapse s (planeB p) slot)
/-- SCHEDULE_SWITCH. -/
def execScheduleSwitch (s : State) : Host.Outcome State Fault Refusal := .next (scheduleSwitch s)
/-- OPEN_AGE_EXPIRY. -/
def execOpenAgeExpiry (desc : Nat) (s : State) : Host.Outcome State Fault Refusal := .next (openAgeExpiry s desc)
/-- EGRESS_COPY_LEFT. -/
def execEgressCopyLeft (e : EgressEnd) (s : State) : Host.Outcome State Fault Refusal := .next (egressCopyLeft s e)

end Sys2Proof.Machine
end

