-- ==== Sys2Proof/Machine/Field.lean ====
section
/-! DEFINITION. The field stage: sampling and filtering (R229 to R233), the drive voters (R235), diagnostics (R236), dark tests
(R237 to R239), the drive links (R240), the self-test (R241) and the status words (R242). Timers of the field stage run on its
own time: a command asserts that one has expired. -/
namespace Sys2Proof.Machine

/-! ### Configuration -/

/-- MODE codes (R227). -/
def isInputMode (m : Nat) : Bool := decide (1 ≤ m) && decide (m ≤ 3)
/-- The output modes, PARALLEL_MEMBER included (R228). -/
def isOutputMode (m : Nat) : Bool := decide (4 ≤ m) && decide (m ≤ 6)

/-- A channel's entry in force. -/
def chCfg (s : State) (ch : Nat) : ChCfg := s.bank.chans.getD ch {}
/-- A channel's state. -/
def chSt (s : State) (ch : Nat) : ChSt := s.field.chans.getD ch {}
/-- A channel changed. -/
def modCh (s : State) (ch : Nat) (f : ChSt → ChSt) : State :=
  { s with field := { s.field with chans := upd s.field.chans ch f } }
/-- A channel's group: FA for CH00 to CH15 (09). -/
def chGrp (ch : Nat) : Grp := if ch < 16 then .fa else .fb
/-- A group's entry in force. -/
def grpCfg (s : State) : Grp → GrpCfg
  | .fa => s.bank.grpA
  | .fb => s.bank.grpB
/-- A group's state. -/
def grpSt (s : State) : Grp → GrpSt
  | .fa => s.field.grpA
  | .fb => s.field.grpB
/-- A group's state changed. -/
def modGrp (s : State) (g : Grp) (f : GrpSt → GrpSt) : State :=
  match g with
  | .fa => { s with field := { s.field with grpA := f s.field.grpA } }
  | .fb => { s with field := { s.field with grpB := f s.field.grpB } }
/-- The channels of a group. -/
def grpChans : Grp → List Nat
  | .fa => List.range 16
  | .fb => (List.range 16).map (· + 16)
/-- The group nominal in mV (R227). -/
def nominalMv (c : GrpCfg) : Nat :=
  match c.nominal with
  | 0 => 24000 | 1 => 48000 | 2 => 72000 | 3 => 96000 | _ => 110000

/-- The lowest channel of the paralleled set a channel belongs to; itself where it stands alone (R228). -/
def lowestOf (s : State) (ch : Nat) : Nat :=
  if (chCfg s ch).mode = 6 then
    (if (chCfg s (ch / 4 * 4)).parallel = 4 && ch / 4 * 4 != ch then ch / 4 * 4 else ch / 2 * 2)
  else ch
/-- The channels switched together with a lowest channel (R228). -/
def setOf (s : State) (ch : Nat) : List Nat := (List.range (max 1 (chCfg s ch).parallel)).map (ch + ·)
/-- A channel is configured as a safety output, alone or in a set (R228). -/
def safetyOut (s : State) (ch : Nat) : Bool := (chCfg s (lowestOf s ch)).mode = 5
/-- A channel is an output. -/
def isOut (s : State) (ch : Nat) : Bool := isOutputMode (chCfg s ch).mode
/-- OPEN_EN, RETRY, TEST_EN of a channel (R227). -/
def chFlag (s : State) (ch i : Nat) : Bool := bit (chCfg s ch).flags i
/-- A group holds at least one safety output (R181). -/
def hasSafetyOut (s : State) (g : Grp) : Bool := (grpChans g).any (safetyOut s)
/-- FIELD is on. -/
def fieldOn (s : State) : Bool := s.pwr.on.getLsbD 7 && s.pwr.on.getLsbD 1
/-- t_on and t_off in strobes of 10 µs (R229). -/
def tOn (c : ChCfg) : Nat := c.upper
/-- t_off in strobes of 10 µs (R229). -/
def tOff (c : ChCfg) : Nat := c.cmax - c.lower

/-! ### The switch of an output -/

/-- Something holds the output off or open whatever the vote: a supply fault, a trip latch, a failed self-test (R225, R236,
R241). -/
def heldOff (s : State) (ch : Nat) : Bool :=
  let c := chSt s ch
  (grpSt s (chGrp ch)).supplyFault || c.overload || c.overtemp || c.selftestFail
/-- Read-back and open-wire checks are suspended (R236). -/
def suspended (s : State) (ch : Nat) : Bool := heldOff s ch || (chSt s (lowestOf s ch)).testing
/-- The switch of an output is closed (R234 to R237). -/
def switchClosed (s : State) (ch : Nat) : Bool :=
  fieldOn s && isOut s ch && (chSt s ch).on && !heldOff s ch && !(chSt s (lowestOf s ch)).testing
/-- A group safety switch is closed: voted so, with no dark test of it in progress (R235, R239). -/
def groupClosed (s : State) (g : Grp) : Bool := (grpSt s g).closed && !(grpSt s g).testing
/-- A dark test is in progress in a group, of a channel or of the group switch (R237, R239). -/
def groupTesting (s : State) (g : Grp) : Bool := (grpSt s g).testing || (grpChans g).any (fun k => (chSt s k).testing)
/-- An output gives energy: its switch is closed and, for a safety output, its group switch too (R181, R234). -/
def energised (s : State) (ch : Nat) : Bool :=
  switchClosed s ch && (!safetyOut s ch || groupClosed s (chGrp ch))

/-- At least two lanes' latest valid drive frames carry the lockout of a group (R238). -/
def lockoutShown (s : State) (g : Grp) : Bool :=
  let on := fun l => let f := (s.field.links.get l).latest
    match g with
    | .fa => f.lockA
    | .fb => f.lockB
  decide (2 ≤ (allLanes.filter on).length)

/-- A channel is marked as having a diagnostic change to report (R240). -/
def diagChange (s : State) (ch : Nat) : State :=
  if ch ∈ s.field.changed then s else { s with field := { s.field with changed := s.field.changed ++ [ch] } }

/-! ### Sampling (R229, R231 to R233, R237) -/

/-- One strobe of an input channel at an input voltage (R229, R231, R232, R233). -/
def sampleInput (cfg : ChCfg) (nominal mv : Nat) (x : ChSt) : ChSt :=
  let raw := if nominal * cfg.onPct ≤ mv * 100 then true else if mv * 100 ≤ nominal * cfg.offPct then false else x.raw
  let c := if raw then (if x.c < cfg.cmax then x.c + 1 else x.c) else x.c - 1
  let val := if cfg.upper ≤ c then true else if c ≤ cfg.lower then false else x.val
  let b := if raw != x.raw then min (x.b + 1) 255 else x.b
  let lk := x.leak + 1
  let (leak, b) := if cfg.chatLeak ≤ lk then (0, b - 1) else (lk, b)
  let start := cfg.chatCount != 0 && decide (cfg.chatCount ≤ b) && !x.chatter
  let chatter := (x.chatter || start) && b != 0
  let frozen := if start then val else x.frozen
  let stuck := x.stuck && val
  let out := if chatter then frozen else val
  { x with raw := raw, c := c, val := val, b := b, leak := leak, chatter := chatter, frozen := frozen, stuck := stuck
           published := out, transitions := if out != x.published then x.transitions + 1 else x.transitions
           initLeft := x.initLeft - 1 }

/-- The published value of a channel with its nibble (R231 to R233). -/
def publishedValue (s : State) (ch : Nat) : QWord :=
  let c := chSt s ch
  if !isInputMode (chCfg s ch).mode || c.selftestFail then { v := 0, q := 8 }
  else if c.chatter || c.stuck then { v := boolWord c.published, q := 8 }
  else { v := boolWord c.published, q := if c.initLeft = 0 then 0 else 4 }

/-- The status word of a channel (R242). -/
def chStatusWord (s : State) (ch : Nat) : Word :=
  let c := chSt s ch
  let m := (chCfg s ch).mode
  let out := isOutputMode m
  let f := fun (b : Bool) (i : Nat) => b2n b * 2 ^ i
  BitVec.ofNat 32 (m * 2 ^ 28 + (if out then min c.load 255 else 0) * 2 ^ 16 + f c.selftestFail 15 + f c.gswFail 14
    + f (lockoutShown s (chGrp ch)) 13 + f c.disagree 12 + f (grpSt s (chGrp ch)).supplyFault 11 + f c.testOverdue 10
    + f c.testFail 9 + f c.rbErr 8 + f c.openWire 7 + f c.overtemp 6 + f c.overload 5 + f c.stuck 4 + f c.chatter 3
    + f (if out then c.contact else c.raw) 1 + f (if out then switchClosed s ch else (publishedValue s ch).v.getLsbD 0) 0)

/-- A dark test ends with a verdict or, for none, without one; a CH_TEST that waits for it gets its answer in the mailbox
(R237, R243): `answer` completes the mailbox. -/
def endTest (s : State) (ch : Nat) (verdict : Option Bool) (answer : State → Mb → Nat → State) : State :=
  let s := modCh s ch (fun c => { c with
    testing := false
    passed := if verdict = some true then c.passed + 1 else c.passed
    failed := if verdict = some false then c.failed + 1 else c.failed
    testFail := c.testFail || verdict = some false
    testOverdue := c.testOverdue && verdict != some true })
  let s := diagChange s ch
  match s.field.chTests.find? (fun x => x.2 = ch) with
  | some (mb, _) =>
    answer { s with field := { s.field with chTests := s.field.chTests.filter (fun x => x.2 ≠ ch) } } mb
      (match verdict with
        | some true => 1
        | some false => 2
        | none => 3)
  | none => s

/-- CH_TEST answers with PASS, FAIL or ABANDONED (R243). -/
def answerChTest (s : State) (mb : Mb) (v : Nat) : State := finishMb s mb 0 [BitVec.ofNat 32 v]

/-- The open-wire condition for the present state of a switch (R236): off, the test current raises the contact above 4 V; on, the current has
been below IMIN for OPEN_T. -/
def openCondition (s : State) (ch : Nat) (mv ma ms : Nat) : Bool :=
  let c := chCfg s ch
  if switchClosed s ch then c.imin != 0 && decide (ma < c.imin) && decide (c.openT ≤ ms) else decide (4000 < mv)

/-- OPEN clears in the sample in which its condition no longer holds; a sample with too small a current does not end it (R236). -/
def clearOpen (s : State) (ch mv ma : Nat) : State :=
  if (chSt s ch).openWire && (!isOut s ch || !chFlag s ch 1 || (!suspended s ch && !openCondition s ch mv ma (chCfg s ch).openT)) then
    diagChange (modCh s ch (fun c => { c with openWire := false })) ch
  else s

/-- An automatic retry has held once the switch has stayed closed for 1 s; the next one begins a new row (R236; DESIGN CHOICE,
notes/assumptions 176). -/
def countHeld (s : State) (ch : Nat) : State :=
  if (chSt s ch).retries = 0 then s
  else modCh s ch (fun c =>
    let n := if switchClosed s ch then c.heldFor + 1 else 0
    if 100000 ≤ n then { c with retries := 0, heldFor := 0 } else { c with heldFor := n })

/-- A sample of the acknowledge channel enters a receiver's timing (R185). -/
def AckTrack.sample (t : AckTrack) (ch : Nat) (smp : SampleSet) : AckTrack :=
  let t := { t with newest := smp.ax0 }
  match (smp.vals.getD ch ⟨0, 8⟩).v.getLsbD 0, t.high with
  | true, false => { t with high := true, riseAt := smp.ax0, riseStep := smp.step, lowAt := none }
  | false, true => { t with
      high := false, lowAt := some smp.ax0, ended := some ((smp.ax0 - t.riseAt).toInt.toNat, smp.step != t.riseStep) }
  | false, false => { t with lowAt := some (t.lowAt.getD smp.ax0) }
  | true, true => t

/-- A receiver's timing of the acknowledge channel after a sample frame; without an acknowledge channel it times nothing (R185). -/
def trackAck (s : State) (t : AckTrack) (smp : SampleSet) : AckTrack :=
  match s.bank.modu.ackChannel with
  | some ch => t.sample ch smp
  | none => {}

/-- The channel whose status a sample frame carries: the lowest with an unreported change, or the next in rotation, the latter
in every frame whose SEQ is a multiple of 4 (R240). -/
def rotChannel (s : State) : Nat × Bool :=
  let low := (List.range 32).find? (fun ch => ch ∈ s.field.changed)
  match low with
  | some ch => if s.field.strobes % 4 = 0 then (s.field.rot, true) else (ch, false)
  | none => (s.field.rot, true)

/-- One strobe: every channel is sampled, dark tests that see the contact fall pass, open-wire conditions that are over clear, and the sample frame leaves on all three
drive links (R229, R236, R237, R240). -/
def strobe (s : State) (mv ma : List Nat) : State :=
  let s0 := s
  let s := { s with field := { s.field with chans := ((List.range 32).zip s.field.chans).map (fun (ch, x) =>
    let cfg := chCfg s ch
    let nom := nominalMv (grpCfg s (chGrp ch))
    let v := mv.getD ch 0
    if isInputMode cfg.mode then sampleInput cfg nom v x
    else { x with contact := decide (nom * cfg.onPct ≤ v * 100), load := min 255 (ma.getD ch 0 / 10) }) } }
  let s := (List.range 32).foldl (fun s ch =>
    let a := chSt s0 ch
    let b := chSt s ch
    if a.chatter != b.chatter || a.stuck != b.stuck then diagChange s ch else s) s
  let s := (List.range 32).foldl (fun s ch =>
    if (chSt s ch).testing && mv.getD ch 0 * 100 < nominalMv (grpCfg s (chGrp ch)) * 20 then
      endTest s ch (some true) answerChTest
    else countHeld (clearOpen s ch (mv.getD ch 0) (ma.getD ch 0)) ch) s
  let (rot, inRotation) := rotChannel s
  let smp : SampleSet :=
    { seq := s.field.strobes, ax0 := ax0 s, vals := (List.range 32).map (publishedValue s), rot := rot
      status := chStatusWord s rot, step := s.tim.stepMark.map (·.1) }
  let s := { s with ack := { s.ack with track := if s0.modu.mode = Mode.halted then trackAck s s.ack.track smp else {} } }
  { s with field := { s.field with
    strobes := s.field.strobes + 1
    rot := if inRotation then (s.field.rot + 1) % 32 else s.field.rot
    changed := s.field.changed.filter (· ≠ rot)
    latest := some smp
    sent := (smp :: s.field.sent).take 1100
    links := s.field.links.map (fun _ k => { k with samples := k.samples ++ [smp] }) } }

/-! ### The drive voters (R235) -/

/-- The outgoing member of a planned switch still drives the tasks that have not switched (R392). -/
def outgoing (s : State) : Bool := !s.pair.controlling && s.pair.switch.any (fun w => !w.incoming)

/-- The hub forces the drive link of a lane that is not ACTIVE (R25), and all three of a module whose effects are held (R377),
while FIELD is being shed and during a power fail (R404, R409). -/
def linkForced (s : State) (l : Lane) : Bool :=
  (lane s l).st != .active || !inService s || (effectsHeld s && !outgoing s) || s.pwr.failing || s.pwr.shedStep = some 1

/-- The command of a lane for a channel as the voter counts it: ON and TEST_OK (R235). -/
def laneCmd (s : State) (l : Lane) (ch : Nat) : Bool × Bool :=
  let k := s.field.links.get l
  let f := k.latest
  if k.timeout || linkForced s l || (f.latch && safetyOut s ch) then (false, false)
  else (f.on.getLsbD ch, f.testOk.getLsbD ch)

/-- The command of a lane for a group switch as the voter counts it (R235). -/
def laneGsw (s : State) (l : Lane) (g : Grp) : Bool :=
  let k := s.field.links.get l
  let f := k.latest
  if k.timeout || linkForced s l || f.latch then false
  else match g with
    | .fa => f.gswA
    | .fb => f.gswB

/-- Two of three. -/
def vote2 (a b c : Bool) : Bool := (a && b) || (a && c) || (b && c)
/-- Two of three lanes. -/
def voteLanes (f : Lane → Bool) : Bool := vote2 (f .a) (f .b) (f .c)

/-- The voted state of one channel, taken from the lowest channel of its set (R235); a test ends without a verdict when the
voted ON becomes 0 (R237). -/
def voteChannel (s : State) (ch : Nat) : State :=
  if !isOut s ch then s
  else
    let low := lowestOf s ch
    let on := voteLanes (fun l => (laneCmd s l low).1)
    let ok := voteLanes (fun l => (laneCmd s l low).2)
    let was := chSt s ch
    let s := modCh s ch (fun c => { c with on := on, testOk := ok, transitions := if on != c.on then c.transitions + 1 else c.transitions })
    if was.testing && !on then endTest s ch none answerChTest else s

/-- Every voter of the field stage acts on the latest valid commands; a dark test of a group switch ends without a verdict when the switch is
voted open (R235, R239). -/
def voteAll (s : State) : State :=
  if !fieldOn s then s
  else
    let s := (List.range 32).foldl voteChannel s
    let group := fun (s : State) (g : Grp) =>
      let on := voteLanes (fun l => laneGsw s l g)
      modGrp s g (fun x => { x with closed := on, testing := x.testing && on })
    group (group s .fa) .fb

/-- A dark test starts on each channel whose conditions hold (R237). -/
def startTests (s : State) : State :=
  (List.range 32).foldl (fun s ch =>
    let req := fun l => let k := s.field.links.get l; !k.timeout && k.latest.treq.getLsbD ch
    let asked := voteLanes req
    let c := chSt s ch
    if !asked then (if c.testMade then modCh s ch (fun c => { c with testMade := false }) else s)
    else if c.testMade || !chFlag s ch 3 || !c.on || !c.testOk || c.overload || c.overtemp || heldOff s ch
        || groupTesting s (chGrp ch) then s
    else modCh s ch (fun c => { c with testing := true, testMade := true })) s

/-- The lanes still ask for a dark test of a channel, or will: in a frame to come, on its way or in force (R237). -/
def requested (s : State) (ch : Nat) : Bool :=
  allLanes.any (fun l =>
    let k := s.field.links.get l
    ((lane s l).st != .off && ((lane s l).drive.getD ch {}).treq != 0) || k.latest.treq.getLsbD ch || k.frames.any (fun f => f.treq.getLsbD ch))

/-- A CH_TEST whose test cannot begin any more answers ABANDONED: the channel is voted off, held off, or no lane asks for the test
(R237, R243; DEDUCED, notes/assumptions 177). -/
def settleChTests (s : State) : State :=
  s.field.chTests.foldl (fun s (_, ch) =>
    let c := chSt s ch
    if !c.testing && (!c.on || !c.testOk || heldOff s ch || !requested s ch) then endTest s ch none answerChTest else s) s

/-! ### The drive links (R240) -/

/-- A link end accepts a frame of a SEQ: the one above the last accepted, or any after a discarded one (R240). -/
def seqAccept (last : Option Nat) (seq : Nat) : Bool :=
  match last with
  | some n => (n + 1) % 256 = seq % 256
  | none => true

/-- The drive frame a lane sends now (R159, R180, R181, R240). -/
def driveFrame (s : State) (l : Lane) : DriveFrame :=
  let x := lane s l
  let mask := fun (f : Nat → Bool) => (List.range 32).foldl (fun (m : BitVec 32) ch => if f ch then m ||| (1#32 <<< ch) else m) 0
  let cmd := fun ch => x.drive.getD ch {}
  let barred := fun ch => !x.gate || (x.latch && safetyOut s ch)
  let gsw := fun (g : Grp) (lock : Bool) => !x.latch && !lock && x.gate && hasSafetyOut s g
  { seq := (x.driveSeq + 1) % 256, gswA := gsw .fa x.lockA, gswB := gsw .fb x.lockB, latch := x.latch, lockA := x.lockA
    lockB := x.lockB, on := mask (fun ch => !barred ch && (cmd ch).on), testOk := mask (fun ch => !barred ch && (cmd ch).testOk)
    treq := mask (fun ch => x.gate && (cmd ch).treq != 0) }

/-- A lane sends a drive frame; a test request lasts for three frames (R237, R240). -/
def sendDrive (s : State) (l : Lane) : State :=
  let f := driveFrame s l
  let s := modLane s l (fun x => { x with driveSeq := f.seq, drive := x.drive.map (fun c => { c with treq := c.treq - 1 }) })
  { s with field := { s.field with links := s.field.links.mod l (fun k => { k with frames := k.frames ++ [f] }) } }

/-- A lane's drive link replaced. -/
def setLink (s : State) (l : Lane) (k : DriveLink) : State := { s with field := { s.field with links := s.field.links.set l k } }

/-- The field stage takes the oldest drive frame of a lane: it accepts it and votes, or discards and counts it, and the next one with a
correct CRC resynchronises (R235, R240). A change of LOCKOUT is reported for every channel of its group (R242). -/
def takeDrive (s : State) (l : Lane) (good : Bool) : State :=
  let k := s.field.links.get l
  match k.frames with
  | [] => s
  | f :: fs =>
    if good && seqAccept k.fieldSeq f.seq then
      let s0 := s
      let s := setLink s l { k with frames := fs, latest := f, fieldSeq := some f.seq, timeout := false }
      let s := [Grp.fa, Grp.fb].foldl (fun s g =>
        if lockoutShown s0 g = lockoutShown s g then s else (grpChans g).foldl diagChange s) s
      settleChTests (startTests (voteAll s))
    else settleChTests (setLink s l { k with frames := fs, fieldSeq := none, fieldDiscards := k.fieldDiscards + 1 })

/-- A failed dark test or a read-back error of a safety output sets the group lockout in a lane that receives the report, with
an S2 record (R238). -/
def lockoutReport (s : State) (l : Lane) (smp : SampleSet) : State :=
  let x := lane s l
  let ch := smp.rot
  let st := smp.status
  let bad := st.getLsbD 9 || st.getLsbD 8
  if !safetyOut s ch then s
  else if !bad then modLane s l (fun x => { x with failSeen := x.failSeen.filter (· ≠ ch) })
  else if ch ∈ x.failSeen then s
  else
    let s := modLane s l (fun x => { x with
      failSeen := ch :: x.failSeen
      lockA := x.lockA || ch < 16
      lockB := x.lockB || !(ch < 16) })
    raiseHub s 2 0x5004 ch (laneNum l)

/-- A lane takes the oldest sample frame on its link (R240). -/
def takeSample (s : State) (l : Lane) (good : Bool) : State :=
  let k := s.field.links.get l
  match k.samples with
  | [] => s
  | f :: fs =>
    if good && seqAccept k.laneSeq f.seq then
      let s := setLink s l { k with samples := fs, laneSeq := some (f.seq % 256) }
      let s := modLane s l (fun x => { x with samples := (f :: x.samples).take 1100, ackTrack := trackAck s x.ackTrack f })
      lockoutReport s l f
    else
      setLink s l { k with samples := fs, laneSeq := none, laneDiscards := k.laneDiscards + 1 }

/-! ### Trips, supplies, self-test -/

/-- The dark tests of some channels end without a verdict (R237). -/
def abandonTests (s : State) (chs : List Nat) : State :=
  settleChTests (chs.foldl (fun s ch => if (chSt s ch).testing then endTest s ch none answerChTest else s) s)

/-- The dark test of a group switch ends without a verdict (R237, R239). -/
def abandonGsw (s : State) (g : Grp) : State := modGrp s g (fun x => { x with testing := false })

/-- The record of an event of one channel (R235, R236): a channel is a cell, and an S2 is contained one level up, in the hub region (R16,
R360; DEDUCED, notes/assumptions 186). -/
def raiseChannel (s : State) (sev : Nat) (code : BitVec 16) (ch : Nat) (arg0 : Nat := 0) : State :=
  raiseHub s sev code ch arg0 0 (if sev = 1 then 0 else 2)

/-- An output trips: switched off and latched, counted and recorded (R236). -/
def tripOutput (s : State) (ch : Nat) (temp limit : Bool) : State :=
  if !isOut s ch then s
  else
    let sev := if safetyOut s ch then 2 else 1
    let low := lowestOf s ch
    let s := modCh s ch (fun c => { c with
      overload := c.overload || !temp, overtemp := c.overtemp || temp, trips := c.trips + 1 })
    raiseChannel (abandonTests (diagChange s ch) [low]) sev 0x5001 ch (b2n temp + 2 * b2n limit)

/-- The FIELD self-test ends: channels and group switches that failed are held; lockouts and test failures clear only where all of it
passed (R238, R241). -/
def fieldSelftest (s : State) (bad : BitVec 32) (badA badB : Bool) : State :=
  let passed := bad = 0 && !badA && !badB
  let s := { s with field := { s.field with
    chans := ((List.range 32).zip s.field.chans).map (fun (ch, x) =>
      let cfg := chCfg s ch
      { selftestFail := bad.getLsbD ch, initLeft := if isInputMode cfg.mode then max (tOn cfg) (tOff cfg) else 0
        testFail := x.testFail && !passed })
    grpA := {}, grpB := {}, strobes := 0, rot := 0, changed := [], latest := none, sent := []
    links := ⟨{}, {}, {}⟩ } }
  let s := modLanes s (fun _ x => { x with
    lockA := badA || (x.lockA && !passed), lockB := badB || (x.lockB && !passed), failSeen := [], samples := [] })
  let s := (List.range 32).foldl (fun s ch => if bad.getLsbD ch then raiseHub s 2 0x5008 ch else s) s
  let s := if badA then raiseHub s 2 0x5004 32 else s
  if badB then raiseHub s 2 0x5004 33 else s

/-- The CHDRV words a lane keeps for the channels a task owns, at step 3 of its harvest: those of its frame when its gate
opens, de-energise when it stays closed (R159, R240). -/
def keepDrive (s : State) (l : Lane) (cmds : List (Nat × Word)) (isOpen : Bool) : State :=
  modLane s l (fun x => { x with
    gate := isOpen
    drive := cmds.foldl (fun d (ch, w) =>
      upd d ch (fun c => { c with on := isOpen && w.getLsbD 0, testOk := isOpen && w.getLsbD 1 })) x.drive })

/-! ### Commands of the field stage -/

/-- SAMPLE_STROBE (R229). -/
def execSampleStrobe (mv ma : List Nat) (s : State) : Host.Outcome State Fault Refusal :=
  .next (if fieldOn s then strobe s mv ma else s)

/-- STUCK (R232): val has been 1 for STUCK_TIME. -/
def execStuck (ch : Fin 32) (s : State) : Host.Outcome State Fault Refusal :=
  let cfg := chCfg s ch.val
  let c := chSt s ch.val
  if fieldOn s && isInputMode cfg.mode && cfg.stuckTime != 0 && c.val && !c.stuck then
    .next (diagChange (modCh s ch.val (fun c => { c with stuck := true })) ch.val)
  else .next s

/-- DRIVE_FRAME_SEND (R240). -/
def execDriveFrameSend (l : Lane) (s : State) : Host.Outcome State Fault Refusal :=
  .next (if (lane s l).st = .off then s else sendDrive s l)

/-- DRIVE_FRAME_RECEIVE (R235). -/
def execDriveFrameReceive (l : Lane) (good : Bool) (s : State) : Host.Outcome State Fault Refusal :=
  .next (if fieldOn s then takeDrive s l good else s)

/-- DRIVE_LINK_TIMEOUT (R235). -/
def execDriveLinkTimeout (l : Lane) (s : State) : Host.Outcome State Fault Refusal :=
  .next (settleChTests (voteAll { s with field := { s.field with links := s.field.links.mod l (fun k => { k with timeout := true }) } }))

/-- DISAGREE (R235): it compares the commands of the lanes whose link is not forced. -/
def execDisagree (ch : Fin 32) (times : DisagreeTimes) (s : State) : Host.Outcome State Fault Refusal :=
  let ls := allLanes.filter (fun l => !linkForced s l)
  let low := lowestOf s ch.val
  let cmds := ls.map (fun l => (l, laneCmd s l low))
  let equal := match cmds with
    | [] => true
    | (_, x) :: r => r.all (fun y => y.2 = x)
  let was := chSt s ch.val
  let show_ := fun (s : State) (on : Bool) => if was.disagree = on then s else diagChange (modCh s ch.val (fun c => { c with disagree := on })) ch.val
  if equal then
    let s := modCh s ch.val (fun c => { c with minority := none })
    .next (if 1000 ≤ times.us then show_ s false else s)
  else
    let s := if 1000 < times.us then show_ s true else s
    match cmds.filter (fun x => (cmds.filter (fun y => y.2 = x.2)).length = 1) with
    | [x] =>
      if cmds.length = 3 && 10000 ≤ times.minorityUs && was.minority != some x.1 then
        .next (raiseHub (modCh s ch.val (fun c => { c with minority := some x.1 })) 2 0x5007 ch.val (laneNum x.1))
      else .next (modCh s ch.val (fun c => { c with minority := c.minority.filter (fun l => l = x.1) }))
    | _ => .next (modCh s ch.val (fun c => { c with minority := none }))

/-- SUPPLY_FAULT (R225). -/
def execSupplyFault (g : Grp) (s : State) : Host.Outcome State Fault Refusal :=
  if fieldOn s then
    let s := abandonGsw (modGrp s g (fun x => { x with supplyFault := true })) g
    .next (abandonTests ((grpChans g).foldl diagChange s) (grpChans g))
  else .next s

/-- SUPPLY_GOOD (R225): the supply has been good for 10 ms; outputs return to their voted state. -/
def execSupplyGood (g : Grp) (s : State) : Host.Outcome State Fault Refusal :=
  if fieldOn s && (grpSt s g).supplyFault then
    .next ((grpChans g).foldl diagChange (modGrp s g (fun x => { x with supplyFault := false })))
  else .next s

/-- GROUP_OVERLOAD (R226): every output of the group trips. -/
def execGroupOverload (g : Grp) (s : State) : Host.Outcome State Fault Refusal :=
  .next (if fieldOn s then (grpChans g).foldl (fun s ch => tripOutput s ch false false) s else s)

/-- OVERLOAD (R236); `limit` says that the current limit was reached. -/
def execOverload (ch : Fin 32) (limit : Bool) (s : State) : Host.Outcome State Fault Refusal :=
  .next (if fieldOn s then tripOutput s ch.val false limit else s)

/-- OVERTEMP (R236). -/
def execOvertemp (ch : Fin 32) (s : State) : Host.Outcome State Fault Refusal :=
  .next (if fieldOn s then tripOutput s ch.val true false else s)

/-- TRIP_LATCH_CLEAR (R236): the voted ON has been 0 for 10 ms, or, with `retry`, 1 s has passed since the latch set, RETRY is
set and not three retries in a row have tripped again; `cool` says that the junction lies below 130 °C. -/
def execTripLatchClear (ch : Fin 32) (retry cool : Bool) (s : State) : Host.Outcome State Fault Refusal :=
  let c := chSt s ch.val
  let latched := c.overload || c.overtemp
  if !latched then .next s
  else if !retry && !c.on then
    .next (diagChange (modCh s ch.val (fun c => { c with overload := false, overtemp := false, retries := 0 })) ch.val)
  else if retry && chFlag s ch.val 2 && (cool || !c.overtemp) && c.retries < 3 then
    .next (diagChange (modCh s ch.val (fun c =>
      { c with overload := false, overtemp := false, retries := c.retries + 1, heldFor := 0 })) ch.val)
  else .next s

/-- OPEN (R236): with OPEN_EN, it is shown exactly while the condition for the switch's present state holds. -/
def execOpenWire (ch : Fin 32) (seen : OpenSense) (s : State) : Host.Outcome State Fault Refusal :=
  let present := openCondition s ch.val seen.mv seen.ma seen.ms
  if fieldOn s && isOut s ch.val && chFlag s ch.val 1 && !suspended s ch.val && (chSt s ch.val).openWire != present then
    let s := diagChange (modCh s ch.val (fun c => { c with openWire := present })) ch.val
    .next (if present then raiseChannel s 1 0x5002 ch.val else s)
  else .next s

/-- RB_ERR (R236): a read-back after a vote decision, right or wrong. -/
def execRbErr (ch : Fin 32) (wrong : Bool) (s : State) : Host.Outcome State Fault Refusal :=
  if fieldOn s && isOut s ch.val && !suspended s ch.val then
    let safety := safetyOut s ch.val
    let s := diagChange (modCh s ch.val (fun c => { c with rbErr := wrong, testFail := c.testFail || (wrong && safety) })) ch.val
    .next (if wrong then raiseChannel s (if safety then 2 else 1) 0x5003 ch.val else s)
  else .next s

/-- TEST_PERIOD (R237): a lane's scheduler requests a dark test in three consecutive drive frames. -/
def execTestPeriod (l : Lane) (ch : Fin 32) (s : State) : Host.Outcome State Fault Refusal :=
  if isOut s ch.val && chFlag s ch.val 3 && (lane s l).st != .off then
    .next (modLane s l (fun x => { x with drive := upd x.drive ch.val (fun c => { c with treq := 3 }) }))
  else .next s

/-- TEST_WIDTH_EXPIRY (R238): the test fails, and the switch closes again. -/
def execTestWidthExpiry (ch : Fin 32) (s : State) : Host.Outcome State Fault Refusal :=
  .next (if (chSt s ch.val).testing then endTest s ch.val (some false) answerChTest else s)

/-- TEST_OVERDUE (R237). -/
def execTestOverdue (ch : Fin 32) (s : State) : Host.Outcome State Fault Refusal :=
  if fieldOn s && isOut s ch.val && chFlag s ch.val 3 && !(chSt s ch.val).testOverdue then
    .next (raiseChannel (diagChange (modCh s ch.val (fun c => { c with testOverdue := true })) ch.val) 1 0x5005 ch.val)
  else .next s

/-- The dark test of a group safety switch may begin (R239): the switch is voted closed, every safety output of the group that is on has
voted TEST_OK 1, and the conditions of R237 hold. -/
def gswReady (s : State) (g : Grp) : Bool :=
  (grpCfg s g).gswTest && (grpSt s g).closed && fieldOn s && !(grpSt s g).supplyFault && !groupTesting s g
    && ((grpChans g).filter (safetyOut s)).all (fun ch => !(chSt s ch).on || (chSt s ch).testOk)

/-- GSW_TEST (R239): the group switch opens, and closes again as soon as the test passes or TEST_WIDTH expires. -/
def execGswTest (g : Grp) (phase : GswPhase) (s : State) : Host.Outcome State Fault Refusal :=
  let closed := abandonGsw s g
  match phase with
  | .start => .next (if gswReady s g then modGrp s g (fun x => { x with testing := true }) else s)
  | .fall => .next closed
  | .expiry =>
    if (grpSt s g).testing then
      let s := ((grpChans g).filter (safetyOut s)).foldl (fun s ch => diagChange (modCh s ch (fun c => { c with gswFail := true })) ch) closed
      .next (raiseHub s 2 0x5006 (match g with
        | .fa => 0
        | .fb => 1))
    else .next s

end Sys2Proof.Machine
end

