-- ==== Sys2Proof/Machine/RecStore.lean ====
section
/-! DEFINITION. Records as bytes and words, the record store and the fault log in MRAM with their control copies, what a
reader finds in them (R348, R354, R355, R357, R358, R362, R372, R373). -/
namespace Sys2Proof.Machine

/-! ### Rings in MRAM -/

/-- Writing bytes into a ring of n bytes that starts at an address: offset counts from the ring's start. -/
def ringWrite (m : List Host.Cell) (base n : Nat) : Nat → List Byte → List Host.Cell
  | _, [] => m
  | o, b :: bs => ringWrite (memWrite m (base + o % n) b) base n (o + 1) bs

/-- Reading k bytes of a ring. -/
def ringRead (m : List Host.Cell) (base n o k : Nat) : List Byte := (List.range k).map (fun i => memRead m (base + (o + i) % n))

/-! ### Records of the recorder -/

/-- The bytes of a record before its CRC (R348). -/
def RecRecord.body (r : RecRecord) : List Byte :=
  beDWord r.seq ++ be16 r.trigger ++ [BitVec.ofNat 8 r.words.length, BitVec.ofNat 8 r.flags] ++ be16 r.suppressed ++ [0, 0]
    ++ beWords r.words
/-- The bytes of a record (R348). -/
def RecRecord.bytes (r : RecRecord) : List Byte := r.body ++ beWord (crc32c r.body)
/-- The length of a record in bytes (R348). -/
def RecRecord.size (r : RecRecord) : Nat := 20 + 4 * r.words.length

/-- Bytes in the record buffer (R352). -/
def bufferFill (s : State) : Nat := (s.recd.buffer.map (·.size)).foldl (· + ·) 0
/-- Size of the record buffer (R20). -/
def bufferSize : Nat := 1048576
/-- First byte of the ring of the store, and its size (R354). -/
def storeBase : Nat := 0x1000
/-- Size of the ring. -/
def storeSize : Nat := 16773120
/-- Bytes of records in the store (R354). -/
def storeFill (s : State) : Nat := (s.recd.index.map (fun x => x.2.2)).foldl (· + ·) 0

/-- The oldest SEQ held in the store; one above the newest when it is empty (R354). -/
def oldestStored (s : State) : DWord :=
  match s.recd.index with
  | x :: _ => x.1
  | [] => s.recd.newest

/-- A control copy in MRAM is valid: magic and CRC check (R355, R373). -/
def copyValid (m : List Host.Cell) (at_ : Nat) (magic : Word) : Bool :=
  let bs := memReads m at_ 64
  getWord bs 0 = magic && getWord bs 60 = crc32c (bs.take 60)

/-- The recorder's control area is written, in the copy whose turn it is (R354). -/
def writeRecControl (s : State) : State :=
  let r := s.recd
  let g := r.gen + 1
  let bs := beWord 0x52454344 ++ beWord (BitVec.ofNat 32 g) ++ beDWord (oldestStored s) ++ beDWord r.newest ++ beDWord r.ceiling
    ++ beWord (BitVec.ofNat 32 r.tail) ++ beWord (BitVec.ofNat 32 r.head) ++ beDWord r.overwritten
    ++ [BitVec.ofNat 8 (b2n r.keep)]
  let s := { s with recd := { r with gen := g } }
  modMram s (fun m => memWrites m (copyOffset g) (sealCopy bs))

/-- The bytes of a record in the store. -/
def storedBytes (s : State) (off len : Nat) : List Byte := ringRead s.xch.mram storeBase storeSize (off - storeBase) len

/-- The held record of lowest SEQ at or above a cursor: its SEQ and its words; the store is older than the buffer (R358). -/
def heldAt (s : State) (c : DWord) : Option (DWord × List Word) :=
  match s.recd.index.find? (fun x => c.ule x.1) with
  | some (n, off, len) => some (n, toWords (storedBytes s off len))
  | none => (s.recd.buffer.find? (fun r => c.ule r.seq)).map (fun r => (r.seq, toWords r.bytes))

/-- The oldest SEQ held in store or buffer. -/
def oldestHeld (s : State) : Option DWord :=
  match s.recd.index with
  | x :: _ => some x.1
  | [] => s.recd.buffer.head?.map (·.seq)

/-- A reader of the record window. -/
def recReader (s : State) : Port → Reader
  | .host => s.recd.host
  | .bridge => s.recd.bridge
/-- A reader of the record window replaced. -/
def setRecReader (s : State) (p : Port) (r : Reader) : State :=
  match p with
  | .host => { s with recd := { s.recd with host := r } }
  | .bridge => { s with recd := { s.recd with bridge := r } }

/-- A read of a cursor window with the record of lowest number at or above the cursor: the word, and the reader after it, whose cursor
moves forward to the record where it names an older one (R357, R358, R372). -/
def readWindow (r : Reader) (held : Option (DWord × List Word)) (moved : Bool) : Word × Reader :=
  match r.latch <|> held with
  | none => (0, r)
  | some (_, []) => (0, { r with latch := none })
  | some (n, [w]) => (w, { r with cursor := n + 1, latch := none })
  | some (n, w :: ws) => (w, { r with cursor := if moved then n else r.cursor, latch := some (n, ws) })

/-- The cursor names a nonzero number older than the oldest held and is moved forward (R357, R372). -/
def skips (r : Reader) (oldest : Option DWord) : Bool :=
  r.latch.isNone && r.cursor != 0 && (match oldest with | some o => r.cursor.ult o | none => false)

/-- A read of REC_DATA (R358). -/
def readRecData (s : State) (p : Port) : Word × State :=
  let r := recReader s p
  let (w, r') := readWindow r (heldAt s r.cursor) (skips r (oldestHeld s))
  let s := if skips r (oldestHeld s) then { s with recd := { s.recd with skipped := true } } else s
  (w, setRecReader s p r')

/-- A write to the lower half of a cursor makes the cursor take effect and empties the latch (R357, R372). -/
def Reader.seek (r : Reader) (lo : Word) : Reader := { r with cursor := join64 r.hi lo, latch := none }

/-- REC_STAT as a reader sees it (R357). -/
def recStat (s : State) (p : Port) : Word :=
  let held := heldAt s (recReader s p).cursor
  let len := match held with
    | some (_, ws) => ws.length
    | none => 0
  BitVec.ofNat 32 (b2n s.recd.lost * 2 ^ 31 + b2n s.recd.skipped * 2 ^ 30 + b2n held.isSome * 2 ^ 29
    + b2n s.recd.flushing.isSome * 2 ^ 28 + b2n s.recd.storeFull * 2 ^ 27 + s.recd.staging.length * 2 ^ 16 + len)

/-! ### The fault log (R373) -/

/-- Records of the ring (R373). -/
def logRecords : Nat := 52326

/-- The bytes of a fault record (R362). -/
def FaultRec.bytes (x : FaultRec) : List Byte :=
  let f := x.fin
  let region := match f.region with
    | .lane l => laneNum l
    | .hub => 3
  beDWord x.fseq ++ beDWord x.harvest ++ beDWord x.ax0
    ++ [BitVec.ofNat 8 (f.sev + b2n x.nested * 8 + b2n f.hw * 16 + b2n f.incomplete * 32), BitVec.ofNat 8 (f.level * 64 + region)]
    ++ be16 f.code.toNat ++ beWord f.loc ++ beWord f.arg0 ++ beWord f.arg1

/-- A record is written at a ring position of the fault log; the oldest is overwritten when the ring is full (R373). -/
def logWrite (s : State) (x : FaultRec) : State :=
  let f := s.flt
  let idx := f.index.filter (fun y => y.2 ≠ f.head)
  let s := { s with flt := { f with index := idx ++ [(x.fseq, f.head)], head := (f.head + 1) % logRecords } }
  writeLogControl (modMram s (fun m => memWrites m (logBase + 0x1000 + 40 * f.head) x.bytes))

/-- The log record of lowest FSEQ at or above a cursor: its number and its ten words (R372). -/
def loggedAt (s : State) (c : DWord) : Option (DWord × List Word) :=
  let best := s.flt.index.foldl (fun b x =>
    if c.ule x.1 then (match b with | some y => if x.1.ult y.1 then some x else b | none => some x) else b)
    (none : Option (DWord × Nat))
  best.map (fun x => (x.1, toWords (memReads s.xch.mram (logBase + 0x1000 + 40 * x.2) 40)))

/-- The lowest FSEQ in the log: records are written in the order of handling, not of FSEQ (R366). -/
def lowestLogged (s : State) : Option DWord := (loggedAt s 0).map (·.1)

/-- A reader of the fault log window. -/
def fltReader (s : State) : Port → Reader
  | .host => s.flt.host
  | .bridge => s.flt.bridge
/-- A reader of the fault log window replaced. -/
def setFltReader (s : State) (p : Port) (r : Reader) : State :=
  match p with
  | .host => { s with flt := { s.flt with host := r } }
  | .bridge => { s with flt := { s.flt with bridge := r } }

/-- A read of FLT_LOG_DATA (R372). -/
def readLogData (s : State) (p : Port) : Word × State :=
  let r := fltReader s p
  let (w, r') := readWindow r (loggedAt s r.cursor) (skips r (lowestLogged s))
  let s := if skips r (lowestLogged s) then { s with flt := { s.flt with skipped := true } } else s
  (w, setFltReader s p r')

/-- Entries of a fault queue in use (R364): the records queued and in hand, and the overflow record. -/
def FaultQueue.used (q : FaultQueue) : Nat := q.queue.length + q.hand.length + b2n q.overflow.isSome

/-- FLT_LOG_STAT as a reader sees it (R372). -/
def logStat (s : State) (p : Port) : Word :=
  let r := fltReader s p
  let avail := (loggedAt s r.cursor).isSome
  BitVec.ofNat 32 (b2n avail * 2 ^ 31 + b2n s.flt.skipped * 2 ^ 30 + b2n s.flt.logFail * 2 ^ 29 + s.flt.hubQ.used)

/-- FAULT_N is driven low (R374, R424). While HUB is off AON holds the level. -/
def faultLow (s : State) : Bool :=
  s.pwr.aon && (if !s.pwr.on.getLsbD 1 then s.pwr.faultHeld else decide (2 ≤ s.flt.latched) || s.modu.mode = .safe || s.modu.mode = .halted || s.modu.wdExpired || s.bring.bootFail)

/-! ### Reading the control areas at bring-up (R355, R373) -/

/-- The offset of the valid control copy of higher generation. -/
def bestCopy (m : List Host.Cell) (base : Nat) (magic : Word) : Option Nat :=
  let v0 := copyValid m base magic
  let v1 := copyValid m (base + 0x800) magic
  if v0 && v1 then
    (if (getWord (memReads m base 64) 4).ule (getWord (memReads m (base + 0x800) 64) 4) then some (base + 0x800) else some base)
  else if v0 then some base else if v1 then some (base + 0x800) else none

/-- No control copy has ever been written: a new module, whose first number is 1 (R349, notes/assumptions 20). -/
def neverWritten (m : List Host.Cell) (base : Nat) : Bool :=
  memReads m base 64 = List.replicate 64 unlisted && memReads m (base + 0x800) 64 = List.replicate 64 unlisted

/-- The records of the ring from the tail to the head: SEQ, offset and length (R354). -/
def walkStore (m : List Host.Cell) : Nat → Nat → Nat → List (DWord × Nat × Nat)
  | 0, _, _ => []
  | fuel + 1, off, left =>
    let h := ringRead m storeBase storeSize (off - storeBase) 12
    let len := 20 + 4 * getByte h 10
    if left < len then [] else
      (getDWord h 0, off, len) :: walkStore m fuel (storeBase + (off - storeBase + len) % storeSize) (left - len)

/-- Records found by a scan of the ring: those whose CRC checks, in SEQ order (R355). A record starts with listed bytes. -/
def scanStore (m : List Host.Cell) : List (DWord × Nat × Nat) :=
  let offs := (m.map (·.1)).filter (fun a => decide (storeBase ≤ a) && decide (a < storeBase + storeSize) && a % 4 = 0)
  let ok := offs.filterMap (fun off =>
    let n := getByte (ringRead m storeBase storeSize (off - storeBase) 12) 10
    let bs := ringRead m storeBase storeSize (off - storeBase) (20 + 4 * n)
    if n ≤ 64 && getWord bs (16 + 4 * n) = crc32c (bs.take (16 + 4 * n)) then some (getDWord bs 0, off, 20 + 4 * n) else none)
  ok.mergeSort (fun x y => x.1.ule y.1)

/-- The recorder at bring-up (R349, R355): the store as its control area names it, or as the scan rebuilds it. -/
def loadRecorder (s : State) : State :=
  let m := s.xch.mram
  let r := s.recd
  match bestCopy m 0 0x52454344 with
  | some at_ =>
    let bs := memReads m at_ 64
    let tail := getNat bs 32 4
    let head := getNat bs 36 4
    let left := if getDWord bs 8 = getDWord bs 16 then 0 else if tail < head then head - tail else storeSize + head - tail
    let c := getDWord bs 24
    { s with
      recd := { r with
        gen := getNat bs 4 4, index := walkStore m (left / 20) tail left, tail := tail, head := head, newest := getDWord bs 16
        ceiling := c, next := c, overwritten := getDWord bs 40 } }
  | none =>
    if neverWritten m 0 then { s with recd := { r with next := 1, ceiling := 1, newest := 1 } }
    else
      let idx := scanStore m
      let top := match idx.getLast? with
        | some x => x.1
        | none => 0
      let tail := match idx with
        | x :: _ => x.2.1
        | [] => storeBase
      let head := match idx.getLast? with
        | some x => storeBase + (x.2.1 - storeBase + x.2.2) % storeSize
        | none => storeBase
      let s := { s with
        recd := { r with index := idx, tail := tail, head := head, newest := top + 1, ceiling := top + 4096, next := top + 4096 } }
      raiseHub s 2 0xA003

/-- The ten words of a log record hold permitted values of SEV, ORIGIN and CODE (R373). -/
def permittedRecord (bs : List Byte) : Bool :=
  decide (bits (getByte bs 24) 0 3 ≤ 4) && bits (getByte bs 24) 6 2 = 0 && bits (getByte bs 25) 4 2 = 0
    && decide (bits (getByte bs 25) 0 4 ≤ 3) && decide (1 ≤ getByte bs 26 / 16)

/-- The fault log at bring-up (R363, R373). -/
def loadLog (s : State) : State :=
  let m := s.xch.mram
  let f := s.flt
  let fseqAt := fun p => getDWord (memReads m (logBase + 0x1000 + 40 * p) 8) 0
  match bestCopy m logBase 0x464C5447 with
  | some at_ =>
    let bs := memReads m at_ 64
    let tail := (getNat bs 32 4 - 0x1000) / 40
    let head := (getNat bs 36 4 - 0x1000) / 40
    let n := if getDWord bs 16 = 0 then 0 else if tail < head then head - tail else logRecords + head - tail
    let c := getDWord bs 24
    { s with
      flt := { f with
        gen := getNat bs 4 4, head := head, ceiling := c, next := c
        index := ((List.range n).map (fun i => (tail + i) % logRecords)).filterMap (fun p =>
          if permittedRecord (memReads m (logBase + 0x1000 + 40 * p) 40) then some (fseqAt p, p) else none) } }
  | none =>
    if neverWritten m logBase then { s with flt := { f with next := 1, ceiling := 1 } }
    else
      let ps := ((m.map (·.1)).filter (fun a => decide (logBase + 0x1000 ≤ a)
        && decide (a < logBase + 0x1000 + 40 * logRecords) && (a - logBase - 0x1000) % 40 = 0)).map
          (fun a => (a - logBase - 0x1000) / 40)
      let idx := ((ps.filter (fun p => permittedRecord (memReads m (logBase + 0x1000 + 40 * p) 40))).map
        (fun p => (fseqAt p, p))).mergeSort (fun x y => x.1.ule y.1)
      let top := match idx.getLast? with
        | some x => x.1
        | none => 0
      let head := match idx.getLast? with
        | some x => (x.2 + 1) % logRecords
        | none => 0
      raiseHub { s with flt := { f with index := idx, head := head, ceiling := top + 4096, next := top + 4096 } } 2 0xD005

end Sys2Proof.Machine
end

