-- ==== Sys2Proof/Machine/Regs.lean ====
section
/-! DEFINITION. The register space below the remote window: what each address reads as, what a read takes with it, and what a
write does (R8 to R10, R41, R319, R320, R331, R357, R372, R418, R439, R441, R442, R445, R446). -/
namespace Sys2Proof.Machine

/-! ### The status words of the module -/

/-- A group safety switch that two ACTIVE lanes command closed is still open at the field stage: their drive frames are on the way
(R181, R183). -/
def switchesLag (s : State) : Bool :=
  let asks := fun (g : Grp) (l : Lane) =>
    let f := driveFrame s l
    match g with
    | .fa => f.gswA
    | .fb => f.gswB
  fieldOn s && [Grp.fa, .fb].any (fun g => decide (2 ≤ ((activeLanes s).filter (asks g)).length) && !(grpSt s g).closed)

/-- SAFE_N is driven high (R183): no earlier than the group switches close. -/
def safeHigh (s : State) : Bool :=
  voted s && decide (2 ≤ ((activeLanes s).filter (fun l => !(lane s l).latch)).length) && !(s.bank.valid && s.bank.modu.bench)
    && !effectsHeld s && !switchesLag s

/-- SAFE_N: high-impedance while HUB is off (R183). -/
def safeN (s : State) : Level := if !s.pwr.on.getLsbD 1 then .highZ else if safeHigh s then .high else .low

/-- The module awaits an acknowledge (R187): in SAFE with the restart complete and two lanes ACTIVE, in a voted mode with the
latches set, be it only a readmitted lane's (DEDUCED, notes/assumptions 124), and in HALTED. -/
def ackWait (s : State) : Bool :=
  match s.modu.mode with
  | .safe => !s.vote.restarting && decide (2 ≤ activeCount s)
  | .voted3 | .voted2 => latchesSet s
  | .halted => true
  | _ => false

/-- MOD_IRQ.ACK when the module begins to await an acknowledge (R442). -/
def ackIrq (s0 s : State) : State := setIrqIf s (ackWait s && !ackWait s0) irqAck

/-- The ACTIVE lanes as a mask, Lane A in bit 0. -/
def activeMask (s : State) : Nat := laneMask (activeLanes s)

/-- The module status word (R132). -/
def moduleStatus (s : State) : Word :=
  BitVec.ofNat 32 (modeCode s.modu.mode + activeMask s * 8 + b2n (forced s) * 64 + b2n (debugging s) * 128
    + b2n (degraded s) * 256 + b2n (!s.pair.paired || s.pair.controlling) * 512 + b2n (ackWait s) * 1024)

/-- The code of a bring-up stage in MOD_STAT (R422, R442). -/
def stageCode : Stage → Nat
  | .none => 0 | .b1 => 1 | .b2 => 2 | .l1 => 3 | .l2 => 4 | .l3 => 5 | .l4 => 6 | .l5 => 7

/-- A session is open on a mailbox (R450). -/
def sessionOn (s : State) (mb : Mb) : Bool := s.hp.sessions.any (fun x => x.mb = mb)

/-- MOD_STAT (R442). -/
def modStat (s : State) : Word :=
  BitVec.ofNat 32 (modeCode s.modu.mode * 2 ^ 29 + activeMask s * 2 ^ 26 + b2n (forced s) * 2 ^ 25 + b2n (debugging s) * 2 ^ 24
    + b2n (degraded s) * 2 ^ 23 + b2n s.pair.controlling * 2 ^ 22 + b2n (ackWait s) * 2 ^ 21
    + b2n (s.ack.pinJammed || s.ack.chJammed) * 2 ^ 20 + b2n s.safe.mismatch * 2 ^ 19
    + b2n (s.bank.valid && s.bank.modu.bench) * 2 ^ 18 + b2n s.bring.bootFail * 2 ^ 17 + b2n (safeHigh s) * 2 ^ 16
    + stageCode s.bring.stage * 2 ^ 12 + b2n (sessionOn s .mb0) * 2 ^ 11 + b2n (sessionOn s .mb1) * 2 ^ 10)

/-- FLT_SUM (R372). -/
def fltSum (s : State) : Word :=
  let busy := fun (q : FaultQueue) => b2n (!q.hand.isEmpty)
  BitVec.ofNat 32 (b2n (faultLow s) * 2 ^ 31 + s.flt.latched * 2 ^ 28 + busy s.flt.laneQ.a * 2 ^ 20 + busy s.flt.laneQ.b * 2 ^ 21
    + busy s.flt.laneQ.c * 2 ^ 22 + busy s.flt.hubQ * 2 ^ 23 + s.flt.count.toNat)

/-- WAKE_STAT (R418). -/
def wakeStat (s : State) : Word :=
  BitVec.ofNat 32 (s.pwr.cause * 2 ^ 28 + s.pwr.stuck.toNat * 2 ^ 16 + s.pwr.input.toNat * 2 ^ 8 + s.pwr.count.toNat)

/-- PF_STAT (R418). -/
def pfStat (s : State) : Word :=
  BitVec.ofNat 32 (b2n s.pwr.pfSeen * 2 ^ 31 + b2n s.pwr.vholdShort * 2 ^ 30 + b2n s.pwr.pfNow * 2 ^ 29 + s.pwr.pfCount.toNat)

/-! ### The bridge registers (R319, R331) -/

/-- What the module keeps of a node, as it starts (R328). -/
def nodeSt (s : State) (n : Nat) : NodeSt := (s.br.nodes.find? (fun x => x.node = n)).getD { node := n }

/-- A page of the remote window. -/
def brPage (s : State) (n : Nat) : BrPage := s.br.pages.getD n {}

/-- EN of a page with this class and node may be set (R320). -/
def pagePermitted (s : State) (train : Bool) (node : Nat) : Bool :=
  s.bank.valid && node != s.bank.net.deviceId &&
    (if train then s.bank.net.bridge.nodes.any (fun x => x.node = node) && s.bank.net.ip.etbAddr != 0
     else s.bank.net.tx.any (fun e => e.ty = 5))

/-- BR_PAGEn_CFG (R319). -/
def pageCfgWord (s : State) (n : Nat) : Word :=
  let g := brPage s n
  let x := nodeSt s g.node
  BitVec.ofNat 32 (b2n g.en * 2 ^ 31 + b2n g.train * 2 ^ 30 + (if g.en && g.train then x.credits else 0) * 2 ^ 24
    + b2n x.fenced * 2 ^ 23 + g.node)

/-- A bridge refusal counted in BR_CNT.REFUSED (R331). -/
def refuse (s : State) (k : Nat := 1) : State := { s with br := { s.br with refused := satInc s.br.refused k } }

/-- A write to BR_PAGEn_CFG (R319, R320). -/
def writePageCfg (s : State) (n : Nat) (w : Word) : State :=
  let train := w.getLsbD 30
  let node := bits w.toNat 0 10
  let ok := pagePermitted s train node
  let s := if w.getLsbD 31 && !ok then refuse s else s
  { s with br := { s.br with pages := upd s.br.pages n (fun g => { g with en := w.getLsbD 31 && ok, train := train, node := node }) } }

/-- Entries of the outbound queue in use (R331): the requests that wait. -/
def outUsed (s : State) : Nat := s.br.outQ.length + s.br.trainQ.length

/-- BR_STAT (R331). -/
def brStat (s : State) : Word :=
  BitVec.ofNat 32 (min 255 (s.br.nodes.filter (fun x => x.fenced)).length * 2 ^ 24
    + (s.br.delayed.filter (fun x => x.isSome)).length * 2 ^ 16 + outUsed s)

/-- A read of BR_LOG_DATA: the next word of the oldest entry; the read of word 4 removes the entry (R331). -/
def readBrLog (s : State) : Word × State :=
  match s.br.log with
  | [] => (0, s)
  | [] :: l => (0, { s with br := { s.br with log := l } })
  | [w] :: l => (w, { s with br := { s.br with log := l } })
  | (w :: ws) :: l => (w, { s with br := { s.br with log := ws :: l } })

/-! ### Mailbox registers (R445, R446) -/

/-- The code of a mailbox state (R445). -/
def mbCode : MbState → Nat
  | .idle => 0 | .receiving => 1 | .busy => 2 | .done => 3

/-- A mailbox register at an offset of its block (R445), without side effect. -/
def mbPeek (m : Mailbox) (off : Nat) : Option Word :=
  match off with
  | 0x00 => some 0
  | 0x04 => some (BitVec.ofNat 32 (mbCode m.st * 2 ^ 28 + b2n m.rejected * 2 ^ 27 + b2n m.overrun * 2 ^ 26 + m.result * 2 ^ 16 + m.tag))
  | 0x08 => some (BitVec.ofNat 32 (m.tag * 2 ^ 16 + m.code))
  | 0x0C => some (BitVec.ofNat 32 ((1024 - m.fill) * 2 ^ 16 + m.len))
  | 0x10 => some (m.resp.headD 0)
  | 0x14 => some (BitVec.ofNat 32 (m.resp.length * 2 ^ 16 + m.rlen))
  | 0x18 => some (BitVec.ofNat 32 m.last)
  | _ => none

/-- The latest host port error (R441). -/
def hostError (s : State) (cause word : Nat) : State := { s with hp := { s.hp with cause := cause, word := word } }

/-- A read of MB_DATA: the next response word, or zero beyond RLEN (R446). -/
def readMbData (s : State) (mb : Mb) : Word × State :=
  let m := mbox s mb
  (m.resp.headD 0, modMb s mb (fun m => { m with resp := m.resp.drop 1 }))

/-- A source other than the one that holds a mailbox writes to it: the write is discarded (R448). -/
def heldByOther (s : State) (mb : Mb) (src : Source) : Bool :=
  match (mbox s mb).holder with
  | some h => h != src
  | none => false

/-- A write to MB_DATA: a request word enters the FIFO, from which the supervisor has meanwhile taken some words. The last word
of the request makes the command BUSY; a word that finds the FIFO full is lost and ends the command with BAD_ARG, and LAST names the
last word that the supervisor has taken (R446, R447; DEDUCED, notes/assumptions 156). -/
def writeMbData (s : State) (mb : Mb) (src : Source) (w : Word) (drained : Nat) : State :=
  let m := mbox s mb
  if heldByOther s mb src then s
  else if m.st != .receiving then (if src = .host then hostError s 7 0 else s)
  else
    let fill := m.fill - drained
    if 1024 ≤ fill then
      finishMbAt (modMb s mb (fun m => { m with fill := fill, overrun := true })) mb 3 [] (m.req.length - fill)
    else
      let s := modMb s mb (fun m => { m with fill := fill + 1, req := m.req ++ [w] })
      let m := mbox s mb
      if m.req.length < m.need then s
      else modMb s mb (fun m => { m with st := .busy, since := rawNow s })

/-- A write to MB_CMD (R432, R446). -/
def writeMbCmd (s : State) (mb : Mb) (src : Source) (w : Word) : State :=
  let m := mbox s mb
  if s.modu.mode = .bringup then discardWrite s
  else if heldByOther s mb src then s
  else if m.st != .idle then modMb s mb (fun m => { m with rejected := true })
  else
    let s := startMb s mb src w.toNat m.len [] false
    if 4098 < m.len then finishMbAt s mb 3 [] 0 else s

/-- A write to MB_CTRL: ABORT in RECEIVING, ACK in DONE (R445). -/
def writeMbCtrl (s : State) (mb : Mb) (src : Source) (w : Word) : State :=
  let m := mbox s mb
  if heldByOther s mb src then s
  else if m.st = .receiving && w.getLsbD 1 then idleMb s mb
  else if m.st = .done && w.getLsbD 0 then idleMb s mb
  else s

/-- A write to a mailbox register at an offset of its block (R445). -/
def writeMb (s : State) (mb : Mb) (src : Source) (off : Nat) (w : Word) (drained : Nat) : State :=
  match off with
  | 0x00 => writeMbCtrl s mb src w
  | 0x04 =>
    if heldByOther s mb src then s
    else modMb s mb (fun m => { m with rejected := m.rejected && !w.getLsbD 27, overrun := m.overrun && !w.getLsbD 26 })
  | 0x08 => writeMbCmd s mb src w
  | 0x0C => if heldByOther s mb src then s else modMb s mb (fun m => { m with len := bits w.toNat 0 16 })
  | 0x10 => writeMbData s mb src w drained
  | _ => s

/-! ### The map (R442) -/

/-- A word of the ID block (R424, R442). -/
def idWord (s : State) (a : Nat) : Word :=
  match a with
  | 0x00 => 0x4B4C3090
  | 0x04 => if Config.variantX then 0x00000058 else 0x00000041
  | 0x08 => if s.bring.bootFail then 0 else 3
  | 0x0C => Config.hwRev
  | 0x10 => Config.fwVer s.xch.fwSlot
  | _ => Config.serial ((a - 0x14) / 4)

/-- A latched word of an axis (R41). -/
def axisWord (a : Axis) (k : Nat) : Word :=
  match k with
  | 0 => hi32 a.latVal | 1 => lo32 a.latVal | 2 => hi32 a.latRaw | 3 => lo32 a.latRaw
  | 4 => hi32 a.latOfs | 5 => lo32 a.latOfs | 6 => hi32 a.latScale | _ => lo32 a.latScale

/-- What an address reads as for a reader, without side effect; none for a reserved address (R439, R442). -/
def peek (s : State) (p : Port) (a : Nat) : Option Word :=
  if a % 4 != 0 then none
  else if a ≤ 0x1C then some (idWord s a)
  else if a = 0x100 then some (modStat s)
  else if s.bring.bootFail then some 0
  else if a = 0x20 then some (BitVec.ofNat 32 (s.hp.cause * 2 ^ 28 + s.hp.word % 2 ^ 16))
  else if a = 0x104 then some s.hp.irq
  else if a = 0x108 then some s.hp.irqEn
  else if a = 0x10C then some (hi32 s.vote.harvest)
  else if a = 0x110 then some s.hp.harvestLo
  else if a = 0x114 then some (hi32 s.hp.trig)
  else if a = 0x118 then some (lo32 s.hp.trig)
  else if a = 0x11C then some (s.hp.mbxChg.setWidth 32)
  else if 0x140 ≤ a && a < 0x1C0 then
    let x := s.hp.slots.getD ((a - 0x140) / 8) {}
    some (if a % 8 = 0 then x.val else x.lat.setWidth 32)
  else if 0x200 ≤ a && a ≤ 0x218 then mbPeek s.hp.mb0 (a - 0x200)
  else if 0x240 ≤ a && a ≤ 0x258 then mbPeek s.hp.mb1 (a - 0x240)
  else if a = 0x300 then some 0
  else if 0x310 ≤ a && a < 0x390 then some (axisWord (axis s ((a - 0x310) / 32)) ((a - 0x310) / 4 % 8))
  else if 0x390 ≤ a && a < 0x3A0 then some (axStat s ((a - 0x390) / 4))
  else if 0x3A0 ≤ a && a < 0x3B0 then
    let x := s.tim.inputs.getD ((a - 0x3A0) / 4) {}
    some (x.discard ++ x.capLost)
  else if a = 0x3B0 then
    let late := fun n => (s.tim.outputs.getD n {}).late
    some (late 3 ++ late 2 ++ late 1 ++ late 0)
  else if a = 0x400 then some (recStat s p)
  else if a = 0x404 then some (hi32 (recReader s p).cursor)
  else if a = 0x408 then some (lo32 (recReader s p).cursor)
  else if a = 0x40C then some (readRecData s p).1
  else if a = 0x500 then some (brStat s)
  else if a = 0x504 then some (s.br.discard ++ s.br.refused)
  else if a = 0x508 then some (BitVec.ofNat 32 (s.br.lost.toNat * 2 ^ 16 + s.br.lastCode.toNat * 2 ^ 8 + s.br.log.length))
  else if a = 0x50C then some (readBrLog s).1
  else if 0x580 ≤ a && a < 0x600 then
    let n := (a - 0x580) / 8
    some (if a % 8 = 0 then pageCfgWord s n else BitVec.ofNat 32 ((brPage s n).base * 2 ^ 19))
  else if a = 0x600 then some s.pwr.stat
  else if a = 0x604 then some (wakeStat s)
  else if a = 0x608 then some (pfStat s)
  else if 0x610 ≤ a && a < 0x660 then some ((s.pwr.votes.getD ((a - 0x610) / 4) 0).setWidth 32)
  else if a = 0x700 then some (fltSum s)
  else if a = 0x704 then some (s.flt.ovfHub ++ s.flt.ovfC ++ s.flt.ovfB ++ s.flt.ovfA)
  else if a = 0x708 then some (s.flt.wrDiscard ++ s.flt.rdZero)
  else if a = 0x70C then some (logStat s p)
  else if a = 0x710 then some (hi32 (fltReader s p).cursor)
  else if a = 0x714 then some (lo32 (fltReader s p).cursor)
  else if a = 0x718 then some (readLogData s p).1
  else none

/-- The window registers, at which the address of an access does not advance (R439). -/
def isWindow (a : Nat) : Bool := a = 0x210 || a = 0x250 || a = 0x40C || a = 0x50C || a = 0x718

/-- What a read of an address takes with it (R9, R41, R331, R358, R372, R442, R446). -/
def readEffect (s : State) (p : Port) (a : Nat) : State :=
  if s.bring.bootFail then s
  else if a = 0x20 then { s with hp := { s.hp with cause := 0, word := 0 } }
  else if a = 0x10C then { s with hp := { s.hp with harvestLo := lo32 s.vote.harvest } }
  else if 0x140 ≤ a && a < 0x1C0 && a % 8 = 0 then
    { s with hp := { s.hp with slots := upd s.hp.slots ((a - 0x140) / 8) (fun x => { x with lat := x.q }) } }
  else if a = 0x210 then (readMbData s .mb0).2
  else if a = 0x250 then (readMbData s .mb1).2
  else if 0x3A0 ≤ a && a < 0x3B0 then
    { s with tim := { s.tim with inputs := upd s.tim.inputs ((a - 0x3A0) / 4) (fun x => { x with discard := 0, capLost := 0 }) } }
  else if a = 0x3B0 then { s with tim := { s.tim with outputs := s.tim.outputs.map (fun x => { x with late := 0 }) } }
  else if a = 0x40C then (readRecData s p).2
  else if a = 0x504 then { s with br := { s.br with discard := 0, refused := 0 } }
  else if a = 0x508 then { s with br := { s.br with lost := 0 } }
  else if a = 0x50C then (readBrLog s).2
  else if a = 0x604 then { s with pwr := { s.pwr with count := 0 } }
  else if a = 0x704 then { s with flt := { s.flt with ovfA := 0, ovfB := 0, ovfC := 0, ovfHub := 0 } }
  else if a = 0x708 then { s with flt := { s.flt with wrDiscard := 0, rdZero := 0 } }
  else if a = 0x718 then (readLogData s p).2
  else s

/-- AXn_VAL_HI of an axis; its read latches before it returns the word (R41). -/
def isValHi (a : Nat) : Bool := decide (0x310 ≤ a) && decide (a < 0x390) && (a - 0x310) % 32 = 0

/-- A read of one word: none for a reserved address, which reads zero (R439). -/
def regRead (s : State) (p : Port) (a : Nat) : Option Word × State :=
  let s := if isValHi a && !s.bring.bootFail then readValHi s ((a - 0x310) / 32) else s
  (peek s p a, if a % 4 = 0 then readEffect s p a else s)

/-- Whose writes reach a mailbox through a port (R333, R448). -/
def portSource (p : Port) (node : Nat) : Source :=
  match p with
  | .host => .host
  | .bridge => .node node

/-- A write of one word to a register (R8). A reserved address discards it. The node names the source of a bridge access;
drained is what the supervisor has meanwhile taken from a request FIFO. -/
def regWrite (s : State) (p : Port) (node : Nat) (a : Nat) (w : Word) (drained : Nat) : State :=
  let src := portSource p node
  if (s.bring.bootFail && a != 0x208 && a != 0x248) || a % 4 != 0 then s
  else if a = 0x100 then { s with safe := { s.safe with mismatch := s.safe.mismatch && !w.getLsbD 19 } }
  else if a = 0x104 then { s with hp := { s.hp with irq := s.hp.irq &&& ~~~w } }
  else if a = 0x108 then { s with hp := { s.hp with irqEn := w &&& 0x7FFF } }
  else if a = 0x114 then { s with hp := { s.hp with trig := s.hp.trig &&& ~~~(w ++ 0#32) } }
  else if a = 0x118 then { s with hp := { s.hp with trig := s.hp.trig &&& ~~~(0#32 ++ w) } }
  else if a = 0x11C then { s with hp := { s.hp with mbxChg := s.hp.mbxChg &&& ~~~(w.setWidth 16) } }
  else if 0x200 ≤ a && a ≤ 0x218 then writeMb s .mb0 src (a - 0x200) w drained
  else if 0x240 ≤ a && a ≤ 0x258 then writeMb s .mb1 src (a - 0x240) w drained
  else if a = 0x300 then (if w.getLsbD 0 then snapAll s else s)
  else if 0x390 ≤ a && a < 0x3A0 then
    modAxis s ((a - 0x390) / 4) (fun x =>
      { x with qerr := x.qerr && !w.getLsbD 19, stepped := x.stepped && !w.getLsbD 18, overspeed := x.overspeed && !w.getLsbD 17 })
  else if a = 0x400 then { s with recd := { s.recd with skipped := s.recd.skipped && !w.getLsbD 30 } }
  else if a = 0x404 then setRecReader s p { recReader s p with hi := w }
  else if a = 0x408 then setRecReader s p ((recReader s p).seek w)
  else if 0x580 ≤ a && a < 0x600 then
    let n := (a - 0x580) / 8
    if a % 8 = 0 then writePageCfg s n w
    else { s with br := { s.br with pages := upd s.br.pages n (fun g => { g with base := bits w.toNat 19 13 }) } }
  else if a = 0x608 then
    { s with pwr := { s.pwr with pfSeen := s.pwr.pfSeen && !w.getLsbD 31, vholdShort := s.pwr.vholdShort && !w.getLsbD 30 } }
  else if a = 0x700 then (if w.getLsbD 27 then { s with flt := { s.flt with latched := 0, count := 0 } } else s)
  else if a = 0x70C then { s with flt := { s.flt with skipped := s.flt.skipped && !w.getLsbD 30 } }
  else if a = 0x710 then setFltReader s p { fltReader s p with hi := w }
  else if a = 0x714 then setFltReader s p ((fltReader s p).seek w)
  else s

end Sys2Proof.Machine
end

