-- ==== Sys2Proof/Machine/BridgeOps.lean ====
section
/-! DEFINITION. The bridge (R318 to R337): the remote window, delayed requests, posted writes and their fences, the error log, and
the inbound engine. -/
namespace Sys2Proof.Machine

/-! ### Container bodies (R324, R325) -/

/-- The bridge sends requests: its modes (R322), NET on, and not in a standby (R377). -/
def bridgeSends (s : State) : Bool := inService s && domainOn s 5 && !effectsHeld s

/-- A request: OP, COUNT, TAG, AFTER, ADDRESS and DATA (R324). -/
def requestBody (op count tag : Nat) (after : Option Nat) (addr : Nat) (data : List Word) : List Byte :=
  [BitVec.ofNat 8 op, BitVec.ofNat 8 count] ++ be16 tag ++ be16 (after.getD 0) ++ [BitVec.ofNat 8 (b2n after.isSome), 0]
    ++ beWord (BitVec.ofNat 32 addr) ++ beWords data

/-- A response: KIND, CODE, TAG, FLAGS, COUNT and what follows (R325). -/
def responseBody (kind code tag flags count : Nat) (rest : List Byte) : List Byte :=
  [BitVec.ofNat 8 kind, BitVec.ofNat 8 code] ++ be16 tag ++ [BitVec.ofNat 8 flags, BitVec.ofNat 8 count, 0, 0] ++ rest

/-- The address of a node in the train node table (R336). -/
def trainIp (s : State) (node : Nat) : Option Word := (s.bank.net.bridge.nodes.find? (fun x => x.node = node)).map (·.ip)

/-- What the module keeps of a node, changed. -/
def modNode (s : State) (n : Nat) (f : NodeSt → NodeSt) : State :=
  let l := s.br.nodes
  let m := if l.any (fun x => x.node = n) then l.map (fun x => if x.node = n then f x else x) else l ++ [f { node := n }]
  { s with br := { s.br with nodes := m } }

/-- What leaves for the nodes of the train node table leaves at once, one datagram for a node after the other, responses placed
first (R323). The time of a POST runs from here (R328). -/
def pumpTrain : Nat → State → State
  | 0, s => s
  | k + 1, s =>
    let reqs := if bridgeSends s then s.br.trainQ else []
    let resps := if inService s && domainOn s 5 then s.br.trainR else []
    match (resps.head?.map (·.1)) <|> (reqs.head?.map (·.1)) with
    | none => s
    | some node =>
      let (r, r') := takeFit (Nat × List Byte) (·.2.length) 1468 (resps.filter (fun y => y.1 = node))
      let used := r.foldl (fun n y => n + containerSize y.2.length) 0
      let (q, q') := takeFit (Nat × Option Nat × Nat × List Byte) (·.2.2.2.length) (1468 - used) (reqs.filter (fun y => y.1 = node))
      let others := s.br.trainQ.filter (fun y => y.1 ≠ node)
      let mine := if bridgeSends s then q' else s.br.trainQ.filter (fun y => y.1 = node)
      let s := { s with br := { s.br with trainR := r' ++ s.br.trainR.filter (fun y => y.1 ≠ node), trainQ := mine ++ others } }
      let tags := q.filterMap (fun y => y.2.1)
      let now := rawNow s
      let s := modNode s node (fun x => { x with posts := x.posts.map (fun p => if p.tag ∈ tags then { p with at_ := now } else p) })
      let bytes := be16 s.bank.net.deviceId ++ zeros 2 ++ r.flatMap (fun y => container 6 node y.2)
        ++ q.flatMap (fun y => container 5 node y.2.2.2)
      let s := match trainIp s node with
        | some ip => sendIp s ip (fun port => .udp { port := port, dst := ip, udp := 17226, bytes := bytes })
        | none => s
      pumpTrain k s

/-- Everything for the train nodes that may leave. -/
def pump (s : State) : State := pumpTrain (s.br.trainQ.length + s.br.trainR.length) s

/-- A request is queued on the carrier of its page's class (R323). -/
def issue (s : State) (train : Bool) (node : Nat) (tag : Option Nat) (page : Nat) (body : List Byte) : State :=
  if train then pump { s with br := { s.br with trainQ := s.br.trainQ ++ [(node, tag, page, body)] } }
  else { s with br := { s.br with outQ := s.br.outQ ++ [(node, tag, page, body)] } }

/-- A response is queued: as a datagram for a node of the train node table, otherwise for the module's bridge space (R323). -/
def respond (s : State) (node : Nat) (body : List Byte) : State :=
  if (trainIp s node).isSome then pump { s with br := { s.br with trainR := s.br.trainR ++ [(node, body)] } }
  else { s with br := { s.br with respQ := s.br.respQ ++ [(node, body)] } }

/-! ### The error log and fences (R329, R331, R343) -/

/-- An entry of the error log; where the log is full it is counted in LOST and its words 0 and 2 go into an S2 record (R331, R455). -/
def logBridge (s : State) (code page node tag count remote : Nat) : State :=
  let w0 := code * 2 ^ 24 + page * 2 ^ 20 + node
  let ws := [BitVec.ofNat 32 w0, BitVec.ofNat 32 (tag * 2 ^ 16 + count * 2 ^ 8), BitVec.ofNat 32 remote,
    hi32 s.vote.harvest, lo32 s.vote.harvest]
  if s.br.log.length < 64 then { s with br := { s.br with log := s.br.log ++ [ws] } }
  else raiseHub { s with br := { s.br with lost := satInc s.br.lost } } 2 0x9003 node w0 remote

/-- The node is fenced: every POST to it that has not left is discarded, logged with FENCED, and gives its credit back (R329, R371). -/
def fence (s : State) (node : Nat) : State :=
  if (nodeSt s node).fenced then s
  else
    let s := raiseHub (modNode s node (fun x => { x with fenced := true })) 2 0x9002 node
    let left := (s.br.trainQ.filter (fun y => y.1 = node)).filterMap (fun y => y.2.1)
    let posts := (nodeSt s node).posts.filter (fun p => p.tag ∈ left)
    let s := { s with br := { s.br with trainQ := s.br.trainQ.filter (fun y => !(y.1 = node && y.2.1.isSome)) } }
    let s := modNode s node (fun x => { x with
      posts := x.posts.filter (fun p => !(p.tag ∈ left)), credits := min 32 (x.credits + posts.length) })
    posts.foldl (fun s p => logBridge s 5 p.page node p.tag p.count p.remote) s

/-- A far-side error or the TIMEOUT of a POST, in one step: log entry, bridge interrupt, record, fence (R329). -/
def postError (s : State) (node code : Nat) (p : PostSt) : State :=
  let s := setIrq (logBridge s code p.page node p.tag p.count p.remote) irqBridge
  fence (raiseHub s 2 0x9001 node code p.tag) node

/-- A credit returns with a code (R328, R329). A POST that has been logged with TIMEOUT keeps its credit until RESYNC. -/
def returnCredit (s : State) (node tag code : Nat) : State :=
  match (nodeSt s node).posts.find? (fun p => p.tag = tag && !p.lost) with
  | some p =>
    let s := modNode s node (fun x => { x with
      posts := x.posts.filter (fun q => q.tag ≠ tag || q.lost), credits := min 32 (x.credits + 1) })
    if code = 0 then s else postError s node code p
  | none => s

/-! ### Delayed entries (R326, R327) -/

/-- A delayed entry. -/
def delayedAt (s : State) (i : Nat) : Option DelayedEntry := s.br.delayed.getD i none
/-- A delayed entry replaced. -/
def setDelayed (s : State) (i : Nat) (e : Option DelayedEntry) : State :=
  { s with br := { s.br with delayed := upd s.br.delayed i (fun _ => e) } }

/-- The entry of a page, address and direction (R326, R440). -/
def findDelayed (s : State) (page addr : Nat) (write : Bool) : Option (Nat × DelayedEntry) :=
  (List.range 16).findSome? (fun i => match delayedAt s i with
    | some e => if e.page = page && e.addr = addr && e.write = write then some (i, e) else none
    | none => none)

/-- A delayed request ends with TIMEOUT: it is logged and recorded, and waits for its repeat (R327, R331, R343). -/
def delayedTimeout (s : State) (i : Nat) (e : DelayedEntry) : State :=
  let s := setDelayed s i (some { e with done := some (6, false, [], rawNow s) })
  raiseHub (logBridge s 6 e.page e.node i e.count e.remote) 1 0x9005 e.node i e.remote

/-- A completion not collected within DISCARD_MS is discarded (R327). -/
def discardEntry (s : State) (i : Nat) : State :=
  match delayedAt s i with
  | some e =>
    match e.done with
    | some (_, _, _, t) =>
      if elapsed s t (e.discardMs * 1000000) then
        let s := setDelayed s i none
        { s with br := { s.br with discard := satInc s.br.discard } }
      else s
    | none => s
  | none => s

/-- What an access of the host port answers: ERR, DOMAIN_OFF, RETRY and the words of a read (R436). -/
structure PortAnswer where
  err : Bool := false
  dOff : Bool := false
  retry : Bool := false
  words : List Word := []
  deriving DecidableEq, Repr, Inhabited

/-- The page, and how many words of an access belong to its request: at most 64, none beyond the end of the page (R321). -/
def windowSpan (a count : Nat) : Nat × Nat := ((a - 0x800000) / 0x80000, min count (min 64 ((0x80000 - a % 0x80000) / 4)))
/-- The remote address of an access (R318). -/
def remoteAddr (s : State) (page a : Nat) : Nat := (brPage s page).base * 0x80000 + a % 0x80000

/-- A window access that the bridge refuses: counted, and reported as an error of the bridge (R318, R322, R436, R441). -/
def windowRefused (s : State) (zero : List Word) : PortAnswer × State := ({ err := true, words := zero }, hostError (refuse s) 6 0)

/-- A new delayed request (R326), with AFTER for the node's POSTs (R324); with all 16 entries in use it sends nothing. -/
def newDelayed (s : State) (page a k : Nat) (write : Bool) (data : List Word) : State :=
  let g := brPage s page
  match (List.range 16).find? (fun i => (delayedAt s i).isNone) with
  | some i =>
    let e : DelayedEntry := { page := page, addr := a, node := g.node, train := g.train, remote := remoteAddr s page a, write := write
                              count := k, data := data, at_ := rawNow s, reqMs := s.bank.net.bridge.reqTimeout
                              discardMs := s.bank.net.bridge.discardMs }
    issue (setDelayed s i (some e)) g.train g.node none page
      (requestBody (if write then 2 else 1) k i (nodeSt s g.node).last e.remote data)
  | none => refuse s

/-- A host read in the remote window (R318, R321, R322, R326, R369, R440). -/
def windowRead (s : State) (a count : Nat) : PortAnswer × State :=
  let (page, k) := windowSpan a count
  let zero := List.replicate count (0 : Word)
  if count = 0 then ({}, s)
  else if !domainOn s 5 then ({ dOff := true, words := zero }, zeroReads s 1)
  else if !inService s || !(brPage s page).en then windowRefused s zero
  else
    let s := refuse s (count - k)
    match findDelayed s page a false with
    | some (i, e) =>
      match e.done with
      | none => ({ retry := true, words := zero }, if e.count = k then s else refuse s)
      | some (code, off, ws, _) =>
        let words := (ws.take k ++ zero).take count
        if e.count != k then ({ words := words }, refuse s)
        else
          let s := setDelayed s i none
          if code = 0 then ({ dOff := off, words := words }, s)
          else
            ({ err := true, dOff := off, words := words },
              hostError { s with br := { s.br with lastCode := BitVec.ofNat 8 code } } 6 0)
    | none => ({ retry := true, words := zero }, newDelayed s page a k false [])

/-- A host write to a TRAIN page (R328, R329): the next tag; discarded and logged while the node is fenced; refused without a credit or
a queue entry. -/
def windowPost (s : State) (page a : Nat) (ws : List Word) : PortAnswer × State :=
  let g := brPage s page
  let x := nodeSt s g.node
  let remote := remoteAddr s page a
  let next := (x.next + 1) % 65536
  if x.fenced then ({}, logBridge (modNode s g.node (fun x => { x with next := next })) 5 page g.node x.next ws.length remote)
  else if x.credits = 0 || 1024 ≤ outUsed s then
    ({ err := true }, setIrq (hostError (refuse s) 6 0) irqBridge)
  else
    let p : PostSt := { tag := x.next, page := page, remote := remote, count := ws.length, at_ := rawNow s
                        reqMs := s.bank.net.bridge.reqTimeout }
    let s := modNode s g.node (fun x => { x with
      next := next, credits := x.credits - 1, last := some x.next, posts := x.posts ++ [p] })
    ({}, issue s true g.node (some p.tag) page (requestBody 3 ws.length p.tag x.last remote ws))

/-- A host write in the remote window: a delayed write on a LOCAL page, a POST on a TRAIN page (R318, R321, R322, R326, R328, R369). -/
def windowWrite (s : State) (a : Nat) (ws : List Word) : PortAnswer × State :=
  let (page, k) := windowSpan a ws.length
  if ws.isEmpty then ({}, s)
  else if !domainOn s 5 then ({ dOff := true }, discardWrite s)
  else if !inService s || !(brPage s page).en then windowRefused s []
  else
    let s := refuse s (ws.length - k)
    let data := ws.take k
    if (brPage s page).train then windowPost s page a data
    else match findDelayed s page a true with
      | some (i, e) =>
        if e.count != k || e.data != data then windowRefused s []
        else match e.done with
          | none => ({ retry := true }, s)
          | some (code, off, _, _) =>
            let s := setDelayed s i none
            if code = 0 then ({ dOff := off }, s)
            else ({ err := true, dOff := off }, hostError { s with br := { s.br with lastCode := BitVec.ofNat 8 code } } 6 0)
      | none => ({ retry := true }, newDelayed s page a k true data)

/-- A READ_DATA or WRITE_RESULT completes the entry it answers; one for a freed or reused entry is discarded and counted (R326,
R327). -/
def completeDelayed (s : State) (node : Nat) (body : List Byte) : State :=
  let i := getNat body 2 2
  let code := getByte body 1
  let write := decide (getByte body 0 = 2)
  let discard := { s with br := { s.br with discard := satInc s.br.discard } }
  match delayedAt s i with
  | some e =>
    if e.node != node || e.write != write || e.done.isSome || (!write && code = 0 && getByte body 5 != e.count) then discard
    else
      let ws := if write then [] else toWords (slice body 8 (4 * getByte body 5))
      setDelayed s i (some { e with done := some (code, bit (getByte body 4) 0, ws, rawNow s) })
  | none => discard

/-- A configuration swap clears EN of a page that is no longer permitted, and its delayed entries end with TIMEOUT (R320). -/
def adoptBridge (s : State) : State :=
  (List.range 16).foldl (fun s n =>
    let g := brPage s n
    if !g.en || pagePermitted s g.train g.node then s
    else
      let s := { s with br := { s.br with pages := upd s.br.pages n (fun g => { g with en := false }) } }
      (List.range 16).foldl (fun s i => match delayedAt s i with
        | some e => if e.page = n && e.done.isNone then delayedTimeout s i e else s
        | none => s) s) s

/-! ### The inbound engine (R333 to R335) -/

/-- What the module keeps of a source. -/
def sourceSt (s : State) (n : Nat) : SourceSt := (s.br.sources.find? (fun x => x.node = n)).getD { node := n }
/-- The same, changed. -/
def modSource (s : State) (n : Nat) (f : SourceSt → SourceSt) : State :=
  let l := s.br.sources
  let m := if l.any (fun x => x.node = n) then l.map (fun x => if x.node = n then f x else x) else l ++ [f { node := n }]
  { s with br := { s.br with sources := m } }

/-- Inbound buffers in use: requests that wait, and responses that have not left (R335). -/
def inboundUsed (s : State) : Nat :=
  s.br.sources.foldl (fun n x => n + x.held.length + x.waits.length) (s.br.respQ.length + s.br.trainR.length)

/-- Fields of a request (R324). -/
def rqOp (b : List Byte) : Nat := getByte b 0
/-- COUNT. -/
def rqCount (b : List Byte) : Nat := getByte b 1
/-- TAG. -/
def rqTag (b : List Byte) : Nat := getNat b 2 2
/-- AFTER, where it is valid. -/
def rqAfter (b : List Byte) : Option Nat := if bit (getByte b 6) 0 then some (getNat b 4 2) else none
/-- ADDRESS. -/
def rqAddr (b : List Byte) : Nat := getNat b 8 4

/-- How far a tag lies ahead of another; 32,768 and above means behind (R328: tags wrap). -/
def tagAhead (t base : Nat) : Nat := (t + 65536 - base % 65536) % 65536

/-- The addresses that an access of n words touches: a window register does not advance (R439). -/
def accessAddrs (a n : Nat) : List Nat := (List.range n).map (fun k => if isWindow a then a else a + 4 * k)

/-- The code with which a request is refused before it is performed (R332, R333); 0 where it may be performed. -/
def inboundCode (s : State) (b : List Byte) : Nat :=
  let write := decide (rqOp b ≠ 1)
  let n := rqCount b
  let a := rqAddr b
  if n = 0 || 64 < n || a % 4 != 0 || getByte b 6 / 2 != 0 || getByte b 7 != 0 || b.length != 12 + (if write then 4 * n else 0) then 7
  else if s.bank.net.bridge.inbound = 0 || (write && s.bank.net.bridge.inbound = 1) then 2
  else if (accessAddrs a n).any (fun x => decide (0x800000 ≤ x) || (peek s .bridge x).isNone) then 1
  else if write && (accessAddrs a n).any (fun x => decide (0x200 ≤ x) && decide (x ≤ 0x218)) then 2
  else 0

/-- The words of a read of the register space at an address (R333, R439). -/
def regReads (p : Port) : List Nat → State → List Word × State
  | [], s => ([], s)
  | a :: as, s =>
    let (w, s) := if a ≤ 0x7FFFFF then regRead s p a else (none, s)
    let (ws, s) := regReads p as s
    (w.getD 0 :: ws, s)

/-- The writes of an access to the register space (R333, R439). -/
def regWrites (p : Port) (node drained : Nat) : List (Nat × Word) → State → State
  | [], s => s
  | (a, w) :: l, s => regWrites p node drained l (if a ≤ 0x7FFFFF then regWrite s p node a w drained else s)

/-- The inbound engine performs a WRITE or a POST, or gives the code that refuses it. -/
def performWrite (s : State) (node : Nat) (b : List Byte) : Nat × State :=
  let code := inboundCode s b
  if code != 0 then (code, s)
  else (0, regWrites .bridge node 0 ((accessAddrs (rqAddr b) (rqCount b)).zip (toWords (b.drop 12))) s)

/-- The inbound engine performs a READ or a WRITE and answers it (R333). -/
def answerAccess (s : State) (node : Nat) (b : List Byte) : State :=
  if rqOp b = 1 then
    let code := inboundCode s b
    if code != 0 then respond s node (responseBody 1 code (rqTag b) 0 0 [])
    else
      let (ws, s) := regReads .bridge (accessAddrs (rqAddr b) (rqCount b)) s
      respond s node (responseBody 1 0 (rqTag b) 0 ws.length (beWords ws))
  else
    let (code, s) := performWrite s node b
    respond s node (responseBody 2 code (rqTag b) 0 0 [])

/-- Credit returns leave, at most 64 in one response (R325). -/
def sendCredits : Nat → State → Nat → List (Nat × Nat) → State
  | 0, s, _, _ => s
  | k + 1, s, node, es =>
    if es.isEmpty then s
    else
      let now := es.take 64
      let entries := now.flatMap (fun e => be16 e.1 ++ [BitVec.ofNat 8 e.2, 0])
      sendCredits k (respond s node (responseBody 3 0 0 0 now.length entries)) node (es.drop 64)

/-- The POST of the expected tag is performed, or returned as FENCED; a POST that fails fences the source. -/
def performPost (s : State) (node : Nat) (b : List Byte) : Nat × State :=
  let x := sourceSt s node
  let (code, s) := if x.fenced then (5, s) else performWrite s node b
  (code, modSource s node (fun x => { x with expect := (rqTag b + 1) % 65536, fenced := x.fenced || code != 0 }))

/-- Held POSTs whose turn has come are performed in tag order; once the source is fenced all of them are returned as FENCED (R329,
R334). -/
def drainHeld : Nat → State → Nat → List (Nat × Nat) → List (Nat × Nat) × State
  | 0, s, _, es => (es, s)
  | k + 1, s, node, es =>
    let x := sourceSt s node
    let turn := if x.fenced then x.held.head? else x.held.find? (fun h => h.1 = x.expect)
    match turn with
    | some h =>
      let s := modSource s node (fun x => { x with held := x.held.filter (fun y => y.1 ≠ h.1) })
      if x.fenced then drainHeld k s node (es ++ [(h.1, 5)])
      else
        let (code, s) := performPost s node h.2.1
        drainHeld k s node (es ++ [(h.1, code)])
    | none => (es, s)

/-- The POST that a READ or WRITE names in AFTER has been performed or reported (R334). -/
def afterMet (s : State) (node : Nat) (b : List Byte) : Bool :=
  match rqAfter b with
  | some t => decide (32768 ≤ tagAhead t (sourceSt s node).expect)
  | none => true

/-- READs and WRITEs that need wait no longer are performed, in the order of their arrival. -/
def releaseWaits (s : State) (node : Nat) : State :=
  let ready := (sourceSt s node).waits.filter (fun w => afterMet s node w.1)
  let s := modSource s node (fun x => { x with waits := x.waits.filter (fun w => !afterMet s node w.1) })
  ready.foldl (fun s w => answerAccess s node w.1) s

/-- What follows once a source's POSTs have moved on: held ones in turn, credit returns, READs and WRITEs that waited. -/
def settleSource (s : State) (node : Nat) (es : List (Nat × Nat)) : State :=
  let (es, s) := drainHeld (sourceSt s node).held.length s node es
  releaseWaits (sendCredits es.length s node es) node

/-- A remote access request from a source: READ, WRITE or POST (R332 to R335). -/
def takeRequest (s : State) (node : Nat) (b : List Byte) : State :=
  if !inService s || !domainOn s 5 then s
  else
    let x := sourceSt s node
    let noRoom := decide (1024 ≤ inboundUsed s)
    match rqOp b with
    | 3 =>
      let t := rqTag b
      let d := tagAhead t x.expect
      if 32768 ≤ d then s
      else if noRoom || x.fenced then
        let next := if d = 0 || x.fenced then (t + 1) % 65536 else x.expect
        settleSource (modSource s node (fun x => { x with fenced := true, expect := next })) node [(t, if x.fenced then 5 else 3)]
      else if d = 0 then
        let (code, s) := performPost s node b
        settleSource s node [(t, code)]
      else if x.held.any (fun h => h.1 = t) then s
      else modSource s node (fun x => { x with held := x.held ++ [(t, b, rawNow s)] })
    | 1 | 2 =>
      if noRoom then respond s node (responseBody (rqOp b) 3 (rqTag b) 0 0 [])
      else if afterMet s node b then answerAccess s node b
      else modSource s node (fun x => { x with waits := x.waits ++ [(b, rawNow s)] })
    | _ => s

/-- The 10 ms of a held POST, or of a READ or WRITE that waits, are over: each missing tag is reported as SEQ_GAP, the source is
fenced, what was held is returned as FENCED, and what waited for a reported tag is performed (R334). -/
def reportGap (s : State) (node : Nat) : State :=
  let x := sourceSt s node
  let expired := fun (t : Nat) => elapsed s t 10000000
  let late := x.held.any (fun h => expired h.2.2) || x.waits.any (fun w => expired w.2)
  if !late || !inService s then s
  else
    let tags := x.held.map (·.1) ++ (x.waits.filter (fun w => expired w.2)).filterMap (fun w => rqAfter w.1)
    let far := (tags.map (fun t => tagAhead t x.expect + 1)).foldl max 0
    let missing := ((List.range far).map (fun d => (x.expect + d) % 65536)).filter (fun t => !(x.held.any (fun h => h.1 = t)))
    let s := modSource s node (fun x => { x with fenced := true, expect := (x.expect + far) % 65536 })
    settleSource s node (missing.map (fun t => (t, 4)))

/-- A RESYNC from a source (R330): its fence is cleared, POSTs held for reordering are returned as FENCED, the next tag follows its
own, and it is answered. -/
def takeResync (s : State) (node tag : Nat) : State :=
  if !inService s || !domainOn s 5 then s
  else
    let x := sourceSt s node
    let s := modSource s node (fun x => { x with fenced := false, held := [], expect := (tag + 1) % 65536 })
    let s := sendCredits x.held.length s node (x.held.map (fun h => (h.1, 5)))
    releaseWaits (respond s node (responseBody 4 0 tag 0 0 [])) node

end Sys2Proof.Machine
end

