-- ==== Sys2Proof/Machine/Bridge.lean ====
section
/-! DEFINITION. The rows of the bridge and of the tunnels (R326 to R343). -/
namespace Sys2Proof.Machine

/-! ### Bridge rows -/

/-- FENCE_CLEAR (R330): a RESYNC with the next tag leaves for a fenced node. -/
def execFenceClear (mb : Mb) (s : State) : Host.Outcome State Fault Refusal :=
  runCmd s mb 0x0D02 false false [] (fun _ => 1) fun s ws =>
    let node := bits (wNat ws 0) 0 10
    let x := nodeSt s node
    if !x.fenced then resultMb s mb 4
    else if x.clearing.isSome then resultMb s mb 1
    else if !domainOn s 5 then resultMb s mb 6
    else
      let now := rawNow s
      let s := modNode (waitMb s mb) node (fun y => { y with clearing := some (mb, x.next, now), next := (x.next + 1) % 65536 })
      issue s true node none 0 (requestBody 4 0 x.next x.last 0 [])

/-- FENCE_CLEAR_TIMEOUT (R330): the fence stays. -/
def execFenceClearTimeout (mb : Mb) (s : State) : Host.Outcome State Fault Refusal :=
  .next (match s.br.nodes.find? (fun x => match x.clearing with
      | some (m, _, t) => m = mb && elapsed s t (s.bank.net.bridge.reqTimeout * 1000000)
      | none => false) with
    | some x => resultMb (modNode s x.node (fun y => { y with clearing := none })) mb 8
    | none => s)

/-- RESYNC_DONE (R330, R343): FENCED clears, 32 credits, and the tags continue from the RESYNC's own tag + 1. -/
def resyncDone (s : State) (node tag : Nat) : State :=
  match (nodeSt s node).clearing with
  | some (mb, t, _) =>
    if t = tag && domainOn s 5 then
      let s := modNode s node (fun x => { x with
        fenced := false, credits := 32, posts := [], clearing := none, next := (tag + 1) % 65536 })
      resultMb (raiseHub s 0 0x9004 node) mb 0
    else s
  | none => s

/-- RESYNC_DONE. -/
def execResyncDone (node tag : Nat) (s : State) : Host.Outcome State Fault Refusal := .next (resyncDone s node tag)

/-- A CREDIT response: its entries in their order (R325, R328, R329). -/
def takeCredits (s : State) (node : Nat) (body : List Byte) : State :=
  if !domainOn s 5 then s
  else (List.range (getByte body 5)).foldl (fun s i => returnCredit s node (getNat body (8 + 4 * i) 2) (getByte body (10 + 4 * i))) s

/-- CREDIT. -/
def execCredit (node : Nat) (body : List Byte) (s : State) : Host.Outcome State Fault Refusal := .next (takeCredits s node body)

/-- REMOTE_ACCESS_RESPONSE (R326, R327). -/
def execRemoteAccessResponse (node : Nat) (body : List Byte) (s : State) : Host.Outcome State Fault Refusal :=
  .next (if domainOn s 5 then completeDelayed s node body else s)

/-- A response by its KIND (R325); an unknown KIND answers nothing. -/
def takeResponse (s : State) (node : Nat) (body : List Byte) : State :=
  match getByte body 0 with
  | 1 | 2 => if domainOn s 5 then completeDelayed s node body else s
  | 3 => takeCredits s node body
  | 4 => resyncDone s node (getNat body 2 2)
  | _ => s

/-- RESYNC (R330). -/
def execResync (node tag : Nat) (s : State) : Host.Outcome State Fault Refusal := .next (takeResync s node tag)
/-- INBOUND_REQUEST (R333). -/
def execInboundRequest (node : Nat) (body : List Byte) (s : State) : Host.Outcome State Fault Refusal :=
  .next (takeRequest s node body)
/-- SEQ_GAP (R334). -/
def execSeqGap (node : Nat) (s : State) : Host.Outcome State Fault Refusal := .next (reportGap s node)

/-- A request by its OP (R324). -/
def arriveRequest (s : State) (node : Nat) (body : List Byte) : State :=
  if rqOp body = 4 then takeResync s node (rqTag body) else takeRequest s node body

/-- REQ_TIMEOUT (R327 to R329). -/
def execReqTimeout (what : BridgeWait) (s : State) : Host.Outcome State Fault Refusal :=
  .next (match what with
    | .delayed i =>
      match delayedAt s i.val with
      | some e => if e.done.isNone && elapsed s e.at_ (e.reqMs * 1000000) then delayedTimeout s i.val e else s
      | none => s
    | .post node tag =>
      match (nodeSt s node).posts.find? (fun p => p.tag = tag && !p.lost) with
      | some p =>
        if elapsed s p.at_ (p.reqMs * 1000000) && !(s.br.trainQ.any (fun y => y.1 = node && y.2.1 = some tag)) then
          let mark := fun (q : PostSt) => if q.tag = tag then { q with lost := true } else q
          postError (modNode s node (fun x => { x with posts := x.posts.map mark })) node 6 p
        else s
      | none => s)

/-- DISCARD_MS (R327). -/
def execDiscardMs (entry : Fin 16) (s : State) : Host.Outcome State Fault Refusal := .next (discardEntry s entry.val)

/-! ### Tunnels (R338 to R342) -/

/-- An interface is enabled in the bank (R338). -/
def ifOn (s : State) (i : Nat) : Bool := s.bank.valid && bit (getByte (s.bank.net.bridge.ifs.getD i []) 0) 0

/-- A record of a tunnel or an interface (R343). -/
def tunnelRecord (s : State) (sev : Nat) (code : BitVec 16) (unit : Nat) (on : Bool) : State := raiseHub s sev code unit (b2n on)

/-- The filters of a TUNNEL_OPEN: identifier and mask (R453). -/
def filterWords : Nat → List Word → List (Word × Word)
  | 0, _ => []
  | k + 1, ws => (ws.getD 0 0, ws.getD 1 0) :: filterWords k (ws.drop 2)

/-- TUNNEL_OPEN (R339). -/
def execTunnelOpen (mb : Mb) (s : State) : Host.Outcome State Fault Refusal :=
  runCmd s mb 0x0D00 false false [] (fun ws => 3 + 2 * bits (wNat ws 0) 12 4) fun s ws =>
    let ep := bits (wNat ws 0) 0 5
    let i := bits (wNat ws 0) 8 2
    let n := bits (wNat ws 0) 12 4
    let delay := wNat ws 2
    let can := decide (i < 2)
    if !ifOn s i || !(s.bank.net.tx.any (fun x => x.ty = 4 && x.ident = ep)) || 8 < n || (!can && n != 0)
        || !(delay = 0 || (250 ≤ delay && delay ≤ 100000)) then resultMb s mb 3
    else if (endpoint s ep).isSome || (!can && s.br.eps.any (fun e => e.iface = i)) then resultMb s mb 4
    else
      let e : Endpoint := { ep := ep, iface := i, peer := bits (wNat ws 1) 0 10, peerEp := bits (wNat ws 1) 16 5, delay := delay
                            filters := filterWords n (ws.drop 3) }
      let before := s.br.eps.filter (fun x => x.ep < ep)
      let after := s.br.eps.filter (fun x => ep < x.ep)
      resultMb (tunnelRecord { s with br := { s.br with eps := before ++ e :: after } } 0 0x9007 ep true) mb 0

/-- TUNNEL_CLOSE (R339): what the endpoint holds in both directions is discarded. -/
def execTunnelClose (mb : Mb) (s : State) : Host.Outcome State Fault Refusal :=
  runCmd s mb 0x0D01 true true [] (fun _ => 1) fun s ws =>
    let ep := bits (wNat ws 0) 0 5
    if (endpoint s ep).isNone then resultMb s mb 4
    else resultMb (tunnelRecord { s with br := { s.br with eps := s.br.eps.filter (fun x => x.ep ≠ ep) } } 0 0x9007 ep false) mb 0

/-- The data bytes that a DLC stands for: up to 8 in a classical frame, up to 64 in an FD frame (ISO 11898-1, R338). -/
def dlcBytes (fd : Bool) (dlc : Nat) : Nat :=
  if fd then [0, 1, 2, 3, 4, 5, 6, 7, 8, 12, 16, 20, 24, 32, 48, 64].getD dlc 64 else min dlc 8

/-- A received frame on an interface: KIND, its bytes as they are tunnelled, whether it is not erroneous (R338, R340). An FD frame
needs FD enabled, a remote frame is classical and without data, the data are as many as the DLC says; an asynchronous frame ends at
1,024 bytes, and an HDLC frame is no longer than that (log 85). -/
def foreignBytes (s : State) (i : Nat) : ForeignFrame → Nat × List Byte × Bool
  | .can id ctrl data good =>
    let fd := id.getLsbD 29
    let rtr := id.getLsbD 30
    let len := if rtr then 0 else dlcBytes fd (ctrl.toNat % 16)
    (1, beWord id ++ ctrl :: zeros 3 ++ data,
      good && (!fd || (!rtr && bit (getByte (s.bank.net.bridge.ifs.getD i []) 0) 1)) && data.length = len)
  | .async bs good => (2, bs.take 1024, good)
  | .hdlc bs good => (3, bs, good && bs.length ≤ 1024)

/-- The frame is one that the interface receives: CAN on CAN0 and CAN1; on SER0 and SER1 HDLC or asynchronous frames, as CTRL of the
interface says (R338). -/
def frameOfIf (s : State) (i : Nat) : ForeignFrame → Bool
  | .can _ _ _ _ => decide (i < 2)
  | .async _ _ => decide (2 ≤ i) && !bit (getByte (s.bank.net.bridge.ifs.getD i []) 0) 1
  | .hdlc _ _ => decide (2 ≤ i) && bit (getByte (s.bank.net.bridge.ifs.getD i []) 0) 1

/-- A filter matches an identifier: the same format, and the same bits under the mask (R339). -/
def filterMatches (f : Word × Word) (id : Word) : Bool :=
  f.1.getLsbD 31 = id.getLsbD 31 && ((f.1 ^^^ id) &&& f.2 &&& 0x1FFFFFFF) = 0

/-- The endpoint of a received frame: the lowest whose filter matches, or the one of a serial interface (R339). -/
def endpointFor (s : State) (i : Nat) (f : ForeignFrame) : Option Endpoint :=
  match f with
  | .can id _ _ _ => s.br.eps.find? (fun e => e.iface = i && e.filters.any (fun x => filterMatches x id))
  | _ => s.br.eps.find? (fun e => e.iface = i)

/-- Bytes a queue of an endpoint holds. -/
def queued (l : List (List Byte)) : Nat := (l.map (·.length)).foldl (· + ·) 0

/-- FOREIGN_FRAME_RECEIVE (R338 to R341): the frame is wrapped and queued, or discarded and counted. -/
def execForeignFrameReceive (iface : Fin 4) (f : ForeignFrame) (ago : Nat) (s : State) : Host.Outcome State Fault Refusal :=
  let (kind, bytes, good) := foreignBytes s iface.val f
  .next (
    if !ifOn s iface.val || !frameOfIf s iface.val f || !inService s || effectsHeld s then s
    else if !good then { s with br := { s.br with lineErrors := s.br.lineErrors + 1 } }
    else match endpointFor s iface.val f with
      | none => { s with br := { s.br with noEndpoint := s.br.noEndpoint + 1 } }
      | some e =>
        let rx := BitVec.ofInt 64 ((ax0 s).toInt - (ago : Int))
        let body := [BitVec.ofNat 8 e.peerEp, BitVec.ofNat 8 e.ep, BitVec.ofNat 8 kind, BitVec.ofNat 8 (b2n e.overrun)]
          ++ be16 e.seq ++ be16 bytes.length ++ beDWord rx ++ bytes
        if 6144 < queued e.outQ + body.length then modEp s e.ep (fun e => { e with overrun := true, drops := e.drops + 1 })
        else modEp s e.ep (fun e => { e with overrun := false, seq := (e.seq + 1) % 65536, outQ := e.outQ ++ [body] }))

/-- A tunnel container arrives (R342): it is accepted for the open endpoint that its peer names, and its frame waits for replay. -/
def takeTunnel (s : State) (node : Nat) (b : List Byte) : State :=
  let bad := { s with br := { s.br with contDiscard := s.br.contDiscard + 1 } }
  if !inService s then bad
  else match endpoint s (getByte b 0) with
    | none => bad
    | some e =>
      let seq := getNat b 4 2
      let step := match e.lastSeq with
        | some l => tagAhead seq l
        | none => 1
      if e.peer != node || e.peerEp != getByte b 1 || b.length < 16 + getNat b 6 2 || step = 0 || 32768 ≤ step then bad
      else
        let rx := (getDWord b 8).toInt
        let frame := slice b 16 (getNat b 6 2)
        let late := e.delay != 0 && decide (rx + (e.delay : Int) * 1000 < (ax0 s).toInt)
        let full := decide (6144 < queued (e.inQ.map (·.2)) + frame.length)
        modEp s e.ep (fun e => { e with
          lastSeq := some seq, gaps := e.gaps + b2n (step != 1), late := e.late + b2n late
          drops := e.drops + b2n (bit (getByte b 3) 0) + b2n full
          inQ := if full || effectsHeld s then e.inQ else e.inQ ++ [(rx, frame)] })

/-- TUNNEL_CONTAINER_RECEIVE. -/
def execTunnelContainerReceive (node : Nat) (body : List Byte) (s : State) : Host.Outcome State Fault Refusal :=
  .next (takeTunnel s node body)

/-- REPLAY (R342): the oldest frame is started once its moment has come, or fails and is counted. -/
def execReplay (ep : Fin 32) (ok : Bool) (s : State) : Host.Outcome State Fault Refusal :=
  .next (match endpoint s ep.val with
    | some e =>
      match e.inQ with
      | (rx, frame) :: rest =>
        if !inService s || effectsHeld s || (e.delay != 0 && decide ((ax0 s).toInt < rx + (e.delay : Int) * 1000)) then s
        else if ok && ifOn s e.iface && !(e.iface ∈ s.br.busOff) then
          emit (modEp s ep.val (fun e => { e with inQ := rest, replayed := e.replayed + 1 })) (.foreign e.iface frame)
        else modEp s ep.val (fun e => { e with inQ := rest, drops := e.drops + 1 })
      | [] => s
    | none => s)

/-- BUS_OFF (R343): a CAN interface enters bus-off or returns from it. -/
def execBusOff (iface : Fin 4) (entered : Bool) (s : State) : Host.Outcome State Fault Refusal :=
  let i := iface.val
  let l := s.br.busOff
  .next (if 2 ≤ i || !ifOn s i || decide (i ∈ l) = entered then s
    else tunnelRecord { s with br := { s.br with busOff := if entered then l ++ [i] else l.filter (· ≠ i) } } 1 0x9006 i entered)

end Sys2Proof.Machine
end

