-- ==== Sys2Proof/Machine/Jaran.lean ====
section
/-! DEFINITION. The bytes of Jaran frames: header, payload and CRC-32C (R380), and the payloads of the frame types (R381). R381 gives
the fields of a payload in their order and the length of some; a field without a length takes one byte, or what its values need
(DESIGN CHOICE, notes/assumptions 66). -/
namespace Sys2Proof.Machine

/-- A Jaran frame between K27.7 and K29.7: header, payload, CRC-32C over both (R380). -/
def jaranFrame (type flags : Nat) (seq : Word) (harvest : DWord) (payload : List Byte) : List Byte :=
  let body := [BitVec.ofNat 8 type, BitVec.ofNat 8 flags] ++ be16 payload.length ++ beWord seq ++ beDWord harvest ++ payload
  body ++ beWord (crc32c body)

/-- A payload cut into those of successive frames, 16,384 bytes each at most (R380). -/
def jaranPieces : Nat → List Byte → List (List Byte)
  | 0, bs => [bs.take 16384]
  | n + 1, bs => if bs.length ≤ 16384 then [bs] else bs.take 16384 :: jaranPieces n (bs.drop 16384)

/-- Words of an image, then their nibble words (R153, R381). -/
def wordsAndNibbles (ws : List QWord) : List Byte := ws.flatMap (fun w => beWord w.v) ++ (nibblesOf ws).flatMap beWord

/-- The same read back: n words. -/
def readNibbled (bs : List Byte) (n : Nat) : List QWord :=
  (List.range n).map (fun i =>
    { v := getWord bs (4 * i), q := (getWord bs (4 * n + 4 * (i / 8)) >>> (28 - 4 * (i % 8))).setWidth 4 })

/-- HELLO: strap, role, EPOCH, mode, FIL, the two digests (R381). -/
def helloBytes (m : HelloMsg) : List Byte :=
  [BitVec.ofNat 8 (b2n m.primary), BitVec.ofNat 8 (b2n m.controlling)] ++ beWord m.epoch ++ [BitVec.ofNat 8 m.mode, BitVec.ofNat 8 m.fil]
    ++ m.imageDigest ++ m.bankDigest

/-- HELLO from its payload. -/
def readHello (b : List Byte) : HelloMsg :=
  { primary := bit (getByte b 0) 0, controlling := bit (getByte b 1) 0, epoch := getWord b 2, mode := getByte b 6, fil := getByte b 7
    imageDigest := slice b 8 32, bankDigest := slice b 40 32 }

/-- The eight payload words of a HEARTBEAT (R381, R453). -/
def beatWords (m : HeartbeatMsg) : List Word :=
  [BitVec.ofNat 32 (b2n m.controlling), m.epoch, BitVec.ofNat 32 m.mode, m.lanes.setWidth 32, BitVec.ofNat 32 (b2n m.latchesClear),
    BitVec.ofNat 32 m.pairState, BitVec.ofNat 32 (b2n m.eligible + 2 * b2n m.mismatch), m.vote.setWidth 32]

/-- HEARTBEAT from its payload. -/
def readBeat (b : List Byte) : HeartbeatMsg :=
  let w := fun (k : Nat) => getWord b (4 * k)
  { controlling := (w 0).getLsbD 0, epoch := w 1, mode := (w 2).toNat, lanes := (w 3).setWidth 3, latchesClear := (w 4).getLsbD 0
    pairState := (w 5).toNat, eligible := (w 6).getLsbD 0, mismatch := (w 6).getLsbD 1, vote := (w 7).setWidth 8 }

/-- IMAGE: the twelve stamp words, the input image words, their nibble words (R381). -/
def imageBytes (stamp image : List QWord) : List Byte := stamp.flatMap (fun w => beWord w.v) ++ wordsAndNibbles image

/-- OUTPUT: task, release count, the compare set, and the SEQ values of the groups and ComIds (R381). -/
def outputBytes (t : Nat) (rel : Word) (words : List QWord) (lines : List RetLine) (groups coms : List (Word × Word)) : List Byte :=
  let list := fun (xs : List (Word × Word)) => be16 xs.length ++ xs.flatMap (fun x => beWord x.1 ++ beWord x.2)
  [BitVec.ofNat 8 t] ++ beWord rel ++ wordsAndNibbles words ++ lines.flatMap retLineBytes ++ list groups ++ list coms

/-- PAGE: task, space, page, checkpoint generation, and 1,152 bytes (R167, R381). -/
def pageBytes (t space page : Nat) (gen : DWord) (ws : List QWord) : List Byte :=
  [BitVec.ofNat 8 t, BitVec.ofNat 8 space] ++ be16 page ++ beDWord gen ++ wordsAndNibbles ws

/-- PAGE from its payload. -/
def readPage (b : List Byte) : PageMsg :=
  { task := getByte b 0, space := getByte b 1, page := getNat b 2 2, generation := (getDWord b 4).toNat, words := readNibbled (b.drop 12) 256 }

end Sys2Proof.Machine
end

