-- ==== Sys2Proof/Machine/Crypto.lean ====
section
/-! DEFINITION. SHA-256 (FIPS 180-4), HMAC-SHA-256 (RFC 2104) and ECDSA P-256 verification (FIPS 186-5), which R202, R205 and
R450 name. The constants and steps are those of the standards (PRESUMED, notes/assumptions 8). -/
namespace Sys2Proof.Machine

/-! ### SHA-256 -/

/-- The whole part of the k-th root of x, one bit at a time from bit n - 1 down. -/
def rootBelow (k x : Nat) : Nat → Nat → Nat
  | 0, r => r
  | n + 1, r => rootBelow k x n (if (r + 2 ^ n) ^ k ≤ x then r + 2 ^ n else r)

/-- The first 32 bits of the fraction of the k-th root of p. -/
def rootFraction (k p : Nat) : Word := BitVec.ofNat 32 (rootBelow k (p * 2 ^ (32 * k)) 38 0)

/-- The primes below n. -/
def primesBelow (n : Nat) : List Nat :=
  (List.range n).filter (fun p => decide (2 ≤ p) && (List.range p).all (fun d => decide (d < 2) || p % d != 0))

/-- The constant of each round: cube roots of the first 64 primes. -/
def shaK : List Word := (primesBelow 312).map (rootFraction 3)

/-- The working variables of SHA-256 as the two histories they shift through, the newest word first: a, b, c, d and e, f, g, h. -/
structure ShaVars where
  hist : List Word
  aux : List Word
  deriving DecidableEq, Repr

/-- The initial hash value: square roots of the first eight primes. -/
def shaInit : ShaVars :=
  let ps := (primesBelow 20).map (rootFraction 2)
  { hist := ps.take 4, aux := ps.drop 4 }

/-- The exclusive or of a word turned right by each of the amounts. -/
def turned (x : Word) (by_ : List Nat) : Word := by_.foldl (fun acc n => acc ^^^ x.rotateRight n) 0

/-- Words of the message schedule, newest first, n more of them. -/
def shaSchedule : Nat → List Word → List Word
  | 0, w => w
  | n + 1, w =>
    let (near, far) := (w.getD 1 0, w.getD 14 0)
    let mixed := (turned near [17, 19] ^^^ near >>> 10) + (turned far [7, 18] ^^^ far >>> 3)
    shaSchedule n ((mixed + w.getD 6 0 + w.getD 15 0) :: w)

/-- One round: each history takes one new word and drops its oldest. -/
def shaRound (v : ShaVars) (k w : Word) : ShaVars :=
  let x := fun i => v.hist.getD i 0
  let y := fun i => v.aux.getD i 0
  let chosen := y 2 ^^^ (y 0 &&& (y 1 ^^^ y 2))
  let common := (x 0 &&& (x 1 ||| x 2)) ||| (x 1 &&& x 2)
  let inflow := y 3 + turned (y 0) [6, 11, 25] + chosen + (k + w)
  { hist := (inflow + turned (x 0) [2, 13, 22] + common) :: v.hist.take 3
    aux := (x 3 + inflow) :: v.aux.take 3 }

/-- The compression of one block of 64 bytes. -/
def shaBlock (h : ShaVars) (block : List Byte) : ShaVars :=
  let w := shaSchedule 48 (wordsOf 16 block).reverse
  let v := (List.zip shaK w.reverse).foldl (fun v p => shaRound v p.1 p.2) h
  { hist := List.zipWith (· + ·) h.hist v.hist, aux := List.zipWith (· + ·) h.aux v.aux }

/-- The compression of all blocks; the fuel is their number. -/
def shaBlocks : Nat → ShaVars → List Byte → ShaVars
  | 0, h, _ => h
  | n + 1, h, bs => shaBlocks n (shaBlock h (bs.take 64)) (bs.drop 64)

/-- SHA-256. -/
def sha256 (bs : List Byte) : List Byte :=
  let n := bs.length
  let m := bs ++ [0x80] ++ zeros ((55 + 64 - n % 64) % 64) ++ beDWord (BitVec.ofNat 64 (8 * n))
  let h := shaBlocks (m.length / 64) shaInit m
  (h.hist ++ h.aux).flatMap beWord

/-- HMAC-SHA-256. -/
def hmac (key msg : List Byte) : List Byte :=
  let k := if 64 < key.length then sha256 key else key
  let k := k ++ zeros (64 - k.length)
  sha256 (k.map (· ^^^ 0x5C) ++ sha256 (k.map (· ^^^ 0x36) ++ msg))

/-! ### P-256 -/

/-- The field prime. -/
def p256 : Nat := 2 ^ 256 - 2 ^ 224 + 2 ^ 192 + 2 ^ 96 - 1
/-- The group order. -/
def n256 : Nat := 0xFFFFFFFF00000000FFFFFFFFFFFFFFFFBCE6FAADA7179E84F3B9CAC2FC632551

/-- The base point. -/
def g256 : Nat × Nat :=
  (0x6B17D1F2E12C4247F8BCE6E563A440F277037D812DEB33A0F4A13945D898C296,
   0x4FE342E2FE1A7F9B8EE7EB4A7C0F9E162BCE33576B315ECECBB6406837BF51F5)

/-- A power modulo m, over n bits of the exponent. -/
def powMod (m : Nat) : Nat → Nat → Nat → Nat
  | 0, _, _ => 1 % m
  | n + 1, x, e =>
    let r := powMod m n (x * x % m) (e / 2)
    if e % 2 = 1 then r * x % m else r

/-- The inverse modulo a prime. -/
def invMod (m x : Nat) : Nat := powMod m 256 (x % m) (m - 2)

/-- The sum of two points; none is the point at infinity. -/
def ecAdd (a b : Option (Nat × Nat)) : Option (Nat × Nat) :=
  match a, b with
  | none, q => q
  | q, none => q
  | some (x1, y1), some (x2, y2) =>
    if x1 = x2 && (y1 + y2) % p256 = 0 then none
    else
      let l := if x1 = x2 then 3 * (x1 * x1 + p256 - 1) * invMod p256 (2 * y1) % p256
        else (y2 + p256 - y1) * invMod p256 (x2 + p256 - x1) % p256
      let x3 := (l * l + 2 * p256 - x1 - x2) % p256
      some (x3, (l * (x1 + p256 - x3) + p256 - y1) % p256)

/-- A multiple of a point, over n bits of the factor. -/
def ecMul : Nat → Nat → Option (Nat × Nat) → Option (Nat × Nat)
  | 0, _, _ => none
  | n + 1, k, q =>
    let r := ecMul n (k / 2) (ecAdd q q)
    if k % 2 = 1 then ecAdd r q else r

/-- The signature (r, s) verifies over a digest under a public key. -/
def ecdsaVerify (key : Nat × Nat) (digest : List Byte) (r s : Nat) : Bool :=
  if r = 0 || s = 0 || n256 ≤ r || n256 ≤ s then false
  else
    let w := invMod n256 s
    let u1 := beNat digest * w % n256
    let u2 := r * w % n256
    match ecAdd (ecMul 256 u1 (some g256)) (ecMul 256 u2 (some key)) with
    | some (x, _) => decide (x % n256 = r)
    | none => false

/-- The signature block of an object verifies over the digest of its signed region; a key number without a key fails (R205). -/
def signatureGood (digest block : List Byte) : Bool :=
  if block.length != 72 then false
  else
    let k := getNat block 0 4
    match (if k < 4 then Config.imageKey k else none) with
    | some key => ecdsaVerify key digest (getNat block 8 32) (getNat block 40 32)
    | none => false

end Sys2Proof.Machine
end

