-- ==== Sys2Proof/Machine/Recorder.lean ====
section
/-! DEFINITION. The recorder: firings and their snapshots, the staging queue, the buffer, flushes and the store
(R344 to R356). -/
namespace Sys2Proof.Machine

/-! ### Snapshots (R346) -/

/-- The program in force, or an empty one. -/
def progOr (s : State) : Program := s.prog.getD {}

/-- The words of a signal in the hub signal store; none when it is absent (R346). During a program exchange the store holds the signals
of the old and of the new program (R221). -/
def storedSignal (s : State) (id : Word) : Option (List QWord) :=
  let of := fun (p : Program) => if p.sigs.any (fun x => x.signal = id) then some (signalWords s p id) else none
  if (moduleSignalOf s id.toNat).isSome then some (signalWords s (progOr s) id)
  else of (progOr s) <|> (if s.xch.switchingSince.isSome then s.progNew.bind of else none)

/-- The words of an item at the capture moment, and whether it could not be read (R346, R368). -/
def captureItem (s : State) (harvest : DWord) (item : Word) : List Word × Bool :=
  let n := item.toNat
  match n / 2 ^ 28 with
  | 1 => match peek s .host (bits n 0 24) with
    | some w => ([w], false)
    | none => ([0], true)
  | 2 => match storedSignal s (BitVec.ofNat 32 (bits n 0 23)) with
    | some ws => (ws.map (·.v), false)
    | none => ([0], true)
  | 3 => match storedSignal s (BitVec.ofNat 32 (bits n 0 23)) with
    | some (x :: _) => ([x.q.setWidth 32], false)
    | _ => ([0], true)
  | 4 => let v := (axis s (bits n 0 2)).value; ([hi32 v, lo32 v], false)
  | 5 => ([hi32 harvest, lo32 harvest], false)
  | 6 => match (hubTask s (bits n 24 4)).voted.bind (fun ws => ws[bits n 0 16]?) with
    | some x => ([x.v], false)
    | none => ([0], true)
  | _ => if fieldOn s then ([chStatusWord s (bits n 0 5)], false) else ([0], true)

/-- The reads of a snapshot that reach a domain that is off (R369): the status words of channels with FIELD off. -/
def offReads (s : State) (items : List Word) : Nat :=
  if fieldOn s then 0 else (items.filter (fun i => i.toNat / 2 ^ 28 = 7)).length

/-- A snapshot: its words, at most 64 (R346, R348), and INCOMPLETE. -/
def snapshot (s : State) (harvest : DWord) (items : List Word) : List Word × Bool :=
  let xs := items.map (captureItem s harvest)
  let ws := xs.flatMap (·.1)
  (ws.take 64, xs.any (·.2) || decide (64 < ws.length))

/-! ### Entering the staging queue (R347, R349, R350) -/

/-- The next SEQ, with the ceiling raised in MRAM before a number at or above it is assigned (R349). -/
def takeRecSeq (s : State) : DWord × State :=
  let r := s.recd
  let n := r.next
  let s := if r.ceiling.ule n then writeRecControl { s with recd := { r with ceiling := r.ceiling + 4096 } } else s
  (n, { s with recd := { s.recd with next := n + 1 } })

/-- A record enters the staging queue and receives its number (R349). -/
def stage (s : State) (r : RecRecord) : State :=
  let (n, s) := takeRecSeq s
  { s with recd := { s.recd with staging := s.recd.staging ++ [{ r with seq := n }] } }

/-- FORCED and LOST_SET at capture (R348). -/
def captureFlags (s : State) : Nat := b2n (forced s) * 16 + b2n s.recd.lost * 32

/-- A module record: it enters staging, or the supervisor holds it for the next free entry (R347). -/
def moduleRecord (s : State) (ident : Nat) (words : List Word) : State :=
  let r : RecRecord := { seq := 0, trigger := ident, flags := captureFlags s, suppressed := 0, words := words }
  if s.recd.staging.length < 64 then stage s r else { s with recd := { s.recd with held := s.recd.held ++ [r] } }

/-- The counts of a definition (R359). -/
def recCount (s : State) (d : Nat) : RecCount := (s.recd.counts.find? (fun c => c.defn = d)).getD { defn := d }
/-- The counts of a definition changed. -/
def modCount (s : State) (d : Nat) (f : RecCount → RecCount) : State :=
  let c := f (recCount s d)
  { s with recd := { s.recd with counts := s.recd.counts.filter (fun x => x.defn ≠ d) ++ [c] } }

/-- A firing within HOLDOFF of the definition's last capture (R345). -/
def heldOffBy (s : State) (d : RecDef) : Bool :=
  match (recCount s d.defn).lastAt with
  | some t => d.holdoff != 0 && !elapsed s t (d.holdoff * 1000000)
  | none => false

/-- A definition fires: dropped by HOLDOFF, lost for want of a staging entry, refused during a power fail, or captured
(R345, R350, R351, R356). -/
def fireDef (s : State) (d : RecDef) (harvest : DWord) (stepped late : Bool) : State :=
  let s := modCount s d.defn (fun c => { c with firings := c.firings + 1 })
  if s.recd.closed then { s with recd := { s.recd with refused := s.recd.refused + 1 } }
  else if heldOffBy s d then modCount s d.defn (fun c => { c with holdoffDrops := c.holdoffDrops + 1 })
  else if 64 ≤ s.recd.staging.length then
    let first := !s.recd.lost
    let s := modCount s d.defn (fun c => { c with suppressions := c.suppressions + 1, suppressed := min 0xFFFF (c.suppressed + 1) })
    let s := { s with recd := { s.recd with lost := true } }
    if first then raiseHub (setIrq s irqRec) 2 0xA001 d.defn else s
  else
    let (ws, inc) := snapshot s harvest d.items
    let sup := (recCount s d.defn).suppressed
    let flags := b2n (sup != 0) + b2n stepped * 2 + b2n late * 4 + b2n inc * 8 + captureFlags s
    let s := modCount s d.defn (fun c => { c with records := c.records + 1, suppressed := 0, lastAt := some (rawNow s) })
    stage (zeroReads s (offReads s d.items)) { seq := 0, trigger := d.defn, flags := flags, suppressed := sup, words := ws, flush := d.flush }

/-- The definitions in force, in ascending DEF (R349). -/
def recDefs (s : State) (source : Nat) : List RecDef :=
  (List.range 256).flatMap (fun n => s.recd.defs.filter (fun d => d.defn = n && d.source = source))

/-- Definitions of SOURCE MODE fire at a change of service mode (R345). -/
def fireMode (s : State) : State := (recDefs s 5).foldl (fun s d => fireDef s d s.vote.harvest false false) s

/-- Definitions of SOURCE FAULT fire when a fault record of at least their severity is written (R345). -/
def fireFault (s : State) (sev : Nat) : State :=
  (recDefs s 4).foldl (fun s d => if bits d.arg.toNat 0 3 ≤ sev then fireDef s d s.vote.harvest false false else s) s

/-- A definition of SOURCE TRIGGER fires with a hardware trigger whose actions name it (R345, R51). -/
def fireTrigger (s : State) (defn : Nat) (stepped late : Bool) : State :=
  ((recDefs s 2).filter (fun d => d.defn = defn)).foldl (fun s d => fireDef s d s.vote.harvest stepped late) s

/-- Step 7 of a harvest: PROGRAM definitions named by its requests and HARVEST definitions, in ascending DEF (R345). -/
def step7 (s : State) (harvest : DWord) (t : Nat) (reqs : List Nat) : State :=
  let s := modTask s t (fun x => { x with harvests := x.harvests + 1 })
  let n := (hubTask s t).harvests
  (List.range 256).foldl (fun s k =>
    (s.recd.defs.filter (fun d => d.defn = k)).foldl (fun s d =>
      if d.source = 1 then (reqs.filter (fun x => x = k)).foldl (fun s _ => fireDef s d harvest false false) s
      else if d.source = 3 && bits d.arg.toNat 24 4 = t && bits d.arg.toNat 0 16 != 0 && n % bits d.arg.toNat 0 16 = 0 then
        fireDef s d harvest false false
      else s) s) s

/-! ### Buffer and flush (R350, R352, R355) -/

/-- A flush condition arises (R352). -/
def wantFlush (s : State) : State := { s with recd := { s.recd with flushPending := true } }

/-- The POWERFAIL record is placed once staging is empty (R356). -/
def placePowerfail (s : State) : State :=
  match s.recd.pfCause with
  | some c =>
    if s.recd.staging.isEmpty && s.recd.held.isEmpty then
      moduleRecord { s with recd := { s.recd with pfCause := none } } 0x0100
        [hi32 s.vote.harvest, lo32 s.vote.harvest, hi32 (ax0 s), lo32 (ax0 s), BitVec.ofNat 32 c, BitVec.ofNat 32 s.recd.refused, modStat s]
    else s
  | none => s

/-- The oldest staged record moves into the buffer when it has room for it, and a held module record takes the entry freed
(R347, R350). -/
def moveStaged (s : State) : State :=
  match s.recd.staging with
  | [] => s
  | r :: rest =>
    if bufferSize < bufferFill s + r.size then s
    else
      let before := bufferFill s
      let s := { s with
        recd := { s.recd with staging := rest, buffer := s.recd.buffer ++ [{ r with bufferedAt := rawNow s }] } }
      let reaches := decide (before < 786432) && decide (786432 ≤ bufferFill s)
      let s := if r.flush || s.pwr.failing || reaches then wantFlush s else s
      let s := match s.recd.held with
        | [] => s
        | h :: hs => stage { s with recd := { s.recd with held := hs } } h
      placePowerfail s

/-- A flush starts, when none runs, on a pending condition (R352). -/
def startFlush (s : State) : State :=
  if s.recd.flushPending && s.recd.flushing.isNone then
    let n := s.recd.buffer.length
    { s with recd := { s.recd with flushPending := false, flushing := if n = 0 then none else some n } }
  else s

/-- Bytes of the ring between the head and the oldest record (R354). -/
def ringFree (head : Nat) : List (DWord × Nat × Nat) → Nat
  | [] => storeSize
  | x :: _ => (x.2.1 + storeSize - head) % storeSize

/-- Records removed from the tail, whole, until n bytes are free at the head (R355). -/
def dropOldest (n head : Nat) : List (DWord × Nat × Nat) → List (DWord × Nat × Nat)
  | [] => []
  | x :: l => if n ≤ ringFree head (x :: l) then x :: l else dropOldest n head l

/-- REC_FLUSH commands end whose records are all in the store (R359). -/
def endFlushWaits (s : State) : State :=
  let ended := fun (w : Mb × DWord) => !(s.recd.buffer.any (fun r => r.seq.ule w.2))
  let ends := s.recd.flushWait.filter ended
  let s := { s with recd := { s.recd with flushWait := s.recd.flushWait.filter (fun w => !ended w) } }
  ends.foldl (fun s w => resultMb s w.1 0) s

/-- The running flush writes its next record to the store and names it in the control area, or KEEP stops it (R352, R355). -/
def writeRecord (s : State) : State :=
  match s.recd.flushing, s.recd.buffer with
  | some n, r :: rest =>
    let c := s.recd
    let idx := if c.keep then c.index else dropOldest r.size c.head c.index
    let lost := c.index.length - idx.length
    if ringFree c.head idx < r.size then
      let first := !c.storeFull
      let ends := c.flushWait
      let s := { s with recd := { c with flushing := none, storeFull := true, flushWait := [] } }
      let s := ends.foldl (fun s w => resultMb s w.1 0x0A) s
      if first then raiseHub (setIrq s irqRec) 2 0xA002 else s
    else
      let tail := match idx with
        | x :: _ => x.2.1
        | [] => c.head
      let s := { s with
        recd := { c with
          buffer := rest, flushing := if n ≤ 1 then none else some (n - 1), index := idx ++ [(r.seq, c.head, r.size)], tail := tail
          head := storeBase + (c.head - storeBase + r.size) % storeSize, newest := r.seq + 1
          overwritten := c.overwritten + BitVec.ofNat 64 lost } }
      let s := modMram s (fun m => ringWrite m storeBase storeSize (c.head - storeBase) r.bytes)
      endFlushWaits (writeRecControl s)
  | some _, [] => { s with recd := { s.recd with flushing := none } }
  | none, _ => s

/-! ### Meanings -/

/-- STAGED_MOVE (R350). -/
def execStagedMove (s : State) : Host.Outcome State Fault Refusal := .next (moveStaged s)

/-- FLUSH_START (R352). -/
def execFlushStart (s : State) : Host.Outcome State Fault Refusal := .next (startFlush s)

/-- RECORD_AGE: a buffered record has become 1 s old (R352). -/
def execRecordAge (s : State) : Host.Outcome State Fault Refusal :=
  if s.recd.buffer.any (fun r => elapsed s r.bufferedAt 1000000000) then .next (wantFlush s) else .next s

/-! ### Fault handling (R364 to R367) -/

/-- The overflow record of a region as a fault record (R365). -/
def overflowRec (r : Region) (o : Overflow) : FaultRec :=
  { fin := { region := r, sev := 2, level := 2, code := 0xD001, arg0 := BitVec.ofNat 32 o.lost
             arg1 := BitVec.ofNat 32 (o.highest * 2 ^ 28 + o.firstCode.toNat) }
    fseq := o.fseq, harvest := o.harvest, ax0 := o.ax0 }

/-- The position of the record a handler takes: the highest severity, the oldest of it (R366). -/
def nextFault : List FaultRec → Nat → Option (Nat × Nat) → Option (Nat × Nat)
  | [], _, best => best
  | x :: l, i, best =>
    let best' := if x.offered then best else match best with
      | some (_, sv) => if sv < x.fin.sev then some (i, x.fin.sev) else best
      | none => some (i, x.fin.sev)
    nextFault l (i + 1) best'

/-- A free handler takes its next record: the head of the queue, then the overflow record, then the rest (R365, R366). -/
def takeFault (q : FaultQueue) (r : Region) : Option FaultRec × FaultQueue :=
  let head := nextFault q.queue 0 none
  match q.overflow, head with
  | some o, h =>
    if q.overflowNext || h.isNone then (some (overflowRec r o), { q with overflow := none, overflowNext := false })
    else match h with
      | some (i, _) => (q.queue[i]?, { q with queue := q.queue.eraseIdx i, overflowNext := true })
      | none => (none, q)
  | none, some (i, _) => (q.queue[i]?, { q with queue := q.queue.eraseIdx i })
  | none, none => (none, q)

/-- The software part of a hub record ends: it goes to the log, to the recorder and out of the queue, or stays in the queue
while log writing is suspended (R364, R367). w1 and w2 say whether the first and the second write succeed. -/
def settleFault (s : State) (x : FaultRec) (w1 w2 : Bool) : State :=
  let s := if 2 ≤ x.fin.sev then wantFlush s else s
  let stay := fun (s : State) =>
    let q := faultQueue s .hub
    setFaultQueue s .hub { q with queue := q.queue ++ [{ x with offered := true }] }
  if s.flt.logFail then fireFault (stay s) x.fin.sev
  else if w1 then fireFault (logWrite s x) x.fin.sev
  else
    let s := raiseHub s 2 0xD002
    let s := { s with flt := { s.flt with head := (s.flt.head + 1) % logRecords } }
    if w2 then fireFault (logWrite s x) x.fin.sev
    else fireFault (stay { s with flt := { s.flt with logFail := true } }) x.fin.sev

/-- The record in hand of the hub handler is done; a higher one that waits is taken before a suspended one resumes (R366). -/
def finishFault (s : State) (w1 w2 : Bool) : State :=
  let q := faultQueue s .hub
  match q.hand with
  | [] => s
  | x :: rest =>
    if x.fin.sev = 3 && s3Running s then s
    else
      let s := settleFault (setFaultQueue s .hub { q with hand := rest }) x w1 w2
      let q := faultQueue s .hub
      match q.hand, nextFault q.queue 0 none with
      | y :: _, some (i, sv) =>
        if y.fin.sev < sv then
          match q.queue[i]? with
          | some z => reportFault (setFaultQueue s .hub { q with queue := q.queue.eraseIdx i, hand := z :: q.hand }) z.fin.sev
          | none => s
        else s
      | _, _ => s

/-- FAULT_HANDLE of the Hub region: the record in hand is finished, or the next one is taken and finished unless held. -/
def handleHub (s : State) (hold w1 w2 : Bool) : State :=
  let q := faultQueue s .hub
  if s.modu.wdExpired then s
  else if !q.hand.isEmpty then finishFault s w1 w2
  else
    match takeFault q .hub with
    | (some x, q) =>
      let s := reportFault (setFaultQueue s .hub { q with hand := [x] }) x.fin.sev
      if hold then s else finishFault s w1 w2
    | (none, _) => s

/-- FAULT_HANDLE of a lane region: its fault controller passes the record to the hub, which numbers it (R363, R364). -/
def handleLane (s : State) (l : Lane) : State :=
  match takeFault (faultQueue s (.lane l)) (.lane l) with
  | (some x, q) => enqueueFault (setFaultQueue s (.lane l) q) .hub x
  | (none, _) => s

/-- FAULT_RECORD (R362 to R365). -/
def execFaultRecord (f : FaultIn) (s : State) : Host.Outcome State Fault Refusal := .next (raise s f)

/-- FAULT_HANDLE (R364 to R367). -/
def execFaultHandle (r : Region) (hold w1 w2 : Bool) (s : State) : Host.Outcome State Fault Refusal :=
  match r with
  | .hub => .next (handleHub s hold w1 w2)
  | .lane l => .next (handleLane s l)

/-- LEDGER_IMBALANCE: a conserved quantity stays out of balance beyond its bound (R371). -/
def execLedgerImbalance (row : Fin 9) (s : State) : Host.Outcome State Fault Refusal :=
  .next (raiseHub s 2 0xD003 0 row.val)

end Sys2Proof.Machine
end

