-- ==== Sys2Proof/Machine/Triggers.lean ====
section
/-! DEFINITION. The hardware triggers: arming by the host and by the program, cancelling, and what a firing does
(R50 to R53, R118, R119, R122, R222). -/
namespace Sys2Proof.Machine

/-- A trigger. -/
def trigger (s : State) (n : Nat) : Trigger := s.tim.triggers.getD n {}
/-- A trigger changed. -/
def modTrigger (s : State) (n : Nat) (f : Trigger → Trigger) : State := { s with tim := { s.tim with triggers := upd s.tim.triggers n f } }

/-- The actions in the layout of TRIG_ARM w5 to w8 (R453): the action word, the pulse width in ns, the send flow. -/
def trigActions (w5 pulse flow : Nat) : TrigActions :=
  { output := if bit w5 0 then some (bits w5 8 2) else none
    edge := match bits w5 12 2 with
      | 0 => .set
      | 1 => .clear
      | 2 => .toggle
      | _ => .pulse pulse
    task := if bit w5 1 then some (bits w5 16 4) else none
    recorder := if bit w5 2 then some (bits w5 24 8) else none
    hostIrq := bit w5 3
    sound := if bit w5 4 then some flow else none }

/-- An action word with its pulse width is one that R46 permits: a pulse is 40 ns to 10 s wide. -/
def actionsOk (w5 pulse : Nat) : Bool :=
  !(bit w5 0 && bits w5 12 2 = 3) || (decide (40 ≤ pulse) && decide (pulse ≤ 10000000000))

/-- The direction of a code (R51). -/
def dirOf : Nat → Dir
  | 1 => .rev
  | 2 => .any
  | _ => .fwd

/-- The kind of a code of TRIG_ARM. -/
def trigKind : Nat → TrigKind
  | 0 => .capture
  | 1 => .oneshot
  | _ => .periodic

/-- Kind, axis, direction and period are permitted by R51: REV and ANY on AX1 only, a positive period, at least 40 ns on AX0. -/
def armOk (kind axisNo dir : Nat) (period : DWord) : Bool :=
  decide (kind ≤ 2) && decide (dir ≤ 2) && (kind = 0 || dir = 0 || axisNo = 1)
    && (kind != 2 || (decide (0 < period.toInt) && (axisNo != 0 || decide (40 ≤ period.toInt))))

/-- The triggers that a program names (R122). -/
def Program.triggers (p : Program) : List Nat :=
  (p.binds.filter (fun b => b.kind = 0x44 || b.kind = 0x81)).map (fun b => b.id.toNat)

/-- A trigger is held by the program: armed by it, or named by the active program, or by the new one once it switches (R50,
R122, R222). -/
def heldByProgram (s : State) (n : Nat) : Bool :=
  ((trigger s n).owner = .program && (trigger s n).armed)
    || (s.prog.any (fun p => p.triggers.contains n))
    || (s.xch.switchingSince.isSome && s.progNew.any (fun p => p.triggers.contains n))

/-- A trigger is held by a recorder definition or a timed sound start (R50). The spec gives neither of them a means to take a trigger,
and no command of the table does, so that no run from reset reaches this (DESIGN CHOICE, notes/assumptions 161). -/
def heldByUnit (s : State) (n : Nat) : Bool :=
  match (trigger s n).owner with
  | .recorder _ | .sound _ => true
  | _ => false

/-- A trigger is free (R50). -/
def trigFree (s : State) (n : Nat) : Bool := !(trigger s n).armed && !heldByProgram s n && !heldByUnit s n

/-- A trigger is armed; the firing count goes on or starts at zero (R50). -/
def armTrigger (s : State) (n : Nat) (owner : TrigOwner) (g : Trigger) (keep : Bool) : State :=
  let base := (axis s 1).path
  let s := { s with tim := { s.tim with armCount := s.tim.armCount + 1 } }
  modTrigger s n (fun old =>
    { g with
      owner := owner, armed := true, pathBase := base, pathFired := 0, fresh := true, count := if keep then old.count else 0
      firedOnce := false, armSeq := s.tim.armCount, due := old.due, report := old.report, dropped := old.dropped })

/-- A trigger is withdrawn. What has fired in the same tick stays due (R53). -/
def cancelTrigger (s : State) (n : Nat) : State :=
  modTrigger s n (fun g => { g with armed := false, owner := if g.owner = .host then .free else g.owner })

/-- The actions that a program's bindings give a trigger (R119, R207). -/
def Program.actionsOf (p : Program) (n : Nat) : TrigActions :=
  let rec go : List Binding → TrigActions
    | a :: b :: l =>
      if a.kind = 0x81 && a.id.toNat = n then
        trigActions a.arg.toNat (join64 b.id b.arg).toNat (if b.kind = 0x80 then b.index % 256 else 0)
      else go (b :: l)
    | _ => {}
  go p.binds

/-- A voted arm request of the program: ARG, VALUE and PERIOD of TRGARM (R118, R119). -/
def programArm (s : State) (p : Program) (n arg : Nat) (value period : DWord) : State :=
  if armOk (bits arg 6 2) (bits arg 8 2) (bits arg 10 2) period && bits arg 6 2 != 0 && !heldByUnit s n then
    armTrigger s n .program
      { kind := trigKind (bits arg 6 2), axis := bits arg 8 2, dir := dirOf (bits arg 10 2), value := value, period := period
        actions := p.actionsOf n } true
  else s

/-- The program that runs has a task: from the swap point on, the new one alone decides (R219, R222). -/
def programHas (s : State) (t : Nat) : Bool :=
  if s.xch.switchingSince.isSome then s.progNew.any (fun p => (p.taskDef t).isSome) else (taskDef s t).isSome

/-- What a firing does: its report, an output edge, an event release, a recorder definition, the host interrupt, a sound start
(R51, R222). -/
def performFiring (s : State) (n : Nat) (r : FiringReport) : State :=
  let g := trigger s n
  let a := r.actions
  let s := modTrigger s n (fun g => { g with report := some r })
  let s := match a.output with
    | some o => scheduleEdge s o a.edge r.at_ g.armSeq r.late
    | none => s
  let s := match a.task with
    | some t =>
      if programHas s t then eventArrive s t else modTrigger s n (fun g => { g with dropped := g.dropped + 1 })
    | none => s
  let s := match a.recorder with
    | some d => fireTrigger s d r.stepped r.late
    | none => s
  let s := match a.sound with
    | some f => setRun s f true
    | none => s
  if a.hostIrq then
    setIrq { s with hp := { s.hp with trig := s.hp.trig ||| (1#64 <<< n) } } irqTrig
  else s

/-- TRIGGER_FIRING: the oldest firing of a trigger that a tick has found (R51). -/
def execTriggerFiring (n : Fin 64) (s : State) : Host.Outcome State Fault Refusal :=
  match (trigger s n.val).due with
  | [] => .next s
  | r :: rest => .next (performFiring (modTrigger s n.val (fun g => { g with due := rest })) n.val r)

end Sys2Proof.Machine
end

