-- ==== Sys2Proof/Machine/Image.lean ====
section
/-! DEFINITION. Program images: the object and its sections (R202, R205 to R207), the form of a section (R486), the loader, task
and signal-map checks (R81, R122, R126, R310), and what the loader builds (R64, R65, R78). -/
namespace Sys2Proof.Machine

/-! ### Objects (R205, R208, R211, R452) -/

/-- A numbered check that fails: what the refusal record of R452 says of it. -/
structure CheckFail where
  code : Word := 0
  order : Nat := 0
  sect : Nat := 0
  task : Nat := 0xFF
  index : Word := 0xFFFFFFFF
  deriving DecidableEq, Repr

/-- The refusal record (R452). -/
def CheckFail.words (c : CheckFail) : List Word :=
  [c.code, BitVec.ofNat 32 (c.order * 2 ^ 24 + c.sect * 2 ^ 16 + c.task), c.index]

/-- A check code in four ASCII bytes (R452). -/
def asciiCode (t : String) : Word := t.toList.foldl (fun w c => (w <<< 8) ||| BitVec.ofNat 32 c.toNat) 0

/-- The section of an object: its directory entry by TYPE, as offset and size; none where no entry has the TYPE (R205). -/
def sectEntry (bs : List Byte) (ty : Nat) : Option (Nat × Nat × Word) :=
  ((List.range (getNat bs 32 2)).find? (fun k => getNat bs (64 + 16 * k) 2 = ty)).map
    (fun k => (getNat bs (64 + 16 * k + 4) 4, getNat bs (64 + 16 * k + 8) 4, getWord bs (64 + 16 * k + 12)))

/-- The bytes of a section. -/
def sect (bs : List Byte) (ty : Nat) : List Byte :=
  match sectEntry bs ty with
  | some (off, n, _) => slice bs off n
  | none => []

/-- The signed region and the digest over it (R205). -/
def objDigest (bs : List Byte) : List Byte := sha256 (bs.take (bs.length - 72))

/-- Check 1 of R211: length, MAGIC, FORMAT, NSECT, the directory inside the image, each TYPE once. -/
def formOk (bs : List Byte) (received magic nsect : Nat) : Bool :=
  decide (received = bs.length) && getNat bs 16 4 = received && decide (136 ≤ received) && getNat bs 0 4 = magic
    && getNat bs 4 2 = 1 && getNat bs 6 2 = 64 && getNat bs 32 2 = nsect
    && (List.range nsect).all (fun k =>
      let off := getNat bs (64 + 16 * k + 4) 4
      let n := getNat bs (64 + 16 * k + 8) 4
      off % 4 = 0 && decide (64 + 16 * nsect ≤ off) && decide (off + n + 72 ≤ received) && (sectEntry bs (k + 1)).isSome)

/-- Checks 1 to 4 of R211, with the result code of the first that fails. -/
def objectCheck (bs : List Byte) (received magic nsect : Nat) : Option (Nat × CheckFail) :=
  if !formOk bs received magic nsect then some (3, { order := 1 })
  else if getNat bs 8 4 != 0x4B4C3090 || decide (3 < getNat bs 12 4) then some (3, { order := 2 })
  else
    match (List.range nsect).find? (fun k =>
      match sectEntry bs (k + 1) with
      | some (off, n, c) => crc32c (slice bs off n) != c
      | none => true) with
    | some k => some (9, { order := 3, sect := k + 1 })
    | none =>
      if signatureGood (objDigest bs) (bs.drop (bs.length - 72)) then none else some (0x0B, { order := 4 })

/-- The signature alone, verified again (R203). -/
def objectSigned (bs : List Byte) : Bool := signatureGood (objDigest bs) (bs.drop (bs.length - 72))

/-! ### Entries -/

/-- The entries of n bytes of a section, in order; the fuel is their number. -/
def rows : Nat → Nat → List Byte → List (List Byte)
  | 0, _, _ => []
  | k + 1, n, bs => bs.take n :: rows k n (bs.drop n)

/-- The entries of n bytes of a section. -/
def entries (n : Nat) (bs : List Byte) : List (List Byte) := rows (bs.length / n) n bs

/-- An entry of the instance table (R85, R205). -/
def parseInst (b : List Byte) : Inst :=
  { key := getWord b 0, task := getByte b 4, home := getByte b 5, op := getByte b 8, mods := b.getD 9 0, out := getNat b 10 2
    inA := getNat b 12 2, inB := getNat b 14 2, inC := getNat b 16 2, st := getNat b 18 2, param := getWord b 20 }

/-- The entry count of the variable layout (R206): up to the lowest INIT other than all ones. -/
def layoutLength (bs : List Byte) : Nat :=
  let rec go : Nat → Nat → Nat → Nat
    | 0, _, low => low
    | k + 1, off, low =>
      if low < off + 16 then low
      else
        let i := getNat bs (off + 12) 4
        go k (off + 16) (if i = 0xFFFFFFFF then low else min low i)
  go (bs.length / 16) 0 bs.length

/-- The words of 1,024 bytes. -/
def pageWords (bs : List Byte) : List Word := wordsOf 256 bs

/-- An entry of the variable layout (R206); a constant page takes its words from section 2. -/
def parsePage (whole b : List Byte) (consts : List (Nat × Nat × List Word)) : PageDecl :=
  let i := getNat b 12 4
  let t := getByte b 0
  let pg := getByte b 2
  let init := if getByte b 1 = 2 then ((consts.find? (fun c => c.1 = t && c.2.1 = pg)).map (·.2.2))
    else if i = 0xFFFFFFFF then none else some (pageWords (slice whole i 1024))
  { task := t, space := getByte b 1, page := pg, slice := getByte b 3, retained := bit (getByte b 4) 0, key := getWord b 8, init := init }

/-- An entry of the task table (R123). -/
def parseTask (b : List Byte) : TaskDef :=
  { task := getByte b 0, safety := bit (getByte b 1) 7, prio := bits (getByte b 1) 0 4, source := getByte b 2, dir := getByte b 3
    period := getDWord b 4, phase := getDWord b 12, event := getWord b 20, deadline := getWord b 24, skew := getByte b 28 }

/-- A group entry of the signal map (R309). -/
def parseGroup (b : List Byte) : SigGroup :=
  { group := getNat b 0 2, publish := getByte b 2 = 1, format := getByte b 3, carrier := getByte b 4, mode := getByte b 5
    size := getNat b 6 2, peer := getNat b 8 2, conn := getNat b 10 2, comId := getWord b 12, ip := getWord b 16
    period := getNat b 20 4, fresh := getNat b 24 4, grace := getNat b 28 4 }

/-- A signal entry of the signal map (R309). -/
def parseSig (b : List Byte) : SigItem :=
  { signal := getWord b 0, group := getNat b 4 2, ty := getByte b 6, keepLast := bit (getByte b 7) 7, bit := bits (getByte b 7) 0 3
    offset := getNat b 8 2, subst := getDWord b 12 }

/-- An entry of the I/O bindings (R207). -/
def parseBind (b : List Byte) : Binding :=
  { task := getByte b 0, kind := getByte b 1, index := getNat b 2 2, id := getWord b 4, arg := getWord b 8 }

/-- The group entries of section 5. -/
def groupRows (bs : List Byte) : List (List Byte) := rows (getNat bs 0 2) 32 (bs.drop 8)
/-- The signal entries of section 5. -/
def sigRows (bs : List Byte) : List (List Byte) := rows (getNat bs 2 2) 20 (bs.drop (8 + 32 * getNat bs 0 2))

/-! ### Section form (R486) -/

/-- The first entry of a list that is not right, by position. -/
def firstBad {α : Type} (l : List α) (ok : α → Bool) : Option Nat := ((numbered l).find? (fun x => !ok x.2)).map (·.1)

/-- Bytes are all zero. -/
def allZero (bs : List Byte) : Bool := bs.all (· = 0)

/-- A binding entry is well formed (R486): a kind of R207 and, where it names a unit, a unit number within that unit's range. A signal
identifier with any of bits [31:23] set is an absent index, which SM05 refuses (R7). -/
def bindForm (b : Binding) : Bool :=
  let i := b.id.toNat
  match b.kind with
    | 0x01 | 0x02 | 0x41 => decide (i < 32)
    | 0x04 | 0x09 | 0x4A => decide (i < 16)
    | 0x05 => decide (i < 4)
    | 0x06 | 0x44 | 0x81 | 0x82 => decide (i < 64)
    | 0x43 | 0x45 | 0x46 => decide (i < 1024)
    | 0x47 => decide (1 ≤ i) && decide (i < 256)
    | 0x49 => decide (i < 256)
    | 0x03 | 0x42 | 0x07 | 0x08 | 0x48 | 0x4B | 0x80 => true
    | _ => false

/-- The fields that the kind of a binding does not use are zero, and its ARG lies within what the kind uses (R207, TC06). -/
def bindUnused (b : Binding) : Bool :=
  let i := b.id.toNat
  let a := b.arg.toNat
  match b.kind with
  | 0x05 => decide (a < 1024)
  | 0x08 | 0x48 => i = 0 && a = 0
  | 0x43 => decide (a < 64)
  | 0x80 => true
  | 0x81 => b.index = 0
  | 0x82 => a = 0 && b.index = 0
  | _ => a = 0

/-- A layout entry is well formed within its section. -/
def pageForm (whole : List Byte) (n : Nat) (b : List Byte) : Bool :=
  let i := getNat b 12 4
  decide (getByte b 0 < 16) && decide (getByte b 1 < 3) && decide (getByte b 3 < 16) && decide (getByte b 4 < 2) && allZero (slice b 5 3)
    && (bit (getByte b 4) 0 || getNat b 8 4 = 0)
    && (if getByte b 1 = 2 then i = 0xFFFFFFFF
      else i = 0xFFFFFFFF || (i % 4 = 0 && decide (n ≤ i) && decide (i + 1024 ≤ whole.length)))

/-- Section form: the first section that is not well formed, with its entry where one can be named (R486). -/
def sectionForm (bs : List Byte) : Option CheckFail :=
  let fail := fun (k : Nat) (i : Nat) => some ({ order := 5, sect := k, index := BitVec.ofNat 32 i } : CheckFail)
  let size := fun (k n : Nat) => (sect bs k).length % n != 0
  let s1 := entries 24 (sect bs 1)
  let s2 := entries 1028 (sect bs 2)
  let lay := sect bs 3
  let n := layoutLength lay
  let s3 := rows (n / 16) 16 lay
  let id2 := fun (b : List Byte) => (getByte b 0, getByte b 1)
  let id3 := fun (b : List Byte) => (getByte b 0, getByte b 1, getByte b 2)
  if size 1 24 then fail 1 ((sect bs 1).length)
  else match firstBad s1 (fun b => decide (getByte b 4 < 16) && decide (getByte b 5 < 16) && allZero (slice b 6 2)) with
  | some i => fail 1 i
  | none =>
  if size 2 1028 then fail 2 ((sect bs 2).length)
  else match firstBad s2 (fun b => decide (getByte b 0 < 16) && allZero (slice b 2 2)
      && (s2.filter (fun c => id2 c = id2 b)).length = 1
      && s3.any (fun c => id3 c = (getByte b 0, 2, getByte b 1))) with
  | some i => fail 2 i
  | none =>
  if n % 16 != 0 then fail 3 n
  else match firstBad s3 (fun b => pageForm lay n b && (s3.filter (fun c => id3 c = id3 b)).length = 1
      && (getByte b 1 != 2 || s2.any (fun c => id2 c = (getByte b 0, getByte b 2)))) with
  | some i => fail 3 i
  | none =>
  if size 4 32 then fail 4 ((sect bs 4).length)
  else match firstBad (entries 32 (sect bs 4)) (fun b => bits (getByte b 1) 4 3 = 0 && allZero (slice b 29 3)) with
  | some i => fail 4 i
  | none =>
  if size 6 12 then fail 6 ((sect bs 6).length)
  else match firstBad ((entries 12 (sect bs 6)).map parseBind) bindForm with
  | some i => fail 6 i
  | none =>
  if size 7 8 then fail 7 ((sect bs 7).length)
  else match firstBad (entries 8 (sect bs 7)) (fun b => decide (1 ≤ getByte b 0) && decide (getByte b 0 ≤ 7) && allZero (slice b 1 3)) with
  | some i => fail 7 i
  | none => none

/-! ### What the loader builds (R64, R65, R71) -/

/-- An instance of the same task produces a same-cycle operand of another (R64, R88). -/
def feedsInst (p c : Inst) : Bool :=
  p.task = c.task && c.inputs.any (fun x => !x.2.2 && overlaps p.out (p.outWords).2 x.1 x.2.1)

/-- The instances with their slot, DEP_INIT and successors (R64). -/
def linkInsts (l : List Inst) : List Inst :=
  (numbered l).map (fun (k, i) =>
    { i with
      slot := ((l.take k).filter (fun j => j.home = i.home)).length
      depInit := (l.filter (fun j => feedsInst j i)).length
      succs := ((numbered l).filter (fun c => feedsInst i c.2)).map (·.1) })

/-- The program that an image holds (R81, R205). A page is double-banked when a previous-cycle operand reads it (R65). -/
def parseProgram (bs : List Byte) (slot : Nat) : Program :=
  let insts := linkInsts ((entries 24 (sect bs 1)).map parseInst)
  let consts := (entries 1028 (sect bs 2)).map (fun b => (getByte b 0, getByte b 1, pageWords (b.drop 4)))
  let lay := sect bs 3
  let pages := (rows (layoutLength lay / 16) 16 lay).map (fun b => parsePage lay b consts)
  let double := fun (d : PageDecl) => d.space = 0 && insts.any (fun i => i.task = d.task && i.inputs.any (fun x => x.2.2 && x.1 / 256 = d.page))
  { progId := getWord bs 20, progVer := getWord bs 24, digest := objDigest bs, slot := slot, insts := insts, consts := consts
    pages := pages.map (fun d => { d with double := double d })
    tasks := (entries 32 (sect bs 4)).map parseTask
    groups := (groupRows (sect bs 5)).map parseGroup
    sigs := (sigRows (sect bs 5)).map parseSig
    binds := (entries 12 (sect bs 6)).map parseBind
    perms := (entries 8 (sect bs 7)).map (fun b => { kind := getByte b 0, id := getWord b 4 }) }

/-- Frames a page occupies in its slice (R65). -/
def PageDecl.frames (d : PageDecl) : Nat := if d.double then 2 else 1
/-- Instances and successor entries of a block (R64, OX01). -/
def Program.blockUse (p : Program) (b : Nat) : Nat × Nat :=
  let is := p.insts.filter (fun i => i.home = b)
  (is.length, total is (fun i => i.succs.length))

/-- Frames of a slice (R65, LC11). -/
def Program.sliceUse (p : Program) (b : Nat) : Nat := total (p.pages.filter (fun d => d.slice = b)) PageDecl.frames

/-! ### Loader checks (R81, R82, R122) -/

/-- A page is declared. -/
def Program.declares (p : Program) (t space page : Nat) : Bool := p.pages.any (fun d => d.task = t && d.space = space && d.page = page)
/-- Every word of a run lies within a declared page of the task. -/
def Program.inPages (p : Program) (t space first n : Nat) : Bool :=
  (List.range n).all (fun k => decide (first + k < 65536) && p.declares t space ((first + k) / 256))

/-- The destination kind an opcode feeds, and the unit it names (R122). -/
def opTarget (op param : Nat) : Option (Nat × Option Nat) :=
  match op with
  | 0x80 => some (0x41, none)
  | 0x83 | 0x84 => some (0x44, some (bits param 0 6))
  | 0x90 => some (0x45, some (bits param 0 10))
  | 0x91 => some (0x46, none)
  | 0x92 => some (0x47, some (bits param 0 8))
  | 0xA0 => some (0x48, none)
  | 0xA1 => some (0x49, some (bits param 0 8))
  | 0xA2 => some (0x4A, some (bits param 0 4))
  | _ => none

/-- The number under which R122 permits one instance of an opcode; none where it permits many. -/
def Inst.single (i : Inst) : Option (Nat × Nat) :=
  match i.op with
  | 0x83 | 0x84 => some (i.op, bits i.param.toNat 0 6)
  | 0x90 => some (i.op, bits i.param.toNat 0 10)
  | 0xA0 => some (i.op, i.task)
  | 0xA2 => some (i.op, bits i.param.toNat 0 4)
  | _ => none

/-- LC02 for an instance at a position: its record (R86 to R88, R101) and R122. -/
def Program.lc02 (p : Program) (k : Nat) (i : Inst) : Bool :=
  let tgt := opTarget i.op i.param.toNat
  recordOk i.op i.mods.toNat i.out i.inA i.inB i.inC i.st i.param.toNat
    && (match i.single with
      | some x => !((p.insts.take k).any (fun j => j.single = some x))
      | none => true)
    && (match tgt with
      | some (kind, unit) =>
        let mine := p.binds.filter (fun b => b.task = i.task && b.index = i.out && b.kind = kind)
        !mine.isEmpty && mine.all (fun b => match unit with
          | some u => b.id.toNat = u
          | none => true)
      | none => true)
    && p.binds.all (fun b =>
      !(b.task = i.task && b.isOutput && b.kind != 0x42 && b.kind != 0x43 && b.kind != 0x4B
          && overlaps i.out (i.outWords).2 b.index 1)
        || (match tgt with
          | some (kind, _) => b.kind = kind && b.index = i.out
          | none => false))

/-- LC03 for an instance. -/
def Program.lc03 (p : Program) (i : Inst) : Bool :=
  let o := i.outWords
  let st := i.stateWords
  p.inPages i.task 0 o.1 o.2 && (o.2 != 2 || o.1 % 2 = 0)
    && i.inputs.all (fun x => p.inPages i.task 0 x.1 x.2.1 && (x.2.1 != 2 || x.1 % 2 = 0))
    && p.inPages i.task 1 st.1 st.2 && (st.2 = 0 || st.1 / 256 = (st.1 + st.2 - 1) / 256)
    && (match constBlock i.op i.ty i.param.toNat with
      | some (c, n) => p.inPages i.task 2 c n && c / 256 = (c + n - 1) / 256
      | none => true)

/-- The positions that remain once every instance without a remaining producer has been taken away, repeatedly (LC09). -/
def peel (l : List Inst) : Nat → List Nat → List Nat
  | 0, left => left
  | n + 1, left =>
    let stay := left.filter (fun k => left.any (fun j => ((l.getD j default).succs).contains k))
    if stay.length = left.length then left else peel l n stay

/-- The loader checks in order: the first that fails (R81). LC04 holds the task and lane limits of R82, of which the 512 Ki variable words
count a double-banked page once; LC10 names the first instance that goes beyond a limit of its block, or beyond its own successors. -/
def Program.loaderCheck (p : Program) : Option CheckFail :=
  let ni := numbered p.insts
  let at_ := fun (c : String) (bad : Nat × Inst → Bool) =>
    (ni.find? bad).map (fun x => ({ code := asciiCode c, order := 5, sect := 1, task := x.2.task, index := BitVec.ofNat 32 x.1 } : CheckFail))
  let whole := fun (c : String) (s : Nat) (bad : Bool) => if bad then some ({ code := asciiCode c, order := 5, sect := s } : CheckFail) else none
  let vars := p.pages.filter (fun d => d.space = 0)
  let cyclic := peel p.insts (p.insts.length + 1) (List.range p.insts.length)
  let checks : List (Unit → Option CheckFail) :=
    [ fun _ => at_ "LC01" (fun x => decide (0xAF < x.2.op)),
      fun _ => at_ "LC02" (fun x => !p.lc02 x.1 x.2),
      fun _ => at_ "LC03" (fun x => !p.lc03 x.2),
      fun _ => match at_ "LC04" (fun x => decide (3 < x.2.depInit)) with
        | some f => some f
        | none => ((List.range 16).find? (fun t => decide (65536 < p.instCount t))).map (fun t =>
            ({ code := asciiCode "LC04", order := 5, sect := 1, task := t } : CheckFail)),
      fun _ => whole "LC04" 1 (decide (131072 < p.insts.length)),
      fun _ => whole "LC04" 3 (decide (2048 < vars.length)),
      fun _ => at_ "LC05" (fun x => (p.insts.take x.1).any (fun j => j.task = x.2.task
        && (overlaps (j.outWords).1 (j.outWords).2 (x.2.outWords).1 (x.2.outWords).2
          || overlaps (j.stateWords).1 (j.stateWords).2 (x.2.stateWords).1 (x.2.stateWords).2))),
      fun _ => at_ "LC06" (fun x => overlaps (x.2.outWords).1 (x.2.outWords).2 0 12
        || (p.inputs x.2.task).any (fun b => overlaps (x.2.outWords).1 (x.2.outWords).2 b.index (p.width b))),
      fun _ => at_ "LC07" (fun x => ((opInfo x.2.op).map (·.axis)).getD false && !p.declares x.2.task 0 0),
      fun _ => at_ "LC09" (fun x => cyclic.contains x.1),
      fun _ => at_ "LC10" (fun x => decide (9216 ≤ x.2.slot) || decide (8191 < x.2.succs.length)
        || decide (10240 < p.succStart x.1 + x.2.succs.length)),
      fun _ => whole "LC11" 3 ((List.range 16).any (fun b => decide (224 < p.sliceUse b))),
      fun _ => at_ "LC12" (fun x => (p.insts.take x.1).any (fun j => j.key = x.2.key)) ]
  checks.findSome? (fun c => c ())

/-! ### Task checks (R124, R126) -/

/-- TC03: the fields of a task-table entry (R123, R124). -/
def taskFields (b : List Byte) : Bool :=
  let d := parseTask b
  let per := d.period.toInt
  let ph := d.phase.toInt
  let ev := d.event.toNat
  decide (d.task < 16) && bits (getByte b 1) 4 3 = 0 && allZero (slice b 29 3)
    && decide (20 ≤ d.deadline.toNat) && decide (d.deadline.toNat ≤ 10000000) && decide (d.skew ≤ 50)
    && (d.source = 4 || ev = 0) && (d.source = 2 || d.dir = 0) && decide (d.dir ≤ 2)
    && match d.source with
      | 1 => decide (50000 ≤ per) && decide (per ≤ 10000000000) && per % 10000 = 0 && decide (0 ≤ ph) && decide (ph ≤ per - 10000)
          && ph % 10000 = 0
      | 2 => decide (1000 ≤ per) && decide (per ≤ 2 ^ 40)
      | 3 => decide (0 < per) && per % 65536 = 0 && decide (per / 65536 ≤ 65535) && decide (0 ≤ ph) && decide (ph < per)
      | 4 => per = 0 && ph = 0 && bits ev 23 5 = 0
          && (match bits ev 28 4 with
            | 1 => decide (bits ev 0 23 < 64)
            | 2 => true
            | 3 => decide (bits ev 0 23 < 1024)
            | _ => false)
      | _ => false

/-- The destination a binding names: bindings with the same one are the same destination (TC06). -/
def Binding.destination (b : Binding) : Option (Nat × Nat × Nat) :=
  match b.kind with
  | 0x43 => some (0x43, b.id.toNat, b.arg.toNat)
  | 0x48 => some (0x48, b.task, 0)
  | k => if b.isOutput then some (k, b.id.toNat, 0) else if k = 5 then some (5, b.id.toNat, 0) else none

/-- TC06 for a binding at a position. -/
def Program.tc06 (p : Program) (k : Nat) (b : Binding) : Bool :=
  let before := p.binds.take k
  let next := p.binds[k + 1]?
  let prev := if k = 0 then none else p.binds[k - 1]?
  if !bindUnused b || decide (16 ≤ b.task) then false
  else if b.kind = 0x81 then
    (match next with
      | some n => n.kind = 0x80 && n.task = b.task
      | none => false)
      && (p.insts.all (fun i => i.op != 0x83 || bits i.param.toNat 0 6 != b.id.toNat || i.task = b.task))
      && !before.any (fun x => x.kind = 0x81 && x.id = b.id)
  else if b.kind = 0x80 then
    (match prev with
      | some n => n.kind = 0x81 && n.task = b.task
          && actionsOk n.arg.toNat (join64 b.id b.arg).toNat
          && ((bit n.arg.toNat 0 && bits n.arg.toNat 12 2 = 3) || (b.id = 0 && b.arg = 0))
          && decide (b.index < 256)
      | none => false)
  else if b.kind = 0x82 then !before.any (fun x => x.kind = 0x82 && x.id = b.id)
  else
    let w := p.width b
    p.inPages b.task 0 b.index w && (w != 2 || b.kind = 0x07 || b.index % 2 = 0) && b.index / 256 = (b.index + w - 1) / 256
      && (!(b.isInput || p.isPayloadIn b) || decide (12 ≤ b.index))
      && (b.kind != 0x05 || (decide (1 ≤ bits b.arg.toNat 0 8) && decide (bits b.arg.toNat 0 8 ≤ 16) && bits b.arg.toNat 8 2 != 0
          && b.index % 2 = 0))
      && (b.kind != 0x06 || b.index % 2 = 0)
      && (b.kind != 0x4B || b.id != 0)
      && (match b.destination with
        | none => true
        | some d =>
          if b.kind = 0x44 then
            before.all (fun x => x.destination != some d || x.task = b.task)
              && decide ((before.filter (fun x => x.destination = some d)).length ≤ 1)
          else !before.any (fun x => x.destination = some d))
      && (!(b.isInput || p.isPayloadIn b)
        || !before.any (fun x => (x.isInput || p.isPayloadIn x) && x.task = b.task && overlaps x.index (p.width x) b.index w))

/-- A binding belongs to a force target (R143, R205). -/
def Program.forceBinds (p : Program) (kind : Nat) (id : Word) (b : Binding) : Bool :=
  match kind with
  | 1 => b.kind = 0x01 && b.id = id
  | 2 => b.kind = 0x41 && b.id = id
  | 3 => b.kind = 0x03 && b.id = id
  | 4 => b.kind = 0x42 && b.id = id
  | 5 => b.kind = 0x43 && !p.isPayloadIn b && b.id.toNat * 256 + b.arg.toNat = id.toNat
  | 6 => b.kind = 0x04 && b.id = id
  | 7 => b.isOutput && b.kind != 0x41 && b.kind != 0x42 && b.kind != 0x43 && b.task * 65536 + b.index = id.toNat
  | _ => false

/-- A force permission names a target that the image binds (R143, R144, TC09). -/
def Program.bindsTarget (p : Program) (kind : Nat) (id : Word) : Bool := p.binds.any (p.forceBinds kind id)

/-- The task checks in order: the first that fails (R126). -/
def Program.taskCheck (p : Program) (bs : List Byte) : Option CheckFail :=
  let raw := entries 32 (sect bs 4)
  let nt := numbered p.tasks
  let nb := numbered p.binds
  let fail := fun (c : String) (s t i : Nat) => ({ code := asciiCode c, order := 5, sect := s, task := t, index := BitVec.ofNat 32 i } : CheckFail)
  let task := fun (c : String) (bad : Nat × TaskDef → Bool) => (nt.find? bad).map (fun x => fail c 4 x.2.task x.1)
  let bind := fun (c : String) (bad : Nat × Binding → Bool) => (nb.find? bad).map (fun x => fail c 6 x.2.task x.1)
  let safetyPrio := (p.tasks.filter (·.safety)).map (·.prio)
  let checks : List (Unit → Option CheckFail) :=
    [ fun _ => match task "TC01" (fun x => (p.tasks.take x.1).any (fun d => decide (x.2.task ≤ d.task))) with
        | some f => some f
        | none => ((numbered p.insts).find? (fun i => (p.taskDef i.2.task).isNone)).map (fun i => fail "TC01" 1 i.2.task i.1),
      fun _ => match p.taskDef 0 with
        | some d => if d.source = 1 then none else some (fail "TC02" 4 0 0)
        | none => some { code := asciiCode "TC02", order := 5, sect := 4, task := 0 },
      fun _ => ((numbered raw).find? (fun x => !taskFields x.2)).map (fun x => fail "TC03" 4 (getByte x.2 0) x.1),
      fun _ => task "TC04" (fun x => x.2.source = 1 && decide (x.2.period.toNat < x.2.deadline.toNat * 1000 + x.2.skewNs)),
      fun _ => task "TC05" (fun x => !x.2.safety && safetyPrio.any (fun q => decide (x.2.prio < q))),
      fun _ => match bind "TC06" (fun x => !p.tc06 x.1 x.2) with
        | some f => some f
        | none => ((List.range 16).find? (fun t => decide (3072 < (p.outputWords t).length))).map
            (fun t => ({ code := asciiCode "TC06", order := 5, sect := 6, task := t } : CheckFail)),
      fun _ => bind "TC07" (fun x => x.2.kind = 0x07 && (match p.exportOf x.2.id with
        | some e => e.task = x.2.task || (p.width x.2 = 2 && x.2.index % 2 != 0)
        | none => true)),
      fun _ => if 1792 < (p.pages.filter (·.retained)).length then some { code := asciiCode "TC08", order := 5, sect := 3 } else none,
      fun _ => ((numbered p.perms).find? (fun x => !p.bindsTarget x.2.kind x.2.id)).map (fun x => fail "TC09" 7 0xFF x.1) ]
  checks.findSome? (fun c => c ())

/-! ### Signal-map checks (R310) -/

/-- SM01: a group entry lies within R309. -/
def groupFields (b : List Byte) : Bool :=
  let g := parseGroup b
  let data := g.format != 2
  let trdp := g.carrier = 2
  decide (g.group < 1024) && decide (getByte b 2 < 2) && decide (g.format < 3) && (g.carrier = 1 || g.carrier = 2) && decide (g.mode < 3)
    && (match g.format with
      | 0 => decide (1 ≤ g.size) && decide (g.size ≤ 314)
      | 1 => decide (1 ≤ g.size) && decide (g.size ≤ 1432)
      | _ => g.size = 0)
    && (decide (g.peer < 1024) || (g.publish && g.peer = 0xFFFF))
    && (if data then g.conn = 0 else decide (g.conn < 1024))
    && (if trdp then g.comId != 0 else g.comId = 0 && g.ip = 0)
    && (if trdp && (g.mode = 0 || g.mode = 2 || !data) then
        decide (500 ≤ g.period) && decide (g.period ≤ 10000000) && g.period % 100 = 0
      else g.period = 0)
    && (if !g.publish && data then decide (100 ≤ g.fresh) && decide (g.fresh ≤ 60000000) && decide (g.grace ≤ 60000000)
      else g.fresh = 0 && g.grace = 0)

/-- SM01: a signal entry lies within R309. -/
def sigFields (b : List Byte) : Bool :=
  let x := parseSig b
  decide (x.signal.toNat < 2 ^ 23) && decide (x.ty < 5) && bits (getByte b 7) 3 4 = 0 && allZero (slice b 10 2)
    && (x.ty = 4 || allZero (slice b 12 4)) && (x.ty = 0 || x.bit = 0)

/-- The place a signal takes in its group: words of KALVI, bits of PLAIN. -/
def sigPlace (g : SigGroup) (x : SigItem) : Nat × Nat :=
  if g.format = 0 then (x.offset, if x.ty = 4 then 2 else 1)
  else match x.ty with
    | 0 => (8 * x.offset + x.bit, 1)
    | 4 => (8 * x.offset, 64)
    | _ => (8 * x.offset, 32)

/-- The signal-map checks in order: the first that fails (R310). -/
def Program.sigCheck (p : Program) (bs : List Byte) : Option CheckFail :=
  let s5 := sect bs 5
  let ng := numbered p.groups
  let ns := numbered p.sigs
  let grp := fun (x : SigItem) => p.groups.find? (fun g => g.group = x.group)
  let fail := fun (c : String) (s i : Nat) => ({ code := asciiCode c, order := 5, sect := s, index := BitVec.ofNat 32 i } : CheckFail)
  let g := fun (c : String) (bad : Nat × SigGroup → Bool) => (ng.find? bad).map (fun x => fail c 5 x.1)
  let sg := fun (c : String) (bad : Nat × SigItem → Bool) => (ns.find? bad).map (fun x => fail c 5 (p.groups.length + x.1))
  let bind := fun (c : String) (bad : Binding → Bool) => ((numbered p.binds).find? (fun x => bad x.2)).map
    (fun x => ({ fail c 6 x.1 with task := x.2.task } : CheckFail))
  let sizeBad := s5.length != 0 && (s5.length != 8 + 32 * getNat s5 0 2 + 20 * getNat s5 2 2 || !allZero (slice s5 4 4)
    || decide (1024 < getNat s5 0 2) || decide (8192 < getNat s5 2 2))
  let checks : List (Unit → Option CheckFail) :=
    [ fun _ => if sizeBad then some { code := asciiCode "SM01", order := 5, sect := 5 } else none,
      fun _ => ((numbered (groupRows s5)).find? (fun x => !groupFields x.2
        || (p.groups.take x.1).any (fun y => y.group = (parseGroup x.2).group))).map (fun x => fail "SM01" 5 x.1),
      fun _ => ((numbered (sigRows s5)).find? (fun x => !sigFields x.2
        || (p.sigs.take x.1).any (fun y => y.signal = (parseSig x.2).signal))).map (fun x => fail "SM01" 5 (p.groups.length + x.1)),
      fun _ => g "SM02" (fun x => (x.2.format = 1 && x.2.carrier != 2) || (x.2.format = 2 && (x.2.carrier != 2 || x.2.mode != 0))
        || (x.2.mode = 2 && (x.2.carrier != 2 || x.2.publish))),
      fun _ => sg "SM02" (fun x => match grp x.2 with
        | some y => y.format = 2
        | none => true),
      fun _ => sg "SM03" (fun x => match grp x.2 with
        | none => true
        | some y =>
          let a := sigPlace y x.2
          decide ((if y.format = 0 then y.size else 8 * y.size) < a.1 + a.2)
            || (y.format = 0 && x.2.ty = 4 && x.2.offset % 2 != 0)
            || (p.sigs.take x.1).any (fun z => z.group = x.2.group && overlaps (sigPlace y z).1 (sigPlace y z).2 a.1 a.2)),
      fun _ => sg "SM04" (fun x => match grp x.2 with
        | none => true
        | some y => if y.publish then decide (8184 ≤ x.2.signal.toNat % 8192) else x.2.signal.toNat / 8192 != y.peer),
      fun _ => bind "SM05" (fun b => match b.kind with
        | 0x03 => !(decide (b.id.toNat < 2 ^ 23) && decide (8184 ≤ b.id.toNat % 8192)) && !p.sigs.any (fun x => x.signal = b.id && (grp x).any (fun y => !y.publish))
        | 0x42 => !p.sigs.any (fun x => x.signal = b.id && (grp x).any (fun y => y.publish))
        | _ => false),
      fun _ => sg "SM05" (fun x => (grp x.2).any (fun y => y.publish) && !p.binds.any (fun b => b.kind = 0x42 && b.id = x.2.signal)),
      fun _ => g "SM06" (fun x => x.2.carrier = 2 && (p.groups.take x.1).any (fun y => y.carrier = 2 && y.comId = x.2.comId
        && (y.publish = x.2.publish || (y.format = 2 && x.2.format = 2)))) ]
  checks.findSome? (fun c => c ())

/-- Check 5 of R211 for a program image. -/
def imageCheck (bs : List Byte) : Option CheckFail :=
  match sectionForm bs with
  | some f => some f
  | none =>
    let p := parseProgram bs 0
    match p.loaderCheck with
    | some f => some f
    | none =>
      match p.taskCheck bs with
      | some f => some f
      | none => p.sigCheck bs

/-! ### Figures of PROG_INFO (R77, R78, R189, R220) -/

/-- The cost of an instance in W of R78, without the wake latency. -/
def Inst.work (i : Inst) : Nat :=
  match opInfo i.op with
  | some o => opCost o i.ty + 8 * opAccesses i.op i.ty i.param.toNat o + 2
  | none => 0

/-- The longest sum of work along dependency paths that begin at an instance, over n steps. -/
def longest (l : List Inst) : Nat → Nat → Nat
  | 0, _ => 0
  | n + 1, k =>
    let i := l.getD k default
    i.work + 10 + (i.succs.map (fun j => longest l n j)).foldl max 0

/-- The bound of R78 for a task on its own with P = 256. -/
def Program.bound (p : Program) (t : Nat) : Nat :=
  let is := p.taskInsts t
  let up := fun (a b : Nat) => (a + b - 1) / b
  let blk := ((List.range 16).map (fun b => (is.filter (fun x => x.2.home = b)).length)).foldl max 0
  let m := total (p.inputs t ++ p.payloads t) p.width
  let o := (p.outputWords t).length
  let w := total is (fun x => x.2.work)
  let l := (is.map (fun x => longest p.insts is.length x.1)).foldl max 0
  (80 + up blk 32 + up m 16) + up w 256 + l + (up o 8 + 16)

/-- The frame bytes of a task without retained lines (R153, R189). -/
def Program.frameLen (p : Program) (t : Nat) : Nat := let o := (p.outputWords t).length; 36 + 4 * o + 4 * ((o + 7) / 8)

end Sys2Proof.Machine
end

