-- ==== Sys2Proof/Machine/Bank.lean ====
section
/-! DEFINITION. Configuration banks: the fields of the nine sections, the range and consistency checks of CFG_END, and the checks
of program and bank together (R42, R197, R199, R200, R208, R209, R212, R227, R228, R261, R264, R274, R277, R298, R305, R311, R336,
R338, R344, R346, R396, R419). -/
namespace Sys2Proof.Machine

/-- The offset of the first field of a list that is not right: the list gives byte offsets and verdicts. -/
def firstOff (l : List (Nat × Bool)) : Option Nat := (l.find? (fun x => !x.2)).map (·.1)

/-- A number lies within bounds. -/
def within (x lo hi : Nat) : Bool := decide (lo ≤ x) && decide (x ≤ hi)

/-! ### Section 1: module (R199, R209) -/

/-- The fields of section 1. -/
def parseModule (b : List Byte) : ModuleCfg :=
  { window := getByte b 0, autoRejoin := bit (getByte b 1) 0, bench := bit (getByte b 1) 1, forcePermit := bit (getByte b 1) 2
    autoStart := bit (getByte b 1) 3, rejoinLimit := getByte b 2, ackSources := getByte b 3
    ackChannel := if getByte b 4 = 0xFF then none else some (getByte b 4)
    planeA := getByte b 5, planeB := getByte b 6, planeWait := getNat b 8 4 }

/-- Section 1 lies within its ranges. -/
def moduleBad (b : List Byte) : Option Nat :=
  firstOff [(0, decide (b.length = 16)), (0, within (getByte b 0) 1 64), (1, decide (getByte b 1 < 16)), (2, within (getByte b 2) 1 15),
    (3, decide (getByte b 3 < 16)), (4, decide (getByte b 4 < 32) || getByte b 4 = 0xFF), (5, decide (getByte b 5 < 3)),
    (6, decide (getByte b 6 < 3)), (7, getByte b 7 = 0), (8, decide (getNat b 8 4 ≤ 5000)), (12, allZero (slice b 12 4))]

/-- R197: the lanes of the planes differ, and the acknowledge channel is an acknowledge input. -/
def moduleJoint (m : ModuleCfg) (chans : List ChCfg) : Option Nat :=
  firstOff [(6, m.planeA != m.planeB), (4, !bit m.ackSources 1 || m.ackChannel.all (fun c => (chans.getD c {}).mode = 3))]

/-! ### Section 2: field channels (R227, R228) -/

/-- A group entry. -/
def parseGrp (b : List Byte) : GrpCfg :=
  { nominal := getByte b 0, gswTest := bit (getByte b 1) 0, testPeriod := getNat b 2 2, testWidth := getNat b 4 2 }
/-- A channel entry. -/
def parseCh (b : List Byte) : ChCfg :=
  { mode := getByte b 0, flags := getByte b 1, partner := getByte b 2, parallel := getByte b 3, onPct := getByte b 4
    offPct := getByte b 5, upper := getNat b 6 2, lower := getNat b 8 2, cmax := getNat b 10 2, chatCount := getByte b 12
    chatLeak := getNat b 14 2, stuckTime := getNat b 16 2, imin := getNat b 18 2, openT := getNat b 20 2 }
/-- The bytes of a channel entry (R227). -/
def ChCfg.bytes (c : ChCfg) : List Byte :=
  [BitVec.ofNat 8 c.mode, BitVec.ofNat 8 c.flags, BitVec.ofNat 8 c.partner, BitVec.ofNat 8 c.parallel, BitVec.ofNat 8 c.onPct,
    BitVec.ofNat 8 c.offPct] ++ be16 c.upper ++ be16 c.lower ++ be16 c.cmax ++ [BitVec.ofNat 8 c.chatCount, 0] ++ be16 c.chatLeak
    ++ be16 c.stuckTime ++ be16 c.imin ++ be16 c.openT ++ zeros 2
/-- The channel entries of section 2. -/
def parseChans (b : List Byte) : List ChCfg := (List.range 32).map (fun k => parseCh (slice b (16 + 24 * k) 24))

/-- A PARALLEL_MEMBER belongs to a set; the lowest channel of a set has only members beside it (R228). -/
def parallelOk (cs : List ChCfg) (k : Nat) : Bool :=
  let c := cs.getD k {}
  let md := fun (j : Nat) => (cs.getD j {}).mode
  if c.mode = 6 then
    c.parallel = 1 && ((k % 2 = 1 && (cs.getD (k - 1) {}).parallel = 2 && md (k - 1) != 6)
      || ((cs.getD (k / 4 * 4) {}).parallel = 4 && md (k / 4 * 4) != 6))
  else if c.mode = 4 || c.mode = 5 then
    c.parallel = 1 || ((c.parallel = 2 || c.parallel = 4) && k % c.parallel = 0
      && (List.range (c.parallel - 1)).all (fun j => md (k + j + 1) = 6))
  else c.parallel = 1

/-- The fields of a channel entry with the constraints on it, with offsets within the entry. -/
def chFields (b : List Byte) (cs : List ChCfg) (k : Nat) : List (Nat × Bool) :=
  let c := cs.getD k {}
  let out := isOutputMode c.mode
  let p := cs.getD c.partner {}
  [(0, decide (c.mode ≤ 6)), (1, decide (c.flags < 16)), (1, !bit c.flags 0 || (c.mode = 1 && decide (k < 8))),
    (1, out || decide (c.flags < 2)), (1, !bit c.flags 3 || c.mode = 4 || c.mode = 5),
    (2, if c.mode = 2 then c.partner != k && decide (c.partner < 32) && p.mode = 2 && p.partner = k else c.partner = 0xFF),
    (3, parallelOk cs k), (4, within c.onPct 10 90), (5, within c.offPct 5 85 && decide (c.offPct < c.onPct)),
    (6, within c.upper 1 c.cmax), (8, decide (c.lower < c.upper)), (10, decide (1 ≤ c.cmax)), (12, c.chatCount != 1),
    (13, getByte b 13 = 0), (14, decide (1 ≤ c.chatLeak)), (18, c.imin = 0 || (out && within c.imin 5 100)),
    (20, if out then within c.openT 10 10000 else c.openT = 0), (22, allZero (slice b 22 2))]

/-- Section 2 lies within its ranges. -/
def fieldBad (b : List Byte) : Option Nat :=
  let cs := parseChans b
  let grp := fun (o : Nat) =>
    [(o, decide (getByte b o ≤ 4)), (o + 1, decide (getByte b (o + 1) < 2)), (o + 2, decide (1 ≤ getNat b (o + 2) 2)),
      (o + 4, within (getNat b (o + 4) 2) 50 1000), (o + 6, allZero (slice b (o + 6) 2))]
  firstOff ([(0, decide (b.length = 784))] ++ grp 0 ++ grp 8
    ++ (List.range 32).flatMap (fun k => (chFields (slice b (16 + 24 * k) 24) cs k).map (fun x => (16 + 24 * k + x.1, x.2))))

/-! ### Section 3: axes, timing inputs and outputs, PTP (R42, R298) -/

/-- A source code of R35 with its input and edges is one of its axis. -/
def sourceOk (n src input edges : Nat) : Bool :=
  (match n with
    | 0 => decide (src ≤ 2)
    | 1 => decide (src ≤ 4)
    | 2 => decide (src ≤ 2)
    | _ => decide (src ≤ 1))
  && (match n, src with
    | 2, 1 => decide (input < 16)
    | 2, 2 => decide (input < 4)
    | 3, 1 => decide (input < 4)
    | _, _ => input = 0)
  && (if n = 3 then decide (edges ≤ 2) else edges = 0)

/-- The axis block. -/
def parseTim (b : List Byte) : TimCfg :=
  { axes := (List.range 4).map (fun n => (getByte b (4 * n), getByte b (4 * n + 1), getByte b (4 * n + 2)))
    stepThr := getNat b 16 4, lockThr := getNat b 20 4, holdover := getNat b 24 2, nominal := getNat b 28 4
    inputs := slice b 32 4, outputs := slice b 36 4 }

/-- A signed byte. -/
def signedByte (b : List Byte) (off : Nat) : Int := signed 8 (getByte b off)

/-- The PTP block, from its first byte. -/
def parsePtp (b : List Byte) : PtpCfg :=
  { flags := getByte b 0, domain := getByte b 1, prio1 := getByte b 2, prio2 := getByte b 3, clockClass := getByte b 4
    port := getByte b 5, portAlt := getByte b 6, logSync := signedByte b 7, logAnnounce := signedByte b 8
    announceTimeout := getByte b 9, logDelay := signedByte b 10, utc := signed 16 (getNat b 12 2), portModes := getNat b 16 4 }

/-- The mode of a port in PORT_MODES: 0 OFF, 1 TC, 2 ONESTEP. -/
def PtpCfg.modeOf (p : PtpCfg) (port : Nat) : Nat := bits p.portModes (2 * port) 2

/-- Section 3 lies within its ranges; a consist port of PTP has the role NODE. -/
def timingBad (b : List Byte) (ports : List PortCfg) : Option Nat :=
  let t := parseTim b
  let p := parsePtp (b.drop 64)
  let i8 := fun (x lo hi : Int) => decide (lo ≤ x) && decide (x ≤ hi)
  let role := fun (k : Nat) => decide (8 ≤ k) || (ports.getD k {}).role = 1
  firstOff ([(0, decide (b.length = 88))]
    ++ (List.range 4).flatMap (fun n =>
      let x := t.axes.getD n (0, 0, 0)
      [(4 * n, sourceOk n x.1 x.2.1 x.2.2), (4 * n + 3, getByte b (4 * n + 3) = 0)])
    ++ [(16, within t.stepThr 1000 1000000000), (20, within t.lockThr 100 50000), (24, within t.holdover 1 3600),
      (26, allZero (slice b 26 2)), (28, within t.nominal 1000 100000)]
    ++ (List.range 4).map (fun k =>
      let c := getByte b (32 + k)
      (32 + k, decide (c < 32) && decide (bits c 2 3 ≤ 5) && (bit c 0 || !bit c 1)))
    ++ (List.range 4).map (fun k => (36 + k, decide (getByte b (36 + k) < 4)))
    ++ [(40, allZero (slice b 40 24)), (64, decide (p.flags < 64) && !(bit p.flags 1 && bit p.flags 2)),
      (65, decide (p.domain < 128)), (68, decide (6 ≤ p.clockClass)), (69, decide (p.port ≤ 9) && role p.port),
      (70, p.portAlt = 0xFF || (decide (p.portAlt ≤ 9) && role p.portAlt)), (71, i8 p.logSync (-7) 1), (72, i8 p.logAnnounce (-3) 3),
      (73, within p.announceTimeout 2 10), (74, i8 p.logDelay (-7) 5), (75, getByte b 75 = 0), (78, allZero (slice b 78 2)),
      (80, decide (p.portModes < 2 ^ 22) && (List.range 11).all (fun k => p.modeOf k != 3)),
      (64, bit p.flags 5 || (p.modeOf p.port = 2 && (p.portAlt = 0xFF || p.modeOf p.portAlt = 2))), (84, allZero (slice b 84 4))])

/-! ### Section 4: network (R277, R305, R336) -/

/-- A schedule entry (R273). -/
def parseSched (b : List Byte) : SchedEntry :=
  { ty := getByte b 0, planes := getByte b 1, owner := getNat b 2 2, slot := getByte b 4, rep := getByte b 5, base := getByte b 6
    start := getNat b 8 4, length := getNat b 12 4 }
/-- A port entry. -/
def parsePort (b : List Byte) : PortCfg :=
  { role := getByte b 0, planeB := getByte b 1 = 1, speed := getByte b 2, ranks := getByte b 3, linkDelay := getNat b 4 4 }

/-- Offsets of the lists of section 4: schedule, device map, transmit list, IP block, bridge block. -/
def netOffsets (b : List Byte) : Nat × Nat × Nat × Nat × Nat :=
  let s := 96
  let m := s + 16 * getNat b 22 2
  let t := m + 4 * getNat b 24 2
  let i := t + 8 * getNat b 26 2
  (s, m, t, i, i + 32)

/-- The IP block (R305). -/
def parseIp (b : List Byte) : IpCfg :=
  { etbAddr := getWord b 0, etbMask := getWord b 4, ecnAddr := getWord b 8, ecnMask := getWord b 12, svcAddr := getWord b 16
    svcMask := getWord b 20, gateway := getWord b 24, mdComId := getWord b 28 }

/-- The bridge block (R336). -/
def parseBridge (b : List Byte) : BridgeCfg :=
  { inbound := getByte b 0, discardMs := getNat b 2 2, reqTimeout := getNat b 4 2
    ifs := (List.range 4).map (fun k => slice b (8 + 8 * k) 8)
    nodes := (List.range (getByte b 1)).map (fun k => { node := getNat b (40 + 8 * k) 2, ip := getWord b (44 + 8 * k) }) }

/-- Section 4. -/
def parseNet (b : List Byte) : NetCfg :=
  let (s, m, t, i, r) := netOffsets b
  { deviceId := getNat b 0 2, rank := getByte b 2
    sched := { id := crc32c (slice b 3 13 ++ slice b s (m - s)), c := getByte b 3, tb := getNat b 4 4, phase := getNat b 8 4
               pi := getNat b 12 4, entries := (rows (getNat b 22 2) 16 (b.drop s)).map parseSched }
    quar := getNat b 16 2, ethertype := getNat b 18 2, openAge := getNat b 20 2
    ports := (List.range 8).map (fun k => parsePort (slice b (32 + 8 * k) 8))
    map := (rows (getNat b 24 2) 4 (b.drop m)).map (fun e => { device := getNat e 0 2, port := getByte e 2, planeB := getByte e 3 = 1 })
    tx := (rows (getNat b 26 2) 8 (b.drop t)).map (fun e =>
      { slot := getByte e 0, planes := getByte e 1, ty := getByte e 2, auto := bit (getByte e 3) 0, ident := getNat e 4 4 })
    ip := parseIp (b.drop i), bridge := parseBridge (b.drop r) }

/-- A byte on the wire of a plane at the lowest speed that any of its ports permits, in ns (R274). -/
def NetCfg.byteNs (n : NetCfg) (pb : Bool) : Nat := if n.ports.any (fun p => p.role != 0 && p.planeB = pb && bit p.speed 1) then 80 else 8

/-- The ports of a plane in a role. -/
def NetCfg.inRole (n : NetCfg) (pb : Bool) (role : Nat) : Nat := (n.ports.filter (fun p => p.role = role && p.planeB = pb)).length

/-- The roles of the ports are an arrangement of R265. -/
def NetCfg.rolesOk (n : NetCfg) : Bool :=
  let star := fun (pb : Bool) => decide (0 < n.inRole pb 2)
  let ok := fun (pb : Bool) =>
    if star pb then decide (n.inRole pb 3 ≤ 1) && n.inRole pb 1 = 0 && n.inRole (!pb) 1 = 1 && !star (!pb)
    else n.inRole pb 3 = 0 && decide (n.inRole pb 1 ≤ 1)
  ok false && ok true

/-- The entries present in a basic cycle on a plane. -/
def Schedule.present (c : Schedule) (cyc : Nat) (pb : Bool) : List SchedEntry := c.entries.filter (fun e => e.present cyc pb)

/-- The schedule checks of R274 that concern single entries and their order, with positions: FS01. -/
def schedEntryOk (c : Schedule) (e : SchedEntry) : Bool :=
  e.start % 10 = 0 && e.length % 10 = 0 && decide (4000 ≤ e.length) && decide (e.start + e.length ≤ c.tb)

/-- FS02: no two present entries overlap and no slot number appears twice. -/
def fs02 (c : Schedule) : Bool :=
  let rec apart : List SchedEntry → Bool
    | [] => true
    | e :: l => l.all (fun x => !overlaps e.start e.length x.start x.length && e.slot != x.slot) && apart l
  [false, true].all (fun pb => (List.range c.len).all (fun cyc => apart (c.present cyc pb)))

/-- A section with every port OFF and no schedule entry holds no schedule, so that FS03 and FS04 have nothing to check (DEDUCED from
R274 and R277, notes/assumptions 76). -/
def NetCfg.noSchedule (n : NetCfg) : Bool := n.sched.entries.isEmpty && n.ports.all (fun p => p.role = 0)

/-- FS03: slot 0 is REFERENCE. -/
def fs03 (n : NetCfg) : Bool :=
  let c := n.sched
  let need := fun (pb : Bool) =>
    let spares := (c.entries.filter (fun e => e.ty = 3 && bit e.planes (b2n pb))).length
    12000 + 2 * c.pi + n.byteNs pb * (86 + max 84 (58 + 4 * spares))
  c.entries.any (fun e => e.slot = 0 && e.ty = 1 && e.start = 0 && e.rep = 1 && e.planes = 3
    && decide (need false ≤ e.length) && decide (need true ≤ e.length))

/-- FS04: each plane has exactly one CLAIM entry, with REP equal to C. -/
def fs04 (c : Schedule) : Bool :=
  [0, 1].all (fun p =>
    let k := c.entries.filter (fun e => e.ty = 4 && bit e.planes p)
    k.length = 1 && k.all (fun e => e.rep = c.len))

/-- Starts within the cluster cycle of the slots of a plane that hold packets of a flow (R260, R273). -/
def NetCfg.flowTimes (n : NetCfg) (flow : Nat) (pb : Bool) (ok : Nat → Bool) : List Nat :=
  (List.range n.sched.len).flatMap (fun cyc =>
    ((n.sched.present cyc pb).filter (fun e => ok e.slot
      && n.tx.any (fun x => x.ty = 3 && x.ident = flow && x.slot = e.slot && bit x.planes (b2n pb)))).map
        (fun e => cyc * n.sched.tb + e.start))

/-- The longest time that the samples of a flow gather before an occurrence of a slot: since the latest slot of the plane that holds the
flow, of this cluster cycle or of the one before. -/
def NetCfg.flowGap (n : NetCfg) (flow slot : Nat) (pb : Bool) : Nat :=
  let all := n.flowTimes flow pb (fun _ => true)
  let cluster := n.sched.len * n.sched.tb
  ((n.flowTimes flow pb (· = slot)).map (fun t =>
    match all.filter (fun u => decide (u < t)) with
    | [] => t + cluster - all.foldl max 0
    | l => t - l.foldl max 0)).foldl max 0

/-- Bytes of the container of a flow packet in a slot: the samples that fall due between two such slots (R260, R270). -/
def NetCfg.flowBytes (n : NetCfg) (c : FlowCfg) (slot : Nat) (pb : Bool) : Nat :=
  let hz := [8000, 16000, 32000, 48000].getD (bits c.format 0 2) 0
  let k := (n.flowGap c.id slot pb * hz + 999999999) / 1000000000
  containerSize (16 + k * c.channels * (if bit c.format 2 then 3 else 2))

/-- The frame that a slot's transmit-list entries form on a plane: groups of the running program, safe telegrams, the samples of flows
between two slots, and the bridge space that an entry reserves. A tunnel sends what fits in the room left (R260, R276, R323, R341; DEDUCED,
notes/assumptions 51). -/
def NetCfg.frameBytes (n : NetCfg) (conns : List SafeConn) (flows : List FlowCfg) (groups : List SigGroup) (slot : Nat) (pb : Bool) : Nat :=
  max 64 (34 + total (n.tx.filter (fun x => x.slot = slot && bit x.planes (b2n pb))) (fun x =>
    match x.ty with
    | 1 => match groups.find? (fun g => g.publish && g.carrier = 1 && g.group = x.ident) with
      | some g => containerSize (kalviSize g.size)
      | none => 0
    | 2 => match conns.find? (fun c => c.conn = x.ident) with
      | some c => containerSize (24 + c.length)
      | none => 0
    | 3 => match flows.find? (fun c => c.id = x.ident && c.send) with
      | some c => n.flowBytes c slot pb
      | none => 0
    | 5 => x.ident
    | _ => 0))

/-- FS05 for a transmit-list entry: on each of its planes it names an own DATA slot or a SPARE slot, and the frame fits there. -/
def fs05 (n : NetCfg) (conns : List SafeConn) (flows : List FlowCfg) (groups : List SigGroup) (x : TxEntry) : Bool :=
  [false, true].all (fun pb =>
    let es := n.sched.entries.filter (fun e => e.slot = x.slot && bit e.planes (b2n pb)
      && ((e.ty = 2 && e.owner = n.deviceId) || e.ty = 3))
    let bytes := n.frameBytes conns flows groups x.slot pb
    !bit x.planes (b2n pb)
      || (!es.isEmpty && es.all (fun e => decide (bytes ≤ 1518 && (bytes + 20) * n.byteNs pb ≤ e.length - 2 * n.sched.pi))))

/-- The devices of a plane, the module as its star among them, are at most 64 (R266). -/
def NetCfg.devicesOk (n : NetCfg) (pb : Bool) : Bool :=
  let own := if 0 < n.inRole pb 2 then [n.deviceId] else []
  decide ((own ++ (n.map.filter (fun x => x.planeB = pb)).map (·.device)).eraseDups.length ≤ 64)

/-- FS07: a measured link delay needs an OPEN window of 20 µs on the port's plane. -/
def fs07 (n : NetCfg) : Bool :=
  n.ports.all (fun p => p.role = 0 || p.linkDelay != 0
    || n.sched.entries.any (fun e => e.ty = 5 && bit e.planes (b2n p.planeB) && decide (20000 ≤ e.length)))

/-- The fields of an interface entry (R338). -/
def ifOk (k : Nat) (e : List Byte) : Bool :=
  let c := getByte e 0
  if k < 2 then
    if bit c 0 then
      let nom := getNat e 2 2
      let d := getNat e 4 2
      decide (c < 4) && getByte e 1 = 0 && (nom = 125 || nom = 250 || nom = 500 || nom = 1000)
        && (if bit c 1 then within d 1000 5000 && d % 1000 = 0 && decide (nom ≤ d) else d = 0) && within (getByte e 6) 50 90
        && getByte e 7 = 0
    else c = 0 || c = 2
  else
    if bit c 0 then
      let hdlc := bit c 1
      decide (c < 64) && decide (bits c 2 2 ≤ 2) && (if hdlc then true else within (getByte e 1) 3 64)
        && within (getNat e 2 4) 1200 3000000 && (if hdlc then within (getByte e 7) 1 2 else getByte e 7 = 0)
    else decide (c < 64) && decide (bits c 2 2 ≤ 2)

/-- Two subnets of interfaces that are switched on overlap (R305). -/
def subnetsClash (a am b bm : Word) : Bool := a != 0 && b != 0 && (a &&& am &&& bm) = (b &&& am &&& bm)

/-- The identifier of a transmit-list entry lies in the range of its container TYPE (R270, R323, R341). -/
def txIdentOk (x : TxEntry) : Bool :=
  match x.ty with
  | 1 | 2 => decide (x.ident < 1024)
  | 3 => within x.ident 1 255
  | 4 => decide (x.ident < 32)
  | 5 => within x.ident 64 1476
  | _ => false

/-- Section 4 fails a check: its code and the byte offset. -/
def netBad (b : List Byte) (ax0Src : Nat) (conns : List SafeConn) (flows : List FlowCfg) (groups : List SigGroup) : Option (String × Nat) :=
  let n := parseNet b
  let c := n.sched
  let (s, m, t, i, r) := netOffsets b
  let et := n.ethertype
  let ns := numbered c.entries
  let nt := numbered n.tx
  let first := fun (code : String) (l : List (Nat × Bool)) => (firstOff l).map (fun o => (code, o))
  let nodes := n.bridge.nodes
  let checks : List (Unit → Option (String × Nat)) :=
    [ fun _ => first "" [(0, decide (r + 40 ≤ b.length) && b.length = r + 40 + 8 * getByte b (r + 1))],
      fun _ => first "" [(0, decide (n.deviceId < 1024)),
        (2, n.rank = 0xFF || n.rank = 0 && decide (ax0Src ≤ 1) || within n.rank 1 3 && ax0Src = 2),
        (3, decide (c.c ≤ 6)), (4, within c.tb 250000 16000000 && c.tb % 10000 = 0),
        (8, decide (c.phase + 10000 ≤ c.tb) && c.phase % 10000 = 0)],
      fun _ => first "FS06" [(12, within c.pi 100 50000)],
      fun _ => first "" [(16, decide (1 ≤ n.quar)),
        (18, within et 0x600 0xFFFF && !([0x0800, 0x0806, 0x8100, 0x86DD, 0x88A8, 0x88F7].contains et)), (20, within n.openAge 1 1000),
        (22, decide (c.entries.length ≤ 4096)), (24, decide (0 < n.inRole false 2 + n.inRole true 2) || n.map.isEmpty),
        (28, allZero (slice b 28 4))],
      fun _ => first "" ((List.range 8).flatMap (fun k =>
        let o := 32 + 8 * k
        [(o, decide (getByte b o ≤ 3)), (o + 1, decide (getByte b (o + 1) ≤ 1)), (o + 2, decide (getByte b (o + 2) ≤ 3)),
          (o + 3, decide (getByte b (o + 3) < 16)), (o + 4, decide (getNat b (o + 4) 4 ≤ 10000))])),
      fun _ => first "" [(32, n.rolesOk)],
      fun _ => first "" (ns.flatMap (fun (k, e) =>
        let o := s + 16 * k
        [(o, within e.ty 1 5), (o + 1, within e.planes 1 3),
          (o + 2, if e.ty = 2 then decide (e.owner < 1024) else if e.ty = 3 then decide (e.owner < 512) else e.owner = 0xFFFF),
          (o + 5, [1, 2, 4, 8, 16, 32, 64].contains e.rep && decide (e.rep ≤ c.len)), (o + 6, decide (e.base < e.rep)),
          (o + 7, getByte b (o + 7) = 0), (o + 8, k = 0 || decide ((c.entries.getD (k - 1) default).start ≤ e.start))])),
      fun _ => first "" [(3, c.id != 0)],
      fun _ => first "FS01" (ns.map (fun x => (s + 16 * x.1, schedEntryOk c x.2))),
      fun _ => first "FS02" [(s, fs02 c)],
      fun _ => first "FS03" [(s, n.noSchedule || fs03 n)],
      fun _ => first "FS04" [(s, n.noSchedule || fs04 c)],
      fun _ => first "" (nt.flatMap (fun (k, x) =>
        let o := t + 8 * k
        [(o + 1, within x.planes 1 3), (o + 2, within x.ty 1 5), (o + 3, decide (getByte b (o + 3) < 2)), (o + 4, txIdentOk x)])),
      fun _ => first "FS05" (nt.map (fun x => (t + 8 * x.1, fs05 n conns flows groups x.2))),
      fun _ => first "FS07" [(32, fs07 n)],
      fun _ => first "" ((numbered n.map).flatMap (fun (k, x) =>
        [(m + 4 * k, decide (x.device < 1024)), (m + 4 * k + 2, decide (x.port ≤ 8)), (m + 4 * k + 3, decide (getByte b (m + 4 * k + 3) ≤ 1))])),
      fun _ => first "" [(24, n.devicesOk false && n.devicesOk true)],
      fun _ => first "" [(i, !(subnetsClash n.ip.etbAddr n.ip.etbMask n.ip.ecnAddr n.ip.ecnMask
        || subnetsClash n.ip.etbAddr n.ip.etbMask n.ip.svcAddr n.ip.svcMask
        || subnetsClash n.ip.ecnAddr n.ip.ecnMask n.ip.svcAddr n.ip.svcMask))],
      fun _ => first "" ([(r, decide (n.bridge.inbound ≤ 2)), (r + 1, decide (getByte b (r + 1) ≤ 16)), (r + 2, within n.bridge.discardMs 1 1000),
        (r + 4, within n.bridge.reqTimeout 1 1000), (r + 6, allZero (slice b (r + 6) 2))]
        ++ (List.range 4).map (fun k => (r + 8 + 8 * k, ifOk k (n.bridge.ifs.getD k [])))
        ++ (numbered nodes).flatMap (fun (k, x) =>
          let o := r + 40 + 8 * k
          [(o, decide (x.node < 1024) && !(nodes.take k).any (fun y => y.node = x.node)), (o + 2, allZero (slice b (o + 2) 2)),
            (o + 4, inSubnet x.ip n.ip.etbAddr n.ip.etbMask)])) ]
  checks.findSome? (fun f => f ())

/-! ### Section 5: sound (R244, R249, R250, R254, R257, R258, R260, R261, R264) -/

/-- A filter-channel entry without its coefficients. -/
def parseFilt (b : List Byte) : FiltCfg :=
  let c := getByte b 0
  { enabled := bit c 7, falling := bit c 1, mck1 := bit c 0, preset := getByte b 1, n := getByte b 2, r := getByte b 3 + 1
    firDec := getByte b 4, firDelay := getByte b 5, meas := getByte b 6, zc := bit (getByte b 7) 0, window := getNat b 8 2
    hyst := getNat b 10 2, scale := getWord b 12 }

/-- The filter channels from their entries, taking coefficients in channel order for those with preset 5; the bytes left. -/
def takeCoefs : List FiltCfg → List Byte → List FiltCfg × List Byte
  | [], bs => ([], bs)
  | f :: l, bs =>
    if f.preset = 5 then
      let (r, rest) := takeCoefs l (bs.drop 256)
      ({ f with coefs := (wordsOf 64 bs).map (fun w => signed 24 w.toNat) } :: r, rest)
    else
      let (r, rest) := takeCoefs l bs
      (f :: r, rest)

/-- A flow entry. -/
def parseFlow (b : List Byte) : FlowCfg :=
  { id := getByte b 0, send := getByte b 1 = 1, channels := getByte b 2, format := getByte b 3, peer := getNat b 4 2
    latency := getNat b 6 2, depth := getNat b 8 2 }

/-- A map entry: kind and identifier. -/
def parseMap (b : List Byte) (k : Nat) : Nat × Nat := (bits (getNat b (2 * k) 2) 12 4, bits (getNat b (2 * k) 2) 0 12)

/-- The offset of the flow count of section 5. -/
def flowOffset (b : List Byte) : Nat := 280 + 256 * ((List.range 16).filter (fun k => getByte b (24 + 16 * k + 1) = 5)).length

/-- Section 5; an empty one configures nothing (R205, R264; DEDUCED, notes/assumptions 77). -/
def parseSound (b : List Byte) : SoundCfg :=
  if b.isEmpty then {}
  else
  let (fs, _) := takeCoefs ((List.range 16).map (fun k => parseFilt (slice b (24 + 16 * k) 16))) (b.drop 280)
  let o := flowOffset b
  let maps := b.drop (o + 2 + 12 * getNat b o 2)
  { mck0 := getNat b 0 4, mck1 := getNat b 4 4, outDelay0 := getNat b 8 4, outDelay1 := getNat b 12 4, inDelay := getNat b 16 4
    ramp := getNat b 20 2, latency := getNat b 22 2, filters := fs, flows := (rows (getNat b o 2) 12 (b.drop (o + 2))).map parseFlow
    sources := (List.range 32).map (parseMap maps), dests := (List.range 32).map (fun k => parseMap maps (32 + k))
    gains := (List.range 1024).map (fun k => signed 16 (getNat maps (128 + 2 * k) 2)) }

/-- A source map entry names a unit that exists: a 48 or 16 ksps filter channel, a TDMI slot, a channel of a receive flow. -/
def sourceEntryOk (g : SoundCfg) (k : Nat × Nat) : Bool :=
  match k.1 with
  | 0 => k.2 = 0
  | 1 => decide (k.2 < 16)
      && (let c := g.filters.getD k.2 {}
          let (_, r, _, d) := chainParams c
          !c.enabled || mckHz g c = 48000 * (2 * r * d) || mckHz g c = 16000 * (2 * r * d))
  | 2 => decide (k.2 < 8)
  | 3 => g.flows.any (fun f => f.id = k.2 / 8 && !f.send && decide (k.2 % 8 < f.channels))
  | _ => false

/-- A destination map entry names a unit that exists. -/
def destEntryOk (g : SoundCfg) (k : Nat × Nat) : Bool :=
  match k.1 with
  | 0 => k.2 = 0
  | 1 | 2 => decide (k.2 < 8)
  | 3 => g.flows.any (fun f => f.id = k.2 / 8 && f.send && decide (k.2 % 8 < f.channels))
  | _ => false

/-- The fields of a filter-channel entry, with offsets within it. -/
def filtFields (g : SoundCfg) (b : List Byte) (c : FiltCfg) : List (Nat × Bool) :=
  [(0, bits (getByte b 0) 2 5 = 0), (1, decide (c.preset ≤ 5)),
    (2, if c.preset = 5 then within c.n 1 5 else c.n = 0), (3, if c.preset = 5 then within c.r 8 256 else c.r = 1),
    (4, if c.preset = 5 then within c.firDec 1 2 else c.firDec = 0), (5, if c.preset = 5 then decide (c.firDelay ≤ 126) else c.firDelay = 0),
    (6, decide (c.meas ≤ 3)), (7, decide (getByte b 7 < 2)), (8, !c.enabled || within c.window 1 1000),
    (1, (!c.enabled && mckHz g c = 0) || (presetHz c.preset).all (fun f => mckHz g c = f)), (7, !(c.enabled && c.zc) || decide (delayNs g c ≤ 250000))]

/-- Section 5 fails a check: the byte offset, and the result. -/
def soundBad (b : List Byte) : Option (Nat × Nat) :=
  let g := parseSound b
  let o := flowOffset b
  let nf := getNat b o 2
  let maps := o + 2 + 12 * nf
  let mck := fun (f : Nat) => f = 0 || within f 1024000 20480000
  let mixed := g.filters.zip (List.range 16) |>.filter (fun x => x.1.enabled && g.sources.contains (1, x.2))
  let bad := firstOff ([(0, decide (o + 2 ≤ b.length) && decide (nf ≤ 255) && b.length = maps + 128 + 2048), (0, mck g.mck0), (4, mck g.mck1),
      (8, decide (g.outDelay0 ≤ 2000000)), (12, decide (g.outDelay1 ≤ 2000000)), (16, decide (g.inDelay ≤ 2000000)),
      (20, within g.ramp 1 1000), (22, mixed.all (fun x => decide (delayNs g x.1 + 250000 ≤ (g.latency : Int) * 125000)))]
    ++ (numbered g.filters).flatMap (fun (k, c) =>
      (filtFields g (slice b (24 + 16 * k) 16) c).map (fun x => (24 + 16 * k + x.1, x.2)))
    ++ (List.range ((o - 280) / 4)).map (fun k => (280 + 4 * k, decide (getByte b (280 + 4 * k) = 0)))
    ++ (numbered g.flows).flatMap (fun (k, f) =>
      let e := o + 2 + 12 * k
      [(e, within f.id 1 255 && !(g.flows.take k).any (fun x => x.id = f.id)), (e + 1, decide (getByte b (e + 1) ≤ 1)),
        (e + 2, within f.channels 1 8), (e + 3, decide (f.format < 8)), (e + 4, decide (f.peer < 1024) || f.peer = 0xFFFF),
        (e + 6, within f.latency 2 800), (e + 10, allZero (slice b (e + 10) 2))])
    ++ (numbered g.sources).map (fun x => (maps + 2 * x.1, sourceEntryOk g x.2))
    ++ (numbered g.dests).map (fun x => (maps + 64 + 2 * x.1, destEntryOk g x.2))
    ++ (numbered g.gains).map (fun (p, v) => (maps + 128 + 2 * p, decide (-24576 ≤ v) && decide (v ≤ 3072)
      && !((g.sources.getD (p / 32) (0, 0)).1 = 3 && (g.dests.getD (p % 32) (0, 0)).1 = 3))))
  match (if b.isEmpty then none else bad) with
  | some x => some (x, 3)
  | none => if 1572864 < total g.flows flowBytes then some (o, 0x0A) else none

/-! ### Section 6: recorder (R344, R346) -/

/-- The definitions of section 6 from its entries on. -/
def parseDefs : Nat → List Byte → List RecDef × List Byte
  | 0, bs => ([], bs)
  | k + 1, bs =>
    let n := getByte bs 10
    let d : RecDef := { defn := getNat bs 0 2, source := getByte bs 2, flush := bit (getByte bs 3) 0, arg := getWord bs 4
                        holdoff := getNat bs 8 2, items := wordsOf n (bs.drop 16) }
    let (l, rest) := parseDefs k (bs.drop (16 + 4 * n))
    (d :: l, rest)

/-- The words an item takes in a snapshot; a signal at least one (R346). -/
def itemWords (w : Word) : Nat := let k := bits w.toNat 28 4; if k = 4 || k = 5 then 2 else 1

/-- An item lies within R346. -/
def itemOk (s : State) (w : Word) : Bool :=
  let a := bits w.toNat 0 28
  match bits w.toNat 28 4 with
  | 1 => decide (a < 0x800000) && !isWindow a && (peek s .host a).isSome
  | 2 | 3 => decide (a < 2 ^ 23)
  | 4 => decide (a < 4)
  | 5 => a = 0
  | 6 => bits a 16 8 = 0
  | 7 => decide (a < 32)
  | _ => false

/-- Section 6 fails a check: the byte offset. -/
def recBad (s : State) (b : List Byte) : Option Nat :=
  let n := getNat b 2 2
  let (ds, rest) := parseDefs n (b.drop 8)
  let off := fun (k : Nat) => 8 + total (ds.take k) (fun d => 16 + 4 * d.items.length)
  firstOff ([(0, (b.isEmpty || decide (8 ≤ b.length)) && decide (getByte b 0 ≤ 1)), (1, getByte b 1 = 0), (2, decide (n ≤ 256)), (4, allZero (slice b 4 4))]
    ++ (numbered ds).flatMap (fun (k, d) =>
      let o := off k
      let a := d.arg.toNat
      [(o, decide (o + 16 + 4 * getByte b (o + 10) ≤ b.length)), (o, decide (d.defn < 256) && !(ds.take k).any (fun x => x.defn = d.defn)),
        (o + 2, within d.source 1 5), (o + 3, decide (getByte b (o + 3) ≤ 1)),
        (o + 4, match d.source with
          | 3 => bits a 28 4 = 0 && bits a 16 8 = 0 && decide (1 ≤ bits a 0 16)
          | 4 => decide (a ≤ 4)
          | _ => a = 0),
        (o + 10, decide (getByte b (o + 10) ≤ 64) && decide (total d.items itemWords ≤ 64)), (o + 11, allZero (slice b (o + 11) 5))]
        ++ (numbered d.items).map (fun x => (o + 16 + 4 * x.1, itemOk s x.2)))
    ++ [(0, (rest.isEmpty : Bool))])

/-! ### Section 7: power (R416, R419) -/

/-- Section 7. -/
def parsePower (b : List Byte) : PowerCfg :=
  { base := b.getD 0 0, wake := b.getD 1 0, hold := getNat b 2 2, src := getByte b 4, filter := getByte b 5
    minOn := (List.range 5).map (fun k => getNat b (8 + 2 * k) 2), tick := getNat b 20 4, period := getNat b 24 4
    sample := getNat b 28 2, flags := getByte b 30, sndCh := getByte b 31, mask := getWord b 32, pattern := getWord b 36
    dbfs := signed 16 (getNat b 40 2) }

/-- The ranges of the duty fields and the rule of R416, with offsets in section 7. -/
def dutyFields (p : PowerCfg) (cs : List ChCfg) : List (Nat × Bool) :=
  [(24, p.period = 0 || within p.period 10 60000), (28, within p.sample 1 1000), (30, decide (p.flags < 4)), (31, decide (p.sndCh < 16)),
    (32, p.period = 0 || (List.range 32).all (fun ch => !p.mask.getLsbD ch || isInputMode (cs.getD ch {}).mode)),
    (28, p.period = 0 || (List.range 32).all (fun ch => !p.mask.getLsbD ch
      || (decide (tOn (cs.getD ch {}) ≤ 100 * p.sample) && decide (tOff (cs.getD ch {}) ≤ 100 * p.sample)))),
    (24, p.period = 0 || decide (p.sample + 2 ≤ p.period))]

/-- Section 7 fails a check: the byte offset. -/
def powerBad (b : List Byte) (cs : List ChCfg) : Option Nat :=
  let p := parsePower b
  firstOff ([(0, decide (b.length = 48)), (2, within p.hold 1 3600), (4, decide (p.src < 32)), (5, decide (1 ≤ p.filter)), (6, allZero (slice b 6 2)),
    (18, allZero (slice b 18 2)), (20, p.tick = 0 || decide (10 ≤ p.tick)), (42, allZero (slice b 42 6))] ++ dutyFields p cs)

/-! ### Section 8: pairing (R395, R396) -/

/-- Section 8. -/
def parsePair (b : List Byte) : PairCfg :=
  { enable := bit (getByte b 0) 0, autoReturn := bit (getByte b 0) 1, flovisCheck := bit (getByte b 0) 2, resyncLimit := getByte b 1
    partnerVote := b.getD 2 0, holdoff := getNat b 4 4, etb := getWord b 8, ecn := getWord b 12 }

/-- Section 8 fails a check: the byte offset. -/
def pairBad (b : List Byte) : Option Nat :=
  firstOff [(0, decide (b.length = 16)), (0, decide (getByte b 0 < 8)), (1, within (getByte b 1) 1 15), (3, getByte b 3 = 0),
    (4, within (getNat b 4 4) 16 1048576)]

/-! ### Section 9: safe connections (R199, R200) -/

/-- The connection entries of section 9 from its entries on. -/
def parseConns : Nat → List Byte → List SafeConn × List Byte
  | 0, bs => ([], bs)
  | k + 1, bs =>
    let n := getNat bs 12 2
    let c : SafeConn := { conn := getNat bs 0 2, send := getByte bs 2 = 1, task := getByte bs 3, scid := getWord bs 4, peer := getNat bs 8 2
                          loc := getNat bs 10 2, length := n, timeoutMs := getNat bs 16 4, singleMs := getNat bs 20 4
                          passive := slice bs 24 n }
    let (l, rest) := parseConns k (bs.drop (24 + n))
    (c :: l, rest)

/-- Section 9 fails a check: the byte offset. -/
def connsBad (b : List Byte) : Option Nat :=
  let n := getNat b 0 2
  let (cs, rest) := parseConns n (b.drop 8)
  let off := fun (k : Nat) => 8 + total (cs.take k) (fun c => 24 + c.length)
  firstOff ([(0, (b.isEmpty || decide (8 ≤ b.length)) && decide (n ≤ 1024)), (2, allZero (slice b 2 6))]
    ++ (numbered cs).flatMap (fun (k, c) =>
      let o := off k
      [(o, decide (o + 24 ≤ b.length)), (o + 12, decide (c.length ≤ 256) && c.length % 4 = 0 && c.passive.length = c.length),
        (o, decide (c.conn < 1024) && (cs.take k).all (fun x => decide (x.conn < c.conn))), (o + 2, decide (getByte b (o + 2) ≤ 1)),
        (o + 3, decide (c.task < 16)), (o + 4, c.scid != 0 && !(cs.take k).any (fun x => x.scid = c.scid)), (o + 8, decide (c.peer < 1024)),
        (o + 10, decide (c.loc < 1024)), (o + 14, allZero (slice b (o + 14) 2)),
        (o + 16, if c.send then c.timeoutMs = 0 else within c.timeoutMs 1 10000),
        (o + 20, if c.send then c.singleMs = 0 else decide (c.singleMs ≤ 3600000))])
    ++ [(0, (rest.isEmpty : Bool))])

/-! ### The bank -/

/-- The bank that a bank object holds (R208). -/
def parseBank (bs : List Byte) : Bank :=
  let s2 := sect bs 2
  let s3 := sect bs 3
  let s6 := sect bs 6
  let s9 := sect bs 9
  { valid := true, bankId := getWord bs 20, bankVer := getWord bs 24, modu := parseModule (sect bs 1)
    grpA := parseGrp (slice s2 0 8), grpB := parseGrp (slice s2 8 8), chans := parseChans s2, sound := parseSound (sect bs 5)
    conns := (parseConns (getNat s9 0 2) (s9.drop 8)).1, tim := parseTim s3, recKeep := getByte s6 0 = 1
    recDefs := (parseDefs (getNat s6 2 2) (s6.drop 8)).1, net := parseNet (sect bs 4), ptp := parsePtp (s3.drop 64)
    pair := parsePair (sect bs 8), pwr := parsePower (sect bs 7) }

/-- Check 5 of R211 for a bank: the range and consistency checks of its sections in ascending type, then R197; the result of the
first that fails. -/
def bankCheck (s : State) (bs : List Byte) : Option (Nat × CheckFail) :=
  let b := parseBank bs
  let fail := fun (k : Nat) (code : String) (o : Nat) => ({ code := asciiCode code, order := 5, sect := k, index := BitVec.ofNat 32 o } : CheckFail)
  let arg := fun (k : Nat) (x : Option Nat) => x.map (fun o => (3, fail k "" o))
  let checks : List (Unit → Option (Nat × CheckFail)) :=
    [ fun _ => arg 1 (moduleBad (sect bs 1)), fun _ => arg 2 (fieldBad (sect bs 2)), fun _ => arg 3 (timingBad (sect bs 3) b.net.ports),
      fun _ => (netBad (sect bs 4) (b.tim.axes.getD 0 (0, 0, 0)).1 b.conns b.sound.flows ((s.prog.map (·.groups)).getD [])).map (fun x => (3, fail 4 x.1 x.2)),
      fun _ => (soundBad (sect bs 5)).map (fun x => (x.2, fail 5 "" x.1)), fun _ => arg 6 (recBad s (sect bs 6)),
      fun _ => arg 7 (powerBad (sect bs 7) b.chans), fun _ => arg 8 (pairBad (sect bs 8)), fun _ => arg 9 (connsBad (sect bs 9)),
      fun _ => arg 1 (moduleJoint b.modu b.chans) ]
  checks.findSome? (fun f => f ())

/-! ### Program and bank together (R212, R311) -/

/-- CC01 to CC08: the first that fails. -/
def compatible (p : Program) (b : Bank) : Option CheckFail :=
  let nb := numbered p.binds
  let bind := fun (c : String) (bad : Binding → Bool) => (nb.find? (fun x => bad x.2)).map
    (fun x => ({ code := asciiCode c, sect := 6, task := x.2.task, index := BitVec.ofNat 32 x.1 } : CheckFail))
  let at_ := fun (c : String) (sect task i : Nat) => ({ code := asciiCode c, sect := sect, task := task, index := BitVec.ofNat 32 i } : CheckFail)
  let mode := fun (k : Nat) => (b.chans.getD k {}).mode
  let conn := fun (k : Nat) => b.conns.find? (fun c => c.conn = k)
  let payload := fun (x : Binding) (send : Bool) =>
    match conn x.id.toNat with
    | some c => c.send = send && c.task = x.task && decide (4 * x.arg.toNat + 4 ≤ c.length)
    | none => false
  let checks : List (Unit → Option CheckFail) :=
    [ fun _ => bind "CC01" (fun x =>
        if x.kind = 0x41 then !(mode x.id.toNat = 4 || mode x.id.toNat = 5)
        else if x.kind = 1 || x.kind = 2 then !isInputMode (mode x.id.toNat) else false),
      fun _ => bind "CC02" (fun x => x.kind = 0x43 && !payload x (!p.isPayloadIn x)),
      fun _ => bind "CC03" (fun x => x.kind = 5 && decide (4 ≤ x.id.toNat)),
      fun _ => bind "CC04" (fun x =>
        if x.kind = 0x47 then !b.sound.flows.any (fun f => f.id = x.id.toNat)
        else if x.kind = 4 then !(b.sound.filters.getD x.id.toNat {}).enabled else false),
      fun _ => bind "CC05" (fun x => x.kind = 0x49 && !b.recDefs.any (fun d => d.defn = x.id.toNat)),
      fun _ => ((numbered p.tasks).find? (fun x => (x.2.source = 2 && (b.tim.axes.getD 1 (0, 0, 0)).1 = 0)
          || (x.2.source = 3 && (b.tim.axes.getD 2 (0, 0, 0)).1 = 0))).map (fun x => at_ "CC06" 4 x.2.task x.1),
      fun _ => ((numbered p.sigs).find? (fun x => x.2.signal.toNat / 8192 != b.net.deviceId
          && p.groups.any (fun g => g.group = x.2.group && g.publish))).map (fun x => at_ "CC07" 5 0xFF (p.groups.length + x.1)),
      fun _ => ((numbered p.groups).find? (fun x =>
          let g := x.2
          (g.publish && g.carrier = 1 && g.mode ≤ 1 && !b.net.tx.any (fun e => e.ty = 1 && e.ident = g.group))
            || (g.format = 2 && (!(conn g.conn).any (fun c => c.send = g.publish)
              || b.net.tx.any (fun e => e.ty = 2 && e.ident = g.conn))))).map (fun x => at_ "CC08" 5 0xFF x.1) ]
  checks.findSome? (fun f => f ())

/-- OX01: old and new programs together exceed what a block or slice holds (R216). -/
def ox01 (old new : Program) : Bool :=
  (List.range 16).any (fun k =>
    let a := old.blockUse k
    let b := new.blockUse k
    decide (9216 < a.1 + b.1) || decide (10240 < a.2 + b.2) || decide (224 < old.sliceUse k + new.sliceUse k))

/-- OX02: a PERIODIC trigger armed by the active program is neither named by a TRGARM of the new image nor listed under KIND 0x82
(R216). -/
def ox02 (s : State) (new : Program) : Bool :=
  (numbered s.tim.triggers).any (fun (n, g) => g.owner = .program && g.armed && g.kind = .periodic
    && !new.binds.any (fun b => b.kind = 0x82 && b.id.toNat = n)
    && !new.insts.any (fun i => i.op = 0x83 && bits i.param.toNat 0 6 = n))

end Sys2Proof.Machine
end

