-- ==== Sys2Proof/Machine/Modes.lean ====
section
/-! DEFINITION. Service modes and lane states: changes of mode with their records, entry into SAFE and HALTED, exclusion of a
lane, and the start of a restart (R140, R162, R165, R171, R172, R175, R176, R180, R182, R361, R368). -/
namespace Sys2Proof.Machine

/-! ### Changes of mode (R175) -/

/-- A planned switch that has not begun is abandoned: PAIR_SWITCH ends with TIMEOUT (R392, R397). -/
def abandonSwitch (s : State) : State :=
  match s.pair.switch with
  | some w =>
    if s.pair.controlling = w.incoming then s
    else
      let s := { s with pair := { s.pair with switch := none } }
      match w.mb with
      | some mb => resultMb s mb 8
      | none => s
  | none => s

/-- A module that enters LIMITED takes its pair role anew (R375, R383). -/
def startPairing (s : State) : State :=
  { s with pair := { s.pair with
    roleTaken := false, limitedAt := rawNow s, controlling := true, paired := false, incompatible := false, strapConflict := false
    st := .syncing, fresh := [], awaited := [], syncing := [], queue := [], mismatch := false, theirs := [], ours := [], hold := 0
    missed := 0, beatSeen := false, beat := none, partnerPrimary := none, syncedAtLoss := false } }

/-- The mode changes; a record of event 0x2 0x006 is written when a severity is given, naming the lanes that left ACTIVE. -/
def setMode (s : State) (m : Mode) (record : Option Nat) (left : Nat := 0) : State :=
  if s.modu.mode = m then s
  else
    let s1 := { s with modu := { s.modu with mode := m } }
    let s1 := if m = .limited then startPairing (abandonSwitch s1) else s1
    let s1 := if voted s1 && s1.train.firstVoted.isNone then { s1 with train := { s1.train with firstVoted := some (ax0 s1) } } else s1
    let s1 := match record with
      | some sev => raiseHub s1 sev 0x2006 left (modeCode s.modu.mode) (modeCode m) (if 3 ≤ sev then 3 else 2)
      | none => s1
    ackIrq s (fireMode (setIrq (abandonSwitch s1) irqMode))

/-- Every safe latch is set, and no telegram produced before is sent any more (R180, R182, R192). -/
def setLatches (s : State) : State :=
  { modLanes s (fun _ x => { x with latch := true }) with safe := { s.safe with tx := [] } }

/-- Commands in flight whose action was not taken end with FAILED_FAULT (R368). -/
def failInFlight (s : State) : State :=
  [Mb.mb0, Mb.mb1].foldl (fun s mb =>
    let m := mbox s mb
    if m.st = .receiving || (m.st = .busy && !m.waiting) then finishMbAt s mb 7 [] (m.req.length - m.fill) else s) s

/-- A CFG_SWAP not yet made fails with WRONG_STATE when a restart begins or the module halts (R214). -/
def abortSwap (s : State) : State :=
  match s.xch.swap with
  | some mb =>
    let s := { s with xch := { s.xch with swap := none } }
    finishMb (modLanes s (fun _ x => { x with digest := none, resent := false })) mb 4 noCheck
  | none => s

/-- A program activation that has not reached its swap point is discarded (R27): the HALTED row. -/
def discardActivation (s : State) : State :=
  match s.xch.act with
  | some a =>
    let s1 := { s with xch := { s.xch with act := none, restartPending := false, restartDeferred := false } }
    let s1 := if s.xch.switchingSince.isNone then { s1 with progNew := none } else s1
    if a.staged then s1 else finishMb s1 a.mb 4 noCheck
  | none => { s with xch := { s.xch with restartPending := false, restartDeferred := false } }

/-! ### Reset of a lane -/

/-- What the reset of a lane leaves of it: latch set, no cycle, no frame, empty queues; retired pans stay retired until the
self-test decides (R84, R180). -/
def LaneSt.reset (x : LaneSt) : LaneSt :=
  { x with
    latch := true, stopped := false, wakes := [], stamps := [], samples := [], gate := false, freeze := false, frozen := false
    shadowT0 := 0, ackReported := [], ackTrack := {}, drive := List.replicate 32 {}
    blocks := x.blocks.map (fun b => { b with queue := [], pans := b.pans.map (fun q => { q with busy := none }) })
    tasks := x.tasks.map (fun t => { newVer := t.newVer }) }

/-- The self-test after a reset decides which pans return (R84): those it names are retired. -/
def setRetired (x : LaneSt) (bad : List (Fin 16 × Fin 16)) : LaneSt :=
  { x with
    blocks := (List.range x.blocks.length).map (fun b =>
      let y := x.blocks.getD b {}
      { y with pans := (List.range y.pans.length).map (fun p => { retired := bad.any (fun k => k.1.val = b && k.2.val = p) }) }) }

/-- The comparators and their links start afresh: no vote is open, no frame is on its way, and no step 8 is owed (R27). -/
def resetVoter (s : State) : State :=
  { s with
    vote := { s.vote with votes := [], inFlight := [], lastSeq := [], ckpts := [] }
    modu := { s.modu with step8 := [] }
    hubt := s.hubt.map (fun h => { h with inFlight := false, expired := [], overrun := false }) }

/-! ### HALTED -/

/-- The module halts: the reset controller stops every lane and sets every latch, outputs take their safe values, flows close,
and what waits for a harvest is discarded (R27, R175, R182, R360). The record is an S4 of the mode change. -/
def enterHalted (s : State) (left : Nat := 0) : State :=
  if s.modu.mode = .halted then s
  else
    let s0 := s
    let s := modLanes s (fun _ x => { x.reset with stopped := true, held := true, holdRunning := false })
    let s := resetVoter s
    let s := { s with
      vote := { s.vote with restarting := false, awaitRelease := false, selftests := [], attach := none }
      modu := { s.modu with ackPending := false, step6 := [] }
      safe := { s.safe with tx := [] }
      bring := { s.bring with stage := .none, waiting := false } }
    let s := s.snd.flows.foldl (fun s f => setRun s f.id false) s
    let s := discardActivation (abortSwap s)
    ackIrq s0 (failInFlight (setMode s .halted (some 4) left))

/-! ### SAFE and the restart (R171, R175) -/

/-- A lane's exclusions in the past 3,600 s (R172). -/
def recentExclusions (s : State) (l : Lane) : Nat :=
  ((lane s l).exclusions.filter (fun t => !elapsed s t 3600000000000)).length

/-- A lane may return: AUTO_REJOIN is set and its recent exclusions do not exceed REJOIN_LIMIT (R172). -/
def mayReturn (s : State) (l : Lane) : Bool :=
  s.bank.modu.autoRejoin && decide (recentExclusions s l ≤ s.bank.modu.rejoinLimit) && !(lane s l).beyond

/-- A lane joins a restart: ACTIVE, REJOINING, DEBUG, or EXCLUDED within REJOIN_LIMIT; a tripped chip cannot (R171, R484). -/
def joinsRestart (s : State) (l : Lane) : Bool :=
  let x := lane s l
  match x.st with
  | .active | .rejoining | .debug => !x.hot
  | .excluded => mayReturn s l && !x.hot
  | .off => false

/-- A lane is EXCLUDED: held in reset for 100 µs at least, its exclusion counted when it counts toward REJOIN_LIMIT (R172). -/
def toExcluded (s : State) (l : Lane) (counts : Bool) : State :=
  let s := modLane s l (fun x =>
    { x.reset with
      st := .excluded, held := true, holdRunning := true, holdAt := rawNow s, loaded := false
      exclusions := if counts then x.exclusions ++ [rawNow s] else x.exclusions
      lastExclAx0 := ax0 s, lastExclHarvest := s.vote.harvest })
  { s with vote := { s.vote with ckpts := s.vote.ckpts.map (fun c => if c.catchUp = some l then { c with catchUp := none } else c) } }

/-- The lanes of a restart are reset together and run their self-tests (R171). -/
def resetLanes (s : State) : State :=
  let join := allLanes.filter (joinsRestart s)
  let s := modLanes s (fun l x =>
    if join.contains l then { x.reset with st := .rejoining, restartPath := true, stage := .selftest, held := false, holdRunning := false }
    else { x with beyond := x.beyond || (x.st = .excluded && !mayReturn s l) })
  { s with vote := { s.vote with selftests := join } }

/-- A restart counts toward the four within 600 s that halt the module in SAFE (R175). -/
def countRestart (s : State) : State :=
  { s with vote := { s.vote with
    restarts := s.vote.restarts.filter (fun t => !elapsed s t 600000000000) ++ [rawNow s], restartCount := s.vote.restartCount + 1 } }

/-- The restart that begins is the fourth within 600 s, in SAFE (R175). -/
def fourthRestart (s : State) : Bool := s.modu.mode = .safe && decide (4 ≤ s.vote.restarts.length)

/-- A restart from the checkpoint begins (R171). With fewer than two lanes it ends in HALTED. -/
def startRestart (s : State) : State :=
  let s := abortSwap (resetVoter s)
  let s := { s with
    vote := { s.vote with restarting := true, awaitRelease := false, attach := none }
    modu := { s.modu with ackPending := false, step6 := [] } }
  let s := resetLanes s
  if s.vote.selftests.length < 2 then enterHalted s else s

/-- No restart is run: the reset controller holds every lane (R165). -/
def holdAll (s : State) : State :=
  let s := abortSwap (resetVoter s)
  let s := modLanes s (fun _ x =>
    if x.st = .off then x else { x.reset with st := if x.st = .excluded then .excluded else .rejoining, restartPath := true, held := true
                                              holdRunning := false })
  { s with vote := { s.vote with restarting := true, awaitRelease := false, selftests := [] } }

/-- The module enters SAFE, or starts a new restart in SAFE: every latch is set before anything is recorded (R158, R175, R180,
R361). The fourth restart within 600 s halts it. -/
def enterSafe (s : State) (left : Nat := 0) : State :=
  if !inService s then s
  else
    let again := s.modu.mode = .safe
    let s := setLatches s
    let s := setMode s .safe (some 3) left
    let s := if s.vote.noRestart then holdAll s
      else
        let s := countRestart s
        if fourthRestart s then enterHalted s
        else startRestart (raiseHub s (if again then 3 else 0) 0x2007 0 0 0 (if again then 3 else 2))
    if s.modu.mode = .safe then failInFlight s else s

/-! ### Exclusion (R162, R172, R175) -/

/-- An ACTIVE lane is excluded with a record of the given event, which is the record of VOTED3 becoming VOTED2; with two ACTIVE
lanes or fewer the module enters SAFE instead. -/
def excludeLane (s : State) (l : Lane) (event : BitVec 16) (arg0 : Nat) : State :=
  if (lane s l).st != .active then s
  else if activeCount s ≤ 2 then enterSafe s (2 ^ laneNum l)
  else
    let s := raiseHub s 2 event (laneNum l) arg0
    let s := toExcluded s l true
    if s.modu.mode = .voted3 then setMode s .voted2 none else s

/-- A lane in a rejoin returns to EXCLUDED, counted (R173). -/
def failRejoin (s : State) (l : Lane) (event : BitVec 16) (arg0 : Nat) : State :=
  toExcluded (raiseHub s 2 event (laneNum l) arg0) l true

/-! ### The supervisor and thermal trips -/

/-- SUPERVISOR_WATCHDOG: the lanes halt, the supervisor restarts, and the module stays HALTED (R361, R368). -/
def execSupervisorWatchdog (s : State) : Host.Outcome State Fault Refusal :=
  let s := { s with modu := { s.modu with wdExpired := true } }
  let s := if s.modu.mode = .bringup then s else enterHalted s
  .next (failInFlight (raiseHub s 4 0xD004 0 0 0 3 true))

/-- SUPERVISOR_RESTARTED (R361, R374). -/
def execSupervisorRestarted (s : State) : Host.Outcome State Fault Refusal :=
  .next { s with modu := { s.modu with wdExpired := false } }

/-- HUB_THERMAL_TRIP: HALTED with an S4 record of the mode change (R484). -/
def execHubThermalTrip (s : State) : Host.Outcome State Fault Refusal :=
  if s.modu.mode = .bringup then .next s else .next (enterHalted s)

/-- LANE_THERMAL_TRIP: the trip holds the lane in reset; it is ABSENT and leaves by the vote (R484). A rejoining lane fails. -/
def execLaneThermalTrip (l : Lane) (s : State) : Host.Outcome State Fault Refusal :=
  let x := lane s l
  let s := modLane s l (fun x => { x with hot := true, held := true })
  match x.st with
  | .rejoining =>
    if s.vote.restarting then
      let s := toExcluded (raiseHub s 2 0x2004 (laneNum l)) l true
      let s := { s with vote := { s.vote with selftests := s.vote.selftests.filter (· ≠ l) } }
      if (allLanes.filter (fun k => (lane s k).st = .rejoining)).length < 2 then .next (enterHalted s) else .next s
    else .next (failRejoin s l 0x2001 0)
  | .off => .next s
  | _ => .next (modLane (stopLane s l) l (fun x => { x.reset with stopped := true }))

/-- LANE_JUNCTION_COOLED: the chip lies below 110 °C and the lane may rejoin once its hold is over (R484). -/
def execLaneJunctionCooled (l : Lane) (s : State) : Host.Outcome State Fault Refusal :=
  .next (modLane s l (fun x => { x with hot := false, held := x.held && x.st != .active }))

end Sys2Proof.Machine
end

