-- ==== Sys2Proof/Machine/Train.lean ====
section
/-! DEFINITION. Train time and process data: PTP (R297 to R301), TTDP topology (R303), IP (R304), TRDP process and message data
(R306 to R308). -/
namespace Sys2Proof.Machine

/-! ### PTP (R297 to R301) -/

/-- The PTP instance changed. -/
def modPtp (s : State) (f : Ptp → Ptp) : State := { s with train := { s.train with ptp := f s.train.ptp } }
/-- A flag of the PTP block (R298): 0 ENABLE, 1 SLAVE_ONLY, 2 MASTER_ONLY, 3 P2P, 4 UDP, 5 TWO_STEP. -/
def ptpFlag (s : State) (i : Nat) : Bool := s.bank.valid && bit s.bank.ptp.flags i
/-- The port in use (R298). -/
def ptpPort (s : State) : Nat := if s.train.ptp.alt then s.bank.ptp.portAlt else s.bank.ptp.port
/-- The code of a portState in IEEE 1588-2019 (R453). -/
def ptpCode : PtpState → Nat
  | .disabled => 3 | .listening => 4 | .master => 6 | .passive => 7 | .slave => 9

/-- The port state changes: its record (R317), and AX0 in HOLDOVER when the own clock is best under source PTP (R301). A module
whose effects are held is SLAVE or LISTENING only (R377). -/
def setPtpState (s : State) (x : PtpState) : State :=
  let x := if effectsHeld s && x != .slave && x != .disabled then .listening else x
  if s.train.ptp.st = x then s
  else
    let s := raiseHub (modPtp s (fun p => { p with st := x })) 0 0x8001 (ptpPort s) (ptpCode x)
    masterHoldover s

/-- The port state machine starts in LISTENING (R298), or stays DISABLED without ENABLE. -/
def restartPtp (s : State) : State :=
  let s := modPtp s (fun p => { p with best := none, heard := rawNow s, delays := [] })
  setPtpState s (if ptpFlag s 0 then .listening else .disabled)

/-- The values by which the best-master algorithm compares clocks, first difference deciding (R297). -/
def announceKey (m : PtpAnnounceMsg) : List Nat :=
  [m.gmPriority1, m.gmClass, m.gmAccuracy, m.gmVariance, m.gmPriority2, m.gmIdentity.toNat, m.stepsRemoved,
   m.parentIdentity.toNat, m.parentPort]
/-- The module's own clock in the same form (R298, R301). -/
def ownKey (s : State) : List Nat :=
  let c := s.bank.ptp
  [c.prio1, c.clockClass, 0xFE, 0xFFFF, c.prio2, Config.clockIdentity.toNat, 0, Config.clockIdentity.toNat, 0]
/-- One key is better than another. -/
def keyBetter : List Nat → List Nat → Bool
  | a :: as, b :: bs => if a < b then true else if b < a then false else keyBetter as bs
  | _, _ => false

/-- The state decision over the best master heard (R297). -/
def decidePtp (s : State) : State :=
  match s.train.ptp.best with
  | some m =>
    if ptpFlag s 2 then setPtpState s .master
    else if ptpFlag s 1 || keyBetter (announceKey m) (ownKey s) then
      setPtpState s (if !ptpFlag s 1 && s.bank.ptp.clockClass < 128 then .passive else .slave)
    else setPtpState s .master
  | none => s

/-- A PTP message is the instance's: on its port, over its transport, in its domain, and the instance runs (R297, R298). -/
def ptpMine (s : State) (h : PtpHead) : Bool :=
  ptpFlag s 0 && s.train.ptp.st != .disabled && h.port = ptpPort s && h.udp = ptpFlag s 4 && h.domain = s.bank.ptp.domain

/-- ANNOUNCE (R297): a grandmaster change is recorded (R317). -/
def takeAnnounce (s : State) (m : PtpAnnounceMsg) : State :=
  if !ptpMine s m.head then s
  else
    let take := match s.train.ptp.best with
      | some b => (b.parentIdentity = m.parentIdentity && b.parentPort = m.parentPort) || keyBetter (announceKey m) (announceKey b)
      | none => true
    if !take then s
    else
      let changed := match s.train.ptp.best with
        | some b => b.gmIdentity != m.gmIdentity
        | none => true
      let s := modPtp s (fun p => { p with best := some m, heard := rawNow s })
      let s := if changed then raiseHub s 0 0x8002 (ptpPort s) (hi32 m.gmIdentity).toNat (lo32 m.gmIdentity).toNat else s
      decidePtp s

/-- The Announce receipt timeout in ns (R298). -/
def announceNs (s : State) : Nat := s.bank.ptp.announceTimeout * 125000000 * 2 ^ (s.bank.ptp.logAnnounce + 3).toNat

/-- ANNOUNCE_RECEIPT_TIMEOUT (R297, R317): the master is lost. -/
def announceTimeout (s : State) : State :=
  let p := s.train.ptp
  if (p.st = .listening || p.st = .slave || p.st = .passive) && elapsed s p.heard (announceNs s) then
    let was := p.st
    let s := modPtp s (fun p => { p with best := none, heard := rawNow s, timeouts := p.timeouts + 1 })
    let s := raiseHub s 1 0x8003 (ptpPort s)
    let s := if was = .slave && (axis s 0).src = 1 then sourceLost s else s
    setPtpState s (if ptpFlag s 1 then .listening else .master)
  else s

/-- meanPathDelay: the mean of the last 16 delay measurements (R301). -/
def pathDelay (s : State) : Int :=
  let d := s.train.ptp.delays
  if d.isEmpty then 0 else d.foldl (· + ·) 0 / (d.length : Int)

/-- PTP_SYNC (R301): offsetFromMaster, and the measured error of AX0 under source PTP. -/
def takeSync (s : State) (m : PtpSyncMsg) : State :=
  if s.train.ptp.st != .slave || !ptpMine s m.head then s
  else
    let off := m.t2 - m.t1 - pathDelay s - m.corrections
    let s' := modPtp s (fun p => { p with offset := off })
    let s' := moduleSignalEvents s s'
    if (axis s' 0).src = 1 then discipline s' (-off) else s'

/-- PTP_DELAY_RESP (R301): a delay measurement, of the path or of the peer. -/
def takeDelay (s : State) (m : PtpDelayMsg) : State :=
  let p2p := ptpFlag s 3
  if !ptpMine s m.head || (!p2p && s.train.ptp.st != .slave) then s
  else
    let d := ((m.t2 - m.t1) + (m.t4 - m.t3) - m.corrections) / 2
    let s := modPtp s (fun p => { p with delays := (d :: p.delays).take 16 })
    if p2p then
      { s with net := { s.net with ports := upd s.net.ports (ptpPort s) (fun l => { l with peerDelay := pathDelay s }) } }
    else s

/-- A PTP message of a port: transport and destination (R297). Event messages use UDP port 319, the others 320. -/
def ptpOut (port domain seq : Nat) (udp : Bool) (kind : PtpKind) (time : Int) (fields : List Int) : PtpOut :=
  let peer := kind = .pdelayReq || kind = .pdelayResp || kind = .pdelayFollowUp
  let event := kind = .sync || kind = .delayReq || kind = .pdelayReq || kind = .pdelayResp
  { port := port, kind := kind, domain := domain, seq := seq, time := time, fields := fields
    proto := if !udp then 0x88F7 else if event then 319 else 320
    dst := if udp then (if peer then 0xE000006B else 0xE0000181) else if peer then 0x0180C200000E else 0x011B19000000 }

/-- The instance sends a message on its port (R297, R298); on a consist port it waits for an OPEN window (R299). -/
def sendPtp (s : State) (kind : PtpKind) (seq : Nat) (time : Int) (fields : List Int) : State :=
  leave s (.ptp (ptpOut (ptpPort s) s.bank.ptp.domain seq (ptpFlag s 4) kind time fields))

/-- PTP_MASTER_SEND (R301): Announce, or Sync with its Follow_Up under TWO_STEP; both take the egress SOF of the Sync. -/
def masterSend (s : State) (isAnnounce : Bool) : State :=
  if s.train.ptp.st != .master || !portUp s (ptpPort s) then s
  else
    let c := s.bank.ptp
    let p := s.train.ptp
    if isAnnounce then
      sendPtp (modPtp s (fun p => { p with seqAnnounce := (p.seqAnnounce + 1) % 65536 })) .announce p.seqAnnounce 0
        [c.utc, c.prio1, c.clockClass, 0xFE, 0xFFFF, c.prio2, Config.clockIdentity.toNat, 0, 0xA0, 1]
    else
      let s := sendPtp (modPtp s (fun p => { p with seqSync := (p.seqSync + 1) % 65536 })) .sync p.seqSync 0 []
      if ptpFlag s 5 then sendPtp s .followUp p.seqSync 0 [] else s

/-- PTP_DELAY_REQUEST_SEND (R297). -/
def delayRequestSend (s : State) : State :=
  let p := s.train.ptp
  let p2p := ptpFlag s 3
  if !portUp s (ptpPort s) || p.st = .disabled || (!p2p && p.st != .slave) then s
  else sendPtp (modPtp s (fun p => { p with seqDelay := (p.seqDelay + 1) % 65536 })) (if p2p then .pdelayReq else .delayReq) p.seqDelay 0 []

/-- PTP_DELAY_REQUEST_RECEIVE (R297, R299): answered by the instance on its port, or by the switch on a port in TC with P2P over the
transport and in the domain of the request. -/
def delayRequestReceive (s : State) (port : Nat) (r : PtpReq) (t : DWord) : State :=
  let p2p := ptpFlag s 3
  let own := ptpMine s { port := port, udp := r.udp, domain := r.domain }
  let answer := fun (s : State) (kind : PtpKind) => leave s (.ptp (ptpOut port r.domain 0 r.udp kind t.toInt []))
  if !portUp s port then s
  else if r.peer then
    if p2p && (own || ptpMode s port != 0) then
      let s := answer s .pdelayResp
      if ptpFlag s 5 then answer s .pdelayFollowUp else s
    else s
  else if !p2p && own && s.train.ptp.st = .master then answer s .delayResp
  else s

/-- PORT_ALT_MOVE (R298). -/
def portAltMove (s : State) : State :=
  if ptpFlag s 0 && !s.train.ptp.alt && !portUp s s.bank.ptp.port && s.bank.ptp.portAlt != 0xFF then
    restartPtp (raiseHub (modPtp s (fun p => { p with alt := true, moves := p.moves + 1 })) 1 0x8004 s.bank.ptp.portAlt)
  else s

/-- PORT_RETURN (R298): PORT has held link for 10 s. -/
def portReturn (s : State) : State :=
  let port := s.bank.ptp.port
  if s.train.ptp.alt && portUp s port && elapsed s (linkPort s port).since 10000000000 then
    restartPtp (modPtp s (fun p => { p with alt := false }))
  else s

/-! ### Topology and links (R303) -/

/-- TOPOLOGY (R303, R317). -/
def takeTopology (s : State) (m : TopologyMsg) : State :=
  let s' := { s with train := { s.train with topo := some m, topoAt := rawNow s, topoStale := false } }
  let was := s.train.topo
  let s' := if was.any (fun x => x.etbTopoCnt = m.etbTopoCnt) then s' else raiseHub s' 0 0x8005 0 m.etbTopoCnt.toNat
  let s' := if was.any (fun x => x.inaugurated = m.inaugurated) then s' else raiseHub s' 0 0x8006 0 (b2n m.inaugurated)
  moduleSignalEvents s s'

/-- TOPOLOGY_TIMEOUT (R303, R317). -/
def topologyTimeout (s : State) : State :=
  if s.train.topo.isSome && !s.train.topoStale && elapsed s s.train.topoAt 1000000000 then
    let s' := raiseHub { s with train := { s.train with topoStale := true } } 1 0x8007
    moduleSignalEvents s s'
  else s

/-- ETHERNET_LINK_CHANGE (R277, R303): a speed that SPEED does not permit, or a port OFF, holds the link down. -/
def linkChange (s : State) (n speed : Nat) : State :=
  if !domainOn s 5 then s
  else
    let c := portCfg s n
    let permitted := (n = 10 && speed ≤ 1) || n = 8 || n = 9 || speed = 0 || (c.role != 0 && ((speed = 2 && bit c.speed 0) || (speed = 1 && bit c.speed 1)))
    let s' := { s with net := { s.net with ports := upd s.net.ports n (fun l =>
      if permitted then { l with since := if l.speed = 0 && speed != 0 then rawNow s else l.since, speed := min speed 2 }
      else { l with speed := 0, badSpeed := l.badSpeed + 1 }) } }
    moduleSignalEvents s s'

/-! ### ARP, ICMP, IGMP (R304) -/

/-- ARP_EXPIRY (R304): an entry not confirmed for 60 s, or the frames that waited 1 s. -/
def arpExpire (s : State) (ip : Word) (unresolved : Bool) : State :=
  let t := s.train
  if unresolved then
    let late := t.arpWait.filter (fun w => w.2.1 = ip && elapsed s w.1 1000000000)
    { s with train := { t with arpWait := t.arpWait.filter (fun w => !(w.2.1 = ip && elapsed s w.1 1000000000))
                               unresolved := t.unresolved + late.length } }
  else { s with train := { t with arp := t.arp.filter (fun e => !(e.ip = ip && elapsed s e.at_ 60000000000)) } }

/-- An address of the module (R305). -/
def ownAddress (s : State) (ip : Word) : Bool :=
  let c := s.bank.net.ip
  s.bank.valid && ip != 0 && (ip = c.etbAddr || ip = c.ecnAddr || ip = c.svcAddr)

/-- ARP_FRAME (R304): a request for the module's address is answered; a reply enters the cache of 64 entries, the oldest giving
way, and what waited for it is sent. -/
def arpFrame (s : State) (request : Bool) (ip target : Word) (mac : BitVec 48) : State :=
  if !domainOn s 5 then s
  else if request then
    match route s ip with
    | some (port, _) => if ownAddress s target && mayUse s port then leave s (.arp port false target) else s
    | none => s
  else
    let t := s.train
    let arp := ((({ ip := ip, mac := mac, at_ := rawNow s } : ArpEntry)) :: t.arp.filter (fun e => e.ip ≠ ip)).take 64
    let ready := t.arpWait.filter (fun w => w.2.1 = ip)
    ready.foldl (fun s w => leave s w.2.2)
      { s with train := { t with arp := arp, arpWait := t.arpWait.filter (fun w => w.2.1 ≠ ip) } }

/-! ### TRDP (R306 to R308) -/

/-- The next sequenceCounter of a ComId and destination, from 0 (R306). -/
def nextPd (s : State) (comId dst : Word) : Word × State :=
  match s.train.pdSeq.find? (fun x => x.1 = comId && x.2.1 = dst) with
  | some x =>
    (x.2.2, { s with train := { s.train with pdSeq := s.train.pdSeq.map (fun y =>
      if y.1 = comId && y.2.1 = dst then (comId, dst, y.2.2 + 1) else y) } })
  | none => (0, { s with train := { s.train with pdSeq := s.train.pdSeq ++ [(comId, dst, 1)] } })

/-- The module's etbTopoCnt (R303). -/
def topoCnt (s : State) : Word := (s.train.topo.map (·.etbTopoCnt)).getD 0

/-- A process data frame to a destination (R306). -/
def sendPd (s : State) (kind : String) (dst comId : Word) (body : List Byte) : State :=
  let (n, s) := nextPd s comId dst
  sendIp s dst (fun port => .trdp port dst kind comId n (topoCnt s) body [])

/-- Both copies of a SAFE group: plane A on EP0, plane B on EP1 (R308); none while a restart runs (R182). -/
def sendSafePd (s : State) (g : SigGroup) : State :=
  [false, true].foldl (fun s pb =>
    match latestTelegram s g.conn pb with
    | some bs =>
      if s.vote.restarting || !portUp s (if pb then portEp1 else portEp0) then s
      else
        let (n, s) := nextPd s g.comId g.ip
        sendLine s (if pb then portEp1 else portEp0) g.ip (fun port => .trdp port g.ip "Pd" g.comId n (topoCnt s) bs [])
    | none => s) s

/-- A published TRDP group is sent once (R306, R308). -/
def sendGroupPd (s : State) (g : SigGroup) : State :=
  if g.format = 2 then sendSafePd s g
  else
    let (body, s) := formGroup s g
    sendPd s "Pd" g.ip g.comId body

/-- TRDP_PUBLISH (R306): a lattice point of a cyclic group, or of a PULL subscription. -/
def publishTrdp (s : State) (g : Nat) : State :=
  if !sends s then s
  else match groupDef s g true with
    | some d => if d.carrier = 2 && d.mode = 0 then sendGroupPd s d else s
    | none =>
      match groupDef s g false with
      | some d =>
        if d.carrier = 2 && d.mode = 2 then
          let missed := g ∈ s.train.pullWaiting
          let s := { s with train := { s.train with
            pullMissed := s.train.pullMissed + b2n missed
            pullWaiting := if missed then s.train.pullWaiting else s.train.pullWaiting ++ [g] } }
          sendPd s "Pr" d.ip d.comId []
        else s
      | none => s

/-- A datagram that is not message data is dropped for its IPv4 header: one with options is counted, and a fragment is not reassembled
(R304). -/
def dropIp (s : State) (h : IpHead) : State :=
  { s with train := { s.train with
    optDiscard := s.train.optDiscard + b2n h.options
    reasmDiscard := s.train.reasmDiscard + b2n (h.fragment && !h.options) } }
/-- The IPv4 header of a datagram is one that the module takes without reassembly (R304). -/
def ipPlain (h : IpHead) : Bool := !h.options && !h.fragment

/-- A process data header passes the checks of R306 that do not concern its ComId. -/
def pdGood (s : State) (h : PdHeader) (n : Nat) : Bool :=
  h.fcsGood && h.major = 1 && h.datasetLength = n && decide (n ≤ 1432) && (h.etbTopoCnt = 0 || h.etbTopoCnt = topoCnt s)

/-- The interface of a line is switched on (R305): 0 EP0, 1 EP1, 2 the consist network. -/
def lineOn (s : State) (line : Nat) : Bool :=
  s.bank.valid && domainOn s 5 && (if line = 2 then s.bank.net.ip.ecnAddr != 0 else s.bank.net.ip.etbAddr != 0)

/-- Process data is discarded and counted (R306). -/
def dropPd (s : State) : State := { s with train := { s.train with pdDiscard := s.train.pdDiscard + 1 } }

/-- The newest copy of a telegram of a receiving connection on a plane (R193). -/
def keepSafe (s : State) (conn : Nat) (pb : Bool) (bs : List Byte) : State :=
  if s.safe.conns.any (fun c => c.conn = conn && !c.send) then
    let x : SafeRx := { conn := conn, planeB := pb, bytes := bs, rx := ax0 s }
    { s with safe := { s.safe with rx := x :: s.safe.rx.filter (fun y => !(y.conn = conn && y.planeB = pb)) } }
  else s

/-- A telegram that arrives on a Flovis plane belongs to the receiving connection with its SCID (R193, R270). -/
def safeArrive (s : State) (pb : Bool) (bs : List Byte) : State :=
  match s.safe.conns.find? (fun c => !c.send && c.scid = getWord bs 4) with
  | some c => keepSafe s c.conn pb bs
  | none => s

/-- TRDP_PD_RECEIVE (R306, R308, R314). -/
def receivePd (s : State) (line : Nat) (h : PdHeader) (data : List Byte) : State :=
  if !lineOn s line then s
  else if !ipPlain h.ip then dropIp s h.ip
  else if !pdGood s h data.length then dropPd s
  else match s.prog.bind (fun p => p.groups.find? (fun g => !g.publish && g.carrier = 2 && g.comId = h.comId)) with
    | some g =>
      if g.format = 2 then (if line = 2 then dropPd s else keepSafe s g.conn (line = 1) data)
      else groupArrive s g h.sequence data
    | none => dropPd s

/-- TRDP_PR_RECEIVE (R306). -/
def receivePr (s : State) (line : Nat) (src : Word) (h : PdHeader) : State :=
  if !lineOn s line then s
  else if !ipPlain h.ip then dropIp s h.ip
  else if !sends s then s
  else if !pdGood s h 0 then dropPd s
  else match s.prog.bind (fun p => p.groups.find? (fun g => g.publish && g.carrier = 2 && g.comId = h.comId)) with
    | some g =>
      let dst := if h.replyIp = 0 then src else h.replyIp
      let comId := if h.replyComId = 0 then g.comId else h.replyComId
      if g.format = 2 then
        match latestTelegram s g.conn (line = 1) with
        | some bs => sendPd s "Pp" dst comId bs
        | none => s
      else
        let (body, s) := formGroup s g
        sendPd s "Pp" dst comId body
    | none => { s with train := { s.train with prUnknown := s.train.prUnknown + 1 } }

/-- A message of the remote mailbox service (R307, R448): an MB1 request, answered unless it came as Mn. -/
def receiveMd (s : State) (src comId : Word) (data : List Byte) (answer : Bool) : State :=
  let c := s.bank.net.ip
  if !s.bank.valid || !domainOn s 5 || s.modu.mode = .bringup then s
  else if 65388 < data.length then { s with train := { s.train with mdDiscard := s.train.mdDiscard + 1 } }
  else if c.mdComId = 0 || comId != c.mdComId then
    if answer then
      sendIp (raiseHub s 0 0x800A 0 src.toNat comId.toNat) src (fun port => .trdp port src "Me" comId 0 0 [] [])
    else { s with train := { s.train with mdDiscard := s.train.mdDiscard + 1 } }
  else
    let ws := toWords data
    let head := (ws.headD 0).toNat
    if s.hp.mb1.st != .idle then
      let s := raiseHub s 0 0x800A 1 src.toNat comId.toNat
      if answer then
        sendIp s src (fun port => .trdp port src "Mp" comId 0 0 (beWords [BitVec.ofNat 32 head, 0x00010000]) [])
      else s
    else
      let req := ws.drop 1
      let s := startMb s .mb1 (.trdp src) head req.length req (!answer)
      if 4098 < req.length then finishMbAt s .mb1 3 [] 0 else s

/-! ### Reassembly (R304) -/

/-- The bytes of a datagram in reassembly from an offset on, piece by piece; none while one is missing. -/
def joinPieces : Nat → List (Nat × List Byte) → Nat → Nat → Option (List Byte)
  | 0, _, at_, total => if at_ = total then some [] else none
  | k + 1, parts, at_, total =>
    if at_ = total then some []
    else match parts.find? (fun p => p.1 = at_ && !p.2.isEmpty) with
      | some p => (joinPieces k parts (at_ + p.2.length) total).map (p.2 ++ ·)
      | none => none

/-- A piece of a datagram enters its reassembly; with the last that was missing the datagram is whole. A fifth datagram is discarded and
counted (R304; DESIGN CHOICE, notes/assumptions 97). -/
def reassemble (s : State) (src : Word) (x : IpPiece) (bytes : List Byte) : Option (List Byte) × State :=
  let l := s.train.reasm
  let mine := l.find? (fun r => r.src = src && r.ident = x.ident)
  if mine.isNone && 4 ≤ l.length then (none, { s with train := { s.train with reasmDiscard := s.train.reasmDiscard + 1 } })
  else
    let r := mine.getD { src := src, ident := x.ident, since := rawNow s, parts := [] }
    let r := { r with parts := r.parts ++ [(x.offset, bytes)], total := if x.more then r.total else some (x.offset + bytes.length) }
    let rest := l.filter (fun r => !(r.src = src && r.ident = x.ident))
    match r.total.bind (fun n => joinPieces r.parts.length r.parts 0 n) with
    | some whole => (some whole, { s with train := { s.train with reasm := rest } })
    | none => (none, { s with train := { s.train with reasm := rest ++ [r] } })

/-- Message data arrives (R304, R307): whole, or in pieces that are put together first. -/
def arriveMd (s : State) (src comId : Word) (m : MdData) (answer : Bool) : State :=
  if !s.bank.valid || !domainOn s 5 || s.modu.mode = .bringup then s
  else if m.options then { s with train := { s.train with optDiscard := s.train.optDiscard + 1 } }
  else match m.piece with
    | none => receiveMd s src comId m.bytes answer
    | some x =>
      match reassemble s src x m.bytes with
      | (some whole, s) => receiveMd s src comId whole answer
      | (none, s) => s

/-- REASSEMBLY_TIMEOUT (R304): a datagram still incomplete after 1 s is discarded and counted. -/
def reassemblyTimeout (s : State) (ident : Nat) : State :=
  let old := fun (r : Reasm) => r.ident = ident && elapsed s r.since 1000000000
  { s with train := { s.train with
    reasm := s.train.reasm.filter (fun r => !old r)
    reasmDiscard := s.train.reasmDiscard + (s.train.reasm.filter old).length } }

/-! ### Commands -/

/-- PTP_SYNC. -/
def execPtpSync (m : PtpSyncMsg) (s : State) : Host.Outcome State Fault Refusal := .next (axisIrq s (takeSync s m))
/-- PTP_DELAY_RESP. -/
def execPtpDelayResp (m : PtpDelayMsg) (s : State) : Host.Outcome State Fault Refusal := .next (takeDelay s m)
/-- ANNOUNCE. -/
def execAnnounce (m : PtpAnnounceMsg) (s : State) : Host.Outcome State Fault Refusal := .next (takeAnnounce s m)
/-- ANNOUNCE_RECEIPT_TIMEOUT. -/
def execAnnounceReceiptTimeout (s : State) : Host.Outcome State Fault Refusal := .next (announceTimeout s)
/-- PORT_ALT_MOVE. -/
def execPortAltMove (s : State) : Host.Outcome State Fault Refusal := .next (portAltMove s)
/-- PORT_RETURN. -/
def execPortReturn (s : State) : Host.Outcome State Fault Refusal := .next (portReturn s)
/-- PTP_MASTER_SEND. -/
def execPtpMasterSend (isAnnounce : Bool) (s : State) : Host.Outcome State Fault Refusal := .next (masterSend s isAnnounce)
/-- PTP_DELAY_REQUEST_SEND. -/
def execPtpDelayRequestSend (s : State) : Host.Outcome State Fault Refusal := .next (delayRequestSend s)
/-- PTP_DELAY_REQUEST_RECEIVE. -/
def execPtpDelayRequestReceive (port : Nat) (req : PtpReq) (t : DWord) (s : State) : Host.Outcome State Fault Refusal :=
  .next (delayRequestReceive s port req t)
/-- TOPOLOGY (R302, R303): on either backbone line; NET is on. -/
def execTopology (line : Fin 2) (m : TopologyMsg) (s : State) : Host.Outcome State Fault Refusal :=
  .next (if portUp s (portEp0 + line.val) then takeTopology s m else s)
/-- TOPOLOGY_TIMEOUT. -/
def execTopologyTimeout (s : State) : Host.Outcome State Fault Refusal := .next (topologyTimeout s)
/-- ETHERNET_LINK_CHANGE. -/
def execEthernetLinkChange (port : Fin 11) (speed : Nat) (s : State) : Host.Outcome State Fault Refusal :=
  .next (linkChange s port.val speed)
/-- ARP_EXPIRY. -/
def execArpExpiry (ip : Word) (unresolved : Bool) (s : State) : Host.Outcome State Fault Refusal := .next (arpExpire s ip unresolved)
/-- REASSEMBLY_TIMEOUT. -/
def execReassemblyTimeout (id : Nat) (s : State) : Host.Outcome State Fault Refusal := .next (reassemblyTimeout s id)
/-- ARP_FRAME. -/
def execArpFrame (request : Bool) (ip target : Word) (mac : BitVec 48) (s : State) : Host.Outcome State Fault Refusal :=
  .next (arpFrame s request ip target mac)
/-- ICMP_ECHO_REQUEST (R304). -/
def execIcmpEchoRequest (src dst : Word) (data : EchoMsg) (s : State) : Host.Outcome State Fault Refusal :=
  .next (if !ipPlain data.ip then dropIp s data.ip
    else if ownAddress s dst then sendIp s src (fun port => .echo port src data.data) else s)
/-- IGMP_QUERY (R304): a membership report for each multicast group that a subscription joins. -/
def execIgmpQuery (line : Fin 3) (s : State) : Host.Outcome State Fault Refusal :=
  let port := if line.val = 0 then portEp0 else if line.val = 1 then portEp1 else (nodePort s false).getD portInternal
  .next (if !lineOn s line.val || !mayUse s port then s
    else match s.prog with
      | some p => (((p.groups.filter (fun g => !g.publish && g.carrier = 2 && g.ip != 0)).map (·.ip)).eraseDups).foldl
          (fun s ip => leave s (.igmp port ip)) s
      | none => s)
/-- TRDP_PD_RECEIVE. -/
def execTrdpPdReceive (line : Fin 3) (h : PdHeader) (data : List Byte) (s : State) : Host.Outcome State Fault Refusal :=
  .next (receivePd s line.val h data)
/-- TRDP_PR_RECEIVE. -/
def execTrdpPrReceive (line : Fin 3) (src : Word) (h : PdHeader) (s : State) : Host.Outcome State Fault Refusal :=
  .next (receivePr s line.val src h)
/-- TRDP_PUBLISH. -/
def execTrdpPublish (g : Nat) (s : State) : Host.Outcome State Fault Refusal := .next (publishTrdp s g)
/-- TRDP_MR_RECEIVE. -/
def execTrdpMrReceive (src comId : Word) (data : MdData) (s : State) : Host.Outcome State Fault Refusal :=
  .next (arriveMd s src comId data true)
/-- TRDP_MN_RECEIVE. -/
def execTrdpMnReceive (src comId : Word) (data : MdData) (s : State) : Host.Outcome State Fault Refusal :=
  .next (arriveMd s src comId data false)
/-- SAFE_TELEGRAM_RECEIVE (R193): the copy of a plane. -/
def execSafeTelegramReceive (p : Plane) (bytes : List Byte) (s : State) : Host.Outcome State Fault Refusal :=
  .next (safeArrive s (match p with | .a => false | .b => true) bytes)

end Sys2Proof.Machine
end

