-- ==== Sys2Proof/Machine/Power.lean ====
section
/-! DEFINITION. The power manager: demand, transitions, shedding and restoring of domains, power fail and wakes (R399 to
R421). -/
namespace Sys2Proof.Machine

/-! ### Demand (R402) -/

/-- The lane bits of a mask. -/
def laneBits : BitVec 8 := 0x1C

/-- The module has a consist port of role STAR or UPLINK (R402). -/
def holdsPlane (s : State) : Bool := s.bank.valid && s.bank.net.ports.any (fun p => decide (2 ≤ p.role))

/-- The domains demanded (R402). -/
def demand (s : State) : BitVec 8 :=
  let v := s.pwr.votes.foldl (fun a b => a ||| b) 0
  let v := if v &&& laneBits != 0 then v ||| laneBits else v
  let v := if holdsPlane s then v ||| 0x22 else v
  let v := if v &&& 0xFC != 0 then v ||| 2 else v
  v ||| 1

/-- The power state: 0 RUN, 1 QUIET, 2 DUTY, 3 SLEEP (R400, R413). -/
def powerState (s : State) : Nat :=
  if s.pwr.on.getLsbD 1 then (if s.pwr.on &&& laneBits = laneBits then 0 else 1)
  else if s.pwr.cfg.period != 0 then 2 else 3

/-- A transition is in progress (R418). -/
def powerBusy (s : State) : Bool := s.pwr.shedStep.isSome || s.pwr.restoring != 0

/-- PWR_STAT as the power manager writes it (R418). -/
def latchPwr (s : State) : State :=
  let d := demand s
  let w := BitVec.ofNat 32 (powerState s % 2 * 2 ^ 29 + b2n (powerBusy s) * 2 ^ 28 + s.pwr.on.toNat * 2 ^ 16 + d.toNat * 2 ^ 8
    + (s.pwr.on &&& ~~~d).toNat)
  { s with pwr := { s.pwr with stat := w } }

/-- A record of subsystem 0xB; with HUB off it is written when HUB is next on (R421). -/
def powerRecord (s : State) (sev : Nat) (code : BitVec 16) (loc arg0 : Nat) : State :=
  if s.pwr.on.getLsbD 1 then raiseHub s sev code loc arg0
  else { s with pwr := { s.pwr with owed := s.pwr.owed ++ [(sev, code, loc, arg0)] } }

/-- What a change of the domains leaves behind: transitions counted at their beginning, the interrupt at their end, the record of
a change of state (R420, R421, R442). -/
def powerDone (s0 s : State) : State :=
  let s := if !powerBusy s0 && powerBusy s then { s with pwr := { s.pwr with transitions := s.pwr.transitions + 1 } } else s
  let s := if powerState s0 != powerState s then powerRecord s 0 0xB001 0 (powerState s) else s
  latchPwr (setIrqIf s (powerBusy s0 && !powerBusy s && s.pwr.on.getLsbD 1) irqPower)

/-! ### What a domain loses when its power drops (R404, R417) -/

/-- FIELD is off: every switch is open and nothing of its state remains but TEST_FAIL, which goes with the lockout (R242); the last filtered values are kept for LEARN (R416). -/
def fieldOff (s : State) : State :=
  let s := s.field.chTests.foldl (fun s x => endTest s x.2 none answerChTest) (abandonTests s (List.range 32))
  let last : List QWord := match s.field.latest with
    | some x => x.vals
    | none => []
  let vals := ((List.range 32).filter (fun ch => (last.getD ch (QWord.mk 0 8)).v != 0#32)).foldl (fun v ch => v ||| (1#32 <<< ch)) 0#32
  let live : Byte := ((List.range 8).filter (fun ch => (chSt s ch).val)).foldl (fun v ch => v ||| (1#8 <<< ch)) 0#8
  { s with field := { chans := s.field.chans.map (fun c => { testFail := c.testFail }) }, pwr := { s.pwr with learned := vals, active := live } }

/-- The lanes are off: their states become OFF, agreed checkpoints stay in the hub (R404). -/
def lanesOff (s : State) : State :=
  let s := modLanes s (fun _ x => { x.reset with st := .off, held := true, holdRunning := false, loaded := false, stopped := true, hot := false })
  let s := resetVoter s
  let wait := s.modu.mode = .limited
  { s with
    vote := { s.vote with restarting := false, awaitRelease := false, selftests := [], attach := none }
    pwr := { s.pwr with returning := inService s }
    bring := { s.bring with stage := if wait then .l1 else s.bring.stage, waiting := s.bring.waiting || (wait && s.bring.verified)
                            injecting := false, failed := [] } }

/-- SOUND is off: flows are closed and every chain is lost. -/
def soundOff (s : State) : State := { s with snd := {} }

/-- NET is off: no link, nothing of the node and of the trains' protocols remains; the module signals that change are changes in the store
(R303). -/
def netOff (s : State) : State :=
  let s := match s.net.claimCmd with
    | some (mb, _) => resultMb s mb 6
    | none => s
  moduleSignalEvents s { s with
    net := {}
    train := { s.train with ptp := {}, topo := none, topoStale := false, arp := [], arpWait := [], reasm := [], sgtx := []
                            pullWaiting := [] } }

/-- The hub is reset: what it held is lost but the AON region, MRAM and flash; commands that wait stay with their sender, the
queue (R399, R423). -/
def hubReset (s : State) : State :=
  { State.reset with
    xch := { mram := s.xch.mram, flash := s.xch.flash, fwRetired := s.xch.fwRetired }
    pwr := s.pwr, out := s.out, pending := s.pending
    hp := { nonceCount := s.hp.nonceCount }, modu := { jtagHigh := s.modu.jtagHigh } }

/-- The staged and buffered records go to the store before HUB loses power (R404). -/
def drainRecorder : Nat → State → State
  | 0, s => s
  | n + 1, s => drainRecorder n (writeRecord (startFlush (wantFlush (moveStaged s))))

/-- The fault records still queued go to the log before HUB loses power (R404). -/
def drainFaults : Nat → State → State
  | 0, s => s
  | n + 1, s => drainFaults n (handleHub (handleLane (handleLane (handleLane s .a) .b) .c) false true true)

/-- The FORCE record of an entry, with its cause (R145, R347). -/
def forceRecord (s : State) (cause : Nat) (f : Force) : State :=
  moduleRecord s 0x0101
    [BitVec.ofNat 32 cause, BitVec.ofNat 32 f.kind, f.id, f.v0, f.v1, boolWord f.keep, hi32 s.vote.harvest, lo32 s.vote.harvest]

/-- Entries of the force table are cleared by the module itself (R147). -/
def dropForces (s : State) (cause : Nat) (p : Force → Bool) : State :=
  let gone := s.modu.forces.filter p
  if gone.isEmpty then s
  else setIrq (gone.foldl (fun s f => forceRecord s cause f) { s with modu := { s.modu with forces := s.modu.forces.filter (fun f => !p f) } })
    irqForce

/-- In BRINGUP the control areas are read before anything is written to the stores (R355, R373). -/
def readControl (s : State) : State := if s.modu.mode = .bringup then enterEarly (loadRecorder (loadLog s)) else s

/-- HUB is off (R404): the flush and the log end first. -/
def hubOff (s : State) : State :=
  let s := readControl s
  let s := dropForces s 3 (fun _ => true)
  let s := drainFaults 140 s
  let s := writeLogControl (drainRecorder (s.recd.staging.length + s.recd.held.length + s.recd.buffer.length + 2) s)
  let low := faultLow s
  let s := hubReset s
  { s with pwr := { s.pwr with faultHeld := low, on := 1, restoring := 0, shedStep := none, shedding := 0, shedWait := 0, ripe := 0, returning := false } }

/-! ### Shedding (R403, R404, R407) -/

/-- The domains of a step of R404. -/
def stepMask : Nat → BitVec 8
  | 1 => 0x80 | 2 => 0x1C | 3 => 0x60 | 4 => 0x02 | _ => 0

/-- The domains that may be shed now: on, not demanded, beyond MIN_ON; HUB only with everything that depends on it; none before
LIMITED, during a restart or a restore (R403). -/
def sheddable (s : State) : BitVec 8 :=
  if s.modu.mode = .bringup || s.vote.restarting || s.pwr.failing || s.pwr.restoring != 0 then 0
  else
    let c := s.pwr.on &&& ~~~(demand s) &&& s.pwr.ripe &&& 0xFE
    if s.pwr.on &&& 0xFC &&& ~~~c != 0 then c &&& 0xFD else c

/-- T0 is being harvested (R403). -/
def harvestingT0 (s : State) : Bool := inService s && (activeCount s != 0) && (taskDef s 0).isSome

/-- A step of R404 begins: what stops at its start. -/
def startStep (s : State) (k : Nat) : State :=
  let s := { s with pwr := { s.pwr with shedStep := some k } }
  match k with
  | 1 => abandonTests s (List.range 32)
  | 2 => modLanes s (fun _ x => { x with held := true })
  | 4 => startFlush (wantFlush s)
  | _ => s

/-- The first step that sheds a domain of a mask. -/
def firstStep (m : BitVec 8) : Option Nat := [1, 2, 3, 4].find? (fun k => m &&& stepMask k != 0)

/-- A shed of some domains begins with its first step. -/
def beginShed (s : State) (m : BitVec 8) : State :=
  match firstStep m with
  | some k => startStep { s with pwr := { s.pwr with shedding := m, shedWait := 0 } } k
  | none => { s with pwr := { s.pwr with shedStep := none, shedding := 0, shedWait := 0 } }

/-- At a stable point the domains on are compared with the demand: what is demanded is raised at once, what is not is shed, at
step 8 of a harvest of T0 while T0 is being harvested (R403, R407). -/
def reviewIdle (s : State) : State :=
  let up := demand s &&& ~~~s.pwr.on &&& ~~~s.pwr.restoring
  let up := if s.pwr.on.getLsbD 1 then up &&& 0xFC else up &&& 2
  let s := { s with pwr := { s.pwr with restoring := s.pwr.restoring ||| up } }
  let down := sheddable s
  if down = 0 then { s with pwr := { s.pwr with shedWait := 0 } }
  else if harvestingT0 s then { s with pwr := { s.pwr with shedWait := down } }
  else beginShed s down

/-- A change of demand: it acts at the next stable point, at once where the step in progress is cancellable (R407). Power fail
overrides every transition (R408). -/
def review (s : State) : State :=
  if s.pwr.failing || !s.pwr.aon then s
  else
    let s0 := s
    let d := demand s
    let s := match s.pwr.shedStep with
      | none => reviewIdle s
      | some 4 => if d.getLsbD 1 then reviewIdle { s with pwr := { s.pwr with shedStep := none, shedding := 0 } } else s
      | some 3 =>
        if d.getLsbD 6 && s.pwr.shedding.getLsbD 6 then
          let left := s.pwr.shedding &&& 0xBF
          if left &&& 0x20 != 0 then { s with pwr := { s.pwr with shedding := left } }
          else reviewIdle { s with pwr := { s.pwr with shedStep := none, shedding := 0 } }
        else s
      | some _ => s
    powerDone s0 s

/-- Wake inputs that are active when the lanes or HUB finish shedding become STUCK (R414). -/
def markStuck (s : State) : State :=
  let now : Byte := s.pwr.active
  let new := now &&& s.pwr.wakeCh &&& ~~~s.pwr.stuck
  let s := { s with pwr := { s.pwr with stuck := s.pwr.stuck ||| new } }
  (List.range 8).foldl (fun s ch => if new.getLsbD ch then powerRecord s 1 0xB003 ch 0 else s) s

/-- The work of a shedding step (R404): the domains of its mask lose power in the order of R404. -/
def stepWork (s : State) (k : Nat) (m : Byte) : State :=
  if k = 1 then fieldOff s
  else if k = 2 then
    let live : Byte := ((List.range 8).filter (fun ch => (chSt s ch).val)).foldl (fun v ch => v ||| (1#8 <<< ch)) 0#8
    lanesOff { s with pwr := { s.pwr with active := if fieldOn s then live else s.pwr.active } }
  else if k = 3 then
    let s := if m.getLsbD 6 then soundOff s else s
    if m.getLsbD 5 then netOff s else s
  else hubOff s

/-- The domains of a step are off, and what is left to shed follows (R404, R414). -/
def stepEnd (s : State) (k : Nat) (m : Byte) : State :=
  let s := { s with pwr := { s.pwr with on := s.pwr.on &&& ~~~m, ripe := s.pwr.ripe &&& ~~~m, shedStep := none } }
  let s := if k = 2 || k = 4 then markStuck s else s
  let rest := s.pwr.shedding &&& ~~~m &&& sheddable s
  if rest != 0 then beginShed s rest else reviewIdle { s with pwr := { s.pwr with shedding := 0 } }

/-- The step in progress ends at its stable point: its domains are off, and the transition goes on from the demand as it then
is (R404, R407). -/
def endStep (s : State) (k : Nat) : State :=
  let m := s.pwr.shedding &&& stepMask k
  powerDone s (stepEnd (stepWork s k m) k m)

/-- DOMAIN_SHED_STEP (R404). -/
def execDomainShedStep (s : State) : Host.Outcome State Fault Refusal :=
  match s.pwr.shedStep with
  | some k => .next (endStep s k)
  | none => .next s

/-- A shed that waits begins at step 8 of a harvest of T0 (R403). -/
def shedAtStep8 (s : State) : State :=
  let s0 := s
  let s := reviewIdle s
  if s.pwr.shedWait = 0 || s.pwr.shedStep.isSome then powerDone s0 s else powerDone s0 (beginShed s s.pwr.shedWait)

/-! ### Votes and wakes (R401, R412) -/

/-- The vote of a client is set; during a power fail it is kept for the next AON power-up (R401, R408). -/
def setVote (s : State) (client : Nat) (mask : Byte) : State :=
  if s.pwr.failing then { s with pwr := { s.pwr with kept := putKey client mask s.pwr.kept } }
  else if s.pwr.votes.getD client 0 = mask then s
  else review { s with pwr := { s.pwr with votes := upd s.pwr.votes client (fun _ => mask) } }

/-- A SUPERVISOR wake with its cause (R412, R418, R421). -/
def wake (s : State) (cause : Nat) (inputs : Byte) : State :=
  if !s.pwr.aon then s
  else
    let s := { s with pwr := { s.pwr with
      cause := cause, input := inputs, count := satInc s.pwr.count, wakes := upd s.pwr.wakes cause (· + 1) } }
    setVote (powerRecord s 0 0xB002 0 cause) 0 (s.pwr.cfg.base ||| s.pwr.cfg.wake)

/-- A wake source is enabled in WAKE_SRC (R419). -/
def wakeSrc (s : State) (i : Nat) : Bool := bit s.pwr.cfg.src i

/-- WAKE_PORT_STOP (R413): the address is acknowledged, and of the bytes written the first. -/
def execWakePortStop (tx : WakeTx) (s : State) : Host.Outcome State Fault Refusal :=
  let own : BitVec 7 := 0x58 + Config.wka.setWidth 7
  let on := s.pwr.aon && wakeSrc s 0
  match tx with
  | .writeBytes addr bytes =>
    if addr != own || !on then .next (emit s (.wake false 0 []))
    else
      let s := emit s (.wake true (min 1 bytes.length) [])
      match bytes with
      | [] => .next (wake s 1 0)
      | b :: _ => .next (wake (setVote s 1 b) 1 0)
  | .readBytes addr n =>
    if addr != own || !on then .next (emit s (.wake false 0 []))
    else
      let b0 := BitVec.ofNat 8 (powerState s * 32 + b2n (powerBusy s) * 16 + s.pwr.cause)
      .next (emit s (.wake true 0 (([b0, s.pwr.on] ++ List.replicate (n - 2) 0xFF).take n)))

/-- WAKE_INPUT (R414): outside RUN, a WAKE channel that is not STUCK. -/
def execWakeInput (ch : Fin 8) (s : State) : Host.Outcome State Fault Refusal :=
  let b : Byte := 1#8 <<< ch.val
  let s := { s with pwr := { s.pwr with active := s.pwr.active ||| b } }
  if s.pwr.aon && wakeSrc s 1 && s.pwr.wakeCh.getLsbD ch.val && !s.pwr.stuck.getLsbD ch.val && (powerState s != 0) then
    .next (wake s 2 b)
  else .next s

/-- WAKE_STUCK_CLEAR: a wake input has been inactive for 1 s (R414). -/
def execWakeStuckClear (ch : Fin 8) (s : State) : Host.Outcome State Fault Refusal :=
  let b : Byte := ~~~(1#8 <<< ch.val)
  .next { s with pwr := { s.pwr with stuck := s.pwr.stuck &&& b, active := s.pwr.active &&& b } }

/-- AON_TICK: TICK ms after the last shed of the lanes or HUB (R412). -/
def execAonTick (s : State) : Host.Outcome State Fault Refusal :=
  if wakeSrc s 2 && s.pwr.cfg.tick != 0 && (powerState s != 0) then .next (wake s 3 0) else .next s

/-- WAKE_FRAME (R415). -/
def execWakeFrame (payload : List Byte) (s : State) : Host.Outcome State Fault Refusal :=
  if !domainOn s 5 || !wakeSrc s 3 then .next s
  else if payload.length = 8 && getWord payload 0 = 0x57414B45 && getNat payload 4 2 = s.bank.net.deviceId then
    .next (wake (setVote s 2 (BitVec.ofNat 8 (getByte payload 6))) 4 0)
  else .next { s with pwr := { s.pwr with frameDiscards := s.pwr.frameDiscards + 1 } }

/-- WAKE_HOLD_EXPIRY: WAKE_HOLD after the latest wake the SUPERVISOR vote is BASE_MASK (R401, R412). -/
def execWakeHoldExpiry (s : State) : Host.Outcome State Fault Refusal := .next (setVote s 0 s.pwr.cfg.base)

/-- PARTNER_VOTE_LOSS: 1 s after LINK_DOWN, unless the members have paired again (R401). -/
def execPartnerVoteLoss (s : State) : Host.Outcome State Fault Refusal :=
  if !(s.pair.up && s.pair.paired) && elapsed s s.pair.downAt 1000000000 then .next (setVote s 3 0) else .next s

/-- MIN_ON_EXPIRY: HUB, lanes, NET, SOUND or FIELD has been on for its MIN_ON (R403). -/
def execMinOnExpiry (d : Fin 5) (s : State) : Host.Outcome State Fault Refusal :=
  let m : BitVec 8 := [0x02, 0x1C, 0x20, 0x40, 0x80].getD d.val 0
  if s.pwr.on &&& m = m && elapsed s (s.pwr.onSince.getD d.val 0) (s.pwr.cfg.minOn.getD d.val 0 * 1000000) then
    .next (review { s with pwr := { s.pwr with ripe := s.pwr.ripe ||| m } })
  else .next s

/-! ### The duty-cycled watch (R416) -/

/-- The filtered values of the watch channels after the samples of a cycle, from c = 0 and val = 0. -/
def watchValues (s : State) (mv : List (List Nat)) : BitVec 32 :=
  ((List.range 32).filter (fun ch =>
    let cfg := s.pwr.watchCh.getD ch {}
    let nom := if ch < 16 then s.pwr.watchNom.1 else s.pwr.watchNom.2
    s.pwr.cfg.mask.getLsbD ch && (mv.foldl (fun x v => sampleInput cfg nom (v.getD ch 0) x) ({} : ChSt)).val)).foldl
      (fun v ch => v ||| (1#32 <<< ch)) 0#32

/-- The level of the watch channel over the sampling time is at or above DUTY_SND_DBFS (R252, R416). -/
def watchLoud (s : State) (bs : List Bool) : Bool :=
  let g := s.pwr.watchSnd
  let c := g.filters.getD s.pwr.cfg.sndCh {}
  let f := mckHz g c
  let x := (feedRun f c {} ((numbered bs).map (fun (k, b) => ((2 * (k : Int), 0), b))) []).1
  !x.samples.isEmpty && f != 0 &&
    f32le (f32div (Fl.ofInt .b32 s.pwr.cfg.dbfs).to32 0x43800000) (measure { c with meas := 3 } (x.samples.map (·.x)))

/-- DUTY_WATCH_CYCLE (R416). -/
def execDutyWatchCycle (mv : List (List Nat)) (bs : List Bool) (s : State) : Host.Outcome State Fault Refusal :=
  if !s.pwr.aon || s.pwr.on.getLsbD 1 || s.pwr.restoring.getLsbD 1 || s.pwr.cfg.period = 0 then .next s
  else
    let c := s.pwr.cfg
    let pattern := if bit c.flags 0 then s.pwr.learned else c.pattern
    let hit := (watchValues s mv &&& c.mask) != (pattern &&& c.mask) || (bit c.flags 1 && watchLoud s bs)
    if hit && wakeSrc s 4 then .next (wake s 5 0) else .next s

/-! ### Restoring (R405) -/

/-- Raw AX0 now as the end of a restore. -/
def restored (s : State) (m : BitVec 8) (idx : Nat) : State :=
  { s with pwr := { s.pwr with
    on := s.pwr.on ||| m, restoring := s.pwr.restoring &&& ~~~m, ripe := s.pwr.ripe &&& ~~~m
    onSince := upd s.pwr.onSince idx (fun _ => rawNow s) } }

/-- Records of power events that happened with HUB off are written once the supervisor runs (R421). -/
def writeOwed (s : State) : State :=
  let l := s.pwr.owed
  l.foldl (fun s x => raiseHub s x.1 x.2.1 x.2.2.1 x.2.2.2) { s with pwr := { s.pwr with owed := [] } }

/-- HUB is usable: bring-up begins at B1 and the other domains follow as demanded (R405, R423). -/
def hubOn (s : State) : State :=
  let s := hubReset s
  restored { s with pwr := { s.pwr with restoring := s.pwr.restoring ||| (demand s &&& 0xFC) } } 2 0

/-- A lane's restore ends with its self-test. On a return with HUB on it joins the restart, or is EXCLUDED; at bring-up a failure
is kept for L2 (R171, R405, R428). -/
def laneOn (s : State) (l : Lane) (fail : Option Nat) (retired : List (Fin 16 × Fin 16)) : State :=
  let s := modLane s l (fun x => setRetired { x.reset with stopped := false } retired)
  let m : BitVec 8 := 4#8 <<< laneNum l
  let s := restored s m 1
  if s.pwr.returning then
    let s := match fail with
      | none => modLane s l (fun x => { x with
        st := .rejoining, restartPath := true, stage := .load, held := s.vote.noRestart, loaded := true, injection := some 0 })
      | some p => toExcluded (raiseHub s 2 0x2004 (laneNum l) p) l true
    if s.pwr.on &&& laneBits = laneBits then
      let s := { s with pwr := { s.pwr with returning := false } }
      if (lanesIn s .rejoining).length < 2 then enterHalted s
      else
        let s := countRestart s
        if fourthRestart s then enterHalted s
        else raiseHub { s with vote := { s.vote with restarting := true, awaitRelease := false, selftests := [] } } 0 0x2007
    else s
  else
    match fail with
    | some _ => { s with bring := { s.bring with failed := addNew s.bring.failed l } }
    | none => s

/-- The bit of a domain in the power registers (R400). -/
def restoreBit : RestoreResult → Nat
  | .hub => 1
  | .lane l _ _ => 2 + laneNum l
  | .net => 5
  | .sound => 6
  | .field .. => 7

/-- What a domain does as it becomes usable (R405, R406). -/
def restoreWork (s : State) : RestoreResult → State
  | .hub => hubOn s
  | .lane l fail retired => laneOn s l fail retired
  | .net =>
    let s := enterListen (restored { s with net := {} } 0x20 2)
    restartPtp (if s.bank.valid then adoptSchedule s else s)
  | .sound =>
    restored { s with snd := { filters := List.replicate 16 { startedAt := now0 s } } } 0x40 3
  | .field bad badA badB => restored (fieldSelftest s bad badA badB) 0x80 4

/-- A domain is usable; outside a shed the demand is looked at again (R405, R407). -/
def endRestore (s : State) (res : RestoreResult) : State :=
  let s1 := restoreWork s res
  powerDone s (if s1.pwr.shedStep.isSome then s1 else reviewIdle s1)

/-- DOMAIN_RESTORE (R405): a restore that was begun ends. -/
def execDomainRestore (res : RestoreResult) (s : State) : Host.Outcome State Fault Refusal :=
  .next (if s.pwr.restoring.getLsbD (restoreBit res) && s.pwr.aon then endRestore s res else s)

/-! ### Power fail (R409 to R411) -/

/-- The module is OFF after a power fail (R409). -/
def goOff (s : State) : State :=
  let s := hubReset s
  { s with pwr := { s.pwr with
    aon := false, on := 0, restoring := 0, shedStep := none, shedding := 0, shedWait := 0, ripe := 0, failing := false, afterFail := true
    returning := false } }

/-- Steps 1 to 3 of a power fail with HUB on, as far as they do not wait for the recorder (R409). -/
def failPower (s : State) (vsys : Bool) : State :=
  let s := readControl s
  let s := { s with pwr := { s.pwr with failing := true, shedStep := none, shedding := 0, shedWait := 0, restoring := 0 } }
  let s := { s with recd := { s.recd with closed := true, pfCause := some (b2n vsys) } }
  let s := netOff (soundOff (lanesOff (fieldOff (setLatches s))))
  let s := { s with
    pwr := { s.pwr with on := 3, ripe := 0, returning := false, pfPending := true }
    vote := { s.vote with ckpts := [] } }
  -- the S2 record goes straight to the log (R409)
  let (n, s) := takeFseq s
  let s := logWrite s
    { fin := { region := .hub, sev := 2, level := 2, code := 0xB004, hw := true }, fseq := n, harvest := s.vote.harvest, ax0 := ax0 s }
  startFlush (wantFlush (placePowerfail s))

/-- POWER_FAIL (R409): steps 1 to 3 as far as they do not wait for the recorder; with HUB off there is nothing to flush (R411). -/
def execPowerFail (vsys : Bool) (s : State) : Host.Outcome State Fault Refusal :=
  if !s.pwr.aon || s.pwr.failing then .next s
  else
    let s := { s with pwr := { s.pwr with pfNow := true, pfCount := satInc s.pwr.pfCount } }
    .next (if s.pwr.on.getLsbD 1 then failPower s vsys else goOff s)

/-- The recorder has written everything it can (R356). -/
def recorderDrained (s : State) : Bool :=
  (s.recd.staging.isEmpty && s.recd.held.isEmpty && s.recd.buffer.isEmpty && s.recd.pfCause.isNone)
    || (s.recd.keep && s.recd.storeFull)

/-- FLUSH_RECORD_WRITTEN (R352). During a power fail the last record ends the sequence: the log control area is written, PF_PENDING
is cleared, and the module is OFF (R356, R409). -/
def execFlushRecordWritten (s : State) : Host.Outcome State Fault Refusal :=
  let s := writeRecord s
  if !s.pwr.failing then .next s
  else if recorderDrained s then
    let s := writeLogControl s
    .next (goOff { s with pwr := { s.pwr with pfPending := false } })
  else .next (wantFlush s)

/-- VHOLD_EXHAUSTED: what the control areas do not yet name is lost, and PF_PENDING stays set (R356). -/
def execVholdExhausted (s : State) : Host.Outcome State Fault Refusal :=
  if s.pwr.failing then .next (goOff s) else .next s

/-- POWER_RETURN (R411): AON powers up, votes are those of R401 with what was kept, and HUB is raised; beyond the absolute maximum
of VSYS the spec gives no behaviour (R466). -/
def execPowerReturn (vsysMv : Nat) (s : State) : Host.Outcome State Fault Refusal :=
  if 6000 < vsysMv then .fault .beyondAbsoluteMaximum
  else if s.pwr.aon || vsysMv < 2700 then .next s
  else
    let p := s.pwr
    let votes := p.kept.foldl (fun v x => upd v x.1 (fun _ => x.2)) (0xFF :: List.replicate 19 (0 : Byte))
    let s := { s with pwr :=
      { on := 1, restoring := 2, votes := votes, pfSeen := p.afterFail, pfCount := p.pfCount, pfPending := p.pfPending, owed := p.owed } }
    .next (latchPwr s)

end Sys2Proof.Machine
end

