-- ==== Sys2Proof/Machine/Forces.lean ====
section
/-! DEFINITION. Force targets: safety classes, and which entries go at the switch of a task (R146, R147). -/
namespace Sys2Proof.Machine

/-- A force target is safety-classed (R146). -/
def safetyClassed (s : State) (p : Program) (kind : Nat) (id : Word) : Bool :=
  ((kind = 1 || kind = 2) && ((chCfg s id.toNat).mode = 2 || (isOut s id.toNat && safetyOut s id.toNat)))
    || ((kind = 3 || kind = 4) && p.sigs.any (fun x => x.signal = id && p.groups.any (fun g => g.group = x.group && g.format = 2)))
    || kind = 5
    || p.binds.any (fun b => p.forceBinds kind id b && (p.taskDef b.task).any (·.safety))

/-- A force entry goes with the switch of a task: the task owns or reads its target, and it is not kept with a target that the new
image binds and lists (R147). -/
def leavesAtSwitch (old new : Program) (t : Nat) (f : Force) : Bool :=
  (old.binds.any (fun b => b.task = t && old.forceBinds f.kind f.id b) || new.binds.any (fun b => b.task = t && new.forceBinds f.kind f.id b))
    && !(f.keep && new.bindsTarget f.kind f.id && new.perms.contains { kind := f.kind, id := f.id })

end Sys2Proof.Machine
end

