-- ==== Sys2Proof/Machine/Slots.lean ====
section
/-! DEFINITION. The slots of the two kinds of object: their headers, which slot is active and which is the shadow (R202 to R204), and
the loads that fill the shadow (R210, R211). -/
namespace Sys2Proof.Machine

/-! ### Slots and headers (R21, R202) -/

/-- Where a slot begins: an image slot in flash, a bank area in MRAM (R21). -/
def slotBase (img : Bool) (k : Nat) : Nat := if img then 0x02000000 + k * 0x01000000 else 0x01000000 + k * 0x00400000
/-- The longest object of a kind (R202). -/
def objectMax (img : Bool) : Nat := if img then 16777152 else 4194240
/-- MAGIC of an object of a kind (R205, R208). -/
def objectMagic (img : Bool) : Nat := if img then 0x4B50494D else 0x4B434647
/-- NSECT of an object of a kind (R205, R208). -/
def objectSects (img : Bool) : Nat := if img then 7 else 9

/-- Bytes of a slot from an offset. -/
def slotRead (s : State) (img : Bool) (k off n : Nat) : List Byte :=
  memReads (if img then s.xch.flash else s.xch.mram) (slotBase img k + off) n
/-- Bytes written into a slot at an offset. -/
def slotWrite (s : State) (img : Bool) (k off : Nat) (bs : List Byte) : State :=
  let at_ := slotBase img k + off
  if img then { s with xch := { s.xch with flash := memWrites s.xch.flash at_ bs } }
  else { s with xch := { s.xch with mram := memWrites s.xch.mram at_ bs } }
/-- A slot is erased: a flash slot whole, a bank area by writing its header to all ones (R202, R211). -/
def slotErase (s : State) (img : Bool) (k : Nat) : State :=
  if img then { s with xch := { s.xch with flash := memErase s.xch.flash (slotBase true k) 0x01000000 } }
  else { s with xch := { s.xch with mram := memErase s.xch.mram (slotBase false k) 64 } }

/-- EMPTY, RECEIVING, VERIFIED, ACTIVE, RETIRED (R202). -/
def slEmpty : Nat := 0xFF
/-- RECEIVING. -/
def slReceiving : Nat := 0x7F
/-- VERIFIED. -/
def slVerified : Nat := 0x3F
/-- ACTIVE. -/
def slActive : Nat := 0x1F
/-- RETIRED. -/
def slRetired : Nat := 0x0F

/-- STATE of a slot; EMPTY without the MAGIC of a header (R202). -/
def slotState (s : State) (img : Bool) (k : Nat) : Nat :=
  if getNat (slotRead s img k 0 4) 0 4 = 0x534C4F54 then getByte (slotRead s img k 4 1) 0 else slEmpty
/-- STATE of a slot written. -/
def setSlotState (s : State) (img : Bool) (k x : Nat) : State := slotWrite s img k 4 [BitVec.ofNat 8 x]
/-- GENERATION of a slot (R202). -/
def slotGen (s : State) (img : Bool) (k : Nat) : DWord := getDWord (slotRead s img k 8 8) 0
/-- The first n bytes of the object in a slot. -/
def slotObject (s : State) (img : Bool) (k n : Nat) : List Byte := slotRead s img k 64 n
/-- The object in a slot by the LENGTH of its header; an erased LENGTH names none. -/
def slotWhole (s : State) (img : Bool) (k : Nat) : List Byte :=
  let n := getNat (slotRead s img k 16 4) 0 4
  if objectMax img < n then [] else slotObject s img k n

/-- The active slot of a kind (R203). -/
def activeSlot (s : State) (img : Bool) : Option Nat := if img then s.xch.imgSlot else s.xch.bankSlot

/-- The slot to which the next object is written: the one that is not active; with none active the one that holds a VERIFIED or
RECEIVING object alone, otherwise slot 0 (R204; DESIGN CHOICE without an active slot, notes/assumptions 61). -/
def shadowSlot (s : State) (img : Bool) : Nat :=
  let held := fun k => let x := slotState s img k; x = slVerified || x = slReceiving
  match activeSlot s img with
  | some k => 1 - k
  | none => if held 1 && !held 0 then 1 else 0

/-- The shadow slot holds a VERIFIED object (R203). -/
def shadowVerified (s : State) (img : Bool) : Bool := slotState s img (shadowSlot s img) = slVerified

/-- A slot becomes ACTIVE with GENERATION one above that of the slot it follows, 1 where it follows none (R215, R218). -/
def makeActive (s : State) (img : Bool) (k : Nat) : State :=
  let gen : DWord := match activeSlot s img with
    | some j => slotGen s img j + 1
    | none => 1
  setSlotState (slotWrite s img k 8 (beDWord gen)) img k slActive

/-! ### Loads (R210, R211) -/

/-- The load of a kind in progress. -/
def loadOf (s : State) (img : Bool) : Option Load := if img then s.xch.imgLoad else s.xch.bankLoad
/-- The load of a kind replaced. -/
def setLoad (s : State) (img : Bool) (l : Option Load) : State :=
  if img then { s with xch := { s.xch with imgLoad := l } } else { s with xch := { s.xch with bankLoad := l } }

/-- Tasks are still to switch to the new program (R219, R224). -/
def switching (s : State) : Bool := s.xch.switchingSince.isSome && !s.xch.settling
/-- A program exchange is staging or switching, or a RESTART activation waits (R216, R224). -/
def exchanging (s : State) : Bool := s.xch.act.isSome || switching s || s.xch.restartPending

/-- BEGIN of a kind: the shadow slot is erased and marked RECEIVING (R210); refused while the other mailbox loads the same kind, or
while what stands in the shadow slot is on its way into service (R224, R448). -/
def beginLoad (s : State) (mb : Mb) (img : Bool) (ws : List Word) : State :=
  let n := wNat ws 0
  let busy := (loadOf s img).any (fun l => l.mb != mb) || (if img then exchanging s else s.xch.swap.isSome)
  if n = 0 || objectMax img < n then resultMb s mb 3
  else if busy then resultMb s mb 1
  else
    let k := shadowSlot s img
    let s := slotErase s img k
    let s := slotWrite s img k 0 ([0x53, 0x4C, 0x4F, 0x54, BitVec.ofNat 8 slReceiving])
    okMb (setLoad s img (some { mb := mb, length := n, received := 0 })) mb []

/-- The words of a DATA request: offset, count, and ceil(n / 4) data words (R453). -/
def dataNeed (ws : List Word) : Nat := if ws.length < 2 then 2 else 2 + (wNat ws 1 + 3) / 4

/-- DATA of a kind: bytes appended at the expected offset (R210, R453). -/
def dataLoad (s : State) (mb : Mb) (img : Bool) (ws : List Word) : State :=
  match loadOf s img with
  | none => resultMb s mb 4
  | some l =>
    let n := wNat ws 1
    if l.mb != mb then resultMb s mb 4
    else if wNat ws 0 != l.received || n = 0 || 16384 < n || l.length < l.received + n
        || (n % 4 != 0 && l.received + n != l.length) then resultMb s mb 3
    else
      let s := slotWrite s img (shadowSlot s img) (64 + l.received) ((beWords (ws.drop 2)).take n)
      okMb (setLoad s img (some { l with received := l.received + n })) mb [BitVec.ofNat 32 (l.received + n)]

/-- What the checks of END find wrong with a load, in their order: its length, the object's frame, its contents (R211). -/
def loadFails (s : State) (img : Bool) (l : Load) : Option (Nat × CheckFail) :=
  let bs := slotObject s img (shadowSlot s img) l.received
  if l.received != l.length then some (3, { order := 1 })
  else match objectCheck bs l.received (objectMagic img) (objectSects img) with
    | some x => some x
    | none => if img then (imageCheck bs).map (fun f => (3, f)) else bankCheck s bs

/-- END of a kind: the slot becomes VERIFIED, or is erased (R211). -/
def endLoad (s : State) (mb : Mb) (img : Bool) : State :=
  match loadOf s img with
  | none => finishMb s mb 4 noCheck
  | some l =>
    if l.mb != mb then finishMb s mb 4 noCheck
    else
      let k := shadowSlot s img
      let bs := slotObject s img k l.received
      let bad := loadFails s img l
      let s := setLoad s img none
      match bad with
      | some (r, f) => finishMb (slotErase s img k) mb r f.words
      | none =>
        let d := objDigest bs
        let s := slotWrite s img k 16 (beWord (BitVec.ofNat 32 l.received))
        okMb (setSlotState (slotWrite s img k 24 d) img k slVerified) mb (toWords d)

/-- PROG_BEGIN (R210). -/
def execProgBegin (mb : Mb) (s : State) : Host.Outcome State Fault Refusal :=
  runCmd s mb 0x0200 true true [] (fun _ => 1) (fun s ws => beginLoad s mb true ws)
/-- PROG_DATA (R210). -/
def execProgData (mb : Mb) (s : State) : Host.Outcome State Fault Refusal :=
  runCmd s mb 0x0201 true true [] dataNeed (fun s ws => dataLoad s mb true ws)
/-- PROG_END (R211). -/
def execProgEnd (mb : Mb) (s : State) : Host.Outcome State Fault Refusal :=
  runCmd s mb 0x0202 true true noCheck (fun _ => 0) (fun s _ => endLoad s mb true)
/-- CFG_BEGIN (R210). -/
def execCfgBegin (mb : Mb) (s : State) : Host.Outcome State Fault Refusal :=
  runCmd s mb 0x0300 true true [] (fun _ => 1) (fun s ws => beginLoad s mb false ws)
/-- CFG_DATA (R210). -/
def execCfgData (mb : Mb) (s : State) : Host.Outcome State Fault Refusal :=
  runCmd s mb 0x0301 true true [] dataNeed (fun s ws => dataLoad s mb false ws)
/-- CFG_END (R211). -/
def execCfgEnd (mb : Mb) (s : State) : Host.Outcome State Fault Refusal :=
  runCmd s mb 0x0302 true true noCheck (fun _ => 0) (fun s _ => endLoad s mb false)

end Sys2Proof.Machine
end

