-- ==== Sys2Proof/Machine/Exchange.lean ====
section
/-! DEFINITION. The swap of a configuration bank (R213 to R215) and the exchange of a program (R216 to R224), as far as the hub does
them; the lanes' part is in the release of a task. -/
namespace Sys2Proof.Machine

/-! ### Destinations before their owner's first harvest (R136, R401, R444) -/

/-- The power vote of a task at program load: PARAM of its PWRVOTE; zero where it binds none (R401). -/
def Program.voteOf (p : Program) (t : Nat) : Byte :=
  if p.binds.any (fun b => b.kind = 0x48 && b.task = t) then
    ((p.insts.find? (fun i => i.task = t && i.op = 0xA0)).map (fun i => BitVec.ofNat 8 i.param.toNat)).getD 0
  else 0

/-- A destination that a program binds and nothing has written takes its initial value (R136): the vote of R401, the layout value of
a mailbox slot (DEDUCED, notes/assumptions 67). -/
def placeDestination (s : State) (p : Program) (b : Binding) : State :=
  match b.kind with
  | 0x48 => setVote s (4 + b.task) (p.voteOf b.task)
  | 0x4A => { s with hp := { s.hp with slots := upd s.hp.slots b.id.toNat (fun x =>
      { x with val := (p.layoutWord b.task b.index).v, q := 4 }) } }
  | _ => s

/-- Every destination at program load (R401, R444). -/
def loadDestinations (s : State) : State :=
  let p := s.prog.getD {}
  let s := { s with hp := { s.hp with slots := s.hp.slots.map (fun (x : MbxSlot) => { x with val := 0, q := 4 }) } }
  let s := (List.range 16).foldl (fun s t => setVote s (4 + t) (p.voteOf t)) s
  (p.binds.filter (fun b => b.kind = 0x4A)).foldl (fun s b => placeDestination s p b) s

/-! ### Bring-up from lane release (R175, R217) -/

/-- The module goes back to LIMITED and waits for lane release: lanes are reset, what ran is over, release counts, generations and
high-water marks start again (R23, R175, R217, R429). -/
def toLaneRelease (s : State) : State :=
  let s := modLanes s (fun _ x => { x.reset with
    st := .off, held := true, holdRunning := false, loaded := false, digest := none, resent := false
    tasks := List.replicate 16 {}, pages := [] })
  let s := resetVoter s
  let v := { s.vote with
    harvest := 0, restarting := false, awaitRelease := false, selftests := [], attach := none, store := [], retDirty := []
    retDue := false, retRestored := false }
  let s : State := { s with
    vote := v
    modu := { s.modu with ackPending := false, step6 := [] }
    hubt := List.replicate 16 { }
    tim := { s.tim with gens := List.replicate 16 { } }
    conns := { a := [], b := [], c := [] }
    safe := { s.safe with rx := [], tx := [], ckpt := [], conns := s.bank.conns, connTasks := [] }
    train := { s.train with pubs := [] }
    ack := { s.ack with reports := [], firsts := [] }
    snd := { s.snd with mix := s.snd.mix.filter (fun m => !mixOwned s m.p) }
    bring := { s.bring with stage := .l1, waiting := true, started := false, failed := [], injecting := false, cause := 0 } }
  let s := s.snd.flows.foldl (fun s f => setRun s f.id false) s
  setMode (loadDestinations s) .limited (some 0)

/-! ### A bank takes effect (R215) -/

/-- A channel under its new entry (R215): a changed filter keeps its counter, clamped, and carries INITIAL again; an output that
becomes an input is de-energised; without open-wire detection OPEN is not shown (R236). -/
def adoptChannel (old new : ChCfg) (x : ChSt) : ChSt :=
  let filter := fun (c : ChCfg) => [c.mode, c.onPct, c.offPct, c.upper, c.lower, c.cmax, c.chatCount, c.chatLeak]
  let x := if isOutputMode old.mode && !isOutputMode new.mode then { x with on := false, testOk := false, testing := false } else x
  let x := if isOutputMode new.mode && bit new.flags 1 then x else { x with openWire := false }
  if filter old = filter new then x
  else { x with c := min x.c new.cmax, initLeft := if isInputMode new.mode then max (tOn new) (tOff new) else 0 }

/-- The field section takes effect; tests of channels that change, alone or in their set, and of group switches that change, end without a
verdict (R215, R237, R239). -/
def adoptField (s : State) (old : Bank) : State :=
  let chans := s.bank.chans
  let gone := (List.range 32).filter (fun ch => (setOf { s with bank := old } ch ++ setOf s ch).any (fun k => old.chans.getD k {} != chans.getD k {}))
  let s := abandonTests s gone
  let cs := (numbered s.field.chans).map (fun x => adoptChannel (old.chans.getD x.1 {}) (chans.getD x.1 {}) x.2)
  let s := { s with field := { s.field with chans := cs } }
  let s := if old.grpA = s.bank.grpA then s else abandonGsw s .fa
  if old.grpB = s.bank.grpB then s else abandonGsw s .fb

/-- The axis section takes effect as AXIS_SOURCE would act (R215). An output that idles takes its new idle level. -/
def adoptTiming (s : State) : State :=
  let c := s.bank.tim
  let s := (numbered c.axes).foldl (fun s (n, a) => selectSource s n a.1 a.2.1 a.2.2 none) s
  { s with tim := { s.tim with
    stepThr := c.stepThr, lockThr := c.lockThr, holdoverLimit := c.holdover, nominal := c.nominal
    inputs := (numbered s.tim.inputs).map (fun (n, i) => { i with cfg := c.inputs.getD n 0 })
    outputs := (numbered s.tim.outputs).map (fun (n, o) =>
      let o' := { o with cfg := c.outputs.getD n 0 }
      if o.level = o.idle && o.sched.isEmpty then { o' with level := o'.idle } else o') } }

/-- The chain of a filter channel is the same under two entries: it runs on (R215). -/
def sameChain (a b : FiltCfg) : Bool := { a with meas := 0, zc := false, window := 0, hyst := 0, scale := 0 } =
  { b with meas := 0, zc := false, window := 0, hyst := 0, scale := 0 }

/-- The sound section takes effect: a chain whose preset or clock changes restarts, a flow of both banks runs on, and a mix point whose target
comes from neither MIX_SET nor a program takes its new default (R215, R253, R259). -/
def adoptSound (s : State) (old : Bank) : State :=
  let new := s.bank.sound
  { s with snd := { s.snd with
    filters := (numbered s.snd.filters).map (fun (n, x) =>
      let a := old.sound.filters.getD n {}
      let b := new.filters.getD n {}
      if sameChain a b && mckHz old.sound a = mckHz new b then x
      else { clip := x.clip, stuck := x.stuck, startedAt := now0 s, presetAt := some (now0 s) })
    mix := s.snd.mix.map (fun m => if m.set || mixOwned s m.p then m else { m with want := defaultFactor s m.p })
    flows := s.snd.flows.filter (fun f => new.flows.any (fun c => c.id = f.id)) } }

/-- The network sections take effect: PTP restarts where its block changed, the schedule is announced or awaited, and links that the
new entries no longer permit go down (R215, R277, R292). -/
def adoptNet (s : State) (old : Bank) : State :=
  if !domainOn s 5 then s
  else
    let s := adoptSchedule s
    let s := (List.range 8).foldl (fun s n =>
      if (linkPort s n).speed != 0 && old.net.ports.getD n {} != s.bank.net.ports.getD n {} then linkChange s n (linkPort s n).speed else s) s
    if old.ptp = s.bank.ptp && old.valid then s else restartPtp { s with train := { s.train with ptp := { s.train.ptp with alt := false } } }

/-- The power section takes effect: the policy, what the watch sequencer and the wake detectors hold, and a review of the demand;
votes in force are kept (R215, R414, R416). -/
def adoptPower (s : State) : State :=
  let b := s.bank
  let wakes := ((List.range 8).filter (fun ch => bit (b.chans.getD ch {}).flags 0)).foldl (fun v ch => v ||| (1#8 <<< ch)) 0#8
  review { s with pwr := { s.pwr with
    cfg := b.pwr, wakeCh := wakes, watchCh := b.chans, watchNom := (nominalMv b.grpA, nominalMv b.grpB), watchSnd := b.sound } }

/-- Two entries name the same connection (R215). -/
def sameConn (a b : SafeConn) : Bool := a.scid = b.scid && a.peer = b.peer && a.loc = b.loc && a.length = b.length

/-- At the next release of a task after a swap the connections that it read or owned, and those that it now reads or owns, change: one
whose identity changes starts fresh in every lane, as never accepted; any other keeps its state (R215). One that has gone to
another task waits for that task's release. -/
def takeConns (s : State) (t : Nat) : State :=
  if !s.safe.connTasks.contains t then s
  else
    let new := fun (k : Nat) => s.bank.conns.find? (fun c => c.conn = k)
    let next := fun (a : SafeConn) => match new a.conn with
      | some b => if b.task = t then some b else if a.task = t then some { a with task := b.task } else some a
      | none => if a.task = t then none else some a
    let known := fun (k : Nat) => s.safe.conns.any (fun a => a.conn = k)
    let conns := s.safe.conns.filterMap next ++ s.bank.conns.filter (fun b => b.task = t && !known b.conn)
    let fresh := fun (k : Nat) => match s.safe.conns.find? (fun a => a.conn = k), conns.find? (fun b => b.conn = k) with
      | some a, some b => !sameConn a b
      | some _, none => true
      | none, _ => false
    let keep := fun (l : List ConnState) => (l.filter (fun c => !fresh c.conn)).map (fun c =>
      { c with task := ((conns.find? (fun b => b.conn = c.conn)).map (·.task)).getD c.task })
    { s with
      conns := s.conns.map (fun _ l => keep l)
      safe := { s.safe with
        conns := conns, connTasks := s.safe.connTasks.filter (· ≠ t), ckpt := keep s.safe.ckpt
        rx := s.safe.rx.filter (fun r => !fresh r.conn), tx := s.safe.tx.filter (fun x => !fresh x.1) } }

/-- The safe connections of the new bank wait for the next release of each reading or owner task; a task that is not released has none to
wait for (R198, R215). -/
def adoptConns (s : State) (old : Bank) : State :=
  let runs := fun (t : Nat) => inService s && ((s.prog.any (fun p => (p.taskDef t).isSome)) || s.progNew.any (fun p => (p.taskDef t).isSome))
  let named := (List.range 16).filter (fun t => (old.conns ++ s.safe.conns ++ s.bank.conns).any (fun c => c.task = t))
  let s := { s with safe := { s.safe with connTasks := named } }
  (named.filter (fun t => !runs t)).foldl takeConns s

/-- A record for every safe connection whose task the program does not hold (R198). -/
def orphanConns (s : State) (b : Bank) (p : Option Program) : State :=
  match p with
  | none => s
  | some p => b.conns.foldl (fun s c => if (p.taskDef c.task).isNone then raiseHub s 2 0xF005 c.conn else s) s

/-- The pairing policy takes effect (R383, R394): setting PAIR_ENABLE in service keeps the role of the unpaired module; clearing it
ends the pair, and a standby enters LIMITED; otherwise the digests differ until both members hold the new bank. -/
def adoptPair (s : State) (old : Bank) : State :=
  let was := old.valid && old.pair.enable
  let is := s.bank.valid && s.bank.pair.enable
  let p := s.pair
  if was && !is then
    let s := abandonSwitch s
    let s := { s with pair := { s.pair with paired := false, incompatible := false, strapConflict := false, switch := none } }
    let s := setVote s 3 0
    if p.controlling then s else if s.modu.mode = .bringup then s else toLaneRelease s
  else if !was && is then (if inService s then { s with pair := { p with roleTaken := true } } else s)
  else if p.paired then
    setVote (setIrq (raiseHub { abandonSwitch s with pair := { (abandonSwitch s).pair with paired := false, incompatible := true } } 2
      0xC008) irqPair) 3 0
  else s

/-- The bank in force is replaced (R215). VOTE_WINDOW is taken by each task at its next window end. -/
def applyBank (s : State) (b : Bank) : State :=
  let old := s.bank
  let s := if old.modu.forcePermit && !b.modu.forcePermit then
      dropForces s 4 (fun f => safetyClassed s (s.prog.getD {}) f.kind f.id)
    else s
  let s := { s with bank := b }
  let s := if b.modu.bench then setLatches s else s
  let s := adoptTiming (adoptField s old)
  let s := { s with
    recd := { s.recd with keep := b.recKeep, defs := b.recDefs, storeFull := s.recd.storeFull && b.recKeep }
    hubt := s.hubt.map (fun h => { h with harvests := 0 }) }
  let s := if s.recd.keep = old.recKeep then s else writeRecControl s
  adoptBridge (adoptPair (adoptPower (adoptConns (adoptNet (adoptSound s old) old) old)) old)

/-- The swap is made (R214, R215): headers, sections, the record, the answer. -/
def performSwap (s : State) : State :=
  match s.xch.swap with
  | none => s
  | some mb =>
    let k := shadowSlot s false
    let b := parseBank (slotWhole s false k)
    let old := s.xch.bankSlot
    let s := makeActive s false k
    let s := match old with
      | some j => setSlotState s false j slVerified
      | none => s
    let s := { s with xch := { s.xch with bankSlot := some k, swap := none } }
    let s := modLanes s (fun _ x => { x with digest := none, resent := false })
    let s := orphanConns (applyBank s b) b s.prog
    okMb (raiseHub s 0 0xE005 0 b.bankId.toNat b.bankVer.toNat) mb []

/-! ### Digest reports (R214, R218) -/

/-- Bring-up runs from lane release to admission (R430). -/
def releasing (s : State) : Bool := s.bring.stage = .l2 || s.bring.stage = .l3 || s.bring.stage = .l4 || s.bring.stage = .l5
/-- An ONLINE activation is staging (R218). -/
def staging (s : State) : Bool := s.xch.act.any (fun a => !a.staged)
/-- Every ACTIVE lane has reported the digest (R214). -/
def digestsDone (s : State) : Bool := !(activeLanes s).isEmpty && (activeLanes s).all (fun l => (lane s l).digest = some true)

/-- Staging is complete once every ACTIVE lane has confirmed it: PROG_ACTIVATE responds OK (R218). -/
def checkStaging (s : State) : State :=
  match s.xch.act with
  | some a =>
    if a.staged || !digestsDone s then s
    else okMb { s with xch := { s.xch with act := some { a with staged := true } } } a.mb []
  | none => s

/-- A difference of the digests refuses what was sent (R214); the record's event is the configuration swap (DESIGN CHOICE,
notes/assumptions 62). -/
def refuseDigest (s : State) : State :=
  let s := raiseHub s 2 0xE005
  match s.xch.swap, s.xch.act with
  | some mb, _ => finishMb { s with xch := { s.xch with swap := none } } mb 9 noCheck
  | none, some a => finishMb { s with xch := { s.xch with act := none }, progNew := none } a.mb 9 noCheck
  | none, none => s

/-- One lane's report on the shadow bank or the staged image (R214, R218). -/
def reportDigest (s : State) (l : Lane) (same : Bool) : State :=
  let x := lane s l
  if !(s.xch.swap.isSome || staging s) || !(x.st = .active || x.st = .rejoining) then s
  else if same then checkStaging (modLane s l (fun x => { x with digest := some true }))
  else if s.modu.mode != .voted3 then refuseDigest s
  else if !x.resent then modLane s l (fun x => { x with resent := true })
  else checkStaging (if x.st = .active then excludeLane s l 0x2001 0 else failRejoin s l 0x2001 0)

/-- BANK_DIGEST_REPORT (R214). -/
def execBankDigestReport (l : Lane) (same : Bool) (s : State) : Host.Outcome State Fault Refusal := .next (reportDigest s l same)

/-- STAGING_COMPLETE (R218): the reports of the lanes on the staged image. -/
def execStagingComplete (same : List (Lane × Bool)) (s : State) : Host.Outcome State Fault Refusal :=
  .next (if staging s then same.foldl (fun s x => reportDigest s x.1 x.2) s else s)

/-- CFG_SWAP (R213, R214): the first refusal that applies, otherwise the shadow bank goes to the lanes; in LIMITED and HALTED no
lane is ACTIVE to report and the swap is made at once. -/
def cfgSwap (s : State) (mb : Mb) : State :=
  let bs := slotWhole s false (shadowSlot s false)
  let b := parseBank bs
  if !inSession s mb then finishMb s mb 5 noCheck
  else if !shadowVerified s false then finishMb s mb 4 noCheck
  else if s.xch.swap.isSome || exchanging s || releasing s then finishMb s mb 1 noCheck
  else if !objectSigned bs then finishMb s mb 0x0B noCheck
  else
    match s.prog.bind (fun p => compatible p b) with
    | some f => finishMb s mb 3 f.words
    | none =>
      let s := waitMb { s with xch := { s.xch with swap := some mb } } mb
      let s := modLanes s (fun _ x => { x with digest := none, resent := false })
      if inService s then s else performSwap s

/-- CFG_SWAP (R213). -/
def execCfgSwap (mb : Mb) (s : State) : Host.Outcome State Fault Refusal :=
  runCmd s mb 0x0303 true true noCheck (fun _ => 0) (fun s _ => cfgSwap s mb)

/-! ### A RESTART activation (R217) -/

/-- A RESTART activation takes effect (R217): the shadow image becomes ACTIVE, the old one RETIRED, every force is cleared, and
bring-up runs from lane release. -/
def activateRestart (s : State) : State :=
  let k := shadowSlot s true
  let p := parseProgram (slotWhole s true k) k
  let old := s.xch.imgSlot
  let s := makeActive s true k
  let s := match old with
    | some j => setSlotState s true j slRetired
    | none => s
  let s := { s with xch := { s.xch with imgSlot := some k, restartPending := false, restartDeferred := false, act := none, switchingSince := none, settling := false } }
  let s := dropForces s 3 (fun _ => true)
  let s := { s with prog := some p, progNew := none }
  let s := toLaneRelease s
  orphanConns s s.bank (some p)

/-! ### The swap point and the switches (R218, R219, R221) -/

/-- The release source of a task-table entry (R54, R123, R129). -/
def TaskDef.relSource (d : TaskDef) : RelSource :=
  if d.source = 4 then .event (bits d.event.toNat 28 4) (bits d.event.toNat 0 23)
  else .lattice (d.source - 1) (dirOf d.dir) d.phase d.period

/-- A release generator as it starts for a task: nothing of an earlier task of its number remains (R54, R219). -/
def setGenerator (s : State) (d : TaskDef) : State :=
  { s with tim := { s.tim with gens := upd s.tim.gens d.task (fun _ => { source := d.relSource, pathBase := (axis s 1).path }) } }

/-- A destination of an old output binding that the new program does not bind takes its initial state (R136, R221). -/
def initDestination (s : State) (t : Nat) (b : Binding) : State :=
  match b.kind with
  | 0x41 => modLanes s (fun _ x => { x with drive := upd x.drive b.id.toNat (fun _ => {}) })
  | 0x42 => { s with train := { s.train with pubs := s.train.pubs.filter (fun x => x.1 ≠ b.id) } }
  | 0x46 => modMix s b.id.toNat (fun m => { m with want := defaultFactor s b.id.toNat, set := false })
  | 0x47 => setRun s b.id.toNat false
  | 0x48 => setVote s (4 + t) 0
  | 0x4A => { s with hp := { s.hp with slots := upd s.hp.slots b.id.toNat (fun x => { x with val := 0, q := 4 }) } }
  | _ => s

/-- The destination of an output binding, by kind and identifier; a power vote belongs to its task (R122, R221). -/
def destKey (b : Binding) : Nat × Word × Word :=
  (b.kind, if b.kind = 0x48 then BitVec.ofNat 32 b.task else b.id, if b.kind = 0x43 then b.arg else 0)

/-- The destinations that a task owned and the new program does not bind (R221). -/
def dropDestinations (s : State) (old new : Program) (t : Nat) : State :=
  (old.outputs t).foldl (fun s b => if new.binds.any (fun c => c.isOutput && destKey c = destKey b) then s else initDestination s t b) s

/-- During the switch interval a write of a task to a destination whose owner in the new program has switched is ignored, unless
the task is that owner (R221). -/
def mayWrite (s : State) (t : Nat) (b : Binding) : Bool :=
  match s.xch.switchingSince, s.progNew with
  | some _, some new =>
    !new.binds.any (fun c => c.isOutput && destKey c = destKey b && c.task != t && (hubTask s c.task).switched)
  | _, _ => true

/-- The request words of a task (R118). -/
def Program.requestWords (p : Program) (t : Nat) : List Nat :=
  ((p.outputs t).filter (fun b => b.kind = 0x44 || b.kind = 0x45 || b.kind = 0x49)).map (·.index)

/-- The hub switches a task to the new program (R118, R147, R161, R219, R221): its next harvest is the first one after the switch,
the new entry drives its generator with the high-water mark kept, its own destinations go on from their voted values, and forces
on its targets go. -/
def switchTask (s : State) (t : Nat) : State :=
  match s.progNew with
  | none => s
  | some new =>
    let old := s.prog.getD {}
    let lay := fun (c : Binding) => (List.range (new.width c)).map (fun k => { new.layoutWord t (c.index + k) with q := 4 })
    let carried := (hubTask s t).voted.map (fun ws =>
      (new.outputs t).flatMap (fun c =>
        match (old.outputs t).find? (fun b => destKey b = destKey c && old.width b = new.width c) with
        | some b => (ws.drop (old.outputPos t b)).take (old.width b)
        | none => lay c))
    let s := dropDestinations s old new t
    let s := (new.outputs t).foldl (fun s c =>
      if old.binds.any (fun b => b.isOutput && destKey b = destKey c) then s else placeDestination s new c) s
    let s := modTask s t (fun h => { h with
      switched := true, firstAfterSwitch := true, voted := carried, refs := [], noRef := new.requestWords t })
    let s := match new.taskDef t with
      | some d => { s with tim := { s.tim with gens := upd s.tim.gens t (fun g => { g with source := d.relSource }) } }
      | none => s
    dropForces s 5 (leavesAtSwitch old new t)

/-- The tasks of the new program (R219). -/
def newTasks (s : State) : List Nat := ((s.progNew.map (fun p => p.tasks.map (·.task))).getD [])
/-- The tasks that only the old program has (R218). -/
def goneTasks (s : State) : List Nat := ((s.prog.map (fun p => p.tasks.map (·.task))).getD []).filter (fun t => !(newTasks s).contains t)

/-- A task that only the old program has, once no harvest of it is in flight, owns its destinations no longer (R218, R221). -/
def retireTask (s : State) (t : Nat) : State :=
  match s.progNew with
  | some new =>
    if (hubTask s t).inFlight || (hubTask s t).switched then s
    else dropDestinations (modTask s t (fun h => { h with switched := true })) (s.prog.getD {}) new t
  | none => s

/-- Every task that only the old program has, from the swap point on. -/
def retireGone (s : State) : State := if s.xch.switchingSince.isSome then (goneTasks s).foldl retireTask s else s

/-- The swap point of a staged activation, in the tick of a release of T0 (R218, R219): listed triggers are cancelled, the new slot
is ACTIVE, tasks absent from the new program are released no more, not even in that tick, tasks that are only in it wait for their first point, and a
rejoin in progress is abandoned without a count (R174). -/
def swapPoint (s : State) (same : RelDue → Bool) : State :=
  match s.xch.act, s.progNew with
  | some a, some new =>
    if !a.staged then s
    else
      let s := (new.binds.filter (fun b => b.kind = 0x82)).foldl (fun s b => cancelTrigger s b.id.toNat) s
      let s := makeActive s true new.slot
      let s := { s with xch := { s.xch with act := none, switchingSince := some (ax0 s), settling := false, imgSlot := some new.slot } }
      let gone := goneTasks s
      let s := gone.foldl (fun s t =>
        let due := (s.tim.gens.getD t {}).due
        let left := due.filter (fun q => !same q)
        let s := { s with tim := { s.tim with gens := upd s.tim.gens t (fun g => { g with source := .none, due := left, eventPending := false }) } }
        retireTask (if left.length < due.length then modTask s t (fun h => { h with inFlight := false }) else s) t) s
      let fresh := new.tasks.filter (fun d => !((s.prog.map (fun p => p.tasks.any (fun o => o.task = d.task))).getD false))
      let s := fresh.foldl (fun s d => setGenerator (modTask s d.task (fun _ => { window := s.bank.modu.window })) d) s
      allLanes.foldl (fun s l => if (lane s l).st = .rejoining && !s.vote.restarting then toExcluded s l false else s) s
  | _, _ => s

/-- The old program's space is freed in every lane and the new one stands alone: at the completion of the exchange, or where a harvest of a
task that only the old program has is still in flight then, once that is over (R218, R224; DEDUCED, notes/assumptions 174). -/
def freeOld (s : State) : State :=
  match s.progNew with
  | none => s
  | some new =>
    let gone := goneTasks s
    let s := gone.foldl (fun s t => retireTask (modTask s t (fun h => { h with inFlight := false })) t) s
    let s := modLanes s (fun _ x => { x with
      pages := x.pages.filter (fun q => !gone.contains q.task)
      tasks := (numbered x.tasks).map (fun (t, y) => { y with
        newVer := false, cyc := if gone.contains t then { y.cyc with active := false } else y.cyc })
      stamps := x.stamps.filter (fun m => !gone.contains m.task)
      digest := none
      wakes := (x.wakes.filter (·.new)).map (fun r => { r with new := false })
      blocks := x.blocks.map (fun b =>
        { b with queue := (b.queue.filter (·.new)).map (fun r => { r with new := false })
                 pans := b.pans.map (fun q => { q with busy := (q.busy.filter (·.new)).map (fun r => { r with new := false }) }) }) })
    let s := { s with
      prog := some new, progNew := none
      hubt := s.hubt.map (fun h => { h with switched := false, ckptNew := false })
      xch := { s.xch with switchingSince := none, settling := false }
      vote := { s.vote with
        ckpts := (s.vote.ckpts.filter (fun c => !gone.contains c.task)).map (fun c => { c with newVer := false })
        store := s.vote.store.filter (fun q => !gone.contains q.task) } }
    orphanConns s s.bank (some new)

/-- The exchange completes once every task has switched and its switching harvest is over (R224): the old slot is RETIRED and the record
written with PROG_ID and PROG_VER of the program that runs now (notes/assumptions 174). -/
def finishExchange (s : State) : State :=
  match s.xch.switchingSince, s.progNew with
  | some _, some new =>
    let open_ := (newTasks s).any (fun t => !(hubTask s t).switched || ((hubTask s t).firstAfterSwitch && (hubTask s t).inFlight))
    let left := (goneTasks s).any (fun t => (hubTask s t).inFlight)
    if s.xch.settling then (if left then s else freeOld s)
    else if open_ then s
    else
      let s := match s.prog with
        | some old => setSlotState s true old.slot slRetired
        | none => s
      let s := raiseHub s 0 0x3007 0 new.progId.toNat new.progVer.toNat
      if left then { s with xch := { s.xch with settling := true } } else freeOld s
  | _, _ => s

/-- SWITCH_WITHOUT_RELEASE (R219): 1 s of AX0 after the swap point a task that has not been released switches at rest and runs no cycle. -/
def execSwitchWithoutRelease (t : Fin 16) (s : State) : Host.Outcome State Fault Refusal :=
  match s.xch.switchingSince with
  | some since =>
    let h := hubTask s t.val
    if decide (1000000000 ≤ ((ax0 s) - since).toInt) && (newTasks s).contains t.val && !h.switched && !h.inFlight
        && (s.tim.gens.getD t.val {}).due.isEmpty then
      let s := (allLanes.filter (fun l => (lane s l).st = .active || (lane s l).st = .debug)).foldl (fun s l => switchLane s l t.val) s
      .next (finishExchange (switchTask s t.val))
    else .next s
  | none => .next s

/-! ### PROG_ACTIVATE (R216 to R218) -/

/-- An ONLINE activation is staged: the new program is built and sent to the lanes (R218). -/
def stageProgram (s : State) (mb : Mb) (p : Program) : State :=
  let s := if s.xch.settling then freeOld s else s
  let s := { s with progNew := some p, xch := { s.xch with act := some { mb := mb, online := true } } }
  waitMb (modLanes s (fun _ x => { x with digest := none, resent := false })) mb

/-- PROG_ACTIVATE: the first refusal that applies (R216), otherwise RESTART or ONLINE. -/
def progActivate (s : State) (mb : Mb) (ws : List Word) : State :=
  let w := wNat ws 0
  let k := shadowSlot s true
  let bs := slotWhole s true k
  let p := parseProgram bs k
  let still := s.modu.mode = .limited || s.modu.mode = .halted
  let online := w = 1 && !(still && s.prog.isNone)
  let fail := fun (r : Nat) => finishMb s mb r noCheck
  if w = 0 || 2 < w then fail 3
  else if !inSession s mb then fail 5
  else if !shadowVerified s true then fail 4
  else if exchanging s || s.xch.swap.isSome || releasing s then fail 1
  else if online && (!voted s || debugging s) then fail 4
  else if !objectSigned bs then fail 0x0B
  else
    match if s.bank.valid then compatible p s.bank else none with
    | some f => finishMb s mb 3 f.words
    | none =>
      if online then
        if s.prog.any (fun old => ox01 old p) then finishMb s mb 0x0A { code := asciiCode "OX01" : CheckFail }.words
        else if ox02 s p then finishMb s mb 4 { code := asciiCode "OX02" : CheckFail }.words
        else stageProgram s mb p
      else
        let s := okMb { s with xch := { s.xch with restartPending := true } } mb []
        if still then activateRestart s else s

/-- PROG_ACTIVATE (R216). -/
def execProgActivate (mb : Mb) (s : State) : Host.Outcome State Fault Refusal :=
  runCmd s mb 0x0203 true true noCheck (fun _ => 1) (fun s ws => progActivate s mb ws)

/-- PROG_DISCARD (R218, R453): it withdraws an activation, abandons a load, or erases the shadow slot. -/
def progDiscard (s : State) (mb : Mb) : State :=
  if switching s then resultMb s mb 4
  else if s.xch.act.isSome || s.xch.restartPending then okMb (discardActivation s) mb []
  else okMb (setLoad (slotErase s true (shadowSlot s true)) true none) mb []

/-- PROG_DISCARD (R453). -/
def execProgDiscard (mb : Mb) (s : State) : Host.Outcome State Fault Refusal :=
  runCmd s mb 0x0204 true true [] (fun _ => 0) (fun s _ => progDiscard s mb)

/-! ### PROG_INFO and CFG_READ (R453) -/

/-- The figures of a task in PROG_INFO; those of the carry once the image is staged (R77, R189, R220). -/
def taskFigures (s : State) (p : Program) (d : TaskDef) (carry : Bool) : List Word :=
  let (v, c, f, g) := match carry, s.prog with
    | true, some old => carryFigures old p d.task
    | _, _ => (0, 0, 0, 0)
  [BitVec.ofNat 32 d.task, BitVec.ofNat 32 (p.bound d.task), BitVec.ofNat 32 (p.frameLen d.task), BitVec.ofNat 32 v,
    BitVec.ofNat 32 (if carry && s.prog.isSome then 32 + (v + 7) / 8 else 0), BitVec.ofNat 32 c, BitVec.ofNat 32 f, BitVec.ofNat 32 g]

/-- PROG_INFO of a slot (R453). -/
def progInfo (s : State) (k : Nat) (carry : Bool) : List Word :=
  let st := slotState s true k
  let w0 := BitVec.ofNat 32 st
  if st = slVerified || st = slActive || st = slRetired then
    let bs := slotWhole s true k
    let p := parseProgram bs k
    [w0, p.progId, p.progVer, getWord bs 28, hi32 (slotGen s true k), lo32 (slotGen s true k)] ++ toWords (slotRead s true k 24 32)
      ++ BitVec.ofNat 32 p.tasks.length :: p.tasks.flatMap (fun d => taskFigures s p d carry)
  else w0 :: List.replicate 14 0

/-- PROG_INFO (R453). -/
def execProgInfo (mb : Mb) (s : State) : Host.Outcome State Fault Refusal :=
  runCmd s mb 0x0205 true true [] (fun _ => 1) (fun s ws =>
    let staged := s.xch.act.any (fun a => a.staged)
    match wNat ws 0 with
    | 0 => match s.xch.imgSlot with
      | some k => okMb s mb (progInfo s k (switching s))
      | none => okMb s mb (BitVec.ofNat 32 slEmpty :: List.replicate 14 0)
    | 1 => okMb s mb (progInfo s (shadowSlot s true) staged)
    | _ => resultMb s mb 3)

/-- The bytes that CFG_READ takes from: header and directory, a section, or the coefficients in force (R248, R453). -/
def cfgBytes (s : State) (bs : List Byte) (ty : Nat) : Option (List Byte) :=
  if ty = 0 then some (bs.take (64 + 16 * 9))
  else if ty ≤ 9 then some (sect bs ty)
  else if 0x80 ≤ ty && ty < 0x90 then
    some ((firCoefs (s.bank.sound.filters.getD (ty - 0x80) {})).flatMap (fun c => beWord (BitVec.ofInt 32 c &&& 0x00FFFFFF)))
  else none

/-- CFG_READ (R453): WRONG_STATE where the bank asked for does not exist. -/
def cfgRead (s : State) (mb : Mb) (ws : List Word) : State :=
  let slot := match wNat ws 0 with
    | 0 => s.xch.bankSlot
    | _ => if shadowVerified s false then some (shadowSlot s false) else none
  let n := wNat ws 3
  if 1 < wNat ws 0 || 16384 < n then resultMb s mb 3
  else
    match cfgBytes s ((slot.map (slotWhole s false)).getD []) (wNat ws 1) with
    | none => resultMb s mb 3
    | some bs =>
      if slot.isNone && wNat ws 1 < 0x80 then resultMb s mb 4
      else
        let out := slice bs (wNat ws 2) n
        okMb s mb (BitVec.ofNat 32 out.length :: toWords out)

/-- CFG_READ (R453). -/
def execCfgRead (mb : Mb) (s : State) : Host.Outcome State Fault Refusal :=
  runCmd s mb 0x0304 true true [] (fun _ => 4) (fun s ws => cfgRead s mb ws)

end Sys2Proof.Machine
end

