-- ==== Sys2Proof/Machine/SafeState.lean ====
section
/-! DEFINITION. Acknowledges (R185 to R187) and safe telegrams in the lanes: their checking at a release (R193, R194) and their
production at a harvest (R190 to R192). -/
namespace Sys2Proof.Machine

/-! ### Acknowledges (R185 to R187) -/

/-- An acknowledge source of R185 is enabled (R199). -/
def ackEnabled (s : State) (src : AckSource) : Bool :=
  match src with
  | .pin => bit s.bank.modu.ackSources 0
  | .channel => bit s.bank.modu.ackSources 1 && s.bank.modu.ackChannel.isSome

/-- ACK_JAMMED of a source (R185). -/
def ackIsJammed (s : State) (src : AckSource) : Bool :=
  match src with
  | .pin => s.ack.pinJammed
  | .channel => s.ack.chJammed

/-- An accepted acknowledge acts where the module awaits one, and not in a standby, whose own sources are ignored (R187, R378): in HALTED bring-up starts from lane release, otherwise step 8
of the next harvest of T0 takes it. -/
def acceptAck (s : State) : State :=
  if !ackWait s || !s.pair.controlling then s
  else
    let s := raiseHub s 0 0xF001
    if s.modu.mode = .halted then toLaneRelease s else { s with modu := { s.modu with ackPending := true } }

/-- The receivers of one pulse count and record it once: the first ACTIVE lane, or the reset controller (DEDUCED,
notes/assumptions 63). -/
def countsPulse (s : State) (rcv : AckReceiver) : Bool :=
  match rcv with
  | .lane l => (activeLanes s).head? = some l
  | .resetController => true

/-- A receiver times its source: a lane's while it is ACTIVE, the reset controller's in HALTED (R185). -/
def ackTimes (s : State) (rcv : AckReceiver) : Bool :=
  match rcv with
  | .lane l => (lane s l).st = .active && s.modu.mode != .halted
  | .resetController => s.modu.mode = .halted

/-- A receiver's timing of the acknowledge channel. -/
def ackTrack (s : State) : AckReceiver → AckTrack
  | .lane l => (lane s l).ackTrack
  | .resetController => s.ack.track
/-- A receiver's timing of the acknowledge channel changed. -/
def modAckTrack (s : State) (rcv : AckReceiver) (f : AckTrack → AckTrack) : State :=
  match rcv with
  | .lane l => modLane s l (fun x => { x with ackTrack := f x.ackTrack })
  | .resetController => { s with ack := { s.ack with track := f s.ack.track } }

/-- The pulse that ends: at the pin as the receiver timed it on its own clock, for the channel as it followed from the stamps of its
sample frames (R185). -/
def endedPulse (s : State) (rcv : AckReceiver) (src : AckSource) (highNs : Nat) (stepped : Bool) : Option (Nat × Bool) :=
  match src with
  | .pin => some (highNs, stepped)
  | .channel => (ackTrack s rcv).ended

/-- A pulse has ended: the pin is low from now on, the channel's pulse is taken (R185). -/
def takePulse (s : State) (rcv : AckReceiver) : AckSource → State
  | .pin => { s with ack := { s.ack with pinLow := some (rawNow s) } }
  | .channel => modAckTrack s rcv (fun t => { t with ended := none })

/-- A pulse of a source at a receiver counts, by its high time (R185): below 100 ms it is ignored and counted, beyond 2 s it is a jam, and
for the channel an AX0 step within it spoils it; a valid one is reported by the lane, or accepted alone by the reset controller. -/
def judgePulse (s : State) (rcv : AckReceiver) (src : AckSource) (highNs : Nat) (stepped : Bool) : State :=
  if 2000000000 < highNs then s
  else if highNs < 100000000 then
    (if countsPulse s rcv then { s with ack := { s.ack with short := s.ack.short + 1 } } else s)
  else if stepped && src = .channel then (if countsPulse s rcv then raiseHub s 1 0xF003 else s)
  else
    match rcv with
    | .lane l => modLane s l (fun x => { x with ackReported := addNew x.ackReported src })
    | .resetController => acceptAck s

/-- ACK_EDGE (R185): a pulse ends. -/
def execAckEdge (rcv : AckReceiver) (src : AckSource) (highNs : Nat) (stepped : Bool) (s : State) : Host.Outcome State Fault Refusal :=
  match endedPulse s rcv src highNs stepped with
  | none => .next s
  | some (high, step) =>
    let s := takePulse s rcv src
    if !ackEnabled s src || ackIsJammed s src || !ackTimes s rcv then .next s
    else .next (judgePulse s rcv src high step)

/-- Reports older than 10 ms are over; one that found no second is a lone report (R185). -/
def purgeReports (s : State) (src : AckSource) : State :=
  let old := fun (r : AckSource × Lane × Nat × Bool) => r.1 = src && elapsed s r.2.2.1 10000001
  { s with ack := { s.ack with
    reports := s.ack.reports.filter (fun r => !old r)
    lone := s.ack.lone + (s.ack.reports.filter (fun r => old r && !r.2.2.2)).length } }

/-- ACK_REPORT (R185): the second report within 10 ms accepts the edge; a later one belongs to the edge already accepted. -/
def execAckReport (l : Lane) (src : AckSource) (s : State) : Host.Outcome State Fault Refusal :=
  if !(lane s l).ackReported.contains src then .next s
  else
    let s := modLane s l (fun x => { x with ackReported := x.ackReported.filter (· ≠ src) })
    if (lane s l).st != .active then .next s
    else
      let s := purgeReports s src
      let had := s.ack.reports.filter (fun r => r.1 = src && r.2.1 != l)
      let mark := fun (r : AckSource × Lane × Nat × Bool) => if r.1 = src && !had.isEmpty then (r.1, r.2.1, r.2.2.1, true) else r
      let s1 := { s with ack := { s.ack with reports := (s.ack.reports ++ [(src, l, rawNow s, false)]).map mark } }
      .next (if !had.isEmpty && had.all (fun r => !r.2.2.2) then acceptAck s1 else s1)

/-- LONE_ACK_REPORT (R185). -/
def execLoneAckReport (src : AckSource) (s : State) : Host.Outcome State Fault Refusal := .next (purgeReports s src)

/-- A high level has been held beyond 2 s: at the pin by the receiver's clock, on the channel by the stamps (R185). -/
def heldHigh (s : State) (rcv : AckReceiver) : AckSource → Bool
  | .pin => true
  | .channel =>
    let t := ackTrack s rcv
    t.high && decide (2000000000 < (t.newest - t.riseAt).toInt)

/-- The input of a source has been low for at least 1 s without interruption (R185): the pin since the latest end of a pulse, the channel
by the stamps of a receiver that times it. -/
def heldLow (s : State) : AckSource → Bool
  | .pin => s.ack.pinLow.any (fun t => elapsed s t 1000000000)
  | .channel =>
    let low := fun (rcv : AckReceiver) =>
      let t := ackTrack s rcv
      ackTimes s rcv && !t.high && t.lowAt.any (fun a => decide (1000000000 ≤ (t.newest - a).toInt))
    low .resetController || allLanes.any (fun l => low (.lane l))

/-- ACK_JAMMED (R185): the first report of a jam sets it. -/
def execAckJammed (rcv : AckReceiver) (src : AckSource) (s : State) : Host.Outcome State Fault Refusal :=
  if !ackEnabled s src || ackIsJammed s src || !ackTimes s rcv || !heldHigh s rcv src then .next s
  else
    let s := match src with
      | .pin => { s with ack := { s.ack with pinJammed := true } }
      | .channel => { s with ack := { s.ack with chJammed := true } }
    .next (raiseHub s 1 0xF002)

/-- ACK_JAM_CLEAR (R185): the input has been low for 1 s without interruption. -/
def execAckJamClear (src : AckSource) (s : State) : Host.Outcome State Fault Refusal :=
  if !heldLow s src then .next s
  else
  match src with
  | .pin => .next { s with ack := { s.ack with pinJammed := false } }
  | .channel => .next { s with ack := { s.ack with chJammed := false } }

/-- SAFE_ACK by the table of R186. -/
def safeAck (s : State) (mb : Mb) (ws : List Word) : State :=
  let token := ws.getD 0 0
  let enabled := bit s.bank.modu.ackSources (match mb with
    | .mb0 => 2
    | .mb1 => 3)
  let src := (mbox s mb).holder.getD .host
  let mine := fun (x : Mb × Source × Word × Nat) => x.1 = mb && x.2.1 = src
  let others := s.ack.firsts.filter (fun x => !mine x)
  let first := { s with ack := { s.ack with firsts := others ++ [(mb, src, token, rawNow s)] } }
  let cleared := { s with ack := { s.ack with firsts := others } }
  if token = 0 then resultMb s mb 3
  else if !enabled then resultMb s mb 5
  else if !ackWait s || !s.pair.controlling then resultMb s mb 4
  else
    match s.ack.firsts.find? mine with
    | none => okMb first mb [1]
    | some (_, _, t, at_) =>
      if elapsed s at_ 2000000001 then okMb first mb [1]
      else if t = token then resultMb s mb 3
      else if !elapsed s at_ 100000000 then resultMb cleared mb 3
      else acceptAck (okMb cleared mb [2])

/-- SAFE_ACK (R186). -/
def execSafeAck (mb : Mb) (s : State) : Host.Outcome State Fault Refusal :=
  runCmd s mb 0x0120 false true [] (fun _ => 1) (fun s ws => safeAck s mb ws)

/-! ### The safety code (R191) -/

/-- One bit of the CRC-64, not reflected. -/
def crc64Bit (c : DWord) : DWord := if c.getLsbD 63 then (c <<< 1) ^^^ 0x42F0E1EBA9EA3693 else c <<< 1
/-- One byte of the CRC-64. -/
def crc64Byte (c : DWord) (b : Byte) : DWord :=
  let c := c ^^^ (b.setWidth 64 <<< 56)
  crc64Bit (crc64Bit (crc64Bit (crc64Bit (crc64Bit (crc64Bit (crc64Bit (crc64Bit c)))))))
/-- The safety code: CRC-64 0x42F0_E1EB_A9EA_3693, initial value and final XOR all ones (R191). -/
def safetyCode (bs : List Byte) : DWord := bs.foldl crc64Byte 0xFFFFFFFFFFFFFFFF ^^^ 0xFFFFFFFFFFFFFFFF

/-! ### Checking at a release (R193, R194) -/

/-- A copy is valid for its connection (R193). -/
def copyGood (c : SafeConn) (bs : List Byte) : Bool :=
  decide (bs.length = 24 + c.length) && getNat bs 0 2 = c.peer && getNat bs 2 2 = c.loc && getWord bs 4 = c.scid
    && getNat bs 14 2 = c.length && decide (getByte bs 12 < 4) && getByte bs 13 = 0
    && getDWord bs (16 + c.length) = safetyCode (bs.take (16 + c.length))

/-- The words of passive payload with a nibble (R194). -/
def passiveWords (c : SafeConn) (q : BitVec 4) : List QWord := (toWords c.passive).map (fun w => { v := w, q := q })

/-- What an accepted telegram gives (R194). -/
def acceptedWords (c : SafeConn) (bs : List Byte) : List QWord :=
  let flags := getByte bs 12
  if bit flags 0 then passiveWords c 2
  else (toWords (slice bs 16 c.length)).map (fun w => { v := w, q := if bit flags 1 then 3 else 0 })

/-- A duration on AX0 is at most a limit in ns (R193, R194). -/
def withinNs (now t : DWord) (ns : Nat) : Bool := decide ((now - t).toInt ≤ (ns : Int))

/-- The check of R193 for one connection: its state after the release, and whether the copies disagreed. A connection that was
never accepted on two planes does not take a single copy (DEDUCED, notes/assumptions 64). -/
def checkConn (wait : Nat) (now : DWord) (c : SafeConn) (rx : List SafeRx) (x : ConnState) : ConnState × Bool :=
  let open_ := x.timedOut || x.lastRx.isNone
  let fresh := fun (pb : Bool) => rx.find? (fun r => r.conn = c.conn && r.planeB = pb && copyGood c r.bytes
    && (open_ || serialNewer (getWord r.bytes 8) x.seq))
  let seqOf := fun (r : SafeRx) => getWord r.bytes 8
  let accept := fun (r : SafeRx) (two : Bool) =>
    { x with seq := seqOf r, lastRx := some r.rx, lastTwo := if two then some r.rx else x.lastTwo, timedOut := false, degraded := !two
             words := acceptedWords c r.bytes }
  let single := fun (r : SafeRx) =>
    if (wait * 1000 : Int) ≤ (now - r.rx).toInt ∧ x.lastTwo.any (fun t => withinNs now t (c.singleMs * 1000000)) then (accept r false, false)
    else (x, false)
  let (y, bad) := match fresh false, fresh true with
    | some a, some b =>
      if seqOf a = seqOf b then
        (if a.bytes = b.bytes then (accept a true, false)
         else ({ x with seq := seqOf a, words := passiveWords c 8 }, true))
      else single (if serialNewer (seqOf a) (seqOf b) then a else b)
    | some a, none => single a
    | none, some b => single b
    | none, none => (x, false)
  let late := match y.lastRx with
    | some t => !withinNs now t (c.timeoutMs * 1000000)
    | none => true
  (if late then { y with timedOut := true, degraded := false, words := passiveWords c 8 } else y, bad)

/-- The AX0 value of a release stamp: its words 2 and 3 (R68). -/
def stampAx0 (m : StampMsg) : DWord := join64 (m.stamp.getD 2 ⟨0, 0⟩).v (m.stamp.getD 3 ⟨0, 0⟩).v

/-- The receiving connections a task reads are checked in a lane at a release (R193, R194, R198). The first lane to find a mismatch
reports it. -/
def checkConns (s : State) (l : Lane) (m : StampMsg) : State :=
  (s.safe.conns.filter (fun c => !c.send && c.task = m.task)).foldl (fun s c =>
    let x := connState s l c
    let (y, bad) := checkConn s.bank.modu.planeWait (stampAx0 m) c m.copies x
    let first := allLanes.all (fun k => k = l || (connState s k c).mismatchAt != some m.rel)
    let s := setConn s l (if bad then { y with mismatchAt := some m.rel } else y)
    if !bad then s
    else
      let s := { s with safe := { s.safe with mismatch := true } }
      if first then raiseHub s 2 0xF004 c.conn else s) s

/-- The payload words that a task reads, as the lane's check left them (R194). -/
def connImage (s : State) (l : Lane) (p : Program) (t : Nat) : List (Nat × QWord) :=
  (p.payloads t).filterMap (fun b =>
    (s.safe.conns.find? (fun c => c.conn = b.id.toNat)).map (fun c =>
      (b.index, ((connState s l c).words)[b.arg.toNat]?.getD ((passiveWords c 8).getD b.arg.toNat ⟨0, 8⟩))))

/-! ### Production at a harvest (R190 to R192) -/

/-- The lanes that produce the copies of plane A and plane B: those of the bank, a lane that is not ACTIVE replaced by the ACTIVE
lane that does not produce the other copy; with BENCH the single ACTIVE lane produces both (R190). -/
def producers (s : State) : Option Lane × Option Lane :=
  let act := activeLanes s
  let la := laneOf s.bank.modu.planeA
  let lb := laneOf s.bank.modu.planeB
  match act with
  | [x] => (some x, some x)
  | _ =>
    let keepB := if act.contains lb then some lb else none
    let a' := if act.contains la then some la else act.find? (fun l => some l ≠ keepB)
    let b' := if act.contains lb then some lb else act.find? (fun l => some l ≠ a')
    (a', b')

/-- The voted words of the payload bound to a sending connection; a word that nothing binds is zero (R190, R207). -/
def payloadWords (p : Program) (t : Nat) (c : SafeConn) (voted : List QWord) : List Word :=
  (List.range (c.length / 4)).map (fun k =>
    match (p.outputs t).find? (fun b => b.kind = 0x43 && b.id.toNat = c.conn && b.arg.toNat = k) with
    | some b => (voted.getD (p.outputPos t b) ⟨0, 0⟩).v
    | none => 0)

/-- A safe telegram (R191). -/
def telegram (c : SafeConn) (seq : Word) (passivated forced : Bool) (payload : List Byte) : List Byte :=
  let head := be16 c.loc ++ be16 c.peer ++ beWord c.scid ++ beWord seq ++ [BitVec.ofNat 8 (b2n passivated + 2 * b2n forced), 0]
    ++ be16 c.length
  let body := head ++ (if passivated then c.passive else payload)
  body ++ beDWord (safetyCode body)

/-- Step 3 in a lane whose drive gate opens: the lane produces the copy of its plane for each sending connection that the task owns,
PASSIVATED while its latch is set (R190, R192). -/
def produceSafe (s : State) (l : Lane) (p : Program) (t : Nat) (voted : List QWord) : State :=
  (s.safe.conns.filter (fun c => c.send && c.task = t)).foldl (fun s c =>
    let n := (connState s l c).seq
    let pass := (lane s l).latch || s.bank.modu.bench
    let bs := telegram c n pass (forced s) (beWords (payloadWords p t c voted))
    let makes := producers s
    let put := fun (s : State) (pb : Bool) =>
      { s with safe := { s.safe with tx := (c.conn, pb, bs) :: s.safe.tx.filter (fun y => !(y.1 = c.conn && y.2.1 = pb)) } }
    let s := if makes.1 = some l then put s false else s
    if makes.2 = some l then put s true else s) s

end Sys2Proof.Machine
end

