-- ==== Sys2Proof/Machine/Pair.lean ====
section
/-! DEFINITION. The Jaran link and the pair (16): frames sent and accepted, full copies, the comparison of outputs, HEARTBEAT,
planned switches and takeover. The commands stand in Pairing.lean. -/
namespace Sys2Proof.Machine

/-! ### The link (R379 to R382) -/

/-- PAIR_ENABLE is set in the active bank (R382). -/
def pairEnabled (s : State) : Bool := s.bank.valid && s.bank.pair.enable
/-- The module is STANDBY (R375). -/
def standby (s : State) : Bool := !s.pair.controlling
/-- The pair exchanges every frame type: paired over a link that is up, with equal digests (R382). -/
def linked (s : State) : Bool := pairEnabled s && s.pair.up && s.pair.paired && !s.pair.incompatible

/-- A Jaran frame leaves, or several where its payload is longer than one takes (R380). -/
def jaranSend (s : State) (type flags : Nat) (payload : List Byte) : State :=
  if !pairEnabled s || !s.pair.up || !domainOn s 1 then s
  else
    (jaranPieces (payload.length / 16384) payload).foldl (fun s bs =>
      let n := s.pair.seqOut
      emit { s with pair := { s.pair with seqOut := n + 1 } } (.jaran (jaranFrame type flags n s.vote.harvest bs))) s

/-- The tasks of the program in force. -/
def progTasks (s : State) : List Nat := ((s.prog.map (fun p => p.tasks.map (·.task))).getD [])
/-- The non-constant pages of a task (R166). -/
def taskPages (s : State) (t : Nat) : List PairPage :=
  match taskProg s t with
  | some p => (p.pages.filter (fun d => d.task = t && d.space != 2)).map (fun d => { task := t, space := d.space, page := d.page })
  | none => []

/-- The mask of some tasks. -/
def taskMask (ts : List Nat) : Nat := (ts.map (fun t => 2 ^ t)).foldl (· + ·) 0

/-- RESYNC for some tasks (R387). -/
def sendResync (s : State) (ts : List Nat) : State := jaranSend s 8 0 (be16 (taskMask ts))

/-- The standby requests a full copy of some tasks: they are SYNCING; more than RESYNC_LIMIT requests in 3,600 s are FAILED
(R387, R389). -/
def requestCopy (s : State) (ts : List Nat) : State :=
  if s.pair.st = .failed || ts.isEmpty then s
  else
    let recent := s.pair.fullAt.filter (fun t => !elapsed s t 3600000000000) ++ [rawNow s]
    let s := setIrqIf { s with pair := { s.pair with fullAt := recent, resyncs := s.pair.resyncs + 1, hold := 0 } } (s.pair.st != .syncing) irqPair
    if s.bank.pair.resyncLimit < recent.length then raiseHub { s with pair := { s.pair with st := .failed } } 2 0xC009
    else
      let s := { s with pair := { s.pair with
        st := .syncing, syncing := s.pair.syncing.filter (fun t => !ts.contains t) ++ ts
        awaited := s.pair.awaited.filter (fun q => !ts.contains q.task) ++ ts.flatMap (taskPages s) } }
      sendResync s ts

/-- A frame with a correct CRC is accepted; a SEQ that is not the next one is a gap: the standby has lost frames of an unknown task
(R380, R387). -/
def acceptJaran (s : State) (h : JaranHead) : State :=
  let next := match s.pair.seqIn with
    | some n => n + 1
    | none => 0
  let s := { s with pair := { s.pair with seqIn := some h.seq } }
  if h.seq = next then s
  else
    let s := { s with pair := { s.pair with gaps := s.pair.gaps + 1 } }
    if standby s && linked s then requestCopy s (progTasks s) else s

/-- Codes of the pair states in PAIR_STATUS (R453). -/
def pairStateCode : PairState → Nat
  | .syncing => 0 | .synced => 1 | .lagging => 2 | .linkLost => 3 | .failed => 4

/-- A standby that may take control (R384); with the link lost it counts as it stood before (DEDUCED from R390, notes/assumptions
65). -/
def eligible (s : State) : Bool :=
  standby s && pairEnabled s && s.pair.paired && !s.pair.incompatible && voted s
    && (s.pair.st = .synced || (s.pair.st = .linkLost && s.pair.syncedAtLoss))

/-- The pair is INCOMPATIBLE from now on (R382, R394). -/
def makeIncompatible (s : State) : State :=
  if s.pair.incompatible then s
  else
    let s := abandonSwitch s
    setVote (setIrq (raiseHub { s with pair := { s.pair with incompatible := true, paired := false } } 2 0xC008) irqPair) 3 0

/-! ### Comparison of outputs (R388) -/

/-- A mismatch is seen: counted, recorded, named in the next HEARTBEAT; it breaks HOLDOFF and a planned switch (R388, R392,
R393). -/
def seeMismatch (s : State) : State :=
  abandonSwitch (raiseHub { s with pair := { s.pair with mismatch := true, mismatches := s.pair.mismatches + 1, hold := 0 } } 1 0xC004)

/-- The compare set of an own harvest and that of the partner's OUTPUT of the same release, once both are there (R388). -/
def compareOutputs (s : State) (t : Nat) : State :=
  let mine := s.pair.ours.find? (fun x => x.1 = t)
  let other := s.pair.theirs.find? (fun x => x.1 = t)
  match mine, other with
  | some x, some y =>
    if x.2.1 = y.2.1 then
      let s := { s with pair := { s.pair with
        ours := s.pair.ours.filter (fun z => z.1 ≠ t), theirs := s.pair.theirs.filter (fun z => z.1 ≠ t) } }
      if x.2.2 = y.2.2 then s else seeMismatch s
    else s
  | _, _ => s

/-- The standby's voted output of a harvest waits for the OUTPUT of its release (R388). -/
def offerOutput (s : State) (t : Nat) (f : LaneFrame) : State :=
  if !standby s || !linked s || s.pair.syncing.contains t then s
  else compareOutputs { s with pair := { s.pair with
    ours := (t, f.rel, f.words, f.lines) :: s.pair.ours.filter (fun z => z.1 ≠ t), oursAt := putKey t (rawNow s) s.pair.oursAt } } t

/-! ### Step 6 (R381, R386) -/

/-- The published groups that a task feeds (R309). -/
def fedGroups (p : Program) (t : Nat) : List SigGroup :=
  p.groups.filter (fun g => g.publish && p.binds.any (fun b => b.task = t && b.kind = 0x42
    && p.sigs.any (fun x => x.signal = b.id && x.group = g.group)))

/-- OUTPUT of a harvest: task, release count, compare set, and the SEQ values in use (R381). -/
def sendOutput (s : State) (t : Nat) (f : LaneFrame) : State :=
  match taskProg s t with
  | none => s
  | some p =>
    let gs := fedGroups p t
    let seqs := (gs.filter (fun g => g.carrier = 1)).filterMap (fun g =>
      (getKey g.group s.train.groupSeq).map (fun n => (BitVec.ofNat 32 g.group, n)))
    let coms := (gs.filter (fun g => g.carrier = 2)).filterMap (fun g =>
      (s.train.pdSeq.find? (fun x => x.1 = g.comId && x.2.1 = g.ip)).map (fun x => (g.comId, x.2.2 - 1)))
    jaranSend s 4 0 (outputBytes t f.rel f.words f.lines seqs coms)

/-- A page put behind those queued; one already queued keeps its place (R386). -/
def queuePage (q : List PairPage) (x : PairPage) : List PairPage := if q.contains x then q else q ++ [x]

/-- Step 6 of a harvest of the controlling member: its dirty pages queue for JARAN_COPY, and OUTPUT leaves (R22, R381, R386). -/
def pairStep6 (s : State) (t : Nat) (f : LaneFrame) (dirty : List (Nat × Nat)) : State :=
  if standby s || !linked s then s
  else
    let pages := (dirty.filter (fun d => d.1 != 2)).map (fun d => ({ task := t, space := d.1, page := d.2 } : PairPage))
    let s := { s with
      pair := { s.pair with queue := pages.foldl queuePage s.pair.queue }
      modu := { s.modu with step6 := s.modu.step6 ++ [(s.vote.harvest, t)] } }
    sendOutput s t f

/-- The newest contents of a page at rest in the first ACTIVE lane (R166, R386). -/
def newestPage (s : State) (q : PairPage) : List QWord :=
  match (activeLanes s).head? with
  | some l =>
    let c := (laneTask s l q.task).cyc
    restPage (lane s l).pages q.task q.space q.page (if c.active then c.rel - 1 else c.rel).toNat
  | none => []

/-- The budget of a task in ns: half of PERIOD on AX0, else of DEADLINE (R386). -/
def pairTime (d : TaskDef) : Nat := (if d.source = 1 then d.period.toNat else d.deadline.toNat * 1000) / 2
/-- The pages that leave within the budget of a task, at 500 MB/s (R386). -/
def pairBudget (d : TaskDef) : Nat := pairTime d / 2 / 1152

/-- The queue after a budget: LAGGING while pages are carried, SYNCED again when none is (R386). -/
def carryState (s : State) : State :=
  if s.pair.queue.isEmpty then
    (if s.pair.st = .lagging then setIrq { s with pair := { s.pair with st := .synced } } irqPair else s)
  else if s.pair.st = .synced then setIrq (raiseHub { s with pair := { s.pair with st := .lagging } } 1 0xC005) irqPair
  else s

/-- JARAN_COPY: the pages of the oldest harvest that waits for step 6, within its budget (R386). -/
def copyPages (s : State) : State :=
  match s.modu.step6 with
  | [] => s
  | (_, t) :: rest =>
    let s := { s with modu := { s.modu with step6 := rest } }
    if standby s || !linked s then s
    else
      let n := match taskDef s t with
        | some d => pairBudget d
        | none => 0
      let now := s.pair.queue.take n
      let s := { s with pair := { s.pair with queue := s.pair.queue.drop n } }
      let s := now.foldl (fun s q =>
        let gen := ((hubTask s q.task).generation).getD 0
        jaranSend s 5 0 (pageBytes q.task q.space q.page gen (newestPage s q))) s
      carryState s

/-! ### HEARTBEAT and HELLO (R381) -/

/-- The module's own HEARTBEAT (R381). -/
def ownBeat (s : State) : HeartbeatMsg :=
  { controlling := s.pair.controlling && s.pair.roleTaken, epoch := s.pair.epoch, mode := modeCode s.modu.mode
    lanes := BitVec.ofNat 3 (laneMask (activeLanes s)), latchesClear := !latchesSet s, pairState := pairStateCode s.pair.st
    eligible := eligible s, mismatch := s.pair.mismatch, vote := s.bank.pair.partnerVote }

/-- The digests of the active image and the active bank, zero where there is none (R202, R381). -/
def ownDigests (s : State) : List Byte × List Byte :=
  ((match s.xch.imgSlot with
    | some k => slotRead s true k 24 32
    | none => List.replicate 32 0),
   (match s.xch.bankSlot with
    | some k => slotRead s false k 24 32
    | none => List.replicate 32 0))

/-- HELLO leaves while the pair is not paired (R381). -/
def sendHello (s : State) : State :=
  if s.pair.paired then s
  else
    let d := ownDigests s
    jaranSend s 1 0 (helloBytes
      { primary := s.pair.primary, controlling := s.pair.controlling && s.pair.roleTaken, epoch := s.pair.epoch
        mode := modeCode s.modu.mode, fil := 3, imageDigest := d.1, bankDigest := d.2 })

/-! ### Planned switches (R392, R393) -/

/-- SWITCH leaves with a release of T0 at least two periods ahead (R392). -/
def proposeSwitch (s : State) (reason : Nat) (mb : Option Mb) : State :=
  if s.pair.switch.isSome then s
  else
    let rel := (s.tim.gens.getD 0 {}).count + 3
    jaranSend { s with pair := { s.pair with
      switch := some { rel := rel, reason := reason, acked := false, incoming := standby s, mb := mb, at_ := rawNow s } } } 6 0
      (beWord rel ++ [BitVec.ofNat 8 reason])

/-- The decision of R388 in the standby, taken with its HEARTBEAT: a full copy, unless it is not eligible or the controlling member
yields. -/
def decideStandby (s : State) : State :=
  match s.pair.beat with
  | some m =>
    if !eligible s || (m.mode = 3 && s.modu.mode = .voted3) || m.mode < 2 || 3 < m.mode then s else requestCopy s (progTasks s)
  | none => s

/-- Step 8 of a harvest of T0: HOLDOFF counts, the return of the PRIMARY is proposed, a lost RESYNC is sent again, and HEARTBEAT leaves
(R381, R387, R388, R393). -/
def pairStep8 (s : State) : State :=
  if !pairEnabled s || s.pair.strapConflict then s
  else
    let holds := standby s && linked s && s.pair.primary && s.bank.pair.autoReturn && s.modu.mode = .voted3 && s.pair.st = .synced
      && !s.pair.mismatch
    let s := { s with pair := { s.pair with hold := if holds then s.pair.hold + 1 else 0 } }
    let s := if holds && s.bank.pair.holdoff ≤ s.pair.hold then proposeSwitch s 1 none else s
    let lost := s.pair.syncing.filter (fun t =>
      let all := taskPages s t
      !all.isEmpty && (s.pair.awaited.filter (fun q => q.task = t)).length = all.length)
    let s := if standby s && linked s && !lost.isEmpty then sendResync s lost else s
    let bad := s.pair.mismatch
    let s := jaranSend s 2 0 ((beatWords (ownBeat s)).flatMap beWord)
    let s := { s with pair := { s.pair with mismatch := false } }
    if bad && standby s && linked s then decideStandby s else s

/-! ### Takeover (R383, R390, R391) -/

/-- The standby takes control (R391): EPOCH rises, its kept drive starts off, and T0 is released at this lattice point. -/
def takeControl (s : State) : State :=
  let s := dropDrive s
  let s := { s with pair := { s.pair with
    controlling := true, roleTaken := true, epoch := s.pair.epoch + 1, takeovers := s.pair.takeovers + 1, missed := 0
    fresh := progTasks s, ours := [], theirs := [], awaited := [], syncing := [], queue := [], switch := none, hold := 0 } }
  let s := pump (voteAll (setIrq (raiseHub s 2 0xC006) irqPair))
  let ax := match taskDef s 0 with
    | some d => d.source - 1
    | none => 0
  if lanesTakeReleases s && !(hubTask s 0).inFlight then fireRelease s 0 ax else s

/-- Flovis DATA of the pair has been accepted since a moment (R390). -/
def pairDataSince (s : State) (t : Nat) : Bool := s.net.pairData.any (fun x => decide (t ≤ x))

/-- Both members report CONTROLLING: the lower EPOCH, or with equal ones the SECONDARY, becomes STANDBY; with equal straps neither may
control (R383). -/
def resolveConflict (s : State) (epoch : Word) (otherPrimary : Bool) : State :=
  let yield_ := s.pair.epoch.ult epoch || (s.pair.epoch = epoch && !s.pair.primary)
  if s.pair.epoch = epoch && s.pair.primary = otherPrimary then
    if s.pair.strapConflict then s
    else setVote (voteAll (setIrq (raiseHub { s with pair := { s.pair with strapConflict := true, incompatible := true, paired := false } } 2
      0xC00B) irqPair)) 3 0
  else if yield_ then
    let s := { abandonSwitch s with pair := { (abandonSwitch s).pair with controlling := false, epoch := epoch, fresh := [], queue := [] } }
    requestCopy (voteAll (setIrq (raiseHub s 2 0xC00A) irqPair)) (progTasks s)
  else s

/-- The role taken at bring-up from the first sign of the partner (R383). -/
def takeRole (s : State) (controlling : Bool) (epoch : Word) (otherPrimary : Option Bool) : State :=
  if s.pair.roleTaken || s.modu.mode = .bringup || s.pair.strapConflict then s
  else
    let role := fun (c : Bool) => setIrq { s with pair := { s.pair with
      roleTaken := true, controlling := c, epoch := if controlling then epoch else s.pair.epoch } } irqPair
    if controlling then role false
    else if otherPrimary = some s.pair.primary then
      setIrq (raiseHub { s with pair := { s.pair with strapConflict := true, incompatible := true } } 2 0xC00B) irqPair
    else role s.pair.primary

end Sys2Proof.Machine
end

