-- ==== Sys2Proof/Machine/Checkpoint.lean ====
section
/-! DEFINITION. Checkpoints (R166 to R170), the signature window (R161), catch-up of a rejoining lane (R173), and the retained
store (R149 to R151). -/
namespace Sys2Proof.Machine

/-! ### The signature window (R161) -/

/-- A window of a task ends: the next harvest has WPOS 1, RUN_SIG and RUN_COUNT return to zero, and VOTE_WINDOW is taken
(R161, R215). -/
def endWindow (s : State) (t : Nat) : State :=
  let w := s.bank.modu.window
  let s := modTask s t (fun h => { h with wpos := 1, window := w })
  modLanes s (fun _ x => { x with tasks := upd x.tasks t (fun lt => { lt with wpos := 1, runSig := 0, runCount := 0 }) })

/-- The window of a task goes on. -/
def nextWpos (s : State) (t : Nat) : State :=
  let s := modTask s t (fun h => { h with wpos := h.wpos + 1 })
  modLanes s (fun _ x => { x with tasks := upd x.tasks t (fun lt => { lt with wpos := lt.wpos + 1 }) })

/-! ### The store (R167) -/

/-- A page written to its non-agreed slot and made the agreed one. -/
def storeAgreed (xs : List StorePage) (t space page : Nat) (ws : List QWord) : List StorePage :=
  if xs.any (fun x => x.task = t && x.space = space && x.page = page) then
    xs.map (fun x =>
      if x.task = t ∧ x.space = space ∧ x.page = page then
        if x.agreed = 0 then { x with slot1 := ws, agreed := 1 } else { x with slot0 := ws, agreed := 0 }
      else x)
  else xs ++ [{ task := t, space := space, page := page, slot0 := ws, slot1 := ws, agreed := 0 }]

/-- The agreed contents of a page. -/
def StorePage.contents (x : StorePage) : List QWord := if x.agreed = 0 then x.slot0 else x.slot1

/-- The pages of a task as the store gives them to a lane, over those of a program load, which keep the constant pages (R66, R166,
R171). -/
def loadFromStore (s : State) (p : Program) (t : Nat) : List LanePage :=
  (s.vote.store.filter (fun x => x.task = t)).foldl (fun ps x => setPage ps t x.space x.page x.contents) (p.loadTask t)

/-- A task of a lane loaded from its agreed checkpoint, in the version that it was taken in (R171, R173, R223). -/
def loadLaneTask (s : State) (l : Lane) (t : Nat) : State :=
  let new := (hubTask s t).ckptNew && s.progNew.isSome
  match laneProg s new with
  | none => s
  | some p =>
    let w := (hubTask s t).wpos
    let s := modLane s l (fun x => { x with
      pages := x.pages.filter (fun q => q.task ≠ t) ++ loadFromStore s p t
      tasks := upd x.tasks t (fun _ => { newVer := new, wpos := w, loaded := true }) })
    { s with conns := s.conns.mod l (fun xs => xs.filter (fun c => c.task ≠ t) ++ s.safe.ckpt.filter (fun c => c.task = t)) }

/-! ### Taking a checkpoint (R168) -/

/-- A checkpoint of a task is complete: the page table switches, and the generation is recorded (R168). A rejoining lane that
catches up with it is caught up unless the task has been released meanwhile (DEDUCED, notes/assumptions 68). -/
def finishCkpt (s : State) (c : Ckpt) : State :=
  let store := c.done.foldl (fun xs d => storeAgreed xs c.task d.1 d.2.1 d.2.2) s.vote.store
  let s := { s with
    vote := { s.vote with store := store, ckpts := s.vote.ckpts.filter (fun x => x.task ≠ c.task) }
    safe := { s.safe with ckpt := s.safe.ckpt.filter (fun x => x.task ≠ c.task) ++ c.conns } }
  let s := modTask s c.task (fun h => { h with generation := some c.gen, ckptNew := c.newVer })
  match c.catchUp with
  | some l =>
    if (s.tim.gens.getD c.task {}).count = c.rel && (lane s l).st = .rejoining then
      let lines := (laneTask s c.source c.task).dirtyLines
      modLaneTask (loadLaneTask s l c.task) l c.task (fun lt => { lt with caughtUp := true, dirtyLines := lines })
    else s
  | none => s

/-- The ACTIVE lanes list the pages of a task that are dirty since its last checkpoint, each its own with their CRCs, and the first of them
is the source (R168). -/
def startCkpt (s : State) (t : Nat) (catchUp : Option Lane) : State :=
  match (activeLanes s).head? with
  | none => s
  | some src =>
    let rel := (laneTask s src t).cyc.rel
    let at_ := fun (l : Lane) (d : Nat × Nat) => restPage (lane s l).pages t d.1 d.2 rel.toNat
    let listed := fun (l : Lane) => (laneTask s l t).dirtyPages.filter (fun d => d.1 != 2)
    let dirty := (activeLanes s).foldl (fun ds l => (listed l).foldl addNew ds) []
    let page := fun (d : Nat × Nat) =>
      let ws := (activeLanes s).map (fun l => (l, at_ l d))
      ({ space := d.1, page := d.2, words := ws
         crcs := (ws.filter (fun x => (listed x.1).contains d)).map (fun x => (x.1, pageCrc d.1 x.2)) } : CkptPage)
    let c : Ckpt :=
      { task := t, rel := (s.tim.gens.getD t {}).count, gen := s.vote.harvest, source := src, act := activeLanes s, todo := dirty.map page
        catchUp := catchUp, newVer := (hubTask s t).switched, conns := (s.conns.get src).filter (fun x => x.task = t) }
    let s := modLanes s (fun _ x => { x with tasks := upd x.tasks t (fun lt => { lt with dirtyPages := [] }) })
    if c.todo.isEmpty then finishCkpt s c else { s with vote := { s.vote with ckpts := s.vote.ckpts ++ [c] } }

/-- A lane that has loaded and waits to be caught up for a task (R173). -/
def waitsFor (s : State) (l : Lane) (t : Nat) : Bool :=
  let x := lane s l
  x.st = .rejoining && !s.vote.restarting && x.stage = .catchUp && !(laneTask s l t).caughtUp

/-- The tasks that either program in force has. -/
def allTasks (s : State) : List Nat := (newTasks s).foldl addNew (progTasks s)

/-- The catch-up of a task for a rejoining lane begins where the task is at rest, no checkpoint of it runs, and the module is in a
voted mode: the ACTIVE lanes take a checkpoint, which ends the window (R161, R173). -/
def catchUps (s : State) (t : Nat) : State :=
  if !voted s || standby s || (hubTask s t).inFlight || s.vote.ckpts.any (fun c => c.task = t) || !(progTasks s ++ newTasks s).contains t
  then s
  else
    match allLanes.find? (fun l => waitsFor s l t) with
    | some l => startCkpt (endWindow s t) t (some l)
    | none => s

/-- A checkpoint is abandoned: its pages are dirty again for the next one (R169, R170). -/
def abandonCkpt (s : State) (c : Ckpt) : State :=
  let pages := c.todo.map (fun d => (d.space, d.page)) ++ c.done.map (fun d => (d.1, d.2.1))
  let s := { s with vote := { s.vote with ckpts := s.vote.ckpts.filter (fun x => x.task ≠ c.task) } }
  modLanes s (fun _ x => { x with tasks := upd x.tasks c.task (fun lt => { lt with
    dirtyPages := pages.foldl (fun ds d => addNew ds d) lt.dirtyPages }) })

/-- The record of a checkpoint abandoned or of a CRC difference (R169, R455). -/
def ckptRecord (s : State) (sev t : Nat) : State := raiseHub s sev 0x2005 t 0 0 (if sev = 3 then 3 else 2)

/-- The checkpoint of a task replaced. -/
def putCkpt (s : State) (c : Ckpt) : State :=
  { s with vote := { s.vote with ckpts := s.vote.ckpts.map (fun x => if x.task = c.task then c else x) } }

/-- The lanes that sent a list and are still ACTIVE: a lane admitted since the lists were made has no part in it (R168, R169). -/
def listedLanes (s : State) (c : Ckpt) : List Lane := (activeLanes s).filter (fun l => c.act.contains l)

/-- The CRC that a lane listed for a page; none where it did not list the page. -/
def CkptPage.crcOf (d : CkptPage) (l : Lane) : Option Word := (d.crcs.find? (fun x => x.1 = l)).map (·.2)

/-- A page that arrived whole is judged by the listed CRCs of the ACTIVE lanes (R169): accepted; a lane alone excluded; otherwise
SAFE. A source that is itself the lane alone is excluded, and the page comes from the next lane; a lane that did not list a page differs
from those that did, and a page that only the lane alone listed is not written (DEDUCED, notes/assumptions 68). -/
def judgePage (s : State) (c : Ckpt) (d : CkptPage) (rest : List CkptPage) : State :=
  let act := listedLanes s c
  let same := fun (l : Lane) => (act.filter (fun k => d.crcOf k = d.crcOf l)).length
  let from_ := act.find? (fun l => act.length = 1 || 2 ≤ same l)
  match from_ with
  | some src =>
    if act.length ≤ 2 && act.any (fun l => d.crcOf l != d.crcOf src) then enterSafe (ckptRecord s 3 c.task)
    else
      let ws := ((d.words.find? (fun x => x.1 = src)).map (·.2)).getD []
      let kept := if (d.crcOf src).isSome then [(d.space, d.page, ws)] else []
      let c := { c with source := src, todo := rest, done := c.done ++ kept, retried := false }
      let s := putCkpt s c
      let s := (act.filter (fun l => d.crcOf l != d.crcOf src)).foldl (fun s l => excludeLane s l 0x2001 0) s
      if !(s.vote.ckpts.any (fun x => x.task = c.task)) then s
      else if rest.isEmpty then catchUps (finishCkpt s c) c.task else s
  | none => enterSafe (ckptRecord s 3 c.task)

/-- The rejoining lane whose catch-up CRC of a page differs returns to EXCLUDED (R173). -/
def failCatchUp (s : State) (c : Ckpt) : State :=
  match c.catchUp with
  | some l => if (lane s l).st = .rejoining then failRejoin s l 0x2005 c.task else s
  | none => s

/-- A lane sends the pages of a checkpoint that it is the source of: a commit of the task to one of them waits (R168). -/
def pageWaits (s : State) (l : Lane) (t : Nat) (pages : List (Nat × Nat)) : Bool :=
  s.vote.ckpts.any (fun c => c.task = t && c.source = l && c.todo.any (fun d => pages.contains (d.space, d.page)))

/-- The pages that a commit waits for leave out of turn (R168). -/
def sendFirst (s : State) (t : Nat) (pages : List (Nat × Nat)) : State :=
  let first := fun (d : CkptPage) => pages.contains (d.space, d.page)
  { s with vote := { s.vote with ckpts := s.vote.ckpts.map (fun c =>
    if c.task = t then { c with todo := c.todo.filter first ++ c.todo.filter (fun d => !first d) } else c) } }

/-- CHECKPOINT_PAGE: the page at the front of the oldest checkpoint arrives (R169); damaged on its link, it is requested once more
from the next ACTIVE lane. -/
def takePage (s : State) (fate : PageFate) : State :=
  match s.vote.ckpts with
  | [] => s
  | c :: _ =>
    match c.todo with
    | [] => finishCkpt s c
    | d :: rest =>
      let s := if fate = .catchUpDiffers then failCatchUp s c else s
      let c := if fate = .catchUpDiffers then { c with catchUp := none } else c
      if fate = .damaged then
        if c.retried then ckptRecord (abandonCkpt s c) 1 c.task
        else putCkpt s { c with retried := true, source := ((listedLanes s c).find? (fun l => l ≠ c.source)).getD c.source }
      else judgePage s c d rest

/-- CHECKPOINT_PAGE (R169). -/
def execCheckpointPage (fate : PageFate) (s : State) : Host.Outcome State Fault Refusal := .next (takePage s fate)

/-! ### The retained store (R148 to R151) -/

/-- Where a retained buffer lies in MRAM (R21). -/
def retainedBase (k : Nat) : Nat := 0x01800000 + k * 0x200000

/-- The page directory of a program: the keys of its retained pages; unused entries are all ones (R149). -/
def Program.directory (p : Program) : List Word :=
  let keys := (p.pages.filter (fun d => d.retained)).map (·.key)
  keys ++ List.replicate (1792 - keys.length) 0xFFFFFFFF

/-- The header of a buffer up to its CRC (R149). -/
def retHeader (seq : DWord) (pages : Nat) : List Byte := beWord 0x5245544E ++ beDWord seq ++ beWord (BitVec.ofNat 32 pages) ++ zeros 12

/-- The sequence of a buffer where it is valid: magic and CRC check and the sequence is nonzero (R151). -/
def retSeq (s : State) (k : Nat) : Option DWord :=
  let bs := memReads s.xch.mram (retainedBase k) (32 + 7168)
  let seq := getDWord bs 4
  if getWord bs 0 = 0x5245544E && getWord bs 28 = crc32c (bs.take 28 ++ bs.drop 32) && seq != 0 then some seq else none

/-- The directory that stands in a buffer. -/
def retDirOf (s : State) (k : Nat) : List Word := toWords (memReads s.xch.mram (retainedBase k + 32) 7168)

/-- The offset of a line in a buffer: 72 bytes a line, 16 lines a page, pages in directory order (R149). -/
def retLineAt (k d line : Nat) : Nat := retainedBase k + 0x2000 + 72 * (16 * d + line)

/-- The nibble bytes of a line, high nibble first (R149). -/
def lineNibbles (ws : List QWord) : List Byte := (nibbleWords 2 ws).flatMap beWord

/-- The 72 bytes of a line (R149). -/
def retLineImage (r : RetLine) : List Byte := r.words.flatMap (fun w => beWord w.v) ++ lineNibbles r.words

/-- A line read from a buffer. -/
def readRetLine (s : State) (k d line : Nat) : List QWord :=
  let bs := memReads s.xch.mram (retLineAt k d line) 72
  (List.range 16).map (fun j => { v := getWord bs (4 * j), q := BitVec.ofNat 4 (getByte bs (64 + j / 2) / (if j % 2 = 0 then 16 else 1)) })

/-- A voted line is dirty for both buffers (R150). -/
def addRetLine (l : List (RetLine × Bool × Bool)) (r : RetLine) : List (RetLine × Bool × Bool) :=
  l.filter (fun x => !(x.1.key = r.key && x.1.line = r.line)) ++ [(r, true, true)]

/-- Step 5 of a harvest: its voted lines wait for RETAINED_WRITE (R22, R150). -/
def retainedStep5 (s : State) (lines : List RetLine) : State :=
  let v := s.vote
  let dirty := lines.foldl addRetLine v.retDirty
  { s with vote := { v with retDirty := dirty, retDue := v.retDue || !dirty.isEmpty || v.retDir0 || v.retDir1 } }

/-- The place in the directory of a line that is dirty for buffer k. -/
def dirtyIn (k : Nat) (keys : List Word) (x : RetLine × Bool × Bool) : Option Nat :=
  if (if k = 0 then x.2.1 else x.2.2) then keys.findIdx? (· = x.1.key) else none

/-- The directory of buffer k is out of date. -/
def directoryDue (s : State) (k : Nat) : Bool := if k = 0 then s.vote.retDir0 else s.vote.retDir1

/-- The lines that are dirty for buffer k written to their places, by the pages of the directory (R150). -/
def writeLines (m : List Host.Cell) (k : Nat) (keys : List Word) : List (RetLine × Bool × Bool) → List Host.Cell
  | [] => m
  | x :: xs =>
    match dirtyIn k keys x with
    | some d => writeLines (memWrites m (retLineAt k d x.1.line) (retLineImage x.1)) k keys xs
    | none => writeLines m k keys xs

/-- MRAM with buffer k written: its header is invalid while the lines and the directory are written, and comes last (R150). -/
def writtenBuffer (s : State) (p : Program) (k : Nat) (keys : List Word) : List Host.Cell :=
  let seq := ((retSeq s s.vote.retActive).getD 0) + 1
  let dir := beWords p.directory
  let head := retHeader seq keys.length
  let m := writeLines (memWrites s.xch.mram (retainedBase k + 4) (zeros 8)) k keys s.vote.retDirty
  let m := if directoryDue s k then memWrites m (retainedBase k + 32) dir else m
  memWrites m (retainedBase k) (head ++ beWord (crc32c (head ++ dir)))

/-- RETAINED_WRITE: the inactive buffer takes the lines that are dirty for it, the directory where it has changed, and a header with
the sequence one above the other buffer's; then it is the active one (R150). -/
def writeRetained (s : State) : State :=
  let v := s.vote
  match s.prog with
  | none => s
  | some p =>
    let keys := (p.pages.filter (fun d => d.retained)).map (·.key)
    if !v.retDue || keys.isEmpty then s
    else
      let k := 1 - v.retActive
      let left := (v.retDirty.map (fun x => if k = 0 then (x.1, false, x.2.2) else (x.1, x.2.1, false))).filter (fun x => x.2.1 || x.2.2)
      { modMram s (fun _ => writtenBuffer s p k keys) with
        vote := { v with
          retDirty := left, retDue := false, retActive := k, retDir0 := v.retDir0 && k != 0, retDir1 := v.retDir1 && k = 0 } }

end Sys2Proof.Machine
end

