-- ==== Sys2Proof/Machine/Harvest.lean ====
section
/-! DEFINITION. Frames at the comparators (R152, R155 to R157), the comparison of verdict vectors (R162, R163), and the harvest (R22,
R27, R118, R135, R158, R159). -/
namespace Sys2Proof.Machine

/-! ### Votes (R152, R155, R157) -/

/-- The vote of a party for a task. -/
def voteAt (s : State) (p : Party) (t : Nat) : Option Vote := s.vote.votes.find? (fun v => v.party = p && v.task = t)
/-- The vote of a party for a task changed. -/
def modVote (s : State) (p : Party) (t : Nat) (f : Vote → Vote) : State :=
  { s with vote := { s.vote with votes := s.vote.votes.map (fun v => if v.party = p ∧ v.task = t then f v else v) } }

/-- The voting lanes of a release: those that were ACTIVE at it and still are (R152, R157). -/
def voters (s : State) (v : Vote) : List Lane := (activeLanes s).filter (fun l => v.act.contains l)

/-- A lane whose frames of a task are compared though it does not vote: DEBUG, or REJOINING and caught up (R173, R178). -/
def shadows (s : State) (l : Lane) (t : Nat) : Bool :=
  let x := lane s l
  x.st = .debug || (x.st = .rejoining && !s.vote.restarting && (laneTask s l t).caughtUp)

/-- Two frames are equal for a party: byte by byte of the compare set, except that a unit compares the frames of two other lanes by
their CRC-32C (R156, R157). -/
def framesEqual (p : Party) (f g : LaneFrame) : Bool :=
  let x := frameBytes f false
  let y := frameBytes g false
  match p with
  | .hub => x = y
  | .unit l => if f.lane = l || g.lane = l then x = y else crc32c x = crc32c y

/-- The verdict of a party on a lane, from its valid frames and the lanes that vote (R157). -/
def verdictAmong (p : Party) (frames : List (Lane × LaneFrame)) (act : List Lane) (alone : Bool) (l : Lane) : Verdict :=
  match frames.find? (fun x => x.1 = l) with
  | none => .absent
  | some (_, f) =>
    if alone || (frames.filter (fun x => x.1 ≠ l && act.contains x.1)).any (fun x => framesEqual p f x.2) then .agree else .differ

/-- The verdict on a lane (R157). With BENCH the single ACTIVE lane counts as a majority (R177). -/
def verdictOf (s : State) (v : Vote) (l : Lane) : Verdict :=
  verdictAmong v.party v.frames (voters s v) (voters s v = [l] && s.bank.modu.bench) l

/-- The verdict vector of a vote (R157, R162). -/
def vectorOf (s : State) (v : Vote) : Vector3 :=
  { v := ⟨verdictOf s v .a, verdictOf s v .b, verdictOf s v .c⟩
    slot := ⟨v.slotBad.contains .a, v.slotBad.contains .b, v.slotBad.contains .c⟩
    near := ⟨v.near.contains .a, v.near.contains .b, v.near.contains .c⟩ }

/-- A valid frame of every ACTIVE lane has arrived (R152). -/
def allIn (s : State) (v : Vote) : Bool :=
  !(voters s v).isEmpty && (voters s v).all (fun l => v.slotBad.contains l || v.frames.any (fun x => x.1 = l))

/-! ### The comparison of vectors (R162, R163) -/

/-- The parties whose vectors are compared: the hub voter and the units of the voting lanes. -/
def votingParties (s : State) (t : Nat) : List Party :=
  .hub :: (match voteAt s .hub t with
    | some v => (voters s v).map .unit
    | none => [])

/-- A verdict in the record of an exclusion (DESIGN CHOICE, notes/assumptions 69). -/
def verdictCode : Verdict → Nat
  | .agree => 0 | .differ => 1 | .absent => 2

/-- The four verdict vectors in ARG0 of event 0x2 0x001: one byte a party, the hub's highest; two bits a lane, Lane A lowest; 3 where
there is none. -/
def vectorsWord (s : State) (t : Nat) : Nat :=
  let byte := fun (p : Party) =>
    match (voteAt s p t).bind (fun v => v.vector) with
    | some x => 0xC0 + verdictCode x.v.a + 4 * verdictCode x.v.b + 16 * verdictCode x.v.c
    | none => 0xFF
  allParties.foldl (fun n p => n * 256 + byte p) 0

/-- What the comparison of the vectors finds (R162). -/
structure Findings where
  splits : Nat
  faulty : List Lane
  hubFault : Bool
  leave : List Lane
  deriving DecidableEq, Repr

/-- The vectors of a release compared (R162): near-deadline splits and slot-attributed verdicts set aside; units that differ from
what the others share; a hub voter that differs from what the units share; lanes that two other parties name. -/
def compareVectors (s : State) (vs : List Vote) : Findings :=
  let act := match vs with
    | v :: _ => voters s v
    | [] => []
  let vecs := vs.filterMap (fun v => v.vector.map (fun x => (v.party, x)))
  let slotted := fun (l : Lane) => vecs.any (fun x => x.1 = .hub && x.2.slot.get l)
  let split := fun (l : Lane) =>
    !slotted l && vecs.any (fun x => x.2.v.get l = .agree) && vecs.any (fun x => x.2.v.get l = .absent)
      && vecs.all (fun x => x.2.v.get l = .absent || (x.2.v.get l = .agree && x.2.near.get l))
  let sig := fun (x : Party × Vector3) => (act.filter (fun l => !slotted l && !split l)).map (fun l => x.2.v.get l)
  let units := vecs.filter (fun x => x.1 ≠ .hub)
  let outvoted := fun (x : Party × Vector3) =>
    decide (3 ≤ vecs.length) && (match (vecs.filter (fun y => y.1 ≠ x.1)).map sig with
      | o :: r => r.all (fun y => y = o) && o != sig x
      | [] => false)
  let stalled := fun (p : Party) => vs.any (fun v => v.party = p && v.stalled)
  let faulty := act.filter (fun l => stalled (.unit l) || units.any (fun x => x.1 = .unit l && outvoted x))
  let hubOut := match units with
    | u :: r => !r.isEmpty && r.all (fun y => sig y = sig u) && vecs.any (fun x => x.1 = .hub && sig x != sig u)
    | [] => false
  let named := fun (l : Lane) => decide (2 ≤ (vecs.filter (fun x => x.1 ≠ .unit l && x.2.v.get l != .agree)).length)
  { splits := (act.filter split).length, faulty := faulty, hubFault := stalled .hub || hubOut
    leave := act.filter (fun l => named l || faulty.contains l) }

/-- Once every voting party has its vector or has stalled, the vectors are compared and the consequences taken (R158, R162, R163,
R175). -/
def judge (s : State) (t : Nat) : State :=
  let vs := (votingParties s t).filterMap (fun p => voteAt s p t)
  if !inService s || vs.length != (votingParties s t).length || vs.any (fun v => v.judged)
      || !vs.all (fun v => v.vector.isSome || v.stalled) then s
  else
    let f := compareVectors s vs
    let arg := vectorsWord s t
    let s := allParties.foldl (fun s p => modVote s p t (fun v => { v with judged := true })) s
    let s := { s with vote := { s.vote with splits := s.vote.splits + f.splits } }
    let s := f.faulty.foldl (fun s l => raiseHub s 2 0x2003 (partyNum (.unit l))) s
    if f.hubFault then
      let s := { s with modu := { s.modu with hubFaultLines := s.modu.hubFaultLines + activeCount s } }
      raiseHub (enterSafe s (laneMask f.leave)) 3 0x2003 (partyNum .hub) 0 0 3 true
    else if (activeCount s ≤ 2 && !f.leave.isEmpty) || 2 ≤ f.leave.length then enterSafe s (laneMask f.leave)
    else f.leave.foldl (fun s l => excludeLane s l 0x2001 arg) s

/-! ### Step 3 (R118, R119, R135, R159) -/

/-- A word of an output binding in a frame. -/
def outWord (p : Program) (t : Nat) (b : Binding) (f : LaneFrame) (j : Nat := 0) : QWord := f.words.getD (p.outputPos t b + j) ⟨0, 8⟩

/-- Step 3 in an ACTIVE lane (R159): its gate follows its own frame's verdict in its own unit; it sends its drive frame, and with the
gate open produces its safe telegrams. In the outgoing member of a planned switch the gate of a switching release stays closed
(R392). -/
def laneStep3 (s : State) (l : Lane) (t : Nat) : State :=
  match laneTaskProg s l t, voteAt s (.unit l) t with
  | some p, some v =>
    let f := (v.frames.find? (fun x => x.1 = l)).map (·.2)
    let ok := v.vector.any (fun x => x.v.get l = .agree) && !(standby s && s.pair.fresh.contains t)
    let cmds := ((p.outputs t).filter (fun b => b.kind = 0x41 && mayWrite s t b)).map (fun b =>
      (b.id.toNat, ((f.map (fun f => (outWord p t b f).v)).getD 0)))
    let s := sendDrive (keepDrive s l cmds ok) l
    let s := modLaneTask s l t (fun lt => { lt with frame := none })
    if ok then produceSafe s l p t ((f.map (·.words)).getD []) else s
  | _, _ => s

/-- What the request words of a harvest ask for (R118). -/
structure Requests where
  arms : List (Nat × Nat × DWord × DWord) := []
  cancels : List Nat := []
  groups : List Nat := []
  records : List Nat := []
  refs : List (Nat × Nat) := []
  /-- Words still without a reference since a program switch. -/
  noRef : List Nat := []
  deriving DecidableEq, Repr

/-- The request words of a harvest (R118, R119): a usable word whose count differs from its reference acts once; at the first harvest
after a program switch nothing acts, and a word without a usable count there takes its first usable one as reference; before the first
harvest the reference is the layout's count. The values of an arm come from the
lane whose frame was voted, whose signature covers them (DEDUCED, notes/assumptions 70). -/
def requestsOf (s : State) (t : Nat) (p : Program) (f : LaneFrame) : Requests :=
  let h := hubTask s t
  let reqs := (p.outputs t).filter (fun b => b.kind = 0x44 || b.kind = 0x45 || b.kind = 0x49)
  reqs.foldl (fun r b =>
    let w := outWord p t b f
    if !qUsable w.q then r
    else
      let count := w.v.toNat / 65536
      let arg := w.v.toNat % 65536
      let ref := (getKey b.index h.refs).getD ((p.layoutWord t b.index).v.toNat / 65536)
      let r := { r with refs := putKey b.index count r.refs, noRef := r.noRef.filter (· ≠ b.index) }
      if h.firstAfterSwitch || h.noRef.contains b.index || ref = count || !mayWrite s t b then r
      else if b.kind = 0x45 then { r with groups := r.groups ++ [arg % 1024] }
      else if b.kind = 0x49 then { r with records := r.records ++ [arg % 256] }
      else
        match p.insts.find? (fun i => i.task = t && i.out = b.index) with
        | some i =>
          if i.op = 0x83 then
            let x := fun (j : Nat) => (readWord (lane s f.lane).pages t 0 (i.out + j) f.rel.toNat).v
            { r with arms := r.arms ++ [(arg % 64, arg, join64 (x 1) (x 2), join64 (x 3) (x 4))] }
          else { r with cancels := r.cancels ++ [arg % 64] }
        | none => r) { refs := h.refs, noRef := h.noRef }

/-- A mailbox slot is published (R121, R444). -/
def publishSlot (s : State) (n : Nat) (w : QWord) : State :=
  let x := s.hp.slots.getD n {}
  if x.val = w.v && x.q = w.q then s
  else setIrq { s with hp := { s.hp with
    slots := upd s.hp.slots n (fun x => { x with val := w.v, q := w.q }), mbxChg := s.hp.mbxChg ||| (1#16 <<< n) } } irqMbx

/-- A published signal, a sound control, a power vote or a mailbox slot takes its voted words (R120, R121, R135, R259, R263). -/
def applyOutput (s : State) (t : Nat) (p : Program) (f : LaneFrame) (b : Binding) : State :=
  let w := outWord p t b f
  if !mayWrite s t b then s
  else
    match b.kind with
    | 0x42 => { s with train := { s.train with
        pubs := putKey b.id ((List.range (p.width b)).map (fun j => outWord p t b f j)) s.train.pubs } }
    | 0x46 => if domainOn s 6 then modMix s b.id.toNat (fun m => { m with want := gainOfReal w.v }) else discardWrite s
    | 0x47 => if domainOn s 6 then setRun s b.id.toNat (w.v.getLsbD 0) else discardWrite s
    | 0x48 => setVote s (4 + t) (w.v.setWidth 8)
    | 0x4A => publishSlot s b.id.toNat w
    | _ => s

/-- A signal group is requested for transmission (R118, R308): on Flovis it waits for its slot, over TRDP it leaves. -/
def requestGroup (s : State) (g : Nat) : State :=
  match groupDef s g true with
  | some d =>
    if !sends s then s
    else if d.carrier = 2 then sendGroupPd s d
    else { s with train := { s.train with sgtx := addNew s.train.sgtx g } }
  | none => s

/-- Step 3 at the hub (R135): requests, arms before cancels (R118), and the other destinations; what is voted stands for published
signals, exports and safe payloads. -/
def hubStep3 (s : State) (t : Nat) (p : Program) (f : LaneFrame) : State × List Nat :=
  let r := requestsOf s t p f
  let s := (p.outputs t).foldl (fun s b => applyOutput s t p f b) s
  let s := modTask s t (fun h => { h with voted := some f.words, refs := r.refs, noRef := r.noRef, firstAfterSwitch := false })
  let s := r.arms.foldl (fun s a => programArm s p a.1 a.2.1 a.2.2.1 a.2.2.2) s
  let s := r.cancels.foldl cancelTrigger s
  (r.groups.foldl requestGroup s, r.records)

/-! ### Steps 4 to 8 -/

/-- Step 4 (R161, R168, R170, R385): the window goes on, or ends with a checkpoint in VOTED3 and VOTED2. -/
def step4 (s : State) (t : Nat) (first : Bool) : State :=
  let h := hubTask s t
  if !first && h.wpos < h.window then catchUps (nextWpos s t) t
  else
    let busy := s.vote.ckpts.any (fun c => c.task = t)
    let s := endWindow s t
    if !voted s || standby s then s
    else if busy then { s with vote := { s.vote with deferred := s.vote.deferred + 1 } }
    else if allLanes.any (fun l => waitsFor s l t) then catchUps s t
    else startCkpt s t none

/-- An accepted acknowledge takes effect (R175, R180, R187): every latch clears unless BENCH is set, but for the
lanes that are held in reset (DEDUCED, notes/assumptions 122), and SAFE with its
restart complete becomes VOTED3 or VOTED2, where the catch-up of a lane that has loaded begins with the tasks at rest (R173). -/
def takeAck (s : State) : State :=
  if !s.modu.ackPending then s
  else
    let s0 := s
    let s := { s with modu := { s.modu with ackPending := false } }
    if s.modu.mode = .safe && (s.vote.restarting || activeCount s < 2) then s
    else
      let s := if s.bank.modu.bench then s
        else
          let off := fun (d : List ChCmd) => (numbered d).map (fun y => if safetyOut s y.1 then {} else y.2)
          modLanes s (fun _ x => if x.held then x else { x with latch := false, drive := off x.drive })
      let s := if s.modu.mode = .safe then
          (allTasks s).foldl catchUps (setMode s (if activeCount s = 3 then .voted3 else .voted2) (some 0))
        else s
      ackIrq s0 s

/-- DBG_ATTACH takes effect (R177). -/
def takeAttach (s : State) : State :=
  match s.vote.attach with
  | none => s
  | some (l, freeze, task, rel) =>
    let s := { s with vote := { s.vote with attach := none } }
    if (lane s l).st != .active || !(s.modu.mode = .voted3 || (s.modu.mode = .voted2 && s.bank.modu.bench)) then s
    else
      let s := modLane s l (fun x => { x with
        st := .debug, gate := false, freeze := freeze, freezeTask := task, freezeRel := rel, frozen := false
        drive := List.replicate 32 {} })
      let s := if s.modu.mode = .voted3 then setMode s .voted2 (some 0) (2 ^ laneNum l) else s
      voteAll (moduleRecord s 0x0102 [1, BitVec.ofNat 32 (laneNum l), BitVec.ofNat 32 (modeCode s.modu.mode), hi32 s.vote.harvest,
        lo32 s.vote.harvest])

/-- A rejoining lane is admitted: every task caught up and W harvests of T0 shadowed (R173, R175). -/
def admitLanes (s : State) : State :=
  allLanes.foldl (fun s l =>
    let x := lane s l
    let all := (progTasks s).all (fun t => (laneTask s l t).caughtUp)
    if x.st != .rejoining || s.vote.restarting || x.stage != .catchUp || !all || x.shadowT0 < s.bank.modu.window then s
    else
      let s := modLane s l (fun x => { x with st := .active, shadowT0 := 0 })
      let s := raiseHub s 0 0x2008 (laneNum l)
      if s.modu.mode = .voted2 && activeCount s = 3 then setMode s .voted3 (some 0) else s) s

/-- Every line of every retained page is dirty for both buffers, with the contents of the first ACTIVE lane, and so is the directory:
the layout has changed (DEDUCED from R151, notes/assumptions 71). -/
def renewRetained (s : State) : State :=
  match s.prog, (activeLanes s).head? with
  | some p, some l =>
    let line := fun (d : PageDecl) (j : Nat) =>
      let k := (laneTask s l d.task).cyc.rel.toNat
      ({ key := d.key, line := j, words := (List.range 16).map (fun i => readWord (lane s l).pages d.task d.space (d.page * 256 + j * 16 + i) k) }
        : RetLine)
    let lines := (p.pages.filter (fun d => d.retained)).flatMap (fun d => (List.range 16).map (line d))
    { s with vote := { s.vote with retDirty := lines.map (fun r => (r, true, true)), retDir0 := true, retDir1 := true, retDue := true } }
  | _, _ => s

/-- Step 8 of a harvest (R22, R158, R175), its steps 5 to 7 having gone before: an exchange that is complete, and for T0 what waits for it. -/
def step8 (s : State) (t : Nat) : State :=
  let had := s.progNew.isSome
  let wasSafe := s.modu.mode = .safe
  let s := finishExchange s
  let s := if had && s.progNew.isNone then renewRetained s else s
  if t != 0 then s
  else
    let s := takeAttach (takeAck s)
    let s := admitLanes s
    let s := if s.xch.swap.isSome && digestsDone s then performSwap s else s
    let s := pairStep8 (shedAtStep8 s)
    if s.xch.restartPending && !(s.xch.restartDeferred && wasSafe) then activateRestart s else s

/-- Steps 5 to 7 of the harvests up to a sequence number are over: retained lines are written, the pages have left for the partner, and
the recorder triggers have fired (R22, R24). -/
def stepsOver (s : State) (seq : DWord) : Bool :=
  let none_ := fun (l : List DWord) => !l.any (fun n => n.ule seq)
  !(s.vote.retDue && s.prog.any (fun p => p.pages.any (fun d => d.retained)))
    && (standby s || !linked s || none_ (s.modu.step6.map (·.1))) && none_ (s.modu.step7.map (·.1))

/-- The steps 8 that are owed run in the order of their harvests, each after steps 5 to 7 of its own (R22, R24). -/
def runStep8 : Nat → State → State
  | 0, s => s
  | n + 1, s =>
    match s.modu.step8 with
    | [] => s
    | (seq, t) :: rest =>
      if !stepsOver s seq || s.modu.jtagHigh || !inService s || s.vote.restarting then s
      else runStep8 n (step8 { s with modu := { s.modu with step8 := rest } } t)

/-- Every step 8 that can run runs. -/
def pumpStep8 (s : State) : State := runStep8 s.modu.step8.length s

/-- RETAINED_WRITE (R150). -/
def execRetainedWrite (s : State) : Host.Outcome State Fault Refusal := .next (pumpStep8 (writeRetained s))

/-- JARAN_COPY (R386). -/
def execJaranCopy (s : State) : Host.Outcome State Fault Refusal := .next (pumpStep8 (copyPages s))

/-- RECORDER_FIRING: step 7 of the oldest harvest that waits for it (R22, R345). -/
def execRecorderFiring (s : State) : Host.Outcome State Fault Refusal :=
  match s.modu.step7 with
  | [] => .next s
  | (h, t, reqs) :: rest => .next (pumpStep8 (step7 { s with modu := { s.modu with step7 := rest } } h t reqs))

/-! ### The harvest (R22, R27, R158) -/

/-- The shadow frames of a harvest (R157, R173, R178): differences are counted; a rejoining lane whose frame differs, or was not there
when the vote completed, returns to EXCLUDED; AGREE harvests of T0 are counted. -/
def judgeShadow (s : State) (t : Nat) (x : Vector3) : State :=
  let arg := vectorsWord s t
  (allLanes.filter (fun l => shadows s l t)).foldl (fun s l =>
    let rejoining := (lane s l).st = .rejoining
    match x.v.get l with
    | .agree => if t = 0 then modLane s l (fun y => { y with shadowT0 := y.shadowT0 + 1 }) else s
    | .differ =>
      let s := modLane s l (fun y => { y with differ := y.differ + 1 })
      if rejoining then failRejoin s l 0x2001 arg else s
    | .absent =>
      let s := modLane s l (fun y => { y with absent := y.absent + 1 })
      if rejoining then failRejoin s l 0x2001 arg else s) s

/-- The harvest has led to SAFE or HALTED: of its later steps only step 7 is performed, and a RESTART that awaited its step 8 waits for
the first harvest after SAFE (R27). -/
def abortHarvest (s : State) (seq : DWord) (t : Nat) : State :=
  { s with
    modu := { s.modu with step7 := s.modu.step7 ++ [(seq, t, [])] }
    xch := { s.xch with restartDeferred := s.xch.restartDeferred || (t = 0 && s.xch.restartPending) } }

/-- Steps 3 and 4 at the hub with the majority frame; steps 5 to 8 wait for their turn (R22). -/
def performHarvest (s : State) (seq : DWord) (t : Nat) (f : LaneFrame) : State :=
  match taskProg s t with
  | none => s
  | some p =>
    let first := (hubTask s t).firstAfterSwitch
    let dirty := (laneTask s f.lane t).cyc.pages
    let (s, recs) := hubStep3 s t p f
    let s := offerOutput s t f
    let s := retainedStep5 (step4 s t first) f.lines
    let s := retireGone (pairStep6 s t f dirty)
    pumpStep8 { s with modu := { s.modu with
      step7 := s.modu.step7 ++ [(seq, t, recs)], step8 := s.modu.step8 ++ [(seq, t)] } }

/-- Step 2 at the hub voter (R22, R23, R158): the harvest is numbered, verdicts are counted, the vectors compared where they are all
there, and the majority frame is harvested. Without one, or with no spare for a corrupt slot, the module enters SAFE, and with JTAG_TRST_N high
HALTED (R27, R163, R458). -/
def numberHarvest (s : State) (t : Nat) : State :=
  match (voteAt s .hub t).bind (fun v => v.vector.map (fun x => (v, x))) with
  | none => s
  | some (v, x) =>
    let seq := s.vote.harvest + 1
    let s := { s with vote := { s.vote with harvest := seq } }
    let s := modTask s t (fun h => { h with inFlight := false, overrunRun := if h.overrun then h.overrunRun else 0 })
    let act := voters s v
    let s := act.foldl (fun s l => modLane s l (fun y =>
      match x.v.get l with
      | .agree => y
      | .differ => { y with differ := y.differ + 1 }
      | .absent => { y with absent := y.absent + 1 })) s
    let best := (act.find? (fun l => x.v.get l = .agree)).bind (fun l => (v.frames.find? (fun y => y.1 = l)).map (·.2))
    match best with
    | none =>
      if s.modu.jtagHigh then enterHalted (abortHarvest s seq t)
      else enterSafe (abortHarvest s seq t) (laneMask (act.filter (fun l => x.v.get l != .agree)))
    | some f =>
      let s := judge (judgeShadow s t x) t
      if s.modu.jtagHigh then enterHalted (abortHarvest s seq t)
      else if !inService s || s.vote.restarting then abortHarvest s seq t
      else if v.noSpare then enterSafe (abortHarvest s seq t)
      else performHarvest s seq t f

/-- A harvest at the hub. -/
def hubHarvest (s : State) (t : Nat) : State := numberHarvest s t

/-- In the outgoing member of a planned switch the step 3 of a task's switching release has passed in every ACTIVE lane: its effects
are held from now on, and with the last task the switch is over (R392). -/
def holdTask (s : State) (t : Nat) : State :=
  let through := (activeLanes s).all (fun l => (voteAt s (.unit l) t).any (fun v => !v.act.contains l || v.vector.isSome || v.stalled))
  if !standby s || !s.pair.fresh.contains t || !through then s
  else
    let fresh := s.pair.fresh.filter (· ≠ t)
    let sw := s.pair.switch.bind (fun w =>
      let done := addNew w.done t
      if (progTasks s).all (fun k => done.contains k) then none else some { w with done := done })
    voteAll { s with pair := { s.pair with fresh := fresh, switch := sw } }

/-- A comparator completes its vote (R152): the hub voter harvests, a unit performs its lane's step 3. -/
def closeVote (s : State) (p : Party) (t : Nat) : State :=
  match voteAt s p t with
  | none => s
  | some v =>
    if v.vector.isSome || v.stalled then s
    else
      let s := modVote s p t (fun v => { v with vector := some (vectorOf s v) })
      match p with
      | .hub => hubHarvest s t
      | .unit l => if (voters s v).contains l then holdTask (judge (laneStep3 s l t) t) t else s

/-! ### Frames at a comparator (R155, R156) -/

/-- The skew limit of a task in ns (R124). -/
def skewOf (s : State) (t : Nat) : Nat := ((taskDef s t).map (·.skewNs)).getD 0

/-- Counts at the hub are those that LANE_STATUS shows. -/
def countAtHub (s : State) (p : Party) (l : Lane) (f : LaneSt → LaneSt) : State := if p = .hub then modLane s l f else s

/-- A slot of the hub fails at its read (R163): retired to a spare, S3 where none remains; a replayed slot is recorded. -/
def badSlot (s : State) (t : Nat) (l : Lane) (corrupt : Bool) : State :=
  let s := modVote s .hub t (fun v => { v with slotBad := addNew v.slotBad l })
  if !corrupt then raiseHub s 2 0x2009 (laneNum l) t
  else
    let full := decide (4 ≤ s.vote.slotsRetired)
    let s := { s with vote := { s.vote with
      slotsRetired := s.vote.slotsRetired + 1, badSlots := if full then addNew s.vote.badSlots (l, t) else s.vote.badSlots } }
    if full then raiseHub (modVote s .hub t (fun v => { v with noSpare := true })) 3 0x2002 (laneNum l) t 0 3
    else raiseHub s 2 0x2002 (laneNum l) t

/-- An injection test runs (R164). -/
def testing (s : State) : Bool := s.vote.injecting.isSome || s.bring.injecting

/-- The SEQ of a frame is the last one on its link; a gap is counted (R155). -/
def takeSeq (s : State) (p : Party) (l : Lane) (seq : Word) (last : Option Word) : State :=
  let s := if last.any (fun n => seq != n + 1) then countAtHub s p l (fun x => { x with seqGap := x.seqGap + 1 }) else s
  { s with vote := { s.vote with lastSeq := (p, l, seq) :: s.vote.lastSeq.filter (fun x => !(x.1 = p && x.2.1 = l)) } }

/-- A valid frame of a release whose vote is open enters the comparison, which may complete the vote (R152, R156, R163). -/
def compareFrame (s : State) (p : Party) (l : Lane) (f : LaneFrame) (v : Vote) (slot : Option Bool) : State :=
  let start := match v.started with
    | some n => some n
    | none => if (voters s v).contains l then some (rawNow s) else none
  let near := start.any (fun n => decide (n + skewOf s f.task ≤ rawNow s + 2000))
  let s := modVote s p f.task (fun v => { v with started := start, near := if near then addNew v.near l else v.near })
  let s := match slot with
    | some corrupt => badSlot s f.task l corrupt
    | none =>
      if p = .hub && s.vote.badSlots.contains (l, f.task) then modVote s p f.task (fun v => { v with slotBad := addNew v.slotBad l })
      else modVote s p f.task (fun v => { v with frames := v.frames ++ [(l, f)] })
  match voteAt s p f.task with
  | some v => if allIn s v then closeVote s p f.task else s
  | none => s

/-- A frame with a correct CRC-32C reaches a comparator on the link of a lane: what R155 asks is checked, and it is compared. A frame that
comes after the vote of its release counts in LATE where the lane was ACTIVE at that release, also once the next one is open (R152; DEDUCED,
notes/assumptions 108). A pattern frame of a running injection test goes to the test's own context (R165). `slot` says that the hub's slot
is corrupt, or stale, when it is read. -/
def acceptFrame (s : State) (p : Party) (l : Lane) (f : LaneFrame) (slot : Option Bool) : State :=
  let last := (s.vote.lastSeq.find? (fun x => x.1 = p && x.2.1 = l)).map (·.2.2)
  let later := last.all (fun n => serialNewer f.seq n)
  let discard := countAtHub s p l (fun x => { x with discarded := x.discarded + 1 })
  let late := fun (s : State) => countAtHub s p l (fun x => { x with late := x.late + 1 })
  if f.lane = l && testing s && 0x81 ≤ f.kind && f.kind ≤ 0x8C then
    { s with vote := { s.vote with testFrames := s.vote.testFrames ++ [(p, f)] } }
  else if f.kind != 1 || f.lane != l || !later then discard
  else
    match voteAt s p f.task with
    | none => discard
    | some v =>
      if v.rel != f.rel then
        if serialNewer v.rel f.rel && v.before.contains l then late (takeSeq s p l f.seq last) else discard
      else if v.vector.isSome || v.stalled then
        if v.act.contains l then late (takeSeq s p l f.seq last)
        else if shadows s l f.task then takeSeq s p l f.seq last else discard
      else if (lane s l).st = .active || shadows s l f.task then compareFrame (takeSeq s p l f.seq last) p l f v slot
      else discard

/-- The oldest frame of a task in flight from a lane to a party, and the rest. -/
def takeFrame (xs : List (Party × LaneFrame)) (p : Party) (l : Lane) (t : Nat) : Option (LaneFrame × List (Party × LaneFrame)) :=
  (xs.find? (fun x => x.1 = p && x.2.lane = l && x.2.task = t)).map (fun x => (x.2, xs.erase x))

/-- LANE_FRAME_ARRIVAL (R155): the oldest frame of a task on the link from a lane to a party. -/
def arriveFrame (s : State) (p : Party) (l : Lane) (t : Nat) (fate : FrameFate) : State :=
  match takeFrame s.vote.inFlight p l t with
  | none => s
  | some (f, rest) =>
    let s := { s with vote := { s.vote with inFlight := rest } }
    match fate with
    | .whole => acceptFrame s p l f none
    | .badCrc => countAtHub s p l (fun x => { x with discarded := x.discarded + 1 })
    | .replaced g => acceptFrame s p l g none
    | .slotCorrupt => acceptFrame s p l f (if p = .hub then some true else none)
    | .slotStale => acceptFrame s p l f (if p = .hub then some false else none)

/-- LANE_FRAME_ARRIVAL (R155). -/
def execLaneFrameArrival (p : Party) (l : Lane) (t : Fin 16) (fate : FrameFate) (s : State) : Host.Outcome State Fault Refusal :=
  .next (arriveFrame s p l t.val fate)

/-- VOTE_DEADLINE (R152): the skew limit after the first valid frame of an ACTIVE lane is over; the hub's clock is hub time. -/
def execVoteDeadline (p : Party) (t : Fin 16) (s : State) : Host.Outcome State Fault Refusal :=
  match voteAt s p t.val with
  | some v =>
    match v.started with
    | some n => if p = .hub && !elapsed s n (skewOf s t.val) then .next s else .next (closeVote s p t.val)
    | none => .next s
  | none => .next s

/-- The vote deadline of a party has passed by 10 µs: that of its own first valid frame, or of the hub's where none has reached it. The hub
judges by hub time (R152, R163). -/
def overdue (s : State) (p : Party) (t : Nat) : Bool :=
  let first := fun (p : Party) => (voteAt s p t).bind (fun v => v.started)
  match p with
  | .hub => (first .hub).any (fun n => elapsed s n (skewOf s t + 10000))
  | .unit l => (first (.unit l)).isSome || (first .hub).any (fun n => elapsed s n (skewOf s t + 10000))

/-- COMPARATOR_NO_VERDICT (R163): a comparator without a verdict 10 µs after its vote deadline counts as outvoted; the harvest of a
hub voter that never completes is numbered, and only its step 7 remains (R27). -/
def execComparatorNoVerdict (p : Party) (t : Fin 16) (s : State) : Host.Outcome State Fault Refusal :=
  match voteAt s p t.val with
  | some v =>
    if v.vector.isSome || v.stalled || !overdue s p t.val then .next s
    else
      let s := modVote s p t.val (fun v => { v with stalled := true })
      let s := if p = .hub then
          let seq := s.vote.harvest + 1
          abortHarvest (modTask { s with vote := { s.vote with harvest := seq } } t.val (fun h => { h with inFlight := false })) seq t.val
        else s
      .next (judge s t.val)
  | none => .next s

end Sys2Proof.Machine
end

