-- ==== Sys2Proof/Machine/Inject.lean ====
section
/-! DEFINITION. The injection test: the frames of its twelve patterns as they reach each party, the verdicts expected of them, and which
parties fail (R164, R165). -/
namespace Sys2Proof.Machine

/-- The frame that the hub supplies as template, with the KIND of a pattern (R164). Its contents are four words of zeros (DESIGN CHOICE,
notes/assumptions 170). -/
def templateFrame (l : Lane) (k : Nat) : LaneFrame :=
  { kind := 0x80 + k, lane := l, task := 0, wpos := 1, rel := 0, seq := 0, runSig := 0, runCount := 0, flags := 0
    words := List.replicate 4 { v := 0, q := 0 }, lines := [] }

/-- A frame with one output word altered. -/
def alterWord (f : LaneFrame) (j : Nat) : LaneFrame := { f with words := upd f.words j (fun w => { w with v := w.v ^^^ 1 }) }

/-- Lane X of patterns 11 and 12, by the run number (R164). -/
def laneX (run : Nat) : Lane := laneOf (run % 3)

/-- The frame that a lane sends for a pattern, by the alterations of R164. -/
def patternFrame (run k : Nat) (l : Lane) : LaneFrame :=
  let f := templateFrame l k
  let n := laneNum l
  if k ≤ 3 then (if n + 1 = k then alterWord f 0 else f)
  else if k ≤ 6 then (if n = (k + 1) % 3 then f else alterWord f 0)
  else if k = 7 then alterWord f n
  else if k = 12 then (if l = laneX run then { f with runSig := f.runSig + 1 } else f)
  else f

/-- The test's skew limit and the delay of pattern 11, in ns (R164). -/
def testSkewNs : Nat := 10000
/-- The delay of lane X in pattern 11. -/
def testDelayNs : Nat := 20000

/-- The frame of a lane is valid and in time at a party: its own unit sees it unaltered and on time; on the links it has a wrong CRC-32C in
patterns 8 to 10, and comes beyond the test's skew limit in pattern 11 (R164). -/
def patternArrives (run k : Nat) (p : Party) (l : Lane) : Bool :=
  p = .unit l || !((8 ≤ k && k ≤ 10 && laneNum l + 8 = k) || (k = 11 && l = laneX run && testSkewNs < testDelayNs))

/-- The valid frames of a pattern at a party, from the lanes that take part. -/
def patternFrames (run k : Nat) (lanes : List Lane) (p : Party) : List (Lane × LaneFrame) :=
  (lanes.filter (patternArrives run k p)).map (fun l => (l, patternFrame run k l))

/-- What a party shows of a pattern: the verdicts on the lanes that take part, and for a unit whether its drive gate opens (R159, R164). -/
structure PatternSeen where
  verdicts : List Verdict
  gate : Option Bool
  deriving DecidableEq, Repr

/-- What a party shows from its verdict on each lane: a unit's gate is closed exactly when its own lane is DIFFER (R164). -/
def seenFrom (lanes : List Lane) (p : Party) (verdict : Lane → Verdict) : PatternSeen :=
  { verdicts := lanes.map verdict
    gate := match p with
      | .hub => none
      | .unit l => some (verdict l != .differ) }

/-- What is expected of a party for a pattern: the verdicts of R157 on the frames of R164. With three lanes these are the verdicts of R164's
table; the table says nothing of a test with two (DEDUCED, notes/assumptions 170). -/
def expectedSeen (run k : Nat) (lanes : List Lane) (p : Party) : PatternSeen :=
  seenFrom lanes p (verdictAmong p (patternFrames run k lanes p) lanes false)

/-- The frames at a party with those that reached it in place of the test's own (R155). -/
def arrivedFrames (s : State) (run k : Nat) (lanes : List Lane) (p : Party) : List (Lane × LaneFrame) :=
  (patternFrames run k lanes p).map (fun x =>
    (x.1, ((s.vote.testFrames.find? (fun y => y.1 = p && y.2.lane = x.1 && y.2.kind = 0x80 + k)).map (·.2)).getD x.2))

/-- What a party showed for a pattern: what was reported of it, otherwise what its comparator makes of the frames (R165). -/
def shownSeen (s : State) (run k : Nat) (lanes : List Lane) (seen : List InjectSeen) (p : Party) : PatternSeen :=
  match seen.find? (fun x => x.party = p && x.pattern = k) with
  | some x =>
    { verdicts := lanes.map (fun l => match l with
        | .a => x.a
        | .b => x.b
        | .c => x.c)
      gate := if p = .hub then none else some x.gate }
  | none => seenFrom lanes p (verdictAmong p (arrivedFrames s run k lanes p) lanes false)

/-- The lanes that take part in a test: REJOINING at L3, otherwise ACTIVE (R164, R428). -/
def testLanes (s : State) : List Lane := if s.bring.stage = .l3 then lanesIn s .rejoining else activeLanes s

/-- The parties that fail a test, each with its first pattern that is not as expected (R165). -/
def testFails (s : State) (seen : List InjectSeen) : List (Party × Nat) :=
  let run := s.vote.injectRun
  let lanes := testLanes s
  (.hub :: lanes.map .unit).filterMap (fun p =>
    (((List.range 12).map (· + 1)).find? (fun k => shownSeen s run k lanes seen p != expectedSeen run k lanes p)).map (fun k => (p, k)))

end Sys2Proof.Machine
end

