-- ==== Sys2Proof/Machine/Lanes.lean ====
section
/-! DEFINITION. The commands of the lanes: release stamps, dispatch, commit, wake messages, time limits, ECC errors and task
watchdogs (R68 to R84, R138 to R142). -/
namespace Sys2Proof.Machine

/-- A lane's own cross-check unit sees its own frame at once: it stays in the lane's memory (R156). -/
def deliverOwn (s : State) (l : Lane) (t : Nat) : State := arriveFrame s (.unit l) l t .whole

/-- A cycle whose every instance has committed ships its frame (R72, R153). -/
def endCycle (s : State) (l : Lane) (t : Nat) : State := if cycleDone s l t then deliverOwn (shipFrame s l t) l t else s

/-- The program that a stamp starts its task in (R219). -/
def stampProg (s : State) (l : Lane) (m : StampMsg) : Option Program := if m.switches then s.progNew else laneTaskProg s l m.task

/-- A stamp with its image is taken by a lane: safe telegrams are checked and the cycle starts (R68, R193). -/
def takeStamp (s : State) (l : Lane) (m : StampMsg) : State :=
  if !laneRuns (lane s l) then s
  else
    let s := checkConns s l m
    let conn := match stampProg s l m with
      | some p => if m.copied then [] else connImage s l p m.task
      | none => []
    deliverOwn (startCycle s l m conn) l m.task

/-- The releases that have reached a lane and whose sample sets are there begin, the oldest first; the others wait (R19, R68). -/
def startReleases (s : State) (l : Lane) : State :=
  ((lane s l).stamps.filter (fun m => m.here && sampleReady (lane s l) m)).foldl
    (fun s m => takeStamp (modLane s l (fun x => { x with stamps := x.stamps.erase m })) l m) s

/-- A stamp reaches a lane: an ACTIVE lane's task watchdog starts, whatever the cycle still waits for (R138). -/
def stampArrives (s : State) (l : Lane) (m : StampMsg) : State :=
  let s := modLane s l (fun x => { x with stamps := x.stamps.map (fun y => if y = m then { y with here := true } else y) })
  let s := if (lane s l).st = .active then modLaneTask s l m.task (fun lt => { lt with watch := some m.rel }) else s
  startReleases s l

/-- RELEASE_STAMP_ARRIVAL (R68): the oldest stamp on its way to a lane; with a wrong CRC-32C it is absent, and the lane runs no cycle for
it (R18). -/
def execReleaseStampArrival (a : StampArrival) (s : State) : Host.Outcome State Fault Refusal :=
  match (lane s a.lane).stamps.find? (fun m => !m.here) with
  | some m =>
    .next (if a.good then stampArrives s a.lane m else modLane s a.lane (fun x => { x with stamps := x.stamps.erase m }))
  | none => .next s

/-- SAMPLE_FRAME_RECEIVE (R240). -/
def execSampleFrameReceive (l : Lane) (good : Bool) (s : State) : Host.Outcome State Fault Refusal :=
  .next (startReleases (takeSample s l good) l)

/-- PAN_DISPATCH (R74). -/
def execPanDispatch (l : Lane) (block pan : Fin 16) (xbar : Xbar) (s : State) : Host.Outcome State Fault Refusal :=
  .next (dispatchPan s l block.val pan.val xbar)

/-- The instance of a pan completes: the two copies disagree and the pan is retired, or outputs and state are committed; where the
instance is raked or reaches a page of another slice, its transfers cross the crossbar (R62, R69 to R72, R83). A commit to a page that the
lane has still to send for a checkpoint waits, and the page leaves out of turn (R168). -/
def completeInst (s : State) (l : Lane) (b p : Nat) (agree : Bool) (xbar : Xbar) : State :=
  match (panOf s l b p).busy with
  | none => s
  | some r =>
    if !laneRuns (lane s l) then s
    else if !agree then retirePan s l b p r 0x1003
    else
      match instOf s r, laneProg s r.new with
      | some i, some prog =>
        let writes := i.pagesWritten
        if pageWaits s l i.task writes then sendFirst s i.task writes else
        let (s, ok) := if crossesBar prog i b then crossbar s l b p (some r) xbar else (s, true)
        if !ok then s
        else
          let s := modPan s l b p (fun q => { q with busy := none })
          let s := commitInst s l r prog i
          if laneRuns (lane s l) then endCycle s l i.task else s
      | _, _ => modPan s l b p (fun q => { q with busy := none })

/-- INSTANCE_COMMIT (R69). -/
def execInstanceCommit (l : Lane) (block pan : Fin 16) (agree : Bool) (xbar : Xbar) (s : State) : Host.Outcome State Fault Refusal :=
  .next (completeInst s l block.val pan.val agree xbar)

/-- The k-th decrement on its way to another block arrives over the crossbar (R70, R83). A record of its parity names the consumer's home
block and pan 0 (DESIGN CHOICE, notes/assumptions 164). -/
def takeWake (s : State) (l : Lane) (k : Nat) (xbar : Xbar) : State :=
  match (lane s l).wakes[k]? with
  | none => s
  | some r =>
    let home := ((instOf s r).map (·.home)).getD 0
    let s := modLane s l (fun x => { x with wakes := x.wakes.eraseIdx k })
    let (s, ok) := crossbar s l home 0 (some r) xbar
    if ok && laneRuns (lane s l) then decrement s l r else s

/-- WAKE_MESSAGE (R70). -/
def execWakeMessage (l : Lane) (k : Nat) (xbar : Xbar) (s : State) : Host.Outcome State Fault Refusal := .next (takeWake s l k xbar)

/-- The commit of an instance waits for a page of a checkpoint (R168). -/
def commitWaits (s : State) (l : Lane) (r : InstRef) : Bool := (instOf s r).any (fun i => pageWaits s l i.task i.pagesWritten)

/-- COMMIT_TIMEOUT (R83): no commit within 256 clocks of the dispatch. A commit that waits for a page of a checkpoint is no failure of its
pan (DEDUCED, notes/assumptions 171). -/
def execCommitTimeout (l : Lane) (block pan : Fin 16) (s : State) : Host.Outcome State Fault Refusal :=
  match (panOf s l block.val pan.val).busy with
  | some r => if laneRuns (lane s l) && !commitWaits s l r then .next (retirePan s l block.val pan.val r 0x1004) else .next s
  | none => .next s

/-- Corrected errors are counted per memory kind (R84). -/
def countEcc (x : LaneSt) : LaneMem → LaneSt
  | .block => { x with eccBlock := x.eccBlock + 1 }
  | .slice => { x with eccSlice := x.eccSlice + 1 }
  | .queue => { x with eccQueue := x.eccQueue + 1 }

/-- An ECC error in a lane (R83, R84): corrected, counted, and recorded unless it repeats at the same address within 1 s of the latest
error there; uncorrectable, it stops the lane's tasks. The 1 s counts from the latest error, recorded or not, and LOCATION names pan 0
(DESIGN CHOICE, notes/assumptions 164). -/
def eccEvent (s : State) (l : Lane) (mem : LaneMem) (b addr : Nat) (fixed : Bool) : State :=
  if (lane s l).st = .off then s
  else if !fixed then stopLane (raiseLane s l 2 2 0x1002 b 0 0xFFFFFFFF) l
  else
    let same := fun (e : LaneMem × Nat × Nat × Nat) => e.1 = mem && e.2.1 = b && e.2.2.1 = addr
    let again := (lane s l).eccLast.any (fun e => same e && !elapsed s e.2.2.2 1000000000)
    let now := rawNow s
    let s := modLane s l (fun x => { countEcc x mem with eccLast := (mem, b, addr, now) :: x.eccLast.filter (fun e => !same e) })
    if again then s else raiseLane s l 1 1 0x1001 b 0 0xFFFFFFFF

/-- ECC_ERROR (R83). -/
def execEccError (l : Lane) (mem : LaneMem) (block : Fin 16) (addr : Nat) (fixed : Bool) (s : State) : Host.Outcome State Fault Refusal :=
  .next (eccEvent s l mem block.val addr fixed)

/-- A SERVICE overrun (R131, R142): counted and recorded, the next release skipped; sixteen in a run are an S2 record. -/
def serviceOverrun (s : State) (t : Nat) (rel : Word) (mask : Nat) : State :=
  let s := modTask s t (fun h => { h with overrun := true, overrunRun := h.overrunRun + 1, skipNext := true, misses := h.misses + 1 })
  let s := raiseHub (setIrq s irqOverrun) 1 0x3002 t rel.toNat mask
  if (hubTask s t).overrunRun % 16 = 0 then raiseHub s 2 0x3003 t rel.toNat else s

/-- The task watchdog that runs in a lane expires, for the release it was started for (R138 to R140, R142). -/
def watchdogExpires (s : State) (l : Lane) (t : Nat) : State :=
  match (laneTask s l t).watch with
  | none => s
  | some rel =>
  if (lane s l).st != .active then s
  else
    let s := modLaneTask s l t (fun lt => { lt with expired := some rel, watch := none })
    let h := hubTask s t
    if !h.inFlight || h.overrun || (s.tim.gens.getD t {}).count != rel then s
    else
      let s := modTask s t (fun h => { h with expired := addNew h.expired l })
      let gone := (activeLanes s).filter (fun k => (hubTask s t).expired.contains k)
      let mask := laneMask gone
      if 2 ≤ activeCount s - gone.length then
        raise s { region := .lane l, sev := 2, level := 2, code := 0x3004, loc := BitVec.ofNat 32 t, arg0 := rel }
      else if ((taskDef s t).map (·.safety)).getD false then
        enterHalted (raiseHub (modTask s t (fun h => { h with overrun := true })) 4 0x3001 t rel.toNat mask 3)
      else serviceOverrun s t rel mask

/-- TASK_WATCHDOG_EXPIRY (R138). -/
def execTaskWatchdogExpiry (l : Lane) (t : Fin 16) (s : State) : Host.Outcome State Fault Refusal := .next (watchdogExpires s l t.val)

end Sys2Proof.Machine
end

