-- ==== Sys2Proof/Machine/Release.lean ====
section
/-! DEFINITION. A release at the hub (R127 to R134): the stamp of R55, the hub's part of the input image, and the opening of the
release's votes; the standby's release from an IMAGE (R385). -/
namespace Sys2Proof.Machine

/-! ### The stamp (R55, R67) -/

/-- The status byte of an axis in a stamp (R55). -/
def axisByte (r : RelDue) (n : Nat) : Nat :=
  (r.axes.quals.getD n 8).toNat * 16 + b2n (r.stepped.getD n false) * 8 + b2n (n = 1 && r.reverse) * 4 + b2n (n = 0 && r.holdover) * 2

/-- The twelve stamp words with their nibbles (R55, R67). -/
def stampWords (t count : Nat) (skips : Nat) (r : RelDue) : List QWord :=
  let plain := fun (n : Nat) => ({ v := BitVec.ofNat 32 n, q := 0 } : QWord)
  let ax := fun (n : Nat) =>
    let v := r.axes.vals.getD n 0
    let q := r.axes.quals.getD n 8
    [({ v := hi32 v, q := q } : QWord), { v := lo32 v, q := q }]
  [plain (t * 2 ^ 24 + r.cause * 2 ^ 16 + min skips 0xFFFF), plain count] ++ (ax 0 ++ ax 1 ++ ax 2 ++ ax 3)
    ++ [plain (axisByte r 0 * 2 ^ 24 + axisByte r 1 * 2 ^ 16 + axisByte r 2 * 2 ^ 8 + axisByte r 3), plain 0]

/-! ### The hub's part of the image (R131 to R134) -/

/-- Consecutive words of an image from an index. -/
def imageAt (idx : Nat) (ws : List QWord) : List (Nat × QWord) := (List.range ws.length).map (fun j => (idx + j, ws.getD j ⟨0, 8⟩))

/-- A VALID word. -/
def validWord (n : Nat) : QWord := { v := BitVec.ofNat 32 n, q := 0 }
/-- An I64 with a nibble. -/
def longPair (v : DWord) (q : BitVec 4) : List QWord := [{ v := hi32 v, q := q }, { v := lo32 v, q := q }]

/-- One capture in the image (R133). The layout gives a quality for the other axis only: the AX0 value has nibble VALID whatever AX0's quality
was (DESIGN CHOICE, notes/assumptions 110). -/
def captureWords (c : Capture) (ax : Nat) : List QWord :=
  longPair (c.axes.vals.getD 0 0) 0 ++ longPair (c.axes.vals.getD ax 0) (c.axes.quals.getD ax 8)
    ++ [validWord (b2n c.stepped * 4 + b2n c.rising * 2), validWord 0]

/-- A capture-queue binding: the oldest of the captures that were queued at the release tick move into the image (R132, R133). -/
def deliverCaptures (s : State) (b : Binding) (caps : List (Nat × BitVec 16)) : List QWord × State :=
  let k := bits b.arg.toNat 0 8
  let ax := bits b.arg.toNat 8 2
  let n := b.id.toNat
  let i := s.tim.inputs.getD n {}
  let (queued, lost) := caps.getD n (0, 0)
  let now := i.queue.take (min k queued)
  let i' := { i with
    queue := i.queue.drop now.length, delivered := i.delivered + BitVec.ofNat 32 now.length, lostSince := i.lostSince - lost }
  let none_ := List.replicate (6 * (k - now.length)) ({ v := 0, q := 8 } : QWord)
  ([{ v := i'.delivered, q := 0 }, validWord ((queued - now.length) * 2 ^ 16 + lost.toNat)]
      ++ now.flatMap (fun c => captureWords c ax) ++ none_,
   { s with tim := { s.tim with inputs := upd s.tim.inputs n (fun _ => i') } })

/-- A trigger-report binding: the latest firing report (R133). -/
def reportWords (s : State) (n : Nat) : List QWord :=
  let g := trigger s n
  match g.report with
  | some r =>
    [{ v := r.count, q := 0 }, validWord (b2n r.stepped * 2 ^ 31 + b2n r.late * 2 ^ 30 + min r.points 0xFFFF)]
      ++ longPair (r.axes.vals.getD 0 0) 0 ++ longPair (r.axes.vals.getD r.axis 0) 0
  | none => List.replicate 6 (validWord 0)

/-- A task-output binding: the export of its key in the version that the producing task runs; layout values with nibble INITIAL where
that version has none, or in another width (R134, R221). -/
def exportWords (s : State) (p : Program) (b : Binding) : List QWord :=
  let find := fun (q : Option Program) (new : Bool) =>
    q.bind (fun q => (q.exportOf b.id).bind (fun e => if (hubTask s e.task).switched = new then some (q, e) else none))
  let src := match find s.progNew true with
    | some x => some x
    | none => find s.prog false
  let n := p.width b
  match src with
  | some (q, e) => if q.width e = n then votedWords s q e
    else (List.range n).map (fun k => { p.layoutWord b.task (b.index + k) with q := 4 })
  | none => (List.range n).map (fun k => { p.layoutWord b.task (b.index + k) with q := 4 })

/-- The task status word (R131). -/
def taskStatus (s : State) (t : Nat) : Word :=
  let h := hubTask s t
  h.misses ++ h.skips

/-- One input binding at the release tick, but for captures (R131, R132). -/
def bindInput (s : State) (p : Program) (now : Int) (b : Binding) : List (Nat × QWord) :=
  match b.kind with
  | 0x03 => imageAt b.index (signalWords s p b.id)
  | 0x04 => [(b.index, measurementAt s b.id.toNat now)]
  | 0x06 => imageAt b.index (reportWords s b.id.toNat)
  | 0x07 => imageAt b.index (exportWords s p b)
  | 0x08 => [(b.index, { v := moduleStatus s, q := 0 })]
  | 0x09 => [(b.index, { v := taskStatus s b.id.toNat, q := 0 })]
  | _ => []

/-- The captures of the input image of a task (R133). -/
def captureImage (s : State) (p : Program) (t : Nat) (caps : List (Nat × BitVec 16)) : List (Nat × QWord) × State :=
  ((p.inputs t).filter (fun b => b.kind = 0x05)).foldl (fun (r : List (Nat × QWord) × State) b =>
    let (ws, s) := deliverCaptures r.2 b caps
    (r.1 ++ imageAt b.index ws, s)) ([], s)

/-- The copies of safe telegrams that go with a release (R193). -/
def copiesFor (s : State) (t : Nat) : List SafeRx :=
  let conns := if s.safe.connTasks.contains t then s.bank.conns else s.safe.conns
  s.safe.rx.filter (fun r => conns.any (fun c => c.conn = r.conn && !c.send && c.task = t))

/-- A release takes its sources as they stand (R19, R132, R144, R193): in the program of either version. -/
def viewRelease (s : State) (t : Nat) (new : Bool) (r : RelDue) : RelView :=
  { new := new
    image := match laneProg s new with
      | some p => (p.inputs t).flatMap (bindInput s p (r.axes.vals.getD 0 0).toInt)
      | none => []
    forces := s.modu.forces.filter (fun f => f.effective)
    copies := copiesFor s t
    caps := s.tim.inputs.map (fun i => (i.queue.length, i.lostSince)) }

/-- A release that waits runs its task in the new program: the task has switched, or switches at this release (R218, R219). -/
def runsNew (s : State) (t : Nat) : Bool :=
  (hubTask s t).switched || ((newTasks s).contains t && (s.xch.switchingSince.isSome
    || (s.xch.act.any (fun a => a.staged) && (t = 0 || !(s.tim.gens.getD 0 {}).due.isEmpty))))

/-- The releases of a tick take their sources before the next tick changes anything: what reaches the hub between two ticks belongs to
the earlier one (R19, R132; DESIGN CHOICE, notes/assumptions 167). -/
def latchViews (s : State) : State :=
  { s with tim := { s.tim with gens := (numbered s.tim.gens).map (fun (t, g) =>
    { g with due := g.due.map (fun r => if r.view.isSome then r else { r with view := some (viewRelease s t (runsNew s t) r) }) }) } }

/-- TIMING_TICK (R34). -/
def execTimingTick (s : State) : Host.Outcome State Fault Refusal := .next (tick (latchViews s))

/-- The sample set that R19 selects for a stamp: the latest one at or before its AX0 value, where the task binds field words. -/
def selectSample (s : State) (p : Program) (t : Nat) (now : Int) : Option SampleSet :=
  if (p.inputs t).any (fun b => b.kind = 1 || b.kind = 2) then s.field.sent.find? (fun q => q.ax0.toInt ≤ now) else none

/-! ### The votes of a release (R152, R173) -/

/-- The lanes that wait for the first release after a restart's load become ACTIVE together, and the restart is complete (R171). -/
def endRestart (s : State) : State :=
  if !s.vote.awaitRelease then s
  else
    let s0 := s
    let s := modLanes s (fun _ x => if x.st = .rejoining && x.restartPath && x.stage = .await then { x with st := .active } else x)
    ackIrq s0 { s with vote := { s.vote with restarting := false, awaitRelease := false } }

/-- A shadow frame of the previous release that has not been shipped is ABSENT (R173). -/
def failUnshipped (s : State) (t : Nat) : State :=
  allLanes.foldl (fun s l =>
    let x := lane s l
    if x.st = .rejoining && shadows s l t && ((laneTask s l t).cyc.active || x.stamps.any (fun m => m.task = t)) then
      failRejoin s l 0x2001 (vectorsWord s t)
    else s) s

/-- A lane takes the releases of a task: ACTIVE, DEBUG, or in shadow (R55, R173, R178). -/
def takesRelease (s : State) (l : Lane) (t : Nat) : Bool := (lane s l).st = .active || shadows s l t

/-- The release goes out: the four parties hold its vote open, and the stamp with its image leaves for the lanes (R55, R152). -/
def openRelease (s : State) (m : StampMsg) : State :=
  let s := takeConns (endRestart (failUnshipped s m.task)) m.task
  let fresh := allParties.map (fun p => ({ party := p, task := m.task, rel := m.rel, act := activeLanes s
                                           before := ((voteAt s p m.task).map (·.act)).getD [] } : Vote))
  let s := { s with vote := { s.vote with votes := s.vote.votes.filter (fun v => v.task ≠ m.task) ++ fresh } }
  modLanes s (fun l x => if takesRelease s l m.task then { x with stamps := x.stamps ++ [m] } else x)

/-! ### RELEASE (R127) -/

/-- IMAGE of a release to the partner: stamp and the bound words of the whole input image in their order, safe payloads included; FLAGS [0] is SWITCH, and [1] carries the
program switch of the task (R381, R394; DESIGN CHOICE, notes/assumptions 66). -/
def sendImage (s : State) (p : Program) (m : StampMsg) (smp : Option SampleSet) : State :=
  if !linked s then s
  else
    let field := match smp with
      | some q => fieldImage { samples := s.field.sent } p m.task q
      | none => []
    let pay := match (activeLanes s).head? with
      | some l => connImage (checkConns s l m) l p m.task
      | none => []
    let image := m.image ++ field ++ pay
    let flags := b2n (s.pair.fresh.contains m.task) + 2 * b2n m.switches
    let s := { s with pair := { s.pair with fresh := s.pair.fresh.filter (· ≠ m.task) } }
    jaranSend s 3 flags (imageBytes m.stamp ((image.mergeSort (fun x y => decide (x.1 ≤ y.1))).map (·.2)))

/-- The switch of a task at its first release after the swap point (R219). -/
def switchAtRelease (s : State) (t : Nat) : State × Bool :=
  if s.xch.switchingSince.isSome && (newTasks s).contains t && !(hubTask s t).switched then (switchTask s t, true) else (s, false)

/-- The oldest release that a tick has found for a task (R127). The first release of T0 after the staging is the swap point (R218). -/
def performRelease (s : State) (t : Nat) (r : RelDue) : State :=
  let s := if t = 0 then swapPoint s (fun q => q.axes = r.axes) else s
  let (s, switches) := switchAtRelease s t
  match taskProg s t with
  | none => modTask s t (fun h => { h with inFlight := false })
  | some p =>
    let g := s.tim.gens.getD t {}
    let count := g.count + 1
    let now := (r.axes.vals.getD 0 0).toInt
    let n := if r.cause = 3 then (hubTask s t).merged else g.skipped
    let stamp := stampWords t count.toNat n r
    let new := (hubTask s t).switched
    let v := (r.view.filter (fun v => v.new = new)).getD (viewRelease s t new r)
    let (caps, s) := captureImage s p t ((r.view.getD v).caps)
    let smp := selectSample s p t now
    let m : StampMsg :=
      { task := t, rel := count, stamp := stamp, image := v.image ++ caps, sample := smp.map (·.seq)
        forces := v.forces, copies := v.copies, switches := switches }
    let s := { modTask s t (fun h => { h with merged := 0 }) with
      tim := { s.tim with gens := upd s.tim.gens t (fun g => { g with count := count, skipped := 0 }) } }
    sendImage (openRelease s m) p m smp

/-- RELEASE (R127). -/
def execRelease (t : Fin 16) (s : State) : Host.Outcome State Fault Refusal :=
  match (s.tim.gens.getD t.val {}).due with
  | [] => .next s
  | r :: rest =>
    let s := { s with tim := { s.tim with gens := upd s.tim.gens t.val (fun g => { g with due := rest }) } }
    if !inService s || standby s then .next (modTask s t.val (fun h => { h with inFlight := false }))
    else .next (performRelease s t.val r)

/-! ### The standby's release (R385, R387, R391, R394) -/

/-- The latest lattice point of a task at or before a value of its axis (R54). -/
def latestPoint (d : TaskDef) (v : Int) : DWord :=
  let period := d.period.toInt
  let phase := d.phase.toInt
  if period ≤ 0 then BitVec.ofInt 64 v
  else
    match dirOf d.dir with
    | .rev => BitVec.ofInt 64 (-(-phase + ((-v + phase) / period) * period))
    | _ => BitVec.ofInt 64 (phase + ((v - phase) / period) * period)

/-- The generator of a task follows the copied stamp: release count and high-water mark (R391). -/
def followStamp (s : State) (t : Nat) (stamp : List QWord) : State :=
  let word := fun (n : Nat) => (stamp.getD n ⟨0, 0⟩).v
  let hwm := fun (g : Generator) =>
    match taskDef s t with
    | some d =>
      if d.source = 4 then g.hwm
      else if d.source = 2 && dirOf d.dir = .any then some (latestPoint d (pathUm (axis s 1).path g.pathBase))
      else some (latestPoint d (join64 (word (2 * d.source)) (word (2 * d.source + 1))).toInt)
    | none => g.hwm
  { s with tim := { s.tim with gens := upd s.tim.gens t (fun g =>
    { g with count := word 1, skipped := 0, hwm := hwm g, lastAx0 := some (join64 (word 2) (word 3)) }) } }

/-- A task whose copied pages have all come is reloaded in every lane that runs it, and the standby is SYNCED with the last one
(R387). -/
def reloadTask (s : State) (t : Nat) : State :=
  let s := modTask s t (fun h => { h with wpos := 1, window := s.bank.modu.window })
  let s := (allLanes.filter (fun l => takesRelease s l t)).foldl (fun s l =>
    modLaneTask (loadLaneTask s l t) l t (fun lt => { lt with caughtUp := (lane s l).st = .rejoining })) s
  let left := s.pair.syncing.filter (· ≠ t)
  let s := { s with pair := { s.pair with syncing := left } }
  if left.isEmpty && s.pair.st = .syncing then setIrq { s with pair := { s.pair with st := .synced } } irqPair else s

/-- In the standby a lane that has loaded is caught up from the copied slots at the next IMAGE, which ends the task's window (R173,
R385; DEDUCED, notes/assumptions 72); a task that has not run since its load is loaded again from what has been copied since. -/
def standbyLoad (s : State) (t : Nat) : State :=
  if s.pair.st != .synced || (hubTask s t).inFlight then s
  else
    let again := allLanes.filter (fun l =>
      (laneTask s l t).loaded && ((lane s l).st = .active || ((lane s l).st = .rejoining && (lane s l).stage = .await)))
    let s := again.foldl (fun s l => loadLaneTask s l t) s
    let join := allLanes.filter (fun l => waitsFor s l t)
    if join.isEmpty || !voted s then s
    else
      let lines := (((activeLanes s).head?).map (fun l => (laneTask s l t).dirtyLines)).getD []
      join.foldl (fun s l => modLaneTask (loadLaneTask s l t) l t (fun lt => { lt with caughtUp := true, dirtyLines := lines })) (endWindow s t)

/-- The standby releases a task with the stamp and image of an IMAGE (R385). FLAGS [0] is SWITCH, FLAGS [1] the program switch. -/
def copyRelease (s : State) (flags : Nat) (i : ImageMsg) : State :=
  let t := i.task
  let s := followStamp s t i.stamp
  if !(inService s) || (s.vote.restarting && !s.vote.awaitRelease) then s
  else if s.pair.syncing.contains t && (bit flags 0 || s.pair.awaited.any (fun q => q.task = t)) then s
  else
    let s := if s.pair.syncing.contains t then reloadTask s t else standbyLoad s t
    let s := if bit flags 1 then (if s.xch.act.any (fun a => a.staged) then swapPoint s (fun _ => true) else s) else s
    let (s, switches) := if bit flags 1 then switchAtRelease s t else (s, false)
    if bit flags 1 && !switches then makeIncompatible s
    else
      let rel := (i.stamp.getD 1 ⟨0, 0⟩).v
      let s := modTask s t (fun h => { h with inFlight := true, expired := [], overrun := false })
      let sw := s.pair.switch.any (fun w => !w.incoming)
      let s := { s with pair := { s.pair with fresh := if bit flags 0 && sw then addNew s.pair.fresh t else s.pair.fresh } }
      openRelease s { task := t, rel := rel, stamp := i.stamp, image := i.image, forces := s.modu.forces.filter (fun f => f.effective)
                      copies := copiesFor s t, switches := switches, copied := true }

end Sys2Proof.Machine
end

