-- ==== Sys2Proof/Machine/Restart.lean ====
section
/-! DEFINITION. The steps of a restart (R171) and of a rejoin (R172, R173), the injection test (R165), debug attach (R177, R178), and
LANE_STATUS (R453). -/
namespace Sys2Proof.Machine

/-! ### The restart (R171) -/

/-- RESTART_SELFTEST_DONE: a lane of a restart has run its self-test with its unit's injection patterns; a failure leaves it to the reset
controller, and the restart goes on with two lanes at least (R84, R171, R367). -/
def restartSelftest (s : State) (l : Lane) (fail : Option Nat) (bad : List (Fin 16 × Fin 16)) : State :=
  if !s.vote.restarting || !s.vote.selftests.contains l then s
  else
    let left := s.vote.selftests.filter (· ≠ l)
    let s := { s with vote := { s.vote with selftests := left } }
    let s := modLane s l (fun x => { setRetired x bad with injection := some (fail.getD 0) })
    let s := match fail with
      | none => modLane s l (fun x => { x with stage := .load })
      | some p => toExcluded (raiseHub s 2 0x2004 (laneNum l) p) l true
    if left.isEmpty && (lanesIn s .rejoining).length < 2 then enterHalted s else s

/-- RESTART_SELFTEST_DONE (R171). -/
def execRestartSelftestDone (l : Lane) (fail : Option Nat) (retired : List (Fin 16 × Fin 16)) (s : State) :
    Host.Outcome State Fault Refusal := .next (restartSelftest s l fail retired)

/-- Every task of a lane is loaded from its agreed checkpoint. -/
def loadLane (s : State) (l : Lane) : State := (allTasks s).foldl (fun s t => loadLaneTask s l t) s

/-- CHECKPOINT_LOAD_DONE: each task stands at WPOS 1 in the version of its checkpoint, in every lane that passed, and the lanes wait for
the first release (R171, R223). -/
def checkpointLoaded (s : State) : State :=
  if !s.vote.restarting || s.vote.awaitRelease || !s.vote.selftests.isEmpty || s.vote.noRestart || !inService s
      || s.pwr.on &&& laneBits != laneBits then s
  else
    let w := s.bank.modu.window
    let s := (allTasks s).foldl (fun s t => modTask s t (fun h => { h with
      wpos := 1, window := w, switched := if s.xch.switchingSince.isSome && (newTasks s).contains t then h.ckptNew else h.switched })) s
    let join := (lanesIn s .rejoining).filter (fun l => (lane s l).restartPath && (lane s l).stage = .load)
    let s := join.foldl (fun s l => modLane (loadLane s l) l (fun x => { x with stage := .await, loaded := true })) s
    if join.isEmpty then s else { s with vote := { s.vote with awaitRelease := true } }

/-- CHECKPOINT_LOAD_DONE (R171). -/
def execCheckpointLoadDone (s : State) : Host.Outcome State Fault Refusal := .next (checkpointLoaded s)

/-! ### The rejoin (R172, R173) -/

/-- RESET_HOLD_EXPIRY: 100 µs after its exclusion, on the hub clock of the reset controller, the lane enters REJOINING within the limits of R172, or stays out until MODULE_RESET; while a restart, a program
switch or the heat of its chip keeps it, it stays held (R172 to R174, R484). -/
def holdOver (s : State) (l : Lane) : State :=
  let x := lane s l
  if x.st != .excluded || !x.holdRunning || !elapsed s x.holdAt 100000 || x.hot || s.vote.restarting || s.xch.switchingSince.isSome || !inService s then s
  else if mayReturn s l then
    modLane s l (fun x => { x with st := .rejoining, restartPath := false, stage := .selftest, held := false, holdRunning := false })
  else modLane s l (fun x => { x with beyond := true, holdRunning := false })

/-- RESET_HOLD_EXPIRY (R172). -/
def execResetHoldExpiry (l : Lane) (s : State) : Host.Outcome State Fault Refusal := .next (holdOver s l)

/-- A lane on the rejoin path at a stage. -/
def rejoinsAt (s : State) (l : Lane) (g : LaneStage) : Bool :=
  let x := lane s l
  x.st = .rejoining && !x.restartPath && x.stage = g && !s.vote.restarting

/-- REJOIN_SELFTEST_DONE (R84, R173). -/
def rejoinSelftest (s : State) (l : Lane) (fail : Option Nat) (bad : List (Fin 16 × Fin 16)) : State :=
  if !rejoinsAt s l .selftest then s
  else
    let s := modLane s l (fun x => { setRetired x bad with injection := some (fail.getD 0) })
    match fail with
    | some p => failRejoin s l 0x2004 p
    | none => modLane s l (fun x => { x with stage := .load })

/-- REJOIN_SELFTEST_DONE (R173). -/
def execRejoinSelftestDone (l : Lane) (fail : Option Nat) (retired : List (Fin 16 × Fin 16)) (s : State) :
    Host.Outcome State Fault Refusal := .next (rejoinSelftest s l fail retired)

/-- REJOIN_LOAD_DONE: the agreed checkpoint of every task is loaded, and the catch-up begins with the tasks at rest; a failed load
returns the lane to EXCLUDED (R173). -/
def rejoinLoaded (s : State) (l : Lane) (ok : Bool) : State :=
  if !rejoinsAt s l .load then s
  else if !ok then failRejoin s l 0x2001 (vectorsWord s 0)
  else
    let s := modLane (loadLane s l) l (fun x => { x with stage := .catchUp, loaded := true, shadowT0 := 0 })
    (allTasks s).foldl catchUps s

/-- REJOIN_LOAD_DONE (R173). -/
def execRejoinLoadDone (l : Lane) (ok : Bool) (s : State) : Host.Outcome State Fault Refusal := .next (rejoinLoaded s l ok)

/-! ### The injection test (R164, R165) -/

/-- The word of SELFTEST_RUN: parties that passed, and parties whose lane is not ACTIVE (R453). -/
def passWord (pass tested : Party → Bool) : Word :=
  let bit_ := fun (p : Party) (k : Nat) => b2n (tested p && pass p) * 2 ^ k + b2n (!tested p) * 2 ^ (k + 4)
  BitVec.ofNat 32 (bit_ (.unit .a) 0 + bit_ (.unit .b) 1 + bit_ (.unit .c) 2 + bit_ .hub 3)

/-- An injection test begins; its run number is one more (R164, R165). -/
def startInjection (s : State) (who : InjectBy) : State :=
  { s with vote := { s.vote with injecting := some who, testFrames := [], injectRun := s.vote.injectRun + 1, lastInject := rawNow s } }

/-- SELFTEST_RUN: the test runs and the command waits for it; one that runs already is BUSY (R165, R448). -/
def execSelftestRun (mb : Mb) (s : State) : Host.Outcome State Fault Refusal :=
  runCmd s mb 0x0C00 false false [] (fun _ => 0) (fun s _ =>
    if s.vote.injecting.isSome then resultMb s mb 1 else waitMb (startInjection s (.command mb)) mb)

/-- INJECTION_TEST_TIMER: 24 hours of operation without a SELFTEST_RUN (R165). -/
def execInjectionTestTimer (s : State) : Host.Outcome State Fault Refusal :=
  if !inService s || s.vote.injecting.isSome || !elapsed s s.vote.lastInject 86400000000000 then .next s
  else .next (startInjection s .timer)

/-- The parties that a test covers: the hub voter and the units of the ACTIVE lanes. -/
def testedParty (s : State) : Party → Bool
  | .hub => true
  | .unit l => (lane s l).st = .active

/-- The results of a test kept for LANE_STATUS. -/
def keepResults (s : State) (fails : List (Party × Nat)) (tested : Party → Bool) : State :=
  let pat := fun (p : Party) => ((fails.find? (fun x => x.1 = p)).map (·.2)).getD 0
  let s := modLanes s (fun l x => { x with injection := if tested (.unit l) then some (pat (.unit l)) else none })
  { s with vote := { s.vote with hubInjection := some (pat .hub) } }

/-- What a failing party brings about in service (R165): its lane is excluded in VOTED3, otherwise a restart; a hub voter that fails in
VOTED2 or SAFE ends every later restart too. -/
def failParty (s : State) (x : Party × Nat) : State :=
  match x.1 with
  | .unit l =>
    if (lane s l).st != .active then s
    else if s.modu.mode = .voted3 then excludeLane s l 0x2004 x.2
    else enterSafe (raiseHub s 3 0x2004 (laneNum l) x.2 0 3) (2 ^ laneNum l)
  | .hub =>
    let s := raiseHub s 3 0x2004 3 x.2 0 3
    if s.modu.mode = .voted3 then enterSafe s
    else enterSafe { s with vote := { s.vote with noRestart := true } }

/-- What the failing parties of a test bring about. Two units at once in VOTED3 are two lanes that leave ACTIVE together: SAFE, with a record
for each and no exclusion (R175; DEDUCED, notes/assumptions 121). -/
def failParties (s : State) (bad : List (Party × Nat)) : State :=
  let units := allLanes.filter (fun l => (lane s l).st = .active && bad.any (fun x => x.1 = .unit l))
  if s.modu.mode = .voted3 && 2 ≤ units.length then
    let s := bad.foldl (fun s x =>
      match x.1 with
      | .unit l => raiseHub s 2 0x2004 (laneNum l) x.2
      | .hub => raiseHub s 3 0x2004 3 x.2 0 3) s
    enterSafe s (laneMask units)
  else bad.foldl failParty s

/-- The result of the test of L3: failing lanes are not admitted, and a failing hub voter halts the module (R165, R428). -/
def bringUpResult (s : State) (fails : List (Party × Nat)) : State :=
  let up := fun (l : Lane) => (lane s l).st = .rejoining
  let tested := fun (p : Party) => match p with
    | .hub => true
    | .unit l => up l
  let s := keepResults s fails tested
  match fails.find? (fun x => x.1 = .hub) with
  | some x => enterHalted (raiseHub { s with bring := { s.bring with cause := 10 } } 4 0x2004 3 x.2 0 3)
  | none =>
    let s := allLanes.foldl (fun s l =>
      match fails.find? (fun x => x.1 = .unit l) with
      | some x => if up l then toExcluded (raiseHub s 2 0x2004 (laneNum l) x.2) l true else s
      | none => s) s
    { s with bring := { s.bring with stage := .l4, stageAt := rawNow s, injecting := false } }

/-- The result of a test in service: SELFTEST_RUN is answered, and each failing party takes its consequence (R165). A test that the end
of service overtook fails with FAILED_FAULT (R368). -/
def serviceResult (s : State) (who : InjectBy) (fails : List (Party × Nat)) : State :=
  let tested := testedParty s
  let s := { s with vote := { s.vote with injecting := none } }
  if !inService s then (match who with | .command mb => resultMb s mb 7 | .timer => s)
  else
    let bad := fails.filter (fun x => tested x.1)
    let s := keepResults s bad tested
    let pass := fun (p : Party) => !bad.any (fun x => x.1 = p)
    let s := match who with
      | .command mb => okMb s mb [passWord pass tested, BitVec.ofNat 32 s.vote.injectRun]
      | .timer => s
    failParties s bad

/-- INJECTION_TEST_RESULT (R165): each tested party passes when its 12 vectors and gate decisions are the expected ones. -/
def execInjectionTestResult (seen : List InjectSeen) (s : State) : Host.Outcome State Fault Refusal :=
  let fails := testFails s seen
  let s := { s with vote := { s.vote with testFrames := [] } }
  if s.bring.stage = .l3 then .next (bringUpResult s fails)
  else
    match s.vote.injecting with
    | some who => .next (serviceResult s who fails)
    | none => .next s

/-! ### Debug attach (R177, R178) -/

/-- DBG_ATTACH: the first refusal that applies; otherwise it takes effect at the next harvest of T0 (R177). -/
def dbgAttach (s : State) (mb : Mb) (ws : List Word) : State :=
  let l := laneOf (bits (wNat ws 0) 0 2)
  let freeze := bit (wNat ws 0) 8
  let t := bits (wNat ws 1) 0 4
  if !inSession s mb then resultMb s mb 5
  else if !(s.modu.mode = .voted3 || (s.modu.mode = .voted2 && s.bank.modu.bench)) then resultMb s mb 4
  else if bits (wNat ws 0) 0 2 = 3 || (freeze && !(allTasks s).contains t) then resultMb s mb 3
  else if (lane s l).st != .active || debugging s || s.vote.attach.isSome then resultMb s mb 4
  else okMb { s with vote := { s.vote with attach := some (l, freeze, t, ws.getD 2 0), debugMb := some mb } } mb []

/-- DBG_ATTACH (R177). -/
def execDbgAttach (mb : Mb) (s : State) : Host.Outcome State Fault Refusal :=
  runCmd s mb 0x0C01 false false [] (fun _ => 3) (fun s ws => dbgAttach s mb ws)

/-- DEBUG ends: the lane begins the rejoin path, and the detach is recorded; an attach still to come is withdrawn (R178). -/
def detach (s : State) : State :=
  let s := { s with vote := { s.vote with attach := none, debugMb := none } }
  (lanesIn s .debug).foldl (fun s l =>
    let s := modLane s l (fun x => { x.reset with st := .rejoining, restartPath := false, stage := .selftest, held := false })
    moduleRecord s 0x0102 [2, BitVec.ofNat 32 (laneNum l), BitVec.ofNat 32 (modeCode s.modu.mode), hi32 s.vote.harvest,
      lo32 s.vote.harvest]) s

/-- DBG_DETACH: WRONG_STATE where no lane is in DEBUG or about to be (R178). -/
def execDbgDetach (mb : Mb) (s : State) : Host.Outcome State Fault Refusal :=
  runCmd s mb 0x0C02 false false [] (fun _ => 0) (fun s _ =>
    if !debugging s && s.vote.attach.isNone then resultMb s mb 4 else okMb (detach s) mb [])

/-! ### LANE_STATUS (R84, R179, R453) -/

/-- The lane state codes of LANE_STATUS. -/
def laneCode : LaneState → Nat
  | .active => 0 | .excluded => 1 | .rejoining => 2 | .debug => 3 | .off => 4

/-- The mask of healthy pans of a block. -/
def panMask (b : PanBlock) : Nat :=
  ((numbered b.pans).map (fun x => if x.2.retired then 0 else 2 ^ x.1)).foldl (· + ·) 0
/-- The retired pans of a lane. -/
def retiredPans (x : LaneSt) : Nat := (x.blocks.flatMap (fun b => b.pans.filter (fun q => q.retired))).length

/-- The last injection results, as in SELFTEST_RUN. -/
def lastInjection (s : State) : Word :=
  let r := fun (p : Party) => match p with
    | .hub => s.vote.hubInjection
    | .unit l => (lane s l).injection
  passWord (fun p => r p = some 0) (fun p => (r p).isSome)

/-- The status of a lane (R453). -/
def laneStatus (s : State) (l : Lane) : List Word :=
  let x := lane s l
  let n := fun (k : Nat) => BitVec.ofNat 32 k
  let mask := fun (b : Nat) => panMask (x.blocks.getD b { pans := [] })
  let long := fun (w : DWord) => [hi32 w, lo32 w]
  [n (laneCode x.st), n (256 - retiredPans x)] ++ (List.range 8).map (fun k => n (mask (2 * k) + 65536 * mask (2 * k + 1)))
    ++ [n (retiredPans x), n x.eccBlock, n x.eccSlice, n x.eccQueue, n x.late, n x.seqGap, n x.differ, n x.absent, n (recentExclusions s l)]
    ++ long x.lastExclHarvest ++ long x.lastExclAx0
    ++ [n s.vote.splits, n s.vote.deferred, n s.vote.slotsRetired, n (4 - s.vote.slotsRetired), lastInjection s, n s.vote.restartCount]
    ++ (List.range 16).flatMap (fun t => long ((hubTask s t).generation.getD 0))

/-- A memory read of a frozen lane: the words, then their nibbles (R178, R453). -/
def laneMemory (s : State) (mb : Mb) (l : Lane) (ws : List Word) : State :=
  let t := bits (wNat ws 1) 0 4
  let space := bits (wNat ws 1) 8 2
  let first := wNat ws 2
  let n := wNat ws 3
  let x := lane s l
  if !(x.st = .debug && x.freeze && x.frozen) then resultMb s mb 4
  else
    let declared := (List.range n).all (fun k => (findPage x.pages t space ((first + k) / 256)).isSome)
    if n = 0 || 4096 < n || space = 3 || !declared then resultMb s mb 3
    else
      let out := (List.range n).map (fun k => readWord x.pages t space (first + k) (laneTask s l t).cyc.rel.toNat)
      okMb s mb (out.map (·.v) ++ nibbleWords ((n + 7) / 8) out)

/-- The domain of a lane is on (R399). -/
def laneDomainOn (s : State) (l : Lane) : Bool := domainOn s (2 + laneNum l)

/-- LANE_STATUS (R453): DOMAIN_OFF of a lane whose domain is off (R369, R370; log 185). -/
def execLaneStatus (mb : Mb) (s : State) : Host.Outcome State Fault Refusal :=
  runCmd s mb 0x0C03 true true [] (fun ws => if bit (wNat ws 0) 8 then 4 else 1) (fun s ws =>
    let k := bits (wNat ws 0) 0 2
    if k = 3 then resultMb s mb 3
    else if !laneDomainOn s (laneOf k) then resultMb s mb 6
    else if bit (wNat ws 0) 8 then laneMemory s mb (laneOf k) ws else okMb s mb (laneStatus s (laneOf k)))

end Sys2Proof.Machine
end

