-- ==== Sys2Proof/Machine/BringUp.lean ====
section
/-! DEFINITION. Bring-up (18): its stages from the boot ROM to admission, and what ends it early. -/
namespace Sys2Proof.Machine

/-! ### B1 and B2 (R424, R425) -/

/-- A stage begins. -/
def atStage (s : State) (g : Stage) : State := { s with bring := { s.bring with stage := g, stageAt := rawNow s } }

/-- FIRMWARE_VERIFIED: the boot ROM takes the first firmware slot that verifies, and marks one that failed before it RETIRED; with none
the module stays in BRINGUP with BOOT_FAIL (R424). Which slot is tried first is its headers' business, which the model does not hold. -/
def firmwareVerified (s : State) (ok0 ok1 : Bool) : State :=
  let ok := fun (k : Nat) => if k = 0 then ok0 else ok1
  let first := match s.xch.fwRetired with
    | some k => 1 - k
    | none => if Config.fwFirst then 1 else 0
  let other := if s.xch.fwRetired.isNone then some (1 - first) else none
  let run := fun (s : State) (k : Nat) => atStage { s with xch := { s.xch with fwSlot := k } } .b2
  if ok first then run s first
  else
    match other with
    | some k =>
      if ok k then
        run { s with xch := { s.xch with fwRetired := some first }, bring := { s.bring with owedSlot := some first } } k
      else { s with bring := { s.bring with bootFail := true, cause := 1 } }
    | none => { s with bring := { s.bring with bootFail := true, cause := 1 } }

/-- FIRMWARE_VERIFIED (R424). -/
def execFirmwareVerified (ok0 ok1 : Bool) (s : State) : Host.Outcome State Fault Refusal :=
  if s.modu.mode = .bringup && s.bring.stage = .b1 && domainOn s 1 && !s.bring.bootFail then .next (firmwareVerified s ok0 ok1) else .next s

/-- The active slot of a kind as the headers tell it; of two ACTIVE slots the one of lower GENERATION is RETIRED, a bank area VERIFIED
(R203). -/
def readHeaders (s : State) (img : Bool) : State :=
  let put := fun (s : State) (k : Option Nat) =>
    if img then { s with xch := { s.xch with imgSlot := k } } else { s with xch := { s.xch with bankSlot := k } }
  let on := fun (k : Nat) => slotState s img k = slActive
  let down := if img then slRetired else slVerified
  if on 0 && on 1 then
    let top := if (slotGen s img 0).ult (slotGen s img 1) then 1 else 0
    put (setSlotState s img (1 - top) down) (some top)
  else put s (if on 0 then some 0 else if on 1 then some 1 else none)

/-- SUPERVISOR_START: B2 reads the control areas, what was owed is recorded, and the module enters LIMITED (R203, R355, R373, R409, R421,
R425). -/
def supervisorStart (s : State) (strapPrimary : Bool) : State :=
  let s := readHeaders (readHeaders (loadRecorder (loadLog s)) true) false
  let s := { s with pair := { s.pair with primary := strapPrimary } }
  let s := match s.bring.owedSlot with
    | some k => raiseHub { s with bring := { s.bring with owedSlot := none } } 2 0xE001 k
    | none => s
  let s := writeOwed s
  let s := if s.pwr.pfPending then
      raiseHub { s with pwr := { s.pwr with pfPending := false, vholdShort := true } } 2 0xB005
    else s
  atStage (setMode (enterEarly s) .limited (some 0)) .l1

/-- SUPERVISOR_START (R425). -/
def execSupervisorStart (strapPrimary : Bool) (s : State) : Host.Outcome State Fault Refusal :=
  if s.modu.mode = .bringup && s.bring.stage = .b2 && domainOn s 1 then .next (supervisorStart s strapPrimary) else .next s

/-! ### L1 (R203, R426) -/

/-- The active bank verified again: S3 and no bank where its signature fails (R203, R426). -/
def verifyBank (s : State) : State :=
  match s.xch.bankSlot with
  | none => s
  | some k =>
    let bs := slotWhole s false k
    if objectSigned bs then applyBank s (parseBank bs)
    else raiseHub { s with xch := { s.xch with bankSlot := none }, bring := { s.bring with cause := 2 } } 3 0xE002 0 0 0 3

/-- The active program verified again, rebuilt and checked (R426): a failure is an S4 that halts the module. -/
def verifyProgram (s : State) : State :=
  match s.xch.imgSlot with
  | none => s
  | some k =>
    let bs := slotWhole s true k
    if objectSigned bs && (imageCheck bs).isNone then
      let p := parseProgram bs k
      orphanConns (loadDestinations { s with prog := some p }) s.bank (some p)
    else enterHalted (raiseHub { s with bring := { s.bring with cause := 4 } } 4 0xE003 0 0 0 3)

/-- OBJECT_VERIFICATION: bank, then program; bring-up then waits for lane release (R426, R427). -/
def verifyObjects (s : State) : State :=
  let s := verifyProgram (verifyBank s)
  let s := { s with bring := { s.bring with verified := true } }
  if s.modu.mode = .limited then { s with bring := { s.bring with waiting := true } } else s

/-- OBJECT_VERIFICATION (R426). -/
def execObjectVerification (s : State) : Host.Outcome State Fault Refusal :=
  if s.modu.mode = .limited && !s.bring.verified then .next (verifyObjects s) else .next s

/-! ### Lane release (R427) -/

/-- Bank and program are verified, and bring-up waits for lane release. -/
def awaitsRelease (s : State) : Bool :=
  s.modu.mode = .limited && s.bring.waiting && s.bring.verified && s.bank.valid && s.prog.isSome
/-- The three lane domains are on and none of them is being shed. -/
def lanesReady (s : State) : Bool :=
  s.pwr.on &&& laneBits = laneBits && s.pwr.on.getLsbD 1 && !(s.pwr.shedStep = some 2)

/-- What keeps bring-up, as GET_STATUS tells it (R453). -/
def stopCause (s : State) : Nat :=
  if s.bring.bootFail then 1
  else if s.modu.mode = .limited && s.bring.waiting then
    (if !s.bank.valid then (if s.bring.cause = 2 then 2 else 3)
     else if s.prog.isNone then 5
     else if s.pwr.on &&& laneBits != laneBits then 7
     else if !s.bank.modu.autoStart && !s.bring.started then 6 else 0)
  else s.bring.cause

/-- START: only in the wait for it (R427). -/
def execStart (mb : Mb) (s : State) : Host.Outcome State Fault Refusal :=
  runCmd s mb 0x0121 true false [] (fun _ => 0) (fun s _ =>
    if awaitsRelease s && !s.bank.modu.autoStart && !s.bring.started then
      okMb { s with bring := { s.bring with started := true } } mb []
    else resultMb s mb 4)

/-- LANE_RELEASE: the lanes go from OFF to REJOINING by the restart path, and L2 begins (R176, R427). -/
def releaseLanes (s : State) : State :=
  let s := modLanes s (fun _ x => { x with
    st := .rejoining, restartPath := true, stage := .load, held := false, holdRunning := false, stopped := false, latch := true })
  atStage { s with bring := { s.bring with waiting := false, releasedAt := rawNow s, cause := 0 } } .l2

/-- LANE_RELEASE (R427). -/
def execLaneRelease (s : State) : Host.Outcome State Fault Refusal :=
  if awaitsRelease s && lanesReady s && (s.bank.modu.autoStart || s.bring.started) then .next (releaseLanes s) else .next s

/-! ### L2 to L4 (R428, R429) -/

/-- PROGRAM_LOAD_DONE: the program is in every lane; one that failed its restore self-test, or whose bank failed its CRC after a reload, is
EXCLUDED, counted (R137, R428). -/
def programLoaded (s : State) (p : Program) (fails : List Lane) : State :=
  let s := allLanes.foldl (fun s l =>
    if (lane s l).st != .rejoining then s
    else if s.bring.failed.contains l then toExcluded (raiseHub s 2 0x2004 (laneNum l)) l true
    else if fails.contains l then toExcluded (raiseHub s 2 0x2001 (laneNum l) (vectorsWord s 0)) l true
    else modLane s l (fun x => { x with pages := p.loadAll, tasks := List.replicate 16 {}, loaded := true })) s
  atStage { s with bring := { s.bring with failed := [], injecting := true }, vote := { s.vote with lastInject := rawNow s } } .l3

/-- PROGRAM_LOAD_DONE (R428). -/
def execProgramLoadDone (fails : List Lane) (s : State) : Host.Outcome State Fault Refusal :=
  match s.prog with
  | some p => if s.bring.stage = .l2 then .next (programLoaded s p fails) else .next s
  | none => .next s

/-- The lines of a retained page of a program in a lane, after the restore. -/
def retainedLines (x : LaneSt) (d : PageDecl) : List RetLine :=
  (List.range 16).map (fun j => { key := d.key, line := j
                                  words := (List.range 16).map (fun i => readWord x.pages d.task d.space (d.page * 256 + j * 16 + i) 0) })

/-- RETAINED_RESTORE: pages return by key from the valid buffer of higher sequence, in both banks of every lane; what each buffer then
still needs is marked dirty (R151, R429). Neither buffer valid is a record of its own. -/
def restoreRetained (s : State) (p : Program) : State :=
  let k := match retSeq s 0, retSeq s 1 with
    | some x, some y => some (if x.ult y then 1 else 0)
    | some _, none => some 0
    | none, some _ => some 1
    | none, none => none
  let kept := p.pages.filter (fun d => d.retained)
  let at_ := fun (d : PageDecl) => k.bind (fun k => ((retDirOf s k).findIdx? (· = d.key)).map (fun i => (k, i)))
  let words := fun (d : PageDecl) (k i : Nat) =>
    (List.range 16).flatMap (fun j => (readRetLine s k i j).map (fun w => if d.space = 0 then w else { w with q := 0 }))
  let pages := fun (x : LaneSt) => kept.foldl (fun ps d =>
    match at_ d with
    | some (k, i) => setPage ps d.task d.space d.page (words d k i)
    | none => ps) x.pages
  let s1 := modLanes s (fun _ x => if x.st = .rejoining then { x with pages := pages x } else x)
  let src := match (lanesIn s1 .rejoining).head? with
    | some l => lane s1 l
    | none => {}
  let dirty := kept.flatMap (fun d => (retainedLines src d).map (fun r =>
    match at_ d with
    | some (k, _) => (r, decide (k = 1), decide (k = 0))
    | none => (r, true, true)))
  let v := { s1.vote with
    retDirty := dirty, retActive := k.getD 1, retDir0 := retDirOf s 0 != p.directory, retDir1 := retDirOf s 1 != p.directory
    retRestored := true }
  let s := { s1 with vote := v }
  if k.isNone then raiseHub s 2 0x3006 else s

/-- L4 ends: the generators start for the program's tasks, and the lanes await the first release of T0 (R54, R429). -/
def restoreDone (s : State) (p : Program) : State :=
  let s := restoreRetained s p
  let s := p.tasks.foldl setGenerator s
  let s := modLanes s (fun _ x => if x.st = .rejoining then { x with stage := .await } else x)
  atStage s .l5

/-- RETAINED_RESTORE (R151). -/
def execRetainedRestore (s : State) : Host.Outcome State Fault Refusal :=
  match s.prog with
  | some p => if s.bring.stage = .l4 then .next (restoreDone s p) else .next s
  | none => .next s

/-! ### Admission (R429) -/

/-- The loaded state is the first agreed checkpoint of every task, until a window ends (DEDUCED from R167 and R171, notes/assumptions
73). -/
def firstStore (p : Program) (x : LaneSt) : List StorePage :=
  (p.pages.filter (fun d => d.space != 2)).map (fun d =>
    let ws := restPage x.pages d.task d.space d.page 0
    { task := d.task, space := d.space, page := d.page, slot0 := ws, slot1 := ws, agreed := 0 })

/-- ADMISSION: the first lattice point of T0 after L4. The lanes that passed become ACTIVE and the mode VOTED3, VOTED2 or HALTED; T0 is
released where the module controls (R385, R429). -/
def admitModule (s : State) (p : Program) : State :=
  let join := lanesIn s .rejoining
  if join.length < 2 then enterHalted { s with bring := { s.bring with cause := 9 } }
  else
    let src := match join.head? with
      | some l => lane s l
      | none => {}
    let s := modLanes s (fun _ x => if x.st = .rejoining then { x with st := .active } else x)
    let w := s.bank.modu.window
    let s := { s with
      vote := { s.vote with store := firstStore p src }
      hubt := s.hubt.map (fun h => { h with window := w, wpos := 1 })
      bring := { s.bring with stage := .none, cause := 0 } }
    let s := if join.length = 3 then setMode s .voted3 (some 0) else setMode s .voted2 (some 2)
    match p.taskDef 0 with
    | some d =>
      if !s.pair.controlling then s
      else
        let at_ := latestPoint d (axis s (d.source - 1)).value.toInt
        fireRelease { s with tim := { s.tim with gens := upd s.tim.gens 0 (fun g => { g with hwm := some at_ }) } } 0 (d.source - 1)
    | none => s

/-- ADMISSION (R429). -/
def execAdmission (s : State) : Host.Outcome State Fault Refusal :=
  match s.prog with
  | some p => if s.bring.stage = .l5 then .next (admitModule s p) else .next s
  | none => .next s

/-! ### What ends a bring-up early (R422, R429, R458) -/

/-- The limit of a stage in ns, where reaching it halts the module (R422): those of LIMITED. -/
def stageLimit : Stage → Option Nat
  | .l1 => some 280000000
  | .l2 => some 220000000
  | .l3 => some 1000000
  | .l4 => some 25000000
  | _ => none

/-- STAGE_TIME_LIMIT: a stage beyond its limit, or L2 to L4 beyond 1 s of lane release, halts the module with an S4 record (R422, R429). -/
def execStageTimeLimit (s : State) : Host.Outcome State Fault Refusal :=
  let g := s.bring.stage
  let expired := (stageLimit g).any (fun n => elapsed s s.bring.stageAt n)
  let late := (g = .l2 || g = .l3 || g = .l4) && elapsed s s.bring.releasedAt 1000000000
  if s.modu.mode = .limited && !s.bring.waiting && (expired || late) then
    .next (enterHalted (raiseHub { s with bring := { s.bring with cause := 8 } } 4 0xE006 (stageCode g) 0 0 3))
  else .next s

/-- JTAG_TRST_HIGH: the level of JTAG_TRST_N, which halts the module at its next harvest while it is high (R458). -/
def execJtagTrstHigh (high : Bool) (s : State) : Host.Outcome State Fault Refusal :=
  .next { s with modu := { s.modu with jtagHigh := high } }

end Sys2Proof.Machine
end

