-- ==== Sys2Proof/Machine/ForceCmds.lean ====
section
/-! DEFINITION. The commands of the force table (R143 to R147). -/
namespace Sys2Proof.Machine

/-- The entries of the table: a new entry for a target stands for the one it will replace. -/
def forceTable (s : State) : List Force :=
  s.modu.forces.filter (fun f => !(f.effective && s.modu.forces.any (fun g => g.slot = f.slot && !g.effective)))

/-- The place of a new entry: that of its target, or the lowest free one of 256 (R143). -/
def forceSlot (s : State) (kind : Nat) (id : Word) : Option Nat :=
  match s.modu.forces.find? (fun f => f.kind = kind && f.id = id) with
  | some f => some f.slot
  | none => (List.range 256).find? (fun k => !(s.modu.forces.any (fun f => f.slot = k)))

/-- FORCE_SET (R146): the entry waits for the lanes. While another force change awaits its acknowledgement it ends with BUSY, which comes
before NO_SPACE (DESIGN CHOICE, notes/assumptions 169). -/
def execForceSet (mb : Mb) (s : State) : Host.Outcome State Fault Refusal :=
  runCmd s mb 0x0400 false false [] (fun _ => 4) fun s ws =>
    let kind := bits (wNat ws 0) 24 8
    let id := ws.getD 1 0
    let p := s.prog.getD {}
    if !p.bindsTarget kind id then resultMb s mb 3
    else if !(p.perms.contains { kind := kind, id := id })
        || (safetyClassed s p kind id && !(inSession s mb && s.bank.modu.forcePermit)) then resultMb s mb 5
    else if s.modu.forceWait.isSome then resultMb s mb 1
    else match forceSlot s kind id with
      | none => resultMb s mb 0x0A
      | some k =>
        let f : Force := { slot := k, kind := kind, id := id, v0 := ws.getD 2 0, v1 := ws.getD 3 0, keep := bit (wNat ws 0) 0 }
        waitMb { s with modu := { s.modu with forces := s.modu.forces ++ [f], forceWait := some mb } } mb

/-- FORCE_CLEAR (R146, R147, R453): one entry or all; an entry not in use is BAD_ARG, and an empty table needs no
acknowledgement. While another force change awaits its acknowledgement it ends with BUSY (DESIGN CHOICE, notes/assumptions 169). -/
def execForceClear (mb : Mb) (s : State) : Host.Outcome State Fault Refusal :=
  runCmd s mb 0x0401 true true [] (fun _ => 1) fun s ws =>
    let all := decide (wNat ws 0 = 0xFFFFFFFF)
    let goes := fun (f : Force) => all || f.slot = wNat ws 0
    if s.modu.forceWait.isSome then resultMb s mb 1
    else if !all && !(s.modu.forces.any goes) then resultMb s mb 3
    else if s.modu.forces.isEmpty then resultMb s mb 0
    else
      let fs := s.modu.forces.map (fun f => if goes f then { f with leaving := true } else f)
      waitMb { s with modu := { s.modu with forces := fs, forceWait := some mb } } mb

/-- FORCE_ACKNOWLEDGE (R144, R145): all three lanes have acknowledged the change, which from now on governs. -/
def execForceAcknowledge (s : State) : Host.Outcome State Fault Refusal :=
  .next (match s.modu.forceWait with
    | none => s
    | some mb =>
      let new := s.modu.forces.filter (fun f => !f.effective && !f.leaving)
      let gone := s.modu.forces.filter (·.leaving)
      let fs := (forceTable s).filter (fun f => !f.leaving)
      let s := { s with modu := { s.modu with forces := fs.map (fun f => { f with effective := true }), forceWait := none } }
      let s := new.foldl (fun s f => forceRecord s 1 f) s
      let s := gone.foldl (fun s f => forceRecord s 2 f) s
      finishMb (setIrq s irqForce) mb 0 (new.map (fun f => BitVec.ofNat 32 f.slot)))

/-- FORCE_LIST (R453). -/
def execForceList (mb : Mb) (s : State) : Host.Outcome State Fault Refusal :=
  runCmd s mb 0x0402 true true [] (fun _ => 0) fun s _ =>
    let fs := (List.range 256).flatMap (fun k => (forceTable s).filter (fun f => f.slot = k))
    finishMb s mb 0 (BitVec.ofNat 32 fs.length :: fs.flatMap (fun f =>
      [BitVec.ofNat 32 f.slot, BitVec.ofNat 32 (f.kind * 2 ^ 24 + b2n f.keep), f.id, f.v0, f.v1]))

end Sys2Proof.Machine
end

