-- ==== Sys2Proof/Machine/HostPort.lean ====
section
/-! DEFINITION. The host port (R434 to R443): the status byte, reads, writes, and the rows of single registers. -/
namespace Sys2Proof.Machine

/-! ### The status byte (R436, R438) -/

/-- A write of more than 32 words may not be accepted now (R438). -/
def hostBusy (s : State) (tm : HostTiming) : Bool :=
  tm.bufferHigh || tm.fabricBusy
    || [Mb.mb0, Mb.mb1].any (fun mb => (mbox s mb).st = .receiving && decide (1024 - (mbox s mb).fill < 32))

/-- A status byte (R436). -/
def statusByte (s : State) (err busy dOff retry : Bool) : Byte :=
  BitVec.ofNat 8 (b2n (hostIrqLow s) * 128 + b2n err * 64 + b2n busy * 32 + b2n dOff * 16 + b2n retry * 8 + 2)

/-- The supervisor has taken words from the request FIFOs since the last transaction (R446, R447; notes/assumptions 157). -/
def drainFifos (s : State) (n : Nat) : State :=
  { s with hp := { s.hp with
    mb0 := { s.hp.mb0 with fill := s.hp.mb0.fill - n }, mb1 := { s.hp.mb1 with fill := s.hp.mb1.fill - n } } }

/-- The opcode phase of a transaction: the status byte, with what the last write left to report, which is thereby reported (R436). -/
def opcodePhase (s : State) (tm : HostTiming) : State :=
  let s := drainFifos s tm.drained
  let h := s.hp
  let s := emit s (.hostData (statusByte s h.err (hostBusy s tm) h.dOff h.retry) [])
  { s with hp := { s.hp with err := false, dOff := false, retry := false } }

/-- An error with its cause and word, reported in the next opcode phase (R436, R441). -/
def portError (s : State) (cause word : Nat) : State :=
  let s := hostError s cause word
  { s with hp := { s.hp with err := true } }

/-! ### Reads (R435, R437, R439) -/

/-- The words of a read that starts at an aligned address. A word fetched too late is zero together with every later one, and
they consume nothing (R437). -/
def fetchWords (s : State) (a count : Nat) (late : Option Nat) : PortAnswer × State :=
  let good := match late with
    | some k => min k count
    | none => count
  let rest := List.replicate (count - good) (0 : Word)
  let under := decide (good < count)
  let (r, s) : PortAnswer × State :=
    if 0x800000 ≤ a then
      if under then ({ words := (windowRead s a count).1.words.take good }, s) else windowRead s a count
    else
      let s := if (peek s .host a).isNone then hostError s 2 0 else s
      let err := (peek s .host a).isNone
      let (ws, s) := regReads .host (accessAddrs a good) s
      ({ err := err, words := ws }, s)
  ({ r with words := r.words ++ rest }, if under then portError s 3 good else s)

/-- A read of the host port in 1-bit or 4-bit form (R435 to R437, R439). While HUB is off every read returns ones (R370). -/
def hostRead (s : State) (addr : BitVec 24) (count : Nat) (tm : HostTiming) : State :=
  if !domainOn s 1 then emit s (.hostData 0xFF (List.replicate count 0xFFFFFFFF))
  else
    let s := opcodePhase s tm
    let a := addr.toNat
    let (r, s) : PortAnswer × State :=
      if a % 4 != 0 then ({ err := true, words := List.replicate count 0 }, hostError s 1 0)
      else fetchWords s a count tm.late
    emit s (.hostData (statusByte s r.err (tm.late = some 0 && 0 < count) r.dOff r.retry) r.words)

/-! ### Writes (R435, R436, R438, R439) -/

/-- The words of a write below the remote window, one after the other. The first of them that ends in an error gives HP_STAT its
index (R441). -/
def hostWrites : Nat → Bool → List (Nat × Word) → State → State
  | _, _, [], s => s
  | k, seen, (a, w) :: l, s =>
    let h := s.hp
    let s1 := if a ≤ 0x7FFFFF then regWrite { s with hp := { s.hp with cause := 0 } } .host 0 a w 0 else s
    let bad := s1.hp.cause != 0 && a ≤ 0x7FFFFF
    let s2 :=
      if !bad then { s1 with hp := { s1.hp with cause := h.cause, word := h.word } }
      else { s1 with hp := { s1.hp with word := if seen then h.word else k, err := true } }
    hostWrites (k + 1) (seen || bad) l s2

/-- What a window write leaves to report (R436). -/
def keepAnswer (r : PortAnswer × State) : State :=
  let s := r.2
  { s with hp := { s.hp with err := s.hp.err || r.1.err, dOff := s.hp.dOff || r.1.dOff, retry := s.hp.retry || r.1.retry } }

/-- The words of a write, as far as the write buffer takes them (R438, R439). -/
def takeWords (s : State) (a : Nat) (words : List Word) (tm : HostTiming) : State :=
  if a % 4 != 0 then portError s 1 0
  else
    let ws := match tm.full with
      | some k => words.take k
      | none => words
    let s :=
      if 0x800000 ≤ a then keepAnswer (windowWrite s a ws)
      else
        let s := if (peek s .host a).isNone then portError s 2 0 else s
        hostWrites 0 false ((accessAddrs a ws.length).zip ws) s
    if ws.length < words.length then portError s 4 ws.length else s

/-- A write of the host port in 1-bit or 4-bit form. -/
def hostWrite (s : State) (addr : BitVec 24) (words : List Word) (tm : HostTiming) : State :=
  if domainOn s 1 then takeWords (opcodePhase s tm) addr.toNat words tm else emit s (.hostData 0xFF [])

/-! ### Rows -/

/-- READ (R435). -/
def execRead (addr : BitVec 24) (count : Nat) (tm : HostTiming) (s : State) : Host.Outcome State Fault Refusal :=
  .next (hostRead s addr count tm)
/-- QUAD_READ (R435). -/
def execQuadRead (addr : BitVec 24) (count : Nat) (tm : HostTiming) (s : State) : Host.Outcome State Fault Refusal :=
  .next (hostRead s addr count tm)
/-- WRITE (R435). -/
def execWrite (addr : BitVec 24) (words : List Word) (tm : HostTiming) (s : State) : Host.Outcome State Fault Refusal :=
  .next (hostWrite s addr words tm)
/-- QUAD_WRITE (R435). -/
def execQuadWrite (addr : BitVec 24) (words : List Word) (tm : HostTiming) (s : State) : Host.Outcome State Fault Refusal :=
  .next (hostWrite s addr words tm)
/-- STATUS (R435): the byte of the opcode phase, then the status byte as it is now. -/
def execStatus (tm : HostTiming) (s : State) : Host.Outcome State Fault Refusal :=
  .next (
    if !domainOn s 1 then emit s (.hostData 0xFF [])
    else
      let s := opcodePhase s tm
      emit s (.hostData (statusByte s s.hp.err (hostBusy s tm) s.hp.dOff s.hp.retry) []))
/-- BAD_OPCODE (R435): every opcode but the five. -/
def execBadOpcode (op : Byte) (s : State) : Host.Outcome State Fault Refusal :=
  .next (
    if !domainOn s 1 then emit s (.hostData 0xFF [])
    else if op = 0xA1 || op = 0xA2 || op = 0xA5 || op = 0xA6 || op = 0xAF then s
    else portError (opcodePhase s {}) 5 0)

/-- A read of one register through a port: a transaction of the host, or an access of the inbound engine. -/
def portRead (s : State) (p : Port) (a : Nat) : State :=
  match p with
  | .host => hostRead s (BitVec.ofNat 24 a) 1 {}
  | .bridge => if domainOn s 1 then (regRead s .bridge a).2 else s
/-- A write of one register through a port; the inbound engine never reaches MB0 (R333). -/
def portWrite (s : State) (p : Port) (a : Nat) (w : Word) : State :=
  match p with
  | .host => hostWrite s (BitVec.ofNat 24 a) [w] {}
  | .bridge => if domainOn s 1 && !(0x200 ≤ a && a ≤ 0x218) then regWrite s .bridge 0 a w 0 else s

/-- REGISTER_WRITE (R8): below the remote window. -/
def execRegisterWrite (port : Port) (addr : BitVec 24) (w : Word) (s : State) : Host.Outcome State Fault Refusal :=
  .next (if addr.toNat < 0x800000 then portWrite s port addr.toNat w else s)
/-- RC_FIELD_READ (R9): below the remote window. -/
def execRcFieldRead (port : Port) (addr : BitVec 24) (s : State) : Host.Outcome State Fault Refusal :=
  .next (if addr.toNat < 0x800000 then portRead s port addr.toNat else s)
/-- SNAP (R41). -/
def execSnap (s : State) : Host.Outcome State Fault Refusal := .next (portWrite s .host 0x300 1)
/-- AXN_VAL_HI_READ (R41). -/
def execAxnValHiRead (n : Fin 4) (s : State) : Host.Outcome State Fault Refusal := .next (portRead s .host (0x310 + 32 * n.val))
/-- MOD_HARVEST_HI_READ (R442). -/
def execModHarvestHiRead (s : State) : Host.Outcome State Fault Refusal := .next (portRead s .host 0x10C)
/-- MBXN_VAL_READ (R442). -/
def execMbxnValRead (n : Fin 16) (s : State) : Host.Outcome State Fault Refusal := .next (portRead s .host (0x140 + 8 * n.val))
/-- REC_CURSOR_LO_WRITE (R357). -/
def execRecCursorLoWrite (port : Port) (w : Word) (s : State) : Host.Outcome State Fault Refusal := .next (portWrite s port 0x408 w)
/-- REC_DATA_READ (R358). -/
def execRecDataRead (port : Port) (s : State) : Host.Outcome State Fault Refusal := .next (portRead s port 0x40C)
/-- FLT_CURSOR_LO_WRITE (R372). -/
def execFltCursorLoWrite (port : Port) (w : Word) (s : State) : Host.Outcome State Fault Refusal := .next (portWrite s port 0x714 w)
/-- FLT_LOG_DATA_READ (R372). -/
def execFltLogDataRead (port : Port) (s : State) : Host.Outcome State Fault Refusal := .next (portRead s port 0x718)
/-- CLEAR (R372): a write of FLT_SUM with CLEAR set. -/
def execClear (s : State) : Host.Outcome State Fault Refusal := .next (portWrite s .host 0x700 0x08000000)
/-- BR_LOG_DATA_READ (R331). -/
def execBrLogDataRead (s : State) : Host.Outcome State Fault Refusal := .next (portRead s .host 0x50C)
/-- BR_PAGEN_CFG_WRITE (R319, R320). -/
def execBrPagenCfgWrite (n : Fin 16) (w : Word) (s : State) : Host.Outcome State Fault Refusal :=
  .next (portWrite s .host (0x580 + 8 * n.val) w)

/-- REMOTE_WINDOW_READ (R326). -/
def execRemoteWindowRead (addr : BitVec 24) (count : Nat) (s : State) : Host.Outcome State Fault Refusal :=
  .next (if 0x800000 ≤ addr.toNat then hostRead s addr count {} else s)
/-- REMOTE_WINDOW_WRITE (R326): on a page that is not TRAIN. -/
def execRemoteWindowWrite (addr : BitVec 24) (words : List Word) (s : State) : Host.Outcome State Fault Refusal :=
  .next (if 0x800000 ≤ addr.toNat && !(brPage s (windowSpan addr.toNat 0).1).train then hostWrite s addr words {} else s)
/-- POST (R328): on a TRAIN page. -/
def execPost (addr : BitVec 24) (words : List Word) (s : State) : Host.Outcome State Fault Refusal :=
  .next (if 0x800000 ≤ addr.toNat && (brPage s (windowSpan addr.toNat 0).1).train then hostWrite s addr words {} else s)

/-! ### Mailbox registers (R445 to R448) -/

/-- A source that can reach a mailbox: MB0 is the host's alone, MB1 is also reached by bridge nodes (R448). TRDP carries whole requests. -/
def reaches (mb : Mb) (src : Source) : Bool :=
  match mb, src with
  | .mb0, .host | .mb1, .host | .mb1, .node _ => true
  | _, _ => false

/-- The address of a mailbox's registers (R442). -/
def mbBase : Mb → Nat
  | .mb0 => 0x200
  | .mb1 => 0x240

/-- The supervisor has taken words from a mailbox's request FIFO (R446, R447; notes/assumptions 157). -/
def drainMb (s : State) (mb : Mb) (n : Nat) : State := modMb s mb (fun m => { m with fill := m.fill - n })

/-- A source writes a mailbox register: the host by a transaction of its port, a node through the inbound engine (R333, R448). -/
def sourceWrite (s : State) (mb : Mb) (src : Source) (off : Nat) (w : Word) : State :=
  if !reaches mb src then s
  else
    match src with
    | .host => portWrite s .host (mbBase mb + off) w
    | .node n => if domainOn s 1 then regWrite s .bridge n (mbBase mb + off) w 0 else s
    | .trdp _ => s

/-- MB_DATA_WRITE (R446, R447). -/
def execMbDataWrite (mb : Mb) (src : Source) (w : Word) (drained : Nat) (s : State) : Host.Outcome State Fault Refusal :=
  .next (sourceWrite (drainMb s mb drained) mb src 0x10 w)

/-- MB_DATA_READ (R446): the word read goes to the host port, or to the answer of the bridge engine. -/
def execMbDataRead (mb : Mb) (src : Source) (s : State) : Host.Outcome State Fault Refusal :=
  .next (if reaches mb src then portRead s (if src = .host then .host else .bridge) (mbBase mb + 0x10) else s)

/-- MB_CTRL.ACK (R445). -/
def execMbCtrlAck (mb : Mb) (src : Source) (s : State) : Host.Outcome State Fault Refusal := .next (sourceWrite s mb src 0 1)

/-- MB_CTRL.ABORT (R445). -/
def execMbCtrlAbort (mb : Mb) (src : Source) (s : State) : Host.Outcome State Fault Refusal := .next (sourceWrite s mb src 0 2)

end Sys2Proof.Machine
end

