-- ==== Sys2Proof/Machine/NetCmds.lean ====
section
/-! DEFINITION. The commands of the network: NET_STATUS, SLOT_CLAIM, PORT_RELEASE (R295, R454) and PTP_STATUS (R301, R453). -/
namespace Sys2Proof.Machine

/-- Node states as NET_STATUS codes them (R454). -/
def nodeCode : NodeState → Nat
  | .listen => 0 | .contend => 1 | .integrating => 2 | .sync => 3 | .silent => 4

/-- A signed number as two words, high word first (R453). -/
def twoInt (x : Int) : List Word :=
  let v : DWord := BitVec.ofInt 64 x
  [hi32 v, lo32 v]

/-- A number as a word. -/
def w32 (n : Nat) : Word := BitVec.ofNat 32 n

/-- NET_STATUS of a plane (R454). -/
def planeStatus (s : State) (pb : Bool) : List Word :=
  let x := planeSt s pb
  [w32 (nodeCode s.net.node + b2n s.net.refConflict * 256 + b2n s.net.schedMismatch * 512)]
    ++ twoInt x.theta ++ twoInt x.thetaMin ++ twoInt x.thetaMax
    ++ [BitVec.ofInt 32 (dRef s pb), s.net.sched.id, s.net.nextId, s.net.switchCount]

/-- NET_STATUS of a port (R454). -/
def portStatus (s : State) (n : Nat) : List Word :=
  let s := settle s
  let x := if n < 8 then sluice s n else {}
  let c := s.net.sched
  let left := match x.quar with
    | some k => (k - c.cluster (c.cycleOf (now0 s))).toNat
    | none => 0
  let delay := if n < 8 then delayOf s n else (linkPort s n).peerDelay
  [w32 (if portUp s n then (linkPort s n).speed else 0), BitVec.ofInt 32 delay, BitVec.ofInt 32 x.sof, w32 x.window, w32 x.owner, w32 x.cut,
    w32 x.kind, w32 x.quarantines, w32 left, w32 x.drops, w32 (freeDescs s), w32 (freeCells s)]

/-- The leases of a plane: those a star holds, or those the latest GRANT listed (R290, R454). -/
def leaseStatus (s : State) (pb : Bool) : List Word :=
  let ls := if starPlane s = some pb then s.net.leases.map (fun l => (l.slot, l.device)) else (planeSt s pb).known
  w32 ls.length :: ls.map (fun l => w32 (l.2 * 2 ^ 16 + l.1))

/-- Subscribed groups from a number on, at most 64 (R317, R454). -/
def groupStatus (s : State) (first : Nat) : List Word :=
  let gs := ((List.range 1024).filter (fun g => first ≤ g && (groupDef s g false).isSome)).take 64
  w32 gs.length :: gs.flatMap (fun g =>
    let x := groupSt s g
    [w32 g, w32 x.accepted, w32 x.old, w32 x.badShape, w32 x.transitions, x.nibble.setWidth 32])

/-- Open endpoints from a number on (R339, R454). -/
def endpointStatus (s : State) (first : Nat) : List Word :=
  let es := s.br.eps.filter (fun e => first ≤ e.ep)
  w32 es.length :: es.flatMap (fun e => [w32 e.ep, w32 e.sent, w32 e.replayed, w32 e.late, w32 e.gaps, w32 e.drops])

/-- NET_STATUS (R295, R454). The planes, ports and leases are NET's: while it is off they answer DOMAIN_OFF (R369; log 185); the
groups and the endpoints are the hub's. -/
def execNetStatus (mb : Mb) (s : State) : Host.Outcome State Fault Refusal :=
  runCmd s mb 0x0600 true true [] (fun _ => 2) fun s ws =>
    let n := wNat ws 1
    let net := fun (limit : Nat) (out : List Word) =>
      if !decide (n < limit) then resultMb s mb 3 else if !domainOn s 5 then resultMb s mb 6 else finishMb s mb 0 out
    match wNat ws 0 with
    | 0 => net 2 (planeStatus s (n = 1))
    | 1 => net 11 (portStatus s n)
    | 2 => net 2 (leaseStatus s (n = 1))
    | 3 => finishMb s mb 0 (groupStatus s n)
    | 4 => finishMb s mb 0 (endpointStatus s n)
    | _ => resultMb s mb 3

/-- SLOT_CLAIM (R289, R295): the claim is entered on the named planes, and the command waits for its GRANTs. -/
def execSlotClaim (mb : Mb) (s : State) : Host.Outcome State Fault Refusal :=
  runCmd s mb 0x0601 false false [] (fun _ => 1) fun s ws =>
    let slot := bits (wNat ws 0) 0 8
    let planes := bits (wNat ws 0) 8 2
    let c := s.net.sched
    let k := c.cluster (c.cycleOf (now0 s))
    if planes = 0 || !(c.entries.any (fun e => e.slot = slot && e.ty = 3)) || !(s.bank.net.tx.any (fun x => x.slot = slot)) then resultMb s mb 3
    else if !domainOn s 5 then resultMb s mb 6
    else if s.net.node != .sync then resultMb s mb 4
    else if s.net.claimCmd.isSome then resultMb s mb 1
    else
      let claims := { slot := slot, planes := planes, next := k } :: s.net.claims.filter (fun x => x.slot ≠ slot)
      let s := { waitMb s mb with net := { s.net with claims := claims, claimCmd := some (mb, slot, planes, k) } }
      let forget := fun (x : PlaneSt) => { x with decided := x.decided.filter (fun d => d.1 ≠ slot) }
      endSlotClaim (modPlane (modPlane s false forget) true forget)

/-- SLOT_CLAIM_TIMEOUT (R295): 16 cluster cycles without a decision. -/
def execSlotClaimTimeout (mb : Mb) (s : State) : Host.Outcome State Fault Refusal :=
  .next (match s.net.claimCmd with
    | some (m, slot, _, k) =>
      if m = mb && decide (k + 16 ≤ s.net.sched.cluster (s.net.sched.cycleOf (now0 s))) then
        resultMb { s with net := { s.net with claimCmd := none, claims := s.net.claims.filter (fun x => x.slot ≠ slot) } } mb 8
      else s
    | none => s)

/-- PORT_RELEASE (R288, R291, R295); the sluice is NET's (R369). -/
def execPortRelease (mb : Mb) (s : State) : Host.Outcome State Fault Refusal :=
  runCmd s mb 0x0602 true true [] (fun _ => 1) fun s ws =>
    let n := bits (wNat ws 0) 0 3
    if !inSession s mb then resultMb s mb 5
    else if !domainOn s 5 then resultMb s mb 6
    else if (starPlane s).isNone then resultMb s mb 4
    else if (portCfg s n).role != 2 then resultMb s mb 3
    else if bit (wNat ws 0) 8 then resultMb (revokeLeases s n) mb 0
    else resultMb (endQuarantine s n) mb 0

/-- The master that PTP_STATUS names: the module's own clock while it is best, the best master otherwise (R301). -/
def ptpMaster (s : State) : Option PtpAnnounceMsg :=
  let c := s.bank.ptp
  if s.train.ptp.st = .master then
    some { head := default, gmIdentity := Config.clockIdentity, gmPriority1 := c.prio1, gmClass := c.clockClass, gmAccuracy := 0xFE, gmVariance := 0xFFFF
           gmPriority2 := c.prio2, stepsRemoved := 0, parentIdentity := Config.clockIdentity, parentPort := 0 }
  else s.train.ptp.best

/-- PTP_STATUS (R301, R453); identities are zero while no master is known. -/
def execPtpStatus (mb : Mb) (s : State) : Host.Outcome State Fault Refusal :=
  runCmd s mb 0x0610 true true [] (fun _ => 0) fun s _ =>
    let p := s.train.ptp
    let (g, q, k, r) : BitVec 64 × BitVec 64 × Nat × Nat := match ptpMaster s with
      | some m => (m.gmIdentity, m.parentIdentity, m.parentPort, m.stepsRemoved)
      | none => (0, 0, 0, 0)
    finishMb s mb 0 ([w32 (ptpPort s % 256 + ptpCode p.st * 256), hi32 g, lo32 g, 0, hi32 q, lo32 q, w32 (k * 65536), w32 r]
      ++ twoInt p.offset ++ twoInt (pathDelay s) ++ [w32 p.timeouts, w32 p.moves])

end Sys2Proof.Machine
end

