-- ==== Sys2Proof/Machine/NetRx.lean ====
section
/-! DEFINITION. Flovis DATA frames that arrive (R270, R271), and flow packets (R260, R261). -/
namespace Sys2Proof.Machine

/-! ### Flow packets -/

/-- One sample of a packet: 16 or 24 bits, big-endian, as a 24-bit value (R260, R270). -/
def packetSample (wide : Bool) (bs : List Byte) (i : Nat) : Int :=
  if wide then signed 24 (getNat bs (3 * i) 3) else signed 16 (getNat bs (2 * i) 2) * 256

/-- A flow packet from a device: its shape must be the flow's, and its sender the flow's peer (R261, R264, R270). -/
def takeFlowPacket (s : State) (node : Nat) (b : List Byte) : State :=
  match flowCfg s (getByte b 0) with
  | some c =>
    let wide := bit c.format 2
    let n := getNat b 12 2
    let data := b.drop 16
    if (c.peer != node && c.peer != 0xFFFF) || getByte b 1 != c.channels || getByte b 2 != c.format
        || data.length != n * c.channels * (if wide then 3 else 2) then s
    else
      let frame := fun (k : Nat) => (List.range c.channels).map (fun j => packetSample wide data (k * c.channels + j))
      placePacket s c.id (getDWord b 4).toInt ((List.range n).map frame)
  | none => s

/-- FLOW_PACKET_RECEIVE (R261). -/
def execFlowPacketReceive (node : Nat) (body : List Byte) (s : State) : Host.Outcome State Fault Refusal :=
  .next (takeFlowPacket s node body)

/-! ### DATA frames -/

/-- One container of an accepted frame for the module (R270, R271). -/
def takeContainer (s : State) (pb : Bool) (node ty : Nat) (body : List Byte) : State :=
  match ty with
  | 1 =>
    match groupDef s (getNat body 2 2) false with
    | some g => if g.carrier = 1 then groupArrive s g 0 body else s
    | none => s
  | 2 => safeArrive s pb body
  | 3 => takeFlowPacket s node body
  | 4 => takeTunnel s node body
  | 5 => arriveRequest s node body
  | _ => takeResponse s node body

/-- The containers of an accepted frame: those of another device or of an unknown TYPE are skipped and counted; from the second copy
of a slot occurrence only safe telegrams are taken (R271). -/
def takeContainers (s : State) (pb second : Bool) (node : Nat) (cs : List (Nat × Nat × List Byte)) : State :=
  cs.foldl (fun s (ty, dst, body) =>
    if second && ty != 2 then s
    else if ty = 0 || 6 < ty || (dst != s.bank.net.deviceId && dst != 0xFFFF) then
      { s with net := { s.net with skipped := s.net.skipped + 1 } }
    else takeContainer s pb node ty body) s

/-- A DATA frame on a plane (R271). A frame of the partner carries the module's own DEVICE_ID (R383, R390). -/
def receiveData (s : State) (pb : Bool) (bs : List Byte) : State :=
  if !domainOn s 5 || !s.bank.valid || nodePort s pb = none then s
  else if !dataGood s pb bs then { s with net := { s.net with discarded := s.net.discarded + 1 } }
  else
    let node := fNode bs
    let now := rawNow s
    let cycle := match cycleAt s 0 with
      | some (b, _) => b
      | none => 0
    let key := (cycle, fSlot bs, node)
    let second := s.net.taken.any (fun t => t = key)
    let s := { s with net := { s.net with
      taken := if second then s.net.taken else key :: s.net.taken.filter (fun t => t.1 = cycle)
      pairData := if node = s.bank.net.deviceId then some now else s.net.pairData } }
    takeContainers s pb second node (containers (fPayload bs).length (fPayload bs))

/-- FLOVIS_FRAME_RECEIVE (R271): what a container changes that a program is released on follows in their own commands. -/
def execFlovisFrameReceive (p : Plane) (bytes : List Byte) (s : State) : Host.Outcome State Fault Refusal :=
  .next (receiveData s (planeB p) bytes)

end Sys2Proof.Machine
end

