-- ==== Sys2Proof/Machine/System.lean ====
section
/-! DEFINITION. The system commands (R450, R451, R453) and the mailbox registers that have rows of their own (R445, R446). -/
namespace Sys2Proof.Machine

/-! ### GET_INFO and GET_STATUS (R453) -/

/-- GET_INFO. -/
def infoWords (s : State) : List Word :=
  let p := s.prog.getD {}
  [idWord s 0x00, idWord s 0x04, idWord s 0x08, idWord s 0x10, BitVec.ofNat 32 s.xch.fwSlot, idWord s 0x14, idWord s 0x18, idWord s 0x1C,
    p.progId, p.progVer, s.bank.bankId, s.bank.bankVer]

/-- GET_INFO (R453). -/
def execGetInfo (mb : Mb) (s : State) : Host.Outcome State Fault Refusal :=
  runCmd s mb 0x0100 true true [] (fun _ => 0) (fun s _ => okMb s mb (infoWords s))

/-- GET_STATUS. -/
def statusWords (s : State) : List Word :=
  let n := fun (k : Nat) => BitVec.ofNat 32 k
  let ex := if switching s then 2 else if s.xch.act.isSome then 1 else 0
  let load := s.xch.imgLoad.isSome || s.xch.bankLoad.isSome
  [modStat s, moduleStatus s, n (stageCode s.bring.stage * 2 ^ 12 + stopCause s), s.pwr.stat, fltSum s, hi32 s.vote.harvest,
    lo32 s.vote.harvest, n (flowCommitted s), n (s.ack.short % 65536 * 65536 + s.ack.lone % 65536),
    n (ex + b2n s.xch.swap.isSome * 16 + b2n load * 32)]

/-- GET_STATUS (R453). -/
def execGetStatus (mb : Mb) (s : State) : Host.Outcome State Fault Refusal :=
  runCmd s mb 0x0101 true true [] (fun _ => 0) (fun s _ => okMb s mb (statusWords s))

/-! ### Maintenance sessions (R450, R451) -/

/-- The record of a session opened, closed or refused (R451). -/
def sessionRecord (s : State) (what : Nat) (mb : Mb) : State :=
  raiseHub s 0 0xE004 (match mb with | .mb0 => 0 | .mb1 => 1) what

/-- A session ends (R178, R451). -/
def endSession (s : State) (mb : Mb) : State :=
  if !sessionOn s mb then s
  else
    let s := { s with hp := { s.hp with sessions := s.hp.sessions.filter (fun x => x.mb ≠ mb) } }
    sessionRecord (if s.vote.debugMb = some mb then detach s else s) 1 mb

/-- The 12 bytes of ID_SERIAL0 to ID_SERIAL2. -/
def serialBytes : List Byte := beWords [Config.serial 0, Config.serial 1, Config.serial 2]

/-- What the host authenticates (R450). -/
def sessionMessage (nonce : List Byte) (mb : Mb) : List Byte :=
  nonce ++ serialBytes ++ [(match mb with | .mb0 => 0#8 | .mb1 => 1#8)] ++ [0x4B#8, 0x4C#8, 0x56#8, 0x53#8]

/-- SESSION_OPEN phase 1: a fresh nonce for a key number; a key number beyond 3 is BAD_ARG (R450). -/
def sessionPhase1 (s : State) (mb : Mb) (src : Source) (key : Nat) : State :=
  if 3 < key then resultMb s mb 3
  else
    let n := s.hp.nonceCount
    let bytes := (Config.nonce n ++ zeros 16).take 16
    let r : NonceRec := { mb := mb, src := src, key := key, bytes := bytes, at_ := rawNow s }
    let s := { s with hp := { s.hp with nonceCount := n + 1, nonces := r :: s.hp.nonces.filter (fun x => x.mb ≠ mb) } }
    okMb s mb ((toWords bytes).take 4)

/-- A DENIED of phase 2; the third on the mailbox within 60 s blocks it for 60 s (R450). -/
def denySession (s : State) (mb : Mb) : State :=
  let recent := s.hp.denials.filter (fun x => x.1 = mb && !elapsed s x.2 60000000000) ++ [(mb, rawNow s)]
  let third := decide (3 ≤ recent.length)
  let s := { s with hp := { s.hp with
    denials := s.hp.denials.filter (fun x => x.1 ≠ mb) ++ (if third then [] else recent)
    blocked := if third then (mb, rawNow s + 60000000000) :: s.hp.blocked.filter (fun x => x.1 ≠ mb) else s.hp.blocked } }
  resultMb (sessionRecord s 2 mb) mb 5

/-- SESSION_OPEN phase 2: one attempt for a live nonce of the same mailbox and source; the MAC decides (R450). -/
def sessionPhase2 (s : State) (mb : Mb) (src : Source) (mac : List Byte) : State :=
  match s.hp.nonces.find? (fun x => x.mb = mb && x.src = src && !elapsed s x.at_ 10000000001) with
  | none => resultMb s mb 4
  | some r =>
    let s := { s with hp := { s.hp with nonces := s.hp.nonces.filter (fun x => x.mb ≠ mb) } }
    match Config.maintKey r.key with
    | none => denySession s mb
    | some key =>
      if hmac key (sessionMessage r.bytes mb) != mac then denySession s mb
      else
        let s := if s.hp.sessions.any (fun x => x.mb = mb && x.src != src) then endSession s mb else s
        let s := { s with hp := { s.hp with
          sessions := { mb := mb, src := src, lastCmd := rawNow s } :: s.hp.sessions.filter (fun x => x.mb ≠ mb) } }
        okMb (sessionRecord s 0 mb) mb []

/-- SESSION_OPEN (R450). -/
def execSessionOpen (mb : Mb) (s : State) : Host.Outcome State Fault Refusal :=
  runCmd s mb 0x0110 true true [] (fun ws => if wNat ws 0 = 2 then 9 else 2) (fun s ws =>
    let src := ((mbox s mb).holder).getD .host
    if s.hp.blocked.any (fun x => x.1 = mb && decide (rawNow s < x.2)) then resultMb (sessionRecord s 2 mb) mb 5
    else
      match wNat ws 0 with
      | 1 => sessionPhase1 s mb src (wNat ws 1)
      | 2 => sessionPhase2 s mb src (beWords (ws.drop 1))
      | _ => resultMb s mb 3)

/-- SESSION_CLOSE (R451): from a source outside the session it has nothing to end. -/
def execSessionClose (mb : Mb) (s : State) : Host.Outcome State Fault Refusal :=
  runCmd s mb 0x0111 true true [] (fun _ => 0) (fun s _ => okMb (if inSession s mb then endSession s mb else s) mb [])

/-- SESSION_INACTIVITY (R451): 600 s without a command from its source. -/
def execSessionInactivity (mb : Mb) (s : State) : Host.Outcome State Fault Refusal :=
  if s.hp.sessions.any (fun x => x.mb = mb && elapsed s x.lastCmd 600000000000) then .next (endSession s mb) else .next s

/-! ### MODULE_RESET (R423, R453) -/

/-- MODULE_RESET: DENIED without a session in the voted modes and SAFE, BAD_ARG without its key word; the reset follows (R453). -/
def execModuleReset (mb : Mb) (s : State) : Host.Outcome State Fault Refusal :=
  runCmd s mb 0x0102 true true [] (fun _ => 1) (fun s ws =>
    if inService s && !inSession s mb then resultMb s mb 5
    else if ws.getD 0 0 != 0x52535421 then resultMb s mb 3
    else okMb { s with bring := { s.bring with resetWait := some (mb, rawNow s) } } mb [])

/-- The reset of the hub (R147, R423, R451): forces and sessions end with their records, what the recorder and the log hold goes to their
stores, and bring-up starts at B1 with AON votes kept, HUB powered and the other domains restored as demanded. -/
def resetModule (s : State) : State :=
  let s := endSession (endSession (dropForces s 3 (fun _ => true)) .mb0) .mb1
  let s := writeLogControl (drainRecorder (s.recd.staging.length + s.recd.held.length + s.recd.buffer.length + 2) (drainFaults 140 s))
  let raw := (axis s 0).raw
  let s := hubReset s
  let s := { s with tim := { s.tim with axes := upd s.tim.axes 0 (fun a => { a with raw := raw, prev := raw }) } }
  let s := { s with bring := { s.bring with stageAt := rawNow s } }
  let s := { s with pwr := { s.pwr with
    on := 3, restoring := 0, shedStep := none, shedding := 0, shedWait := 0, ripe := 0, returning := false } }
  { s with pwr := { s.pwr with restoring := demand s &&& 0xFC } }

/-- RESET_EXECUTE (R453): at ACK, or 10 ms after DONE. -/
def execResetExecute (mb : Mb) (s : State) : Host.Outcome State Fault Refusal :=
  match s.bring.resetWait with
  | some (m, t) =>
    if m = mb && ((mbox s mb).st != .done || elapsed s t 10000000) then .next (resetModule s) else .next s
  | none => .next s

/-! ### Reserved codes (R446) -/

/-- The codes that level 3 gives a command (R453). -/
def knownCodes : List Nat :=
  [0x0100, 0x0101, 0x0102, 0x0110, 0x0111, 0x0120, 0x0121, 0x0200, 0x0201, 0x0202, 0x0203, 0x0204, 0x0205, 0x0300, 0x0301, 0x0302, 0x0303,
    0x0304, 0x0400, 0x0401, 0x0402, 0x0500, 0x0501, 0x0502, 0x0510, 0x0511, 0x0600, 0x0601, 0x0602, 0x0610, 0x0700, 0x0701, 0x0702]
  ++ [0x0800, 0x0801, 0x0802, 0x0900, 0x0901, 0x0902, 0x0A00, 0x0A01, 0x0A02, 0x0B00, 0x0B01, 0x0C00, 0x0C01, 0x0C02, 0x0C03, 0x0D00,
    0x0D01, 0x0D02]

/-- BAD_CMD: a reserved code ends with BAD_CMD in any mode that has a supervisor (R446). -/
def execBadCmd (mb : Mb) (s : State) : Host.Outcome State Fault Refusal :=
  let m := mbox s mb
  if m.st = .busy && !m.waiting && !knownCodes.contains m.code && !s.modu.wdExpired && s.modu.mode != .bringup then
    .next (resultMb s mb 2)
  else .next s

end Sys2Proof.Machine
end

