-- ==== Sys2Proof/Machine/Pairing.lean ====
section
/-! DEFINITION. The commands of the pair (16): the link, received Jaran frames, role and takeover, and the mailbox commands of R397. -/
namespace Sys2Proof.Machine

/-! ### The link (R379, R380) -/

/-- LINK_DOWN: the pair state is LINK_LOST, with a record where the module was paired (R379, R384, R398). -/
def linkLost (s : State) : State :=
  if !s.pair.up then s
  else
    let was := s.pair.paired && pairEnabled s
    let s := { s with pair := { s.pair with up := false, seqIn := none, downAt := rawNow s } }
    if !was then s
    else
      let st := if s.pair.st = .failed then s.pair.st else .linkLost
      let s := { s with pair := { s.pair with syncedAtLoss := s.pair.st = .synced, st := st } }
      setIrq (raiseHub (abandonSwitch s) 2 0xC007) irqPair

/-- LINK_DOWN (R379). -/
def execLinkDown (s : State) : Host.Outcome State Fault Refusal := .next (linkLost s)

/-- LINK_UP: SEQ begins again and the members pair anew (R379, R380, R382). -/
def execLinkUp (s : State) : Host.Outcome State Fault Refusal :=
  if s.pair.up then .next s
  else
    let st := if s.pair.st = .failed then s.pair.st else .syncing
    .next { s with pair := { s.pair with up := true, seqOut := 0, seqIn := none, paired := false, st := st, syncedAtLoss := false } }

/-- JARAN_BAD_CRC: counted; the standby has lost a frame of an unknown task (R380, R387). -/
def execJaranBadCrc (s : State) : Host.Outcome State Fault Refusal :=
  let s := { s with pair := { s.pair with discarded := s.pair.discarded + 1 } }
  .next (if standby s && linked s then requestCopy s (progTasks s) else s)

/-- A frame with a correct CRC reaches the module over a link that is up, with PAIR_ENABLE set. -/
def hearsPartner (s : State) : Bool := pairEnabled s && s.pair.up && s.modu.mode != .bringup

/-! ### HELLO and HEARTBEAT (R381 to R384, R388, R390) -/

/-- The members are paired: a standby asks for a full copy of every task (R382, R384). -/
def becomePaired (s : State) : State :=
  let st := if s.pair.st = .failed then s.pair.st else .syncing
  let s := { s with pair := { s.pair with paired := true, incompatible := false, st := st, missed := 0 } }
  let s := setIrq (raiseHub s 0 0xC001) irqPair
  if standby s then requestCopy s (progTasks s) else s

/-- HELLO: role, conflict of roles, and the digests (R382, R383). A module that is paired answers the HELLO of a partner that starts
(DESIGN CHOICE, notes/assumptions 74). -/
def takeHello (s : State) (h : JaranHead) (m : HelloMsg) : State :=
  let s := acceptJaran s h
  let s := { s with pair := { s.pair with partnerPrimary := some m.primary } }
  let s := takeRole s m.controlling m.epoch (some m.primary)
  let s := if m.controlling && s.pair.controlling && s.pair.roleTaken then resolveConflict s m.epoch m.primary else s
  if s.pair.strapConflict then s
  else if (m.imageDigest, m.bankDigest) != ownDigests s then makeIncompatible s
  else if !s.pair.paired then becomePaired s
  else if m.mode = 1 && s.modu.mode != .limited then
    sendHello { s with pair := { s.pair with paired := false } } |> fun s => { s with pair := { s.pair with paired := true } }
  else s

/-- HELLO (R382). -/
def execHello (h : JaranHead) (payload : List Byte) (s : State) : Host.Outcome State Fault Refusal :=
  .next (if hearsPartner s then takeHello s h (readHello payload) else s)

/-- HELLO_SEND: every 1 ms until paired (R381). -/
def execHelloSend (s : State) : Host.Outcome State Fault Refusal :=
  .next (if s.modu.mode = .bringup then s else sendHello s)

/-- The latches of a standby follow those of the controlling member: set at once, cleared at step 8 of its own harvest (R378). -/
def followLatches (s : State) (clear : Bool) : State :=
  if !clear then { setLatches s with modu := { s.modu with ackPending := false } }
  else if latchesSet s then { s with modu := { s.modu with ackPending := true } }
  else s

/-- The pair state that a HEARTBEAT brings: the controlling member learns SYNCING, SYNCED and FAILED from the standby, the standby
learns LAGGING from the controlling member (R384, R386; DEDUCED, notes/assumptions 66). -/
def followState (s : State) (code : Nat) : State :=
  let st := s.pair.st
  let new : PairState :=
    if standby s then (if code = 2 && st = .synced then .lagging else if code = 1 && st = .lagging then .synced else st)
    else match code with
      | 0 => .syncing
      | 1 => if st = .lagging then st else .synced
      | 4 => .failed
      | _ => st
  if new = st then s
  else
    let s := setIrq { s with pair := { s.pair with st := new } } irqPair
    if new = .lagging then raiseHub s 1 0xC005 else s

/-- A HEARTBEAT that carries MISMATCH: the controlling member counts it and yields where it is VOTED2 and the standby VOTED3 and
eligible (R388). -/
def partnerMismatch (s : State) (m : HeartbeatMsg) : State :=
  let s := abandonSwitch (raiseHub { s with pair := { s.pair with mismatches := s.pair.mismatches + 1, hold := 0 } } 1 0xC004)
  if s.modu.mode = .voted2 && m.mode = 2 && m.eligible then proposeSwitch s 2 none else s

/-- HEARTBEAT (R378, R383, R388, R390, R395). A change of the partner's mode abandons a planned switch (R392). -/
def takeHeartbeat (s : State) (h : JaranHead) (m : HeartbeatMsg) : State :=
  let s := acceptJaran s h
  let s := if s.pair.beat.any (fun b => b.mode != m.mode) then abandonSwitch s else s
  let s := takeRole s m.controlling m.epoch s.pair.partnerPrimary
  let s := { s with pair := { s.pair with beat := some m, beatSeen := true, missed := 0 } }
  let other := s.pair.partnerPrimary.getD (!s.pair.primary)
  let s := if m.controlling && s.pair.controlling && s.pair.roleTaken then resolveConflict s m.epoch other else s
  if !linked s then s
  else
    let s := followState (setVote s 3 m.vote) m.pairState
    if standby s then
      let s := if m.controlling then followLatches s m.latchesClear else s
      if m.controlling && (m.mode = 4 || m.mode = 5) && eligible s then takeControl s else s
    else if m.mismatch then partnerMismatch s m else s

/-- HEARTBEAT (R388). -/
def execHeartbeat (h : JaranHead) (payload : List Byte) (s : State) : Host.Outcome State Fault Refusal :=
  .next (if hearsPartner s then takeHeartbeat s h (readBeat payload) else s)

/-! ### Copies (R385 to R388) -/

/-- A frame that only a paired standby takes. -/
def asStandby (s : State) (h : JaranHead) (f : State → State) : State :=
  if !hearsPartner s then s
  else
    let s := acceptJaran s h
    if standby s && linked s then f s else s

/-- IMAGE (R385). -/
def execImageFrame (h : JaranHead) (m : ImageMsg) (s : State) : Host.Outcome State Fault Refusal :=
  .next (asStandby s h (fun s => copyRelease s h.flags.toNat m))

/-- OUTPUT: the SEQ values in use are copied, and the compare set waits for the own harvest of the release (R381, R388, R391). -/
def takeOutput (s : State) (m : OutputMsg) : State :=
  let groups := m.groupSeqs.foldl (fun l x => putKey x.1 x.2 l) s.train.groupSeq
  let dsts := ((s.prog.map (fun p => p.groups)).getD []).filter (fun g => g.publish && g.carrier = 2)
  let pd := m.comSeqs.foldl (fun l x =>
    (dsts.filter (fun g => g.comId = x.1)).foldl (fun l g =>
      (x.1, g.ip, x.2 + 1) :: l.filter (fun y => !(y.1 = x.1 && y.2.1 = g.ip))) l) s.train.pdSeq
  let s := { s with train := { s.train with groupSeq := groups, pdSeq := pd } }
  if s.pair.syncing.contains m.task then s
  else
    let theirs := (m.task, m.rel, m.words, m.lines) :: s.pair.theirs.filter (fun z => z.1 ≠ m.task)
    compareOutputs { s with pair := { s.pair with theirs := theirs } } m.task

/-- OUTPUT (R388). -/
def execOutputFrame (h : JaranHead) (m : OutputMsg) (s : State) : Host.Outcome State Fault Refusal :=
  .next (asStandby s h (fun s => takeOutput s m))

/-- PAGE: written as an agreed slot with the copied generation; a page of a full copy is no longer awaited (R385, R387). -/
def takePairPage (s : State) (m : PageMsg) : State :=
  if !(taskPages s m.task).contains { task := m.task, space := m.space, page := m.page } then s
  else
    let new := (hubTask s m.task).switched
    let s := modTask s m.task (fun h => { h with generation := some (BitVec.ofNat 64 m.generation), ckptNew := new })
    { s with
      vote := { s.vote with store := storeAgreed s.vote.store m.task m.space m.page m.words }
      pair := { s.pair with awaited := s.pair.awaited.filter (fun q => !(q.task = m.task && q.space = m.space && q.page = m.page)) } }

/-- PAGE (R385). -/
def execPageFrame (h : JaranHead) (payload : List Byte) (s : State) : Host.Outcome State Fault Refusal :=
  .next (asStandby s h (fun s => takePairPage s (readPage payload)))

/-- The controlling member sends all pages of some tasks, and their next IMAGE has SWITCH clear (R387). -/
def sendCopy (s : State) (ts : List Nat) : State :=
  let pages := ts.flatMap (taskPages s)
  setIrqIf { s with pair := { s.pair with
    queue := pages.foldl queuePage s.pair.queue, fresh := s.pair.fresh.filter (fun t => !ts.contains t), resyncs := s.pair.resyncs + 1
    st := .syncing } } (s.pair.st != .syncing) irqPair

/-- JARAN_RESYNC (R387). -/
def execJaranResync (h : JaranHead) (mask : BitVec 16) (s : State) : Host.Outcome State Fault Refusal :=
  if !hearsPartner s then .next s
  else
    let s := acceptJaran s h
    if standby s || !linked s then .next s
    else .next (sendCopy s ((List.range 16).filter (fun t => mask.getLsbD t && (allTasks s).contains t)))

/-- The own output of a task has waited for its budget (R386, R388). -/
def budgetOver (s : State) (t : Nat) : Bool :=
  match getKey t s.pair.oursAt, taskDef s t with
  | some at_, some d => elapsed s at_ (pairTime d)
  | _, _ => false

/-- OUTPUT_BUDGET_EXPIRY: the own output of a task has waited for its budget, and its OUTPUT has not come (R388). -/
def execOutputBudgetExpiry (t : Fin 16) (s : State) : Host.Outcome State Fault Refusal :=
  if standby s && linked s && s.pair.ours.any (fun x => x.1 = t.val) && budgetOver s t.val then
    .next (seeMismatch { s with pair := { s.pair with ours := s.pair.ours.filter (fun z => z.1 ≠ t.val) } })
  else .next s

/-! ### Role and takeover (R383, R390, R391) -/

/-- ROLE_TIMEOUT: nothing has been seen of the partner for 50 ms, nor, with FLOVIS_CHECK, of the pair on Flovis for T_L (R383). -/
def roleTimeout (s : State) : State :=
  let p := s.pair
  let quiet := elapsed s p.limitedAt (listenTime s) && (match s.net.pairData with
    | some t => elapsed s t (listenTime s)
    | none => true)
  if !pairEnabled s || p.roleTaken || p.strapConflict || s.modu.mode = .bringup || !elapsed s p.limitedAt 50000000
      || (s.bank.pair.flovisCheck && !quiet) then s
  else pump (voteAll (setIrq { s with pair := { p with roleTaken := true, controlling := true } } irqPair))

/-- ROLE_TIMEOUT (R383). -/
def execRoleTimeout (s : State) : Host.Outcome State Fault Refusal := .next (roleTimeout s)

/-- TAKEOVER: three lattice points of T0 without a HEARTBEAT, and no DATA of the pair since the first of them (R390). -/
def tryTakeover (s : State) : State :=
  if !eligible s || s.pair.missed < 3 then s
  else if s.bank.pair.flovisCheck && pairDataSince s s.pair.missedFrom then
    (if s.pair.up then s else raiseHub { s with pair := { s.pair with missed := 0 } } 2 0xC007)
  else takeControl s

/-- TAKEOVER (R390). -/
def execTakeover (s : State) : Host.Outcome State Fault Refusal := .next (tryTakeover s)

/-! ### Planned switches (R392, R393) -/

/-- SWITCH: accepted unless the module is in a planned switch, or would take control without being eligible (R392, R393). -/
def takeSwitch (s : State) (rel reason : Nat) : State :=
  if !linked s || s.pair.switch.isSome || (standby s && !eligible s) then s
  else
    let w : PairSwitch := { rel := BitVec.ofNat 32 rel, reason := reason, acked := true, incoming := standby s, at_ := rawNow s }
    jaranSend { s with pair := { s.pair with switch := some w } } 7 0 (beWord (BitVec.ofNat 32 rel))

/-- SWITCH (R392). -/
def execSwitchFrame (h : JaranHead) (rel reason : Nat) (s : State) : Host.Outcome State Fault Refusal :=
  .next (if hearsPartner s then takeSwitch (acceptJaran s h) rel reason else s)

/-- SWITCH_ACK (R392). -/
def execSwitchAck (h : JaranHead) (rel : Nat) (s : State) : Host.Outcome State Fault Refusal :=
  if !hearsPartner s then .next s
  else
    let s := acceptJaran s h
    .next { s with pair := { s.pair with
      switch := s.pair.switch.map (fun w => if w.rel = BitVec.ofNat 32 rel then { w with acked := true } else w) } }

/-- SWITCH_ACK_TIMEOUT: no SWITCH_ACK within one period of T0 (R392). -/
def execSwitchAckTimeout (s : State) : Host.Outcome State Fault Refusal :=
  let period := ((taskDef s 0).map (fun d => d.period.toNat)).getD 0
  .next (if s.pair.switch.any (fun w => !w.acked && elapsed s w.at_ period) then abandonSwitch s else s)

/-! ### PAIR_STATUS, PAIR_SWITCH, PAIR_RESYNC (R397, R453) -/

/-- PAIR_STATUS. -/
def pairWords (s : State) : List Word :=
  let p := s.pair
  let n := fun (k : Nat) => BitVec.ofNat 32 k
  let st := if p.paired then pairStateCode p.st else 15
  [n (b2n p.primary * 2 ^ 31 + b2n p.controlling * 2 ^ 30 + b2n p.incompatible * 2 ^ 29 + b2n p.strapConflict * 2 ^ 28 + st), p.epoch]
    ++ ((p.beat.map beatWords).getD (List.replicate 8 0)) ++ [n p.queue.length, n p.hold, n p.mismatches, n p.resyncs, n p.takeovers, n p.discarded]

/-- PAIR_STATUS (R397). -/
def execPairStatus (mb : Mb) (s : State) : Host.Outcome State Fault Refusal :=
  runCmd s mb 0x0900 true true [] (fun _ => 0) (fun s _ => okMb s mb (pairWords s))

/-- PAIR_SWITCH: waits for the switch; BUSY while another is planned (R397, R448). -/
def pairSwitch (s : State) (mb : Mb) : State :=
  let ready := if standby s then eligible s else s.pair.beat.any (fun m => m.eligible)
  if !inSession s mb then resultMb s mb 5
  else if !linked s || !ready then resultMb s mb 4
  else if s.pair.switch.isSome then resultMb s mb 1
  else proposeSwitch (waitMb s mb) 3 (some mb)

/-- PAIR_SWITCH (R397). -/
def execPairSwitch (mb : Mb) (s : State) : Host.Outcome State Fault Refusal :=
  runCmd s mb 0x0901 false false [] (fun _ => 0) (fun s _ => pairSwitch s mb)

/-- A full copy of every task: the standby asks for it, the controlling member sends it over a link (R387). -/
def copyAll (s : State) : State :=
  if standby s then requestCopy s (progTasks s) else if linked s then sendCopy s (progTasks s) else s
/-- PAIR_RESYNC: FAILED is cleared and a full copy of all tasks requested; the controlling member sends one (R397; DESIGN CHOICE for
the controlling member, notes/assumptions 75). -/
def execPairResync (mb : Mb) (s : State) : Host.Outcome State Fault Refusal :=
  runCmd s mb 0x0902 true true [] (fun _ => 0) (fun s _ =>
    if !s.pair.paired then resultMb s mb 4
    else copyAll (okMb { s with pair := { s.pair with st := if s.pair.st = .failed then .syncing else s.pair.st, fullAt := [] } } mb []))

end Sys2Proof.Machine
end

