-- ==== Sys2Proof/Machine/UnitCmds.lean ====
section
/-! DEFINITION. The commands of the axes and triggers (R33 to R36, R50 to R53), of the recorder (R359), of the power manager (R420),
of the sound chain (R259, R263) and of the field stage (R243). -/
namespace Sys2Proof.Machine

/-! ### Axes -/

/-- AXIS_STEP (R33, R34, R59). -/
def execAxisStep (mb : Mb) (s : State) : Host.Outcome State Fault Refusal :=
  runCmd s mb 0x0500 true true [] (fun _ => 3) fun s ws =>
    let n := bits (wNat ws 0) 0 2
    let d := wLong ws 1
    if n = 0 && ((axis s 0).src != 0 || !stepPermitted s d.toInt) then resultMb s mb 4
    else resultMb (pushWrite s n (.step d 1)) mb 0

/-- A scale that AXIS_SCALE takes (R32). -/
def scaleOk (n : Nat) (v : DWord) : Bool :=
  v != 0 && (n != 0 || (decide (0x00000000FFDF3B64 ≤ v.toNat) && decide (v.toNat ≤ 0x000000010020C49C)))

/-- AXIS_SCALE (R32, R34). -/
def execAxisScale (mb : Mb) (s : State) : Host.Outcome State Fault Refusal :=
  runCmd s mb 0x0501 true true [] (fun _ => 3) fun s ws =>
    let n := bits (wNat ws 0) 0 2
    if !scaleOk n (wLong ws 1) then resultMb s mb 3
    else if n = 0 && (axis s 0).src != 0 then resultMb s mb 4
    else resultMb (pushWrite s n (.scale (wLong ws 1))) mb 0

/-- The highest source code of an axis (R35). -/
def lastSource (n : Nat) : Nat := [2, 4, 2, 1].getD n 0

/-- Timing input, edges and sensing channel of AXIS_SOURCE are ones that the axis takes from its source, and zero where it takes none
(R35, R42). -/
def sourceArgsOk (n src w : Nat) : Bool :=
  if n = 2 && src = 1 then decide (bits w 20 4 = 0)
  else if n = 2 && src = 2 then decide (bits w 22 6 = 0)
  else if n = 3 && src = 1 then decide (bits w 22 2 ≤ 2) && decide (bits w 24 4 = 0)
  else decide (bits w 20 8 = 0)

/-- AXIS_SOURCE (R33, R35, R36, R59). Without a starting value its words may be left out. -/
def execAxisSource (mb : Mb) (s : State) : Host.Outcome State Fault Refusal :=
  runCmd s mb 0x0502 true true [] (fun ws => if bit (wNat ws 0) 16 || ws.length = 3 then 3 else 1) fun s ws =>
    let w := wNat ws 0
    let n := bits w 0 2
    let src := bits w 8 4
    let start := if bit w 16 then some (wLong ws 1) else none
    let large := match start with
      | some v => n = 0 && !stepPermitted s (startDelta s v)
      | none => false
    if lastSource n < src || !sourceArgsOk n src w then resultMb s mb 3
    else if large then resultMb s mb 4
    else
      let input := if n = 2 && src = 1 then bits w 24 4 else bits w 20 2
      resultMb (axisIrq s (selectSource s n src input (bits w 22 2) start)) mb 0

/-! ### Triggers -/

/-- TRIG_ARM (R50, R51, R122). -/
def execTrigArm (mb : Mb) (s : State) : Host.Outcome State Fault Refusal :=
  runCmd s mb 0x0510 true true [] (fun _ => 9) fun s ws =>
    let w := wNat ws 0
    let w5 := wNat ws 5
    let pulse := (wLong ws 6).toNat
    let kind := bits w 8 2
    let pick := if bit w 6 then (List.range 64).find? (trigFree s) else some (bits w 0 6)
    if !armOk kind (bits w 12 2) (bits w 16 2) (wLong ws 3) || !actionsOk w5 pulse then resultMb s mb 3
    else match pick with
      | none => resultMb s mb 0x0A
      | some n =>
        if heldByProgram s n then resultMb s mb 5
        else if heldByUnit s n then resultMb s mb 4
        else
          let g : Trigger := { kind := trigKind kind, axis := bits w 12 2, dir := dirOf (bits w 16 2), value := wLong ws 1
                               period := wLong ws 3, input := bits w 20 2, actions := trigActions w5 pulse (bits (wNat ws 8) 0 8) }
          finishMb (armTrigger s n .host g (trigger s n).armed) mb 0 [BitVec.ofNat 32 n]

/-- TRIG_CANCEL (R53, R122). -/
def execTrigCancel (mb : Mb) (s : State) : Host.Outcome State Fault Refusal :=
  runCmd s mb 0x0511 true true [] (fun _ => 1) fun s ws =>
    let n := wNat ws 0
    let g := trigger s n
    if 64 ≤ n then resultMb s mb 3
    else if heldByProgram s n then resultMb s mb 5
    else if heldByUnit s n then resultMb s mb 4
    else finishMb (if g.armed then cancelTrigger s n else s) mb 0 [boolWord (g.kind = .oneshot && g.firedOnce && !g.armed)]

/-! ### Recorder (R359) -/

/-- REC_FLUSH: it ends once every record buffered now is in the store. -/
def execRecFlush (mb : Mb) (s : State) : Host.Outcome State Fault Refusal :=
  runCmd s mb 0x0700 true true [] (fun _ => 0) fun s _ =>
    match s.recd.buffer.getLast? with
    | none => resultMb s mb 0
    | some r =>
      let s := { s with recd := { s.recd with flushWait := s.recd.flushWait ++ [(mb, r.seq)] } }
      startFlush (wantFlush (waitMb s mb))

/-- Every record up to the last SEQ assigned goes, from staging, buffer and store; a CLEARED record follows. -/
def clearRecords (s : State) : State :=
  let r := s.recd
  let first := (oldestHeld s <|> r.staging.head?.map (·.seq))
  let words := match first with
    | some x => [hi32 x, lo32 x, hi32 (r.next - 1), lo32 (r.next - 1)]
    | none => [0, 0, 0, 0]
  let waits := r.flushWait
  let s := { s with recd := { r with
    staging := [], buffer := [], index := [], tail := r.head, newest := r.next, flushing := none, flushPending := false, flushWait := []
    lost := false, storeFull := false, counts := r.counts.map (fun c => { c with suppressed := 0, suppressions := 0 }) } }
  let s := writeRecControl s
  let s := waits.foldl (fun s w => resultMb s w.1 0) s
  let held := s.recd.held
  let s := held.foldl stage { s with recd := { s.recd with held := [] } }
  moduleRecord s 0x0103 (words ++ [hi32 s.vote.harvest, lo32 s.vote.harvest])

/-- REC_CLEAR. -/
def execRecClear (mb : Mb) (s : State) : Host.Outcome State Fault Refusal :=
  runCmd s mb 0x0701 true true [] (fun _ => 0) fun s _ =>
    if inSession s mb then resultMb (clearRecords s) mb 0 else resultMb s mb 5

/-- A 64-bit value as two words, high word first (R453). -/
def two (v : DWord) : List Word := [hi32 v, lo32 v]

/-- REC_INFO: the definitions in force from a number on, at most 64. -/
def execRecInfo (mb : Mb) (s : State) : Host.Outcome State Fault Refusal :=
  runCmd s mb 0x0702 true true [] (fun _ => 1) fun s ws =>
    let r := s.recd
    let ds := ((List.range 256).filter (fun d => wNat ws 0 ≤ d && r.defs.any (fun x => x.defn = d))).take 64
    let n := fun (k : Nat) => BitVec.ofNat 32 k
    let newest := match r.buffer.getLast? with
      | some x => x.seq
      | none => if r.index.isEmpty then 0 else r.newest - 1
    finishMb s mb 0 ([n (b2n r.keep)] ++ two ((oldestHeld s).getD 0) ++ two newest ++ two r.ceiling ++ two r.overwritten
      ++ [n (bufferFill s), n (storeFill s), n ds.length]
      ++ ds.flatMap (fun d =>
        let c := recCount s d
        [n d, n c.firings, n c.records, n c.suppressions, n c.holdoffDrops]))

/-! ### Power (R420) -/

/-- PWR_VOTE: the HOST vote from MB0, the REMOTE vote from MB1. -/
def execPwrVote (mb : Mb) (s : State) : Host.Outcome State Fault Refusal :=
  runCmd s mb 0x0800 true true [] (fun _ => 1) fun s ws =>
    okMb (setVote s (match mb with | .mb0 => 1 | .mb1 => 2) (BitVec.ofNat 8 (wNat ws 0))) mb []

/-- MIN_ON remaining in ms for HUB, lanes, NET, SOUND and FIELD; zero for a domain that is off (R403, R420). -/
def minOnLeft (s : State) (k : Nat) : Nat :=
  let bit_ := [1, 2, 5, 6, 7].getD k 0
  let until_ := s.pwr.onSince.getD k 0 + s.pwr.cfg.minOn.getD k 0 * 1000000
  if s.pwr.on.getLsbD bit_ then (until_ - rawNow s + 999999) / 1000000 else 0

/-- PWR_STATUS. -/
def execPwrStatus (mb : Mb) (s : State) : Host.Outcome State Fault Refusal :=
  runCmd s mb 0x0801 true true [] (fun _ => 0) fun s _ =>
    let n := fun (k : Nat) => BitVec.ofNat 32 k
    finishMb s mb 0 ([s.pwr.stat, wakeStat s, pfStat s] ++ s.pwr.votes.map (fun v => v.setWidth 32)
      ++ (List.range 5).map (fun k => n (minOnLeft s k)) ++ [n s.pwr.transitions] ++ s.pwr.wakes.map n ++ [n s.pwr.frameDiscards])

/-- DUTY_SET. -/
def execDutySet (mb : Mb) (s : State) : Host.Outcome State Fault Refusal :=
  runCmd s mb 0x0802 true true [] (fun _ => 5) fun s ws =>
    let w := wNat ws 1
    let c := { s.pwr.cfg with
      period := wNat ws 0, sample := bits w 16 16, flags := bits w 8 8, sndCh := bits w 0 8, mask := ws.getD 2 0
      pattern := ws.getD 3 0, dbfs := signed 16 (wNat ws 4) }
    if (dutyFields c s.bank.chans).all (·.2) then resultMb { s with pwr := { s.pwr with cfg := c } } mb 0 else resultMb s mb 3

/-! ### Sound (R259, R263) -/

/-- FLOW_OPEN. -/
def execFlowOpen (mb : Mb) (s : State) : Host.Outcome State Fault Refusal :=
  runCmd s mb 0x0A00 false false [] (fun _ => 1) fun s ws =>
    let id := bits (wNat ws 0) 0 8
    if !soundOn s then resultMb s mb 6
    else match flowCfg s id with
      | none => resultMb s mb 3
      | some c =>
        if flowOwned s id then resultMb s mb 5
        else if !(flowSt s id).run && 1572864 < flowCommitted s + flowBytes c then resultMb s mb 0x0A
        else resultMb (setRun s id true) mb 0

/-- FLOW_CLOSE. -/
def execFlowClose (mb : Mb) (s : State) : Host.Outcome State Fault Refusal :=
  runCmd s mb 0x0A01 false false [] (fun _ => 1) fun s ws =>
    let id := bits (wNat ws 0) 0 8
    if !soundOn s then resultMb s mb 6
    else if (flowCfg s id).isNone then resultMb s mb 3
    else if flowOwned s id then resultMb s mb 5
    else resultMb (setRun s id false) mb 0

/-- MIX_SET (R259). -/
def execMixSet (mb : Mb) (s : State) : Host.Outcome State Fault Refusal :=
  runCmd s mb 0x0A02 false false [] (fun _ => 2) fun s ws =>
    let p := bits (wNat ws 0) 0 10
    let g := signed 16 (wNat ws 1)
    if !soundOn s then resultMb s mb 6
    else if g < -24576 || 3072 < g then resultMb s mb 3
    else if mixOwned s p then resultMb s mb 5
    else resultMb (modMix s p (fun m => { m with want := gainFactor g 8, set := true })) mb 0

/-! ### Field (R243) -/

/-- The bytes of a channel entry (R227). -/
def channelEntry (c : ChCfg) : List Byte :=
  let n := fun (k : Nat) => BitVec.ofNat 8 k
  [n c.mode, n c.flags, n c.partner, n c.parallel, n c.onPct, n c.offPct] ++ be16 c.upper ++ be16 c.lower ++ be16 c.cmax
    ++ [n c.chatCount, 0] ++ be16 c.chatLeak ++ be16 c.stuckTime ++ be16 c.imin ++ be16 c.openT ++ [0, 0]

/-- CH_STATUS. -/
def execChStatus (mb : Mb) (s : State) : Host.Outcome State Fault Refusal :=
  runCmd s mb 0x0B00 true true [] (fun _ => 1) fun s ws =>
    let ch := bits (wNat ws 0) 0 5
    let c := chCfg s ch
    let x := chSt s ch
    let n := fun (k : Nat) => BitVec.ofNat 32 k
    if !fieldOn s then resultMb s mb 6
    else finishMb s mb 0 ([chStatusWord s ch] ++ toWords (channelEntry c)
      ++ [n (10 * tOn c), n (10 * tOff c), n x.transitions, n x.trips, n x.passed, n x.failed])

/-- CH_TEST: every lane asks for the test in its next three drive frames (R237). A channel that is held off is not tested. -/
def execChTest (mb : Mb) (s : State) : Host.Outcome State Fault Refusal :=
  runCmd s mb 0x0B01 false false [] (fun _ => 1) fun s ws =>
    let ch := bits (wNat ws 0) 0 5
    let low := lowestOf s ch
    let x := chSt s low
    if !fieldOn s then resultMb s mb 6
    else if !isOut s ch || !chFlag s ch 3 then resultMb s mb 3
    else if safetyOut s ch && !inSession s mb then resultMb s mb 5
    else if !x.on || !x.testOk || s.field.chTests.any (fun x => chGrp x.2 = chGrp ch) || groupTesting s (chGrp ch) then resultMb s mb 4
    else if heldOff s low then answerChTest s mb 3
    else
      let s := modLanes s (fun _ l => if l.st = .off then l else { l with drive := upd l.drive low (fun c => { c with treq := 3 }) })
      waitMb { s with field := { s.field with chTests := s.field.chTests ++ [(mb, low)] } } mb

end Sys2Proof.Machine
end

