-- ==== Sys2Proof/Machine/Dispatch.lean ====
section
/-! DEFINITION. The dispatch: one arm per command, each one call of its meaning. -/
namespace Sys2Proof.Machine
open Sys2Proof

def exec (i : Instr) (s : State) : Host.Outcome State Fault Refusal :=
  match i with
  | .getInfo mb => Sys2Proof.Machine.execGetInfo mb s
  | .getStatus mb => Sys2Proof.Machine.execGetStatus mb s
  | .moduleReset mb => Sys2Proof.Machine.execModuleReset mb s
  | .resetExecute mb => Sys2Proof.Machine.execResetExecute mb s
  | .sessionOpen mb => Sys2Proof.Machine.execSessionOpen mb s
  | .sessionClose mb => Sys2Proof.Machine.execSessionClose mb s
  | .sessionInactivity mb => Sys2Proof.Machine.execSessionInactivity mb s
  | .safeAck mb => Sys2Proof.Machine.execSafeAck mb s
  | .start mb => Sys2Proof.Machine.execStart mb s
  | .progBegin mb => Sys2Proof.Machine.execProgBegin mb s
  | .progData mb => Sys2Proof.Machine.execProgData mb s
  | .progEnd mb => Sys2Proof.Machine.execProgEnd mb s
  | .progActivate mb => Sys2Proof.Machine.execProgActivate mb s
  | .progDiscard mb => Sys2Proof.Machine.execProgDiscard mb s
  | .progInfo mb => Sys2Proof.Machine.execProgInfo mb s
  | .cfgBegin mb => Sys2Proof.Machine.execCfgBegin mb s
  | .cfgData mb => Sys2Proof.Machine.execCfgData mb s
  | .cfgEnd mb => Sys2Proof.Machine.execCfgEnd mb s
  | .cfgSwap mb => Sys2Proof.Machine.execCfgSwap mb s
  | .cfgRead mb => Sys2Proof.Machine.execCfgRead mb s
  | .forceSet mb => Sys2Proof.Machine.execForceSet mb s
  | .forceClear mb => Sys2Proof.Machine.execForceClear mb s
  | .forceList mb => Sys2Proof.Machine.execForceList mb s
  | .axisStep mb => Sys2Proof.Machine.execAxisStep mb s
  | .axisScale mb => Sys2Proof.Machine.execAxisScale mb s
  | .axisSource mb => Sys2Proof.Machine.execAxisSource mb s
  | .trigArm mb => Sys2Proof.Machine.execTrigArm mb s
  | .trigCancel mb => Sys2Proof.Machine.execTrigCancel mb s
  | .netStatus mb => Sys2Proof.Machine.execNetStatus mb s
  | .slotClaim mb => Sys2Proof.Machine.execSlotClaim mb s
  | .slotClaimTimeout mb => Sys2Proof.Machine.execSlotClaimTimeout mb s
  | .portRelease mb => Sys2Proof.Machine.execPortRelease mb s
  | .ptpStatus mb => Sys2Proof.Machine.execPtpStatus mb s
  | .recFlush mb => Sys2Proof.Machine.execRecFlush mb s
  | .recClear mb => Sys2Proof.Machine.execRecClear mb s
  | .recInfo mb => Sys2Proof.Machine.execRecInfo mb s
  | .pwrVote mb => Sys2Proof.Machine.execPwrVote mb s
  | .pwrStatus mb => Sys2Proof.Machine.execPwrStatus mb s
  | .dutySet mb => Sys2Proof.Machine.execDutySet mb s
  | .pairStatus mb => Sys2Proof.Machine.execPairStatus mb s
  | .pairSwitch mb => Sys2Proof.Machine.execPairSwitch mb s
  | .pairResync mb => Sys2Proof.Machine.execPairResync mb s
  | .flowOpen mb => Sys2Proof.Machine.execFlowOpen mb s
  | .flowClose mb => Sys2Proof.Machine.execFlowClose mb s
  | .mixSet mb => Sys2Proof.Machine.execMixSet mb s
  | .chStatus mb => Sys2Proof.Machine.execChStatus mb s
  | .chTest mb => Sys2Proof.Machine.execChTest mb s
  | .selftestRun mb => Sys2Proof.Machine.execSelftestRun mb s
  | .dbgAttach mb => Sys2Proof.Machine.execDbgAttach mb s
  | .dbgDetach mb => Sys2Proof.Machine.execDbgDetach mb s
  | .laneStatus mb => Sys2Proof.Machine.execLaneStatus mb s
  | .tunnelOpen mb => Sys2Proof.Machine.execTunnelOpen mb s
  | .tunnelClose mb => Sys2Proof.Machine.execTunnelClose mb s
  | .fenceClear mb => Sys2Proof.Machine.execFenceClear mb s
  | .fenceClearTimeout mb => Sys2Proof.Machine.execFenceClearTimeout mb s
  | .badCmd mb => Sys2Proof.Machine.execBadCmd mb s
  | .mbDataWrite mb src w drained => Sys2Proof.Machine.execMbDataWrite mb src w drained s
  | .mbDataRead mb src => Sys2Proof.Machine.execMbDataRead mb src s
  | .mbCtrlAck mb src => Sys2Proof.Machine.execMbCtrlAck mb src s
  | .mbCtrlAbort mb src => Sys2Proof.Machine.execMbCtrlAbort mb src s
  | .read addr count tm => Sys2Proof.Machine.execRead addr count tm s
  | .write addr words tm => Sys2Proof.Machine.execWrite addr words tm s
  | .quadRead addr count tm => Sys2Proof.Machine.execQuadRead addr count tm s
  | .quadWrite addr words tm => Sys2Proof.Machine.execQuadWrite addr words tm s
  | .status tm => Sys2Proof.Machine.execStatus tm s
  | .badOpcode op => Sys2Proof.Machine.execBadOpcode op s
  | .registerWrite port addr w => Sys2Proof.Machine.execRegisterWrite port addr w s
  | .rcFieldRead port addr => Sys2Proof.Machine.execRcFieldRead port addr s
  | .snap => Sys2Proof.Machine.execSnap s
  | .axnValHiRead n => Sys2Proof.Machine.execAxnValHiRead n s
  | .modHarvestHiRead => Sys2Proof.Machine.execModHarvestHiRead s
  | .mbxnValRead n => Sys2Proof.Machine.execMbxnValRead n s
  | .recCursorLoWrite port w => Sys2Proof.Machine.execRecCursorLoWrite port w s
  | .recDataRead port => Sys2Proof.Machine.execRecDataRead port s
  | .fltCursorLoWrite port w => Sys2Proof.Machine.execFltCursorLoWrite port w s
  | .fltLogDataRead port => Sys2Proof.Machine.execFltLogDataRead port s
  | .clear => Sys2Proof.Machine.execClear s
  | .brLogDataRead => Sys2Proof.Machine.execBrLogDataRead s
  | .brPagenCfgWrite n w => Sys2Proof.Machine.execBrPagenCfgWrite n w s
  | .remoteWindowRead addr count => Sys2Proof.Machine.execRemoteWindowRead addr count s
  | .remoteWindowWrite addr words => Sys2Proof.Machine.execRemoteWindowWrite addr words s
  | .post addr words => Sys2Proof.Machine.execPost addr words s
  | .timingTick => Sys2Proof.Machine.execTimingTick s
  | .triggerFiring n => Sys2Proof.Machine.execTriggerFiring n s
  | .release t => Sys2Proof.Machine.execRelease t s
  | .timingInputEdge ti rising width both half => Sys2Proof.Machine.execTimingInputEdge ti rising width both half s
  | .zeroCrossing ch => Sys2Proof.Machine.execZeroCrossing ch s
  | .lost => Sys2Proof.Machine.execLost s
  | .holdoverLimit => Sys2Proof.Machine.execHoldoverLimit s
  | .releaseStampArrival a => Sys2Proof.Machine.execReleaseStampArrival a s
  | .panDispatch l block pan xbar => Sys2Proof.Machine.execPanDispatch l block pan xbar s
  | .instanceCommit l block pan agree xbar => Sys2Proof.Machine.execInstanceCommit l block pan agree xbar s
  | .wakeMessage l k xbar => Sys2Proof.Machine.execWakeMessage l k xbar s
  | .commitTimeout l block pan => Sys2Proof.Machine.execCommitTimeout l block pan s
  | .eccError l mem block addr fixed => Sys2Proof.Machine.execEccError l mem block addr fixed s
  | .taskWatchdogExpiry l t => Sys2Proof.Machine.execTaskWatchdogExpiry l t s
  | .laneFrameArrival p l t fate => Sys2Proof.Machine.execLaneFrameArrival p l t fate s
  | .voteDeadline p t => Sys2Proof.Machine.execVoteDeadline p t s
  | .comparatorNoVerdict p t => Sys2Proof.Machine.execComparatorNoVerdict p t s
  | .checkpointPage fate => Sys2Proof.Machine.execCheckpointPage fate s
  | .retainedWrite => Sys2Proof.Machine.execRetainedWrite s
  | .restartSelftestDone l fail retired => Sys2Proof.Machine.execRestartSelftestDone l fail retired s
  | .checkpointLoadDone => Sys2Proof.Machine.execCheckpointLoadDone s
  | .resetHoldExpiry l => Sys2Proof.Machine.execResetHoldExpiry l s
  | .rejoinLoadDone l ok => Sys2Proof.Machine.execRejoinLoadDone l ok s
  | .injectionTestTimer => Sys2Proof.Machine.execInjectionTestTimer s
  | .injectionTestResult seen => Sys2Proof.Machine.execInjectionTestResult seen s
  | .ackEdge rcv src highNs stepped => Sys2Proof.Machine.execAckEdge rcv src highNs stepped s
  | .ackReport l src => Sys2Proof.Machine.execAckReport l src s
  | .ackJammed rcv src => Sys2Proof.Machine.execAckJammed rcv src s
  | .ackJamClear src => Sys2Proof.Machine.execAckJamClear src s
  | .safeTelegramReceive p bytes => Sys2Proof.Machine.execSafeTelegramReceive p bytes s
  | .stagingComplete same => Sys2Proof.Machine.execStagingComplete same s
  | .switchWithoutRelease t => Sys2Proof.Machine.execSwitchWithoutRelease t s
  | .bankDigestReport l same => Sys2Proof.Machine.execBankDigestReport l same s
  | .sampleStrobe mv ma => Sys2Proof.Machine.execSampleStrobe mv ma s
  | .stuck ch => Sys2Proof.Machine.execStuck ch s
  | .sampleFrameReceive l good => Sys2Proof.Machine.execSampleFrameReceive l good s
  | .driveFrameSend l => Sys2Proof.Machine.execDriveFrameSend l s
  | .driveFrameReceive l good => Sys2Proof.Machine.execDriveFrameReceive l good s
  | .driveLinkTimeout l => Sys2Proof.Machine.execDriveLinkTimeout l s
  | .disagree ch times => Sys2Proof.Machine.execDisagree ch times s
  | .supplyFault g => Sys2Proof.Machine.execSupplyFault g s
  | .supplyGood g => Sys2Proof.Machine.execSupplyGood g s
  | .groupOverload g => Sys2Proof.Machine.execGroupOverload g s
  | .overload ch limit => Sys2Proof.Machine.execOverload ch limit s
  | .overtemp ch => Sys2Proof.Machine.execOvertemp ch s
  | .tripLatchClear ch retry cool => Sys2Proof.Machine.execTripLatchClear ch retry cool s
  | .openWire ch seen => Sys2Proof.Machine.execOpenWire ch seen s
  | .rbErr ch wrong => Sys2Proof.Machine.execRbErr ch wrong s
  | .testPeriod l ch => Sys2Proof.Machine.execTestPeriod l ch s
  | .testWidthExpiry ch => Sys2Proof.Machine.execTestWidthExpiry ch s
  | .testOverdue ch => Sys2Proof.Machine.execTestOverdue ch s
  | .gswTest g phase => Sys2Proof.Machine.execGswTest g phase s
  | .modStuck ch => Sys2Proof.Machine.execModStuck ch s
  | .measurementBlock ch bits => Sys2Proof.Machine.execMeasurementBlock ch bits s
  | .mixerFrame bits tdmi => Sys2Proof.Machine.execMixerFrame bits tdmi s
  | .flowPacketReceive node body => Sys2Proof.Machine.execFlowPacketReceive node body s
  | .flovisFrameIngress port bytes => Sys2Proof.Machine.execFlovisFrameIngress port bytes s
  | .frameCut port slotEnd => Sys2Proof.Machine.execFrameCut port slotEnd s
  | .quarantineEnd port => Sys2Proof.Machine.execQuarantineEnd port s
  | .flovisFrameReceive p bytes => Sys2Proof.Machine.execFlovisFrameReceive p bytes s
  | .referenceReceive p bytes => Sys2Proof.Machine.execReferenceReceive p bytes s
  | .coldstartReceive p bytes => Sys2Proof.Machine.execColdstartReceive p bytes s
  | .listenTimerExpiry => Sys2Proof.Machine.execListenTimerExpiry s
  | .contentionEnd => Sys2Proof.Machine.execContentionEnd s
  | .referenceLoss p => Sys2Proof.Machine.execReferenceLoss p s
  | .slotTransmit slot => Sys2Proof.Machine.execSlotTransmit slot s
  | .rankDeadline p => Sys2Proof.Machine.execRankDeadline p s
  | .delayReq port => Sys2Proof.Machine.execDelayReq port s
  | .delayResp port bytes => Sys2Proof.Machine.execDelayResp port bytes s
  | .claim port bytes => Sys2Proof.Machine.execClaim port bytes s
  | .grant p bytes => Sys2Proof.Machine.execGrant p bytes s
  | .leaseLapse p slot => Sys2Proof.Machine.execLeaseLapse p slot s
  | .scheduleSwitch => Sys2Proof.Machine.execScheduleSwitch s
  | .ptpSync m => Sys2Proof.Machine.execPtpSync m s
  | .ptpDelayResp m => Sys2Proof.Machine.execPtpDelayResp m s
  | .announce m => Sys2Proof.Machine.execAnnounce m s
  | .announceReceiptTimeout => Sys2Proof.Machine.execAnnounceReceiptTimeout s
  | .portAltMove => Sys2Proof.Machine.execPortAltMove s
  | .portReturn => Sys2Proof.Machine.execPortReturn s
  | .ptpMasterSend isAnnounce => Sys2Proof.Machine.execPtpMasterSend isAnnounce s
  | .topology line m => Sys2Proof.Machine.execTopology line m s
  | .topologyTimeout => Sys2Proof.Machine.execTopologyTimeout s
  | .trdpPdReceive line h data => Sys2Proof.Machine.execTrdpPdReceive line h data s
  | .trdpPrReceive line src h => Sys2Proof.Machine.execTrdpPrReceive line src h s
  | .trdpPublish g => Sys2Proof.Machine.execTrdpPublish g s
  | .trdpMrReceive src comId data => Sys2Proof.Machine.execTrdpMrReceive src comId data s
  | .trdpMnReceive src comId data => Sys2Proof.Machine.execTrdpMnReceive src comId data s
  | .freshnessEvaluation => Sys2Proof.Machine.execFreshnessEvaluation s
  | .arpExpiry ip unresolved => Sys2Proof.Machine.execArpExpiry ip unresolved s
  | .reassemblyTimeout id => Sys2Proof.Machine.execReassemblyTimeout id s
  | .inboundRequest node body => Sys2Proof.Machine.execInboundRequest node body s
  | .remoteAccessResponse node body => Sys2Proof.Machine.execRemoteAccessResponse node body s
  | .credit node body => Sys2Proof.Machine.execCredit node body s
  | .resync node tag => Sys2Proof.Machine.execResync node tag s
  | .resyncDone node tag => Sys2Proof.Machine.execResyncDone node tag s
  | .reqTimeout what => Sys2Proof.Machine.execReqTimeout what s
  | .discardMs entry => Sys2Proof.Machine.execDiscardMs entry s
  | .seqGap node => Sys2Proof.Machine.execSeqGap node s
  | .foreignFrameReceive iface f ago => Sys2Proof.Machine.execForeignFrameReceive iface f ago s
  | .tunnelContainerReceive node body => Sys2Proof.Machine.execTunnelContainerReceive node body s
  | .replay ep ok => Sys2Proof.Machine.execReplay ep ok s
  | .busOff iface entered => Sys2Proof.Machine.execBusOff iface entered s
  | .recorderFiring => Sys2Proof.Machine.execRecorderFiring s
  | .stagedMove => Sys2Proof.Machine.execStagedMove s
  | .flushStart => Sys2Proof.Machine.execFlushStart s
  | .flushRecordWritten => Sys2Proof.Machine.execFlushRecordWritten s
  | .recordAge => Sys2Proof.Machine.execRecordAge s
  | .faultRecord f => Sys2Proof.Machine.execFaultRecord f s
  | .faultHandle r hold w1 w2 => Sys2Proof.Machine.execFaultHandle r hold w1 w2 s
  | .supervisorWatchdog => Sys2Proof.Machine.execSupervisorWatchdog s
  | .ledgerImbalance row => Sys2Proof.Machine.execLedgerImbalance row s
  | .powerFail vsys => Sys2Proof.Machine.execPowerFail vsys s
  | .powerReturn vsysMv => Sys2Proof.Machine.execPowerReturn vsysMv s
  | .domainShedStep => Sys2Proof.Machine.execDomainShedStep s
  | .domainRestore res => Sys2Proof.Machine.execDomainRestore res s
  | .minOnExpiry d => Sys2Proof.Machine.execMinOnExpiry d s
  | .wakePortStop tx => Sys2Proof.Machine.execWakePortStop tx s
  | .wakeInput ch => Sys2Proof.Machine.execWakeInput ch s
  | .wakeStuckClear ch => Sys2Proof.Machine.execWakeStuckClear ch s
  | .aonTick => Sys2Proof.Machine.execAonTick s
  | .wakeFrame payload => Sys2Proof.Machine.execWakeFrame payload s
  | .wakeHoldExpiry => Sys2Proof.Machine.execWakeHoldExpiry s
  | .dutyWatchCycle mv bits => Sys2Proof.Machine.execDutyWatchCycle mv bits s
  | .partnerVoteLoss => Sys2Proof.Machine.execPartnerVoteLoss s
  | .firmwareVerified ok0 ok1 => Sys2Proof.Machine.execFirmwareVerified ok0 ok1 s
  | .supervisorStart strapPrimary => Sys2Proof.Machine.execSupervisorStart strapPrimary s
  | .objectVerification => Sys2Proof.Machine.execObjectVerification s
  | .laneRelease => Sys2Proof.Machine.execLaneRelease s
  | .programLoadDone fails => Sys2Proof.Machine.execProgramLoadDone fails s
  | .retainedRestore => Sys2Proof.Machine.execRetainedRestore s
  | .admission => Sys2Proof.Machine.execAdmission s
  | .stageTimeLimit => Sys2Proof.Machine.execStageTimeLimit s
  | .jtagTrstHigh high => Sys2Proof.Machine.execJtagTrstHigh high s
  | .hello h m => Sys2Proof.Machine.execHello h m s
  | .heartbeat h m => Sys2Proof.Machine.execHeartbeat h m s
  | .imageFrame h m => Sys2Proof.Machine.execImageFrame h m s
  | .outputFrame h m => Sys2Proof.Machine.execOutputFrame h m s
  | .pageFrame h m => Sys2Proof.Machine.execPageFrame h m s
  | .switchFrame h rel reason => Sys2Proof.Machine.execSwitchFrame h rel reason s
  | .switchAck h rel => Sys2Proof.Machine.execSwitchAck h rel s
  | .switchAckTimeout => Sys2Proof.Machine.execSwitchAckTimeout s
  | .jaranResync h mask => Sys2Proof.Machine.execJaranResync h mask s
  | .jaranCopy => Sys2Proof.Machine.execJaranCopy s
  | .linkDown => Sys2Proof.Machine.execLinkDown s
  | .linkUp => Sys2Proof.Machine.execLinkUp s
  | .roleTimeout => Sys2Proof.Machine.execRoleTimeout s
  | .takeover => Sys2Proof.Machine.execTakeover s
  | .laneThermalTrip l => Sys2Proof.Machine.execLaneThermalTrip l s
  | .outputBudgetExpiry t => Sys2Proof.Machine.execOutputBudgetExpiry t s
  | .laneJunctionCooled l => Sys2Proof.Machine.execLaneJunctionCooled l s
  | .ethernetLinkChange port speed => Sys2Proof.Machine.execEthernetLinkChange port speed s
  | .modStuckClear ch => Sys2Proof.Machine.execModStuckClear ch s
  | .openAgeExpiry desc => Sys2Proof.Machine.execOpenAgeExpiry desc s
  | .egressCopyLeft e => Sys2Proof.Machine.execEgressCopyLeft e s
  | .ptpDelayRequestReceive port req t => Sys2Proof.Machine.execPtpDelayRequestReceive port req t s
  | .delayReqReceive port bytes => Sys2Proof.Machine.execDelayReqReceive port bytes s
  | .arpFrame request ip target mac => Sys2Proof.Machine.execArpFrame request ip target mac s
  | .icmpEchoRequest src dst data => Sys2Proof.Machine.execIcmpEchoRequest src dst data s
  | .igmpQuery line => Sys2Proof.Machine.execIgmpQuery line s
  | .rejoinSelftestDone l fail retired => Sys2Proof.Machine.execRejoinSelftestDone l fail retired s
  | .loneAckReport src => Sys2Proof.Machine.execLoneAckReport src s
  | .jaranBadCrc => Sys2Proof.Machine.execJaranBadCrc s
  | .helloSend => Sys2Proof.Machine.execHelloSend s
  | .hubThermalTrip => Sys2Proof.Machine.execHubThermalTrip s
  | .vholdExhausted => Sys2Proof.Machine.execVholdExhausted s
  | .ptpDelayRequestSend => Sys2Proof.Machine.execPtpDelayRequestSend s
  | .forceAcknowledge => Sys2Proof.Machine.execForceAcknowledge s
  | .supervisorRestarted => Sys2Proof.Machine.execSupervisorRestarted s

end Sys2Proof.Machine
end

