-- ==== Sys2Proof/Safety.lean ====
section
/-! DEFINITION. What a safe run means here, and the other terms the statements use. -/
namespace Sys2Proof.Machine

/-- The module holds its safety outputs without energy: no safety output gives energy (R181, R182). -/
def safetyOff (s : State) : Bool := (List.range 32).all (fun ch => !(safetyOut s ch && energised s ch))

/-- The byte memories of the module are in their canonical form (R21). -/
def State.Inv (s : State) : Prop := Memory.wf s.xch.mram ∧ Memory.wf s.xch.flash

/-- A step that does not stop. -/
def Runs (o : Host.Outcome State Fault Refusal) : Prop := ∃ t, o = .next t

/-! ### The commands of the mailbox -/

/-- A row of the command table: its mailbox, its code, and whether LIMITED and HALTED take it (R433, R453). -/
structure MbRow where
  mb : Mb
  code : Nat
  limited : Bool
  halted : Bool
  deriving DecidableEq, Repr

/-- The row of a mailbox command (R433, R453). -/
def mbRow : Instr → Option MbRow
  | .getInfo mb => some ⟨mb, 0x0100, true, true⟩
  | .getStatus mb => some ⟨mb, 0x0101, true, true⟩
  | .moduleReset mb => some ⟨mb, 0x0102, true, true⟩
  | .sessionOpen mb => some ⟨mb, 0x0110, true, true⟩
  | .sessionClose mb => some ⟨mb, 0x0111, true, true⟩
  | .safeAck mb => some ⟨mb, 0x0120, false, true⟩
  | .start mb => some ⟨mb, 0x0121, true, false⟩
  | .progBegin mb => some ⟨mb, 0x0200, true, true⟩
  | .progData mb => some ⟨mb, 0x0201, true, true⟩
  | .progEnd mb => some ⟨mb, 0x0202, true, true⟩
  | .progActivate mb => some ⟨mb, 0x0203, true, true⟩
  | .progDiscard mb => some ⟨mb, 0x0204, true, true⟩
  | .progInfo mb => some ⟨mb, 0x0205, true, true⟩
  | .cfgBegin mb => some ⟨mb, 0x0300, true, true⟩
  | .cfgData mb => some ⟨mb, 0x0301, true, true⟩
  | .cfgEnd mb => some ⟨mb, 0x0302, true, true⟩
  | .cfgSwap mb => some ⟨mb, 0x0303, true, true⟩
  | .cfgRead mb => some ⟨mb, 0x0304, true, true⟩
  | .forceSet mb => some ⟨mb, 0x0400, false, false⟩
  | .forceClear mb => some ⟨mb, 0x0401, true, true⟩
  | .forceList mb => some ⟨mb, 0x0402, true, true⟩
  | .axisStep mb => some ⟨mb, 0x0500, true, true⟩
  | .axisScale mb => some ⟨mb, 0x0501, true, true⟩
  | .axisSource mb => some ⟨mb, 0x0502, true, true⟩
  | .trigArm mb => some ⟨mb, 0x0510, true, true⟩
  | .trigCancel mb => some ⟨mb, 0x0511, true, true⟩
  | .netStatus mb => some ⟨mb, 0x0600, true, true⟩
  | .slotClaim mb => some ⟨mb, 0x0601, false, false⟩
  | .portRelease mb => some ⟨mb, 0x0602, true, true⟩
  | .ptpStatus mb => some ⟨mb, 0x0610, true, true⟩
  | .recFlush mb => some ⟨mb, 0x0700, true, true⟩
  | .recClear mb => some ⟨mb, 0x0701, true, true⟩
  | .recInfo mb => some ⟨mb, 0x0702, true, true⟩
  | .pwrVote mb => some ⟨mb, 0x0800, true, true⟩
  | .pwrStatus mb => some ⟨mb, 0x0801, true, true⟩
  | .dutySet mb => some ⟨mb, 0x0802, true, true⟩
  | .pairStatus mb => some ⟨mb, 0x0900, true, true⟩
  | .pairSwitch mb => some ⟨mb, 0x0901, false, false⟩
  | .pairResync mb => some ⟨mb, 0x0902, true, true⟩
  | .flowOpen mb => some ⟨mb, 0x0A00, false, false⟩
  | .flowClose mb => some ⟨mb, 0x0A01, false, false⟩
  | .mixSet mb => some ⟨mb, 0x0A02, false, false⟩
  | .chStatus mb => some ⟨mb, 0x0B00, true, true⟩
  | .chTest mb => some ⟨mb, 0x0B01, false, false⟩
  | .selftestRun mb => some ⟨mb, 0x0C00, false, false⟩
  | .dbgAttach mb => some ⟨mb, 0x0C01, false, false⟩
  | .dbgDetach mb => some ⟨mb, 0x0C02, false, false⟩
  | .laneStatus mb => some ⟨mb, 0x0C03, true, true⟩
  | .tunnelOpen mb => some ⟨mb, 0x0D00, false, false⟩
  | .tunnelClose mb => some ⟨mb, 0x0D01, true, true⟩
  | .fenceClear mb => some ⟨mb, 0x0D02, false, false⟩
  | _ => none

/-- The command in hand of a mailbox has the code of a row and these request words, in a mode that takes it (R433, R446). -/
abbrev Asked (s : State) (mb : Mb) (code : Nat) (limited halted : Bool) (ws : List Word) : Prop :=
  inHand s mb code = true ∧ modeTakes s limited halted = true ∧ (mbox s mb).req = ws

/-- The interrupt of a mailbox (R442). -/
def mbIrq : Mb → Nat
  | .mb0 => irqMb0
  | .mb1 => irqMb1

/-- The address of a mailbox's MB_CMD (R438, R445). -/
def mbCmdAddr : Mb → Nat
  | .mb0 => 0x208
  | .mb1 => 0x248

/-- The bit of MODULE.ACK_SOURCES that lets a mailbox acknowledge (R186). -/
def mbAckSource : Mb → Nat
  | .mb0 => 2
  | .mb1 => 3

/-- The client whose power vote a mailbox gives (R401, R453). -/
def mbVote : Mb → Nat
  | .mb0 => 1
  | .mb1 => 2

/-- The duty configuration a DUTY_SET request asks for (R416, R453). -/
def dutyAsked (s : State) (ws : List Word) : PowerCfg :=
  { s.pwr.cfg with
    period := wNat ws 0, sample := bits (wNat ws 1) 16 16, flags := bits (wNat ws 1) 8 8, sndCh := bits (wNat ws 1) 0 8
    mask := ws.getD 2 0, pattern := ws.getD 3 0, dbfs := signed 16 (wNat ws 4) }

/-- What an access to a register by a source does first: a transaction of the host port has its opcode phase (R436). -/
def accessed (s : State) (src : Source) : State := if src = .host then opcodePhase s {} else s

/-! ### Opcodes -/

/-- A compare opcode reads a REAL32 NaN: A or B, and C where the opcode reads it (R103, R104). -/
def comparesNan (x : EvalIn) : Bool :=
  f32nan x.a.w || f32nan x.b.w || (decide (0x16 ≤ x.op) && f32nan x.c.w)

/-! ### Frames -/

/-- A command that may write MRAM or flash beyond the control copies of the fault log: the loads and exchanges, the recorder and the fault
log, and what raises a module record. -/
def mayWriteMemory : Instr → Bool
  | .resetExecute _ | .sessionOpen _ | .sessionClose _ | .sessionInactivity _ | .safeAck _ | .progBegin _ | .progData _
  | .progEnd _ | .progActivate _ | .progDiscard _ | .cfgBegin _ | .cfgData _ | .cfgEnd _ | .cfgSwap _ | .recClear _
  | .dbgDetach _ | .triggerFiring _ | .release _ | .releaseStampArrival _ | .instanceCommit _ _ _ _ _ | .taskWatchdogExpiry _ _
  | .laneFrameArrival _ _ _ _ | .voteDeadline _ _ | .comparatorNoVerdict _ _ | .checkpointPage _ | .retainedWrite
  | .restartSelftestDone _ _ _ | .injectionTestResult _ | .ackEdge _ _ _ _ | .ackReport _ _ | .stagingComplete _
  | .switchWithoutRelease _ | .bankDigestReport _ _ | .recorderFiring | .stagedMove | .flushRecordWritten | .faultHandle _ _ _ _
  | .supervisorWatchdog | .powerFail _ | .domainShedStep | .domainRestore _ | .supervisorStart _ | .objectVerification
  | .admission | .stageTimeLimit | .imageFrame _ _ | .laneThermalTrip _ | .hubThermalTrip | .forceAcknowledge
  | .sampleFrameReceive _ _ | .jaranCopy => true
  | _ => false

/-- A mailbox command that only reads (R453). -/
def readsOnly : Instr → Bool
  | .getInfo _ | .getStatus _ | .progInfo _ | .cfgRead _ | .forceList _ | .netStatus _ | .ptpStatus _ | .recInfo _
  | .pwrStatus _ | .pairStatus _ | .chStatus _ | .laneStatus _ => true
  | _ => false

end Sys2Proof.Machine
end

