-- ==== Sys2Proof/Certificates/Slice0/Obligations.lean ====
section
/-! DEFINITION. The statements for the provers, by the rules of spec/ they rest on. "Has its effect" means: for every state and operands
that meet the hypotheses, exec answers the next state that is given. -/
open Sys2Proof Sys2Proof.Machine

/-! ### The queue and the whole machine -/

/-- A step runs the command at the front of the queue on the state with the queue's rest. On an empty queue the module idles (the model's
choice, notes/assumptions 1). -/
def Obligations.StepRunsTheFrontCommand : Prop :=
  (∀ (c : Instr) (s : State) (rest : List Instr), step { s with pending := c :: rest } = exec c { s with pending := rest }) ∧
  (∀ s : State, s.pending = [] → step s = .next s)

/-- Every step takes exactly the front command: no command adds to, drops from or reorders the queue (the model's form of a block,
notes/assumptions 1). -/
def Obligations.StepTakesExactlyTheFrontCommand : Prop := ∀ s t : State, step s = .next t → t.pending = s.pending.tail

/-- At reset both byte memories are in their canonical form, no command waits, the mode is BRINGUP, no mailbox is in use, the host
interrupt is not driven and no safety output gives energy. -/
def Obligations.ResetMeetsTheInvariant : Prop :=
  State.reset.Inv ∧ State.reset.pending = [] ∧ State.reset.modu.mode = .bringup ∧ (∀ mb, (mbox State.reset mb).st = .idle) ∧
  hostIrqLow State.reset = false ∧ safetyOff State.reset = true

/-- Every step of every command keeps MRAM and flash in their canonical form, from any state that has it. -/
def Obligations.StepKeepsTheMemoriesCanonical : Prop := ∀ s t : State, s.Inv → step s = .next t → t.Inv

/-- No command is refused, and none faults but a return of power with VSYS above its absolute maximum (R466). -/
def Obligations.OnlyOvervoltageStops : Prop :=
  (∀ (c : Instr) (s : State) (r : Refusal), exec c s ≠ .refused r) ∧
  (∀ (c : Instr) (s : State) (f : Fault), exec c s = .fault f ↔ f = .beyondAbsoluteMaximum ∧ ∃ mv, c = .powerReturn mv ∧ 6000 < mv)

/-- Every command but those named by mayWriteMemory leaves every byte of flash as it was, and every byte of MRAM outside the two control
copies of the fault log, into which any command that raises a fault may write the ceiling of FSEQ (R363, R373). -/
def Obligations.OtherCommandsLeaveTheMemories : Prop :=
  ∀ (c : Instr) (s t : State), s.Inv → mayWriteMemory c = false → exec c s = .next t →
    ∀ a, memRead t.xch.flash a = memRead s.xch.flash a ∧ (logCopyByte a = false → memRead t.xch.mram a = memRead s.xch.mram a)

/-- A mailbox command that only reads changes nothing but its own mailbox and the interrupt status; for a command that came over TRDP also
what the sending of the answer changes: what waits for ARP or for an OPEN window, and what leaves. -/
def Obligations.ReadingCommandsChangeOnlyTheirMailbox : Prop :=
  ∀ (c : Instr) (r : MbRow) (s t : State), readsOnly c = true → mbRow c = some r → exec c s = .next t →
    t = { s with hp := t.hp, train := t.train, net := t.net, out := t.out } ∧
    t.hp = { s.hp with mb0 := t.hp.mb0, mb1 := t.hp.mb1, irq := t.hp.irq } ∧
    t.train = { s.train with arpWait := t.train.arpWait, unroutable := t.train.unroutable, ptp := { s.train.ptp with sentAt := t.train.ptp.sentAt } } ∧
    t.net = { s.net with best := t.net.best, planeA := { s.net.planeA with bestUntil := t.net.planeA.bestUntil }
                         planeB := { s.net.planeB with bestUntil := t.net.planeB.bestUntil } } ∧
    (∀ k, k ≠ r.mb → mbox t k = mbox s k) ∧ (∃ out, t.out = s.out ++ out) ∧
    ((∀ ip, (mbox s r.mb).holder ≠ some (.trdp ip)) → t = { s with hp := t.hp })

/-! ### The mailbox -/

/-- A mailbox command that is not in hand, because another code is, none is, one waits, or the supervisor does not run, does nothing. -/
def Obligations.CommandNotInHandDoesNothing : Prop :=
  ∀ (c : Instr) (r : MbRow) (s : State), mbRow c = some r → inHand s r.mb r.code = false → exec c s = .next s

/-- In BRINGUP no mailbox command has any effect, and a write to MB_CMD, from either port, is discarded and counted in
FLT_DOFF.WR_DISCARD. -/
def Obligations.BringupMailboxIsSilent : Prop :=
  ∀ s : State, s.modu.mode = .bringup →
    (∀ (c : Instr) (r : MbRow), mbRow c = some r → exec c s = .next s) ∧
    (∀ (p : Port) (node drained : Nat) (mb : Mb) (w : Word),
      regWrite s p node (mbCmdAddr mb) w drained
        = { s with flt := { s.flt with wrDiscard := satInc s.flt.wrDiscard } })

/-- The mode table: a command in hand that LIMITED or HALTED does not take ends with WRONG_STATE there, and the other modes with a
supervisor take every command; PROG_ACTIVATE ONLINE with a program active is refused with WRONG_STATE there too. -/
def Obligations.ModeTableOfTheMailbox : Prop :=
  ∀ (c : Instr) (r : MbRow) (s : State), mbRow c = some r → inHand s r.mb r.code = true →
    (modeTakes s r.limited r.halted = false → ∃ fail, exec c s = .next (finishMb s r.mb 4 fail)) ∧
    (s.modu.mode = .limited → modeTakes s r.limited r.halted = r.limited) ∧
    (s.modu.mode = .halted → modeTakes s r.limited r.halted = r.halted) ∧
    (s.modu.mode = .voted3 ∨ s.modu.mode = .voted2 ∨ s.modu.mode = .safe → modeTakes s r.limited r.halted = true) ∧
    (∀ mb, c = .progActivate mb → (mbox s mb).req = [1] → s.modu.mode = .limited ∨ s.modu.mode = .halted → s.prog ≠ none →
      inSession s mb = true → shadowVerified s true = true → exchanging s = false → s.xch.swap = none → releasing s = false →
      exec c s = .next (finishMb s mb 4 noCheck))

/-- The end of a command: a mailbox held by the host or a bridge node is DONE with its result, its response and LAST, its interrupt is
set, and nothing else changes; the other mailbox keeps what it holds. The end of a command that came over TRDP: the mailbox returns to
IDLE, for the module writes ACK itself. -/
def Obligations.CommandEndsInItsMailbox : Prop :=
  (∀ (s : State) (mb : Mb) (result last : Nat) (resp : List Word), (∀ ip, (mbox s mb).holder ≠ some (.trdp ip)) →
     finishMbAt s mb result resp last
       = setIrq (modMb s mb (fun m => { m with
           st := .done, result := result, resp := resp, rlen := resp.length, last := last, waiting := false, fill := 0, since := rawNow s }))
           (mbIrq mb) ∧
     (mbox (finishMbAt s mb result resp last) mb).st = .done ∧
     (∀ k, k ≠ mb → mbox (finishMbAt s mb result resp last) k = mbox s k)) ∧
  (∀ (s : State) (mb : Mb) (result last : Nat) (resp : List Word) (ip : Word), (mbox s mb).holder = some (.trdp ip) →
     (mbox (finishMbAt s mb result resp last) mb).st = .idle ∧ (mbox (finishMbAt s mb result resp last) mb).holder = none ∧
     (∀ k, k ≠ mb → mbox (finishMbAt s mb result resp last) k = mbox s k))

/-- HOST_IRQ_N is driven low while any MOD_IRQ bit is set with its MOD_IRQ_EN bit set. -/
def Obligations.HostIrqIsAnyEnabledBit : Prop :=
  ∀ s : State, hostIrqLow s = true ↔ ∃ i, i < 32 ∧ s.hp.irq.getLsbD i = true ∧ s.hp.irqEn.getLsbD i = true

/-! ### The opcodes -/

/-- A compare of REAL32 operands of which one is a NaN, or NEAR of infinities of the same sign, gives 0 (NE: 1) before INV, with quality
INVALID. -/
def Obligations.CompareWithNanIsInvalid : Prop :=
  ∀ (x : EvalIn) (konst : List Word), 0x10 ≤ x.op → x.op ≤ 0x17 → x.ty = 2 →
    (comparesNan x = true ∨ (x.op = 0x17 ∧ ∃ neg, Fl.of32 x.a.w = .inf neg ∧ Fl.of32 x.b.w = .inf neg)) →
    eval x konst = { words := [boolWord ((x.op == 0x11) != x.inv)], q := qInvalid }

/-- A word read as BOOL is TRUE when any of its bits is set, and every opcode with a BOOL output writes 0 or 1, with and without INV. -/
def Obligations.BoolsAreReadAndWrittenWhole : Prop :=
  (∀ w : Word, asBool w = true ↔ ∃ i, i < 32 ∧ w.getLsbD i = true) ∧
  (∀ (x : EvalIn) (i : OpInfo) (konst : List Word), opInfo x.op = some i → i.out = .bool →
    (eval x konst).words = [0] ∨ (eval x konst).words = [1])

/-- Integer arithmetic of 32 bits: the wrap form keeps the low bits, the saturating form is the exact result clamped to the type, division
truncates and its remainder has the sign of the dividend, by zero it is INVALID with the values of the rule. -/
def Obligations.IntegerOperationsWrapAndSaturate : Prop :=
  ∀ (x : EvalIn) (konst : List Word), x.ty = 0 →
    (x.op = 0x20 → eval x konst = { words := [BitVec.ofInt 32 (x.a.w.toInt + x.b.w.toInt)], q := qWorst [x.a.q, x.b.q] }) ∧
    (x.op = 0x24 → eval x konst = { words := [BitVec.ofInt 32 (x.a.w.toInt * x.b.w.toInt)], q := qWorst [x.a.q, x.b.q] }) ∧
    (x.op = 0x21 → ∃ w : Word, eval x konst = { words := [w], q := qWorst [x.a.q, x.b.q] } ∧
      w.toInt = max (-2 ^ 31) (min (2 ^ 31 - 1) (x.a.w.toInt + x.b.w.toInt))) ∧
    (x.op = 0x23 → ∃ w : Word, eval x konst = { words := [w], q := qWorst [x.a.q, x.b.q] } ∧
      w.toInt = max (-2 ^ 31) (min (2 ^ 31 - 1) (x.a.w.toInt - x.b.w.toInt))) ∧
    (x.op = 0x25 → ∃ w : Word, eval x konst = { words := [w], q := qWorst [x.a.q, x.b.q] } ∧
      w.toInt = max (-2 ^ 31) (min (2 ^ 31 - 1) (x.a.w.toInt * x.b.w.toInt))) ∧
    (x.op = 0x26 → x.b.w ≠ 0 → ∃ w : Word, eval x konst = { words := [w], q := qWorst [x.a.q, x.b.q] } ∧
      (w.toInt = Int.tdiv x.a.w.toInt x.b.w.toInt ∨ (x.a.w.toInt = -2 ^ 31 ∧ x.b.w.toInt = -1 ∧ w.toInt = -2 ^ 31))) ∧
    (x.op = 0x27 → x.b.w ≠ 0 → ∃ w : Word, eval x konst = { words := [w], q := qWorst [x.a.q, x.b.q] } ∧
      w.toInt = min (2 ^ 31 - 1) (Int.tdiv x.a.w.toInt x.b.w.toInt)) ∧
    (x.op = 0x28 → x.b.w ≠ 0 → ∃ w : Word, eval x konst = { words := [w], q := qWorst [x.a.q, x.b.q] } ∧
      w.toInt = Int.tmod x.a.w.toInt x.b.w.toInt) ∧
    (x.op = 0x26 ∨ x.op = 0x28 → x.b.w = 0 → eval x konst = { words := [0], q := qInvalid }) ∧
    (x.op = 0x27 → x.b.w = 0 → ∃ w : Word, eval x konst = { words := [w], q := qInvalid } ∧
      w.toInt = if 0 < x.a.w.toInt then 2 ^ 31 - 1 else if x.a.w.toInt < 0 then -2 ^ 31 else 0)

/-! ### Mailbox commands: each has its effect -/

/-- The system commands in a mode and with arguments that the rules ask for (R423, R427, R450, R451, R453). The nonce of SESSION_OPEN is
any value. SAFE_ACK by the table of R186: the first token of a source waits, the second, another token 100 ms to 2 s later, is accepted.
-/
def Obligations.SystemCommandsHaveTheirEffect : Prop :=
  (∀ (mb : Mb) (s : State),
     (Asked s mb 0x0100 true true [] → exec (.getInfo mb) s = .next (okMb s mb (infoWords s))) ∧
     (Asked s mb 0x0101 true true [] → exec (.getStatus mb) s = .next (okMb s mb (statusWords s))) ∧
     (Asked s mb 0x0102 true true [0x52535421] → (inService s = true → inSession s mb = true) →
       exec (.moduleReset mb) s = .next (okMb { s with bring := { s.bring with resetWait := some (mb, rawNow s) } } mb [])) ∧
     (∀ k : Word, Asked s mb 0x0110 true true [1, k] → k.toNat ≤ 3 → s.hp.blocked = [] →
       ∃ r : NonceRec, r.mb = mb ∧ r.key = k.toNat ∧ r.at_ = rawNow s ∧
         exec (.sessionOpen mb) s = .next (okMb { s with hp := { s.hp with
           nonceCount := s.hp.nonceCount + 1, nonces := r :: s.hp.nonces.filter (fun x => x.mb ≠ mb) } } mb ((toWords r.bytes).take 4))) ∧
     (Asked s mb 0x0111 true true [] → inSession s mb = true → exec (.sessionClose mb) s = .next (okMb (endSession s mb) mb [])) ∧
     (Asked s mb 0x0121 true false [] → awaitsRelease s = true → s.bank.modu.autoStart = false → s.bring.started = false →
       exec (.start mb) s = .next (okMb { s with bring := { s.bring with started := true } } mb [])) ∧
     (∀ t, s.bring.resetWait = some (mb, t) → (mbox s mb).st ≠ .done → exec (.resetExecute mb) s = .next (resetModule s)) ∧
     (s.hp.sessions.any (fun x => x.mb = mb && elapsed s x.lastCmd 600000000000) = true →
       exec (.sessionInactivity mb) s = .next (endSession s mb)) ∧
     ((mbox s mb).st = .busy → (mbox s mb).waiting = false → knownCodes.contains (mbox s mb).code = false → s.modu.wdExpired = false →
       s.modu.mode ≠ .bringup → exec (.badCmd mb) s = .next (resultMb s mb 2))) ∧
  (∀ (mb : Mb) (s : State) (token : Word), Asked s mb 0x0120 false true [token] → token ≠ 0 →
     bit s.bank.modu.ackSources (mbAckSource mb) = true → ackWait s = true → s.pair.controlling = true →
     (s.ack.firsts = [] →
       exec (.safeAck mb) s = .next (okMb { s with ack := { s.ack with
         firsts := [(mb, (mbox s mb).holder.getD .host, token, rawNow s)] } } mb [1])) ∧
     (∀ t n, s.ack.firsts = [(mb, (mbox s mb).holder.getD .host, t, n)] → t ≠ token → elapsed s n 100000000 = true →
       elapsed s n 2000000001 = false →
       exec (.safeAck mb) s = .next (acceptAck (okMb { s with ack := { s.ack with firsts := [] } } mb [2]))))

/-- The load commands (R210, R211, R453): BEGIN erases the shadow slot and marks it RECEIVING, DATA appends bytes at the expected offset,
END marks it VERIFIED with length and digest or erases it, by its checks. -/
def Obligations.LoadCommandsHaveTheirEffect : Prop :=
  ∀ (mb : Mb) (s : State),
    (∀ n : Word, Asked s mb 0x0200 true true [n] → n ≠ 0 → n.toNat ≤ objectMax true → s.xch.imgLoad = none → exchanging s = false →
      exec (.progBegin mb) s = .next (okMb (setLoad (slotWrite (slotErase s true (shadowSlot s true)) true (shadowSlot s true) 0
        [0x53, 0x4C, 0x4F, 0x54, BitVec.ofNat 8 slReceiving]) true (some { mb := mb, length := n.toNat, received := 0 })) mb [])) ∧
    (∀ n : Word, Asked s mb 0x0300 true true [n] → n ≠ 0 → n.toNat ≤ objectMax false → s.xch.bankLoad = none → s.xch.swap = none →
      exec (.cfgBegin mb) s = .next (okMb (setLoad (slotWrite (slotErase s false (shadowSlot s false)) false (shadowSlot s false) 0
        [0x53, 0x4C, 0x4F, 0x54, BitVec.ofNat 8 slReceiving]) false (some { mb := mb, length := n.toNat, received := 0 })) mb [])) ∧
    (∀ (img : Bool) (l : Load) (off n : Word) (ds : List Word), Asked s mb (if img then 0x0201 else 0x0301) true true (off :: n :: ds) →
      ds.length = (n.toNat + 3) / 4 → loadOf s img = some l → l.mb = mb → off.toNat = l.received → 0 < n.toNat → n.toNat ≤ 16384 →
      n.toNat % 4 = 0 → l.received + n.toNat ≤ l.length →
      exec (if img then .progData mb else .cfgData mb) s
        = .next (okMb (setLoad (slotWrite s img (shadowSlot s img) (64 + l.received) ((beWords ds).take n.toNat)) img
            (some { l with received := l.received + n.toNat })) mb [BitVec.ofNat 32 (l.received + n.toNat)])) ∧
    (∀ (img : Bool) (l : Load), Asked s mb (if img then 0x0202 else 0x0302) true true [] → loadOf s img = some l → l.mb = mb →
      exec (if img then .progEnd mb else .cfgEnd mb) s = .next (match loadFails s img l with
        | some (r, f) => finishMb (slotErase (setLoad s img none) img (shadowSlot s img)) mb r f.words
        | none => okMb (setSlotState (slotWrite (slotWrite (setLoad s img none) img (shadowSlot s img) 16
            (beWord (BitVec.ofNat 32 l.received))) img (shadowSlot s img) 24 (objDigest (slotObject s img (shadowSlot s img) l.received)))
            img (shadowSlot s img) slVerified) mb (toWords (objDigest (slotObject s img (shadowSlot s img) l.received)))))

/-- The exchange commands (R203, R213, R214, R216 to R218, R453). Whether a signature is good rests on the keys of the part, so the
activations name both outcomes. -/
def Obligations.ExchangeCommandsHaveTheirEffect : Prop :=
  ∀ (mb : Mb) (s : State),
    (Asked s mb 0x0203 true true [2] → inSession s mb = true → shadowVerified s true = true → exchanging s = false →
      s.xch.swap = none → releasing s = false → s.bank.valid = false → voted s = true →
      exec (.progActivate mb) s = .next (if objectSigned (slotWhole s true (shadowSlot s true))
        then okMb { s with xch := { s.xch with restartPending := true } } mb [] else finishMb s mb 0x0B noCheck)) ∧
    (∀ p, p = parseProgram (slotWhole s true (shadowSlot s true)) (shadowSlot s true) → Asked s mb 0x0203 true true [1] →
      inSession s mb = true → shadowVerified s true = true → exchanging s = false → s.xch.swap = none → releasing s = false →
      s.bank.valid = false → voted s = true → debugging s = false → s.prog.any (fun old => ox01 old p) = false → ox02 s p = false →
      exec (.progActivate mb) s = .next (if objectSigned (slotWhole s true (shadowSlot s true))
        then stageProgram s mb p else finishMb s mb 0x0B noCheck)) ∧
    (Asked s mb 0x0303 true true [] → inSession s mb = true → shadowVerified s false = true → exchanging s = false → s.xch.swap = none →
      releasing s = false → s.prog = none → inService s = true →
      exec (.cfgSwap mb) s = .next (if objectSigned (slotWhole s false (shadowSlot s false))
        then modLanes (waitMb { s with xch := { s.xch with swap := some mb } } mb) (fun _ x => { x with digest := none, resent := false })
        else finishMb s mb 0x0B noCheck)) ∧
    (Asked s mb 0x0204 true true [] → switching s = false → (s.xch.act ≠ none ∨ s.xch.restartPending = true) →
      exec (.progDiscard mb) s = .next (okMb (discardActivation s) mb [])) ∧
    (Asked s mb 0x0204 true true [] → switching s = false → s.xch.act = none → s.xch.restartPending = false →
      exec (.progDiscard mb) s = .next (okMb (setLoad (slotErase s true (shadowSlot s true)) true none) mb [])) ∧
    (Asked s mb 0x0205 true true [1] →
      exec (.progInfo mb) s = .next (okMb s mb (progInfo s (shadowSlot s true) (s.xch.act.any (fun a => a.staged))))) ∧
    (∀ k, Asked s mb 0x0205 true true [0] → s.xch.imgSlot = some k →
      exec (.progInfo mb) s = .next (okMb s mb (progInfo s k (switching s)))) ∧
    (Asked s mb 0x0205 true true [0] → s.xch.imgSlot = none →
      exec (.progInfo mb) s = .next (okMb s mb (BitVec.ofNat 32 slEmpty :: List.replicate 14 0))) ∧
    (∀ k bs (what off n : Word), Asked s mb 0x0304 true true [0, what, off, n] → n.toNat ≤ 16384 → s.xch.bankSlot = some k →
      cfgBytes s (slotWhole s false k) what.toNat = some bs →
      exec (.cfgRead mb) s = .next (okMb s mb (BitVec.ofNat 32 (slice bs off.toNat n.toNat).length
        :: toWords (slice bs off.toNat n.toNat))))

/-- The force commands (R143 to R147, R453): a set waits for the lanes with its slot, a clear marks what leaves, a list names what is
held, and the lanes' acknowledge ends the command that waits. -/
def Obligations.ForceCommandsHaveTheirEffect : Prop :=
  ∀ (mb : Mb) (s : State),
    (∀ p k (w id v0 v1 : Word), Asked s mb 0x0400 false false [w, id, v0, v1] → s.prog = some p →
      p.bindsTarget (bits w.toNat 24 8) id = true → p.perms.contains { kind := bits w.toNat 24 8, id := id } = true →
      safetyClassed s p (bits w.toNat 24 8) id = false → s.modu.forceWait = none → forceSlot s (bits w.toNat 24 8) id = some k →
      exec (.forceSet mb) s = .next (waitMb { s with modu := { s.modu with
        forces := s.modu.forces ++ [{ slot := k, kind := bits w.toNat 24 8, id := id, v0 := v0, v1 := v1, keep := bit w.toNat 0 }]
        forceWait := some mb } } mb)) ∧
    (∀ k : Word, Asked s mb 0x0401 true true [k] → k ≠ 0xFFFFFFFF → s.modu.forceWait = none →
      s.modu.forces.any (fun f => f.slot = k.toNat) = true →
      exec (.forceClear mb) s = .next (waitMb { s with modu := { s.modu with
        forces := s.modu.forces.map (fun f => if f.slot = k.toNat then { f with leaving := true } else f)
        forceWait := some mb } } mb)) ∧
    (Asked s mb 0x0401 true true [0xFFFFFFFF] → s.modu.forceWait = none → s.modu.forces ≠ [] →
      exec (.forceClear mb) s = .next (waitMb { s with modu := { s.modu with
        forces := s.modu.forces.map (fun f => { f with leaving := true }), forceWait := some mb } } mb)) ∧
    (∀ f, Asked s mb 0x0402 true true [] → forceTable s = [f] → f.slot < 256 →
      exec (.forceList mb) s = .next (okMb s mb
        [1, BitVec.ofNat 32 f.slot, BitVec.ofNat 32 (f.kind * 2 ^ 24 + b2n f.keep), f.id, f.v0, f.v1])) ∧
    (∀ f, s.modu.forceWait = some mb → s.modu.forces = [f] → f.effective = false → f.leaving = false → forceTable s = [f] →
      exec .forceAcknowledge s = .next (finishMb (setIrq (forceRecord { s with modu := { s.modu with
        forces := [{ f with effective := true }], forceWait := none } } 1 f) irqForce) mb 0 [BitVec.ofNat 32 f.slot]))

/-- The axis commands (R32 to R36, R453): a step and a scale wait in their axis's queue, a source is selected at once. TRIG_ARM and
TRIG_CANCEL (R50, R51, R453). -/
def Obligations.AxisAndTriggerCommandsHaveTheirEffect : Prop :=
  (∀ (mb : Mb) (s : State) (w hi lo : Word),
     (Asked s mb 0x0500 true true [w, hi, lo] → bits w.toNat 0 2 ≠ 0 →
       exec (.axisStep mb) s = .next (resultMb (pushWrite s (bits w.toNat 0 2) (.step (join64 hi lo) 1)) mb 0)) ∧
     (Asked s mb 0x0500 true true [w, hi, lo] → bits w.toNat 0 2 = 0 → (axis s 0).src = 0 → stepPermitted s (join64 hi lo).toInt = true →
       exec (.axisStep mb) s = .next (resultMb (pushWrite s 0 (.step (join64 hi lo) 1)) mb 0)) ∧
     (Asked s mb 0x0501 true true [w, hi, lo] → scaleOk (bits w.toNat 0 2) (join64 hi lo) = true →
       (bits w.toNat 0 2 = 0 → (axis s 0).src = 0) →
       exec (.axisScale mb) s = .next (resultMb (pushWrite s (bits w.toNat 0 2) (.scale (join64 hi lo))) mb 0)) ∧
     (Asked s mb 0x0502 true true [w] → bit w.toNat 16 = false → bits w.toNat 8 4 ≤ lastSource (bits w.toNat 0 2) →
       bits w.toNat 20 8 = 0 → bits w.toNat 0 2 < 2 →
       exec (.axisSource mb) s
         = .next (resultMb (axisIrq s (selectSource s (bits w.toNat 0 2) (bits w.toNat 8 4) 0 0 none)) mb 0))) ∧
  (∀ (mb : Mb) (s : State),
     (∀ w vh vl ph pl w5 w6 w7 w8 : Word, Asked s mb 0x0510 true true [w, vh, vl, ph, pl, w5, w6, w7, w8] → bit w.toNat 6 = false →
       armOk (bits w.toNat 8 2) (bits w.toNat 12 2) (bits w.toNat 16 2) (join64 ph pl) = true →
       actionsOk w5.toNat (join64 w6 w7).toNat = true →
       heldByProgram s (bits w.toNat 0 6) = false → heldByUnit s (bits w.toNat 0 6) = false →
       exec (.trigArm mb) s = .next (finishMb (armTrigger s (bits w.toNat 0 6) .host
         { kind := trigKind (bits w.toNat 8 2), axis := bits w.toNat 12 2, dir := dirOf (bits w.toNat 16 2), value := join64 vh vl
           period := join64 ph pl, input := bits w.toNat 20 2
           actions := trigActions w5.toNat (join64 w6 w7).toNat (bits w8.toNat 0 8) }
         (trigger s (bits w.toNat 0 6)).armed) mb 0 [BitVec.ofNat 32 (bits w.toNat 0 6)])) ∧
     (∀ n : Word, Asked s mb 0x0511 true true [n] → n.toNat < 64 → heldByProgram s n.toNat = false → heldByUnit s n.toNat = false →
       (trigger s n.toNat).armed = true → exec (.trigCancel mb) s = .next (finishMb (cancelTrigger s n.toNat) mb 0 [0])))

/-- The network commands (R288, R289, R291, R295, R301, R369, R453, R454). NET_STATUS answers the record of its selector, of a plane, a
port or a plane's leases only while NET is on, and DOMAIN_OFF otherwise (log entry 185); SLOT_CLAIM enters its claim on the named planes
and waits for their GRANTs, unless a plane has granted already; it ends with TIMEOUT when 16 cluster cycles bring no decision;
PORT_RELEASE ends a quarantine or revokes the port's leases; PTP_STATUS answers the port, its state, the master and the measures. -/
def Obligations.NetworkCommandsHaveTheirEffect : Prop :=
  (∀ (mb : Mb) (s : State) (n : Word),
    (Asked s mb 0x0600 true true [0, n] → n.toNat < 2 →
      exec (.netStatus mb) s = .next (if domainOn s 5 then finishMb s mb 0 (planeStatus s (n.toNat = 1)) else resultMb s mb 6)) ∧
    (Asked s mb 0x0600 true true [1, n] → n.toNat < 11 →
      exec (.netStatus mb) s = .next (if domainOn s 5 then finishMb s mb 0 (portStatus s n.toNat) else resultMb s mb 6)) ∧
    (Asked s mb 0x0600 true true [2, n] → n.toNat < 2 →
      exec (.netStatus mb) s = .next (if domainOn s 5 then finishMb s mb 0 (leaseStatus s (n.toNat = 1)) else resultMb s mb 6)) ∧
    (Asked s mb 0x0600 true true [3, n] → exec (.netStatus mb) s = .next (finishMb s mb 0 (groupStatus s n.toNat))) ∧
    (Asked s mb 0x0600 true true [4, n] → exec (.netStatus mb) s = .next (finishMb s mb 0 (endpointStatus s n.toNat)))) ∧
  (∀ (mb : Mb) (s u : State) (w : Word) (slot planes : Nat) (k : Int), Asked s mb 0x0601 false false [w] →
    slot = bits w.toNat 0 8 → planes = bits w.toNat 8 2 → planes ≠ 0 → s.net.sched.entries.any (fun e => e.slot = slot && e.ty = 3) = true →
    s.bank.net.tx.any (fun x => x.slot = slot) = true → domainOn s 5 = true → s.net.node = .sync → s.net.claimCmd = none →
    k = s.net.sched.cluster (s.net.sched.cycleOf (now0 s)) →
    u = { waitMb s mb with net := { s.net with
      claims := { slot := slot, planes := planes, next := k } :: s.net.claims.filter (fun x => x.slot ≠ slot)
      claimCmd := some (mb, slot, planes, k)
      planeA := { s.net.planeA with decided := s.net.planeA.decided.filter (fun d => d.1 ≠ slot) }
      planeB := { s.net.planeB with decided := s.net.planeB.decided.filter (fun d => d.1 ≠ slot) } } } →
    exec (.slotClaim mb) s = .next (endSlotClaim u) ∧
    ((claimState u planes slot false = none ∨ claimState u planes slot true = none) → claimState u planes slot false ≠ some 2 →
      claimState u planes slot false ≠ some 3 → claimState u planes slot true ≠ some 2 → claimState u planes slot true ≠ some 3 →
      exec (.slotClaim mb) s = .next u)) ∧
  (∀ (mb : Mb) (s : State) (slot planes : Nat) (k : Int), s.net.claimCmd = some (mb, slot, planes, k) →
    k + 16 ≤ s.net.sched.cluster (s.net.sched.cycleOf (now0 s)) →
    exec (.slotClaimTimeout mb) s = .next (resultMb { s with net := { s.net with
      claimCmd := none, claims := s.net.claims.filter (fun x => x.slot ≠ slot) } } mb 8)) ∧
  (∀ (mb : Mb) (s : State) (w : Word), Asked s mb 0x0602 true true [w] → inSession s mb = true → domainOn s 5 = true →
    (starPlane s).isSome = true → (portCfg s (bits w.toNat 0 3)).role = 2 →
    exec (.portRelease mb) s = .next (resultMb (if bit w.toNat 8 then revokeLeases s (bits w.toNat 0 3)
      else { s with net := { s.net with
        sluices := upd (upd s.net.sluices (bits w.toNat 0 3) (fun x => { x with quar := none })) (bits w.toNat 0 3) (fun x => { x with run := 0 })
        descs := s.net.descs.map (fun d => if d.port = bits w.toNat 0 3 then { d with run := 0 } else d) } }) mb 0)) ∧
  (∀ (mb : Mb) (s : State) (g q : BitVec 64) (port steps : Nat), Asked s mb 0x0610 true true [] →
    (ptpMaster s = none → g = 0 ∧ q = 0 ∧ port = 0 ∧ steps = 0) →
    (∀ m, ptpMaster s = some m → g = m.gmIdentity ∧ q = m.parentIdentity ∧ port = m.parentPort ∧ steps = m.stepsRemoved) →
    exec (.ptpStatus mb) s = .next (finishMb s mb 0 ([w32 (ptpPort s % 256 + ptpCode s.train.ptp.st * 256), hi32 g, lo32 g, 0,
      hi32 q, lo32 q, w32 (port * 65536), w32 steps] ++ twoInt s.train.ptp.offset ++ twoInt (pathDelay s)
      ++ [w32 s.train.ptp.timeouts, w32 s.train.ptp.moves])))

/-- The recorder and power commands (R355, R357, R401, R416, R453). -/
def Obligations.RecorderAndPowerCommandsHaveTheirEffect : Prop :=
  ∀ (mb : Mb) (s : State),
    (Asked s mb 0x0700 true true [] → s.recd.buffer = [] → exec (.recFlush mb) s = .next (resultMb s mb 0)) ∧
    (∀ r, Asked s mb 0x0700 true true [] → s.recd.buffer.getLast? = some r →
      exec (.recFlush mb) s = .next (startFlush (wantFlush (waitMb { s with recd := { s.recd with
        flushWait := s.recd.flushWait ++ [(mb, r.seq)] } } mb)))) ∧
    (Asked s mb 0x0701 true true [] → inSession s mb = true → exec (.recClear mb) s = .next (resultMb (clearRecords s) mb 0)) ∧
    (∀ w : Word, Asked s mb 0x0702 true true [w] →
      ∃ ws, exec (.recInfo mb) s = .next (finishMb s mb 0 (BitVec.ofNat 32 (b2n s.recd.keep) :: ws))) ∧
    (∀ w : Word, Asked s mb 0x0800 true true [w] →
      exec (.pwrVote mb) s = .next (okMb (setVote s (mbVote mb) (BitVec.ofNat 8 w.toNat)) mb [])) ∧
    (Asked s mb 0x0801 true true [] → ∃ ws, exec (.pwrStatus mb) s = .next (finishMb s mb 0 (s.pwr.stat :: wakeStat s :: pfStat s :: ws))) ∧
    (∀ w0 w1 w2 w3 w4 : Word, Asked s mb 0x0802 true true [w0, w1, w2, w3, w4] →
      (dutyFields (dutyAsked s [w0, w1, w2, w3, w4]) s.bank.chans).all (·.2) = true →
      exec (.dutySet mb) s = .next (resultMb { s with pwr := { s.pwr with cfg := dutyAsked s [w0, w1, w2, w3, w4] } } mb 0))

/-- The pairing commands (R392, R397, R453). The sound and field commands (R237, R242, R243, R259, R263, R453). -/
def Obligations.PairSoundAndFieldCommandsHaveTheirEffect : Prop :=
  (∀ (mb : Mb) (s : State),
     (Asked s mb 0x0900 true true [] → exec (.pairStatus mb) s = .next (okMb s mb (pairWords s))) ∧
     (Asked s mb 0x0901 false false [] → inSession s mb = true → linked s = true → standby s = true → eligible s = true →
       s.pair.switch = none → exec (.pairSwitch mb) s = .next (proposeSwitch (waitMb s mb) 3 (some mb))) ∧
     (Asked s mb 0x0902 true true [] → s.pair.paired = true →
       exec (.pairResync mb) s = .next (copyAll (okMb { s with pair := { s.pair with
         st := if s.pair.st = .failed then .syncing else s.pair.st, fullAt := [] } } mb [])))) ∧
  (∀ (mb : Mb) (s : State) (w : Word),
     (∀ c, Asked s mb 0x0A00 false false [w] → soundOn s = true → flowCfg s (bits w.toNat 0 8) = some c →
       flowOwned s (bits w.toNat 0 8) = false →
       ((flowSt s (bits w.toNat 0 8)).run = true ∨ flowCommitted s + flowBytes c ≤ 1572864) →
       exec (.flowOpen mb) s = .next (resultMb (setRun s (bits w.toNat 0 8) true) mb 0)) ∧
     (Asked s mb 0x0A01 false false [w] → soundOn s = true → (flowCfg s (bits w.toNat 0 8)).isSome = true →
       flowOwned s (bits w.toNat 0 8) = false →
       exec (.flowClose mb) s = .next (resultMb (setRun s (bits w.toNat 0 8) false) mb 0)) ∧
     (∀ g : Word, Asked s mb 0x0A02 false false [w, g] → soundOn s = true → -24576 ≤ signed 16 g.toNat → signed 16 g.toNat ≤ 3072 →
       mixOwned s (bits w.toNat 0 10) = false →
       exec (.mixSet mb) s = .next (resultMb (modMix s (bits w.toNat 0 10) (fun m =>
         { m with want := gainFactor (signed 16 g.toNat) 8, set := true })) mb 0)) ∧
     (∀ (ch : Nat) (c : ChCfg) (x : ChSt), Asked s mb 0x0B00 true true [w] → fieldOn s = true → ch = bits w.toNat 0 5 → c = chCfg s ch →
       x = chSt s ch →
       exec (.chStatus mb) s = .next (finishMb s mb 0 (chStatusWord s ch :: (toWords (channelEntry c) ++ [w32 (10 * tOn c), w32 (10 * tOff c),
         w32 x.transitions, w32 x.trips, w32 x.passed, w32 x.failed])))) ∧
     (∀ (ch low : Nat) (u : State), Asked s mb 0x0B01 false false [w] → ch = bits w.toNat 0 5 → low = lowestOf s ch → fieldOn s = true →
       isOut s ch = true → chFlag s ch 3 = true → (safetyOut s ch = true → inSession s mb = true) → (chSt s low).on = true →
       (chSt s low).testOk = true → s.field.chTests.any (fun y => chGrp y.2 = chGrp ch) = false → groupTesting s (chGrp ch) = false →
       heldOff s low = false →
       u = modLanes s (fun _ l => if l.st = .off then l else { l with drive := upd l.drive low (fun c => { c with treq := 3 }) }) →
       exec (.chTest mb) s = .next (waitMb { u with field := { u.field with chTests := u.field.chTests ++ [(mb, low)] } } mb)))

/-- The diagnostic and bridge commands (R84, R165, R177 to R179, R330, R339, R453). -/
def Obligations.DiagnosticAndBridgeCommandsHaveTheirEffect : Prop :=
  ∀ (mb : Mb) (s : State),
    (Asked s mb 0x0C00 false false [] → s.vote.injecting = none →
      exec (.selftestRun mb) s = .next (waitMb (startInjection s (.command mb)) mb)) ∧
    (∀ w t r : Word, Asked s mb 0x0C01 false false [w, t, r] → inSession s mb = true →
      (s.modu.mode = .voted3 ∨ (s.modu.mode = .voted2 ∧ s.bank.modu.bench = true)) → bits w.toNat 0 2 ≠ 3 →
      (bit w.toNat 8 = true → (allTasks s).contains (bits t.toNat 0 4) = true) →
      (lane s (laneOf (bits w.toNat 0 2))).st = .active → debugging s = false → s.vote.attach = none →
      exec (.dbgAttach mb) s = .next (okMb { s with vote := { s.vote with
        attach := some (laneOf (bits w.toNat 0 2), bit w.toNat 8, bits t.toNat 0 4, r), debugMb := some mb } } mb [])) ∧
    (Asked s mb 0x0C02 false false [] → debugging s = true → exec (.dbgDetach mb) s = .next (okMb (detach s) mb [])) ∧
    (∀ w : Word, Asked s mb 0x0C03 true true [w] → bit w.toNat 8 = false → bits w.toNat 0 2 ≠ 3 →
      exec (.laneStatus mb) s = .next (if laneDomainOn s (laneOf (bits w.toNat 0 2))
        then okMb s mb (laneStatus s (laneOf (bits w.toNat 0 2))) else resultMb s mb 6)) ∧
    (∀ (w v first n : Word) (l : Lane) (t space : Nat) (out : List QWord), Asked s mb 0x0C03 true true [w, v, first, n] →
      bit w.toNat 8 = true → bits w.toNat 0 2 ≠ 3 → l = laneOf (bits w.toNat 0 2) → laneDomainOn s l = true → (lane s l).st = .debug →
      (lane s l).freeze = true → (lane s l).frozen = true → t = bits v.toNat 0 4 → space = bits v.toNat 8 2 → space ≠ 3 → n ≠ 0 →
      n.toNat ≤ 4096 → (List.range n.toNat).all (fun k => (findPage (lane s l).pages t space ((first.toNat + k) / 256)).isSome) = true →
      out = (List.range n.toNat).map (fun k => readWord (lane s l).pages t space (first.toNat + k) (laneTask s l t).cyc.rel.toNat) →
      exec (.laneStatus mb) s = .next (okMb s mb (out.map (·.v) ++ nibbleWords ((n.toNat + 7) / 8) out))) ∧
    (∀ (w p d : Word) (fs : List Word) (ep i : Nat), Asked s mb 0x0D00 false false (w :: p :: d :: fs) → ep = bits w.toNat 0 5 →
      i = bits w.toNat 8 2 → fs.length = 2 * bits w.toNat 12 4 → bits w.toNat 12 4 ≤ 8 → ifOn s i = true → (2 ≤ i → bits w.toNat 12 4 = 0) →
      (d = 0 ∨ (250 ≤ d.toNat ∧ d.toNat ≤ 100000)) → s.bank.net.tx.any (fun x => x.ty = 4 && x.ident = ep) = true → endpoint s ep = none →
      (2 ≤ i → s.br.eps.any (fun e => e.iface = i) = false) →
      ∃ x : Endpoint, x = { ep := ep, iface := i, peer := bits p.toNat 0 10, peerEp := bits p.toNat 16 5, delay := d.toNat
                            filters := filterWords (bits w.toNat 12 4) fs } ∧
        exec (.tunnelOpen mb) s = .next (resultMb (tunnelRecord { s with br := { s.br with
          eps := (s.br.eps.filter (fun y => y.ep < ep)) ++ x :: (s.br.eps.filter (fun y => ep < y.ep)) } } 0 0x9007 ep true) mb 0)) ∧
    (∀ w : Word, Asked s mb 0x0D01 true true [w] → (endpoint s (bits w.toNat 0 5)).isSome = true →
      exec (.tunnelClose mb) s = .next (resultMb (tunnelRecord { s with br := { s.br with
        eps := s.br.eps.filter (fun x => x.ep ≠ bits w.toNat 0 5) } } 0 0x9007 (bits w.toNat 0 5) false) mb 0)) ∧
    (∀ w : Word, ∀ x, Asked s mb 0x0D02 false false [w] → x = nodeSt s (bits w.toNat 0 10) → x.fenced = true → x.clearing = none →
      domainOn s 5 = true →
      exec (.fenceClear mb) s = .next (issue (modNode (waitMb s mb) (bits w.toNat 0 10)
          (fun y => { y with clearing := some (mb, x.next, rawNow s), next := (x.next + 1) % 65536 }))
        true (bits w.toNat 0 10) none 0 (requestBody 4 0 x.next x.last 0 []))) ∧
    (∀ n : NodeSt, ∀ tag at_, s.br.nodes = [n] → n.clearing = some (mb, tag, at_) →
      elapsed s at_ (s.bank.net.bridge.reqTimeout * 1000000) = true →
      exec (.fenceClearTimeout mb) s = .next (resultMb (modNode s n.node (fun y => { y with clearing := none })) mb 8))

/-! ### The host port and the registers -/

/-- What the writes and reads of the mailbox registers do for the source that holds the mailbox, while HUB is on; an access by the host is
a transaction of its port, whose opcode phase comes first (R436). A request word enters the FIFO, the last one makes the command BUSY, one
that finds the FIFO full is lost, sets OVERRUN and ends the command with BAD_ARG, where LAST is the number of words taken from the FIFO
(that it ends at once is the model's reading, notes/assumptions 156); a word outside RECEIVING is discarded, for the host with MB_BUSY; a
response word is read and leaves, zero beyond them; ACK in DONE and ABORT in RECEIVING return to IDLE. A write from another source is
discarded (R448); with HUB off the port answers ones and nothing is written (R370). -/
def Obligations.MailboxRegistersHaveTheirEffect : Prop :=
  (∀ (mb : Mb) (src : Source) (w : Word) (drained : Nat) (s u : State), reaches mb src = true → domainOn s 1 = true →
    s.bring.bootFail = false → u = accessed (drainMb s mb drained) src →
    ((mbox s mb).holder = some src → (mbox s mb).st = .receiving → (mbox s mb).fill - drained < 1024 →
      (mbox s mb).req.length + 1 < (mbox s mb).need →
      exec (.mbDataWrite mb src w drained) s = .next (modMb u mb (fun m => { m with fill := m.fill + 1, req := m.req ++ [w] }))) ∧
    ((mbox s mb).holder = some src → (mbox s mb).st = .receiving → (mbox s mb).fill - drained < 1024 →
      (mbox s mb).need ≤ (mbox s mb).req.length + 1 →
      exec (.mbDataWrite mb src w drained) s
        = .next (modMb u mb (fun m => { m with st := .busy, since := rawNow s, fill := m.fill + 1, req := m.req ++ [w] }))) ∧
    ((mbox s mb).holder = some src → (mbox s mb).st = .receiving → 1024 ≤ (mbox s mb).fill - drained →
      exec (.mbDataWrite mb src w drained) s = .next (finishMbAt (modMb u mb (fun m => { m with overrun := true })) mb 3 []
        ((mbox s mb).req.length - ((mbox s mb).fill - drained)))) ∧
    ((mbox s mb).holder = some src → (mbox s mb).st ≠ .receiving →
      exec (.mbDataWrite mb src w drained) s = .next (if src = .host then portError u 7 0 else u)) ∧
    (∀ other, (mbox s mb).holder = some other → other ≠ src → exec (.mbDataWrite mb src w drained) s = .next u)) ∧
  (∀ (mb : Mb) (src : Source) (s u : State), reaches mb src = true → domainOn s 1 = true → s.bring.bootFail = false →
    u = accessed s src →
    (src = .host → ∀ v, v = modMb u mb (fun m => { m with resp := m.resp.drop 1 }) →
      exec (.mbDataRead mb src) s = .next (emit v (.hostData (statusByte v false false false false) [(mbox s mb).resp.headD 0]))) ∧
    (src ≠ .host → exec (.mbDataRead mb src) s = .next (modMb u mb (fun m => { m with resp := m.resp.drop 1 }))) ∧
    ((mbox s mb).holder = some src → (mbox s mb).st = .done → exec (.mbCtrlAck mb src) s = .next (idleMb u mb)) ∧
    ((mbox s mb).holder = some src → (mbox s mb).st ≠ .done → exec (.mbCtrlAck mb src) s = .next u) ∧
    ((mbox s mb).holder = some src → (mbox s mb).st = .receiving → exec (.mbCtrlAbort mb src) s = .next (idleMb u mb)) ∧
    ((mbox s mb).holder = some src → (mbox s mb).st ≠ .receiving → exec (.mbCtrlAbort mb src) s = .next u) ∧
    (∀ other, (mbox s mb).holder = some other → other ≠ src →
      exec (.mbCtrlAck mb src) s = .next u ∧ exec (.mbCtrlAbort mb src) s = .next u)) ∧
  (∀ (mb : Mb) (w : Word) (drained : Nat) (s : State), domainOn s 1 = false →
    exec (.mbDataWrite mb .host w drained) s = .next (emit (drainMb s mb drained) (.hostData 0xFF [])) ∧
    exec (.mbDataRead mb .host) s = .next (emit s (.hostData 0xFF [0xFFFFFFFF])) ∧
    exec (.mbCtrlAck mb .host) s = .next (emit s (.hostData 0xFF [])) ∧ exec (.mbCtrlAbort mb .host) s = .next (emit s (.hostData 0xFF [])))

/-- An access of the host port to the register space, after the status byte of its opcode phase (R435 to R439, R441). A read that starts at
an aligned address, in 1-bit or 4-bit form, answers the words of its addresses in order; what is fetched too late is zero with everything
after it, and consumes nothing. A write writes its words in order, as far as the write buffer takes them. A misaligned access and one that
starts at a reserved address are errors. STATUS answers the status byte after the opcode phase; an opcode that is none of the five only
leaves its error; with HUB off every answer is ones and nothing is written (R370). -/
def Obligations.HostPortHasItsEffect : Prop :=
  (∀ (addr : BitVec 24) (count : Nat) (tm : HostTiming) (s u : State), domainOn s 1 = true → addr.toNat < 0x800000 → u = opcodePhase s tm →
     (∀ r, addr.toNat % 4 = 0 → tm.late = none → (peek u .host addr.toNat).isSome = true →
       r = regReads .host (accessAddrs addr.toNat count) u →
       exec (.read addr count tm) s = .next (emit r.2 (.hostData (statusByte r.2 false false false false) r.1))) ∧
     (∀ k r v, addr.toNat % 4 = 0 → tm.late = some k → k < count → (peek u .host addr.toNat).isSome = true →
       r = regReads .host (accessAddrs addr.toNat k) u → v = portError r.2 3 k →
       exec (.read addr count tm) s
         = .next (emit v (.hostData (statusByte v false (k = 0) false false) (r.1 ++ List.replicate (count - k) 0)))) ∧
     (∀ r, addr.toNat % 4 = 0 → tm.late = none → peek u .host addr.toNat = none →
       r = regReads .host (accessAddrs addr.toNat count) (hostError u 2 0) →
       exec (.read addr count tm) s = .next (emit r.2 (.hostData (statusByte r.2 true false false false) r.1))) ∧
     (∀ v, addr.toNat % 4 ≠ 0 → tm.late = none → v = hostError u 1 0 →
       exec (.read addr count tm) s = .next (emit v (.hostData (statusByte v true false false false) (List.replicate count 0)))) ∧
     exec (.quadRead addr count tm) s = exec (.read addr count tm) s) ∧
  (∀ (addr : BitVec 24) (words : List Word) (tm : HostTiming) (s u : State), domainOn s 1 = true → addr.toNat < 0x800000 →
     u = opcodePhase s tm →
     (addr.toNat % 4 = 0 → tm.full = none → (peek u .host addr.toNat).isSome = true →
       exec (.write addr words tm) s = .next (hostWrites 0 false ((accessAddrs addr.toNat words.length).zip words) u)) ∧
     (∀ k, addr.toNat % 4 = 0 → tm.full = some k → k < words.length → (peek u .host addr.toNat).isSome = true →
       exec (.write addr words tm) s
         = .next (portError (hostWrites 0 false ((accessAddrs addr.toNat k).zip (words.take k)) u) 4 k)) ∧
     (addr.toNat % 4 = 0 → tm.full = none → peek u .host addr.toNat = none →
       exec (.write addr words tm) s
         = .next (hostWrites 0 false ((accessAddrs addr.toNat words.length).zip words) (portError u 2 0))) ∧
     (addr.toNat % 4 ≠ 0 → exec (.write addr words tm) s = .next (portError u 1 0)) ∧
     exec (.quadWrite addr words tm) s = exec (.write addr words tm) s) ∧
  (∀ (tm : HostTiming) (s u : State), domainOn s 1 = true → u = opcodePhase s tm →
     exec (.status tm) s = .next (emit u (.hostData (statusByte u false (hostBusy u tm) false false) []))) ∧
  (∀ (op : Byte) (s : State), domainOn s 1 = true → op ≠ 0xA1 → op ≠ 0xA2 → op ≠ 0xA5 → op ≠ 0xA6 → op ≠ 0xAF →
     exec (.badOpcode op) s = .next (portError (opcodePhase s {}) 5 0)) ∧
  (∀ (addr : BitVec 24) (count : Nat) (words : List Word) (tm : HostTiming) (op : Byte) (s : State), domainOn s 1 = false →
     exec (.read addr count tm) s = .next (emit s (.hostData 0xFF (List.replicate count 0xFFFFFFFF))) ∧
     exec (.write addr words tm) s = .next (emit s (.hostData 0xFF [])) ∧
     exec (.status tm) s = .next (emit s (.hostData 0xFF [])) ∧ exec (.badOpcode op) s = .next (emit s (.hostData 0xFF [])))

/-- A single register read by the host port: the opcode phase, the word with the status byte, and what the read takes with it; the inbound
engine reads without a status byte. A single register below the mailboxes' and the window registers' own rows, written by the host port or
by the inbound engine (R8, R9, R331, R357, R358, R372, R442). -/
def Obligations.RegistersHaveTheirEffect : Prop :=
  (∀ s u v : State, domainOn s 1 = true → s.bring.bootFail = false → u = opcodePhase s {} →
     (v = { u with hp := { u.hp with harvestLo := lo32 s.vote.harvest } } →
       exec .modHarvestHiRead s = .next (emit v (.hostData (statusByte v false false false false) [hi32 s.vote.harvest]))) ∧
     (∀ n : Fin 16, v = { u with hp := { u.hp with slots := upd s.hp.slots n.val (fun x => { x with lat := x.q }) } } →
       exec (.mbxnValRead n) s
         = .next (emit v (.hostData (statusByte v false false false false) [(s.hp.slots.getD n.val {}).val]))) ∧
     (v = (readRecData u .host).2 →
       exec (.recDataRead .host) s
         = .next (emit v (.hostData (statusByte v false false false false) [(readRecData u .host).1]))) ∧
     (v = (readLogData u .host).2 →
       exec (.fltLogDataRead .host) s
         = .next (emit v (.hostData (statusByte v false false false false) [(readLogData u .host).1]))) ∧
     (v = (readBrLog u).2 →
       exec .brLogDataRead s = .next (emit v (.hostData (statusByte v false false false false) [(readBrLog u).1]))) ∧
     (v = { u with pwr := { s.pwr with count := 0 } } →
       exec (.rcFieldRead .host 0x604) s = .next (emit v (.hostData (statusByte v false false false false) [wakeStat s]))) ∧
     (∀ (addr : BitVec 24) (w : Word), addr.toNat < 0x800000 → isValHi addr.toNat = false → peek u .host addr.toNat = some w →
       v = readEffect u .host addr.toNat →
       exec (.rcFieldRead .host addr) s = .next (emit v (.hostData (statusByte v false false false false) [w])))) ∧
  (∀ s : State, domainOn s 1 = true → s.bring.bootFail = false →
     exec (.recDataRead .bridge) s = .next (readRecData s .bridge).2 ∧
     exec (.fltLogDataRead .bridge) s = .next (readLogData s .bridge).2 ∧
     exec (.rcFieldRead .bridge 0x604) s = .next { s with pwr := { s.pwr with count := 0 } }) ∧
  (∀ (w : Word) (s u : State), domainOn s 1 = true → s.bring.bootFail = false → u = opcodePhase s {} →
     exec (.recCursorLoWrite .host w) s = .next (setRecReader u .host ((recReader s .host).seek w)) ∧
     exec (.recCursorLoWrite .bridge w) s = .next (setRecReader s .bridge ((recReader s .bridge).seek w)) ∧
     exec (.fltCursorLoWrite .host w) s = .next (setFltReader u .host ((fltReader s .host).seek w)) ∧
     exec (.fltCursorLoWrite .bridge w) s = .next (setFltReader s .bridge ((fltReader s .bridge).seek w)) ∧
     exec .clear s = .next { u with flt := { s.flt with latched := 0, count := 0 } } ∧
     exec (.registerWrite .host 0x104 w) s = .next { u with hp := { u.hp with irq := s.hp.irq &&& ~~~w } } ∧
     exec (.registerWrite .host 0x108 w) s = .next { u with hp := { u.hp with irqEn := w &&& 0x7FFF } } ∧
     exec (.registerWrite .host 0x118 w) s = .next { u with hp := { u.hp with trig := s.hp.trig &&& ~~~(0#32 ++ w) } } ∧
     exec (.registerWrite .host 0x11C w) s = .next { u with hp := { u.hp with mbxChg := s.hp.mbxChg &&& ~~~(w.setWidth 16) } } ∧
     exec (.registerWrite .bridge 0x104 w) s = .next { s with hp := { s.hp with irq := s.hp.irq &&& ~~~w } } ∧
     (∀ n : Fin 16, exec (.brPagenCfgWrite n w) s = .next (writePageCfg u n.val w)))

/-- The remote window, on an enabled page in service (R318, R326 to R329, R440); words beyond 64 or beyond the page are refused. A read
without an entry takes one and is to be repeated, one whose entry waits is to be repeated, and one whose entry is done takes its words and
frees it, with the error of an entry that failed. A write to a LOCAL page likewise. A write to a TRAIN page takes a credit and the next tag;
of a fenced node it takes the tag and is logged; without a credit it is an error of the bridge. -/
def Obligations.RemoteWindowCommandsHaveTheirEffect : Prop :=
  (∀ (addr : BitVec 24) (count page k : Nat) (s u : State), 0x800000 ≤ addr.toNat → addr.toNat % 4 = 0 → domainOn s 1 = true →
     domainOn s 5 = true → inService s = true → (brPage s page).en = true → 0 < count → (page, k) = windowSpan addr.toNat count →
     u = refuse (opcodePhase s {}) (count - k) →
     (∀ v, findDelayed s page addr.toNat false = none → v = newDelayed u page addr.toNat k false [] →
       exec (.remoteWindowRead addr count) s
         = .next (emit v (.hostData (statusByte v false false false true) (List.replicate count 0)))) ∧
     (∀ i e, findDelayed s page addr.toNat false = some (i, e) → e.done = none → e.count = k →
       exec (.remoteWindowRead addr count) s
         = .next (emit u (.hostData (statusByte u false false false true) (List.replicate count 0)))) ∧
     (∀ i e off ws t v, findDelayed s page addr.toNat false = some (i, e) → e.done = some (0, off, ws, t) → e.count = k →
       v = setDelayed u i none → exec (.remoteWindowRead addr count) s
         = .next (emit v (.hostData (statusByte v false false off false) ((ws.take k ++ List.replicate count 0).take count)))) ∧
     (∀ i e code off ws t v, findDelayed s page addr.toNat false = some (i, e) → e.done = some (code, off, ws, t) → code ≠ 0 → e.count = k →
       v = hostError { setDelayed u i none with br := { (setDelayed u i none).br with lastCode := BitVec.ofNat 8 code } } 6 0 →
       exec (.remoteWindowRead addr count) s
         = .next (emit v (.hostData (statusByte v true false off false) ((ws.take k ++ List.replicate count 0).take count))))) ∧
  (∀ (addr : BitVec 24) (words data : List Word) (page k : Nat) (s u : State), 0x800000 ≤ addr.toNat → addr.toNat % 4 = 0 →
     domainOn s 1 = true → domainOn s 5 = true → inService s = true → (brPage s page).en = true → words ≠ [] →
     (page, k) = windowSpan addr.toNat words.length → data = words.take k → u = refuse (opcodePhase s {}) (words.length - k) →
     ((brPage s page).train = false → findDelayed s page addr.toNat true = none →
       exec (.remoteWindowWrite addr words) s = .next (keepAnswer ({ retry := true }, newDelayed u page addr.toNat k true data))) ∧
     (∀ i e, (brPage s page).train = false → findDelayed s page addr.toNat true = some (i, e) → e.count = k → e.data = data →
       (e.done = none → exec (.remoteWindowWrite addr words) s = .next (keepAnswer ({ retry := true }, u))) ∧
       (∀ off ws t, e.done = some (0, off, ws, t) →
         exec (.remoteWindowWrite addr words) s = .next (keepAnswer ({ dOff := off }, setDelayed u i none)))) ∧
     (∀ x next, (brPage s page).train = true → x = nodeSt s (brPage s page).node → next = (x.next + 1) % 65536 →
       (x.fenced = false → x.credits ≠ 0 → outUsed s < 1024 →
         exec (.post addr words) s = .next (keepAnswer ({}, issue (modNode u (brPage s page).node (fun y => { y with
           next := next, credits := y.credits - 1, last := some x.next
           posts := y.posts ++ [{ tag := x.next, page := page, remote := remoteAddr s page addr.toNat, count := data.length, at_ := rawNow s
                                  reqMs := s.bank.net.bridge.reqTimeout }] })) true (brPage s page).node (some x.next) page
             (requestBody 3 data.length x.next x.last (remoteAddr s page addr.toNat) data)))) ∧
       (x.fenced = true → exec (.post addr words) s = .next (keepAnswer ({}, logBridge (modNode u (brPage s page).node (fun y =>
         { y with next := next })) 5 page (brPage s page).node x.next data.length (remoteAddr s page addr.toNat)))) ∧
       (x.fenced = false → (x.credits = 0 ∨ 1024 ≤ outUsed s) →
         exec (.post addr words) s = .next (keepAnswer ({ err := true }, setIrq (hostError (refuse u) 6 0) irqBridge)))))

/-! ### Axes, triggers and lanes -/

/-- SNAP latches the four quantities of every axis in one tick; a read of AXn_VAL_HI latches its axis, unless AX_SNAP was written since
the last one, and answers the high word of the value latched (R41): both are accesses by the host port. The oldest zero-crossing report
reaches the timing unit: one of the channel that is the source of the phase axis moves it to the next whole cycle and measures the period; one less than half a period after the last is discarded and counted; one of
another channel has no effect (R35, R38). The time-driven events of an axis: 2.5 periods without a crossing set LOST and hold the
phase at the end of its cycle; AX0 in holdover for the limit becomes STALE; a tick advances the counters and takes the edges that have
arrived, applies one waiting write of each axis, evaluates triggers and lattices, and places output edges. -/
def Obligations.AxesHaveTheirEffect : Prop :=
  (∀ s u : State, domainOn s 1 = true → s.bring.bootFail = false → u = opcodePhase s {} →
     exec .snap s = .next { u with tim := { s.tim with axes := s.tim.axes.map (fun a =>
       { a with latVal := a.value, latRaw := a.raw, latOfs := a.offset, latScale := a.scale, snapped := true }) } } ∧
     ∀ (n : Fin 4) (v : State), n.val < s.tim.axes.length →
       v = modAxis u n.val (fun a => if a.snapped then { a with snapped := false }
         else { a with latVal := a.value, latRaw := a.raw, latOfs := a.offset, latScale := a.scale }) →
       exec (.axnValHiRead n) s = .next (emit v (.hostData (statusByte v false false false false) [hi32 (axis v n.val).latVal]))) ∧
  (∀ (ch : Fin 16) (t : DWord) (before rest : List (Nat × DWord)) (s u : State), s.snd.zcReports = before ++ (ch.val, t) :: rest →
     (∀ r ∈ before, r.1 ≠ ch.val) → u = { s with snd := { s.snd with zcReports := before ++ rest } } →
     ((axis s 2).src ≠ 1 ∨ (axis s 2).input ≠ ch.val) → exec (.zeroCrossing ch) s = .next u) ∧
  (∀ (ch : Fin 16) (t tk : DWord) (before rest : List (Nat × DWord)) (s u : State), s.snd.zcReports = before ++ (ch.val, t) :: rest →
     (∀ r ∈ before, r.1 ≠ ch.val) → u = { s with snd := { s.snd with zcReports := before ++ rest } } →
     (axis s 2).src = 1 → (axis s 2).input = ch.val →
     (axis s 2).crossedAt = some tk → (axis s 2).lost = false →
     2 < s.tim.axes.length → tk.toInt ≤ t.toInt →
     ((axis s 2).period ≤ 2 * (t.toInt - tk.toInt).toNat →
       exec (.zeroCrossing ch) s = .next (axisIrq u (modAxis u 2 (fun a => { a with
         crossings := a.crossings + 1, crossedAt := some t, lost := false
         period := max 1000000 (min 100000000 (t.toInt - tk.toInt).toNat), raw := BitVec.ofNat 64 ((a.crossings + 1) * 65536) })))) ∧
     (2 * (t.toInt - tk.toInt).toNat < (axis s 2).period →
       exec (.zeroCrossing ch) s = .next (axisIrq u (modAxis u 2 (fun a => { a with earlyDiscards := a.earlyDiscards + 1 }))))) ∧
  (∀ s : State,
     (∀ tk, (axis s 2).crossedAt = some tk → (axis s 2).src ≠ 0 → (axis s 2).lost = false →
       5 * ((axis s 2).period : Int) ≤ 2 * ((ax0 s).toInt - tk.toInt) →
       exec .lost s = .next (axisIrq s (modAxis s 2 (fun a => { a with
         lost := true, raw := BitVec.ofNat 64 (a.crossings * 65536 + 65535) })))) ∧
     ((axis s 0).holdover = true → (axis s 0).holdoverOver = false →
       elapsed s (axis s 0).holdoverSince (s.tim.holdoverLimit * 1000000000) = true →
       exec .holdoverLimit s = .next (axisIrq s (modAxis s 0 (fun a => { a with holdoverOver := true })))) ∧
     (∀ u v : State, u = tickStep1 (latchViews s) →
       v = evaluate ([0, 1, 2, 3].foldl applyWrite u) ([0, 1, 2, 3].map (fun n => stepOf (axis u n))) →
       exec .timingTick s = .next (axisIrq (latchViews s) { v with tim := { v.tim with
         outputs := v.tim.outputs.map (fun o => placeEdges (rawNow v) (2 * o.sched.length + 2) o)
         axes := v.tim.axes.map (fun a => { a with prev := a.value, prevPath := a.path }), pins := clockPins v } })))

/-- An edge of a timing input waits for the tick in which it arrives, and step 1 of that tick takes it (R34): shorter than its filter it
is none; shorter than 40 ns or less than 100 ns after the last of its kind it is discarded and counted; otherwise it counts on the axes
it feeds, its level and its time at 1 ns are kept, its capture enters the queue while that has room, and the armed CAPTURE triggers of
the input become due (R43 to R45, R51). That a CAPTURE trigger's output edge follows by 100 ns is the model's choice (log entry 158). -/
def Obligations.InputEdgeHasItsEffect : Prop :=
  (∀ (ti : Fin 4) (rising both half : Bool) (width : Nat) (s : State),
    exec (.timingInputEdge ti rising width both half) s = .next { s with tim := { s.tim with
      arrived := s.tim.arrived ++ [{ ti := ti.val, rising := rising, width := width, both := both, half := half }] } }) ∧
  (∀ s : State, tickStep1 s = s.tim.arrived.foldl inputEdge { advance s with tim := { (advance s).tim with
    arrived := [], tickStepped := (advance s).tim.axes.map Axis.steps } }) ∧
  (∀ (e : ArrivedEdge) (s : State) (i : TimingInput) (r : Nat), i = s.tim.inputs.getD e.ti {} → r = rawNow s - b2n e.half →
    (e.width < filterNs i.cfg → inputEdge s e = s) ∧
    (filterNs i.cfg ≤ e.width → e.width < 40 → inputEdge s e = discardEdge s e.ti) ∧
    (filterNs i.cfg ≤ e.width → 40 ≤ e.width → (∀ t, (if e.rising then i.lastRise else i.lastFall) = some t → t + 100 ≤ r) →
      ∃ (c : Capture) (t : DWord) (u : State), u = countEdge s e.ti e.rising e.both r t ∧
        t = axisAt (axis s 0).offset (axis s 0).scale (if e.half then (axis s 0).raw - 1 else (axis s 0).raw) ∧
        c.input = e.ti ∧ c.rising = e.rising ∧ c.stepped = u.tim.tickStepped.any id ∧ c.axes.vals.head? = some t ∧
        inputEdge s e = { u with tim := { u.tim with
          inputs := upd u.tim.inputs e.ti (fun i => { i with
            level := e.rising
            lastRise := if e.rising then some r else i.lastRise
            lastFall := if e.rising then i.lastFall else some r
            queue := if i.queue.length < 16 then i.queue ++ [c] else i.queue
            capLost := if i.queue.length < 16 then i.capLost else satInc i.capLost
            lostSince := if i.queue.length < 16 then i.lostSince else satInc i.lostSince })
          triggers := u.tim.triggers.map (fun g => if g.armed && g.kind = .capture && g.input = e.ti
            then { g with count := g.count + 1
                          due := g.due ++ [{ axes := c.axes, axis := g.axis, stepped := c.stepped, count := g.count + 1, at_ := r + 100
                                             actions := g.actions }] }
            else g) } }))

/-- A firing keeps its report and performs its actions; with HOST_IRQ alone it sets the trigger's bit and the interrupt (R51, R52). A
release that a tick has found goes out in VOTED3, VOTED2 and SAFE of the controlling member; elsewhere it is dropped. -/
def Obligations.FiringAndReleaseHaveTheirEffect : Prop :=
  (∀ (n : Fin 64) (r : FiringReport) (rest : List FiringReport) (s : State), (trigger s n.val).due = r :: rest →
     exec (.triggerFiring n) s = .next (performFiring (modTrigger s n.val (fun g => { g with due := rest })) n.val r) ∧
     (r.actions.output = none → r.actions.task = none → r.actions.recorder = none → r.actions.sound = none → r.actions.hostIrq = true →
       exec (.triggerFiring n) s = .next (setIrq { modTrigger s n.val (fun g => { g with due := rest, report := some r }) with
         hp := { s.hp with trig := s.hp.trig ||| (1#64 <<< n.val) } } irqTrig))) ∧
  (∀ (t : Fin 16) (r : RelDue) (rest : List RelDue) (s u : State), (s.tim.gens.getD t.val {}).due = r :: rest →
     u = { s with tim := { s.tim with gens := upd s.tim.gens t.val (fun g => { g with due := rest }) } } →
     (inService s = true → standby s = false → exec (.release t) s = .next (performRelease u t.val r)) ∧
     (inService s = false → exec (.release t) s = .next (modTask u t.val (fun h => { h with inFlight := false }))))

/-- What a lane does. The oldest stamp on its way reaches it: an ACTIVE lane's task watchdog starts, and releases whose samples are there
begin; a stamp with a wrong CRC-32C is absent (R18, R19, R68, R138). An idle healthy pan that is granted takes the head of its block's queue,
or rakes the victim that grants its block, and the queues' status is published (R74, R75). A pan commits its instance, over the crossbar
where it crosses it (R62, R69), unless a page it writes has still to be sent for a checkpoint, which then leaves out of turn (R168); it is
retired when its copies disagree, or after 256 clocks without a commit that waits for no page (R83). A decrement arrives (R70). -/
def Obligations.LaneCommandsHaveTheirEffect : Prop :=
  ∀ (l : Lane) (s : State),
    (∀ m u, (lane s l).stamps.find? (fun m => !m.here) = some m →
      u = modLane s l (fun x => { x with stamps := x.stamps.map (fun y => if y = m then { y with here := true } else y) }) →
      ((lane s l).st = .active → exec (.releaseStampArrival { lane := l, good := true }) s
        = .next (startReleases (modLaneTask u l m.task (fun lt => { lt with watch := some m.rel })) l)) ∧
      ((lane s l).st ≠ .active → exec (.releaseStampArrival { lane := l, good := true }) s = .next (startReleases u l)) ∧
      exec (.releaseStampArrival { lane := l, good := false }) s
        = .next (modLane s l (fun x => { x with stamps := x.stamps.erase m }))) ∧
    (∀ (b p : Fin 16) (xb : Xbar) (r : InstRef) (publish : State → State), laneRuns (lane s l) = true →
      (panOf s l b.val p.val).retired = false → (panOf s l b.val p.val).busy = none →
      publish = (fun u => modLane u l (fun x => { x with blocks := (numbered x.blocks).map (fun k =>
        { k.2 with published := queueStatus s ((lane s l).blocks.getD k.1 {}).queue }) })) →
      (queueHead s ((lane s l).blocks.getD b.val {}).queue = some r → localGrant s l b.val p.val = true →
        exec (.panDispatch l b p xb) s
          = .next (publish (modPan (takeFrom s l b.val r) l b.val p.val (fun q => { q with busy := some r })))) ∧
      (∀ v u, queueHead s ((lane s l).blocks.getD b.val {}).queue = none → chooseVictim s l b.val = some v →
        queueHead s ((lane s l).blocks.getD v {}).queue = some r → rakeGrant s l v = some b.val →
        crossbar s l b.val p.val (some r) xb = (u, true) →
        exec (.panDispatch l b p xb) s = .next (publish (modPan (takeFrom (modLane u l (fun x =>
          { x with granted := upd x.granted v (fun _ => b.val) })) l v r) l b.val p.val (fun q => { q with busy := some r }))))) ∧
    (∀ (b p : Fin 16) (xb : Xbar) (r : InstRef) (i : Inst) (g : Program), laneRuns (lane s l) = true →
      (panOf s l b.val p.val).busy = some r → instOf s r = some i → laneProg s r.new = some g →
      (pageWaits s l i.task i.pagesWritten = true →
        exec (.instanceCommit l b p true xb) s = .next (sendFirst s i.task i.pagesWritten)) ∧
      (∀ v, pageWaits s l i.task i.pagesWritten = false →
        (if crossesBar g i b.val then crossbar s l b.val p.val (some r) xb else (s, true)) = (v, true) →
        ∃ u, u = commitInst (modPan v l b.val p.val (fun q => { q with busy := none })) l r g i ∧
          exec (.instanceCommit l b p true xb) s = .next (if laneRuns (lane u l) then endCycle u l i.task else u))) ∧
    (∀ (b p : Fin 16) (xb : Xbar) (r : InstRef), laneRuns (lane s l) = true → (panOf s l b.val p.val).busy = some r →
      exec (.instanceCommit l b p false xb) s = .next (retirePan s l b.val p.val r 0x1003)) ∧
    (∀ (b p : Fin 16) (r : InstRef), laneRuns (lane s l) = true → (panOf s l b.val p.val).busy = some r →
      exec (.commitTimeout l b p) s = .next (if commitWaits s l r then s else retirePan s l b.val p.val r 0x1004)) ∧
    (∀ (k : Nat) (xb : Xbar) (r : InstRef) (u : State), (lane s l).wakes[k]? = some r →
      crossbar (modLane s l (fun x => { x with wakes := x.wakes.eraseIdx k })) l (((instOf s r).map (·.home)).getD 0) 0 (some r) xb
        = (u, true) → laneRuns (lane u l) = true → exec (.wakeMessage l k xb) s = .next (decrement u l r))

/-- An ECC error in a lane that is not OFF: corrected it is counted by memory kind and recorded unless it repeats within 1 s, uncorrectable it
is recorded with S2 and stops the lane's tasks (R83, R84). A task watchdog of an ACTIVE lane expires while its release is in flight: the lane's frame is given up,
and while two other ACTIVE lanes go on only an S2 record of the lane is written (R138 to R140). -/
def Obligations.LaneFaultsHaveTheirEffect : Prop :=
  (∀ (l : Lane) (mem : LaneMem) (b : Fin 16) (addr : Nat) (s : State), (lane s l).st ≠ .off →
     (exec (.eccError l mem b addr false) s = .next (stopLane (raiseLane s l 2 2 0x1002 b.val 0 0xFFFFFFFF) l)) ∧
     (∀ (same : LaneMem × Nat × Nat × Nat → Bool) (u : State), same = (fun e => e.1 = mem && e.2.1 = b.val && e.2.2.1 = addr) →
       u = modLane s l (fun x => { countEcc x mem with
         eccLast := (mem, b.val, addr, rawNow s) :: x.eccLast.filter (fun e => !same e) }) →
       exec (.eccError l mem b addr true) s
         = .next (if (lane s l).eccLast.any (fun e => same e && !elapsed s e.2.2.2 1000000000) then u
                  else raiseLane u l 1 1 0x1001 b.val 0 0xFFFFFFFF))) ∧
  (∀ (l : Lane) (t : Fin 16) (s u : State) (rel : Word), (lane s l).st = .active → (laneTask s l t.val).watch = some rel →
     (hubTask s t.val).inFlight = true → (hubTask s t.val).overrun = false → (s.tim.gens.getD t.val {}).count = rel →
     u = modTask (modLaneTask s l t.val (fun lt => { lt with expired := some rel, watch := none })) t.val
       (fun h => { h with expired := addNew h.expired l }) →
     2 ≤ activeCount u - ((activeLanes u).filter (fun k => (hubTask u t.val).expired.contains k)).length →
     exec (.taskWatchdogExpiry l t) s = .next (raise u { region := .lane l, sev := 2, level := 2, code := 0x3004
                                                         loc := BitVec.ofNat 32 t.val, arg0 := rel }))

/-! ### The field stage and sound -/

/-- The links between field stage and lanes: a strobe samples every channel while FIELD is on; a good sample frame in sequence is taken by
its lane, and releases that waited for it begin; a lane sends its drive frame; a good drive frame in sequence sets the link's command, a
change of LOCKOUT is reported, and the votes and dark tests follow; a damaged frame or one out of sequence is discarded and counted, and the
next good one resynchronises; 500 µs without one makes the command count as de-energise (R19, R229, R235, R240, R242). Lane commands that
differ for over 1 ms set DISAGREE, equal ones clear it, and the lane that has been alone for 10 ms is recorded once (R235). -/
def Obligations.FieldLinkCommandsHaveTheirEffect : Prop :=
  (∀ s : State,
     (∀ mv ma, fieldOn s = true → exec (.sampleStrobe mv ma) s = .next (strobe s mv ma)) ∧
     (∀ (l : Lane) f fs, (s.field.links.get l).samples = f :: fs →
       (seqAccept (s.field.links.get l).laneSeq f.seq = true → exec (.sampleFrameReceive l true) s
         = .next (startReleases (lockoutReport (modLane (setLink s l { s.field.links.get l with
             samples := fs, laneSeq := some (f.seq % 256) }) l (fun x => { x with
             samples := (f :: x.samples).take 1100, ackTrack := trackAck s x.ackTrack f })) l f) l)) ∧
       (∀ good, (good = false ∨ seqAccept (s.field.links.get l).laneSeq f.seq = false) → exec (.sampleFrameReceive l good) s
         = .next (startReleases (setLink s l { s.field.links.get l with
             samples := fs, laneSeq := none, laneDiscards := (s.field.links.get l).laneDiscards + 1 }) l))) ∧
     (∀ l : Lane, (lane s l).st ≠ .off → exec (.driveFrameSend l) s = .next (sendDrive s l)) ∧
     (∀ (l : Lane) f fs, fieldOn s = true → (s.field.links.get l).frames = f :: fs →
       (seqAccept (s.field.links.get l).fieldSeq f.seq = true → exec (.driveFrameReceive l true) s
         = .next (settleChTests (startTests (voteAll ([Grp.fa, Grp.fb].foldl (fun u g =>
             if lockoutShown s g = lockoutShown u g then u else (grpChans g).foldl diagChange u)
             (setLink s l { s.field.links.get l with frames := fs, latest := f, fieldSeq := some f.seq, timeout := false })))))) ∧
       (∀ good, (good = false ∨ seqAccept (s.field.links.get l).fieldSeq f.seq = false) → exec (.driveFrameReceive l good) s
         = .next (settleChTests (setLink s l { s.field.links.get l with
             frames := fs, fieldSeq := none, fieldDiscards := (s.field.links.get l).fieldDiscards + 1 })))) ∧
     (∀ l : Lane, exec (.driveLinkTimeout l) s = .next (settleChTests (voteAll { s with field := { s.field with
       links := s.field.links.mod l (fun k => { k with timeout := true }) } })))) ∧
  (∀ (ch : Fin 32) (tm : DisagreeTimes) (s u : State), (∀ l, linkForced s l = false) →
     (∀ x y z : Lane, x ≠ y → x ≠ z → y ≠ z → laneCmd s x (lowestOf s ch.val) ≠ laneCmd s y (lowestOf s ch.val) →
       laneCmd s z (lowestOf s ch.val) = laneCmd s y (lowestOf s ch.val) →
       u = (if 1000 < tm.us ∧ (chSt s ch.val).disagree = false then diagChange (modCh s ch.val (fun c => { c with disagree := true })) ch.val
            else s) →
       (tm.minorityUs < 10000 → exec (.disagree ch tm) s
         = .next (modCh u ch.val (fun c => { c with minority := c.minority.filter (fun l => l = x) }))) ∧
       (10000 ≤ tm.minorityUs → (chSt s ch.val).minority ≠ some x → exec (.disagree ch tm) s
         = .next (raiseHub (modCh u ch.val (fun c => { c with minority := some x })) 2 0x5007 ch.val (laneNum x)))) ∧
     ((∀ l, laneCmd s l (lowestOf s ch.val) = laneCmd s .a (lowestOf s ch.val)) → 1000 ≤ tm.us → (chSt s ch.val).disagree = true →
       exec (.disagree ch tm) s = .next (diagChange (modCh (modCh s ch.val (fun c => { c with minority := none })) ch.val
         (fun c => { c with disagree := false })) ch.val)))

/-- The protections: a supply leaving its window, its return, the overload of a group or of an output, overtemperature, and the clearing
of a trip latch (R225, R226, R236). -/
def Obligations.FieldProtectionsHaveTheirEffect : Prop :=
  ∀ s : State, fieldOn s = true →
    (∀ g : Grp, exec (.supplyFault g) s
      = .next (abandonTests ((grpChans g).foldl diagChange
          (modGrp (modGrp s g (fun x => { x with supplyFault := true })) g (fun x => { x with testing := false }))) (grpChans g))) ∧
    (∀ g : Grp, (grpSt s g).supplyFault = true →
      exec (.supplyGood g) s = .next ((grpChans g).foldl diagChange (modGrp s g (fun x => { x with supplyFault := false })))) ∧
    (∀ g : Grp, exec (.groupOverload g) s = .next ((grpChans g).foldl (fun s ch => tripOutput s ch false false) s)) ∧
    (∀ ch : Fin 32, isOut s ch.val = true → ∀ limit : Bool,
      exec (.overload ch limit) s = .next (raiseChannel (abandonTests (diagChange (modCh s ch.val (fun c =>
          { c with overload := true, trips := c.trips + 1 })) ch.val) [lowestOf s ch.val])
        (if safetyOut s ch.val then 2 else 1) 0x5001 ch.val (2 * b2n limit)) ∧
      exec (.overtemp ch) s = .next (raiseChannel (abandonTests (diagChange (modCh s ch.val (fun c =>
          { c with overtemp := true, trips := c.trips + 1 })) ch.val) [lowestOf s ch.val])
        (if safetyOut s ch.val then 2 else 1) 0x5001 ch.val 1)) ∧
    (∀ ch : Fin 32, ((chSt s ch.val).overload = true ∨ (chSt s ch.val).overtemp = true) →
      ((chSt s ch.val).on = false → ∀ cool, exec (.tripLatchClear ch false cool) s = .next (diagChange (modCh s ch.val (fun c =>
        { c with overload := false, overtemp := false, retries := 0 })) ch.val)) ∧
      (∀ cool, chFlag s ch.val 2 = true → (cool = true ∨ (chSt s ch.val).overtemp = false) → (chSt s ch.val).retries < 3 →
        exec (.tripLatchClear ch true cool) s = .next (diagChange (modCh s ch.val (fun c =>
          { c with overload := false, overtemp := false, retries := c.retries + 1, heldFor := 0 })) ch.val)))

/-- Channel diagnostics: STUCK of an input; OPEN of an output with OPEN_EN, shown while the condition for the switch's state holds; RB_ERR;
with their records (R232, R236). Dark tests: a lane's scheduler asks for one in three frames, a test that runs out fails and answers a
CH_TEST that waits, one overdue is recorded; the test of a group switch opens it, ends when the contact falls, and one that runs out sets
GSW_FAIL on the group's safety outputs (R237 to R239, R243). -/
def Obligations.FieldDiagnosticsHaveTheirEffect : Prop :=
  (∀ (ch : Fin 32) (s : State), fieldOn s = true →
     (isInputMode (chCfg s ch.val).mode = true → (chCfg s ch.val).stuckTime ≠ 0 → (chSt s ch.val).val = true → (chSt s ch.val).stuck = false →
       exec (.stuck ch) s = .next (diagChange (modCh s ch.val (fun c => { c with stuck := true })) ch.val)) ∧
     (isOut s ch.val = true → suspended s ch.val = false →
       (∀ seen : OpenSense, chFlag s ch.val 1 = true → (chSt s ch.val).openWire = false →
         openCondition s ch.val seen.mv seen.ma seen.ms = true → exec (.openWire ch seen) s
           = .next (raiseChannel (diagChange (modCh s ch.val (fun c => { c with openWire := true })) ch.val) 1 0x5002 ch.val)) ∧
       (∀ seen : OpenSense, chFlag s ch.val 1 = true → (chSt s ch.val).openWire = true →
         openCondition s ch.val seen.mv seen.ma seen.ms = false → exec (.openWire ch seen) s = .next (diagChange (modCh s ch.val (fun c => { c with openWire := false })) ch.val)) ∧
       (safetyOut s ch.val = true →
         exec (.rbErr ch true) s = .next (raiseChannel (diagChange (modCh s ch.val (fun c => { c with rbErr := true, testFail := true })) ch.val)
           2 0x5003 ch.val)) ∧
       (exec (.rbErr ch false) s = .next (diagChange (modCh s ch.val (fun c => { c with rbErr := false })) ch.val)))) ∧
  (∀ s : State,
     (∀ (l : Lane) (ch : Fin 32), isOut s ch.val = true → chFlag s ch.val 3 = true → (lane s l).st ≠ .off →
       exec (.testPeriod l ch) s = .next (modLane s l (fun x => { x with drive := upd x.drive ch.val (fun c => { c with treq := 3 }) }))) ∧
     (∀ (ch : Fin 32) (u : State), (chSt s ch.val).testing = true →
       u = diagChange (modCh s ch.val (fun c => { c with testing := false, failed := c.failed + 1, testFail := true })) ch.val →
       (s.field.chTests.find? (fun x => x.2 = ch.val) = none → exec (.testWidthExpiry ch) s = .next u) ∧
       (∀ mb c, s.field.chTests.find? (fun x => x.2 = ch.val) = some (mb, c) → exec (.testWidthExpiry ch) s
         = .next (finishMb { u with field := { u.field with chTests := u.field.chTests.filter (fun x => x.2 ≠ ch.val) } } mb 0 [2]))) ∧
     (∀ ch : Fin 32, fieldOn s = true → isOut s ch.val = true → chFlag s ch.val 3 = true → (chSt s ch.val).testOverdue = false →
       exec (.testOverdue ch) s
         = .next (raiseChannel (diagChange (modCh s ch.val (fun c => { c with testOverdue := true })) ch.val) 1 0x5005 ch.val)) ∧
     (∀ g : Grp, (gswReady s g = true → exec (.gswTest g .start) s = .next (modGrp s g (fun x => { x with testing := true }))) ∧
       exec (.gswTest g .fall) s = .next (modGrp s g (fun x => { x with testing := false })) ∧
       ((grpSt s g).testing = true → exec (.gswTest g .expiry) s
         = .next (raiseHub (((grpChans g).filter (safetyOut s)).foldl (fun s ch =>
             diagChange (modCh s ch (fun c => { c with gswFail := true })) ch) (modGrp s g (fun x => { x with testing := false })))
             2 0x5006 (if g = .fa then 0 else 1)))))

/-- A modulator stuck and free again, a measurement block, a mixer frame (R245, R252, R257). -/
def Obligations.SoundCommandsHaveTheirEffect : Prop :=
  ∀ s : State,
    (∀ ch : Fin 16, soundOn s = true → exec (.modStuck ch) s
      = .next { s with snd := { s.snd with filters := upd s.snd.filters ch.val (fun x => { x with stuck := true }) } }) ∧
    (∀ ch : Fin 16, exec (.modStuckClear ch) s
      = .next { s with snd := { s.snd with filters := upd s.snd.filters ch.val (fun x => { x with stuck := false }) } }) ∧
    (∀ (ch : Fin 16) (bs : List Bool), exec (.measurementBlock ch bs) s = .next (formBlock (feedChannel s ch.val bs) ch.val)) ∧
    (∀ (bs : List (Fin 16 × List Bool)) (tdmi : List Word), soundOn s = true →
      exec (.mixerFrame bs tdmi) s = .next (mixFrame (bs.foldl (fun s b => feedChannel s b.1.val b.2) s) tdmi))

/-! ### Power -/

/-- The steps of the power sequencer: the next step of a shed, a domain that has become usable, the end of a minimum on-time, a client's
vote that lapses, the hold of a wake (R402 to R407, R412). -/
def Obligations.PowerSequencerHasItsEffect : Prop :=
  ∀ s : State,
    (∀ k, s.pwr.shedStep = some k → exec .domainShedStep s = .next (powerDone s (stepEnd
      (stepWork s k (s.pwr.shedding &&& stepMask k)) k (s.pwr.shedding &&& stepMask k)))) ∧
    (∀ res : RestoreResult, s.pwr.restoring.getLsbD (restoreBit res) = true → s.pwr.aon = true →
      exec (.domainRestore res) s = .next (endRestore s res)) ∧
    (∀ d : Fin 5, s.pwr.on &&& [0x02, 0x1C, 0x20, 0x40, 0x80].getD d.val 0 = [0x02, 0x1C, 0x20, 0x40, 0x80].getD d.val 0 →
      elapsed s (s.pwr.onSince.getD d.val 0) (s.pwr.cfg.minOn.getD d.val 0 * 1000000) = true →
      exec (.minOnExpiry d) s
        = .next (review { s with pwr := { s.pwr with ripe := s.pwr.ripe ||| [0x02, 0x1C, 0x20, 0x40, 0x80].getD d.val 0 } })) ∧
    (exec .wakeHoldExpiry s = .next (setVote s 0 s.pwr.cfg.base)) ∧
    ((s.pair.up = false ∨ s.pair.paired = false) → elapsed s s.pair.downAt 1000000000 = true → exec .partnerVoteLoss s = .next (setVote s 3 0))

/-- The wake sources, each while WAKE_SRC enables it and AON has power: the wake port writes and reads, a wake input, the AON tick, a wake
frame, a match of the duty-cycled watch (R412 to R416). A wake: the cause is kept and counted, and the supervisor's vote is the base with
the wake mask (R412, R418). -/
def Obligations.WakeSourcesHaveTheirEffect : Prop :=
  (∀ s : State, s.pwr.aon = true →
     (wakeSrc s 0 = true →
       (∀ b bs, exec (.wakePortStop (.writeBytes (0x58 + Config.wka.setWidth 7) (b :: bs))) s
         = .next (wake (setVote (emit s (.wake true 1 [])) 1 b) 1 0)) ∧
       (exec (.wakePortStop (.writeBytes (0x58 + Config.wka.setWidth 7) [])) s = .next (wake (emit s (.wake true 0 [])) 1 0)) ∧
       (∀ n, exec (.wakePortStop (.readBytes (0x58 + Config.wka.setWidth 7) n)) s = .next (emit s (.wake true 0
         (([BitVec.ofNat 8 (powerState s * 32 + b2n (powerBusy s) * 16 + s.pwr.cause), s.pwr.on] ++ List.replicate (n - 2) 0xFF).take n))))) ∧
     (∀ a bs n, (a ≠ 0x58 + Config.wka.setWidth 7 ∨ wakeSrc s 0 = false) →
       exec (.wakePortStop (.writeBytes a bs)) s = .next (emit s (.wake false 0 [])) ∧
       exec (.wakePortStop (.readBytes a n)) s = .next (emit s (.wake false 0 []))) ∧
     (∀ ch : Fin 8, wakeSrc s 1 = true → s.pwr.wakeCh.getLsbD ch.val = true → s.pwr.stuck.getLsbD ch.val = false → powerState s ≠ 0 →
       exec (.wakeInput ch) s = .next (wake { s with pwr := { s.pwr with active := s.pwr.active ||| (1#8 <<< ch.val) } } 2 (1#8 <<< ch.val))) ∧
     (∀ ch : Fin 8, exec (.wakeStuckClear ch) s = .next { s with pwr := { s.pwr with
       stuck := s.pwr.stuck &&& ~~~(1#8 <<< ch.val), active := s.pwr.active &&& ~~~(1#8 <<< ch.val) } }) ∧
     (wakeSrc s 2 = true → s.pwr.cfg.tick ≠ 0 → powerState s ≠ 0 → exec .aonTick s = .next (wake s 3 0)) ∧
     (∀ p : List Byte, domainOn s 5 = true → wakeSrc s 3 = true → p.length = 8 → getWord p 0 = 0x57414B45 →
       getNat p 4 2 = s.bank.net.deviceId →
       exec (.wakeFrame p) s = .next (wake (setVote s 2 (BitVec.ofNat 8 (getByte p 6))) 4 0)) ∧
     (∀ p : List Byte, domainOn s 5 = true → wakeSrc s 3 = true →
       (p.length ≠ 8 ∨ getWord p 0 ≠ 0x57414B45 ∨ getNat p 4 2 ≠ s.bank.net.deviceId) →
       exec (.wakeFrame p) s = .next { s with pwr := { s.pwr with frameDiscards := s.pwr.frameDiscards + 1 } }) ∧
     (∀ mv bs pattern, s.pwr.on.getLsbD 1 = false → s.pwr.restoring.getLsbD 1 = false → s.pwr.cfg.period ≠ 0 →
       pattern = (if bit s.pwr.cfg.flags 0 then s.pwr.learned else s.pwr.cfg.pattern) →
       (wakeSrc s 4 = true → ((watchValues s mv &&& s.pwr.cfg.mask) ≠ (pattern &&& s.pwr.cfg.mask)
           ∨ (bit s.pwr.cfg.flags 1 = true ∧ watchLoud s bs = true)) → exec (.dutyWatchCycle mv bs) s = .next (wake s 5 0)) ∧
       ((watchValues s mv &&& s.pwr.cfg.mask) = (pattern &&& s.pwr.cfg.mask) → (bit s.pwr.cfg.flags 1 = false ∨ watchLoud s bs = false) →
         exec (.dutyWatchCycle mv bs) s = .next s))) ∧
  (∀ (s : State) (cause : Nat) (inputs : Byte), s.pwr.aon = true →
     wake s cause inputs = setVote (powerRecord { s with pwr := { s.pwr with
       cause := cause, input := inputs, count := satInc s.pwr.count, wakes := upd s.pwr.wakes cause (· + 1) } } 0 0xB002 0 cause)
       0 (s.pwr.cfg.base ||| s.pwr.cfg.wake))

/-- Power fail and return: with HUB on its first steps run and the flush starts, with HUB off the module is OFF at once; VHOLD exhausted
ends it; a return of VSYS from 2.7 V powers AON, asks for HUB and brings the votes kept; above the absolute maximum it is a fault (R408 to
R411, R466). OFF keeps nothing of a transition: AON and every domain have no power, and no safety output gives energy (R411). -/
def Obligations.PowerFailAndReturnHaveTheirEffect : Prop :=
  (∀ s : State,
     (∀ v u, s.pwr.aon = true → s.pwr.failing = false → u = { s with pwr := { s.pwr with pfNow := true, pfCount := satInc s.pwr.pfCount } } →
       (s.pwr.on.getLsbD 1 = true → exec (.powerFail v) s = .next (failPower u v)) ∧
       (s.pwr.on.getLsbD 1 = false → exec (.powerFail v) s = .next (goOff u))) ∧
     (s.pwr.failing = true → exec .vholdExhausted s = .next (goOff s)) ∧
     (∀ mv, s.pwr.aon = false → 2700 ≤ mv → mv ≤ 6000 →
       ∃ t, exec (.powerReturn mv) s = .next (latchPwr t) ∧ t.pwr.on = 1 ∧ t.pwr.restoring = 2 ∧ t.pwr.pfSeen = s.pwr.afterFail ∧ t.pwr.failing = false) ∧
     (∀ mv, 6000 < mv → exec (.powerReturn mv) s = .fault .beyondAbsoluteMaximum)) ∧
  (∀ s : State, (goOff s).pwr.aon = false ∧ (goOff s).pwr.on = 0 ∧ (goOff s).pwr.failing = false ∧ (goOff s).pwr.shedStep = none ∧
     (goOff s).pwr.restoring = 0 ∧ safetyOff (goOff s) = true)

/-! ### Voting, restart, bring-up and exchange -/

/-- A frame that arrives whole is accepted by its comparator, or the frame that came in its place is; one with a bad CRC is discarded and
counted by the hub; a slot of the hub that is corrupt or stale when it is read is judged so (R155, R163). A vote deadline completes the vote
with the frames present: the hub harvests, a unit performs its lane's step 3 where its lane takes part (R152). A comparator that stalls is
judged 10 µs later, and the hub's harvest keeps its step 7 only (R27, R163). A checkpoint page that arrives good is judged against the listed
CRCs, where it differs in the lane that catches up that lane fails, the first damaged one is asked of another lane, the second ends the
checkpoint (R169, R173); a retained write writes the inactive buffer, which becomes the active one, and the steps 8 that waited for it run
(R22, R150). -/
def Obligations.VotingAndCheckpointsHaveTheirEffect : Prop :=
  (∀ (p : Party) (l : Lane) (t : Fin 16) (s : State),
     (∀ f rest u, takeFrame s.vote.inFlight p l t.val = some (f, rest) → u = { s with vote := { s.vote with inFlight := rest } } →
       exec (.laneFrameArrival p l t .whole) s = .next (acceptFrame u p l f none) ∧
       (∀ g, exec (.laneFrameArrival p l t (.replaced g)) s = .next (acceptFrame u p l g none)) ∧
       exec (.laneFrameArrival p l t .slotCorrupt) s = .next (acceptFrame u p l f (if p = .hub then some true else none)) ∧
       exec (.laneFrameArrival p l t .slotStale) s = .next (acceptFrame u p l f (if p = .hub then some false else none)) ∧
       exec (.laneFrameArrival p l t .badCrc) s
         = .next (if p = .hub then modLane u l (fun x => { x with discarded := x.discarded + 1 }) else u)) ∧
     (∀ v n, voteAt s .hub t.val = some v → v.started = some n → v.vector = none → v.stalled = false → elapsed s n (skewOf s t.val) = true →
       exec (.voteDeadline .hub t) s = .next (hubHarvest (modVote s .hub t.val (fun v => { v with vector := some (vectorOf s v) })) t.val)) ∧
     (∀ v n u, voteAt s (.unit l) t.val = some v → v.started = some n → v.vector = none → v.stalled = false →
       u = modVote s (.unit l) t.val (fun v => { v with vector := some (vectorOf s v) }) →
       exec (.voteDeadline (.unit l) t) s
         = .next (if (voters u v).contains l then holdTask (judge (laneStep3 u l t.val) t.val) t.val else u)) ∧
     (∀ v u, voteAt s p t.val = some v → v.vector = none → v.stalled = false → overdue s p t.val = true →
       u = modVote s p t.val (fun v => { v with stalled := true }) →
       (p ≠ .hub → exec (.comparatorNoVerdict p t) s = .next (judge u t.val)) ∧
       (p = .hub → exec (.comparatorNoVerdict p t) s = .next (judge (abortHarvest (modTask { u with vote := { u.vote with
         harvest := u.vote.harvest + 1 } } t.val (fun h => { h with inFlight := false })) (u.vote.harvest + 1) t.val) t.val)))) ∧
  (∀ s : State,
     (∀ c cs d rest, s.vote.ckpts = c :: cs → c.todo = d :: rest →
       exec (.checkpointPage .whole) s = .next (judgePage s c d rest) ∧
       exec (.checkpointPage .catchUpDiffers) s = .next (judgePage (failCatchUp s c) { c with catchUp := none } d rest) ∧
       (c.retried = true → exec (.checkpointPage .damaged) s = .next (ckptRecord (abandonCkpt s c) 1 c.task)) ∧
       (c.retried = false → exec (.checkpointPage .damaged) s = .next (putCkpt s { c with
         retried := true, source := ((listedLanes s c).find? (fun l => l ≠ c.source)).getD c.source }))) ∧
     (∀ p, s.prog = some p → s.vote.retDue = true → (p.pages.filter (fun d => d.retained)) ≠ [] →
       ∃ t, exec .retainedWrite s = .next (pumpStep8 t) ∧ t.vote.retDue = false ∧ t.vote.retActive = 1 - s.vote.retActive ∧ t.xch.mram
         = writtenBuffer s p (1 - s.vote.retActive) ((p.pages.filter (fun d => d.retained)).map (·.key))))

/-- A restart and a rejoin, lane by lane: the self-test that passes begins the load, one that fails excludes the lane; the load brings the
lane to wait for its first release, or to catch up; the reset hold of an excluded lane ends after 100 µs in a rejoin, or beyond
REJOIN_LIMIT (R171 to R173). -/
def Obligations.RestartAndRejoinHaveTheirEffect : Prop :=
  ∀ (l : Lane) (bad : List (Fin 16 × Fin 16)) (s : State),
    (∀ u left (fail : Option Nat), s.vote.restarting = true → s.vote.selftests.contains l = true → left = s.vote.selftests.filter (· ≠ l) →
      u = modLane { s with vote := { s.vote with selftests := left } } l (fun x => { setRetired x bad with injection := some (fail.getD 0) }) →
      ∃ v, v = (match fail with
          | none => modLane u l (fun x => { x with stage := .load })
          | some p => toExcluded (raiseHub u 2 0x2004 (laneNum l) p) l true) ∧
        exec (.restartSelftestDone l fail bad) s
          = .next (if left = [] ∧ (lanesIn v .rejoining).length < 2 then enterHalted v else v)) ∧
    (∀ u ls w, w = s.bank.modu.window → s.vote.restarting = true → s.vote.awaitRelease = false → s.vote.selftests = [] → s.vote.noRestart = false → inService s = true →
      s.pwr.on &&& laneBits = laneBits → u = (allTasks s).foldl (fun s t => modTask s t (fun h => { h with
        wpos := 1, window := w, switched := if s.xch.switchingSince.isSome && (newTasks s).contains t then h.ckptNew else h.switched })) s →
      ls = (lanesIn u .rejoining).filter (fun l => (lane u l).restartPath && (lane u l).stage = .load) → ls ≠ [] →
      ∃ v, v = ls.foldl (fun s l => modLane (loadLane s l) l (fun x => { x with stage := .await, loaded := true })) u ∧
        exec .checkpointLoadDone s = .next { v with vote := { v.vote with awaitRelease := true } }) ∧
    ((lane s l).st = .excluded → (lane s l).holdRunning = true → elapsed s (lane s l).holdAt 100000 = true → (lane s l).hot = false → s.vote.restarting = false →
      s.xch.switchingSince = none → inService s = true →
      exec (.resetHoldExpiry l) s = .next (if mayReturn s l
        then modLane s l (fun x => { x with st := .rejoining, restartPath := false, stage := .selftest, held := false, holdRunning := false })
        else modLane s l (fun x => { x with beyond := true, holdRunning := false }))) ∧
    (rejoinsAt s l .selftest = true →
      exec (.rejoinSelftestDone l none bad) s = .next (modLane (modLane s l (fun x => { setRetired x bad with injection := some 0 })) l
        (fun x => { x with stage := .load })) ∧
      ∀ p, exec (.rejoinSelftestDone l (some p) bad) s
        = .next (failRejoin (modLane s l (fun x => { setRetired x bad with injection := some p })) l 0x2004 p)) ∧
    (rejoinsAt s l .load = true →
      exec (.rejoinLoadDone l true) s = .next ((allTasks s).foldl catchUps
        (modLane (loadLane s l) l (fun x => { x with stage := .catchUp, loaded := true, shadowT0 := 0 }))) ∧
      exec (.rejoinLoadDone l false) s = .next (failRejoin s l 0x2001 (vectorsWord s 0)))

/-- The injection test starts by itself 24 hours after the last one, and its result ends it: each party whose vectors or gate decisions are
not the expected ones takes its consequence and the command that asked is answered (R164, R165). A pulse of an enabled acknowledge input
that is not jammed: held 100 ms to 2 s it is reported by a lane that times it or is an acknowledge of the reset controller, a shorter one is
counted, on the channel an AX0 step within it spoils it; two reports within 10 ms are an acknowledge, a third belongs to it, a lone one is
dropped; an input held beyond 2 s is jammed until it has been low for 1 s (R185). -/
def Obligations.InjectionAndAcknowledgeHaveTheirEffect : Prop :=
  (∀ s : State,
     (inService s = true → s.vote.injecting = none → elapsed s s.vote.lastInject 86400000000000 = true →
       exec .injectionTestTimer s = .next { s with vote := { s.vote with
         injecting := some .timer, testFrames := [], injectRun := s.vote.injectRun + 1, lastInject := rawNow s } }) ∧
     (∀ who seen u, u = { s with vote := { s.vote with testFrames := [] } } →
       (s.bring.stage ≠ .l3 → s.vote.injecting = some who →
         exec (.injectionTestResult seen) s = .next (serviceResult u who (testFails s seen))) ∧
       (s.bring.stage = .l3 → exec (.injectionTestResult seen) s = .next (bringUpResult u (testFails s seen))))) ∧
  (∀ (src : AckSource) (s : State),
     (∀ rcv hi stp n st u, ackEnabled s src = true → ackIsJammed s src = false → ackTimes s rcv = true →
       endedPulse s rcv src hi stp = some (n, st) → u = takePulse s rcv src →
       (100000000 ≤ n → n ≤ 2000000000 → (st = false ∨ src = .pin) → exec (.ackEdge rcv src hi stp) s = .next (match rcv with
         | .lane l => modLane u l (fun x => { x with ackReported := addNew x.ackReported src })
         | .resetController => acceptAck u)) ∧
       (n < 100000000 → exec (.ackEdge rcv src hi stp) s
         = .next (if countsPulse u rcv then { u with ack := { u.ack with short := u.ack.short + 1 } } else u)) ∧
       (100000000 ≤ n → n ≤ 2000000000 → st = true → src = .channel →
         exec (.ackEdge rcv src hi stp) s = .next (if countsPulse u rcv then raiseHub u 1 0xF003 else u)) ∧
       (2000000000 < n → exec (.ackEdge rcv src hi stp) s = .next u)) ∧
     (∀ rcv, ackEnabled s src = true → ackIsJammed s src = false → ackTimes s rcv = true → heldHigh s rcv src = true →
       exec (.ackJammed rcv src) s = .next (raiseHub { s with ack := match src with
         | .pin => { s.ack with pinJammed := true }
         | .channel => { s.ack with chJammed := true } } 1 0xF002)) ∧
     (∀ (l : Lane) u had, (lane s l).ackReported.contains src = true → (lane s l).st = .active →
       u = purgeReports (modLane s l (fun x => { x with ackReported := x.ackReported.filter (· ≠ src) })) src →
       had = u.ack.reports.filter (fun r => r.1 = src && r.2.1 != l) →
       (had = [] → exec (.ackReport l src) s
         = .next { u with ack := { u.ack with reports := u.ack.reports ++ [(src, l, rawNow u, false)] } }) ∧
       (had ≠ [] → ∃ v, v = { u with ack := { u.ack with reports := (u.ack.reports ++ [(src, l, rawNow u, false)]).map (fun r =>
           if r.1 = src then (r.1, r.2.1, r.2.2.1, true) else r) } } ∧
         exec (.ackReport l src) s = .next (if had.all (fun r => !r.2.2.2) then acceptAck v else v))) ∧
     exec (.loneAckReport src) s = .next (purgeReports s src) ∧
     (heldLow s src = true → exec (.ackJamClear src) s = .next { s with ack := match src with
       | .pin => { s.ack with pinJammed := false }
       | .channel => { s.ack with chJammed := false } }))

/-- Temperature and the supervisor: a lane too hot stops and is held until it has cooled, a hub too hot halts the module out of BRINGUP, a
supervisor whose watchdog expires halts the module and fails the commands in flight. -/
def Obligations.ThermalAndSupervisorCommandsHaveTheirEffect : Prop :=
  ∀ s : State,
    (∀ l : Lane, (lane s l).st = .active → exec (.laneThermalTrip l) s = .next (modLane
      (stopLane (modLane s l (fun x => { x with hot := true, held := true })) l) l (fun x => { x.reset with stopped := true }))) ∧
    (∀ l : Lane, exec (.laneJunctionCooled l) s = .next (modLane s l (fun x => { x with hot := false, held := x.held && x.st != .active }))) ∧
    (s.modu.mode ≠ .bringup → exec .hubThermalTrip s = .next (enterHalted s)) ∧
    (s.modu.mode ≠ .bringup → exec .supervisorWatchdog s = .next (failInFlight (raiseHub
      (enterHalted { s with modu := { s.modu with wdExpired := true } }) 4 0xD004 0 0 0 3 true))) ∧
    (exec .supervisorRestarted s = .next { s with modu := { s.modu with wdExpired := false } }) ∧
    (∀ h, exec (.jtagTrstHigh h) s = .next { s with modu := { s.modu with jtagHigh := h } })

/-- The stages of bring-up, each from the stage before it: firmware verified, supervisor started, objects verified, lanes released,
program loaded, retained data restored, admission; a stage that passes its time limit halts the module. The release of the lanes starts
each of them on the restart path with its latch set, and what is admitted is ACTIVE: with fewer than two lanes the module halts (R427,
R429, R431). -/
def Obligations.BringUpHasItsEffect : Prop :=
  (∀ s : State,
     (∀ ok0 ok1, s.modu.mode = .bringup → s.bring.stage = .b1 → domainOn s 1 = true → s.bring.bootFail = false →
       exec (.firmwareVerified ok0 ok1) s = .next (firmwareVerified s ok0 ok1)) ∧
     (∀ k, s.modu.mode = .bringup → s.bring.stage = .b1 → domainOn s 1 = true → s.bring.bootFail = false → s.xch.fwRetired = some k →
       (exec (.firmwareVerified true true) s = .next (atStage { s with xch := { s.xch with fwSlot := 1 - k } } .b2)) ∧
       (exec (.firmwareVerified false false) s = .next { s with bring := { s.bring with bootFail := true, cause := 1 } })) ∧
     (∀ strap, s.modu.mode = .bringup → s.bring.stage = .b2 → domainOn s 1 = true →
       exec (.supervisorStart strap) s = .next (supervisorStart s strap)) ∧
     (s.modu.mode = .limited → s.bring.verified = false → exec .objectVerification s = .next (verifyObjects s)) ∧
     (awaitsRelease s = true → lanesReady s = true → (s.bank.modu.autoStart = true ∨ s.bring.started = true) →
       exec .laneRelease s = .next (releaseLanes s)) ∧
     (∀ p fails, s.prog = some p → s.bring.stage = .l2 → exec (.programLoadDone fails) s = .next (programLoaded s p fails)) ∧
     (∀ p, s.prog = some p → s.bring.stage = .l4 → exec .retainedRestore s = .next (atStage
       (modLanes (p.tasks.foldl setGenerator (restoreRetained s p))
         (fun _ x => if x.st = .rejoining then { x with stage := .await } else x)) .l5)) ∧
     (∀ p, s.prog = some p → s.bring.stage = .l5 → exec .admission s = .next (admitModule s p)) ∧
     (∀ n, s.modu.mode = .limited → s.bring.waiting = false → stageLimit s.bring.stage = some n → elapsed s s.bring.stageAt n = true →
       exec .stageTimeLimit s = .next (enterHalted (raiseHub { s with bring := { s.bring with cause := 8 } } 4 0xE006
         (stageCode s.bring.stage) 0 0 3)))) ∧
  ((∀ (l : Lane) (s : State), (lane (releaseLanes s) l).st = .rejoining ∧ (lane (releaseLanes s) l).restartPath = true ∧
     (lane (releaseLanes s) l).held = false ∧ (lane (releaseLanes s) l).latch = true ∧ (releaseLanes s).bring.stage = .l2) ∧
   (∀ (p : Program) (s : State), (lanesIn s .rejoining).length < 2 →
     admitModule s p = enterHalted { s with bring := { s.bring with cause := 9 } }))

/-- A lane's digest report while a swap waits or an activation is staged: a match is kept, the first difference in VOTED3 sends the bytes
again, outside VOTED3 it ends the exchange (R214, R218). A task of the new program without a release for 1 s of AX0 after the swap point switches
at rest, in every lane that runs it (R219). -/
def Obligations.DigestsAndSwitchesHaveTheirEffect : Prop :=
  (∀ (l : Lane) (s : State), (lane s l).st = .active →
     (s.xch.swap.isSome = true →
       exec (.bankDigestReport l true) s = .next (checkStaging (modLane s l (fun x => { x with digest := some true }))) ∧
       (s.modu.mode = .voted3 → (lane s l).resent = false →
         exec (.bankDigestReport l false) s = .next (modLane s l (fun x => { x with resent := true }))) ∧
       (s.modu.mode = .voted3 → (lane s l).resent = true →
         exec (.bankDigestReport l false) s = .next (checkStaging (excludeLane s l 0x2001 0))) ∧
       (s.modu.mode ≠ .voted3 → exec (.bankDigestReport l false) s = .next (refuseDigest s))) ∧
     (staging s = true → exec (.stagingComplete [(l, true)]) s = .next (checkStaging (modLane s l (fun x => { x with digest := some true }))))) ∧
  (∀ (t : Fin 16) (s : State) (since : DWord), s.xch.switchingSince = some since → 1000000000 ≤ (ax0 s - since).toInt →
     (newTasks s).contains t.val = true → (hubTask s t.val).switched = false → (hubTask s t.val).inFlight = false →
     (s.tim.gens.getD t.val {}).due = [] →
     exec (.switchWithoutRelease t) s = .next (finishExchange (switchTask
       ((allLanes.filter (fun l => (lane s l).st = .active || (lane s l).st = .debug)).foldl (fun s l => switchLane s l t.val) s) t.val)))

/-! ### The standby pair -/

/-- The link itself: it comes up unpaired and out of sequence, it goes down with its record where the modules were paired, and a frame
with a bad CRC is counted (R380, R384, R387). A Jaran frame in sequence changes nothing but the sequence expected; one out of sequence is
a gap (R380), after which, as after a bad CRC, the standby asks for a full copy (R387). -/
def Obligations.JaranLinkChangesHaveTheirEffect : Prop :=
  (∀ s : State,
     (s.pair.up = false → exec .linkUp s = .next { s with pair := { s.pair with
       up := true, seqOut := 0, seqIn := none, paired := false, st := if s.pair.st = .failed then .failed else .syncing
       syncedAtLoss := false } }) ∧
     (s.pair.up = true → (s.pair.paired = false ∨ pairEnabled s = false) →
       exec .linkDown s = .next { s with pair := { s.pair with up := false, seqIn := none, downAt := rawNow s } }) ∧
     (s.pair.up = true → s.pair.paired = true → pairEnabled s = true →
       exec .linkDown s = .next (setIrq (raiseHub (abandonSwitch { s with pair := { s.pair with
         up := false, seqIn := none, downAt := rawNow s, syncedAtLoss := s.pair.st = .synced
         st := if s.pair.st = .failed then .failed else .linkLost } }) 2 0xC007) irqPair)) ∧
     (∀ u, u = { s with pair := { s.pair with discarded := s.pair.discarded + 1 } } →
       exec .jaranBadCrc s = .next (if standby s = true ∧ linked s = true then requestCopy u (progTasks u) else u)) ∧
     (s.modu.mode ≠ .bringup → exec .helloSend s = .next (sendHello s))) ∧
  (∀ (h : JaranHead) (s : State) (n : Word), s.pair.seqIn = some n →
     (h.seq = n + 1 → acceptJaran s h = { s with pair := { s.pair with seqIn := some h.seq } }) ∧
     (h.seq ≠ n + 1 → standby s = false →
       acceptJaran s h = { s with pair := { s.pair with seqIn := some h.seq, gaps := s.pair.gaps + 1 } }) ∧
     (∀ u, h.seq ≠ n + 1 → standby s = true → linked s = true →
       u = { s with pair := { s.pair with seqIn := some h.seq, gaps := s.pair.gaps + 1 } } →
       acceptJaran s h = requestCopy u (progTasks u)))

/-- The frames between the members, for a module that hears its partner: HELLO and HEARTBEAT, read from their payload bytes; IMAGE, OUTPUT and PAGE in the standby;
RESYNC in the controlling member; SWITCH and SWITCH_ACK (R381 to R392). -/
def Obligations.JaranFramesHaveTheirEffect : Prop :=
  ∀ (h : JaranHead) (s : State), hearsPartner s = true →
    (∀ b : List Byte, exec (.hello h b) s = .next (takeHello s h (readHello b))) ∧
    (∀ b : List Byte, exec (.heartbeat h b) s = .next (takeHeartbeat s h (readBeat b))) ∧
    (standby (acceptJaran s h) = true → linked (acceptJaran s h) = true →
      (∀ m : ImageMsg, exec (.imageFrame h m) s = .next (copyRelease (acceptJaran s h) h.flags.toNat m)) ∧
      (∀ m : OutputMsg, exec (.outputFrame h m) s = .next (takeOutput (acceptJaran s h) m)) ∧
      (∀ b : List Byte, exec (.pageFrame h b) s = .next (takePairPage (acceptJaran s h) (readPage b)))) ∧
    (∀ mask, standby (acceptJaran s h) = false → linked (acceptJaran s h) = true →
      exec (.jaranResync h mask) s = .next (sendCopy (acceptJaran s h)
        ((List.range 16).filter (fun t => mask.getLsbD t && (allTasks (acceptJaran s h)).contains t)))) ∧
    (∀ rel reason, exec (.switchFrame h rel reason) s = .next (takeSwitch (acceptJaran s h) rel reason)) ∧
    (∀ rel w, (acceptJaran s h).pair.switch = some w → w.rel = BitVec.ofNat 32 rel →
      exec (.switchAck h rel) s = .next { acceptJaran s h with pair := { (acceptJaran s h).pair with switch := some { w with acked := true } } })

/-- The times of the pair: pages are copied at step 6 of a harvest within its budget, and the steps 8 that waited for it run, an OUTPUT beyond its budget is a mismatch, a module alone takes the
controlling role, the standby takes over after three missed HEARTBEATs, and a SWITCH without its answer is abandoned (R383, R386, R388,
R390, R392). -/
def Obligations.PairTimesHaveTheirEffect : Prop :=
  ∀ s : State,
    (∀ h t rest u, s.modu.step6 = (h, t) :: rest → u = { s with modu := { s.modu with step6 := rest } } →
      ((standby s = true ∨ linked s = false) → exec .jaranCopy s = .next (pumpStep8 u)) ∧
      (∀ n, standby s = false → linked s = true → n = (match taskDef s t with
          | some d => pairBudget d
          | none => 0) →
        exec .jaranCopy s = .next (pumpStep8 (carryState ((s.pair.queue.take n).foldl (fun s q => jaranSend s 5 0 (pageBytes q.task q.space q.page
          (((hubTask s q.task).generation).getD 0) (newestPage s q))) { u with pair := { u.pair with queue := u.pair.queue.drop n } }))))) ∧
    (∀ t : Fin 16, standby s = true → linked s = true → s.pair.ours.any (fun x => x.1 = t.val) = true → budgetOver s t.val = true →
      exec (.outputBudgetExpiry t) s = .next (seeMismatch { s with pair := { s.pair with ours := s.pair.ours.filter (fun z => z.1 ≠ t.val) } })) ∧
    (pairEnabled s = true → s.pair.roleTaken = false → s.pair.strapConflict = false → s.modu.mode ≠ .bringup →
      elapsed s s.pair.limitedAt 50000000 = true → (s.bank.pair.flovisCheck = true →
        elapsed s s.pair.limitedAt (listenTime s) = true ∧ ∀ t, s.net.pairData = some t → elapsed s t (listenTime s) = true) →
      exec .roleTimeout s = .next (pump (voteAll (setIrq { s with pair := { s.pair with roleTaken := true, controlling := true } } irqPair)))) ∧
    (eligible s = true → 3 ≤ s.pair.missed →
      ((s.bank.pair.flovisCheck = false ∨ pairDataSince s s.pair.missedFrom = false) → exec .takeover s = .next (takeControl s)) ∧
      (s.bank.pair.flovisCheck = true → pairDataSince s s.pair.missedFrom = true → exec .takeover s
        = .next (if s.pair.up then s else raiseHub { s with pair := { s.pair with missed := 0 } } 2 0xC007))) ∧
    (∀ w, s.pair.switch = some w → w.acked = false →
      elapsed s w.at_ (((taskDef s 0).map (fun d => d.period.toNat)).getD 0) = true →
      exec .switchAckTimeout s = .next (abandonSwitch s) ∧
        (s.pair.controlling ≠ w.incoming → (abandonSwitch s).pair.switch = none))

/-! ### The networks -/

/-- A star's ingress ports: an integrated star forwards what an uplink brings, where the DELAY frames of the link end, and judges what a port
brings; a port in quarantine is blocked and counted; a star that is not integrated has rules of its own; a frame that runs over the end of its
slot or window, or over 1,518 bytes, is cut and counts as a violation; a quarantine ends at its cluster cycle (R267, R279, R283 to R288). The
frame store of a star: a queued best-effort frame too old is dropped, one whose copies have left frees its descriptor, a frame that waited
leaves in an OPEN window that holds it, and one the buffer loses to a parity error is dropped (R16, R285, R286). Each command first takes the
cells of the bytes that have arrived (R286). -/
def Obligations.StarCommandsHaveTheirEffect : Prop :=
  (∀ (port : Fin 9) (bytes : List Byte) (pb : Bool) (s u : State), starPlane s = some pb → u = settle s →
     (domainOn u 5 = true → 18 ≤ bytes.length →
       (port.val ≠ 8 → (portCfg u port.val).planeB = pb → (portCfg u port.val).role = 3 → integrated u = true →
         ((fType bytes = u.bank.net.ethertype ∧ fKind bytes = 6 ∧ getByte (fPayload bytes) 0 ≠ 3) →
           exec (.flovisFrameIngress port bytes) s = .next u) ∧
         (¬(fType bytes = u.bank.net.ethertype ∧ fKind bytes = 6 ∧ getByte (fPayload bytes) 0 ≠ 3) →
           exec (.flovisFrameIngress port bytes) s = .next (forward u pb port.val (portsOf u pb 2 ++ [8]) bytes false none))) ∧
       (port.val ≠ 8 → (portCfg u port.val).planeB = pb → (portCfg u port.val).role = 3 → integrated u = false →
         exec (.flovisFrameIngress port bytes) s = .next (ingressAlone u pb port.val bytes)) ∧
       ((port.val = 8 ∨ ((portCfg u port.val).planeB = pb ∧ (portCfg u port.val).role = 2)) →
         ((sluice u port.val).quar = none → integrated u = true →
           exec (.flovisFrameIngress port bytes) s = .next (sluiceJudge u pb port.val bytes)) ∧
         ((sluice u port.val).quar = none → integrated u = false →
           exec (.flovisFrameIngress port bytes) s = .next (ingressAlone u pb port.val bytes)) ∧
         ((sluice u port.val).quar ≠ none → exec (.flovisFrameIngress port bytes) s
           = .next (modSluice u port.val (fun x => { x with quarBlocked := x.quarBlocked + 1 }))))) ∧
     (∀ (slotEnd : Bool) (due : Desc → Option Nat) (d : Desc) (v w : State),
       due = (fun d => (if slotEnd then d.cutAtEnd u else d.cutAtLimit u).filter (fun t => decide (t ≤ rawNow u))) →
       u.net.descs.find? (fun d => d.port = port.val && !d.cut && (due d).isSome) = some d → v = endCopies u d ((due d).getD 0) →
       w = (if d.queued then freeDesc v d.id else modDesc v d.id (fun d => { d with cut := true })) →
       exec (.frameCut port slotEnd) s
         = .next (violate (restoreRun w d) ((starPlane w).getD false) port.val 3 (fNode d.bytes) (fSlot d.bytes))) ∧
     (∀ k, (sluice s port.val).quar = some k → k ≤ s.net.sched.cluster (s.net.sched.cycleOf (now0 s)) →
       exec (.quarantineEnd port) s = .next (clearRun (modSluice s port.val (fun x => { x with quar := none })) port.val))) ∧
  (∀ (id : Nat) (d : Desc) (s u : State), u = settle s → u.net.descs.find? (fun d => d.id = id) = some d →
     (d.queued = true → elapsed u d.since (u.bank.net.openAge * 1000000) = true → exec (.openAgeExpiry id) s = .next (freeDesc u id)) ∧
     exec (.egressCopyLeft { desc := id, parity := true }) s = .next (dropFrame u d (rawNow u) 2) ∧
     (d.cut = true → exec (.egressCopyLeft { desc := id, parity := false }) s = .next (freeDesc u d.id)) ∧
     (d.cut = false → d.cutAtEnd u = none → d.cutAtLimit u = none →
       (d.queued = false →
         d.egress.all (fun m => decide (d.since + latency u d.port m d.bytes.length + (8 + d.bytes.length) * portByteNs u m ≤ rawNow u)) = true →
         exec (.egressCopyLeft { desc := id, parity := false }) s = .next (freeDesc
           (d.egress.foldl (fun v m => copyOut v d m (latency v d.port m d.bytes.length)) u) d.id)) ∧
       (∀ (wire wait : Nat) (left : Int), d.queued = true → wire = d.wire u → openFrom u ((starPlane u).getD false) (-(wire : Int)) = some left →
         (wire : Int) ≤ left → d.received u + wire ≤ rawNow u → wait = rawNow u - wire - d.since →
         exec (.egressCopyLeft { desc := id, parity := false }) s = .next (freeDesc
           (d.egress.foldl (fun v m => copyOut v { d with sof := now0 u - (wire : Int) - (wait : Int) } m wait) u) d.id))))

/-- The frames a node receives: DATA, whose containers are taken, from the second copy of a slot occurrence only safe telegrams; REFERENCE of
the schedule in force or announced, of the own schedule, which it brings into force, or of another, which is rejected; COLDSTART, which
restarts the listen timer and ends a contention; a bad one is discarded and counted (R271, R280, R282, R292). -/
def Obligations.NodeFramesHaveTheirEffect : Prop :=
  ∀ (p : Plane) (bytes : List Byte) (s : State), domainOn s 5 = true →
    (s.bank.valid = true → nodePort s (planeB p) ≠ none → dataGood s (planeB p) bytes = false →
      exec (.flovisFrameReceive p bytes) s = .next { s with net := { s.net with discarded := s.net.discarded + 1 } }) ∧
    (∀ b off second u, s.bank.valid = true → nodePort s (planeB p) ≠ none → dataGood s (planeB p) bytes = true →
      cycleAt s 0 = some (b, off) → second = s.net.taken.any (fun t => t = (b, fSlot bytes, fNode bytes)) →
      u = { s with net := { s.net with
        taken := if second then s.net.taken else (b, fSlot bytes, fNode bytes) :: s.net.taken.filter (fun t => t.1 = b)
        pairData := if fNode bytes = s.bank.net.deviceId then some (rawNow s) else s.net.pairData } } →
      exec (.flovisFrameReceive p bytes) s
        = .next (takeContainers u (planeB p) second (fNode bytes) (containers (fPayload bytes).length (fPayload bytes)))) ∧
    (s.bank.valid = true → fcsGood bytes = true → headerGood s bytes = true → fKind bytes = 1 → 34 + fLength bytes ≤ bytes.length →
      fNode bytes ≠ s.bank.net.deviceId →
      (schedKnown s (fSched bytes) = true →
        exec (.referenceReceive p bytes) s = .next (axisIrq s (followReference s (planeB p) bytes))) ∧
      (∀ u, schedKnown s (fSched bytes) = false →
        u = (if s.bank.net.sched.id ≠ 0 ∧ fSched bytes = s.bank.net.sched.id then switchSchedule s s.bank.net.sched (planeB p) else s) →
        (schedKnown u (fSched bytes) = true →
          exec (.referenceReceive p bytes) s = .next (axisIrq s (followReference u (planeB p) bytes))) ∧
        (schedKnown u (fSched bytes) = false →
          exec (.referenceReceive p bytes) s = .next (axisIrq s (foreignReference u (planeB p)))))) ∧
    (s.bank.valid = true → (fcsGood bytes = false ∨ headerGood s bytes = false ∨ fKind bytes ≠ 1 ∨ bytes.length < 34 + fLength bytes
        ∨ fNode bytes = s.bank.net.deviceId) →
      exec (.referenceReceive p bytes) s = .next (axisIrq s { s with net := { s.net with discarded := s.net.discarded + 1 } })) ∧
    (nodePort s (planeB p) ≠ none →
      (frameGood s bytes = true → fKind bytes = 2 → fNode bytes ≠ s.bank.net.deviceId →
        (s.net.node = .listen → exec (.coldstartReceive p bytes) s = .next (restartListen s)) ∧
        (s.net.node = .contend → exec (.coldstartReceive p bytes) s = .next (enterListen s)) ∧
        (s.net.node ≠ .listen → s.net.node ≠ .contend → exec (.coldstartReceive p bytes) s = .next s)) ∧
      ((frameGood s bytes = false ∨ fKind bytes ≠ 2) →
        exec (.coldstartReceive p bytes) s = .next { s with net := { s.net with discarded := s.net.discarded + 1 } }))

/-- The times of a node: a listen timer over sends COLDSTART on both planes and contends, a contention over makes it the acting master, which
sends REFERENCE at once, four basic cycles without a REFERENCE on either plane, the own included, return it to LISTEN, one plane alone is
recorded (R36, R282, R294). What a node sends in a slot: in one of its own or leased to it a DATA frame, on one plane or on both with one
content; as master of rank 0 its REFERENCE in slot 0; its CLAIM; in an OPEN window its best-effort frames. A backup sends REFERENCE by its
rank deadline (R275, R276, R278, R289, R302). -/
def Obligations.NodeTimesAndSlotsHaveTheirEffect : Prop :=
  (∀ s : State,
     (∀ (b t : Int) (u : State), s.net.node = .listen → s.bank.net.rank ≤ 3 → sends s = true → s.net.sched.id ≠ 0 →
       elapsed s s.net.listenFrom (listenTime s) = true →
       (∀ h, s.net.heldAt = some h → elapsed s h (4 * s.net.sched.tb) = true) → b = s.net.sched.cycleOf (now0 s) + 1 →
       t = s.net.sched.startOf b →
       u = { setNode s .contend with net := { (setNode s .contend).net with coldAt := t, schedMismatch := false } } →
       exec .listenTimerExpiry s = .next ([false, true].foldl (fun v pb => sendOn v pb t (flovisFrame v pb 2 0
         (s.net.sched.cyc b) (s.net.sched.ccount b) (beDWord (BitVec.ofInt 64 t) ++ zeros 8))) u)) ∧
     (∀ b u, s.net.node = .contend → s.net.coldAt + (s.net.sched.tb : Int) ≤ now0 s → b = s.net.sched.cycleOf (now0 s) →
       u = { setNode s .sync with net := { (setNode s .sync).net with master := true, sendFrom := rawNow (setNode s .sync) } } →
       exec .contentionEnd s
         = .next (if planeSends u 0 then [false, true].foldl (fun v pb => sendReference v pb b (now0 v)) u else u)) ∧
     (∀ u, refLost s false = true → refLost s true = true → u = (if (axis s 0).src = 2 then sourceLost s else s) →
       ((sendsReference u false = true ∨ sendsReference u true = true ∨ u.net.node = .listen ∨ u.net.node = .contend) →
         exec (.referenceLoss none) s = .next u) ∧
       (sendsReference u false = false → sendsReference u true = false → u.net.node ≠ .listen → u.net.node ≠ .contend →
         exec (.referenceLoss none) s = .next (enterListen { u with net := { u.net with refConflict := false } }))) ∧
     (∀ p, refLost s (planeB p) = true → sendsReference s (planeB p) = false → (planeSt s (planeB p)).lossSeen = false →
       nodePort s (planeB p) ≠ none →
       exec (.referenceLoss (some p)) s = .next (nodeRecord (modPlane s (planeB p) (fun x => { x with lossSeen := true }))
         2 0x7006 (planeB p) 0 0))) ∧
  (∀ s : State,
     (∀ pb slot b e t a bb u, sendEntry s pb slot = some (b, e, t) → sendEntry s (!pb) slot = none →
       ((e.ty = 2 ∧ e.owner = s.bank.net.deviceId) ∨ (e.ty = 3 ∧ leased s pb slot = true)) →
       slotContent s slot (2 ^ b2n pb) (frameLimit s pb e - 34) = (a, bb, u) →
       exec (.slotTransmit slot) s = .next (sendOn u pb t
         (flovisFrame u pb 3 slot (u.net.sched.cyc b) (u.net.sched.ccount b) (if pb then bb else a)))) ∧
     (∀ slot b e t b' e' t' a bb u, sendEntry s false slot = some (b, e, t) → sendEntry s true slot = some (b', e', t') →
       e.ty = 2 → e.owner = s.bank.net.deviceId → e'.ty = 2 → e'.owner = s.bank.net.deviceId →
       slotContent s slot 3 (min (frameLimit s false e) (frameLimit s true e') - 34) = (a, bb, u) →
       ∃ v, v = sendOn u false t (flovisFrame u false 3 slot (u.net.sched.cyc b) (u.net.sched.ccount b) a) ∧
         exec (.slotTransmit slot) s
           = .next (sendOn v true t' (flovisFrame v true 3 slot (v.net.sched.cyc b') (v.net.sched.ccount b') bb))) ∧
     (∀ pb slot b e t, sendEntry s pb slot = some (b, e, t) → sendEntry s (!pb) slot = none →
       (∀ u, e.ty = 1 → slot = 0 → s.bank.net.rank = 0 → (planeSt s pb).sentRef ≠ some b →
         u = modPlane { s with net := { s.net with master := true } } pb (fun p => { p with sentRef := some b }) →
         exec (.slotTransmit slot) s = .next (sendOn u pb t
           (flovisFrame u pb 1 0 (s.net.sched.cyc b) (s.net.sched.ccount b) (referencePayload u t)))) ∧
       (∀ want, e.ty = 4 → claimDue s pb (s.net.sched.cluster b) = some want →
         exec (.slotTransmit slot) s = .next (sendOn (claimNoted s pb (s.net.sched.cluster b) want) pb t
           (flovisFrame s pb 4 slot (s.net.sched.cyc b) (s.net.sched.ccount b) [BitVec.ofNat 8 want, 0, 0, 0]))) ∧
       (e.ty = 5 → exec (.slotTransmit slot) s = .next (drainPlane s pb))) ∧
     (∀ (p : Plane) b off u, 1 ≤ s.bank.net.rank → s.bank.net.rank ≤ 3 → cycleAt s 0 = some (b, off) → planeSends s 0 = true →
       (∀ r, (planeSt s (planeB p)).rankSeen = some (b, r) → s.bank.net.rank ≤ r) → (planeSt s (planeB p)).sentRef ≠ some b →
       (s.bank.net.rank : Int) * 2000 + dRef s (planeB p) ≤ off →
       u = modPlane { s with net := { s.net with master := true } } (planeB p) (fun x => { x with sentRef := some b }) →
       exec (.rankDeadline p) s = .next (sendOn u (planeB p) (now0 s) (flovisFrame u (planeB p) 1 0
         (s.net.sched.cyc b) (s.net.sched.ccount b) (referencePayload u (now0 s))))))

/-- The measurement of a link: a request asks, once in a cluster cycle, in an OPEN window that holds it; a response gives the mean delay; a
request of the neighbour is answered behind its reception; a frame that fails its checks is rejected (R271, R279). A flow packet of its flow's
shape puts its frames into the ring by presentation time (R261). -/
def Obligations.LinkDelayAndFlowsHaveTheirEffect : Prop :=
  (∀ (port : Fin 9) (bytes : List Byte) (s : State),
     (∀ (p : LinkPort) (b left : Int) (u : State), measuresDelay s port.val = true → portUp s port.val = true → s.net.node ≠ .silent →
       cutBack s = false → openLeft s (portCfg s port.val).planeB = some left → ((84 * portByteNs s port.val : Nat) : Int) ≤ left →
       b = s.net.sched.cycleOf (now0 s) → (linkPort s port.val).askedIn ≠ some (s.net.sched.cluster b) →
       p = { linkPort s port.val with asked := some (now0 s), askedIn := some (s.net.sched.cluster b) } →
       u = { s with net := { s.net with ports := upd s.net.ports port.val (fun _ => p) } } →
       exec (.delayReq port) s = .next (emit u (.frame port.val (now0 s) (flovisFrame s (portCfg s port.val).planeB 6 0
         (s.net.sched.cyc b) (s.net.sched.ccount b) ([1, 0, 0, 0] ++ zeros 16))))) ∧
     (portUp s port.val = true → (portCfg s port.val).role ≠ 0 → portBlocked s port.val = false →
       (∀ (t1 d : Int), frameGood s bytes = true → isDelay bytes 2 = true → (linkPort s port.val).asked = some t1 →
         d = ((now0 s - t1) - ((getDWord (fPayload bytes) 12).toInt - (getDWord (fPayload bytes) 4).toInt)) / 2 →
         exec (.delayResp port bytes) s = .next { s with net := { s.net with ports := upd s.net.ports port.val (fun l =>
           { l with asked := none, delays := (d :: l.delays).take 16 }) } }) ∧
       ((frameGood s bytes = false ∨ isDelay bytes 2 = false) → exec (.delayResp port bytes) s
         = .next { s with net := { s.net with discarded := s.net.discarded + 1 } }) ∧
       (∀ b t3, frameGood s bytes = true → isDelay bytes 1 = true → s.net.node ≠ .silent → cutBack s = false →
         ((portCfg s port.val).role = 2 → integrated s = true → openLeft s (portCfg s port.val).planeB ≠ none) →
         b = s.net.sched.cycleOf (now0 s) → t3 = now0 s + (((bytes.length + 20) * portByteNs s port.val : Nat) : Int) →
         exec (.delayReqReceive port bytes) s = .next (emit s (.frame port.val t3 (flovisFrame s (portCfg s port.val).planeB 6 0
           (s.net.sched.cyc b) (s.net.sched.ccount b) ([2, 0, 0, 0] ++ beDWord (ax0 s) ++ beDWord (BitVec.ofInt 64 t3)))))) ∧
       ((frameGood s bytes = false ∨ isDelay bytes 1 = false) → exec (.delayReqReceive port bytes) s
         = .next { s with net := { s.net with discarded := s.net.discarded + 1 } }))) ∧
  (∀ (node : Nat) (b : List Byte) (c : FlowCfg) (s : State), flowCfg s (getByte b 0) = some c → (c.peer = node ∨ c.peer = 0xFFFF) →
     getByte b 1 = c.channels → getByte b 2 = c.format →
     (b.drop 16).length = getNat b 12 2 * c.channels * (if bit c.format 2 then 3 else 2) →
     exec (.flowPacketReceive node b) s = .next (placePacket s c.id (getDWord b 4).toInt ((List.range (getNat b 12 2)).map (fun k =>
       (List.range c.channels).map (fun j => packetSample (bit c.format 2) (b.drop 16) (k * c.channels + j))))))

/-- Leases and schedules: the root star decides the CLAIM that its sluice consumed, once it is received; a GRANT is discarded when bad and
otherwise followed; a lease not used for 256 complete cluster cycles lapses; an announced schedule takes over at its boundary, and a device
that does not hold it returns to LISTEN with SCHED_MISMATCH (R271, R289 to R292). -/
def Obligations.LeaseCommandsHaveTheirEffect : Prop :=
  ∀ (bytes : List Byte) (s : State),
    (∀ (port : Fin 9) pb x u want r, starPlane s = some pb → isRoot s = true → integrated s = true → s.net.claimIn = some x →
      x.decided = false → x.port = port.val → x.bytes = bytes → elapsed s x.since ((8 + bytes.length) * portByteNs s port.val) = true →
      u = { s with net := { s.net with claimIn := some { x with decided := true } } } →
      want = getByte (fPayload bytes) 0 → r = claimDecision s pb port.val (fNode bytes) want →
      (frameGood s bytes = true → fKind bytes = 4 →
        (r = 1 → exec (.claim port bytes) s = .next (netRecord { u with net := { u.net with
          decision := some (fNode bytes, want, 1)
          leases := s.net.leases ++ [{ slot := want, device := fNode bytes, port := port.val
                                       last := s.net.sched.cluster (s.net.sched.cycleOf (now0 s)) }] } }
          0 0x7007 pb (sluicePort port.val) (fNode bytes) 0 want)) ∧
        (r ≠ 1 → exec (.claim port bytes) s = .next { u with net := { u.net with decision := some (fNode bytes, want, r) } })) ∧
      ((frameGood s bytes = false ∨ fKind bytes ≠ 4) →
        exec (.claim port bytes) s = .next { u with net := { u.net with discarded := u.net.discarded + 1 } })) ∧
    (∀ (pb : Bool) (port device want : Nat) e,
      s.net.sched.entries.find? (fun e => e.ty = 3 && e.slot = want && bit e.planes (b2n pb)) = some e →
      (s.net.leases.find? (fun l => l.slot = want) = none → claimDecision s pb port device want = if bit e.owner port then 1 else 3) ∧
      (∀ l, s.net.leases.find? (fun l => l.slot = want) = some l → claimDecision s pb port device want = if l.device = device then 3 else 2)) ∧
    (∀ p : Plane, domainOn s 5 = true → ((frameGood s bytes = false ∨ fKind bytes ≠ 5) →
      exec (.grant p bytes) s = .next { s with net := { s.net with discarded := s.net.discarded + 1 } }) ∧
      (frameGood s bytes = true → fKind bytes = 5 → exec (.grant p bytes) s = .next (followGrant s (planeB p) bytes))) ∧
    (∀ (p : Plane) slot l, s.net.leases.find? (fun l => l.slot = slot) = some l → isRoot s = true → starPlane s = some (planeB p) →
      l.last + 257 ≤ s.net.sched.cluster (s.net.sched.cycleOf (now0 s)) →
      exec (.leaseLapse p slot) s = .next (netRecord { s with net := { s.net with
        leases := s.net.leases.filter (fun l => l.slot ≠ slot) } } 0 0x7007 (planeB p) (sluicePort l.port) l.device 1 slot)) ∧
    (s.net.nextId ≠ 0 → s.net.nextId ≠ s.net.sched.id → switchInstant s ≤ now0 s →
      (s.bank.net.sched.id = s.net.nextId → exec .scheduleSwitch s = .next (switchSchedule s s.bank.net.sched (refPlane s))) ∧
      (∀ u, s.bank.net.sched.id ≠ s.net.nextId → u = mismatch (enterListen s) (refPlane s) →
        exec .scheduleSwitch s = .next { u with net := { u.net with nextId := 0, switchCount := 0 } }))

/-- The messages of PTP that are the instance's, on its port, over its transport and in its domain: a SYNC gives a slave its offset and
disciplines AX0 under source PTP, a delay response joins the last 16, an ANNOUNCE of the present master or of a better one is taken and the
state decided; one that is not the instance's changes nothing (R297, R301). The times and the sending of PTP: the announce receipt timeout,
the move to PORT_ALT and back, what a master sends, and delay requests and their answers (R297 to R301, R317). -/
def Obligations.PtpHasItsEffect : Prop :=
  (∀ s : State,
     (∀ (m : PtpSyncMsg) (s' : State), s.train.ptp.st = .slave → ptpMine s m.head = true →
       s' = moduleSignalEvents s (modPtp s (fun p => { p with offset := m.t2 - m.t1 - pathDelay s - m.corrections })) →
       ((axis s' 0).src ≠ 1 → exec (.ptpSync m) s = .next (axisIrq s s')) ∧
       ((axis s' 0).src = 1 →
         exec (.ptpSync m) s = .next (axisIrq s (discipline s' (-(m.t2 - m.t1 - pathDelay s - m.corrections)))))) ∧
     (∀ (m : PtpDelayMsg) (s' : State), ptpMine s m.head = true →
       s' = modPtp s (fun p => { p with delays := (((m.t2 - m.t1) + (m.t4 - m.t3) - m.corrections) / 2 :: p.delays).take 16 }) →
       (ptpFlag s 3 = false → s.train.ptp.st = .slave → exec (.ptpDelayResp m) s = .next s') ∧
       (ptpFlag s 3 = true → exec (.ptpDelayResp m) s = .next { s' with net := { s'.net with
         ports := upd s'.net.ports (ptpPort s) (fun l => { l with peerDelay := pathDelay s' }) } })) ∧
     (∀ m : PtpDelayMsg, ptpMine s m.head = false → exec (.ptpDelayResp m) s = .next s) ∧
     (∀ (m : PtpAnnounceMsg) (u : State), ptpMine s m.head = true →
       (∀ b, s.train.ptp.best = some b →
         (b.parentIdentity = m.parentIdentity ∧ b.parentPort = m.parentPort) ∨ keyBetter (announceKey m) (announceKey b) = true) →
       u = modPtp s (fun p => { p with best := some m, heard := rawNow s }) →
       exec (.announce m) s = .next (decidePtp (if s.train.ptp.best.any (fun b => b.gmIdentity = m.gmIdentity) then u
         else raiseHub u 0 0x8002 (ptpPort s) (hi32 m.gmIdentity).toNat (lo32 m.gmIdentity).toNat))) ∧
     (∀ (m b : PtpAnnounceMsg), s.train.ptp.best = some b →
       ¬ (b.parentIdentity = m.parentIdentity ∧ b.parentPort = m.parentPort) → keyBetter (announceKey m) (announceKey b) = false →
       exec (.announce m) s = .next s) ∧
     (∀ m : PtpAnnounceMsg, ptpMine s m.head = false → exec (.announce m) s = .next s)) ∧
  (∀ s : State,
     (∀ u v, (s.train.ptp.st = .listening ∨ s.train.ptp.st = .slave ∨ s.train.ptp.st = .passive) →
       elapsed s s.train.ptp.heard (announceNs s) = true →
       u = raiseHub (modPtp s (fun p => { p with best := none, heard := rawNow s, timeouts := p.timeouts + 1 })) 1 0x8003 (ptpPort s) →
       v = (if s.train.ptp.st = .slave ∧ (axis u 0).src = 1 then sourceLost u else u) →
       exec .announceReceiptTimeout s = .next (setPtpState v (if ptpFlag v 1 then .listening else .master))) ∧
     ((s.train.ptp.st = .master ∨ s.train.ptp.st = .disabled) → exec .announceReceiptTimeout s = .next s) ∧
     (ptpFlag s 0 = true → s.train.ptp.alt = false → portUp s s.bank.ptp.port = false → s.bank.ptp.portAlt ≠ 0xFF →
       exec .portAltMove s = .next (restartPtp (raiseHub (modPtp s (fun p => { p with alt := true, moves := p.moves + 1 }))
         1 0x8004 s.bank.ptp.portAlt))) ∧
     (s.train.ptp.alt = true → portUp s s.bank.ptp.port = true →
       (elapsed s (linkPort s s.bank.ptp.port).since 10000000000 = true →
         exec .portReturn s = .next (restartPtp (modPtp s (fun p => { p with alt := false })))) ∧
       (elapsed s (linkPort s s.bank.ptp.port).since 10000000000 = false → exec .portReturn s = .next s)) ∧
     (s.train.ptp.st = .master → portUp s (ptpPort s) = true →
       (∀ u, u = sendPtp (modPtp s (fun p => { p with seqSync := (p.seqSync + 1) % 65536 })) .sync s.train.ptp.seqSync 0 [] →
         exec (.ptpMasterSend false) s = .next (if ptpFlag u 5 then sendPtp u .followUp s.train.ptp.seqSync 0 [] else u)) ∧
       exec (.ptpMasterSend true) s = .next (sendPtp (modPtp s (fun p => { p with seqAnnounce := (p.seqAnnounce + 1) % 65536 })) .announce
         s.train.ptp.seqAnnounce 0 [(s.bank.ptp.utc : Int), s.bank.ptp.prio1, s.bank.ptp.clockClass, 0xFE, 0xFFFF,
           s.bank.ptp.prio2, Config.clockIdentity.toNat, 0, 0xA0, 1])) ∧
     (∀ isAnnounce, s.train.ptp.st ≠ .master → exec (.ptpMasterSend isAnnounce) s = .next s) ∧
     (portPlane s (ptpPort s) = none → ptpFlag s 4 = false → ∀ n : Nat, sendPtp s .sync n 0 []
       = emit { s with train := { s.train with ptp := { s.train.ptp with sentAt := (ax0 s).toInt } } } (.ptp
         { port := ptpPort s, kind := .sync, proto := 0x88F7, dst := 0x011B19000000, domain := s.bank.ptp.domain, seq := n
           time := (ax0 s).toInt, correction := if ptpMode s (ptpPort s) = 2 then ax0Fraction s else 0, fields := [] })) ∧
     (portUp s (ptpPort s) = true → s.train.ptp.st ≠ .disabled → (ptpFlag s 3 = true ∨ s.train.ptp.st = .slave) →
       exec .ptpDelayRequestSend s = .next (sendPtp (modPtp s (fun p => { p with seqDelay := (p.seqDelay + 1) % 65536 }))
         (if ptpFlag s 3 then .pdelayReq else .delayReq) s.train.ptp.seqDelay 0 [])) ∧
     (∀ (port : Nat) (udp : Bool) (domain : Nat) (t : DWord), portUp s port = true →
       (ptpFlag s 3 = false → s.train.ptp.st = .master → ptpMine s { port := port, udp := udp, domain := domain } = true →
         exec (.ptpDelayRequestReceive port { udp := udp, domain := domain, peer := false } t) s
           = .next (leave s (.ptp (ptpOut port domain 0 udp .delayResp t.toInt [])))) ∧
       (∀ u, ptpFlag s 3 = true → (ptpMine s { port := port, udp := udp, domain := domain } = true ∨ ptpMode s port ≠ 0) →
         u = leave s (.ptp (ptpOut port domain 0 udp .pdelayResp t.toInt [])) →
         exec (.ptpDelayRequestReceive port { udp := udp, domain := domain, peer := true } t) s
           = .next (if ptpFlag s 5 then leave u (.ptp (ptpOut port domain 0 udp .pdelayFollowUp t.toInt [])) else u))) ∧
     (∀ (port : Nat) (r : PtpReq) (t : DWord), portUp s port = false → exec (.ptpDelayRequestReceive port r t) s = .next s))

/-- The backbone and its links: a topology is taken with its records and events, one not renewed for 1 s is stale, a permitted speed is
taken and another holds the link down (R277, R303, R317). IP: an ARP reply enters the cache and releases what waited, a request for the
module's address is answered, entries and waiting frames expire, a datagram incomplete after 1 s is discarded and counted, an echo and a
membership query are answered, a datagram with options or a fragment of one is dropped (R304). -/
def Obligations.BackboneAndIpHaveTheirEffect : Prop :=
  (∀ s : State,
     (∀ (line : Fin 2) (m : TopologyMsg) (u v : State), portUp s (portEp0 + line.val) = true →
       u = { s with train := { s.train with topo := some m, topoAt := rawNow s, topoStale := false } } →
       v = (if s.train.topo.any (fun x => x.etbTopoCnt = m.etbTopoCnt) then u else raiseHub u 0 0x8005 0 m.etbTopoCnt.toNat) →
       exec (.topology line m) s = .next (moduleSignalEvents s (if s.train.topo.any (fun x => x.inaugurated = m.inaugurated) then v
         else raiseHub v 0 0x8006 0 (b2n m.inaugurated)))) ∧
     (∀ (line : Fin 2) (m : TopologyMsg), portUp s (portEp0 + line.val) = false → exec (.topology line m) s = .next s) ∧
     (s.train.topo.isSome = true → s.train.topoStale = false → elapsed s s.train.topoAt 1000000000 = true →
       exec .topologyTimeout s
         = .next (moduleSignalEvents s (raiseHub { s with train := { s.train with topoStale := true } } 1 0x8007))) ∧
     (∀ (port : Fin 11) (speed : Nat) (permitted : Prop), domainOn s 5 = true →
       permitted = (speed = 0 ∨ (port.val = 10 ∧ speed = 1) ∨ port.val = 8 ∨ port.val = 9 ∨ ((portCfg s port.val).role ≠ 0 ∧
         ((speed = 2 ∧ bit (portCfg s port.val).speed 0 = true) ∨ (speed = 1 ∧ bit (portCfg s port.val).speed 1 = true)))) →
       (permitted → exec (.ethernetLinkChange port speed) s
         = .next (moduleSignalEvents s { s with net := { s.net with ports := upd s.net.ports port.val (fun l =>
             { l with since := if l.speed = 0 && speed != 0 then rawNow s else l.since, speed := min speed 2 }) } })) ∧
       (¬ permitted → exec (.ethernetLinkChange port speed) s
         = .next (moduleSignalEvents s { s with net := { s.net with ports := upd s.net.ports port.val (fun l =>
             { l with speed := 0, badSpeed := l.badSpeed + 1 }) } })))) ∧
  (∀ s : State,
     (∀ (ip target : Word) (mac : BitVec 48), domainOn s 5 = true →
       exec (.arpFrame false ip target mac) s = .next ((s.train.arpWait.filter (fun w => w.2.1 = ip)).foldl (fun u w => leave u w.2.2)
         { s with train := { s.train with
             arp := ((({ ip := ip, mac := mac, at_ := rawNow s } : ArpEntry)) :: s.train.arp.filter (fun e => e.ip ≠ ip)).take 64
             arpWait := s.train.arpWait.filter (fun w => w.2.1 ≠ ip) } })) ∧
     (∀ (ip target : Word) (mac : BitVec 48) (port : Nat) (hop : Word), domainOn s 5 = true → route s ip = some (port, hop) →
       ownAddress s target = true → mayUse s port = true →
       exec (.arpFrame true ip target mac) s = .next (leave s (.arp port false target))) ∧
     (∀ ip : Word, exec (.arpExpiry ip false) s
       = .next { s with train := { s.train with arp := s.train.arp.filter (fun e => !(e.ip = ip && elapsed s e.at_ 60000000000)) } }) ∧
     (∀ ip : Word, exec (.arpExpiry ip true) s = .next { s with train := { s.train with
       arpWait := s.train.arpWait.filter (fun w => !(w.2.1 = ip && elapsed s w.1 1000000000))
       unresolved := s.train.unresolved + (s.train.arpWait.filter (fun w => w.2.1 = ip && elapsed s w.1 1000000000)).length } }) ∧
     (∀ id : Nat, exec (.reassemblyTimeout id) s = .next { s with train := { s.train with
       reasm := s.train.reasm.filter (fun r => !(r.ident = id && elapsed s r.since 1000000000))
       reasmDiscard := s.train.reasmDiscard
         + (s.train.reasm.filter (fun r => r.ident = id && elapsed s r.since 1000000000)).length } }) ∧
     (∀ (src dst : Word) (m : EchoMsg),
       (ipPlain m.ip = true → ownAddress s dst = true →
         exec (.icmpEchoRequest src dst m) s = .next (sendIp s src (fun port => .echo port src m.data))) ∧
       (ipPlain m.ip = true → ownAddress s dst = false → exec (.icmpEchoRequest src dst m) s = .next s) ∧
       (ipPlain m.ip = false → exec (.icmpEchoRequest src dst m) s = .next { s with train := { s.train with
         optDiscard := s.train.optDiscard + b2n m.ip.options
         reasmDiscard := s.train.reasmDiscard + b2n (m.ip.fragment && !m.ip.options) } })) ∧
     (∀ (line : Fin 3) (port : Nat) (p : Program), lineOn s line.val = true →
       port = (if line.val = 0 then portEp0 else if line.val = 1 then portEp1 else (nodePort s false).getD portInternal) →
       mayUse s port = true → s.prog = some p →
       exec (.igmpQuery line) s = .next ((((p.groups.filter (fun g => !g.publish && g.carrier = 2 && g.ip != 0)).map (·.ip)).eraseDups).foldl
         (fun u ip => leave u (.igmp port ip)) s)) ∧
     (∀ line : Fin 3, lineOn s line.val = false → exec (.igmpQuery line) s = .next s))

/-- Process data: a good frame of a subscribed ComId reaches its group, a bad or unknown one is counted, a pull request is answered with
the group, a lattice point publishes, the freshness of every group is evaluated, a telegram of a known SCID is kept (R306, R308, R314,
R315, R193). Message data, whole or put together from its pieces: a request of the remote mailbox service fills mailbox 1, one for another
ComId is answered with Me, a notification of another ComId is counted, a busy mailbox answers Mp with BUSY (R304, R307, R448). -/
def Obligations.TrdpHasItsEffect : Prop :=
  (∀ s : State,
     (∀ (line : Fin 3) (h : PdHeader) (data : List Byte), lineOn s line.val = true → ipPlain h.ip = true → pdGood s h data.length = false →
       exec (.trdpPdReceive line h data) s = .next { s with train := { s.train with pdDiscard := s.train.pdDiscard + 1 } }) ∧
     (∀ (line : Fin 3) (h : PdHeader) (data : List Byte) (p : Program) (g : SigGroup), lineOn s line.val = true → ipPlain h.ip = true →
       pdGood s h data.length = true → s.prog = some p →
       p.groups.find? (fun g => !g.publish && g.carrier = 2 && g.comId = h.comId) = some g → g.format ≠ 2 →
       exec (.trdpPdReceive line h data) s = .next (groupArrive s g h.sequence data)) ∧
     (∀ (line : Fin 3) (h : PdHeader) (data : List Byte) (p : Program) (g : SigGroup), lineOn s line.val = true → ipPlain h.ip = true →
       pdGood s h data.length = true → s.prog = some p →
       p.groups.find? (fun g => !g.publish && g.carrier = 2 && g.comId = h.comId) = some g → g.format = 2 → line.val < 2 →
       exec (.trdpPdReceive line h data) s = .next (keepSafe s g.conn (line.val = 1) data)) ∧
     (∀ (line : Fin 3) (src : Word) (h : PdHeader) (p : Program), lineOn s line.val = true → ipPlain h.ip = true → sends s = true → pdGood s h 0 = true →
       s.prog = some p → p.groups.find? (fun g => g.publish && g.carrier = 2 && g.comId = h.comId) = none →
       exec (.trdpPrReceive line src h) s = .next { s with train := { s.train with prUnknown := s.train.prUnknown + 1 } }) ∧
     (∀ (line : Fin 3) (src : Word) (h : PdHeader) (p : Program) (g : SigGroup), lineOn s line.val = true → ipPlain h.ip = true → sends s = true →
       pdGood s h 0 = true → s.prog = some p → p.groups.find? (fun g => g.publish && g.carrier = 2 && g.comId = h.comId) = some g →
       g.format ≠ 2 →
       exec (.trdpPrReceive line src h) s = .next (sendPd (formGroup s g).2 "Pp" (if h.replyIp = 0 then src else h.replyIp)
         (if h.replyComId = 0 then g.comId else h.replyComId) (formGroup s g).1)) ∧
     (∀ (n : Nat) (g : SigGroup), sends s = true → groupDef s n true = some g → g.carrier = 2 → g.mode = 0 → g.format ≠ 2 →
       exec (.trdpPublish n) s = .next (sendPd (formGroup s g).2 "Pd" g.ip g.comId (formGroup s g).1)) ∧
     (∀ n : Nat, sends s = false → exec (.trdpPublish n) s = .next s) ∧
     (∀ p : Program, s.prog = some p → exec .freshnessEvaluation s = .next (watchModuleSignals
       { (p.groups.filter (fun g => !g.publish && g.format != 2)).foldl evalGroup s with
         train := { ((p.groups.filter (fun g => !g.publish && g.format != 2)).foldl evalGroup s).train with
           evals := ((p.groups.filter (fun g => !g.publish && g.format != 2)).foldl evalGroup s).train.evals + 1 } })) ∧
     (∀ (line : Fin 3) (src : Word) (h : PdHeader) (data : List Byte) (u : State), lineOn s line.val = true → ipPlain h.ip = false →
       u = { s with train := { s.train with optDiscard := s.train.optDiscard + b2n h.ip.options
                                            reasmDiscard := s.train.reasmDiscard + b2n (h.ip.fragment && !h.ip.options) } } →
       exec (.trdpPdReceive line h data) s = .next u ∧ exec (.trdpPrReceive line src h) s = .next u) ∧
     (∀ (p : Plane) (bytes : List Byte) (c : SafeConn), s.safe.conns.find? (fun c => !c.send && c.scid = getWord bytes 4) = some c →
       exec (.safeTelegramReceive p bytes) s = .next (keepSafe s c.conn (planeB p) bytes))) ∧
  (∀ (src comId : Word) (m : MdData) (s : State), s.bank.valid = true → domainOn s 5 = true → s.modu.mode ≠ .bringup → m.options = false →
     (∀ x, m.piece = some x →
       (∀ u, reassemble s src x m.bytes = (none, u) →
         exec (.trdpMrReceive src comId m) s = .next u ∧ exec (.trdpMnReceive src comId m) s = .next u) ∧
       (∀ whole u, reassemble s src x m.bytes = (some whole, u) →
         exec (.trdpMrReceive src comId m) s = .next (receiveMd u src comId whole true) ∧
         exec (.trdpMnReceive src comId m) s = .next (receiveMd u src comId whole false))) ∧
     (∀ data, m.piece = none → data = m.bytes → data.length ≤ 65388 →
       (comId ≠ s.bank.net.ip.mdComId →
         exec (.trdpMrReceive src comId m) s = .next (sendIp (raiseHub s 0 0x800A 0 src.toNat comId.toNat) src
           (fun port => .trdp port src "Me" comId 0 0 [] [])) ∧
         exec (.trdpMnReceive src comId m) s = .next { s with train := { s.train with mdDiscard := s.train.mdDiscard + 1 } }) ∧
       (∀ (mn : Bool) (u : State), comId = s.bank.net.ip.mdComId → comId ≠ 0 → s.hp.mb1.st = .idle →
         u = startMb s .mb1 (.trdp src) ((toWords data).headD 0).toNat ((toWords data).drop 1).length ((toWords data).drop 1) mn →
         exec (if mn then .trdpMnReceive src comId m else .trdpMrReceive src comId m) s
           = .next (if 4098 < ((toWords data).drop 1).length then finishMbAt u .mb1 3 [] 0 else u)) ∧
       (comId = s.bank.net.ip.mdComId → comId ≠ 0 → s.hp.mb1.st ≠ .idle →
         exec (.trdpMrReceive src comId m) s = .next (sendIp (raiseHub s 0 0x800A 1 src.toNat comId.toNat) src
           (fun port => .trdp port src "Mp" comId 0 0 (beWords [BitVec.ofNat 32 ((toWords data).headD 0).toNat, 0x00010000]) [])) ∧
         exec (.trdpMnReceive src comId m) s = .next (raiseHub s 0 0x800A 1 src.toNat comId.toNat))))

/-- The requesting side of the bridge: a response completes the delayed entry it answers and one for a freed entry is counted, a credit
comes back, a RESYNC answer clears the fence, a delayed request and a POST time out, a completion not collected is discarded (R326 to
R330). The answering side of the bridge: a READ that need not wait is performed and answered, a POST of the expected tag is performed and
returns its credit, an early POST is held, an old one is ignored, a RESYNC clears the fence and is answered, a gap of 10 ms fences the
source (R330, R333, R334). -/
def Obligations.BridgeHasItsEffect : Prop :=
  (∀ (node : Nat) (body : List Byte) (s : State),
     (domainOn s 5 = true →
       (∀ e, delayedAt s (getNat body 2 2) = some e → e.node = node → e.write = false → e.done = none → getByte body 0 = 1 →
         getByte body 1 = 0 → getByte body 5 = e.count →
         exec (.remoteAccessResponse node body) s = .next (setDelayed s (getNat body 2 2) (some { e with
           done := some (0, bit (getByte body 4) 0, toWords (slice body 8 (4 * e.count)), rawNow s) }))) ∧
       (delayedAt s (getNat body 2 2) = none →
         exec (.remoteAccessResponse node body) s = .next { s with br := { s.br with discard := satInc s.br.discard } })) ∧
     (domainOn s 5 = true → getByte body 5 = 1 → getByte body 10 = 0 →
       ∀ p, (nodeSt s node).posts.find? (fun p => p.tag = getNat body 8 2 && !p.lost) = some p →
         exec (.credit node body) s = .next (modNode s node (fun x => { x with
           posts := x.posts.filter (fun q => q.tag ≠ getNat body 8 2 || q.lost), credits := min 32 (x.credits + 1) }))) ∧
     (∀ p code, domainOn s 5 = true → getByte body 5 = 1 → getByte body 10 = code → code ≠ 0 →
       (nodeSt s node).posts.find? (fun p => p.tag = getNat body 8 2 && !p.lost) = some p →
         exec (.credit node body) s = .next (postError (modNode s node (fun x => { x with
           posts := x.posts.filter (fun q => q.tag ≠ getNat body 8 2 || q.lost), credits := min 32 (x.credits + 1) })) node code p)) ∧
     (∀ mb tag t, domainOn s 5 = true → (nodeSt s node).clearing = some (mb, tag, t) →
       exec (.resyncDone node tag) s = .next (resultMb (raiseHub (modNode s node (fun x => { x with
         fenced := false, credits := 32, posts := [], clearing := none, next := (tag + 1) % 65536 })) 0 0x9004 node) mb 0)) ∧
     (∀ (i : Fin 16) e, delayedAt s i.val = some e → e.done = none → elapsed s e.at_ (e.reqMs * 1000000) = true →
       exec (.reqTimeout (.delayed i)) s = .next (raiseHub (logBridge (setDelayed s i.val (some { e with done := some (6, false, [], rawNow s) }))
         6 e.page e.node i.val e.count e.remote) 1 0x9005 e.node i.val e.remote)) ∧
     (∀ p, (nodeSt s node).posts.find? (fun q => q.tag = p.tag && !q.lost) = some p → elapsed s p.at_ (p.reqMs * 1000000) = true →
       s.br.trainQ = [] →
       exec (.reqTimeout (.post node p.tag)) s = .next (postError (modNode s node (fun x => { x with
         posts := x.posts.map (fun q => if q.tag = p.tag then { q with lost := true } else q) })) node 6 p)) ∧
     (∀ (i : Fin 16) e r, delayedAt s i.val = some e → e.done = some r → elapsed s r.2.2.2 (e.discardMs * 1000000) = true →
       exec (.discardMs i) s = .next { setDelayed s i.val none with br := { (setDelayed s i.val none).br with discard := satInc s.br.discard } })) ∧
  (∀ (node : Nat) (body : List Byte) (s : State), inService s = true → domainOn s 5 = true →
     (rqOp body = 1 → inboundUsed s < 1024 → rqAfter body = none →
       (inboundCode s body = 0 →
         exec (.inboundRequest node body) s = .next (respond (regReads .bridge (accessAddrs (rqAddr body) (rqCount body)) s).2 node
           (responseBody 1 0 (rqTag body) 0 (regReads .bridge (accessAddrs (rqAddr body) (rqCount body)) s).1.length
             (beWords (regReads .bridge (accessAddrs (rqAddr body) (rqCount body)) s).1)))) ∧
       (inboundCode s body ≠ 0 →
         exec (.inboundRequest node body) s = .next (respond s node (responseBody 1 (inboundCode s body) (rqTag body) 0 0 [])))) ∧
     (rqOp body = 3 → tagAhead (rqTag body) (sourceSt s node).expect = 0 → inboundUsed s < 1024 → (sourceSt s node).fenced = false →
       exec (.inboundRequest node body) s
         = .next (settleSource (performPost s node body).2 node [(rqTag body, (performPost s node body).1)])) ∧
     (rqOp body = 3 → 0 < tagAhead (rqTag body) (sourceSt s node).expect → tagAhead (rqTag body) (sourceSt s node).expect < 32768 →
       inboundUsed s < 1024 → (sourceSt s node).fenced = false → (sourceSt s node).held = [] →
       exec (.inboundRequest node body) s
         = .next (modSource s node (fun x => { x with held := x.held ++ [(rqTag body, body, rawNow s)] }))) ∧
     (rqOp body = 3 → 32768 ≤ tagAhead (rqTag body) (sourceSt s node).expect → exec (.inboundRequest node body) s = .next s) ∧
     (∀ (tag : Nat) (u : State), (sourceSt s node).held = [] →
       u = modSource s node (fun x => { x with fenced := false, held := [], expect := (tag + 1) % 65536 }) →
       exec (.resync node tag) s = .next (releaseWaits (respond u node (responseBody 4 0 tag 0 0 [])) node)) ∧
     (∀ tag b t, (sourceSt s node).held = [(tag, b, t)] → (sourceSt s node).waits = [] → elapsed s t 10000000 = true →
       tagAhead tag (sourceSt s node).expect = 1 →
       exec (.seqGap node) s = .next (settleSource (modSource s node (fun x => { x with
         fenced := true, expect := (x.expect + 2) % 65536 })) node
           (([(sourceSt s node).expect % 65536, ((sourceSt s node).expect + 1) % 65536].filter (fun t => !(tag = t))).map (fun t => (t, 4))))) ∧
     ((sourceSt s node).held = [] → (sourceSt s node).waits = [] → exec (.seqGap node) s = .next s))

/-- Tunnels: a good frame of an open endpoint is wrapped and queued, one whose line checks failed is counted, a container of the expected
peer waits for replay, its replay starts at its moment, a CAN interface enters and leaves bus-off with a record (R338 to R343). -/
def Obligations.TunnelFramesHaveTheirEffect : Prop :=
  ∀ s : State,
    (∀ (i : Fin 4) (f : ForeignFrame) (ago : Nat) (e : Endpoint) (b : List Byte), ifOn s i.val = true → inService s = true →
      effectsHeld s = false → frameOfIf s i.val f = true → (foreignBytes s i.val f).2.2 = true → endpointFor s i.val f = some e →
      b = [BitVec.ofNat 8 e.peerEp, BitVec.ofNat 8 e.ep, BitVec.ofNat 8 (foreignBytes s i.val f).1, BitVec.ofNat 8 (b2n e.overrun)]
          ++ be16 e.seq ++ be16 (foreignBytes s i.val f).2.1.length ++ beDWord (BitVec.ofInt 64 ((ax0 s).toInt - (ago : Int))) ++ (foreignBytes s i.val f).2.1 →
      (queued e.outQ + b.length ≤ 6144 → exec (.foreignFrameReceive i f ago) s
        = .next (modEp s e.ep (fun e => { e with overrun := false, seq := (e.seq + 1) % 65536, outQ := e.outQ ++ [b] }))) ∧
      (6144 < queued e.outQ + b.length → exec (.foreignFrameReceive i f ago) s
        = .next (modEp s e.ep (fun e => { e with overrun := true, drops := e.drops + 1 })))) ∧
    (∀ (i : Fin 4) (f : ForeignFrame) (ago : Nat), ifOn s i.val = true → inService s = true → effectsHeld s = false → frameOfIf s i.val f = true →
      (foreignBytes s i.val f).2.2 = false →
      exec (.foreignFrameReceive i f ago) s = .next { s with br := { s.br with lineErrors := s.br.lineErrors + 1 } }) ∧
    (∀ (node : Nat) (body : List Byte), inService s = true → endpoint s (getByte body 0) = none →
      exec (.tunnelContainerReceive node body) s = .next { s with br := { s.br with contDiscard := s.br.contDiscard + 1 } }) ∧
    (∀ (node : Nat) (body : List Byte) (e : Endpoint), inService s = true → effectsHeld s = false →
      endpoint s (getByte body 0) = some e → e.peer = node → e.peerEp = getByte body 1 → 16 + getNat body 6 2 ≤ body.length →
      e.lastSeq = none → e.delay = 0 → e.inQ = [] → getNat body 6 2 ≤ 6144 →
      exec (.tunnelContainerReceive node body) s = .next (modEp s e.ep (fun e => { e with
        lastSeq := some (getNat body 4 2), gaps := e.gaps + 0, late := e.late + 0
        drops := e.drops + b2n (bit (getByte body 3) 0) + 0, inQ := e.inQ ++ [((getDWord body 8).toInt, slice body 16 (getNat body 6 2))] }))) ∧
    (∀ (ep : Fin 32) (ok : Bool) (e : Endpoint) (rx : Int) (frame : List Byte) (rest : List (Int × List Byte)), endpoint s ep.val = some e →
      e.inQ = (rx, frame) :: rest → inService s = true → effectsHeld s = false →
      (ok = true → ifOn s e.iface = true → ¬ e.iface ∈ s.br.busOff → (e.delay = 0 ∨ rx + (e.delay : Int) * 1000 ≤ (ax0 s).toInt) →
        exec (.replay ep ok) s = .next (emit (modEp s ep.val (fun e => { e with inQ := rest, replayed := e.replayed + 1 }))
          (.foreign e.iface frame))) ∧
      (ok = false → e.delay = 0 →
        exec (.replay ep ok) s = .next (modEp s ep.val (fun e => { e with inQ := rest, drops := e.drops + 1 }))) ∧
      (e.delay ≠ 0 → (ax0 s).toInt < rx + (e.delay : Int) * 1000 → exec (.replay ep ok) s = .next s)) ∧
    (∀ i : Fin 4, i.val < 2 → ifOn s i.val = true →
      (¬ i.val ∈ s.br.busOff → exec (.busOff i true) s
        = .next (raiseHub { s with br := { s.br with busOff := s.br.busOff ++ [i.val] } } 1 0x9006 i.val 1)) ∧
      (i.val ∈ s.br.busOff → exec (.busOff i false) s
        = .next (raiseHub { s with br := { s.br with busOff := s.br.busOff.filter (· ≠ i.val) } } 1 0x9006 i.val 0)))

/-! ### Recorder and fault system -/

/-- The recorder moves on: the oldest harvest that waits fires its definitions, the oldest staged record enters the buffer when it has
room, a flush starts on a pending condition, takes the records in the buffer and writes them one by one, and a record 1 s old asks for a
flush (R345, R350, R352, R355). The fault system: a fault in service enters its region's queue, a lane's controller passes its record to
the hub, the free handler of the hub takes the record next in order, an imbalance raises S2 LEDGER (R362 to R366, R371). -/
def Obligations.RecorderAndFaultsHaveTheirEffect : Prop :=
  (∀ s : State,
     (∀ h t reqs rest, s.modu.step7 = (h, t, reqs) :: rest →
       exec .recorderFiring s = .next (pumpStep8 (step7 { s with modu := { s.modu with step7 := rest } } h t reqs))) ∧
     (∀ r rest, s.recd.staging = r :: rest →
       (bufferSize < bufferFill s + r.size → exec .stagedMove s = .next s) ∧
       (∀ u, bufferFill s + r.size ≤ bufferSize → r.flush = false → s.pwr.failing = false → s.recd.held = [] → s.recd.pfCause = none →
         u = { s with recd := { s.recd with staging := rest, buffer := s.recd.buffer ++ [{ r with bufferedAt := rawNow s }] } } →
         bufferFill u < 786432 → exec .stagedMove s = .next u)) ∧
     (s.recd.flushPending = true → s.recd.flushing = none → s.recd.buffer ≠ [] →
       exec .flushStart s = .next { s with recd := { s.recd with flushPending := false, flushing := some s.recd.buffer.length } }) ∧
     (∀ n, s.recd.flushing = some n → exec .flushStart s = .next s) ∧
     (∀ r, r ∈ s.recd.buffer → elapsed s r.bufferedAt 1000000000 = true →
       exec .recordAge s = .next { s with recd := { s.recd with flushPending := true } }) ∧
     (s.recd.flushing = none → s.pwr.failing = false → exec .flushRecordWritten s = .next s) ∧
     (∀ n r rest idx u, s.recd.flushing = some n → s.recd.buffer = r :: rest → s.pwr.failing = false →
       idx = (if s.recd.keep then s.recd.index else dropOldest r.size s.recd.head s.recd.index) →
       r.size ≤ ringFree s.recd.head idx →
       u = { s with recd := { s.recd with
         buffer := rest, flushing := if n ≤ 1 then none else some (n - 1)
         index := idx ++ [(r.seq, s.recd.head, r.size)], tail := (idx.headD (0, s.recd.head, 0)).2.1
         head := storeBase + (s.recd.head - storeBase + r.size) % storeSize, newest := r.seq + 1
         overwritten := s.recd.overwritten + BitVec.ofNat 64 (s.recd.index.length - idx.length) } } →
       exec .flushRecordWritten s = .next (endFlushWaits (writeRecControl
         (modMram u (fun m => ringWrite m storeBase storeSize (s.recd.head - storeBase) r.bytes))))) ∧
     (∀ n r rest u, s.recd.flushing = some n → s.recd.buffer = r :: rest → s.pwr.failing = false → s.recd.keep = true →
       ringFree s.recd.head s.recd.index < r.size →
       u = s.recd.flushWait.foldl (fun v w => resultMb v w.1 0x0A)
         { s with recd := { s.recd with flushing := none, storeFull := true, flushWait := [] } } →
       exec .flushRecordWritten s = .next (if s.recd.storeFull then u else raiseHub (setIrq u irqRec) 2 0xA002))) ∧
  (∀ s : State,
     (∀ f : FaultIn, s.modu.mode ≠ .bringup →
       exec (.faultRecord f) s = .next (enqueueFault s f.region { fin := f, harvest := s.vote.harvest, ax0 := ax0 s })) ∧
     (∀ (l : Lane) (hold w1 w2 : Bool) (x : FaultRec) (q : FaultQueue), takeFault (faultQueue s (.lane l)) (.lane l) = (some x, q) →
       exec (.faultHandle (.lane l) hold w1 w2) s = .next (enqueueFault (setFaultQueue s (.lane l) q) .hub x)) ∧
     (∀ (l : Lane) (hold w1 w2 : Bool) (q : FaultQueue), takeFault (faultQueue s (.lane l)) (.lane l) = (none, q) →
       exec (.faultHandle (.lane l) hold w1 w2) s = .next s) ∧
     (∀ (w1 w2 : Bool) (x : FaultRec) (q : FaultQueue), s.modu.wdExpired = false → (faultQueue s .hub).hand = [] →
       takeFault (faultQueue s .hub) .hub = (some x, q) →
       exec (.faultHandle .hub true w1 w2) s = .next (reportFault (setFaultQueue s .hub { q with hand := [x] }) x.fin.sev) ∧
       exec (.faultHandle .hub false w1 w2) s
         = .next (finishFault (reportFault (setFaultQueue s .hub { q with hand := [x] }) x.fin.sev) w1 w2)) ∧
     (∀ (hold w1 w2 : Bool), s.modu.wdExpired = false → (faultQueue s .hub).hand ≠ [] →
       exec (.faultHandle .hub hold w1 w2) s = .next (finishFault s w1 w2)) ∧
     (∀ (hold w1 w2 : Bool), s.modu.wdExpired = true → exec (.faultHandle .hub hold w1 w2) s = .next s) ∧
     (∀ row : Fin 9, s.modu.mode ≠ .bringup → exec (.ledgerImbalance row) s = .next (enqueueFault s .hub
       { fin := { region := .hub, sev := 2, level := 2, code := 0xD003, arg0 := BitVec.ofNat 32 row.val }
         harvest := s.vote.harvest, ax0 := ax0 s })))
end

