-- ==== Sys2Proof/Laws/Exec.lean ====
section
/-! SUPPORT. Which meaning each command has: one lemma per constructor of Instr. -/
namespace Sys2Proof.Machine

@[simp] theorem exec_getInfo (mb : Mb) (s : State) : exec (.getInfo mb) s = execGetInfo mb s := rfl
@[simp] theorem exec_getStatus (mb : Mb) (s : State) : exec (.getStatus mb) s = execGetStatus mb s := rfl
@[simp] theorem exec_moduleReset (mb : Mb) (s : State) : exec (.moduleReset mb) s = execModuleReset mb s := rfl
@[simp] theorem exec_resetExecute (mb : Mb) (s : State) : exec (.resetExecute mb) s = execResetExecute mb s := rfl
@[simp] theorem exec_sessionOpen (mb : Mb) (s : State) : exec (.sessionOpen mb) s = execSessionOpen mb s := rfl
@[simp] theorem exec_sessionClose (mb : Mb) (s : State) : exec (.sessionClose mb) s = execSessionClose mb s := rfl
@[simp] theorem exec_sessionInactivity (mb : Mb) (s : State) : exec (.sessionInactivity mb) s = execSessionInactivity mb s := rfl
@[simp] theorem exec_safeAck (mb : Mb) (s : State) : exec (.safeAck mb) s = execSafeAck mb s := rfl
@[simp] theorem exec_start (mb : Mb) (s : State) : exec (.start mb) s = execStart mb s := rfl
@[simp] theorem exec_progBegin (mb : Mb) (s : State) : exec (.progBegin mb) s = execProgBegin mb s := rfl
@[simp] theorem exec_progData (mb : Mb) (s : State) : exec (.progData mb) s = execProgData mb s := rfl
@[simp] theorem exec_progEnd (mb : Mb) (s : State) : exec (.progEnd mb) s = execProgEnd mb s := rfl
@[simp] theorem exec_progActivate (mb : Mb) (s : State) : exec (.progActivate mb) s = execProgActivate mb s := rfl
@[simp] theorem exec_progDiscard (mb : Mb) (s : State) : exec (.progDiscard mb) s = execProgDiscard mb s := rfl
@[simp] theorem exec_progInfo (mb : Mb) (s : State) : exec (.progInfo mb) s = execProgInfo mb s := rfl
@[simp] theorem exec_cfgBegin (mb : Mb) (s : State) : exec (.cfgBegin mb) s = execCfgBegin mb s := rfl
@[simp] theorem exec_cfgData (mb : Mb) (s : State) : exec (.cfgData mb) s = execCfgData mb s := rfl
@[simp] theorem exec_cfgEnd (mb : Mb) (s : State) : exec (.cfgEnd mb) s = execCfgEnd mb s := rfl
@[simp] theorem exec_cfgSwap (mb : Mb) (s : State) : exec (.cfgSwap mb) s = execCfgSwap mb s := rfl
@[simp] theorem exec_cfgRead (mb : Mb) (s : State) : exec (.cfgRead mb) s = execCfgRead mb s := rfl
@[simp] theorem exec_forceSet (mb : Mb) (s : State) : exec (.forceSet mb) s = execForceSet mb s := rfl
@[simp] theorem exec_forceClear (mb : Mb) (s : State) : exec (.forceClear mb) s = execForceClear mb s := rfl
@[simp] theorem exec_forceList (mb : Mb) (s : State) : exec (.forceList mb) s = execForceList mb s := rfl
@[simp] theorem exec_axisStep (mb : Mb) (s : State) : exec (.axisStep mb) s = execAxisStep mb s := rfl
@[simp] theorem exec_axisScale (mb : Mb) (s : State) : exec (.axisScale mb) s = execAxisScale mb s := rfl
@[simp] theorem exec_axisSource (mb : Mb) (s : State) : exec (.axisSource mb) s = execAxisSource mb s := rfl
@[simp] theorem exec_trigArm (mb : Mb) (s : State) : exec (.trigArm mb) s = execTrigArm mb s := rfl
@[simp] theorem exec_trigCancel (mb : Mb) (s : State) : exec (.trigCancel mb) s = execTrigCancel mb s := rfl
@[simp] theorem exec_netStatus (mb : Mb) (s : State) : exec (.netStatus mb) s = execNetStatus mb s := rfl
@[simp] theorem exec_slotClaim (mb : Mb) (s : State) : exec (.slotClaim mb) s = execSlotClaim mb s := rfl
@[simp] theorem exec_slotClaimTimeout (mb : Mb) (s : State) : exec (.slotClaimTimeout mb) s = execSlotClaimTimeout mb s := rfl
@[simp] theorem exec_portRelease (mb : Mb) (s : State) : exec (.portRelease mb) s = execPortRelease mb s := rfl
@[simp] theorem exec_ptpStatus (mb : Mb) (s : State) : exec (.ptpStatus mb) s = execPtpStatus mb s := rfl
@[simp] theorem exec_recFlush (mb : Mb) (s : State) : exec (.recFlush mb) s = execRecFlush mb s := rfl
@[simp] theorem exec_recClear (mb : Mb) (s : State) : exec (.recClear mb) s = execRecClear mb s := rfl
@[simp] theorem exec_recInfo (mb : Mb) (s : State) : exec (.recInfo mb) s = execRecInfo mb s := rfl
@[simp] theorem exec_pwrVote (mb : Mb) (s : State) : exec (.pwrVote mb) s = execPwrVote mb s := rfl
@[simp] theorem exec_pwrStatus (mb : Mb) (s : State) : exec (.pwrStatus mb) s = execPwrStatus mb s := rfl
@[simp] theorem exec_dutySet (mb : Mb) (s : State) : exec (.dutySet mb) s = execDutySet mb s := rfl
@[simp] theorem exec_pairStatus (mb : Mb) (s : State) : exec (.pairStatus mb) s = execPairStatus mb s := rfl
@[simp] theorem exec_pairSwitch (mb : Mb) (s : State) : exec (.pairSwitch mb) s = execPairSwitch mb s := rfl
@[simp] theorem exec_pairResync (mb : Mb) (s : State) : exec (.pairResync mb) s = execPairResync mb s := rfl
@[simp] theorem exec_flowOpen (mb : Mb) (s : State) : exec (.flowOpen mb) s = execFlowOpen mb s := rfl
@[simp] theorem exec_flowClose (mb : Mb) (s : State) : exec (.flowClose mb) s = execFlowClose mb s := rfl
@[simp] theorem exec_mixSet (mb : Mb) (s : State) : exec (.mixSet mb) s = execMixSet mb s := rfl
@[simp] theorem exec_chStatus (mb : Mb) (s : State) : exec (.chStatus mb) s = execChStatus mb s := rfl
@[simp] theorem exec_chTest (mb : Mb) (s : State) : exec (.chTest mb) s = execChTest mb s := rfl
@[simp] theorem exec_selftestRun (mb : Mb) (s : State) : exec (.selftestRun mb) s = execSelftestRun mb s := rfl
@[simp] theorem exec_dbgAttach (mb : Mb) (s : State) : exec (.dbgAttach mb) s = execDbgAttach mb s := rfl
@[simp] theorem exec_dbgDetach (mb : Mb) (s : State) : exec (.dbgDetach mb) s = execDbgDetach mb s := rfl
@[simp] theorem exec_laneStatus (mb : Mb) (s : State) : exec (.laneStatus mb) s = execLaneStatus mb s := rfl
@[simp] theorem exec_tunnelOpen (mb : Mb) (s : State) : exec (.tunnelOpen mb) s = execTunnelOpen mb s := rfl
@[simp] theorem exec_tunnelClose (mb : Mb) (s : State) : exec (.tunnelClose mb) s = execTunnelClose mb s := rfl
@[simp] theorem exec_fenceClear (mb : Mb) (s : State) : exec (.fenceClear mb) s = execFenceClear mb s := rfl
@[simp] theorem exec_fenceClearTimeout (mb : Mb) (s : State) : exec (.fenceClearTimeout mb) s = execFenceClearTimeout mb s := rfl
@[simp] theorem exec_badCmd (mb : Mb) (s : State) : exec (.badCmd mb) s = execBadCmd mb s := rfl
@[simp] theorem exec_mbDataWrite (mb : Mb) (src : Source) (w : Word) (drained : Nat) (s : State) : exec (.mbDataWrite mb src w drained) s = execMbDataWrite mb src w drained s := rfl
@[simp] theorem exec_mbDataRead (mb : Mb) (src : Source) (s : State) : exec (.mbDataRead mb src) s = execMbDataRead mb src s := rfl
@[simp] theorem exec_mbCtrlAck (mb : Mb) (src : Source) (s : State) : exec (.mbCtrlAck mb src) s = execMbCtrlAck mb src s := rfl
@[simp] theorem exec_mbCtrlAbort (mb : Mb) (src : Source) (s : State) : exec (.mbCtrlAbort mb src) s = execMbCtrlAbort mb src s := rfl
@[simp] theorem exec_read (addr : BitVec 24) (count : Nat) (tm : HostTiming) (s : State) : exec (.read addr count tm) s = execRead addr count tm s := rfl
@[simp] theorem exec_write (addr : BitVec 24) (words : List Word) (tm : HostTiming) (s : State) : exec (.write addr words tm) s = execWrite addr words tm s := rfl
@[simp] theorem exec_quadRead (addr : BitVec 24) (count : Nat) (tm : HostTiming) (s : State) : exec (.quadRead addr count tm) s = execQuadRead addr count tm s := rfl
@[simp] theorem exec_quadWrite (addr : BitVec 24) (words : List Word) (tm : HostTiming) (s : State) : exec (.quadWrite addr words tm) s = execQuadWrite addr words tm s := rfl
@[simp] theorem exec_status (tm : HostTiming) (s : State) : exec (.status tm) s = execStatus tm s := rfl
@[simp] theorem exec_badOpcode (op : Byte) (s : State) : exec (.badOpcode op) s = execBadOpcode op s := rfl
@[simp] theorem exec_registerWrite (port : Port) (addr : BitVec 24) (w : Word) (s : State) : exec (.registerWrite port addr w) s = execRegisterWrite port addr w s := rfl
@[simp] theorem exec_rcFieldRead (port : Port) (addr : BitVec 24) (s : State) : exec (.rcFieldRead port addr) s = execRcFieldRead port addr s := rfl
@[simp] theorem exec_snap (s : State) : exec (.snap) s = execSnap s := rfl
@[simp] theorem exec_axnValHiRead (n : Fin 4) (s : State) : exec (.axnValHiRead n) s = execAxnValHiRead n s := rfl
@[simp] theorem exec_modHarvestHiRead (s : State) : exec (.modHarvestHiRead) s = execModHarvestHiRead s := rfl
@[simp] theorem exec_mbxnValRead (n : Fin 16) (s : State) : exec (.mbxnValRead n) s = execMbxnValRead n s := rfl
@[simp] theorem exec_recCursorLoWrite (port : Port) (w : Word) (s : State) : exec (.recCursorLoWrite port w) s = execRecCursorLoWrite port w s := rfl
@[simp] theorem exec_recDataRead (port : Port) (s : State) : exec (.recDataRead port) s = execRecDataRead port s := rfl
@[simp] theorem exec_fltCursorLoWrite (port : Port) (w : Word) (s : State) : exec (.fltCursorLoWrite port w) s = execFltCursorLoWrite port w s := rfl
@[simp] theorem exec_fltLogDataRead (port : Port) (s : State) : exec (.fltLogDataRead port) s = execFltLogDataRead port s := rfl
@[simp] theorem exec_clear (s : State) : exec (.clear) s = execClear s := rfl
@[simp] theorem exec_brLogDataRead (s : State) : exec (.brLogDataRead) s = execBrLogDataRead s := rfl
@[simp] theorem exec_brPagenCfgWrite (n : Fin 16) (w : Word) (s : State) : exec (.brPagenCfgWrite n w) s = execBrPagenCfgWrite n w s := rfl
@[simp] theorem exec_remoteWindowRead (addr : BitVec 24) (count : Nat) (s : State) : exec (.remoteWindowRead addr count) s = execRemoteWindowRead addr count s := rfl
@[simp] theorem exec_remoteWindowWrite (addr : BitVec 24) (words : List Word) (s : State) : exec (.remoteWindowWrite addr words) s = execRemoteWindowWrite addr words s := rfl
@[simp] theorem exec_post (addr : BitVec 24) (words : List Word) (s : State) : exec (.post addr words) s = execPost addr words s := rfl
@[simp] theorem exec_timingTick (s : State) : exec (.timingTick) s = execTimingTick s := rfl
@[simp] theorem exec_triggerFiring (n : Fin 64) (s : State) : exec (.triggerFiring n) s = execTriggerFiring n s := rfl
@[simp] theorem exec_release (t : Fin 16) (s : State) : exec (.release t) s = execRelease t s := rfl
@[simp] theorem exec_timingInputEdge (ti : Fin 4) (rising : Bool) (width : Nat) (both : Bool) (half : Bool) (s : State) : exec (.timingInputEdge ti rising width both half) s = execTimingInputEdge ti rising width both half s := rfl
@[simp] theorem exec_zeroCrossing (ch : Fin 16) (s : State) : exec (.zeroCrossing ch) s = execZeroCrossing ch s := rfl
@[simp] theorem exec_lost (s : State) : exec (.lost) s = execLost s := rfl
@[simp] theorem exec_holdoverLimit (s : State) : exec (.holdoverLimit) s = execHoldoverLimit s := rfl
@[simp] theorem exec_releaseStampArrival (a : StampArrival) (s : State) : exec (.releaseStampArrival a) s = execReleaseStampArrival a s := rfl
@[simp] theorem exec_panDispatch (l : Lane) (block pan : Fin 16) (xbar : Xbar) (s : State) : exec (.panDispatch l block pan xbar) s = execPanDispatch l block pan xbar s := rfl
@[simp] theorem exec_instanceCommit (l : Lane) (block pan : Fin 16) (agree : Bool) (xbar : Xbar) (s : State) : exec (.instanceCommit l block pan agree xbar) s = execInstanceCommit l block pan agree xbar s := rfl
@[simp] theorem exec_wakeMessage (l : Lane) (k : Nat) (xbar : Xbar) (s : State) : exec (.wakeMessage l k xbar) s = execWakeMessage l k xbar s := rfl
@[simp] theorem exec_commitTimeout (l : Lane) (block pan : Fin 16) (s : State) : exec (.commitTimeout l block pan) s = execCommitTimeout l block pan s := rfl
@[simp] theorem exec_eccError (l : Lane) (mem : LaneMem) (block : Fin 16) (addr : Nat) (fixed : Bool) (s : State) : exec (.eccError l mem block addr fixed) s = execEccError l mem block addr fixed s := rfl
@[simp] theorem exec_taskWatchdogExpiry (l : Lane) (t : Fin 16) (s : State) : exec (.taskWatchdogExpiry l t) s = execTaskWatchdogExpiry l t s := rfl
@[simp] theorem exec_laneFrameArrival (p : Party) (l : Lane) (t : Fin 16) (fate : FrameFate) (s : State) : exec (.laneFrameArrival p l t fate) s = execLaneFrameArrival p l t fate s := rfl
@[simp] theorem exec_voteDeadline (p : Party) (t : Fin 16) (s : State) : exec (.voteDeadline p t) s = execVoteDeadline p t s := rfl
@[simp] theorem exec_comparatorNoVerdict (p : Party) (t : Fin 16) (s : State) : exec (.comparatorNoVerdict p t) s = execComparatorNoVerdict p t s := rfl
@[simp] theorem exec_checkpointPage (fate : PageFate) (s : State) : exec (.checkpointPage fate) s = execCheckpointPage fate s := rfl
@[simp] theorem exec_retainedWrite (s : State) : exec (.retainedWrite) s = execRetainedWrite s := rfl
@[simp] theorem exec_restartSelftestDone (l : Lane) (fail : Option Nat) (retired : List (Fin 16 × Fin 16)) (s : State) : exec (.restartSelftestDone l fail retired) s = execRestartSelftestDone l fail retired s := rfl
@[simp] theorem exec_checkpointLoadDone (s : State) : exec (.checkpointLoadDone) s = execCheckpointLoadDone s := rfl
@[simp] theorem exec_resetHoldExpiry (l : Lane) (s : State) : exec (.resetHoldExpiry l) s = execResetHoldExpiry l s := rfl
@[simp] theorem exec_rejoinLoadDone (l : Lane) (ok : Bool) (s : State) : exec (.rejoinLoadDone l ok) s = execRejoinLoadDone l ok s := rfl
@[simp] theorem exec_injectionTestTimer (s : State) : exec (.injectionTestTimer) s = execInjectionTestTimer s := rfl
@[simp] theorem exec_injectionTestResult (seen : List InjectSeen) (s : State) : exec (.injectionTestResult seen) s = execInjectionTestResult seen s := rfl
@[simp] theorem exec_ackEdge (rcv : AckReceiver) (src : AckSource) (highNs : Nat) (stepped : Bool) (s : State) : exec (.ackEdge rcv src highNs stepped) s = execAckEdge rcv src highNs stepped s := rfl
@[simp] theorem exec_ackReport (l : Lane) (src : AckSource) (s : State) : exec (.ackReport l src) s = execAckReport l src s := rfl
@[simp] theorem exec_ackJammed (rcv : AckReceiver) (src : AckSource) (s : State) : exec (.ackJammed rcv src) s = execAckJammed rcv src s := rfl
@[simp] theorem exec_ackJamClear (src : AckSource) (s : State) : exec (.ackJamClear src) s = execAckJamClear src s := rfl
@[simp] theorem exec_safeTelegramReceive (p : Plane) (bytes : List Byte) (s : State) : exec (.safeTelegramReceive p bytes) s = execSafeTelegramReceive p bytes s := rfl
@[simp] theorem exec_stagingComplete (same : List (Lane × Bool)) (s : State) : exec (.stagingComplete same) s = execStagingComplete same s := rfl
@[simp] theorem exec_switchWithoutRelease (t : Fin 16) (s : State) : exec (.switchWithoutRelease t) s = execSwitchWithoutRelease t s := rfl
@[simp] theorem exec_bankDigestReport (l : Lane) (same : Bool) (s : State) : exec (.bankDigestReport l same) s = execBankDigestReport l same s := rfl
@[simp] theorem exec_sampleStrobe (mv : List Nat) (ma : List Nat) (s : State) : exec (.sampleStrobe mv ma) s = execSampleStrobe mv ma s := rfl
@[simp] theorem exec_stuck (ch : Fin 32) (s : State) : exec (.stuck ch) s = execStuck ch s := rfl
@[simp] theorem exec_sampleFrameReceive (l : Lane) (good : Bool) (s : State) : exec (.sampleFrameReceive l good) s = execSampleFrameReceive l good s := rfl
@[simp] theorem exec_driveFrameSend (l : Lane) (s : State) : exec (.driveFrameSend l) s = execDriveFrameSend l s := rfl
@[simp] theorem exec_driveFrameReceive (l : Lane) (good : Bool) (s : State) : exec (.driveFrameReceive l good) s = execDriveFrameReceive l good s := rfl
@[simp] theorem exec_driveLinkTimeout (l : Lane) (s : State) : exec (.driveLinkTimeout l) s = execDriveLinkTimeout l s := rfl
@[simp] theorem exec_disagree (ch : Fin 32) (times : DisagreeTimes) (s : State) : exec (.disagree ch times) s = execDisagree ch times s := rfl
@[simp] theorem exec_supplyFault (g : Grp) (s : State) : exec (.supplyFault g) s = execSupplyFault g s := rfl
@[simp] theorem exec_supplyGood (g : Grp) (s : State) : exec (.supplyGood g) s = execSupplyGood g s := rfl
@[simp] theorem exec_groupOverload (g : Grp) (s : State) : exec (.groupOverload g) s = execGroupOverload g s := rfl
@[simp] theorem exec_overload (ch : Fin 32) (limit : Bool) (s : State) : exec (.overload ch limit) s = execOverload ch limit s := rfl
@[simp] theorem exec_overtemp (ch : Fin 32) (s : State) : exec (.overtemp ch) s = execOvertemp ch s := rfl
@[simp] theorem exec_tripLatchClear (ch : Fin 32) (retry : Bool) (cool : Bool) (s : State) : exec (.tripLatchClear ch retry cool) s = execTripLatchClear ch retry cool s := rfl
@[simp] theorem exec_openWire (ch : Fin 32) (seen : OpenSense) (s : State) : exec (.openWire ch seen) s = execOpenWire ch seen s := rfl
@[simp] theorem exec_rbErr (ch : Fin 32) (wrong : Bool) (s : State) : exec (.rbErr ch wrong) s = execRbErr ch wrong s := rfl
@[simp] theorem exec_testPeriod (l : Lane) (ch : Fin 32) (s : State) : exec (.testPeriod l ch) s = execTestPeriod l ch s := rfl
@[simp] theorem exec_testWidthExpiry (ch : Fin 32) (s : State) : exec (.testWidthExpiry ch) s = execTestWidthExpiry ch s := rfl
@[simp] theorem exec_testOverdue (ch : Fin 32) (s : State) : exec (.testOverdue ch) s = execTestOverdue ch s := rfl
@[simp] theorem exec_gswTest (g : Grp) (phase : GswPhase) (s : State) : exec (.gswTest g phase) s = execGswTest g phase s := rfl
@[simp] theorem exec_modStuck (ch : Fin 16) (s : State) : exec (.modStuck ch) s = execModStuck ch s := rfl
@[simp] theorem exec_measurementBlock (ch : Fin 16) (bits : List Bool) (s : State) : exec (.measurementBlock ch bits) s = execMeasurementBlock ch bits s := rfl
@[simp] theorem exec_mixerFrame (bits : List (Fin 16 × List Bool)) (tdmi : List Word) (s : State) : exec (.mixerFrame bits tdmi) s = execMixerFrame bits tdmi s := rfl
@[simp] theorem exec_flowPacketReceive (node : Nat) (body : List Byte) (s : State) : exec (.flowPacketReceive node body) s = execFlowPacketReceive node body s := rfl
@[simp] theorem exec_flovisFrameIngress (port : Fin 9) (bytes : List Byte) (s : State) : exec (.flovisFrameIngress port bytes) s = execFlovisFrameIngress port bytes s := rfl
@[simp] theorem exec_frameCut (port : Fin 9) (slotEnd : Bool) (s : State) : exec (.frameCut port slotEnd) s = execFrameCut port slotEnd s := rfl
@[simp] theorem exec_quarantineEnd (port : Fin 9) (s : State) : exec (.quarantineEnd port) s = execQuarantineEnd port s := rfl
@[simp] theorem exec_flovisFrameReceive (p : Plane) (bytes : List Byte) (s : State) : exec (.flovisFrameReceive p bytes) s = execFlovisFrameReceive p bytes s := rfl
@[simp] theorem exec_referenceReceive (p : Plane) (bytes : List Byte) (s : State) : exec (.referenceReceive p bytes) s = execReferenceReceive p bytes s := rfl
@[simp] theorem exec_coldstartReceive (p : Plane) (bytes : List Byte) (s : State) : exec (.coldstartReceive p bytes) s = execColdstartReceive p bytes s := rfl
@[simp] theorem exec_listenTimerExpiry (s : State) : exec (.listenTimerExpiry) s = execListenTimerExpiry s := rfl
@[simp] theorem exec_contentionEnd (s : State) : exec (.contentionEnd) s = execContentionEnd s := rfl
@[simp] theorem exec_referenceLoss (p : Option Plane) (s : State) : exec (.referenceLoss p) s = execReferenceLoss p s := rfl
@[simp] theorem exec_slotTransmit (slot : Nat) (s : State) : exec (.slotTransmit slot) s = execSlotTransmit slot s := rfl
@[simp] theorem exec_rankDeadline (p : Plane) (s : State) : exec (.rankDeadline p) s = execRankDeadline p s := rfl
@[simp] theorem exec_delayReq (port : Fin 9) (s : State) : exec (.delayReq port) s = execDelayReq port s := rfl
@[simp] theorem exec_delayResp (port : Fin 9) (bytes : List Byte) (s : State) : exec (.delayResp port bytes) s = execDelayResp port bytes s := rfl
@[simp] theorem exec_claim (port : Fin 9) (bytes : List Byte) (s : State) : exec (.claim port bytes) s = execClaim port bytes s := rfl
@[simp] theorem exec_grant (p : Plane) (bytes : List Byte) (s : State) : exec (.grant p bytes) s = execGrant p bytes s := rfl
@[simp] theorem exec_leaseLapse (p : Plane) (slot : Nat) (s : State) : exec (.leaseLapse p slot) s = execLeaseLapse p slot s := rfl
@[simp] theorem exec_scheduleSwitch (s : State) : exec (.scheduleSwitch) s = execScheduleSwitch s := rfl
@[simp] theorem exec_ptpSync (m : PtpSyncMsg) (s : State) : exec (.ptpSync m) s = execPtpSync m s := rfl
@[simp] theorem exec_ptpDelayResp (m : PtpDelayMsg) (s : State) : exec (.ptpDelayResp m) s = execPtpDelayResp m s := rfl
@[simp] theorem exec_announce (m : PtpAnnounceMsg) (s : State) : exec (.announce m) s = execAnnounce m s := rfl
@[simp] theorem exec_announceReceiptTimeout (s : State) : exec (.announceReceiptTimeout) s = execAnnounceReceiptTimeout s := rfl
@[simp] theorem exec_portAltMove (s : State) : exec (.portAltMove) s = execPortAltMove s := rfl
@[simp] theorem exec_portReturn (s : State) : exec (.portReturn) s = execPortReturn s := rfl
@[simp] theorem exec_ptpMasterSend (isAnnounce : Bool) (s : State) : exec (.ptpMasterSend isAnnounce) s = execPtpMasterSend isAnnounce s := rfl
@[simp] theorem exec_topology (line : Fin 2) (m : TopologyMsg) (s : State) : exec (.topology line m) s = execTopology line m s := rfl
@[simp] theorem exec_topologyTimeout (s : State) : exec (.topologyTimeout) s = execTopologyTimeout s := rfl
@[simp] theorem exec_trdpPdReceive (line : Fin 3) (h : PdHeader) (data : List Byte) (s : State) : exec (.trdpPdReceive line h data) s = execTrdpPdReceive line h data s := rfl
@[simp] theorem exec_trdpPrReceive (line : Fin 3) (src : Word) (h : PdHeader) (s : State) : exec (.trdpPrReceive line src h) s = execTrdpPrReceive line src h s := rfl
@[simp] theorem exec_trdpPublish (g : Nat) (s : State) : exec (.trdpPublish g) s = execTrdpPublish g s := rfl
@[simp] theorem exec_trdpMrReceive (src : Word) (comId : Word) (data : MdData) (s : State) : exec (.trdpMrReceive src comId data) s = execTrdpMrReceive src comId data s := rfl
@[simp] theorem exec_trdpMnReceive (src : Word) (comId : Word) (data : MdData) (s : State) : exec (.trdpMnReceive src comId data) s = execTrdpMnReceive src comId data s := rfl
@[simp] theorem exec_freshnessEvaluation (s : State) : exec (.freshnessEvaluation) s = execFreshnessEvaluation s := rfl
@[simp] theorem exec_arpExpiry (ip : Word) (unresolved : Bool) (s : State) : exec (.arpExpiry ip unresolved) s = execArpExpiry ip unresolved s := rfl
@[simp] theorem exec_reassemblyTimeout (id : Nat) (s : State) : exec (.reassemblyTimeout id) s = execReassemblyTimeout id s := rfl
@[simp] theorem exec_inboundRequest (node : Nat) (body : List Byte) (s : State) : exec (.inboundRequest node body) s = execInboundRequest node body s := rfl
@[simp] theorem exec_remoteAccessResponse (node : Nat) (body : List Byte) (s : State) : exec (.remoteAccessResponse node body) s = execRemoteAccessResponse node body s := rfl
@[simp] theorem exec_credit (node : Nat) (body : List Byte) (s : State) : exec (.credit node body) s = execCredit node body s := rfl
@[simp] theorem exec_resync (node : Nat) (tag : Nat) (s : State) : exec (.resync node tag) s = execResync node tag s := rfl
@[simp] theorem exec_resyncDone (node : Nat) (tag : Nat) (s : State) : exec (.resyncDone node tag) s = execResyncDone node tag s := rfl
@[simp] theorem exec_reqTimeout (what : BridgeWait) (s : State) : exec (.reqTimeout what) s = execReqTimeout what s := rfl
@[simp] theorem exec_discardMs (entry : Fin 16) (s : State) : exec (.discardMs entry) s = execDiscardMs entry s := rfl
@[simp] theorem exec_seqGap (node : Nat) (s : State) : exec (.seqGap node) s = execSeqGap node s := rfl
@[simp] theorem exec_foreignFrameReceive (iface : Fin 4) (f : ForeignFrame) (ago : Nat) (s : State) : exec (.foreignFrameReceive iface f ago) s = execForeignFrameReceive iface f ago s := rfl
@[simp] theorem exec_tunnelContainerReceive (node : Nat) (body : List Byte) (s : State) : exec (.tunnelContainerReceive node body) s = execTunnelContainerReceive node body s := rfl
@[simp] theorem exec_replay (ep : Fin 32) (ok : Bool) (s : State) : exec (.replay ep ok) s = execReplay ep ok s := rfl
@[simp] theorem exec_busOff (iface : Fin 4) (entered : Bool) (s : State) : exec (.busOff iface entered) s = execBusOff iface entered s := rfl
@[simp] theorem exec_recorderFiring (s : State) : exec (.recorderFiring) s = execRecorderFiring s := rfl
@[simp] theorem exec_stagedMove (s : State) : exec (.stagedMove) s = execStagedMove s := rfl
@[simp] theorem exec_flushStart (s : State) : exec (.flushStart) s = execFlushStart s := rfl
@[simp] theorem exec_flushRecordWritten (s : State) : exec (.flushRecordWritten) s = execFlushRecordWritten s := rfl
@[simp] theorem exec_recordAge (s : State) : exec (.recordAge) s = execRecordAge s := rfl
@[simp] theorem exec_faultRecord (f : FaultIn) (s : State) : exec (.faultRecord f) s = execFaultRecord f s := rfl
@[simp] theorem exec_faultHandle (r : Region) (hold w1 w2 : Bool) (s : State) : exec (.faultHandle r hold w1 w2) s = execFaultHandle r hold w1 w2 s := rfl
@[simp] theorem exec_supervisorWatchdog (s : State) : exec (.supervisorWatchdog) s = execSupervisorWatchdog s := rfl
@[simp] theorem exec_ledgerImbalance (row : Fin 9) (s : State) : exec (.ledgerImbalance row) s = execLedgerImbalance row s := rfl
@[simp] theorem exec_powerFail (vsys : Bool) (s : State) : exec (.powerFail vsys) s = execPowerFail vsys s := rfl
@[simp] theorem exec_powerReturn (vsysMv : Nat) (s : State) : exec (.powerReturn vsysMv) s = execPowerReturn vsysMv s := rfl
@[simp] theorem exec_domainShedStep (s : State) : exec (.domainShedStep) s = execDomainShedStep s := rfl
@[simp] theorem exec_domainRestore (res : RestoreResult) (s : State) : exec (.domainRestore res) s = execDomainRestore res s := rfl
@[simp] theorem exec_minOnExpiry (d : Fin 5) (s : State) : exec (.minOnExpiry d) s = execMinOnExpiry d s := rfl
@[simp] theorem exec_wakePortStop (tx : WakeTx) (s : State) : exec (.wakePortStop tx) s = execWakePortStop tx s := rfl
@[simp] theorem exec_wakeInput (ch : Fin 8) (s : State) : exec (.wakeInput ch) s = execWakeInput ch s := rfl
@[simp] theorem exec_wakeStuckClear (ch : Fin 8) (s : State) : exec (.wakeStuckClear ch) s = execWakeStuckClear ch s := rfl
@[simp] theorem exec_aonTick (s : State) : exec (.aonTick) s = execAonTick s := rfl
@[simp] theorem exec_wakeFrame (payload : List Byte) (s : State) : exec (.wakeFrame payload) s = execWakeFrame payload s := rfl
@[simp] theorem exec_wakeHoldExpiry (s : State) : exec (.wakeHoldExpiry) s = execWakeHoldExpiry s := rfl
@[simp] theorem exec_dutyWatchCycle (mv : List (List Nat)) (bits : List Bool) (s : State) : exec (.dutyWatchCycle mv bits) s = execDutyWatchCycle mv bits s := rfl
@[simp] theorem exec_partnerVoteLoss (s : State) : exec (.partnerVoteLoss) s = execPartnerVoteLoss s := rfl
@[simp] theorem exec_firmwareVerified (ok0 ok1 : Bool) (s : State) : exec (.firmwareVerified ok0 ok1) s = execFirmwareVerified ok0 ok1 s := rfl
@[simp] theorem exec_supervisorStart (strapPrimary : Bool) (s : State) : exec (.supervisorStart strapPrimary) s = execSupervisorStart strapPrimary s := rfl
@[simp] theorem exec_objectVerification (s : State) : exec (.objectVerification) s = execObjectVerification s := rfl
@[simp] theorem exec_laneRelease (s : State) : exec (.laneRelease) s = execLaneRelease s := rfl
@[simp] theorem exec_programLoadDone (fails : List Lane) (s : State) : exec (.programLoadDone fails) s = execProgramLoadDone fails s := rfl
@[simp] theorem exec_retainedRestore (s : State) : exec (.retainedRestore) s = execRetainedRestore s := rfl
@[simp] theorem exec_admission (s : State) : exec (.admission) s = execAdmission s := rfl
@[simp] theorem exec_stageTimeLimit (s : State) : exec (.stageTimeLimit) s = execStageTimeLimit s := rfl
@[simp] theorem exec_jtagTrstHigh (high : Bool) (s : State) : exec (.jtagTrstHigh high) s = execJtagTrstHigh high s := rfl
@[simp] theorem exec_hello (h : JaranHead) (m : List Byte) (s : State) : exec (.hello h m) s = execHello h m s := rfl
@[simp] theorem exec_heartbeat (h : JaranHead) (m : List Byte) (s : State) : exec (.heartbeat h m) s = execHeartbeat h m s := rfl
@[simp] theorem exec_imageFrame (h : JaranHead) (m : ImageMsg) (s : State) : exec (.imageFrame h m) s = execImageFrame h m s := rfl
@[simp] theorem exec_outputFrame (h : JaranHead) (m : OutputMsg) (s : State) : exec (.outputFrame h m) s = execOutputFrame h m s := rfl
@[simp] theorem exec_pageFrame (h : JaranHead) (m : List Byte) (s : State) : exec (.pageFrame h m) s = execPageFrame h m s := rfl
@[simp] theorem exec_switchFrame (h : JaranHead) (rel reason : Nat) (s : State) : exec (.switchFrame h rel reason) s = execSwitchFrame h rel reason s := rfl
@[simp] theorem exec_switchAck (h : JaranHead) (rel : Nat) (s : State) : exec (.switchAck h rel) s = execSwitchAck h rel s := rfl
@[simp] theorem exec_switchAckTimeout (s : State) : exec (.switchAckTimeout) s = execSwitchAckTimeout s := rfl
@[simp] theorem exec_jaranResync (h : JaranHead) (mask : BitVec 16) (s : State) : exec (.jaranResync h mask) s = execJaranResync h mask s := rfl
@[simp] theorem exec_jaranCopy (s : State) : exec (.jaranCopy) s = execJaranCopy s := rfl
@[simp] theorem exec_linkDown (s : State) : exec (.linkDown) s = execLinkDown s := rfl
@[simp] theorem exec_linkUp (s : State) : exec (.linkUp) s = execLinkUp s := rfl
@[simp] theorem exec_roleTimeout (s : State) : exec (.roleTimeout) s = execRoleTimeout s := rfl
@[simp] theorem exec_takeover (s : State) : exec (.takeover) s = execTakeover s := rfl
@[simp] theorem exec_laneThermalTrip (l : Lane) (s : State) : exec (.laneThermalTrip l) s = execLaneThermalTrip l s := rfl
@[simp] theorem exec_outputBudgetExpiry (t : Fin 16) (s : State) : exec (.outputBudgetExpiry t) s = execOutputBudgetExpiry t s := rfl
@[simp] theorem exec_laneJunctionCooled (l : Lane) (s : State) : exec (.laneJunctionCooled l) s = execLaneJunctionCooled l s := rfl
@[simp] theorem exec_ethernetLinkChange (port : Fin 11) (speed : Nat) (s : State) : exec (.ethernetLinkChange port speed) s = execEthernetLinkChange port speed s := rfl
@[simp] theorem exec_modStuckClear (ch : Fin 16) (s : State) : exec (.modStuckClear ch) s = execModStuckClear ch s := rfl
@[simp] theorem exec_openAgeExpiry (desc : Nat) (s : State) : exec (.openAgeExpiry desc) s = execOpenAgeExpiry desc s := rfl
@[simp] theorem exec_egressCopyLeft (e : EgressEnd) (s : State) : exec (.egressCopyLeft e) s = execEgressCopyLeft e s := rfl
@[simp] theorem exec_ptpDelayRequestReceive (port : Nat) (req : PtpReq) (t : DWord) (s : State) : exec (.ptpDelayRequestReceive port req t) s = execPtpDelayRequestReceive port req t s := rfl
@[simp] theorem exec_delayReqReceive (port : Fin 9) (bytes : List Byte) (s : State) : exec (.delayReqReceive port bytes) s = execDelayReqReceive port bytes s := rfl
@[simp] theorem exec_arpFrame (request : Bool) (ip target : Word) (mac : BitVec 48) (s : State) : exec (.arpFrame request ip target mac) s = execArpFrame request ip target mac s := rfl
@[simp] theorem exec_icmpEchoRequest (src dst : Word) (data : EchoMsg) (s : State) : exec (.icmpEchoRequest src dst data) s = execIcmpEchoRequest src dst data s := rfl
@[simp] theorem exec_igmpQuery (line : Fin 3) (s : State) : exec (.igmpQuery line) s = execIgmpQuery line s := rfl
@[simp] theorem exec_rejoinSelftestDone (l : Lane) (fail : Option Nat) (retired : List (Fin 16 × Fin 16)) (s : State) : exec (.rejoinSelftestDone l fail retired) s = execRejoinSelftestDone l fail retired s := rfl
@[simp] theorem exec_loneAckReport (src : AckSource) (s : State) : exec (.loneAckReport src) s = execLoneAckReport src s := rfl
@[simp] theorem exec_jaranBadCrc (s : State) : exec (.jaranBadCrc) s = execJaranBadCrc s := rfl
@[simp] theorem exec_helloSend (s : State) : exec (.helloSend) s = execHelloSend s := rfl
@[simp] theorem exec_hubThermalTrip (s : State) : exec (.hubThermalTrip) s = execHubThermalTrip s := rfl
@[simp] theorem exec_vholdExhausted (s : State) : exec (.vholdExhausted) s = execVholdExhausted s := rfl
@[simp] theorem exec_ptpDelayRequestSend (s : State) : exec (.ptpDelayRequestSend) s = execPtpDelayRequestSend s := rfl
@[simp] theorem exec_forceAcknowledge (s : State) : exec (.forceAcknowledge) s = execForceAcknowledge s := rfl
@[simp] theorem exec_supervisorRestarted (s : State) : exec (.supervisorRestarted) s = execSupervisorRestarted s := rfl

end Sys2Proof.Machine
end

