-- ==== Sys2Proof/Laws/State.lean ====
section
/-! SUPPORT. What each update of one part of State leaves alone: one lemma per field, true by unfolding, so that no later proof
unfolds a record update. -/
namespace Sys2Proof.Machine

/-! ### modLane -/

@[simp] theorem modLane_tim (s : State) (l : Lane) (f : LaneSt → LaneSt) : (modLane s l f).tim = s.tim := rfl
@[simp] theorem modLane_hubt (s : State) (l : Lane) (f : LaneSt → LaneSt) : (modLane s l f).hubt = s.hubt := rfl
@[simp] theorem modLane_conns (s : State) (l : Lane) (f : LaneSt → LaneSt) : (modLane s l f).conns = s.conns := rfl
@[simp] theorem modLane_vote (s : State) (l : Lane) (f : LaneSt → LaneSt) : (modLane s l f).vote = s.vote := rfl
@[simp] theorem modLane_field (s : State) (l : Lane) (f : LaneSt → LaneSt) : (modLane s l f).field = s.field := rfl
@[simp] theorem modLane_snd (s : State) (l : Lane) (f : LaneSt → LaneSt) : (modLane s l f).snd = s.snd := rfl
@[simp] theorem modLane_modu (s : State) (l : Lane) (f : LaneSt → LaneSt) : (modLane s l f).modu = s.modu := rfl
@[simp] theorem modLane_prog (s : State) (l : Lane) (f : LaneSt → LaneSt) : (modLane s l f).prog = s.prog := rfl
@[simp] theorem modLane_progNew (s : State) (l : Lane) (f : LaneSt → LaneSt) : (modLane s l f).progNew = s.progNew := rfl
@[simp] theorem modLane_bank (s : State) (l : Lane) (f : LaneSt → LaneSt) : (modLane s l f).bank = s.bank := rfl
@[simp] theorem modLane_ack (s : State) (l : Lane) (f : LaneSt → LaneSt) : (modLane s l f).ack = s.ack := rfl
@[simp] theorem modLane_safe (s : State) (l : Lane) (f : LaneSt → LaneSt) : (modLane s l f).safe = s.safe := rfl
@[simp] theorem modLane_xch (s : State) (l : Lane) (f : LaneSt → LaneSt) : (modLane s l f).xch = s.xch := rfl
@[simp] theorem modLane_recd (s : State) (l : Lane) (f : LaneSt → LaneSt) : (modLane s l f).recd = s.recd := rfl
@[simp] theorem modLane_flt (s : State) (l : Lane) (f : LaneSt → LaneSt) : (modLane s l f).flt = s.flt := rfl
@[simp] theorem modLane_hp (s : State) (l : Lane) (f : LaneSt → LaneSt) : (modLane s l f).hp = s.hp := rfl
@[simp] theorem modLane_pwr (s : State) (l : Lane) (f : LaneSt → LaneSt) : (modLane s l f).pwr = s.pwr := rfl
@[simp] theorem modLane_bring (s : State) (l : Lane) (f : LaneSt → LaneSt) : (modLane s l f).bring = s.bring := rfl
@[simp] theorem modLane_net (s : State) (l : Lane) (f : LaneSt → LaneSt) : (modLane s l f).net = s.net := rfl
@[simp] theorem modLane_train (s : State) (l : Lane) (f : LaneSt → LaneSt) : (modLane s l f).train = s.train := rfl
@[simp] theorem modLane_br (s : State) (l : Lane) (f : LaneSt → LaneSt) : (modLane s l f).br = s.br := rfl
@[simp] theorem modLane_pair (s : State) (l : Lane) (f : LaneSt → LaneSt) : (modLane s l f).pair = s.pair := rfl
@[simp] theorem modLane_out (s : State) (l : Lane) (f : LaneSt → LaneSt) : (modLane s l f).out = s.out := rfl
@[simp] theorem modLane_pending (s : State) (l : Lane) (f : LaneSt → LaneSt) : (modLane s l f).pending = s.pending := rfl

/-! ### modLanes -/

@[simp] theorem modLanes_tim (s : State) (f : Lane → LaneSt → LaneSt) : (modLanes s f).tim = s.tim := rfl
@[simp] theorem modLanes_hubt (s : State) (f : Lane → LaneSt → LaneSt) : (modLanes s f).hubt = s.hubt := rfl
@[simp] theorem modLanes_conns (s : State) (f : Lane → LaneSt → LaneSt) : (modLanes s f).conns = s.conns := rfl
@[simp] theorem modLanes_vote (s : State) (f : Lane → LaneSt → LaneSt) : (modLanes s f).vote = s.vote := rfl
@[simp] theorem modLanes_field (s : State) (f : Lane → LaneSt → LaneSt) : (modLanes s f).field = s.field := rfl
@[simp] theorem modLanes_snd (s : State) (f : Lane → LaneSt → LaneSt) : (modLanes s f).snd = s.snd := rfl
@[simp] theorem modLanes_modu (s : State) (f : Lane → LaneSt → LaneSt) : (modLanes s f).modu = s.modu := rfl
@[simp] theorem modLanes_prog (s : State) (f : Lane → LaneSt → LaneSt) : (modLanes s f).prog = s.prog := rfl
@[simp] theorem modLanes_progNew (s : State) (f : Lane → LaneSt → LaneSt) : (modLanes s f).progNew = s.progNew := rfl
@[simp] theorem modLanes_bank (s : State) (f : Lane → LaneSt → LaneSt) : (modLanes s f).bank = s.bank := rfl
@[simp] theorem modLanes_ack (s : State) (f : Lane → LaneSt → LaneSt) : (modLanes s f).ack = s.ack := rfl
@[simp] theorem modLanes_safe (s : State) (f : Lane → LaneSt → LaneSt) : (modLanes s f).safe = s.safe := rfl
@[simp] theorem modLanes_xch (s : State) (f : Lane → LaneSt → LaneSt) : (modLanes s f).xch = s.xch := rfl
@[simp] theorem modLanes_recd (s : State) (f : Lane → LaneSt → LaneSt) : (modLanes s f).recd = s.recd := rfl
@[simp] theorem modLanes_flt (s : State) (f : Lane → LaneSt → LaneSt) : (modLanes s f).flt = s.flt := rfl
@[simp] theorem modLanes_hp (s : State) (f : Lane → LaneSt → LaneSt) : (modLanes s f).hp = s.hp := rfl
@[simp] theorem modLanes_pwr (s : State) (f : Lane → LaneSt → LaneSt) : (modLanes s f).pwr = s.pwr := rfl
@[simp] theorem modLanes_bring (s : State) (f : Lane → LaneSt → LaneSt) : (modLanes s f).bring = s.bring := rfl
@[simp] theorem modLanes_net (s : State) (f : Lane → LaneSt → LaneSt) : (modLanes s f).net = s.net := rfl
@[simp] theorem modLanes_train (s : State) (f : Lane → LaneSt → LaneSt) : (modLanes s f).train = s.train := rfl
@[simp] theorem modLanes_br (s : State) (f : Lane → LaneSt → LaneSt) : (modLanes s f).br = s.br := rfl
@[simp] theorem modLanes_pair (s : State) (f : Lane → LaneSt → LaneSt) : (modLanes s f).pair = s.pair := rfl
@[simp] theorem modLanes_out (s : State) (f : Lane → LaneSt → LaneSt) : (modLanes s f).out = s.out := rfl
@[simp] theorem modLanes_pending (s : State) (f : Lane → LaneSt → LaneSt) : (modLanes s f).pending = s.pending := rfl

/-! ### modLaneTask -/

@[simp] theorem modLaneTask_tim (s : State) (l : Lane) (t : Nat) (f : LaneTask → LaneTask) : (modLaneTask s l t f).tim = s.tim := rfl
@[simp] theorem modLaneTask_hubt (s : State) (l : Lane) (t : Nat) (f : LaneTask → LaneTask) : (modLaneTask s l t f).hubt = s.hubt := rfl
@[simp] theorem modLaneTask_conns (s : State) (l : Lane) (t : Nat) (f : LaneTask → LaneTask) : (modLaneTask s l t f).conns = s.conns := rfl
@[simp] theorem modLaneTask_vote (s : State) (l : Lane) (t : Nat) (f : LaneTask → LaneTask) : (modLaneTask s l t f).vote = s.vote := rfl
@[simp] theorem modLaneTask_field (s : State) (l : Lane) (t : Nat) (f : LaneTask → LaneTask) : (modLaneTask s l t f).field = s.field := rfl
@[simp] theorem modLaneTask_snd (s : State) (l : Lane) (t : Nat) (f : LaneTask → LaneTask) : (modLaneTask s l t f).snd = s.snd := rfl
@[simp] theorem modLaneTask_modu (s : State) (l : Lane) (t : Nat) (f : LaneTask → LaneTask) : (modLaneTask s l t f).modu = s.modu := rfl
@[simp] theorem modLaneTask_prog (s : State) (l : Lane) (t : Nat) (f : LaneTask → LaneTask) : (modLaneTask s l t f).prog = s.prog := rfl
@[simp] theorem modLaneTask_progNew (s : State) (l : Lane) (t : Nat) (f : LaneTask → LaneTask) : (modLaneTask s l t f).progNew = s.progNew := rfl
@[simp] theorem modLaneTask_bank (s : State) (l : Lane) (t : Nat) (f : LaneTask → LaneTask) : (modLaneTask s l t f).bank = s.bank := rfl
@[simp] theorem modLaneTask_ack (s : State) (l : Lane) (t : Nat) (f : LaneTask → LaneTask) : (modLaneTask s l t f).ack = s.ack := rfl
@[simp] theorem modLaneTask_safe (s : State) (l : Lane) (t : Nat) (f : LaneTask → LaneTask) : (modLaneTask s l t f).safe = s.safe := rfl
@[simp] theorem modLaneTask_xch (s : State) (l : Lane) (t : Nat) (f : LaneTask → LaneTask) : (modLaneTask s l t f).xch = s.xch := rfl
@[simp] theorem modLaneTask_recd (s : State) (l : Lane) (t : Nat) (f : LaneTask → LaneTask) : (modLaneTask s l t f).recd = s.recd := rfl
@[simp] theorem modLaneTask_flt (s : State) (l : Lane) (t : Nat) (f : LaneTask → LaneTask) : (modLaneTask s l t f).flt = s.flt := rfl
@[simp] theorem modLaneTask_hp (s : State) (l : Lane) (t : Nat) (f : LaneTask → LaneTask) : (modLaneTask s l t f).hp = s.hp := rfl
@[simp] theorem modLaneTask_pwr (s : State) (l : Lane) (t : Nat) (f : LaneTask → LaneTask) : (modLaneTask s l t f).pwr = s.pwr := rfl
@[simp] theorem modLaneTask_bring (s : State) (l : Lane) (t : Nat) (f : LaneTask → LaneTask) : (modLaneTask s l t f).bring = s.bring := rfl
@[simp] theorem modLaneTask_net (s : State) (l : Lane) (t : Nat) (f : LaneTask → LaneTask) : (modLaneTask s l t f).net = s.net := rfl
@[simp] theorem modLaneTask_train (s : State) (l : Lane) (t : Nat) (f : LaneTask → LaneTask) : (modLaneTask s l t f).train = s.train := rfl
@[simp] theorem modLaneTask_br (s : State) (l : Lane) (t : Nat) (f : LaneTask → LaneTask) : (modLaneTask s l t f).br = s.br := rfl
@[simp] theorem modLaneTask_pair (s : State) (l : Lane) (t : Nat) (f : LaneTask → LaneTask) : (modLaneTask s l t f).pair = s.pair := rfl
@[simp] theorem modLaneTask_out (s : State) (l : Lane) (t : Nat) (f : LaneTask → LaneTask) : (modLaneTask s l t f).out = s.out := rfl
@[simp] theorem modLaneTask_pending (s : State) (l : Lane) (t : Nat) (f : LaneTask → LaneTask) : (modLaneTask s l t f).pending = s.pending := rfl

/-! ### modPan -/

@[simp] theorem modPan_tim (s : State) (l : Lane) (b p : Nat) (f : Pan → Pan) : (modPan s l b p f).tim = s.tim := rfl
@[simp] theorem modPan_hubt (s : State) (l : Lane) (b p : Nat) (f : Pan → Pan) : (modPan s l b p f).hubt = s.hubt := rfl
@[simp] theorem modPan_conns (s : State) (l : Lane) (b p : Nat) (f : Pan → Pan) : (modPan s l b p f).conns = s.conns := rfl
@[simp] theorem modPan_vote (s : State) (l : Lane) (b p : Nat) (f : Pan → Pan) : (modPan s l b p f).vote = s.vote := rfl
@[simp] theorem modPan_field (s : State) (l : Lane) (b p : Nat) (f : Pan → Pan) : (modPan s l b p f).field = s.field := rfl
@[simp] theorem modPan_snd (s : State) (l : Lane) (b p : Nat) (f : Pan → Pan) : (modPan s l b p f).snd = s.snd := rfl
@[simp] theorem modPan_modu (s : State) (l : Lane) (b p : Nat) (f : Pan → Pan) : (modPan s l b p f).modu = s.modu := rfl
@[simp] theorem modPan_prog (s : State) (l : Lane) (b p : Nat) (f : Pan → Pan) : (modPan s l b p f).prog = s.prog := rfl
@[simp] theorem modPan_progNew (s : State) (l : Lane) (b p : Nat) (f : Pan → Pan) : (modPan s l b p f).progNew = s.progNew := rfl
@[simp] theorem modPan_bank (s : State) (l : Lane) (b p : Nat) (f : Pan → Pan) : (modPan s l b p f).bank = s.bank := rfl
@[simp] theorem modPan_ack (s : State) (l : Lane) (b p : Nat) (f : Pan → Pan) : (modPan s l b p f).ack = s.ack := rfl
@[simp] theorem modPan_safe (s : State) (l : Lane) (b p : Nat) (f : Pan → Pan) : (modPan s l b p f).safe = s.safe := rfl
@[simp] theorem modPan_xch (s : State) (l : Lane) (b p : Nat) (f : Pan → Pan) : (modPan s l b p f).xch = s.xch := rfl
@[simp] theorem modPan_recd (s : State) (l : Lane) (b p : Nat) (f : Pan → Pan) : (modPan s l b p f).recd = s.recd := rfl
@[simp] theorem modPan_flt (s : State) (l : Lane) (b p : Nat) (f : Pan → Pan) : (modPan s l b p f).flt = s.flt := rfl
@[simp] theorem modPan_hp (s : State) (l : Lane) (b p : Nat) (f : Pan → Pan) : (modPan s l b p f).hp = s.hp := rfl
@[simp] theorem modPan_pwr (s : State) (l : Lane) (b p : Nat) (f : Pan → Pan) : (modPan s l b p f).pwr = s.pwr := rfl
@[simp] theorem modPan_bring (s : State) (l : Lane) (b p : Nat) (f : Pan → Pan) : (modPan s l b p f).bring = s.bring := rfl
@[simp] theorem modPan_net (s : State) (l : Lane) (b p : Nat) (f : Pan → Pan) : (modPan s l b p f).net = s.net := rfl
@[simp] theorem modPan_train (s : State) (l : Lane) (b p : Nat) (f : Pan → Pan) : (modPan s l b p f).train = s.train := rfl
@[simp] theorem modPan_br (s : State) (l : Lane) (b p : Nat) (f : Pan → Pan) : (modPan s l b p f).br = s.br := rfl
@[simp] theorem modPan_pair (s : State) (l : Lane) (b p : Nat) (f : Pan → Pan) : (modPan s l b p f).pair = s.pair := rfl
@[simp] theorem modPan_out (s : State) (l : Lane) (b p : Nat) (f : Pan → Pan) : (modPan s l b p f).out = s.out := rfl
@[simp] theorem modPan_pending (s : State) (l : Lane) (b p : Nat) (f : Pan → Pan) : (modPan s l b p f).pending = s.pending := rfl

/-! ### modTask -/

@[simp] theorem modTask_tim (s : State) (t : Nat) (f : HubTask → HubTask) : (modTask s t f).tim = s.tim := rfl
@[simp] theorem modTask_lanes (s : State) (t : Nat) (f : HubTask → HubTask) : (modTask s t f).lanes = s.lanes := rfl
@[simp] theorem modTask_conns (s : State) (t : Nat) (f : HubTask → HubTask) : (modTask s t f).conns = s.conns := rfl
@[simp] theorem modTask_vote (s : State) (t : Nat) (f : HubTask → HubTask) : (modTask s t f).vote = s.vote := rfl
@[simp] theorem modTask_field (s : State) (t : Nat) (f : HubTask → HubTask) : (modTask s t f).field = s.field := rfl
@[simp] theorem modTask_snd (s : State) (t : Nat) (f : HubTask → HubTask) : (modTask s t f).snd = s.snd := rfl
@[simp] theorem modTask_modu (s : State) (t : Nat) (f : HubTask → HubTask) : (modTask s t f).modu = s.modu := rfl
@[simp] theorem modTask_prog (s : State) (t : Nat) (f : HubTask → HubTask) : (modTask s t f).prog = s.prog := rfl
@[simp] theorem modTask_progNew (s : State) (t : Nat) (f : HubTask → HubTask) : (modTask s t f).progNew = s.progNew := rfl
@[simp] theorem modTask_bank (s : State) (t : Nat) (f : HubTask → HubTask) : (modTask s t f).bank = s.bank := rfl
@[simp] theorem modTask_ack (s : State) (t : Nat) (f : HubTask → HubTask) : (modTask s t f).ack = s.ack := rfl
@[simp] theorem modTask_safe (s : State) (t : Nat) (f : HubTask → HubTask) : (modTask s t f).safe = s.safe := rfl
@[simp] theorem modTask_xch (s : State) (t : Nat) (f : HubTask → HubTask) : (modTask s t f).xch = s.xch := rfl
@[simp] theorem modTask_recd (s : State) (t : Nat) (f : HubTask → HubTask) : (modTask s t f).recd = s.recd := rfl
@[simp] theorem modTask_flt (s : State) (t : Nat) (f : HubTask → HubTask) : (modTask s t f).flt = s.flt := rfl
@[simp] theorem modTask_hp (s : State) (t : Nat) (f : HubTask → HubTask) : (modTask s t f).hp = s.hp := rfl
@[simp] theorem modTask_pwr (s : State) (t : Nat) (f : HubTask → HubTask) : (modTask s t f).pwr = s.pwr := rfl
@[simp] theorem modTask_bring (s : State) (t : Nat) (f : HubTask → HubTask) : (modTask s t f).bring = s.bring := rfl
@[simp] theorem modTask_net (s : State) (t : Nat) (f : HubTask → HubTask) : (modTask s t f).net = s.net := rfl
@[simp] theorem modTask_train (s : State) (t : Nat) (f : HubTask → HubTask) : (modTask s t f).train = s.train := rfl
@[simp] theorem modTask_br (s : State) (t : Nat) (f : HubTask → HubTask) : (modTask s t f).br = s.br := rfl
@[simp] theorem modTask_pair (s : State) (t : Nat) (f : HubTask → HubTask) : (modTask s t f).pair = s.pair := rfl
@[simp] theorem modTask_out (s : State) (t : Nat) (f : HubTask → HubTask) : (modTask s t f).out = s.out := rfl
@[simp] theorem modTask_pending (s : State) (t : Nat) (f : HubTask → HubTask) : (modTask s t f).pending = s.pending := rfl

/-! ### modAxis -/

@[simp] theorem modAxis_hubt (s : State) (n : Nat) (f : Axis → Axis) : (modAxis s n f).hubt = s.hubt := rfl
@[simp] theorem modAxis_lanes (s : State) (n : Nat) (f : Axis → Axis) : (modAxis s n f).lanes = s.lanes := rfl
@[simp] theorem modAxis_conns (s : State) (n : Nat) (f : Axis → Axis) : (modAxis s n f).conns = s.conns := rfl
@[simp] theorem modAxis_vote (s : State) (n : Nat) (f : Axis → Axis) : (modAxis s n f).vote = s.vote := rfl
@[simp] theorem modAxis_field (s : State) (n : Nat) (f : Axis → Axis) : (modAxis s n f).field = s.field := rfl
@[simp] theorem modAxis_snd (s : State) (n : Nat) (f : Axis → Axis) : (modAxis s n f).snd = s.snd := rfl
@[simp] theorem modAxis_modu (s : State) (n : Nat) (f : Axis → Axis) : (modAxis s n f).modu = s.modu := rfl
@[simp] theorem modAxis_prog (s : State) (n : Nat) (f : Axis → Axis) : (modAxis s n f).prog = s.prog := rfl
@[simp] theorem modAxis_progNew (s : State) (n : Nat) (f : Axis → Axis) : (modAxis s n f).progNew = s.progNew := rfl
@[simp] theorem modAxis_bank (s : State) (n : Nat) (f : Axis → Axis) : (modAxis s n f).bank = s.bank := rfl
@[simp] theorem modAxis_ack (s : State) (n : Nat) (f : Axis → Axis) : (modAxis s n f).ack = s.ack := rfl
@[simp] theorem modAxis_safe (s : State) (n : Nat) (f : Axis → Axis) : (modAxis s n f).safe = s.safe := rfl
@[simp] theorem modAxis_xch (s : State) (n : Nat) (f : Axis → Axis) : (modAxis s n f).xch = s.xch := rfl
@[simp] theorem modAxis_recd (s : State) (n : Nat) (f : Axis → Axis) : (modAxis s n f).recd = s.recd := rfl
@[simp] theorem modAxis_flt (s : State) (n : Nat) (f : Axis → Axis) : (modAxis s n f).flt = s.flt := rfl
@[simp] theorem modAxis_hp (s : State) (n : Nat) (f : Axis → Axis) : (modAxis s n f).hp = s.hp := rfl
@[simp] theorem modAxis_pwr (s : State) (n : Nat) (f : Axis → Axis) : (modAxis s n f).pwr = s.pwr := rfl
@[simp] theorem modAxis_bring (s : State) (n : Nat) (f : Axis → Axis) : (modAxis s n f).bring = s.bring := rfl
@[simp] theorem modAxis_net (s : State) (n : Nat) (f : Axis → Axis) : (modAxis s n f).net = s.net := rfl
@[simp] theorem modAxis_train (s : State) (n : Nat) (f : Axis → Axis) : (modAxis s n f).train = s.train := rfl
@[simp] theorem modAxis_br (s : State) (n : Nat) (f : Axis → Axis) : (modAxis s n f).br = s.br := rfl
@[simp] theorem modAxis_pair (s : State) (n : Nat) (f : Axis → Axis) : (modAxis s n f).pair = s.pair := rfl
@[simp] theorem modAxis_out (s : State) (n : Nat) (f : Axis → Axis) : (modAxis s n f).out = s.out := rfl
@[simp] theorem modAxis_pending (s : State) (n : Nat) (f : Axis → Axis) : (modAxis s n f).pending = s.pending := rfl

/-! ### setIrq -/

@[simp] theorem setIrq_tim (s : State) (b : Nat) : (setIrq s b).tim = s.tim := rfl
@[simp] theorem setIrq_hubt (s : State) (b : Nat) : (setIrq s b).hubt = s.hubt := rfl
@[simp] theorem setIrq_lanes (s : State) (b : Nat) : (setIrq s b).lanes = s.lanes := rfl
@[simp] theorem setIrq_conns (s : State) (b : Nat) : (setIrq s b).conns = s.conns := rfl
@[simp] theorem setIrq_vote (s : State) (b : Nat) : (setIrq s b).vote = s.vote := rfl
@[simp] theorem setIrq_field (s : State) (b : Nat) : (setIrq s b).field = s.field := rfl
@[simp] theorem setIrq_snd (s : State) (b : Nat) : (setIrq s b).snd = s.snd := rfl
@[simp] theorem setIrq_modu (s : State) (b : Nat) : (setIrq s b).modu = s.modu := rfl
@[simp] theorem setIrq_prog (s : State) (b : Nat) : (setIrq s b).prog = s.prog := rfl
@[simp] theorem setIrq_progNew (s : State) (b : Nat) : (setIrq s b).progNew = s.progNew := rfl
@[simp] theorem setIrq_bank (s : State) (b : Nat) : (setIrq s b).bank = s.bank := rfl
@[simp] theorem setIrq_ack (s : State) (b : Nat) : (setIrq s b).ack = s.ack := rfl
@[simp] theorem setIrq_safe (s : State) (b : Nat) : (setIrq s b).safe = s.safe := rfl
@[simp] theorem setIrq_xch (s : State) (b : Nat) : (setIrq s b).xch = s.xch := rfl
@[simp] theorem setIrq_recd (s : State) (b : Nat) : (setIrq s b).recd = s.recd := rfl
@[simp] theorem setIrq_flt (s : State) (b : Nat) : (setIrq s b).flt = s.flt := rfl
@[simp] theorem setIrq_pwr (s : State) (b : Nat) : (setIrq s b).pwr = s.pwr := rfl
@[simp] theorem setIrq_bring (s : State) (b : Nat) : (setIrq s b).bring = s.bring := rfl
@[simp] theorem setIrq_net (s : State) (b : Nat) : (setIrq s b).net = s.net := rfl
@[simp] theorem setIrq_train (s : State) (b : Nat) : (setIrq s b).train = s.train := rfl
@[simp] theorem setIrq_br (s : State) (b : Nat) : (setIrq s b).br = s.br := rfl
@[simp] theorem setIrq_pair (s : State) (b : Nat) : (setIrq s b).pair = s.pair := rfl
@[simp] theorem setIrq_out (s : State) (b : Nat) : (setIrq s b).out = s.out := rfl
@[simp] theorem setIrq_pending (s : State) (b : Nat) : (setIrq s b).pending = s.pending := rfl

/-! ### emit -/

@[simp] theorem emit_tim (s : State) (e : Emission) : (emit s e).tim = s.tim := rfl
@[simp] theorem emit_hubt (s : State) (e : Emission) : (emit s e).hubt = s.hubt := rfl
@[simp] theorem emit_lanes (s : State) (e : Emission) : (emit s e).lanes = s.lanes := rfl
@[simp] theorem emit_conns (s : State) (e : Emission) : (emit s e).conns = s.conns := rfl
@[simp] theorem emit_vote (s : State) (e : Emission) : (emit s e).vote = s.vote := rfl
@[simp] theorem emit_field (s : State) (e : Emission) : (emit s e).field = s.field := rfl
@[simp] theorem emit_snd (s : State) (e : Emission) : (emit s e).snd = s.snd := rfl
@[simp] theorem emit_modu (s : State) (e : Emission) : (emit s e).modu = s.modu := rfl
@[simp] theorem emit_prog (s : State) (e : Emission) : (emit s e).prog = s.prog := rfl
@[simp] theorem emit_progNew (s : State) (e : Emission) : (emit s e).progNew = s.progNew := rfl
@[simp] theorem emit_bank (s : State) (e : Emission) : (emit s e).bank = s.bank := rfl
@[simp] theorem emit_ack (s : State) (e : Emission) : (emit s e).ack = s.ack := rfl
@[simp] theorem emit_safe (s : State) (e : Emission) : (emit s e).safe = s.safe := rfl
@[simp] theorem emit_xch (s : State) (e : Emission) : (emit s e).xch = s.xch := rfl
@[simp] theorem emit_recd (s : State) (e : Emission) : (emit s e).recd = s.recd := rfl
@[simp] theorem emit_flt (s : State) (e : Emission) : (emit s e).flt = s.flt := rfl
@[simp] theorem emit_hp (s : State) (e : Emission) : (emit s e).hp = s.hp := rfl
@[simp] theorem emit_pwr (s : State) (e : Emission) : (emit s e).pwr = s.pwr := rfl
@[simp] theorem emit_bring (s : State) (e : Emission) : (emit s e).bring = s.bring := rfl
@[simp] theorem emit_net (s : State) (e : Emission) : (emit s e).net = s.net := rfl
@[simp] theorem emit_train (s : State) (e : Emission) : (emit s e).train = s.train := rfl
@[simp] theorem emit_br (s : State) (e : Emission) : (emit s e).br = s.br := rfl
@[simp] theorem emit_pair (s : State) (e : Emission) : (emit s e).pair = s.pair := rfl
@[simp] theorem emit_pending (s : State) (e : Emission) : (emit s e).pending = s.pending := rfl

/-! ### modCh -/

@[simp] theorem modCh_tim (s : State) (ch : Nat) (f : ChSt → ChSt) : (modCh s ch f).tim = s.tim := rfl
@[simp] theorem modCh_hubt (s : State) (ch : Nat) (f : ChSt → ChSt) : (modCh s ch f).hubt = s.hubt := rfl
@[simp] theorem modCh_lanes (s : State) (ch : Nat) (f : ChSt → ChSt) : (modCh s ch f).lanes = s.lanes := rfl
@[simp] theorem modCh_conns (s : State) (ch : Nat) (f : ChSt → ChSt) : (modCh s ch f).conns = s.conns := rfl
@[simp] theorem modCh_vote (s : State) (ch : Nat) (f : ChSt → ChSt) : (modCh s ch f).vote = s.vote := rfl
@[simp] theorem modCh_snd (s : State) (ch : Nat) (f : ChSt → ChSt) : (modCh s ch f).snd = s.snd := rfl
@[simp] theorem modCh_modu (s : State) (ch : Nat) (f : ChSt → ChSt) : (modCh s ch f).modu = s.modu := rfl
@[simp] theorem modCh_prog (s : State) (ch : Nat) (f : ChSt → ChSt) : (modCh s ch f).prog = s.prog := rfl
@[simp] theorem modCh_progNew (s : State) (ch : Nat) (f : ChSt → ChSt) : (modCh s ch f).progNew = s.progNew := rfl
@[simp] theorem modCh_bank (s : State) (ch : Nat) (f : ChSt → ChSt) : (modCh s ch f).bank = s.bank := rfl
@[simp] theorem modCh_ack (s : State) (ch : Nat) (f : ChSt → ChSt) : (modCh s ch f).ack = s.ack := rfl
@[simp] theorem modCh_safe (s : State) (ch : Nat) (f : ChSt → ChSt) : (modCh s ch f).safe = s.safe := rfl
@[simp] theorem modCh_xch (s : State) (ch : Nat) (f : ChSt → ChSt) : (modCh s ch f).xch = s.xch := rfl
@[simp] theorem modCh_recd (s : State) (ch : Nat) (f : ChSt → ChSt) : (modCh s ch f).recd = s.recd := rfl
@[simp] theorem modCh_flt (s : State) (ch : Nat) (f : ChSt → ChSt) : (modCh s ch f).flt = s.flt := rfl
@[simp] theorem modCh_hp (s : State) (ch : Nat) (f : ChSt → ChSt) : (modCh s ch f).hp = s.hp := rfl
@[simp] theorem modCh_pwr (s : State) (ch : Nat) (f : ChSt → ChSt) : (modCh s ch f).pwr = s.pwr := rfl
@[simp] theorem modCh_bring (s : State) (ch : Nat) (f : ChSt → ChSt) : (modCh s ch f).bring = s.bring := rfl
@[simp] theorem modCh_net (s : State) (ch : Nat) (f : ChSt → ChSt) : (modCh s ch f).net = s.net := rfl
@[simp] theorem modCh_train (s : State) (ch : Nat) (f : ChSt → ChSt) : (modCh s ch f).train = s.train := rfl
@[simp] theorem modCh_br (s : State) (ch : Nat) (f : ChSt → ChSt) : (modCh s ch f).br = s.br := rfl
@[simp] theorem modCh_pair (s : State) (ch : Nat) (f : ChSt → ChSt) : (modCh s ch f).pair = s.pair := rfl
@[simp] theorem modCh_out (s : State) (ch : Nat) (f : ChSt → ChSt) : (modCh s ch f).out = s.out := rfl
@[simp] theorem modCh_pending (s : State) (ch : Nat) (f : ChSt → ChSt) : (modCh s ch f).pending = s.pending := rfl

/-! ### modGrp -/

@[simp] theorem modGrp_tim (s : State) (g : Grp) (f : GrpSt → GrpSt) : (modGrp s g f).tim = s.tim := by cases g <;> rfl
@[simp] theorem modGrp_hubt (s : State) (g : Grp) (f : GrpSt → GrpSt) : (modGrp s g f).hubt = s.hubt := by cases g <;> rfl
@[simp] theorem modGrp_lanes (s : State) (g : Grp) (f : GrpSt → GrpSt) : (modGrp s g f).lanes = s.lanes := by cases g <;> rfl
@[simp] theorem modGrp_conns (s : State) (g : Grp) (f : GrpSt → GrpSt) : (modGrp s g f).conns = s.conns := by cases g <;> rfl
@[simp] theorem modGrp_vote (s : State) (g : Grp) (f : GrpSt → GrpSt) : (modGrp s g f).vote = s.vote := by cases g <;> rfl
@[simp] theorem modGrp_snd (s : State) (g : Grp) (f : GrpSt → GrpSt) : (modGrp s g f).snd = s.snd := by cases g <;> rfl
@[simp] theorem modGrp_modu (s : State) (g : Grp) (f : GrpSt → GrpSt) : (modGrp s g f).modu = s.modu := by cases g <;> rfl
@[simp] theorem modGrp_prog (s : State) (g : Grp) (f : GrpSt → GrpSt) : (modGrp s g f).prog = s.prog := by cases g <;> rfl
@[simp] theorem modGrp_progNew (s : State) (g : Grp) (f : GrpSt → GrpSt) : (modGrp s g f).progNew = s.progNew := by cases g <;> rfl
@[simp] theorem modGrp_bank (s : State) (g : Grp) (f : GrpSt → GrpSt) : (modGrp s g f).bank = s.bank := by cases g <;> rfl
@[simp] theorem modGrp_ack (s : State) (g : Grp) (f : GrpSt → GrpSt) : (modGrp s g f).ack = s.ack := by cases g <;> rfl
@[simp] theorem modGrp_safe (s : State) (g : Grp) (f : GrpSt → GrpSt) : (modGrp s g f).safe = s.safe := by cases g <;> rfl
@[simp] theorem modGrp_xch (s : State) (g : Grp) (f : GrpSt → GrpSt) : (modGrp s g f).xch = s.xch := by cases g <;> rfl
@[simp] theorem modGrp_recd (s : State) (g : Grp) (f : GrpSt → GrpSt) : (modGrp s g f).recd = s.recd := by cases g <;> rfl
@[simp] theorem modGrp_flt (s : State) (g : Grp) (f : GrpSt → GrpSt) : (modGrp s g f).flt = s.flt := by cases g <;> rfl
@[simp] theorem modGrp_hp (s : State) (g : Grp) (f : GrpSt → GrpSt) : (modGrp s g f).hp = s.hp := by cases g <;> rfl
@[simp] theorem modGrp_pwr (s : State) (g : Grp) (f : GrpSt → GrpSt) : (modGrp s g f).pwr = s.pwr := by cases g <;> rfl
@[simp] theorem modGrp_bring (s : State) (g : Grp) (f : GrpSt → GrpSt) : (modGrp s g f).bring = s.bring := by cases g <;> rfl
@[simp] theorem modGrp_net (s : State) (g : Grp) (f : GrpSt → GrpSt) : (modGrp s g f).net = s.net := by cases g <;> rfl
@[simp] theorem modGrp_train (s : State) (g : Grp) (f : GrpSt → GrpSt) : (modGrp s g f).train = s.train := by cases g <;> rfl
@[simp] theorem modGrp_br (s : State) (g : Grp) (f : GrpSt → GrpSt) : (modGrp s g f).br = s.br := by cases g <;> rfl
@[simp] theorem modGrp_pair (s : State) (g : Grp) (f : GrpSt → GrpSt) : (modGrp s g f).pair = s.pair := by cases g <;> rfl
@[simp] theorem modGrp_out (s : State) (g : Grp) (f : GrpSt → GrpSt) : (modGrp s g f).out = s.out := by cases g <;> rfl
@[simp] theorem modGrp_pending (s : State) (g : Grp) (f : GrpSt → GrpSt) : (modGrp s g f).pending = s.pending := by cases g <;> rfl

/-! ### setLink -/

@[simp] theorem setLink_tim (s : State) (l : Lane) (k : DriveLink) : (setLink s l k).tim = s.tim := rfl
@[simp] theorem setLink_hubt (s : State) (l : Lane) (k : DriveLink) : (setLink s l k).hubt = s.hubt := rfl
@[simp] theorem setLink_lanes (s : State) (l : Lane) (k : DriveLink) : (setLink s l k).lanes = s.lanes := rfl
@[simp] theorem setLink_conns (s : State) (l : Lane) (k : DriveLink) : (setLink s l k).conns = s.conns := rfl
@[simp] theorem setLink_vote (s : State) (l : Lane) (k : DriveLink) : (setLink s l k).vote = s.vote := rfl
@[simp] theorem setLink_snd (s : State) (l : Lane) (k : DriveLink) : (setLink s l k).snd = s.snd := rfl
@[simp] theorem setLink_modu (s : State) (l : Lane) (k : DriveLink) : (setLink s l k).modu = s.modu := rfl
@[simp] theorem setLink_prog (s : State) (l : Lane) (k : DriveLink) : (setLink s l k).prog = s.prog := rfl
@[simp] theorem setLink_progNew (s : State) (l : Lane) (k : DriveLink) : (setLink s l k).progNew = s.progNew := rfl
@[simp] theorem setLink_bank (s : State) (l : Lane) (k : DriveLink) : (setLink s l k).bank = s.bank := rfl
@[simp] theorem setLink_ack (s : State) (l : Lane) (k : DriveLink) : (setLink s l k).ack = s.ack := rfl
@[simp] theorem setLink_safe (s : State) (l : Lane) (k : DriveLink) : (setLink s l k).safe = s.safe := rfl
@[simp] theorem setLink_xch (s : State) (l : Lane) (k : DriveLink) : (setLink s l k).xch = s.xch := rfl
@[simp] theorem setLink_recd (s : State) (l : Lane) (k : DriveLink) : (setLink s l k).recd = s.recd := rfl
@[simp] theorem setLink_flt (s : State) (l : Lane) (k : DriveLink) : (setLink s l k).flt = s.flt := rfl
@[simp] theorem setLink_hp (s : State) (l : Lane) (k : DriveLink) : (setLink s l k).hp = s.hp := rfl
@[simp] theorem setLink_pwr (s : State) (l : Lane) (k : DriveLink) : (setLink s l k).pwr = s.pwr := rfl
@[simp] theorem setLink_bring (s : State) (l : Lane) (k : DriveLink) : (setLink s l k).bring = s.bring := rfl
@[simp] theorem setLink_net (s : State) (l : Lane) (k : DriveLink) : (setLink s l k).net = s.net := rfl
@[simp] theorem setLink_train (s : State) (l : Lane) (k : DriveLink) : (setLink s l k).train = s.train := rfl
@[simp] theorem setLink_br (s : State) (l : Lane) (k : DriveLink) : (setLink s l k).br = s.br := rfl
@[simp] theorem setLink_pair (s : State) (l : Lane) (k : DriveLink) : (setLink s l k).pair = s.pair := rfl
@[simp] theorem setLink_out (s : State) (l : Lane) (k : DriveLink) : (setLink s l k).out = s.out := rfl
@[simp] theorem setLink_pending (s : State) (l : Lane) (k : DriveLink) : (setLink s l k).pending = s.pending := rfl

/-! ### modVote -/

@[simp] theorem modVote_tim (s : State) (p : Party) (t : Nat) (f : Vote → Vote) : (modVote s p t f).tim = s.tim := rfl
@[simp] theorem modVote_hubt (s : State) (p : Party) (t : Nat) (f : Vote → Vote) : (modVote s p t f).hubt = s.hubt := rfl
@[simp] theorem modVote_lanes (s : State) (p : Party) (t : Nat) (f : Vote → Vote) : (modVote s p t f).lanes = s.lanes := rfl
@[simp] theorem modVote_conns (s : State) (p : Party) (t : Nat) (f : Vote → Vote) : (modVote s p t f).conns = s.conns := rfl
@[simp] theorem modVote_field (s : State) (p : Party) (t : Nat) (f : Vote → Vote) : (modVote s p t f).field = s.field := rfl
@[simp] theorem modVote_snd (s : State) (p : Party) (t : Nat) (f : Vote → Vote) : (modVote s p t f).snd = s.snd := rfl
@[simp] theorem modVote_modu (s : State) (p : Party) (t : Nat) (f : Vote → Vote) : (modVote s p t f).modu = s.modu := rfl
@[simp] theorem modVote_prog (s : State) (p : Party) (t : Nat) (f : Vote → Vote) : (modVote s p t f).prog = s.prog := rfl
@[simp] theorem modVote_progNew (s : State) (p : Party) (t : Nat) (f : Vote → Vote) : (modVote s p t f).progNew = s.progNew := rfl
@[simp] theorem modVote_bank (s : State) (p : Party) (t : Nat) (f : Vote → Vote) : (modVote s p t f).bank = s.bank := rfl
@[simp] theorem modVote_ack (s : State) (p : Party) (t : Nat) (f : Vote → Vote) : (modVote s p t f).ack = s.ack := rfl
@[simp] theorem modVote_safe (s : State) (p : Party) (t : Nat) (f : Vote → Vote) : (modVote s p t f).safe = s.safe := rfl
@[simp] theorem modVote_xch (s : State) (p : Party) (t : Nat) (f : Vote → Vote) : (modVote s p t f).xch = s.xch := rfl
@[simp] theorem modVote_recd (s : State) (p : Party) (t : Nat) (f : Vote → Vote) : (modVote s p t f).recd = s.recd := rfl
@[simp] theorem modVote_flt (s : State) (p : Party) (t : Nat) (f : Vote → Vote) : (modVote s p t f).flt = s.flt := rfl
@[simp] theorem modVote_hp (s : State) (p : Party) (t : Nat) (f : Vote → Vote) : (modVote s p t f).hp = s.hp := rfl
@[simp] theorem modVote_pwr (s : State) (p : Party) (t : Nat) (f : Vote → Vote) : (modVote s p t f).pwr = s.pwr := rfl
@[simp] theorem modVote_bring (s : State) (p : Party) (t : Nat) (f : Vote → Vote) : (modVote s p t f).bring = s.bring := rfl
@[simp] theorem modVote_net (s : State) (p : Party) (t : Nat) (f : Vote → Vote) : (modVote s p t f).net = s.net := rfl
@[simp] theorem modVote_train (s : State) (p : Party) (t : Nat) (f : Vote → Vote) : (modVote s p t f).train = s.train := rfl
@[simp] theorem modVote_br (s : State) (p : Party) (t : Nat) (f : Vote → Vote) : (modVote s p t f).br = s.br := rfl
@[simp] theorem modVote_pair (s : State) (p : Party) (t : Nat) (f : Vote → Vote) : (modVote s p t f).pair = s.pair := rfl
@[simp] theorem modVote_out (s : State) (p : Party) (t : Nat) (f : Vote → Vote) : (modVote s p t f).out = s.out := rfl
@[simp] theorem modVote_pending (s : State) (p : Party) (t : Nat) (f : Vote → Vote) : (modVote s p t f).pending = s.pending := rfl

/-! ### putCkpt -/

@[simp] theorem putCkpt_tim (s : State) (c : Ckpt) : (putCkpt s c).tim = s.tim := rfl
@[simp] theorem putCkpt_hubt (s : State) (c : Ckpt) : (putCkpt s c).hubt = s.hubt := rfl
@[simp] theorem putCkpt_lanes (s : State) (c : Ckpt) : (putCkpt s c).lanes = s.lanes := rfl
@[simp] theorem putCkpt_conns (s : State) (c : Ckpt) : (putCkpt s c).conns = s.conns := rfl
@[simp] theorem putCkpt_field (s : State) (c : Ckpt) : (putCkpt s c).field = s.field := rfl
@[simp] theorem putCkpt_snd (s : State) (c : Ckpt) : (putCkpt s c).snd = s.snd := rfl
@[simp] theorem putCkpt_modu (s : State) (c : Ckpt) : (putCkpt s c).modu = s.modu := rfl
@[simp] theorem putCkpt_prog (s : State) (c : Ckpt) : (putCkpt s c).prog = s.prog := rfl
@[simp] theorem putCkpt_progNew (s : State) (c : Ckpt) : (putCkpt s c).progNew = s.progNew := rfl
@[simp] theorem putCkpt_bank (s : State) (c : Ckpt) : (putCkpt s c).bank = s.bank := rfl
@[simp] theorem putCkpt_ack (s : State) (c : Ckpt) : (putCkpt s c).ack = s.ack := rfl
@[simp] theorem putCkpt_safe (s : State) (c : Ckpt) : (putCkpt s c).safe = s.safe := rfl
@[simp] theorem putCkpt_xch (s : State) (c : Ckpt) : (putCkpt s c).xch = s.xch := rfl
@[simp] theorem putCkpt_recd (s : State) (c : Ckpt) : (putCkpt s c).recd = s.recd := rfl
@[simp] theorem putCkpt_flt (s : State) (c : Ckpt) : (putCkpt s c).flt = s.flt := rfl
@[simp] theorem putCkpt_hp (s : State) (c : Ckpt) : (putCkpt s c).hp = s.hp := rfl
@[simp] theorem putCkpt_pwr (s : State) (c : Ckpt) : (putCkpt s c).pwr = s.pwr := rfl
@[simp] theorem putCkpt_bring (s : State) (c : Ckpt) : (putCkpt s c).bring = s.bring := rfl
@[simp] theorem putCkpt_net (s : State) (c : Ckpt) : (putCkpt s c).net = s.net := rfl
@[simp] theorem putCkpt_train (s : State) (c : Ckpt) : (putCkpt s c).train = s.train := rfl
@[simp] theorem putCkpt_br (s : State) (c : Ckpt) : (putCkpt s c).br = s.br := rfl
@[simp] theorem putCkpt_pair (s : State) (c : Ckpt) : (putCkpt s c).pair = s.pair := rfl
@[simp] theorem putCkpt_out (s : State) (c : Ckpt) : (putCkpt s c).out = s.out := rfl
@[simp] theorem putCkpt_pending (s : State) (c : Ckpt) : (putCkpt s c).pending = s.pending := rfl

/-! ### modMb -/

@[simp] theorem modMb_tim (s : State) (mb : Mb) (f : Mailbox → Mailbox) : (modMb s mb f).tim = s.tim := by cases mb <;> rfl
@[simp] theorem modMb_hubt (s : State) (mb : Mb) (f : Mailbox → Mailbox) : (modMb s mb f).hubt = s.hubt := by cases mb <;> rfl
@[simp] theorem modMb_lanes (s : State) (mb : Mb) (f : Mailbox → Mailbox) : (modMb s mb f).lanes = s.lanes := by cases mb <;> rfl
@[simp] theorem modMb_conns (s : State) (mb : Mb) (f : Mailbox → Mailbox) : (modMb s mb f).conns = s.conns := by cases mb <;> rfl
@[simp] theorem modMb_vote (s : State) (mb : Mb) (f : Mailbox → Mailbox) : (modMb s mb f).vote = s.vote := by cases mb <;> rfl
@[simp] theorem modMb_field (s : State) (mb : Mb) (f : Mailbox → Mailbox) : (modMb s mb f).field = s.field := by cases mb <;> rfl
@[simp] theorem modMb_snd (s : State) (mb : Mb) (f : Mailbox → Mailbox) : (modMb s mb f).snd = s.snd := by cases mb <;> rfl
@[simp] theorem modMb_modu (s : State) (mb : Mb) (f : Mailbox → Mailbox) : (modMb s mb f).modu = s.modu := by cases mb <;> rfl
@[simp] theorem modMb_prog (s : State) (mb : Mb) (f : Mailbox → Mailbox) : (modMb s mb f).prog = s.prog := by cases mb <;> rfl
@[simp] theorem modMb_progNew (s : State) (mb : Mb) (f : Mailbox → Mailbox) : (modMb s mb f).progNew = s.progNew := by cases mb <;> rfl
@[simp] theorem modMb_bank (s : State) (mb : Mb) (f : Mailbox → Mailbox) : (modMb s mb f).bank = s.bank := by cases mb <;> rfl
@[simp] theorem modMb_ack (s : State) (mb : Mb) (f : Mailbox → Mailbox) : (modMb s mb f).ack = s.ack := by cases mb <;> rfl
@[simp] theorem modMb_safe (s : State) (mb : Mb) (f : Mailbox → Mailbox) : (modMb s mb f).safe = s.safe := by cases mb <;> rfl
@[simp] theorem modMb_xch (s : State) (mb : Mb) (f : Mailbox → Mailbox) : (modMb s mb f).xch = s.xch := by cases mb <;> rfl
@[simp] theorem modMb_recd (s : State) (mb : Mb) (f : Mailbox → Mailbox) : (modMb s mb f).recd = s.recd := by cases mb <;> rfl
@[simp] theorem modMb_flt (s : State) (mb : Mb) (f : Mailbox → Mailbox) : (modMb s mb f).flt = s.flt := by cases mb <;> rfl
@[simp] theorem modMb_pwr (s : State) (mb : Mb) (f : Mailbox → Mailbox) : (modMb s mb f).pwr = s.pwr := by cases mb <;> rfl
@[simp] theorem modMb_bring (s : State) (mb : Mb) (f : Mailbox → Mailbox) : (modMb s mb f).bring = s.bring := by cases mb <;> rfl
@[simp] theorem modMb_net (s : State) (mb : Mb) (f : Mailbox → Mailbox) : (modMb s mb f).net = s.net := by cases mb <;> rfl
@[simp] theorem modMb_train (s : State) (mb : Mb) (f : Mailbox → Mailbox) : (modMb s mb f).train = s.train := by cases mb <;> rfl
@[simp] theorem modMb_br (s : State) (mb : Mb) (f : Mailbox → Mailbox) : (modMb s mb f).br = s.br := by cases mb <;> rfl
@[simp] theorem modMb_pair (s : State) (mb : Mb) (f : Mailbox → Mailbox) : (modMb s mb f).pair = s.pair := by cases mb <;> rfl
@[simp] theorem modMb_out (s : State) (mb : Mb) (f : Mailbox → Mailbox) : (modMb s mb f).out = s.out := by cases mb <;> rfl
@[simp] theorem modMb_pending (s : State) (mb : Mb) (f : Mailbox → Mailbox) : (modMb s mb f).pending = s.pending := by cases mb <;> rfl

/-! ### modPlane -/

@[simp] theorem modPlane_tim (s : State) (b : Bool) (f : PlaneSt → PlaneSt) : (modPlane s b f).tim = s.tim := by cases b <;> rfl
@[simp] theorem modPlane_hubt (s : State) (b : Bool) (f : PlaneSt → PlaneSt) : (modPlane s b f).hubt = s.hubt := by cases b <;> rfl
@[simp] theorem modPlane_lanes (s : State) (b : Bool) (f : PlaneSt → PlaneSt) : (modPlane s b f).lanes = s.lanes := by cases b <;> rfl
@[simp] theorem modPlane_conns (s : State) (b : Bool) (f : PlaneSt → PlaneSt) : (modPlane s b f).conns = s.conns := by cases b <;> rfl
@[simp] theorem modPlane_vote (s : State) (b : Bool) (f : PlaneSt → PlaneSt) : (modPlane s b f).vote = s.vote := by cases b <;> rfl
@[simp] theorem modPlane_field (s : State) (b : Bool) (f : PlaneSt → PlaneSt) : (modPlane s b f).field = s.field := by cases b <;> rfl
@[simp] theorem modPlane_snd (s : State) (b : Bool) (f : PlaneSt → PlaneSt) : (modPlane s b f).snd = s.snd := by cases b <;> rfl
@[simp] theorem modPlane_modu (s : State) (b : Bool) (f : PlaneSt → PlaneSt) : (modPlane s b f).modu = s.modu := by cases b <;> rfl
@[simp] theorem modPlane_prog (s : State) (b : Bool) (f : PlaneSt → PlaneSt) : (modPlane s b f).prog = s.prog := by cases b <;> rfl
@[simp] theorem modPlane_progNew (s : State) (b : Bool) (f : PlaneSt → PlaneSt) : (modPlane s b f).progNew = s.progNew := by cases b <;> rfl
@[simp] theorem modPlane_bank (s : State) (b : Bool) (f : PlaneSt → PlaneSt) : (modPlane s b f).bank = s.bank := by cases b <;> rfl
@[simp] theorem modPlane_ack (s : State) (b : Bool) (f : PlaneSt → PlaneSt) : (modPlane s b f).ack = s.ack := by cases b <;> rfl
@[simp] theorem modPlane_safe (s : State) (b : Bool) (f : PlaneSt → PlaneSt) : (modPlane s b f).safe = s.safe := by cases b <;> rfl
@[simp] theorem modPlane_xch (s : State) (b : Bool) (f : PlaneSt → PlaneSt) : (modPlane s b f).xch = s.xch := by cases b <;> rfl
@[simp] theorem modPlane_recd (s : State) (b : Bool) (f : PlaneSt → PlaneSt) : (modPlane s b f).recd = s.recd := by cases b <;> rfl
@[simp] theorem modPlane_flt (s : State) (b : Bool) (f : PlaneSt → PlaneSt) : (modPlane s b f).flt = s.flt := by cases b <;> rfl
@[simp] theorem modPlane_hp (s : State) (b : Bool) (f : PlaneSt → PlaneSt) : (modPlane s b f).hp = s.hp := by cases b <;> rfl
@[simp] theorem modPlane_pwr (s : State) (b : Bool) (f : PlaneSt → PlaneSt) : (modPlane s b f).pwr = s.pwr := by cases b <;> rfl
@[simp] theorem modPlane_bring (s : State) (b : Bool) (f : PlaneSt → PlaneSt) : (modPlane s b f).bring = s.bring := by cases b <;> rfl
@[simp] theorem modPlane_train (s : State) (b : Bool) (f : PlaneSt → PlaneSt) : (modPlane s b f).train = s.train := by cases b <;> rfl
@[simp] theorem modPlane_br (s : State) (b : Bool) (f : PlaneSt → PlaneSt) : (modPlane s b f).br = s.br := by cases b <;> rfl
@[simp] theorem modPlane_pair (s : State) (b : Bool) (f : PlaneSt → PlaneSt) : (modPlane s b f).pair = s.pair := by cases b <;> rfl
@[simp] theorem modPlane_out (s : State) (b : Bool) (f : PlaneSt → PlaneSt) : (modPlane s b f).out = s.out := by cases b <;> rfl
@[simp] theorem modPlane_pending (s : State) (b : Bool) (f : PlaneSt → PlaneSt) : (modPlane s b f).pending = s.pending := by cases b <;> rfl

/-! ### modSluice -/

@[simp] theorem modSluice_tim (s : State) (n : Nat) (f : Sluice → Sluice) : (modSluice s n f).tim = s.tim := rfl
@[simp] theorem modSluice_hubt (s : State) (n : Nat) (f : Sluice → Sluice) : (modSluice s n f).hubt = s.hubt := rfl
@[simp] theorem modSluice_lanes (s : State) (n : Nat) (f : Sluice → Sluice) : (modSluice s n f).lanes = s.lanes := rfl
@[simp] theorem modSluice_conns (s : State) (n : Nat) (f : Sluice → Sluice) : (modSluice s n f).conns = s.conns := rfl
@[simp] theorem modSluice_vote (s : State) (n : Nat) (f : Sluice → Sluice) : (modSluice s n f).vote = s.vote := rfl
@[simp] theorem modSluice_field (s : State) (n : Nat) (f : Sluice → Sluice) : (modSluice s n f).field = s.field := rfl
@[simp] theorem modSluice_snd (s : State) (n : Nat) (f : Sluice → Sluice) : (modSluice s n f).snd = s.snd := rfl
@[simp] theorem modSluice_modu (s : State) (n : Nat) (f : Sluice → Sluice) : (modSluice s n f).modu = s.modu := rfl
@[simp] theorem modSluice_prog (s : State) (n : Nat) (f : Sluice → Sluice) : (modSluice s n f).prog = s.prog := rfl
@[simp] theorem modSluice_progNew (s : State) (n : Nat) (f : Sluice → Sluice) : (modSluice s n f).progNew = s.progNew := rfl
@[simp] theorem modSluice_bank (s : State) (n : Nat) (f : Sluice → Sluice) : (modSluice s n f).bank = s.bank := rfl
@[simp] theorem modSluice_ack (s : State) (n : Nat) (f : Sluice → Sluice) : (modSluice s n f).ack = s.ack := rfl
@[simp] theorem modSluice_safe (s : State) (n : Nat) (f : Sluice → Sluice) : (modSluice s n f).safe = s.safe := rfl
@[simp] theorem modSluice_xch (s : State) (n : Nat) (f : Sluice → Sluice) : (modSluice s n f).xch = s.xch := rfl
@[simp] theorem modSluice_recd (s : State) (n : Nat) (f : Sluice → Sluice) : (modSluice s n f).recd = s.recd := rfl
@[simp] theorem modSluice_flt (s : State) (n : Nat) (f : Sluice → Sluice) : (modSluice s n f).flt = s.flt := rfl
@[simp] theorem modSluice_hp (s : State) (n : Nat) (f : Sluice → Sluice) : (modSluice s n f).hp = s.hp := rfl
@[simp] theorem modSluice_pwr (s : State) (n : Nat) (f : Sluice → Sluice) : (modSluice s n f).pwr = s.pwr := rfl
@[simp] theorem modSluice_bring (s : State) (n : Nat) (f : Sluice → Sluice) : (modSluice s n f).bring = s.bring := rfl
@[simp] theorem modSluice_train (s : State) (n : Nat) (f : Sluice → Sluice) : (modSluice s n f).train = s.train := rfl
@[simp] theorem modSluice_br (s : State) (n : Nat) (f : Sluice → Sluice) : (modSluice s n f).br = s.br := rfl
@[simp] theorem modSluice_pair (s : State) (n : Nat) (f : Sluice → Sluice) : (modSluice s n f).pair = s.pair := rfl
@[simp] theorem modSluice_out (s : State) (n : Nat) (f : Sluice → Sluice) : (modSluice s n f).out = s.out := rfl
@[simp] theorem modSluice_pending (s : State) (n : Nat) (f : Sluice → Sluice) : (modSluice s n f).pending = s.pending := rfl

/-! ### modEp -/

@[simp] theorem modEp_tim (s : State) (ep : Nat) (f : Endpoint → Endpoint) : (modEp s ep f).tim = s.tim := rfl
@[simp] theorem modEp_hubt (s : State) (ep : Nat) (f : Endpoint → Endpoint) : (modEp s ep f).hubt = s.hubt := rfl
@[simp] theorem modEp_lanes (s : State) (ep : Nat) (f : Endpoint → Endpoint) : (modEp s ep f).lanes = s.lanes := rfl
@[simp] theorem modEp_conns (s : State) (ep : Nat) (f : Endpoint → Endpoint) : (modEp s ep f).conns = s.conns := rfl
@[simp] theorem modEp_vote (s : State) (ep : Nat) (f : Endpoint → Endpoint) : (modEp s ep f).vote = s.vote := rfl
@[simp] theorem modEp_field (s : State) (ep : Nat) (f : Endpoint → Endpoint) : (modEp s ep f).field = s.field := rfl
@[simp] theorem modEp_snd (s : State) (ep : Nat) (f : Endpoint → Endpoint) : (modEp s ep f).snd = s.snd := rfl
@[simp] theorem modEp_modu (s : State) (ep : Nat) (f : Endpoint → Endpoint) : (modEp s ep f).modu = s.modu := rfl
@[simp] theorem modEp_prog (s : State) (ep : Nat) (f : Endpoint → Endpoint) : (modEp s ep f).prog = s.prog := rfl
@[simp] theorem modEp_progNew (s : State) (ep : Nat) (f : Endpoint → Endpoint) : (modEp s ep f).progNew = s.progNew := rfl
@[simp] theorem modEp_bank (s : State) (ep : Nat) (f : Endpoint → Endpoint) : (modEp s ep f).bank = s.bank := rfl
@[simp] theorem modEp_ack (s : State) (ep : Nat) (f : Endpoint → Endpoint) : (modEp s ep f).ack = s.ack := rfl
@[simp] theorem modEp_safe (s : State) (ep : Nat) (f : Endpoint → Endpoint) : (modEp s ep f).safe = s.safe := rfl
@[simp] theorem modEp_xch (s : State) (ep : Nat) (f : Endpoint → Endpoint) : (modEp s ep f).xch = s.xch := rfl
@[simp] theorem modEp_recd (s : State) (ep : Nat) (f : Endpoint → Endpoint) : (modEp s ep f).recd = s.recd := rfl
@[simp] theorem modEp_flt (s : State) (ep : Nat) (f : Endpoint → Endpoint) : (modEp s ep f).flt = s.flt := rfl
@[simp] theorem modEp_hp (s : State) (ep : Nat) (f : Endpoint → Endpoint) : (modEp s ep f).hp = s.hp := rfl
@[simp] theorem modEp_pwr (s : State) (ep : Nat) (f : Endpoint → Endpoint) : (modEp s ep f).pwr = s.pwr := rfl
@[simp] theorem modEp_bring (s : State) (ep : Nat) (f : Endpoint → Endpoint) : (modEp s ep f).bring = s.bring := rfl
@[simp] theorem modEp_net (s : State) (ep : Nat) (f : Endpoint → Endpoint) : (modEp s ep f).net = s.net := rfl
@[simp] theorem modEp_train (s : State) (ep : Nat) (f : Endpoint → Endpoint) : (modEp s ep f).train = s.train := rfl
@[simp] theorem modEp_pair (s : State) (ep : Nat) (f : Endpoint → Endpoint) : (modEp s ep f).pair = s.pair := rfl
@[simp] theorem modEp_out (s : State) (ep : Nat) (f : Endpoint → Endpoint) : (modEp s ep f).out = s.out := rfl
@[simp] theorem modEp_pending (s : State) (ep : Nat) (f : Endpoint → Endpoint) : (modEp s ep f).pending = s.pending := rfl

/-! ### modNode -/

@[simp] theorem modNode_tim (s : State) (n : Nat) (f : NodeSt → NodeSt) : (modNode s n f).tim = s.tim := rfl
@[simp] theorem modNode_hubt (s : State) (n : Nat) (f : NodeSt → NodeSt) : (modNode s n f).hubt = s.hubt := rfl
@[simp] theorem modNode_lanes (s : State) (n : Nat) (f : NodeSt → NodeSt) : (modNode s n f).lanes = s.lanes := rfl
@[simp] theorem modNode_conns (s : State) (n : Nat) (f : NodeSt → NodeSt) : (modNode s n f).conns = s.conns := rfl
@[simp] theorem modNode_vote (s : State) (n : Nat) (f : NodeSt → NodeSt) : (modNode s n f).vote = s.vote := rfl
@[simp] theorem modNode_field (s : State) (n : Nat) (f : NodeSt → NodeSt) : (modNode s n f).field = s.field := rfl
@[simp] theorem modNode_snd (s : State) (n : Nat) (f : NodeSt → NodeSt) : (modNode s n f).snd = s.snd := rfl
@[simp] theorem modNode_modu (s : State) (n : Nat) (f : NodeSt → NodeSt) : (modNode s n f).modu = s.modu := rfl
@[simp] theorem modNode_prog (s : State) (n : Nat) (f : NodeSt → NodeSt) : (modNode s n f).prog = s.prog := rfl
@[simp] theorem modNode_progNew (s : State) (n : Nat) (f : NodeSt → NodeSt) : (modNode s n f).progNew = s.progNew := rfl
@[simp] theorem modNode_bank (s : State) (n : Nat) (f : NodeSt → NodeSt) : (modNode s n f).bank = s.bank := rfl
@[simp] theorem modNode_ack (s : State) (n : Nat) (f : NodeSt → NodeSt) : (modNode s n f).ack = s.ack := rfl
@[simp] theorem modNode_safe (s : State) (n : Nat) (f : NodeSt → NodeSt) : (modNode s n f).safe = s.safe := rfl
@[simp] theorem modNode_xch (s : State) (n : Nat) (f : NodeSt → NodeSt) : (modNode s n f).xch = s.xch := rfl
@[simp] theorem modNode_recd (s : State) (n : Nat) (f : NodeSt → NodeSt) : (modNode s n f).recd = s.recd := rfl
@[simp] theorem modNode_flt (s : State) (n : Nat) (f : NodeSt → NodeSt) : (modNode s n f).flt = s.flt := rfl
@[simp] theorem modNode_hp (s : State) (n : Nat) (f : NodeSt → NodeSt) : (modNode s n f).hp = s.hp := rfl
@[simp] theorem modNode_pwr (s : State) (n : Nat) (f : NodeSt → NodeSt) : (modNode s n f).pwr = s.pwr := rfl
@[simp] theorem modNode_bring (s : State) (n : Nat) (f : NodeSt → NodeSt) : (modNode s n f).bring = s.bring := rfl
@[simp] theorem modNode_net (s : State) (n : Nat) (f : NodeSt → NodeSt) : (modNode s n f).net = s.net := rfl
@[simp] theorem modNode_train (s : State) (n : Nat) (f : NodeSt → NodeSt) : (modNode s n f).train = s.train := rfl
@[simp] theorem modNode_pair (s : State) (n : Nat) (f : NodeSt → NodeSt) : (modNode s n f).pair = s.pair := rfl
@[simp] theorem modNode_out (s : State) (n : Nat) (f : NodeSt → NodeSt) : (modNode s n f).out = s.out := rfl
@[simp] theorem modNode_pending (s : State) (n : Nat) (f : NodeSt → NodeSt) : (modNode s n f).pending = s.pending := rfl

/-! ### modSource -/

@[simp] theorem modSource_tim (s : State) (n : Nat) (f : SourceSt → SourceSt) : (modSource s n f).tim = s.tim := rfl
@[simp] theorem modSource_hubt (s : State) (n : Nat) (f : SourceSt → SourceSt) : (modSource s n f).hubt = s.hubt := rfl
@[simp] theorem modSource_lanes (s : State) (n : Nat) (f : SourceSt → SourceSt) : (modSource s n f).lanes = s.lanes := rfl
@[simp] theorem modSource_conns (s : State) (n : Nat) (f : SourceSt → SourceSt) : (modSource s n f).conns = s.conns := rfl
@[simp] theorem modSource_vote (s : State) (n : Nat) (f : SourceSt → SourceSt) : (modSource s n f).vote = s.vote := rfl
@[simp] theorem modSource_field (s : State) (n : Nat) (f : SourceSt → SourceSt) : (modSource s n f).field = s.field := rfl
@[simp] theorem modSource_snd (s : State) (n : Nat) (f : SourceSt → SourceSt) : (modSource s n f).snd = s.snd := rfl
@[simp] theorem modSource_modu (s : State) (n : Nat) (f : SourceSt → SourceSt) : (modSource s n f).modu = s.modu := rfl
@[simp] theorem modSource_prog (s : State) (n : Nat) (f : SourceSt → SourceSt) : (modSource s n f).prog = s.prog := rfl
@[simp] theorem modSource_progNew (s : State) (n : Nat) (f : SourceSt → SourceSt) : (modSource s n f).progNew = s.progNew := rfl
@[simp] theorem modSource_bank (s : State) (n : Nat) (f : SourceSt → SourceSt) : (modSource s n f).bank = s.bank := rfl
@[simp] theorem modSource_ack (s : State) (n : Nat) (f : SourceSt → SourceSt) : (modSource s n f).ack = s.ack := rfl
@[simp] theorem modSource_safe (s : State) (n : Nat) (f : SourceSt → SourceSt) : (modSource s n f).safe = s.safe := rfl
@[simp] theorem modSource_xch (s : State) (n : Nat) (f : SourceSt → SourceSt) : (modSource s n f).xch = s.xch := rfl
@[simp] theorem modSource_recd (s : State) (n : Nat) (f : SourceSt → SourceSt) : (modSource s n f).recd = s.recd := rfl
@[simp] theorem modSource_flt (s : State) (n : Nat) (f : SourceSt → SourceSt) : (modSource s n f).flt = s.flt := rfl
@[simp] theorem modSource_hp (s : State) (n : Nat) (f : SourceSt → SourceSt) : (modSource s n f).hp = s.hp := rfl
@[simp] theorem modSource_pwr (s : State) (n : Nat) (f : SourceSt → SourceSt) : (modSource s n f).pwr = s.pwr := rfl
@[simp] theorem modSource_bring (s : State) (n : Nat) (f : SourceSt → SourceSt) : (modSource s n f).bring = s.bring := rfl
@[simp] theorem modSource_net (s : State) (n : Nat) (f : SourceSt → SourceSt) : (modSource s n f).net = s.net := rfl
@[simp] theorem modSource_train (s : State) (n : Nat) (f : SourceSt → SourceSt) : (modSource s n f).train = s.train := rfl
@[simp] theorem modSource_pair (s : State) (n : Nat) (f : SourceSt → SourceSt) : (modSource s n f).pair = s.pair := rfl
@[simp] theorem modSource_out (s : State) (n : Nat) (f : SourceSt → SourceSt) : (modSource s n f).out = s.out := rfl
@[simp] theorem modSource_pending (s : State) (n : Nat) (f : SourceSt → SourceSt) : (modSource s n f).pending = s.pending := rfl

/-! ### setDelayed -/

@[simp] theorem setDelayed_tim (s : State) (i : Nat) (e : Option DelayedEntry) : (setDelayed s i e).tim = s.tim := rfl
@[simp] theorem setDelayed_hubt (s : State) (i : Nat) (e : Option DelayedEntry) : (setDelayed s i e).hubt = s.hubt := rfl
@[simp] theorem setDelayed_lanes (s : State) (i : Nat) (e : Option DelayedEntry) : (setDelayed s i e).lanes = s.lanes := rfl
@[simp] theorem setDelayed_conns (s : State) (i : Nat) (e : Option DelayedEntry) : (setDelayed s i e).conns = s.conns := rfl
@[simp] theorem setDelayed_vote (s : State) (i : Nat) (e : Option DelayedEntry) : (setDelayed s i e).vote = s.vote := rfl
@[simp] theorem setDelayed_field (s : State) (i : Nat) (e : Option DelayedEntry) : (setDelayed s i e).field = s.field := rfl
@[simp] theorem setDelayed_snd (s : State) (i : Nat) (e : Option DelayedEntry) : (setDelayed s i e).snd = s.snd := rfl
@[simp] theorem setDelayed_modu (s : State) (i : Nat) (e : Option DelayedEntry) : (setDelayed s i e).modu = s.modu := rfl
@[simp] theorem setDelayed_prog (s : State) (i : Nat) (e : Option DelayedEntry) : (setDelayed s i e).prog = s.prog := rfl
@[simp] theorem setDelayed_progNew (s : State) (i : Nat) (e : Option DelayedEntry) : (setDelayed s i e).progNew = s.progNew := rfl
@[simp] theorem setDelayed_bank (s : State) (i : Nat) (e : Option DelayedEntry) : (setDelayed s i e).bank = s.bank := rfl
@[simp] theorem setDelayed_ack (s : State) (i : Nat) (e : Option DelayedEntry) : (setDelayed s i e).ack = s.ack := rfl
@[simp] theorem setDelayed_safe (s : State) (i : Nat) (e : Option DelayedEntry) : (setDelayed s i e).safe = s.safe := rfl
@[simp] theorem setDelayed_xch (s : State) (i : Nat) (e : Option DelayedEntry) : (setDelayed s i e).xch = s.xch := rfl
@[simp] theorem setDelayed_recd (s : State) (i : Nat) (e : Option DelayedEntry) : (setDelayed s i e).recd = s.recd := rfl
@[simp] theorem setDelayed_flt (s : State) (i : Nat) (e : Option DelayedEntry) : (setDelayed s i e).flt = s.flt := rfl
@[simp] theorem setDelayed_hp (s : State) (i : Nat) (e : Option DelayedEntry) : (setDelayed s i e).hp = s.hp := rfl
@[simp] theorem setDelayed_pwr (s : State) (i : Nat) (e : Option DelayedEntry) : (setDelayed s i e).pwr = s.pwr := rfl
@[simp] theorem setDelayed_bring (s : State) (i : Nat) (e : Option DelayedEntry) : (setDelayed s i e).bring = s.bring := rfl
@[simp] theorem setDelayed_net (s : State) (i : Nat) (e : Option DelayedEntry) : (setDelayed s i e).net = s.net := rfl
@[simp] theorem setDelayed_train (s : State) (i : Nat) (e : Option DelayedEntry) : (setDelayed s i e).train = s.train := rfl
@[simp] theorem setDelayed_pair (s : State) (i : Nat) (e : Option DelayedEntry) : (setDelayed s i e).pair = s.pair := rfl
@[simp] theorem setDelayed_out (s : State) (i : Nat) (e : Option DelayedEntry) : (setDelayed s i e).out = s.out := rfl
@[simp] theorem setDelayed_pending (s : State) (i : Nat) (e : Option DelayedEntry) : (setDelayed s i e).pending = s.pending := rfl

/-! ### modGroup -/

@[simp] theorem modGroup_tim (s : State) (g : Nat) (f : GroupSt → GroupSt) : (modGroup s g f).tim = s.tim := rfl
@[simp] theorem modGroup_hubt (s : State) (g : Nat) (f : GroupSt → GroupSt) : (modGroup s g f).hubt = s.hubt := rfl
@[simp] theorem modGroup_lanes (s : State) (g : Nat) (f : GroupSt → GroupSt) : (modGroup s g f).lanes = s.lanes := rfl
@[simp] theorem modGroup_conns (s : State) (g : Nat) (f : GroupSt → GroupSt) : (modGroup s g f).conns = s.conns := rfl
@[simp] theorem modGroup_vote (s : State) (g : Nat) (f : GroupSt → GroupSt) : (modGroup s g f).vote = s.vote := rfl
@[simp] theorem modGroup_field (s : State) (g : Nat) (f : GroupSt → GroupSt) : (modGroup s g f).field = s.field := rfl
@[simp] theorem modGroup_snd (s : State) (g : Nat) (f : GroupSt → GroupSt) : (modGroup s g f).snd = s.snd := rfl
@[simp] theorem modGroup_modu (s : State) (g : Nat) (f : GroupSt → GroupSt) : (modGroup s g f).modu = s.modu := rfl
@[simp] theorem modGroup_prog (s : State) (g : Nat) (f : GroupSt → GroupSt) : (modGroup s g f).prog = s.prog := rfl
@[simp] theorem modGroup_progNew (s : State) (g : Nat) (f : GroupSt → GroupSt) : (modGroup s g f).progNew = s.progNew := rfl
@[simp] theorem modGroup_bank (s : State) (g : Nat) (f : GroupSt → GroupSt) : (modGroup s g f).bank = s.bank := rfl
@[simp] theorem modGroup_ack (s : State) (g : Nat) (f : GroupSt → GroupSt) : (modGroup s g f).ack = s.ack := rfl
@[simp] theorem modGroup_safe (s : State) (g : Nat) (f : GroupSt → GroupSt) : (modGroup s g f).safe = s.safe := rfl
@[simp] theorem modGroup_xch (s : State) (g : Nat) (f : GroupSt → GroupSt) : (modGroup s g f).xch = s.xch := rfl
@[simp] theorem modGroup_recd (s : State) (g : Nat) (f : GroupSt → GroupSt) : (modGroup s g f).recd = s.recd := rfl
@[simp] theorem modGroup_flt (s : State) (g : Nat) (f : GroupSt → GroupSt) : (modGroup s g f).flt = s.flt := rfl
@[simp] theorem modGroup_hp (s : State) (g : Nat) (f : GroupSt → GroupSt) : (modGroup s g f).hp = s.hp := rfl
@[simp] theorem modGroup_pwr (s : State) (g : Nat) (f : GroupSt → GroupSt) : (modGroup s g f).pwr = s.pwr := rfl
@[simp] theorem modGroup_bring (s : State) (g : Nat) (f : GroupSt → GroupSt) : (modGroup s g f).bring = s.bring := rfl
@[simp] theorem modGroup_net (s : State) (g : Nat) (f : GroupSt → GroupSt) : (modGroup s g f).net = s.net := rfl
@[simp] theorem modGroup_br (s : State) (g : Nat) (f : GroupSt → GroupSt) : (modGroup s g f).br = s.br := rfl
@[simp] theorem modGroup_pair (s : State) (g : Nat) (f : GroupSt → GroupSt) : (modGroup s g f).pair = s.pair := rfl
@[simp] theorem modGroup_out (s : State) (g : Nat) (f : GroupSt → GroupSt) : (modGroup s g f).out = s.out := rfl
@[simp] theorem modGroup_pending (s : State) (g : Nat) (f : GroupSt → GroupSt) : (modGroup s g f).pending = s.pending := rfl

/-! ### modMram -/

@[simp] theorem modMram_tim (s : State) (f : List Host.Cell → List Host.Cell) : (modMram s f).tim = s.tim := rfl
@[simp] theorem modMram_hubt (s : State) (f : List Host.Cell → List Host.Cell) : (modMram s f).hubt = s.hubt := rfl
@[simp] theorem modMram_lanes (s : State) (f : List Host.Cell → List Host.Cell) : (modMram s f).lanes = s.lanes := rfl
@[simp] theorem modMram_conns (s : State) (f : List Host.Cell → List Host.Cell) : (modMram s f).conns = s.conns := rfl
@[simp] theorem modMram_vote (s : State) (f : List Host.Cell → List Host.Cell) : (modMram s f).vote = s.vote := rfl
@[simp] theorem modMram_field (s : State) (f : List Host.Cell → List Host.Cell) : (modMram s f).field = s.field := rfl
@[simp] theorem modMram_snd (s : State) (f : List Host.Cell → List Host.Cell) : (modMram s f).snd = s.snd := rfl
@[simp] theorem modMram_modu (s : State) (f : List Host.Cell → List Host.Cell) : (modMram s f).modu = s.modu := rfl
@[simp] theorem modMram_prog (s : State) (f : List Host.Cell → List Host.Cell) : (modMram s f).prog = s.prog := rfl
@[simp] theorem modMram_progNew (s : State) (f : List Host.Cell → List Host.Cell) : (modMram s f).progNew = s.progNew := rfl
@[simp] theorem modMram_bank (s : State) (f : List Host.Cell → List Host.Cell) : (modMram s f).bank = s.bank := rfl
@[simp] theorem modMram_ack (s : State) (f : List Host.Cell → List Host.Cell) : (modMram s f).ack = s.ack := rfl
@[simp] theorem modMram_safe (s : State) (f : List Host.Cell → List Host.Cell) : (modMram s f).safe = s.safe := rfl
@[simp] theorem modMram_recd (s : State) (f : List Host.Cell → List Host.Cell) : (modMram s f).recd = s.recd := rfl
@[simp] theorem modMram_flt (s : State) (f : List Host.Cell → List Host.Cell) : (modMram s f).flt = s.flt := rfl
@[simp] theorem modMram_hp (s : State) (f : List Host.Cell → List Host.Cell) : (modMram s f).hp = s.hp := rfl
@[simp] theorem modMram_pwr (s : State) (f : List Host.Cell → List Host.Cell) : (modMram s f).pwr = s.pwr := rfl
@[simp] theorem modMram_bring (s : State) (f : List Host.Cell → List Host.Cell) : (modMram s f).bring = s.bring := rfl
@[simp] theorem modMram_net (s : State) (f : List Host.Cell → List Host.Cell) : (modMram s f).net = s.net := rfl
@[simp] theorem modMram_train (s : State) (f : List Host.Cell → List Host.Cell) : (modMram s f).train = s.train := rfl
@[simp] theorem modMram_br (s : State) (f : List Host.Cell → List Host.Cell) : (modMram s f).br = s.br := rfl
@[simp] theorem modMram_pair (s : State) (f : List Host.Cell → List Host.Cell) : (modMram s f).pair = s.pair := rfl
@[simp] theorem modMram_out (s : State) (f : List Host.Cell → List Host.Cell) : (modMram s f).out = s.out := rfl
@[simp] theorem modMram_pending (s : State) (f : List Host.Cell → List Host.Cell) : (modMram s f).pending = s.pending := rfl

/-! ### setFaultQueue -/

@[simp] theorem setFaultQueue_tim (s : State) (r : Region) (q : FaultQueue) : (setFaultQueue s r q).tim = s.tim := by cases r <;> rfl
@[simp] theorem setFaultQueue_hubt (s : State) (r : Region) (q : FaultQueue) : (setFaultQueue s r q).hubt = s.hubt := by cases r <;> rfl
@[simp] theorem setFaultQueue_lanes (s : State) (r : Region) (q : FaultQueue) : (setFaultQueue s r q).lanes = s.lanes := by cases r <;> rfl
@[simp] theorem setFaultQueue_conns (s : State) (r : Region) (q : FaultQueue) : (setFaultQueue s r q).conns = s.conns := by cases r <;> rfl
@[simp] theorem setFaultQueue_vote (s : State) (r : Region) (q : FaultQueue) : (setFaultQueue s r q).vote = s.vote := by cases r <;> rfl
@[simp] theorem setFaultQueue_field (s : State) (r : Region) (q : FaultQueue) : (setFaultQueue s r q).field = s.field := by cases r <;> rfl
@[simp] theorem setFaultQueue_snd (s : State) (r : Region) (q : FaultQueue) : (setFaultQueue s r q).snd = s.snd := by cases r <;> rfl
@[simp] theorem setFaultQueue_modu (s : State) (r : Region) (q : FaultQueue) : (setFaultQueue s r q).modu = s.modu := by cases r <;> rfl
@[simp] theorem setFaultQueue_prog (s : State) (r : Region) (q : FaultQueue) : (setFaultQueue s r q).prog = s.prog := by cases r <;> rfl
@[simp] theorem setFaultQueue_progNew (s : State) (r : Region) (q : FaultQueue) : (setFaultQueue s r q).progNew = s.progNew := by cases r <;> rfl
@[simp] theorem setFaultQueue_bank (s : State) (r : Region) (q : FaultQueue) : (setFaultQueue s r q).bank = s.bank := by cases r <;> rfl
@[simp] theorem setFaultQueue_ack (s : State) (r : Region) (q : FaultQueue) : (setFaultQueue s r q).ack = s.ack := by cases r <;> rfl
@[simp] theorem setFaultQueue_safe (s : State) (r : Region) (q : FaultQueue) : (setFaultQueue s r q).safe = s.safe := by cases r <;> rfl
@[simp] theorem setFaultQueue_xch (s : State) (r : Region) (q : FaultQueue) : (setFaultQueue s r q).xch = s.xch := by cases r <;> rfl
@[simp] theorem setFaultQueue_recd (s : State) (r : Region) (q : FaultQueue) : (setFaultQueue s r q).recd = s.recd := by cases r <;> rfl
@[simp] theorem setFaultQueue_hp (s : State) (r : Region) (q : FaultQueue) : (setFaultQueue s r q).hp = s.hp := by cases r <;> rfl
@[simp] theorem setFaultQueue_pwr (s : State) (r : Region) (q : FaultQueue) : (setFaultQueue s r q).pwr = s.pwr := by cases r <;> rfl
@[simp] theorem setFaultQueue_bring (s : State) (r : Region) (q : FaultQueue) : (setFaultQueue s r q).bring = s.bring := by cases r <;> rfl
@[simp] theorem setFaultQueue_net (s : State) (r : Region) (q : FaultQueue) : (setFaultQueue s r q).net = s.net := by cases r <;> rfl
@[simp] theorem setFaultQueue_train (s : State) (r : Region) (q : FaultQueue) : (setFaultQueue s r q).train = s.train := by cases r <;> rfl
@[simp] theorem setFaultQueue_br (s : State) (r : Region) (q : FaultQueue) : (setFaultQueue s r q).br = s.br := by cases r <;> rfl
@[simp] theorem setFaultQueue_pair (s : State) (r : Region) (q : FaultQueue) : (setFaultQueue s r q).pair = s.pair := by cases r <;> rfl
@[simp] theorem setFaultQueue_out (s : State) (r : Region) (q : FaultQueue) : (setFaultQueue s r q).out = s.out := by cases r <;> rfl
@[simp] theorem setFaultQueue_pending (s : State) (r : Region) (q : FaultQueue) : (setFaultQueue s r q).pending = s.pending := by cases r <;> rfl

/-! ### modTrigger -/

@[simp] theorem modTrigger_hubt (s : State) (n : Nat) (f : Trigger → Trigger) : (modTrigger s n f).hubt = s.hubt := rfl
@[simp] theorem modTrigger_lanes (s : State) (n : Nat) (f : Trigger → Trigger) : (modTrigger s n f).lanes = s.lanes := rfl
@[simp] theorem modTrigger_conns (s : State) (n : Nat) (f : Trigger → Trigger) : (modTrigger s n f).conns = s.conns := rfl
@[simp] theorem modTrigger_vote (s : State) (n : Nat) (f : Trigger → Trigger) : (modTrigger s n f).vote = s.vote := rfl
@[simp] theorem modTrigger_field (s : State) (n : Nat) (f : Trigger → Trigger) : (modTrigger s n f).field = s.field := rfl
@[simp] theorem modTrigger_snd (s : State) (n : Nat) (f : Trigger → Trigger) : (modTrigger s n f).snd = s.snd := rfl
@[simp] theorem modTrigger_modu (s : State) (n : Nat) (f : Trigger → Trigger) : (modTrigger s n f).modu = s.modu := rfl
@[simp] theorem modTrigger_prog (s : State) (n : Nat) (f : Trigger → Trigger) : (modTrigger s n f).prog = s.prog := rfl
@[simp] theorem modTrigger_progNew (s : State) (n : Nat) (f : Trigger → Trigger) : (modTrigger s n f).progNew = s.progNew := rfl
@[simp] theorem modTrigger_bank (s : State) (n : Nat) (f : Trigger → Trigger) : (modTrigger s n f).bank = s.bank := rfl
@[simp] theorem modTrigger_ack (s : State) (n : Nat) (f : Trigger → Trigger) : (modTrigger s n f).ack = s.ack := rfl
@[simp] theorem modTrigger_safe (s : State) (n : Nat) (f : Trigger → Trigger) : (modTrigger s n f).safe = s.safe := rfl
@[simp] theorem modTrigger_xch (s : State) (n : Nat) (f : Trigger → Trigger) : (modTrigger s n f).xch = s.xch := rfl
@[simp] theorem modTrigger_recd (s : State) (n : Nat) (f : Trigger → Trigger) : (modTrigger s n f).recd = s.recd := rfl
@[simp] theorem modTrigger_flt (s : State) (n : Nat) (f : Trigger → Trigger) : (modTrigger s n f).flt = s.flt := rfl
@[simp] theorem modTrigger_hp (s : State) (n : Nat) (f : Trigger → Trigger) : (modTrigger s n f).hp = s.hp := rfl
@[simp] theorem modTrigger_pwr (s : State) (n : Nat) (f : Trigger → Trigger) : (modTrigger s n f).pwr = s.pwr := rfl
@[simp] theorem modTrigger_bring (s : State) (n : Nat) (f : Trigger → Trigger) : (modTrigger s n f).bring = s.bring := rfl
@[simp] theorem modTrigger_net (s : State) (n : Nat) (f : Trigger → Trigger) : (modTrigger s n f).net = s.net := rfl
@[simp] theorem modTrigger_train (s : State) (n : Nat) (f : Trigger → Trigger) : (modTrigger s n f).train = s.train := rfl
@[simp] theorem modTrigger_br (s : State) (n : Nat) (f : Trigger → Trigger) : (modTrigger s n f).br = s.br := rfl
@[simp] theorem modTrigger_pair (s : State) (n : Nat) (f : Trigger → Trigger) : (modTrigger s n f).pair = s.pair := rfl
@[simp] theorem modTrigger_out (s : State) (n : Nat) (f : Trigger → Trigger) : (modTrigger s n f).out = s.out := rfl
@[simp] theorem modTrigger_pending (s : State) (n : Nat) (f : Trigger → Trigger) : (modTrigger s n f).pending = s.pending := rfl

/-! ### modDesc -/

@[simp] theorem modDesc_tim (s : State) (id : Nat) (f : Desc → Desc) : (modDesc s id f).tim = s.tim := rfl
@[simp] theorem modDesc_hubt (s : State) (id : Nat) (f : Desc → Desc) : (modDesc s id f).hubt = s.hubt := rfl
@[simp] theorem modDesc_lanes (s : State) (id : Nat) (f : Desc → Desc) : (modDesc s id f).lanes = s.lanes := rfl
@[simp] theorem modDesc_conns (s : State) (id : Nat) (f : Desc → Desc) : (modDesc s id f).conns = s.conns := rfl
@[simp] theorem modDesc_vote (s : State) (id : Nat) (f : Desc → Desc) : (modDesc s id f).vote = s.vote := rfl
@[simp] theorem modDesc_field (s : State) (id : Nat) (f : Desc → Desc) : (modDesc s id f).field = s.field := rfl
@[simp] theorem modDesc_snd (s : State) (id : Nat) (f : Desc → Desc) : (modDesc s id f).snd = s.snd := rfl
@[simp] theorem modDesc_modu (s : State) (id : Nat) (f : Desc → Desc) : (modDesc s id f).modu = s.modu := rfl
@[simp] theorem modDesc_prog (s : State) (id : Nat) (f : Desc → Desc) : (modDesc s id f).prog = s.prog := rfl
@[simp] theorem modDesc_progNew (s : State) (id : Nat) (f : Desc → Desc) : (modDesc s id f).progNew = s.progNew := rfl
@[simp] theorem modDesc_bank (s : State) (id : Nat) (f : Desc → Desc) : (modDesc s id f).bank = s.bank := rfl
@[simp] theorem modDesc_ack (s : State) (id : Nat) (f : Desc → Desc) : (modDesc s id f).ack = s.ack := rfl
@[simp] theorem modDesc_safe (s : State) (id : Nat) (f : Desc → Desc) : (modDesc s id f).safe = s.safe := rfl
@[simp] theorem modDesc_xch (s : State) (id : Nat) (f : Desc → Desc) : (modDesc s id f).xch = s.xch := rfl
@[simp] theorem modDesc_recd (s : State) (id : Nat) (f : Desc → Desc) : (modDesc s id f).recd = s.recd := rfl
@[simp] theorem modDesc_flt (s : State) (id : Nat) (f : Desc → Desc) : (modDesc s id f).flt = s.flt := rfl
@[simp] theorem modDesc_hp (s : State) (id : Nat) (f : Desc → Desc) : (modDesc s id f).hp = s.hp := rfl
@[simp] theorem modDesc_pwr (s : State) (id : Nat) (f : Desc → Desc) : (modDesc s id f).pwr = s.pwr := rfl
@[simp] theorem modDesc_bring (s : State) (id : Nat) (f : Desc → Desc) : (modDesc s id f).bring = s.bring := rfl
@[simp] theorem modDesc_train (s : State) (id : Nat) (f : Desc → Desc) : (modDesc s id f).train = s.train := rfl
@[simp] theorem modDesc_br (s : State) (id : Nat) (f : Desc → Desc) : (modDesc s id f).br = s.br := rfl
@[simp] theorem modDesc_pair (s : State) (id : Nat) (f : Desc → Desc) : (modDesc s id f).pair = s.pair := rfl
@[simp] theorem modDesc_out (s : State) (id : Nat) (f : Desc → Desc) : (modDesc s id f).out = s.out := rfl
@[simp] theorem modDesc_pending (s : State) (id : Nat) (f : Desc → Desc) : (modDesc s id f).pending = s.pending := rfl

/-! ### discardWrite -/

@[simp] theorem discardWrite_tim (s : State) : (discardWrite s).tim = s.tim := rfl
@[simp] theorem discardWrite_hubt (s : State) : (discardWrite s).hubt = s.hubt := rfl
@[simp] theorem discardWrite_lanes (s : State) : (discardWrite s).lanes = s.lanes := rfl
@[simp] theorem discardWrite_conns (s : State) : (discardWrite s).conns = s.conns := rfl
@[simp] theorem discardWrite_vote (s : State) : (discardWrite s).vote = s.vote := rfl
@[simp] theorem discardWrite_field (s : State) : (discardWrite s).field = s.field := rfl
@[simp] theorem discardWrite_snd (s : State) : (discardWrite s).snd = s.snd := rfl
@[simp] theorem discardWrite_modu (s : State) : (discardWrite s).modu = s.modu := rfl
@[simp] theorem discardWrite_prog (s : State) : (discardWrite s).prog = s.prog := rfl
@[simp] theorem discardWrite_progNew (s : State) : (discardWrite s).progNew = s.progNew := rfl
@[simp] theorem discardWrite_bank (s : State) : (discardWrite s).bank = s.bank := rfl
@[simp] theorem discardWrite_ack (s : State) : (discardWrite s).ack = s.ack := rfl
@[simp] theorem discardWrite_safe (s : State) : (discardWrite s).safe = s.safe := rfl
@[simp] theorem discardWrite_xch (s : State) : (discardWrite s).xch = s.xch := rfl
@[simp] theorem discardWrite_recd (s : State) : (discardWrite s).recd = s.recd := rfl
@[simp] theorem discardWrite_hp (s : State) : (discardWrite s).hp = s.hp := rfl
@[simp] theorem discardWrite_pwr (s : State) : (discardWrite s).pwr = s.pwr := rfl
@[simp] theorem discardWrite_bring (s : State) : (discardWrite s).bring = s.bring := rfl
@[simp] theorem discardWrite_net (s : State) : (discardWrite s).net = s.net := rfl
@[simp] theorem discardWrite_train (s : State) : (discardWrite s).train = s.train := rfl
@[simp] theorem discardWrite_br (s : State) : (discardWrite s).br = s.br := rfl
@[simp] theorem discardWrite_pair (s : State) : (discardWrite s).pair = s.pair := rfl
@[simp] theorem discardWrite_out (s : State) : (discardWrite s).out = s.out := rfl
@[simp] theorem discardWrite_pending (s : State) : (discardWrite s).pending = s.pending := rfl

/-! ### zeroReads -/

@[simp] theorem zeroReads_tim (s : State) (n : Nat) : (zeroReads s n).tim = s.tim := rfl
@[simp] theorem zeroReads_hubt (s : State) (n : Nat) : (zeroReads s n).hubt = s.hubt := rfl
@[simp] theorem zeroReads_lanes (s : State) (n : Nat) : (zeroReads s n).lanes = s.lanes := rfl
@[simp] theorem zeroReads_conns (s : State) (n : Nat) : (zeroReads s n).conns = s.conns := rfl
@[simp] theorem zeroReads_vote (s : State) (n : Nat) : (zeroReads s n).vote = s.vote := rfl
@[simp] theorem zeroReads_field (s : State) (n : Nat) : (zeroReads s n).field = s.field := rfl
@[simp] theorem zeroReads_snd (s : State) (n : Nat) : (zeroReads s n).snd = s.snd := rfl
@[simp] theorem zeroReads_modu (s : State) (n : Nat) : (zeroReads s n).modu = s.modu := rfl
@[simp] theorem zeroReads_prog (s : State) (n : Nat) : (zeroReads s n).prog = s.prog := rfl
@[simp] theorem zeroReads_progNew (s : State) (n : Nat) : (zeroReads s n).progNew = s.progNew := rfl
@[simp] theorem zeroReads_bank (s : State) (n : Nat) : (zeroReads s n).bank = s.bank := rfl
@[simp] theorem zeroReads_ack (s : State) (n : Nat) : (zeroReads s n).ack = s.ack := rfl
@[simp] theorem zeroReads_safe (s : State) (n : Nat) : (zeroReads s n).safe = s.safe := rfl
@[simp] theorem zeroReads_xch (s : State) (n : Nat) : (zeroReads s n).xch = s.xch := rfl
@[simp] theorem zeroReads_recd (s : State) (n : Nat) : (zeroReads s n).recd = s.recd := rfl
@[simp] theorem zeroReads_hp (s : State) (n : Nat) : (zeroReads s n).hp = s.hp := rfl
@[simp] theorem zeroReads_pwr (s : State) (n : Nat) : (zeroReads s n).pwr = s.pwr := rfl
@[simp] theorem zeroReads_bring (s : State) (n : Nat) : (zeroReads s n).bring = s.bring := rfl
@[simp] theorem zeroReads_net (s : State) (n : Nat) : (zeroReads s n).net = s.net := rfl
@[simp] theorem zeroReads_train (s : State) (n : Nat) : (zeroReads s n).train = s.train := rfl
@[simp] theorem zeroReads_br (s : State) (n : Nat) : (zeroReads s n).br = s.br := rfl
@[simp] theorem zeroReads_pair (s : State) (n : Nat) : (zeroReads s n).pair = s.pair := rfl
@[simp] theorem zeroReads_out (s : State) (n : Nat) : (zeroReads s n).out = s.out := rfl
@[simp] theorem zeroReads_pending (s : State) (n : Nat) : (zeroReads s n).pending = s.pending := rfl

/-! ### modFlow -/

@[simp] theorem modFlow_tim (s : State) (id : Nat) (f : FlowSt → FlowSt) : (modFlow s id f).tim = s.tim := rfl
@[simp] theorem modFlow_hubt (s : State) (id : Nat) (f : FlowSt → FlowSt) : (modFlow s id f).hubt = s.hubt := rfl
@[simp] theorem modFlow_lanes (s : State) (id : Nat) (f : FlowSt → FlowSt) : (modFlow s id f).lanes = s.lanes := rfl
@[simp] theorem modFlow_conns (s : State) (id : Nat) (f : FlowSt → FlowSt) : (modFlow s id f).conns = s.conns := rfl
@[simp] theorem modFlow_vote (s : State) (id : Nat) (f : FlowSt → FlowSt) : (modFlow s id f).vote = s.vote := rfl
@[simp] theorem modFlow_field (s : State) (id : Nat) (f : FlowSt → FlowSt) : (modFlow s id f).field = s.field := rfl
@[simp] theorem modFlow_modu (s : State) (id : Nat) (f : FlowSt → FlowSt) : (modFlow s id f).modu = s.modu := rfl
@[simp] theorem modFlow_prog (s : State) (id : Nat) (f : FlowSt → FlowSt) : (modFlow s id f).prog = s.prog := rfl
@[simp] theorem modFlow_progNew (s : State) (id : Nat) (f : FlowSt → FlowSt) : (modFlow s id f).progNew = s.progNew := rfl
@[simp] theorem modFlow_bank (s : State) (id : Nat) (f : FlowSt → FlowSt) : (modFlow s id f).bank = s.bank := rfl
@[simp] theorem modFlow_ack (s : State) (id : Nat) (f : FlowSt → FlowSt) : (modFlow s id f).ack = s.ack := rfl
@[simp] theorem modFlow_safe (s : State) (id : Nat) (f : FlowSt → FlowSt) : (modFlow s id f).safe = s.safe := rfl
@[simp] theorem modFlow_xch (s : State) (id : Nat) (f : FlowSt → FlowSt) : (modFlow s id f).xch = s.xch := rfl
@[simp] theorem modFlow_recd (s : State) (id : Nat) (f : FlowSt → FlowSt) : (modFlow s id f).recd = s.recd := rfl
@[simp] theorem modFlow_flt (s : State) (id : Nat) (f : FlowSt → FlowSt) : (modFlow s id f).flt = s.flt := rfl
@[simp] theorem modFlow_hp (s : State) (id : Nat) (f : FlowSt → FlowSt) : (modFlow s id f).hp = s.hp := rfl
@[simp] theorem modFlow_pwr (s : State) (id : Nat) (f : FlowSt → FlowSt) : (modFlow s id f).pwr = s.pwr := rfl
@[simp] theorem modFlow_bring (s : State) (id : Nat) (f : FlowSt → FlowSt) : (modFlow s id f).bring = s.bring := rfl
@[simp] theorem modFlow_net (s : State) (id : Nat) (f : FlowSt → FlowSt) : (modFlow s id f).net = s.net := rfl
@[simp] theorem modFlow_train (s : State) (id : Nat) (f : FlowSt → FlowSt) : (modFlow s id f).train = s.train := rfl
@[simp] theorem modFlow_br (s : State) (id : Nat) (f : FlowSt → FlowSt) : (modFlow s id f).br = s.br := rfl
@[simp] theorem modFlow_pair (s : State) (id : Nat) (f : FlowSt → FlowSt) : (modFlow s id f).pair = s.pair := rfl
@[simp] theorem modFlow_out (s : State) (id : Nat) (f : FlowSt → FlowSt) : (modFlow s id f).out = s.out := rfl
@[simp] theorem modFlow_pending (s : State) (id : Nat) (f : FlowSt → FlowSt) : (modFlow s id f).pending = s.pending := rfl

/-! ### modMix -/

@[simp] theorem modMix_tim (s : State) (p : Nat) (f : MixPt → MixPt) : (modMix s p f).tim = s.tim := rfl
@[simp] theorem modMix_hubt (s : State) (p : Nat) (f : MixPt → MixPt) : (modMix s p f).hubt = s.hubt := rfl
@[simp] theorem modMix_lanes (s : State) (p : Nat) (f : MixPt → MixPt) : (modMix s p f).lanes = s.lanes := rfl
@[simp] theorem modMix_conns (s : State) (p : Nat) (f : MixPt → MixPt) : (modMix s p f).conns = s.conns := rfl
@[simp] theorem modMix_vote (s : State) (p : Nat) (f : MixPt → MixPt) : (modMix s p f).vote = s.vote := rfl
@[simp] theorem modMix_field (s : State) (p : Nat) (f : MixPt → MixPt) : (modMix s p f).field = s.field := rfl
@[simp] theorem modMix_modu (s : State) (p : Nat) (f : MixPt → MixPt) : (modMix s p f).modu = s.modu := rfl
@[simp] theorem modMix_prog (s : State) (p : Nat) (f : MixPt → MixPt) : (modMix s p f).prog = s.prog := rfl
@[simp] theorem modMix_progNew (s : State) (p : Nat) (f : MixPt → MixPt) : (modMix s p f).progNew = s.progNew := rfl
@[simp] theorem modMix_bank (s : State) (p : Nat) (f : MixPt → MixPt) : (modMix s p f).bank = s.bank := rfl
@[simp] theorem modMix_ack (s : State) (p : Nat) (f : MixPt → MixPt) : (modMix s p f).ack = s.ack := rfl
@[simp] theorem modMix_safe (s : State) (p : Nat) (f : MixPt → MixPt) : (modMix s p f).safe = s.safe := rfl
@[simp] theorem modMix_xch (s : State) (p : Nat) (f : MixPt → MixPt) : (modMix s p f).xch = s.xch := rfl
@[simp] theorem modMix_recd (s : State) (p : Nat) (f : MixPt → MixPt) : (modMix s p f).recd = s.recd := rfl
@[simp] theorem modMix_flt (s : State) (p : Nat) (f : MixPt → MixPt) : (modMix s p f).flt = s.flt := rfl
@[simp] theorem modMix_hp (s : State) (p : Nat) (f : MixPt → MixPt) : (modMix s p f).hp = s.hp := rfl
@[simp] theorem modMix_pwr (s : State) (p : Nat) (f : MixPt → MixPt) : (modMix s p f).pwr = s.pwr := rfl
@[simp] theorem modMix_bring (s : State) (p : Nat) (f : MixPt → MixPt) : (modMix s p f).bring = s.bring := rfl
@[simp] theorem modMix_net (s : State) (p : Nat) (f : MixPt → MixPt) : (modMix s p f).net = s.net := rfl
@[simp] theorem modMix_train (s : State) (p : Nat) (f : MixPt → MixPt) : (modMix s p f).train = s.train := rfl
@[simp] theorem modMix_br (s : State) (p : Nat) (f : MixPt → MixPt) : (modMix s p f).br = s.br := rfl
@[simp] theorem modMix_pair (s : State) (p : Nat) (f : MixPt → MixPt) : (modMix s p f).pair = s.pair := rfl
@[simp] theorem modMix_out (s : State) (p : Nat) (f : MixPt → MixPt) : (modMix s p f).out = s.out := rfl
@[simp] theorem modMix_pending (s : State) (p : Nat) (f : MixPt → MixPt) : (modMix s p f).pending = s.pending := rfl

/-! ### modPtp -/

@[simp] theorem modPtp_tim (s : State) (f : Ptp → Ptp) : (modPtp s f).tim = s.tim := rfl
@[simp] theorem modPtp_hubt (s : State) (f : Ptp → Ptp) : (modPtp s f).hubt = s.hubt := rfl
@[simp] theorem modPtp_lanes (s : State) (f : Ptp → Ptp) : (modPtp s f).lanes = s.lanes := rfl
@[simp] theorem modPtp_conns (s : State) (f : Ptp → Ptp) : (modPtp s f).conns = s.conns := rfl
@[simp] theorem modPtp_vote (s : State) (f : Ptp → Ptp) : (modPtp s f).vote = s.vote := rfl
@[simp] theorem modPtp_field (s : State) (f : Ptp → Ptp) : (modPtp s f).field = s.field := rfl
@[simp] theorem modPtp_snd (s : State) (f : Ptp → Ptp) : (modPtp s f).snd = s.snd := rfl
@[simp] theorem modPtp_modu (s : State) (f : Ptp → Ptp) : (modPtp s f).modu = s.modu := rfl
@[simp] theorem modPtp_prog (s : State) (f : Ptp → Ptp) : (modPtp s f).prog = s.prog := rfl
@[simp] theorem modPtp_progNew (s : State) (f : Ptp → Ptp) : (modPtp s f).progNew = s.progNew := rfl
@[simp] theorem modPtp_bank (s : State) (f : Ptp → Ptp) : (modPtp s f).bank = s.bank := rfl
@[simp] theorem modPtp_ack (s : State) (f : Ptp → Ptp) : (modPtp s f).ack = s.ack := rfl
@[simp] theorem modPtp_safe (s : State) (f : Ptp → Ptp) : (modPtp s f).safe = s.safe := rfl
@[simp] theorem modPtp_xch (s : State) (f : Ptp → Ptp) : (modPtp s f).xch = s.xch := rfl
@[simp] theorem modPtp_recd (s : State) (f : Ptp → Ptp) : (modPtp s f).recd = s.recd := rfl
@[simp] theorem modPtp_flt (s : State) (f : Ptp → Ptp) : (modPtp s f).flt = s.flt := rfl
@[simp] theorem modPtp_hp (s : State) (f : Ptp → Ptp) : (modPtp s f).hp = s.hp := rfl
@[simp] theorem modPtp_pwr (s : State) (f : Ptp → Ptp) : (modPtp s f).pwr = s.pwr := rfl
@[simp] theorem modPtp_bring (s : State) (f : Ptp → Ptp) : (modPtp s f).bring = s.bring := rfl
@[simp] theorem modPtp_net (s : State) (f : Ptp → Ptp) : (modPtp s f).net = s.net := rfl
@[simp] theorem modPtp_br (s : State) (f : Ptp → Ptp) : (modPtp s f).br = s.br := rfl
@[simp] theorem modPtp_pair (s : State) (f : Ptp → Ptp) : (modPtp s f).pair = s.pair := rfl
@[simp] theorem modPtp_out (s : State) (f : Ptp → Ptp) : (modPtp s f).out = s.out := rfl
@[simp] theorem modPtp_pending (s : State) (f : Ptp → Ptp) : (modPtp s f).pending = s.pending := rfl

/-! ### setConn -/

@[simp] theorem setConn_tim (s : State) (l : Lane) (x : ConnState) : (setConn s l x).tim = s.tim := rfl
@[simp] theorem setConn_hubt (s : State) (l : Lane) (x : ConnState) : (setConn s l x).hubt = s.hubt := rfl
@[simp] theorem setConn_lanes (s : State) (l : Lane) (x : ConnState) : (setConn s l x).lanes = s.lanes := rfl
@[simp] theorem setConn_vote (s : State) (l : Lane) (x : ConnState) : (setConn s l x).vote = s.vote := rfl
@[simp] theorem setConn_field (s : State) (l : Lane) (x : ConnState) : (setConn s l x).field = s.field := rfl
@[simp] theorem setConn_snd (s : State) (l : Lane) (x : ConnState) : (setConn s l x).snd = s.snd := rfl
@[simp] theorem setConn_modu (s : State) (l : Lane) (x : ConnState) : (setConn s l x).modu = s.modu := rfl
@[simp] theorem setConn_prog (s : State) (l : Lane) (x : ConnState) : (setConn s l x).prog = s.prog := rfl
@[simp] theorem setConn_progNew (s : State) (l : Lane) (x : ConnState) : (setConn s l x).progNew = s.progNew := rfl
@[simp] theorem setConn_bank (s : State) (l : Lane) (x : ConnState) : (setConn s l x).bank = s.bank := rfl
@[simp] theorem setConn_ack (s : State) (l : Lane) (x : ConnState) : (setConn s l x).ack = s.ack := rfl
@[simp] theorem setConn_safe (s : State) (l : Lane) (x : ConnState) : (setConn s l x).safe = s.safe := rfl
@[simp] theorem setConn_xch (s : State) (l : Lane) (x : ConnState) : (setConn s l x).xch = s.xch := rfl
@[simp] theorem setConn_recd (s : State) (l : Lane) (x : ConnState) : (setConn s l x).recd = s.recd := rfl
@[simp] theorem setConn_flt (s : State) (l : Lane) (x : ConnState) : (setConn s l x).flt = s.flt := rfl
@[simp] theorem setConn_hp (s : State) (l : Lane) (x : ConnState) : (setConn s l x).hp = s.hp := rfl
@[simp] theorem setConn_pwr (s : State) (l : Lane) (x : ConnState) : (setConn s l x).pwr = s.pwr := rfl
@[simp] theorem setConn_bring (s : State) (l : Lane) (x : ConnState) : (setConn s l x).bring = s.bring := rfl
@[simp] theorem setConn_net (s : State) (l : Lane) (x : ConnState) : (setConn s l x).net = s.net := rfl
@[simp] theorem setConn_train (s : State) (l : Lane) (x : ConnState) : (setConn s l x).train = s.train := rfl
@[simp] theorem setConn_br (s : State) (l : Lane) (x : ConnState) : (setConn s l x).br = s.br := rfl
@[simp] theorem setConn_pair (s : State) (l : Lane) (x : ConnState) : (setConn s l x).pair = s.pair := rfl
@[simp] theorem setConn_out (s : State) (l : Lane) (x : ConnState) : (setConn s l x).out = s.out := rfl
@[simp] theorem setConn_pending (s : State) (l : Lane) (x : ConnState) : (setConn s l x).pending = s.pending := rfl

/-! ### modCount -/

@[simp] theorem modCount_tim (s : State) (d : Nat) (f : RecCount → RecCount) : (modCount s d f).tim = s.tim := rfl
@[simp] theorem modCount_hubt (s : State) (d : Nat) (f : RecCount → RecCount) : (modCount s d f).hubt = s.hubt := rfl
@[simp] theorem modCount_lanes (s : State) (d : Nat) (f : RecCount → RecCount) : (modCount s d f).lanes = s.lanes := rfl
@[simp] theorem modCount_conns (s : State) (d : Nat) (f : RecCount → RecCount) : (modCount s d f).conns = s.conns := rfl
@[simp] theorem modCount_vote (s : State) (d : Nat) (f : RecCount → RecCount) : (modCount s d f).vote = s.vote := rfl
@[simp] theorem modCount_field (s : State) (d : Nat) (f : RecCount → RecCount) : (modCount s d f).field = s.field := rfl
@[simp] theorem modCount_snd (s : State) (d : Nat) (f : RecCount → RecCount) : (modCount s d f).snd = s.snd := rfl
@[simp] theorem modCount_modu (s : State) (d : Nat) (f : RecCount → RecCount) : (modCount s d f).modu = s.modu := rfl
@[simp] theorem modCount_prog (s : State) (d : Nat) (f : RecCount → RecCount) : (modCount s d f).prog = s.prog := rfl
@[simp] theorem modCount_progNew (s : State) (d : Nat) (f : RecCount → RecCount) : (modCount s d f).progNew = s.progNew := rfl
@[simp] theorem modCount_bank (s : State) (d : Nat) (f : RecCount → RecCount) : (modCount s d f).bank = s.bank := rfl
@[simp] theorem modCount_ack (s : State) (d : Nat) (f : RecCount → RecCount) : (modCount s d f).ack = s.ack := rfl
@[simp] theorem modCount_safe (s : State) (d : Nat) (f : RecCount → RecCount) : (modCount s d f).safe = s.safe := rfl
@[simp] theorem modCount_xch (s : State) (d : Nat) (f : RecCount → RecCount) : (modCount s d f).xch = s.xch := rfl
@[simp] theorem modCount_flt (s : State) (d : Nat) (f : RecCount → RecCount) : (modCount s d f).flt = s.flt := rfl
@[simp] theorem modCount_hp (s : State) (d : Nat) (f : RecCount → RecCount) : (modCount s d f).hp = s.hp := rfl
@[simp] theorem modCount_pwr (s : State) (d : Nat) (f : RecCount → RecCount) : (modCount s d f).pwr = s.pwr := rfl
@[simp] theorem modCount_bring (s : State) (d : Nat) (f : RecCount → RecCount) : (modCount s d f).bring = s.bring := rfl
@[simp] theorem modCount_net (s : State) (d : Nat) (f : RecCount → RecCount) : (modCount s d f).net = s.net := rfl
@[simp] theorem modCount_train (s : State) (d : Nat) (f : RecCount → RecCount) : (modCount s d f).train = s.train := rfl
@[simp] theorem modCount_br (s : State) (d : Nat) (f : RecCount → RecCount) : (modCount s d f).br = s.br := rfl
@[simp] theorem modCount_pair (s : State) (d : Nat) (f : RecCount → RecCount) : (modCount s d f).pair = s.pair := rfl
@[simp] theorem modCount_out (s : State) (d : Nat) (f : RecCount → RecCount) : (modCount s d f).out = s.out := rfl
@[simp] theorem modCount_pending (s : State) (d : Nat) (f : RecCount → RecCount) : (modCount s d f).pending = s.pending := rfl

/-! ### modAckTrack -/

@[simp] theorem modAckTrack_tim (s : State) (rcv : AckReceiver) (f : AckTrack → AckTrack) : (modAckTrack s rcv f).tim = s.tim := by
  cases rcv <;> rfl
@[simp] theorem modAckTrack_hubt (s : State) (rcv : AckReceiver) (f : AckTrack → AckTrack) : (modAckTrack s rcv f).hubt = s.hubt := by
  cases rcv <;> rfl
@[simp] theorem modAckTrack_conns (s : State) (rcv : AckReceiver) (f : AckTrack → AckTrack) : (modAckTrack s rcv f).conns = s.conns := by
  cases rcv <;> rfl
@[simp] theorem modAckTrack_vote (s : State) (rcv : AckReceiver) (f : AckTrack → AckTrack) : (modAckTrack s rcv f).vote = s.vote := by
  cases rcv <;> rfl
@[simp] theorem modAckTrack_field (s : State) (rcv : AckReceiver) (f : AckTrack → AckTrack) : (modAckTrack s rcv f).field = s.field := by
  cases rcv <;> rfl
@[simp] theorem modAckTrack_snd (s : State) (rcv : AckReceiver) (f : AckTrack → AckTrack) : (modAckTrack s rcv f).snd = s.snd := by
  cases rcv <;> rfl
@[simp] theorem modAckTrack_modu (s : State) (rcv : AckReceiver) (f : AckTrack → AckTrack) : (modAckTrack s rcv f).modu = s.modu := by
  cases rcv <;> rfl
@[simp] theorem modAckTrack_prog (s : State) (rcv : AckReceiver) (f : AckTrack → AckTrack) : (modAckTrack s rcv f).prog = s.prog := by
  cases rcv <;> rfl
@[simp] theorem modAckTrack_progNew (s : State) (rcv : AckReceiver) (f : AckTrack → AckTrack) : (modAckTrack s rcv f).progNew = s.progNew := by
  cases rcv <;> rfl
@[simp] theorem modAckTrack_bank (s : State) (rcv : AckReceiver) (f : AckTrack → AckTrack) : (modAckTrack s rcv f).bank = s.bank := by
  cases rcv <;> rfl
@[simp] theorem modAckTrack_safe (s : State) (rcv : AckReceiver) (f : AckTrack → AckTrack) : (modAckTrack s rcv f).safe = s.safe := by
  cases rcv <;> rfl
@[simp] theorem modAckTrack_xch (s : State) (rcv : AckReceiver) (f : AckTrack → AckTrack) : (modAckTrack s rcv f).xch = s.xch := by
  cases rcv <;> rfl
@[simp] theorem modAckTrack_recd (s : State) (rcv : AckReceiver) (f : AckTrack → AckTrack) : (modAckTrack s rcv f).recd = s.recd := by
  cases rcv <;> rfl
@[simp] theorem modAckTrack_flt (s : State) (rcv : AckReceiver) (f : AckTrack → AckTrack) : (modAckTrack s rcv f).flt = s.flt := by
  cases rcv <;> rfl
@[simp] theorem modAckTrack_hp (s : State) (rcv : AckReceiver) (f : AckTrack → AckTrack) : (modAckTrack s rcv f).hp = s.hp := by
  cases rcv <;> rfl
@[simp] theorem modAckTrack_pwr (s : State) (rcv : AckReceiver) (f : AckTrack → AckTrack) : (modAckTrack s rcv f).pwr = s.pwr := by
  cases rcv <;> rfl
@[simp] theorem modAckTrack_bring (s : State) (rcv : AckReceiver) (f : AckTrack → AckTrack) : (modAckTrack s rcv f).bring = s.bring := by
  cases rcv <;> rfl
@[simp] theorem modAckTrack_net (s : State) (rcv : AckReceiver) (f : AckTrack → AckTrack) : (modAckTrack s rcv f).net = s.net := by
  cases rcv <;> rfl
@[simp] theorem modAckTrack_train (s : State) (rcv : AckReceiver) (f : AckTrack → AckTrack) : (modAckTrack s rcv f).train = s.train := by
  cases rcv <;> rfl
@[simp] theorem modAckTrack_br (s : State) (rcv : AckReceiver) (f : AckTrack → AckTrack) : (modAckTrack s rcv f).br = s.br := by
  cases rcv <;> rfl
@[simp] theorem modAckTrack_pair (s : State) (rcv : AckReceiver) (f : AckTrack → AckTrack) : (modAckTrack s rcv f).pair = s.pair := by
  cases rcv <;> rfl
@[simp] theorem modAckTrack_out (s : State) (rcv : AckReceiver) (f : AckTrack → AckTrack) : (modAckTrack s rcv f).out = s.out := by
  cases rcv <;> rfl
@[simp] theorem modAckTrack_pending (s : State) (rcv : AckReceiver) (f : AckTrack → AckTrack) : (modAckTrack s rcv f).pending = s.pending := by
  cases rcv <;> rfl

end Sys2Proof.Machine
end

