-- ==== Sys2Proof/Laws/Faults.lean ====
section
/-! SUPPORT. What raising a fault can change: the fault region, the host port's interrupts and the log's control area in MRAM, nothing
else (R362 to R366, R373). -/
namespace Sys2Proof.Machine

/-- Two states differ at most in the fault region, the host port and MRAM. -/
def FaultOnly (s t : State) : Prop := t = { s with flt := t.flt, hp := t.hp, xch := { s.xch with mram := t.xch.mram } }

theorem FaultOnly.refl (s : State) : FaultOnly s s := rfl
theorem FaultOnly.trans {s t u : State} (h1 : FaultOnly s t) (h2 : FaultOnly t u) : FaultOnly s u := by
  unfold FaultOnly at *; rw [h2, h1]
theorem faultOnly_flt (s : State) (f : Faults) : FaultOnly s { s with flt := f } := rfl
theorem faultOnly_setFaultQueue (s : State) (r : Region) (q : FaultQueue) : FaultOnly s (setFaultQueue s r q) := by
  cases r with
  | hub => rfl
  | lane l => cases l <;> rfl
theorem faultOnly_countOverflow (s : State) (r : Region) : FaultOnly s (countOverflow s r) := by
  cases r with
  | hub => rfl
  | lane l => cases l <;> rfl
theorem faultOnly_setIrqIf (s : State) (b : Bool) (n : Nat) : FaultOnly s (setIrqIf s b n) := by
  unfold setIrqIf setIrq FaultOnly; cases b <;> rfl
theorem faultOnly_reportFault (s : State) (sev : Nat) : FaultOnly s (reportFault s sev) :=
  (faultOnly_flt s _).trans (faultOnly_setIrqIf _ _ _)

theorem faultOnly_modMram (s : State) (f : List Host.Cell → List Host.Cell) : FaultOnly s (modMram s f) := rfl
theorem faultOnly_writeLogControl (s : State) : FaultOnly s (writeLogControl s) := by
  unfold writeLogControl
  refine FaultOnly.trans (faultOnly_flt s { s.flt with gen := s.flt.gen + 1 }) ?_
  exact faultOnly_modMram _ _
theorem faultOnly_takeFseq (s : State) : FaultOnly s (takeFseq s).2 := by
  unfold takeFseq
  dsimp only
  refine FaultOnly.trans ?_ (faultOnly_flt _ _)
  split
  · exact (faultOnly_flt s _).trans (faultOnly_writeLogControl _)
  · exact FaultOnly.refl s

theorem faultOnly_loseFault (s : State) (r : Region) (x : FaultRec) : FaultOnly s (loseFault s r x) := by
  unfold loseFault
  refine (faultOnly_countOverflow s r).trans ?_
  dsimp only
  split
  · exact faultOnly_setFaultQueue _ _ _
  · cases r with
    | hub => exact (faultOnly_takeFseq _).trans (faultOnly_setFaultQueue _ _ _)
    | lane l => exact faultOnly_setFaultQueue _ _ _

theorem faultOnly_enqueueFault (s : State) (r : Region) (x : FaultRec) : FaultOnly s (enqueueFault s r x) := by
  unfold enqueueFault
  cases r with
  | hub =>
    dsimp only
    repeat' split
    all_goals first
      | exact faultOnly_loseFault _ _ _
      | exact (faultOnly_takeFseq s).trans (faultOnly_setFaultQueue _ _ _)
      | exact ((faultOnly_takeFseq s).trans (faultOnly_setFaultQueue _ _ _)).trans (faultOnly_reportFault _ _)
      | exact ((faultOnly_takeFseq s).trans (faultOnly_loseFault _ _ _)).trans (faultOnly_setFaultQueue _ _ _)
      | exact (((faultOnly_takeFseq s).trans (faultOnly_loseFault _ _ _)).trans (faultOnly_setFaultQueue _ _ _)).trans (faultOnly_reportFault _ _)
  | lane l =>
    dsimp only
    repeat' split
    all_goals first
      | exact faultOnly_loseFault _ _ _
      | exact faultOnly_setFaultQueue _ _ _
      | exact (faultOnly_loseFault _ _ _).trans (faultOnly_setFaultQueue _ _ _)

/-- A fault changes the fault region and the interrupts only. -/
theorem faultOnly_raise (s : State) (f : FaultIn) : FaultOnly s (raise s f) := by
  unfold raise
  dsimp only
  split
  · rfl
  · exact faultOnly_enqueueFault _ _ _

theorem faultOnly_raiseHub (s : State) (sev : Nat) (code : BitVec 16) (loc a b lev : Nat) (hw : Bool) :
    FaultOnly s (raiseHub s sev code loc a b lev hw) := faultOnly_raise _ _

@[simp] theorem raiseHub_tim (s : State) (sev : Nat) (code : BitVec 16) (loc a b lev : Nat) (hw : Bool) :
    (raiseHub s sev code loc a b lev hw).tim = s.tim := by rw [faultOnly_raiseHub s sev code loc a b lev hw]
@[simp] theorem raiseHub_hubt (s : State) (sev : Nat) (code : BitVec 16) (loc a b lev : Nat) (hw : Bool) :
    (raiseHub s sev code loc a b lev hw).hubt = s.hubt := by rw [faultOnly_raiseHub s sev code loc a b lev hw]
@[simp] theorem raiseHub_lanes (s : State) (sev : Nat) (code : BitVec 16) (loc a b lev : Nat) (hw : Bool) :
    (raiseHub s sev code loc a b lev hw).lanes = s.lanes := by rw [faultOnly_raiseHub s sev code loc a b lev hw]
@[simp] theorem raiseHub_conns (s : State) (sev : Nat) (code : BitVec 16) (loc a b lev : Nat) (hw : Bool) :
    (raiseHub s sev code loc a b lev hw).conns = s.conns := by rw [faultOnly_raiseHub s sev code loc a b lev hw]
@[simp] theorem raiseHub_vote (s : State) (sev : Nat) (code : BitVec 16) (loc a b lev : Nat) (hw : Bool) :
    (raiseHub s sev code loc a b lev hw).vote = s.vote := by rw [faultOnly_raiseHub s sev code loc a b lev hw]
@[simp] theorem raiseHub_field (s : State) (sev : Nat) (code : BitVec 16) (loc a b lev : Nat) (hw : Bool) :
    (raiseHub s sev code loc a b lev hw).field = s.field := by rw [faultOnly_raiseHub s sev code loc a b lev hw]
@[simp] theorem raiseHub_snd (s : State) (sev : Nat) (code : BitVec 16) (loc a b lev : Nat) (hw : Bool) :
    (raiseHub s sev code loc a b lev hw).snd = s.snd := by rw [faultOnly_raiseHub s sev code loc a b lev hw]
@[simp] theorem raiseHub_modu (s : State) (sev : Nat) (code : BitVec 16) (loc a b lev : Nat) (hw : Bool) :
    (raiseHub s sev code loc a b lev hw).modu = s.modu := by rw [faultOnly_raiseHub s sev code loc a b lev hw]
@[simp] theorem raiseHub_prog (s : State) (sev : Nat) (code : BitVec 16) (loc a b lev : Nat) (hw : Bool) :
    (raiseHub s sev code loc a b lev hw).prog = s.prog := by rw [faultOnly_raiseHub s sev code loc a b lev hw]
@[simp] theorem raiseHub_progNew (s : State) (sev : Nat) (code : BitVec 16) (loc a b lev : Nat) (hw : Bool) :
    (raiseHub s sev code loc a b lev hw).progNew = s.progNew := by rw [faultOnly_raiseHub s sev code loc a b lev hw]
@[simp] theorem raiseHub_bank (s : State) (sev : Nat) (code : BitVec 16) (loc a b lev : Nat) (hw : Bool) :
    (raiseHub s sev code loc a b lev hw).bank = s.bank := by rw [faultOnly_raiseHub s sev code loc a b lev hw]
@[simp] theorem raiseHub_ack (s : State) (sev : Nat) (code : BitVec 16) (loc a b lev : Nat) (hw : Bool) :
    (raiseHub s sev code loc a b lev hw).ack = s.ack := by rw [faultOnly_raiseHub s sev code loc a b lev hw]
@[simp] theorem raiseHub_safe (s : State) (sev : Nat) (code : BitVec 16) (loc a b lev : Nat) (hw : Bool) :
    (raiseHub s sev code loc a b lev hw).safe = s.safe := by rw [faultOnly_raiseHub s sev code loc a b lev hw]
@[simp] theorem raiseHub_xch_flash (s : State) (sev : Nat) (code : BitVec 16) (loc a b lev : Nat) (hw : Bool) :
    (raiseHub s sev code loc a b lev hw).xch.flash = s.xch.flash := by rw [faultOnly_raiseHub s sev code loc a b lev hw]
@[simp] theorem raiseHub_xch_imgSlot (s : State) (sev : Nat) (code : BitVec 16) (loc a b lev : Nat) (hw : Bool) :
    (raiseHub s sev code loc a b lev hw).xch.imgSlot = s.xch.imgSlot := by rw [faultOnly_raiseHub s sev code loc a b lev hw]
@[simp] theorem raiseHub_xch_bankSlot (s : State) (sev : Nat) (code : BitVec 16) (loc a b lev : Nat) (hw : Bool) :
    (raiseHub s sev code loc a b lev hw).xch.bankSlot = s.xch.bankSlot := by rw [faultOnly_raiseHub s sev code loc a b lev hw]
@[simp] theorem raiseHub_xch_imgLoad (s : State) (sev : Nat) (code : BitVec 16) (loc a b lev : Nat) (hw : Bool) :
    (raiseHub s sev code loc a b lev hw).xch.imgLoad = s.xch.imgLoad := by rw [faultOnly_raiseHub s sev code loc a b lev hw]
@[simp] theorem raiseHub_xch_bankLoad (s : State) (sev : Nat) (code : BitVec 16) (loc a b lev : Nat) (hw : Bool) :
    (raiseHub s sev code loc a b lev hw).xch.bankLoad = s.xch.bankLoad := by rw [faultOnly_raiseHub s sev code loc a b lev hw]
@[simp] theorem raiseHub_xch_swap (s : State) (sev : Nat) (code : BitVec 16) (loc a b lev : Nat) (hw : Bool) :
    (raiseHub s sev code loc a b lev hw).xch.swap = s.xch.swap := by rw [faultOnly_raiseHub s sev code loc a b lev hw]
@[simp] theorem raiseHub_xch_act (s : State) (sev : Nat) (code : BitVec 16) (loc a b lev : Nat) (hw : Bool) :
    (raiseHub s sev code loc a b lev hw).xch.act = s.xch.act := by rw [faultOnly_raiseHub s sev code loc a b lev hw]
@[simp] theorem raiseHub_xch_restartPending (s : State) (sev : Nat) (code : BitVec 16) (loc a b lev : Nat) (hw : Bool) :
    (raiseHub s sev code loc a b lev hw).xch.restartPending = s.xch.restartPending := by rw [faultOnly_raiseHub s sev code loc a b lev hw]
@[simp] theorem raiseHub_xch_restartDeferred (s : State) (sev : Nat) (code : BitVec 16) (loc a b lev : Nat) (hw : Bool) :
    (raiseHub s sev code loc a b lev hw).xch.restartDeferred = s.xch.restartDeferred := by rw [faultOnly_raiseHub s sev code loc a b lev hw]
@[simp] theorem raiseHub_xch_switchingSince (s : State) (sev : Nat) (code : BitVec 16) (loc a b lev : Nat) (hw : Bool) :
    (raiseHub s sev code loc a b lev hw).xch.switchingSince = s.xch.switchingSince := by rw [faultOnly_raiseHub s sev code loc a b lev hw]
@[simp] theorem raiseHub_xch_settling (s : State) (sev : Nat) (code : BitVec 16) (loc a b lev : Nat) (hw : Bool) :
    (raiseHub s sev code loc a b lev hw).xch.settling = s.xch.settling := by rw [faultOnly_raiseHub s sev code loc a b lev hw]
@[simp] theorem raiseHub_xch_fwSlot (s : State) (sev : Nat) (code : BitVec 16) (loc a b lev : Nat) (hw : Bool) :
    (raiseHub s sev code loc a b lev hw).xch.fwSlot = s.xch.fwSlot := by rw [faultOnly_raiseHub s sev code loc a b lev hw]
@[simp] theorem raiseHub_xch_fwRetired (s : State) (sev : Nat) (code : BitVec 16) (loc a b lev : Nat) (hw : Bool) :
    (raiseHub s sev code loc a b lev hw).xch.fwRetired = s.xch.fwRetired := by rw [faultOnly_raiseHub s sev code loc a b lev hw]
@[simp] theorem raiseHub_recd (s : State) (sev : Nat) (code : BitVec 16) (loc a b lev : Nat) (hw : Bool) :
    (raiseHub s sev code loc a b lev hw).recd = s.recd := by rw [faultOnly_raiseHub s sev code loc a b lev hw]
@[simp] theorem raiseHub_pwr (s : State) (sev : Nat) (code : BitVec 16) (loc a b lev : Nat) (hw : Bool) :
    (raiseHub s sev code loc a b lev hw).pwr = s.pwr := by rw [faultOnly_raiseHub s sev code loc a b lev hw]
@[simp] theorem raiseHub_bring (s : State) (sev : Nat) (code : BitVec 16) (loc a b lev : Nat) (hw : Bool) :
    (raiseHub s sev code loc a b lev hw).bring = s.bring := by rw [faultOnly_raiseHub s sev code loc a b lev hw]
@[simp] theorem raiseHub_net (s : State) (sev : Nat) (code : BitVec 16) (loc a b lev : Nat) (hw : Bool) :
    (raiseHub s sev code loc a b lev hw).net = s.net := by rw [faultOnly_raiseHub s sev code loc a b lev hw]
@[simp] theorem raiseHub_train (s : State) (sev : Nat) (code : BitVec 16) (loc a b lev : Nat) (hw : Bool) :
    (raiseHub s sev code loc a b lev hw).train = s.train := by rw [faultOnly_raiseHub s sev code loc a b lev hw]
@[simp] theorem raiseHub_br (s : State) (sev : Nat) (code : BitVec 16) (loc a b lev : Nat) (hw : Bool) :
    (raiseHub s sev code loc a b lev hw).br = s.br := by rw [faultOnly_raiseHub s sev code loc a b lev hw]
@[simp] theorem raiseHub_pair (s : State) (sev : Nat) (code : BitVec 16) (loc a b lev : Nat) (hw : Bool) :
    (raiseHub s sev code loc a b lev hw).pair = s.pair := by rw [faultOnly_raiseHub s sev code loc a b lev hw]
@[simp] theorem raiseHub_out (s : State) (sev : Nat) (code : BitVec 16) (loc a b lev : Nat) (hw : Bool) :
    (raiseHub s sev code loc a b lev hw).out = s.out := by rw [faultOnly_raiseHub s sev code loc a b lev hw]
@[simp] theorem raiseHub_pending (s : State) (sev : Nat) (code : BitVec 16) (loc a b lev : Nat) (hw : Bool) :
    (raiseHub s sev code loc a b lev hw).pending = s.pending := by rw [faultOnly_raiseHub s sev code loc a b lev hw]

end Sys2Proof.Machine
end

