-- ==== Sys2Proof/Laws/Memory.lean ====
section
/-! SUPPORT. Byte memories: every operation keeps the canonical form, a read after a write, and erasing (R21, R202). -/
namespace Sys2Proof.Machine

/-- A canonical memory above an address is canonical above a lower one. -/
theorem cellsWf_mono {lo hi : Nat} {m : List Host.Cell} (hl : lo ≤ hi) (h : cellsWf hi m = true) : cellsWf lo m = true := by
  cases m with
  | nil => rfl
  | cons c m => simp only [cellsWf, Bool.and_eq_true, decide_eq_true_eq] at h ⊢; exact ⟨⟨by omega, h.1.2⟩, h.2⟩

/-- Writing a byte keeps the canonical form above an address at or below it. -/
theorem memWrite_cellsWf {lo a : Nat} {v : Byte} {m : List Host.Cell} (hl : lo ≤ a) (h : cellsWf lo m = true) :
    cellsWf lo (memWrite m a v) = true := by
  induction m generalizing lo with
  | nil => by_cases hv : v = unlisted <;> simp [memWrite, cellsWf, hv, hl]
  | cons c m ih =>
    simp only [cellsWf, Bool.and_eq_true, decide_eq_true_eq] at h
    obtain ⟨⟨h1, h2⟩, h3⟩ := h
    unfold memWrite
    split
    · split
      · simp [cellsWf, h1, h2, h3]
      · rename_i ha hv
        simp only [cellsWf, Bool.and_eq_true, decide_eq_true_eq]
        exact ⟨⟨hl, hv⟩, ⟨by omega, h2⟩, h3⟩
    · split
      · split
        · exact cellsWf_mono (by omega) h3
        · rename_i ha hv
          subst ha
          simp only [cellsWf, Bool.and_eq_true, decide_eq_true_eq]
          exact ⟨⟨hl, hv⟩, h3⟩
      · simp only [cellsWf, Bool.and_eq_true, decide_eq_true_eq]
        exact ⟨⟨h1, h2⟩, ih (by omega) h3⟩

/-- Writing a byte keeps the canonical form. -/
theorem memWrite_wf {m : List Host.Cell} (a : Nat) (v : Byte) (h : Memory.wf m) : Memory.wf (memWrite m a v) :=
  memWrite_cellsWf (Nat.zero_le a) h

/-- Writing bytes keeps the canonical form. -/
theorem memWrites_wf {m : List Host.Cell} (a : Nat) (bs : List Byte) (h : Memory.wf m) : Memory.wf (memWrites m a bs) := by
  induction bs generalizing m a with
  | nil => exact h
  | cons b bs ih => exact ih _ (memWrite_wf a b h)

/-- Writing into a ring keeps the canonical form. -/
theorem ringWrite_wf {m : List Host.Cell} (base n o : Nat) (bs : List Byte) (h : Memory.wf m) :
    Memory.wf (ringWrite m base n o bs) := by
  induction bs generalizing m o with
  | nil => exact h
  | cons b bs ih => exact ih _ (memWrite_wf _ b h)

/-- Dropping entries keeps the canonical form above an address. -/
theorem filter_cellsWf {lo : Nat} {m : List Host.Cell} (p : Host.Cell → Bool) (h : cellsWf lo m = true) :
    cellsWf lo (m.filter p) = true := by
  induction m generalizing lo with
  | nil => rfl
  | cons c m ih =>
    simp only [cellsWf, Bool.and_eq_true, decide_eq_true_eq] at h
    obtain ⟨⟨h1, h2⟩, h3⟩ := h
    by_cases hp : p c = true
    · simp only [List.filter_cons_of_pos hp, cellsWf, Bool.and_eq_true, decide_eq_true_eq]
      exact ⟨⟨h1, h2⟩, ih h3⟩
    · rw [List.filter_cons_of_neg (by simpa using hp)]
      exact cellsWf_mono (by omega) (ih h3)

/-- Erasing keeps the canonical form. -/
theorem memErase_wf {m : List Host.Cell} (a n : Nat) (h : Memory.wf m) : Memory.wf (memErase m a n) := filter_cellsWf _ h

/-- Below the canonical form's first address a memory reads as unlisted. -/
theorem memRead_below {lo a : Nat} {m : List Host.Cell} (ha : a < lo) (h : cellsWf lo m = true) : memRead m a = unlisted := by
  induction m generalizing lo with
  | nil => rfl
  | cons c m ih =>
    simp only [cellsWf, Bool.and_eq_true, decide_eq_true_eq] at h
    obtain ⟨⟨h1, h2⟩, h3⟩ := h
    unfold memRead
    split
    · omega
    · exact ih (by omega) h3

/-- A write leaves every other byte alone. -/
theorem memRead_memWrite_other {m : List Host.Cell} {a x : Nat} (v : Byte) (hx : x ≠ a) : memRead (memWrite m a v) x = memRead m x := by
  induction m with
  | nil => by_cases hv : v = unlisted <;> simp [memWrite, memRead, hv, hx]
  | cons c m ih =>
    unfold memWrite
    split
    · split
      · rfl
      · simp [memRead, hx]
    · split
      · rename_i ha
        split <;> simp [memRead, hx, ← ha]
      · simp only [memRead, ih]

/-- Writing bytes leaves every byte outside them alone. -/
theorem memRead_memWrites_other {m : List Host.Cell} {a x : Nat} (bs : List Byte) (hx : x < a ∨ a + bs.length ≤ x) :
    memRead (memWrites m a bs) x = memRead m x := by
  induction bs generalizing m a with
  | nil => rfl
  | cons b bs ih =>
    simp only [List.length_cons] at hx
    unfold memWrites
    rw [ih (by omega), memRead_memWrite_other _ (by omega)]

/-- Two memories hold the same bytes outside the control copies of the fault log. -/
def AlikeOutsideLog (m n : List Host.Cell) : Prop := ∀ a, logCopyByte a = false → memRead m a = memRead n a

/-- Writing a control copy of the fault log leaves every byte outside the copies alone. -/
theorem alike_controlCopy {m n : List Host.Cell} (g : Nat) (bs : List Byte) (hb : bs.length ≤ 64) (h : AlikeOutsideLog m n) :
    AlikeOutsideLog (memWrites m (logBase + copyOffset g) bs) n := by
  intro a ha
  rw [← h a ha]
  refine memRead_memWrites_other _ ?_
  simp only [logCopyByte, Bool.or_eq_false_iff, Bool.and_eq_false_iff, decide_eq_false_iff_not] at ha
  unfold copyOffset
  split <;> omega

/-- A read after a write gives the byte written. -/
theorem memRead_memWrite_same {lo a : Nat} {v : Byte} {m : List Host.Cell} (h : cellsWf lo m = true) :
    memRead (memWrite m a v) a = v := by
  induction m generalizing lo with
  | nil => by_cases hv : v = unlisted <;> simp [memWrite, memRead, hv]
  | cons c m ih =>
    simp only [cellsWf, Bool.and_eq_true, decide_eq_true_eq] at h
    obtain ⟨⟨h1, h2⟩, h3⟩ := h
    unfold memWrite
    split
    · rename_i ha
      split
      · rename_i hv
        subst hv
        simp only [memRead, if_neg (Nat.ne_of_lt ha)]
        exact memRead_below (by omega) h3
      · simp [memRead]
    · split
      · rename_i ha
        split
        · rename_i hv
          subst hv; subst ha
          exact memRead_below (by omega) h3
        · simp [memRead]
      · rename_i ha hb
        simp only [memRead, if_neg hb]
        exact ih h3

end Sys2Proof.Machine
end

