-- ==== Sys2Proof/Laws/Keeps.lean ====
section
/-! SUPPORT. What every operation on the state keeps: the queue, which is the step's own, the canonical form of the memories, and
every byte of them where it writes none. -/
namespace Sys2Proof.Machine

/-- What an operation is to keep: the queue, and for one that writes no more of the memories than a control copy of the fault log the
contents of MRAM and flash. -/
structure Kept where
  pending : List Instr
  mem : Option (List Host.Cell × List Host.Cell)

/-- The queue is as given, the memories are canonical, and outside the control copies of the fault log they hold what is given. -/
structure Keeps (p : Kept) (s : State) : Prop where
  pending : s.pending = p.pending
  mram : Memory.wf s.xch.mram
  flash : Memory.wf s.xch.flash
  same : ∀ x, p.mem = some x → AlikeOutsideLog s.xch.mram x.1 ∧ s.xch.flash = x.2

/-- Where an operation answers a next state, that state keeps what Keeps says. -/
structure KeepsO (p : Kept) (o : Host.Outcome State Fault Refusal) : Prop where
  keeps : ∀ t, o = .next t → Keeps p t

theorem keepsO_next {p : Kept} {s : State} (h : Keeps p s) : KeepsO p (.next s) :=
  ⟨by intro t ht; cases ht; exact h⟩

theorem keepsO_fault {p : Kept} (f : Fault) : KeepsO p (.fault f) := ⟨by intro t ht; cases ht⟩

theorem keepsO_ite {p : Kept} {c : Prop} [Decidable c] {s t : Host.Outcome State Fault Refusal} (h : c → KeepsO p s)
    (k : ¬c → KeepsO p t) : KeepsO p (if c then s else t) := by
  split
  · exact h ‹_›
  · exact k ‹_›

/-- An update of a state that leaves the queue, and the contents of the memories, alone. -/
theorem keeps_mk {p : Kept} {tim hubt lanes conns vote field snd modu prog progNew bank ack safe xch recd flt hp pwr bring net train
    br pair out} (s : State) (e : xch.mram = s.xch.mram) (f : xch.flash = s.xch.flash) :
    Keeps p (State.mk tim hubt lanes conns vote field snd modu prog progNew bank ack safe xch recd flt hp pwr bring net train br pair out
      s.pending) = Keeps p s :=
  propext ⟨fun ⟨h1, h2, h3, h4⟩ => ⟨h1, by simpa only [e] using h2, by simpa only [f] using h3, by simpa only [e, f] using h4⟩,
    fun ⟨h1, h2, h3, h4⟩ => ⟨h1, by simpa only [e] using h2, by simpa only [f] using h3, by simpa only [e, f] using h4⟩⟩

theorem keeps_ite {p : Kept} {c : Prop} [Decidable c] {s t : State} (h : c → Keeps p s) (k : ¬c → Keeps p t) :
    Keeps p (if c then s else t) := by
  split
  · exact h ‹_›
  · exact k ‹_›

theorem keeps_foldl {p : Kept} {α : Type} {f : State → α → State} {l : List α} {s : State} (h : Keeps p s)
    (hf : ∀ s a, Keeps p s → Keeps p (f s a)) : Keeps p (l.foldl f s) := by
  induction l generalizing s with
  | nil => exact h
  | cons a l ih => exact ih (hf s a h)

theorem keeps_pair1 {p : Kept} {α : Type} {x : State × α} {s : State} {a : α} (e : x = (s, a)) (h : Keeps p x.1) : Keeps p s := by
  subst e; exact h

theorem keeps_pair2 {p : Kept} {α : Type} {x : α × State} {s : State} {a : α} (e : x = (a, s)) (h : Keeps p x.2) : Keeps p s := by
  subst e; exact h

theorem keeps_pair3 {p : Kept} {α β : Type} {x : α × β × State} {s : State} {a : α} {b : β} (e : x = (a, b, s)) (h : Keeps p x.2.2) :
    Keeps p s := by
  subst e; exact h

theorem keeps_fold2 {p : Kept} {α γ : Type} {f : α × State → γ → α × State} {l : List γ} {x : α × State}
    (h : Keeps p x.2) (hf : ∀ x c, Keeps p x.2 → Keeps p (f x c).2) : Keeps p (l.foldl f x).2 := by
  induction l generalizing x with
  | nil => exact h
  | cons a l ih => exact ih (hf x a h)

theorem keeps_fold3 {p : Kept} {α β γ : Type} {f : α × β × State → γ → α × β × State} {l : List γ} {x : α × β × State}
    (h : Keeps p x.2.2) (hf : ∀ x c, Keeps p x.2.2 → Keeps p (f x c).2.2) : Keeps p (l.foldl f x).2.2 := by
  induction l generalizing x with
  | nil => exact h
  | cons a l ih => exact ih (hf x a h)

end Sys2Proof.Machine
end

