-- ==== Sys2Proof/Laws/KeepsOps.lean ====
section
/-! SUPPORT. Every operation of Machine/Ops.lean leaves the queue alone and keeps the memories canonical; one that writes no memory keeps every byte.
-/
namespace Sys2Proof.Machine

theorem modLane_keeps {pd : Kept} (s : State) (l : Lane) (f : LaneSt → LaneSt) (hs : Keeps pd s) :
    Keeps pd (modLane s l f) := by
  unfold modLane
  repeat' (first
    | with_reducible assumption
    | simp only [↓keeps_mk])

theorem modLanes_keeps {pd : Kept} (s : State) (f : Lane → LaneSt → LaneSt) (hs : Keeps pd s) :
    Keeps pd (modLanes s f) := by
  unfold modLanes
  repeat' (first
    | with_reducible assumption
    | simp only [↓keeps_mk])

theorem modTask_keeps {pd : Kept} (s : State) (t : Nat) (f : HubTask → HubTask) (hs : Keeps pd s) :
    Keeps pd (modTask s t f) := by
  unfold modTask
  repeat' (first
    | with_reducible assumption
    | simp only [↓keeps_mk])

theorem modLaneTask_keeps {pd : Kept} (s : State) (l : Lane) (t : Nat) (f : LaneTask → LaneTask) (hs : Keeps pd s) :
    Keeps pd (modLaneTask s l t f) := by
  unfold modLaneTask
  repeat' (first
    | with_reducible assumption
    | (with_reducible first | apply modLane_keeps)
    | intro _
    | simp only [↓keeps_mk])

theorem modAxis_keeps {pd : Kept} (s : State) (n : Nat) (f : Axis → Axis) (hs : Keeps pd s) :
    Keeps pd (modAxis s n f) := by
  unfold modAxis
  repeat' (first
    | with_reducible assumption
    | simp only [↓keeps_mk])

theorem setIrq_keeps {pd : Kept} (s : State) (b : Nat) (hs : Keeps pd s) :
    Keeps pd (setIrq s b) := by
  unfold setIrq
  repeat' (first
    | with_reducible assumption
    | simp only [↓keeps_mk])

theorem setIrqIf_keeps {pd : Kept} (s : State) (c : Bool) (b : Nat) (hs : Keeps pd s) :
    Keeps pd (setIrqIf s c b) := by
  unfold setIrqIf
  repeat' (first
    | with_reducible assumption
    | (with_reducible first | apply setIrq_keeps)
    | intro _
    | with_reducible apply keeps_ite)

theorem emit_keeps {pd : Kept} (s : State) (e : Emission) (hs : Keeps pd s) :
    Keeps pd (emit s e) := by
  unfold emit
  repeat' (first
    | with_reducible assumption
    | simp only [↓keeps_mk])

theorem modMram_keeps {pl : List Instr} (s : State) (f : List Host.Cell → List Host.Cell) (hs : Keeps (.mk pl none) s) (hf : Memory.wf s.xch.mram → Memory.wf (f s.xch.mram)) :
    Keeps (.mk pl none) (modMram s f) := by
  obtain ⟨h1, h2, h3, _⟩ := hs
  exact ⟨h1, hf h2, h3, fun _ h => nomatch h⟩

theorem sealCopy_length (bs : List Byte) (h : bs.length ≤ 60) : (sealCopy bs).length = 64 := by
  simp [sealCopy, zeros, beWord]
  omega

theorem controlCopy_keeps {pd : Kept} (s : State) (g : Nat) (bs : List Byte) (hb : bs.length ≤ 64) (hs : Keeps pd s) :
    Keeps pd (modMram s (fun m => memWrites m (logBase + copyOffset g) bs)) := by
  obtain ⟨h1, h2, h3, h4⟩ := hs
  exact ⟨h1, memWrites_wf _ _ h2, h3, fun x hx => ⟨alike_controlCopy _ _ hb (h4 x hx).1, (h4 x hx).2⟩⟩

theorem writeLogControl_keeps {pd : Kept} (s : State) (hs : Keeps pd s) :
    Keeps pd (writeLogControl s) := by
  unfold writeLogControl
  refine controlCopy_keeps _ _ _ ?_ ?_
  · exact Nat.le_of_eq (sealCopy_length _ (by simp [beWord, beDWord]))
  · simpa only [↓keeps_mk] using hs

theorem setFaultQueue_keeps {pd : Kept} (s : State) (r : Region) (q : FaultQueue) (hs : Keeps pd s) :
    Keeps pd (setFaultQueue s r q) := by
  unfold setFaultQueue
  repeat' (first
    | with_reducible assumption
    | simp only [↓keeps_mk]
    | split)

theorem countOverflow_keeps {pd : Kept} (s : State) (r : Region) (hs : Keeps pd s) :
    Keeps pd (countOverflow s r) := by
  unfold countOverflow
  repeat' (first
    | with_reducible assumption
    | ((try lift_lets); intro x; refine (fun (hx : Keeps pd x) => ?_) ?_; clear_value x; rotate_left; unfold x; clear x)
    | (lift_lets; intro x)
    | simp only [↓keeps_mk]
    | split)

theorem takeFseq_keeps {pd : Kept} (s : State) (hs : Keeps pd s) :
    Keeps pd (takeFseq s).2 := by
  unfold takeFseq
  repeat' (first
    | with_reducible assumption
    | (with_reducible first | apply writeLogControl_keeps)
    | ((try lift_lets); intro x; refine (fun (hx : Keeps pd x) => ?_) ?_; clear_value x; rotate_left; unfold x; clear x)
    | (lift_lets; intro x)
    | intro _
    | simp only [↓keeps_mk]
    | with_reducible apply keeps_ite
    | (with_reducible refine keeps_pair1 (by assumption) ?_)
    | (with_reducible refine keeps_pair2 (by assumption) ?_)
    | (with_reducible refine keeps_pair3 (by assumption) ?_)
    | split)

theorem loseFault_keeps {pd : Kept} (s : State) (r : Region) (x : FaultRec) (hs : Keeps pd s) :
    Keeps pd (loseFault s r x) := by
  unfold loseFault
  repeat' (first
    | with_reducible assumption
    | (with_reducible first | apply setFaultQueue_keeps | apply countOverflow_keeps | apply takeFseq_keeps)
    | ((try lift_lets); intro x; refine (fun (hx : Keeps pd x) => ?_) ?_; clear_value x; rotate_left; unfold x; clear x)
    | (lift_lets; intro x)
    | simp only
    | split)

theorem reportFault_keeps {pd : Kept} (s : State) (sev : Nat) (hs : Keeps pd s) :
    Keeps pd (reportFault s sev) := by
  unfold reportFault
  repeat' (first
    | with_reducible assumption
    | (with_reducible first | apply setIrqIf_keeps)
    | ((try lift_lets); intro x; refine (fun (hx : Keeps pd x) => ?_) ?_; clear_value x; rotate_left; unfold x; clear x)
    | (lift_lets; intro x)
    | simp only [↓keeps_mk]
    | intro _
    | with_reducible apply keeps_ite)

theorem enqueueFault_keeps {pd : Kept} (s : State) (r : Region) (x : FaultRec) (hs : Keeps pd s) :
    Keeps pd (enqueueFault s r x) := by
  unfold enqueueFault
  repeat' (first
    | with_reducible assumption
    | (with_reducible first | apply setFaultQueue_keeps | apply takeFseq_keeps | apply loseFault_keeps | apply reportFault_keeps)
    | ((try lift_lets); intro x; refine (fun (hx : Keeps pd x) => ?_) ?_; clear_value x; rotate_left; unfold x; clear x)
    | (lift_lets; intro x)
    | intro _
    | simp only
    | with_reducible apply keeps_ite
    | split)

theorem raise_keeps {pd : Kept} (s : State) (f : FaultIn) (hs : Keeps pd s) :
    Keeps pd (raise s f) := by
  unfold raise
  repeat' (first
    | with_reducible assumption
    | (with_reducible first | apply enqueueFault_keeps)
    | ((try lift_lets); intro x; refine (fun (hx : Keeps pd x) => ?_) ?_; clear_value x; rotate_left; unfold x; clear x)
    | (lift_lets; intro x)
    | simp only [↓keeps_mk]
    | intro _
    | with_reducible apply keeps_ite)

theorem enterEarly_keeps {pd : Kept} (s : State) (hs : Keeps pd s) :
    Keeps pd (enterEarly s) := by
  unfold enterEarly
  repeat' (first
    | with_reducible assumption
    | (with_reducible first | apply enqueueFault_keeps)
    | with_reducible refine keeps_foldl ?_ (fun _ _ _ => ?_)
    | intro _
    | simp only [↓keeps_mk])

theorem raiseHub_keeps {pd : Kept} (s : State) (sev : Nat) (code : BitVec 16) (loc : Nat) (arg0 : Nat) (arg1 : Nat) (level : Nat) (hw : Bool) (hs : Keeps pd s) :
    Keeps pd (raiseHub s sev code loc arg0 arg1 level hw) := by
  unfold raiseHub
  repeat' (first
    | with_reducible assumption
    | (with_reducible first | apply raise_keeps)
    | simp only [↓keeps_mk])

theorem raiseLane_keeps {pd : Kept} (s : State) (l : Lane) (sev level : Nat) (code : BitVec 16) (block pan : Nat) (arg0 : Word) (hs : Keeps pd s) :
    Keeps pd (raiseLane s l sev level code block pan arg0) := by
  unfold raiseLane
  repeat' (first
    | with_reducible assumption
    | (with_reducible first | apply raise_keeps)
    | simp only [↓keeps_mk])

theorem discardWrite_keeps {pd : Kept} (s : State) (hs : Keeps pd s) :
    Keeps pd (discardWrite s) := by
  unfold discardWrite
  repeat' (first
    | with_reducible assumption
    | ((try lift_lets); intro x; refine (fun (hx : Keeps pd x) => ?_) ?_; clear_value x; rotate_left; unfold x; clear x)
    | (lift_lets; intro x)
    | intro _
    | simp only [↓keeps_mk]
    | with_reducible apply keeps_ite
    | split)

theorem zeroReads_keeps {pd : Kept} (s : State) (n : Nat) (hs : Keeps pd s) :
    Keeps pd (zeroReads s n) := by
  unfold zeroReads
  repeat' (first
    | with_reducible assumption
    | ((try lift_lets); intro x; refine (fun (hx : Keeps pd x) => ?_) ?_; clear_value x; rotate_left; unfold x; clear x)
    | (lift_lets; intro x)
    | intro _
    | simp only [↓keeps_mk]
    | with_reducible apply keeps_ite
    | split)

end Sys2Proof.Machine
end

