-- ==== Sys2Proof/Laws/KeepsClocks.lean ====
section
/-! SUPPORT. What the operations on the clock pins keep. -/
namespace Sys2Proof.Machine

theorem holdClocks_keeps {pd : Kept} (s : State) (v0 v1 : Int) (hs : Keeps pd s) :
    Keeps pd (holdClocks s v0 v1) := by
  unfold holdClocks
  repeat' (first
    | with_reducible assumption
    | ((try lift_lets); intro x; refine (fun (hx : Keeps pd x) => ?_) ?_; clear_value x; rotate_left; unfold x; clear x)
    | (lift_lets; intro x)
    | intro _
    | simp only [↓keeps_mk]
    | with_reducible apply keeps_ite
    | split)

end Sys2Proof.Machine
end

