-- ==== Sys2Proof/Laws/KeepsCycles.lean ====
section
/-! SUPPORT. What the operations on the planes and cycles keep. -/
namespace Sys2Proof.Machine

theorem modPlane_keeps {pd : Kept} (s : State) (b : Bool) (f : PlaneSt → PlaneSt) (hs : Keeps pd s) :
    Keeps pd (modPlane s b f) := by
  unfold modPlane
  repeat' (first
    | with_reducible assumption
    | ((try lift_lets); intro x; refine (fun (hx : Keeps pd x) => ?_) ?_; clear_value x; rotate_left; unfold x; clear x)
    | (lift_lets; intro x)
    | intro _
    | simp only [↓keeps_mk]
    | with_reducible apply keeps_ite
    | split)

end Sys2Proof.Machine
end

