-- ==== Sys2Proof/Laws/KeepsIp.lean ====
section
/-! SUPPORT. Every operation of Machine/Ip.lean leaves the queue alone and keeps the memories canonical; one that writes no memory keeps every byte.
-/
namespace Sys2Proof.Machine

theorem putOut_keeps {pd : Kept} (s : State) (e : Emission) (hs : Keeps pd s) :
    Keeps pd (putOut s e) := by
  unfold putOut
  repeat' (first
    | with_reducible assumption
    | (with_reducible first | apply emit_keeps)
    | ((try lift_lets); intro x; refine (fun (hx : Keeps pd x) => ?_) ?_; clear_value x; rotate_left; unfold x; clear x)
    | (lift_lets; intro x)
    | simp only [↓keeps_mk]
    | intro _
    | with_reducible apply keeps_ite
    | split)

theorem busyUntil_keeps {pd : Kept} (s : State) (pb : Bool) (t : Nat) (hs : Keeps pd s) :
    Keeps pd (busyUntil s pb t) := by
  unfold busyUntil
  repeat' (first
    | with_reducible assumption
    | (with_reducible first | apply modPlane_keeps)
    | ((try lift_lets); intro x; refine (fun (hx : Keeps pd x) => ?_) ?_; clear_value x; rotate_left; unfold x; clear x)
    | (lift_lets; intro x)
    | intro _
    | simp only [↓keeps_mk]
    | with_reducible apply keeps_ite
    | split)

theorem drainBest_keeps {pd : Kept} (pb : Bool) (l : List Emission) (s : State) (hs : Keeps pd s) :
    Keeps pd (drainBest pb l s) := by
  induction l generalizing s with
  | nil => exact hs
  | cons e l ih =>
    unfold drainBest
    dsimp only
    refine keeps_ite (fun _ => ih _ (putOut_keeps _ _ (busyUntil_keeps _ _ _ hs))) (fun _ => ?_)
    simpa only [↓keeps_mk] using hs

theorem drainPlane_keeps {pd : Kept} (s : State) (pb : Bool) (hs : Keeps pd s) :
    Keeps pd (drainPlane s pb) := by
  unfold drainPlane
  repeat' (first
    | with_reducible assumption
    | (with_reducible first | apply drainBest_keeps)
    | ((try lift_lets); intro x; refine (fun (hx : Keeps pd x) => ?_) ?_; clear_value x; rotate_left; unfold x; clear x)
    | (lift_lets; intro x)
    | intro _
    | simp only [↓keeps_mk]
    | with_reducible apply keeps_ite
    | split)

theorem leave_keeps {pd : Kept} (s : State) (e : Emission) (hs : Keeps pd s) :
    Keeps pd (leave s e) := by
  unfold leave
  repeat' (first
    | with_reducible assumption
    | (with_reducible first | apply drainPlane_keeps | apply putOut_keeps)
    | ((try lift_lets); intro x; refine (fun (hx : Keeps pd x) => ?_) ?_; clear_value x; rotate_left; unfold x; clear x)
    | (lift_lets; intro x)
    | intro _
    | simp only [↓keeps_mk]
    | with_reducible apply keeps_ite
    | split)

theorem sendHop_keeps {pd : Kept} (s : State) (port : Nat) (hop : Word) (e : Nat → Emission) (hs : Keeps pd s) :
    Keeps pd (sendHop s port hop e) := by
  unfold sendHop
  repeat' (first
    | with_reducible assumption
    | (with_reducible first | apply leave_keeps)
    | ((try lift_lets); intro x; refine (fun (hx : Keeps pd x) => ?_) ?_; clear_value x; rotate_left; unfold x; clear x)
    | (lift_lets; intro x)
    | intro _
    | simp only [↓keeps_mk]
    | with_reducible apply keeps_ite
    | split)

theorem dropUnroutable_keeps {pd : Kept} (s : State) (hs : Keeps pd s) :
    Keeps pd (dropUnroutable s) := by
  unfold dropUnroutable
  repeat' (first
    | with_reducible assumption
    | ((try lift_lets); intro x; refine (fun (hx : Keeps pd x) => ?_) ?_; clear_value x; rotate_left; unfold x; clear x)
    | (lift_lets; intro x)
    | intro _
    | simp only [↓keeps_mk]
    | with_reducible apply keeps_ite
    | split)

theorem sendIp_keeps {pd : Kept} (s : State) (dst : Word) (e : Nat → Emission) (hs : Keeps pd s) :
    Keeps pd (sendIp s dst e) := by
  unfold sendIp
  repeat' (first
    | with_reducible assumption
    | (with_reducible first | apply dropUnroutable_keeps | apply sendHop_keeps)
    | ((try lift_lets); intro x; refine (fun (hx : Keeps pd x) => ?_) ?_; clear_value x; rotate_left; unfold x; clear x)
    | (lift_lets; intro x)
    | intro _
    | simp only [↓keeps_mk]
    | with_reducible apply keeps_ite
    | split)

theorem sendLine_keeps {pd : Kept} (s : State) (port : Nat) (dst : Word) (e : Nat → Emission) (hs : Keeps pd s) :
    Keeps pd (sendLine s port dst e) := by
  unfold sendLine
  repeat' (first
    | with_reducible assumption
    | (with_reducible first | apply dropUnroutable_keeps | apply sendHop_keeps)
    | ((try lift_lets); intro x; refine (fun (hx : Keeps pd x) => ?_) ?_; clear_value x; rotate_left; unfold x; clear x)
    | (lift_lets; intro x)
    | intro _
    | simp only [↓keeps_mk]
    | with_reducible apply keeps_ite
    | split)

theorem modMb_keeps {pd : Kept} (s : State) (mb : Mb) (f : Mailbox → Mailbox) (hs : Keeps pd s) :
    Keeps pd (modMb s mb f) := by
  unfold modMb
  repeat' (first
    | with_reducible assumption
    | simp only [↓keeps_mk]
    | split)

theorem idleMb_keeps {pd : Kept} (s : State) (mb : Mb) (hs : Keeps pd s) :
    Keeps pd (idleMb s mb) := by
  unfold idleMb
  repeat' (first
    | with_reducible assumption
    | (with_reducible first | apply modMb_keeps)
    | intro _
    | simp only [↓keeps_mk])

theorem startMb_keeps {pd : Kept} (s : State) (mb : Mb) (src : Source) (head : Nat) (need : Nat) (req : List Word) (silent : Bool) (hs : Keeps pd s) :
    Keeps pd (startMb s mb src head need req silent) := by
  unfold startMb
  repeat' (first
    | with_reducible assumption
    | (with_reducible first | apply modMb_keeps)
    | ((try lift_lets); intro x; refine (fun (hx : Keeps pd x) => ?_) ?_; clear_value x; rotate_left; unfold x; clear x)
    | (lift_lets; intro x)
    | intro _
    | simp only [↓keeps_mk]
    | with_reducible apply keeps_ite)

theorem finishMbAt_keeps {pd : Kept} (s : State) (mb : Mb) (result : Nat) (resp : List Word) (last : Nat) (hs : Keeps pd s) :
    Keeps pd (finishMbAt s mb result resp last) := by
  unfold finishMbAt
  repeat' (first
    | with_reducible assumption
    | (with_reducible first | apply setIrq_keeps | apply sendIp_keeps | apply modMb_keeps | apply idleMb_keeps)
    | ((try lift_lets); intro x; refine (fun (hx : Keeps pd x) => ?_) ?_; clear_value x; rotate_left; unfold x; clear x)
    | (lift_lets; intro x)
    | intro _
    | simp only
    | with_reducible apply keeps_ite
    | split)

theorem finishMb_keeps {pd : Kept} (s : State) (mb : Mb) (result : Nat) (resp : List Word) (hs : Keeps pd s) :
    Keeps pd (finishMb s mb result resp) := by
  unfold finishMb
  repeat' (first
    | with_reducible assumption
    | (with_reducible first | apply finishMbAt_keeps))

theorem resultMb_keeps {pd : Kept} (s : State) (mb : Mb) (result : Nat) (hs : Keeps pd s) :
    Keeps pd (resultMb s mb result) := by
  unfold resultMb
  repeat' (first
    | with_reducible assumption
    | (with_reducible first | apply finishMb_keeps))

end Sys2Proof.Machine
end

