-- ==== Sys2Proof/Laws/KeepsMbox.lean ====
section
/-! SUPPORT. Every operation of Machine/Mbox.lean leaves the queue alone and keeps the memories canonical; one that writes no memory keeps every byte.
-/
namespace Sys2Proof.Machine

theorem waitMb_keeps {pd : Kept} (s : State) (mb : Mb) (hs : Keeps pd s) :
    Keeps pd (waitMb s mb) := by
  unfold waitMb
  repeat' (first
    | with_reducible assumption
    | (with_reducible first | apply modMb_keeps)
    | intro _
    | simp only [↓keeps_mk])

theorem okMb_keeps {pd : Kept} (s : State) (mb : Mb) (resp : List Word) (hs : Keeps pd s) :
    Keeps pd (okMb s mb resp) := by
  unfold okMb
  repeat' (first
    | with_reducible assumption
    | (with_reducible first | apply finishMb_keeps))

theorem runCmd_keeps {pd : Kept} (s : State) (mb : Mb) (code : Nat) (limited halted : Bool) (fail : List Word) (need : List Word → Nat) (f : State → List Word → State) (hs : Keeps pd s) (hf : ∀ a0 a1, Keeps pd a0 → Keeps pd (f a0 a1)) :
    KeepsO pd (runCmd s mb code limited halted fail need f) := by
  unfold runCmd
  repeat' (first
    | with_reducible assumption
    | with_reducible exact keepsO_fault _
    | with_reducible refine keepsO_next ?_
    | (with_reducible first | apply finishMbAt_keeps | apply finishMb_keeps)
    | with_reducible apply hf
    | ((try lift_lets); intro x; refine (fun (hx : Keeps pd x) => ?_) ?_; clear_value x; rotate_left; unfold x; clear x)
    | (lift_lets; intro x)
    | intro _
    | with_reducible apply keeps_ite
    | with_reducible apply keepsO_ite)

end Sys2Proof.Machine
end

