-- ==== Sys2Proof/Laws/KeepsAxes.lean ====
section
/-! SUPPORT. Every operation of Machine/Axes.lean leaves the queue alone and keeps the memories canonical; one that writes no memory keeps every byte.
-/
namespace Sys2Proof.Machine

theorem axisIrq_keeps {pd : Kept} (s0 s : State) (hs : Keeps pd s) :
    Keeps pd (axisIrq s0 s) := by
  unfold axisIrq
  repeat' (first
    | with_reducible assumption
    | (with_reducible first | apply setIrqIf_keeps)
    | intro _)

theorem pushWrite_keeps {pd : Kept} (s : State) (n : Nat) (w : AxWrite) (hs : Keeps pd s) :
    Keeps pd (pushWrite s n w) := by
  unfold pushWrite
  repeat' (first
    | with_reducible assumption
    | (with_reducible first | apply modAxis_keeps)
    | intro _
    | simp only [↓keeps_mk])

theorem applyStep_keeps {pd : Kept} (s : State) (n : Nat) (delta : DWord) (cause : Nat) (hs : Keeps pd s) :
    Keeps pd (applyStep s n delta cause) := by
  unfold applyStep
  repeat' (first
    | with_reducible assumption
    | (with_reducible first | apply holdClocks_keeps | apply modAxis_keeps | apply raiseHub_keeps)
    | ((try lift_lets); intro x; refine (fun (hx : Keeps pd x) => ?_) ?_; clear_value x; rotate_left; unfold x; clear x)
    | (lift_lets; intro x)
    | intro _
    | simp only [↓keeps_mk]
    | with_reducible apply keeps_ite
    | split)

theorem applyScale_keeps {pd : Kept} (s : State) (n : Nat) (v : DWord) (hs : Keeps pd s) :
    Keeps pd (applyScale s n v) := by
  unfold applyScale
  repeat' (first
    | with_reducible assumption
    | (with_reducible first | apply modAxis_keeps)
    | intro _
    | simp only [↓keeps_mk])

theorem applyWrite_keeps {pd : Kept} (s : State) (n : Nat) (hs : Keeps pd s) :
    Keeps pd (applyWrite s n) := by
  unfold applyWrite
  repeat' (first
    | with_reducible assumption
    | (with_reducible first | apply modAxis_keeps | apply applyStep_keeps | apply applyScale_keeps)
    | ((try lift_lets); intro x; refine (fun (hx : Keeps pd x) => ?_) ?_; clear_value x; rotate_left; unfold x; clear x)
    | (lift_lets; intro x)
    | intro _
    | simp only
    | split)

theorem countSkips_keeps {pd : Kept} (s : State) (t n : Nat) (hs : Keeps pd s) :
    Keeps pd (countSkips s t n) := by
  unfold countSkips
  repeat' (first
    | with_reducible assumption
    | (with_reducible first | apply modTask_keeps)
    | ((try lift_lets); intro x; refine (fun (hx : Keeps pd x) => ?_) ?_; clear_value x; rotate_left; unfold x; clear x)
    | (lift_lets; intro x)
    | intro _
    | simp only [↓keeps_mk])

theorem fireRelease_keeps {pd : Kept} (s : State) (t cause : Nat) (hs : Keeps pd s) :
    Keeps pd (fireRelease s t cause) := by
  unfold fireRelease
  repeat' (first
    | with_reducible assumption
    | (with_reducible first | apply modTask_keeps)
    | ((try lift_lets); intro x; refine (fun (hx : Keeps pd x) => ?_) ?_; clear_value x; rotate_left; unfold x; clear x)
    | (lift_lets; intro x)
    | intro _
    | simp only [↓keeps_mk])

theorem standbyPoint_keeps {pd : Kept} (s : State) (t : Nat) (hs : Keeps pd s) :
    Keeps pd (standbyPoint s t) := by
  unfold standbyPoint
  repeat' (first
    | with_reducible assumption
    | ((try lift_lets); intro x; refine (fun (hx : Keeps pd x) => ?_) ?_; clear_value x; rotate_left; unfold x; clear x)
    | (lift_lets; intro x)
    | simp only [↓keeps_mk]
    | intro _
    | with_reducible apply keeps_ite)

theorem dropDrive_keeps {pd : Kept} (s : State) (hs : Keeps pd s) :
    Keeps pd (dropDrive s) := by
  unfold dropDrive
  repeat' (first
    | with_reducible assumption
    | (with_reducible first | apply modLanes_keeps)
    | intro _
    | simp only [↓keeps_mk])

theorem flipControl_keeps {pd : Kept} (s : State) (w : PairSwitch) (hs : Keeps pd s) :
    Keeps pd (flipControl s w) := by
  unfold flipControl
  repeat' (first
    | with_reducible assumption
    | (with_reducible first | apply setIrq_keeps | apply raiseHub_keeps | apply okMb_keeps | apply dropDrive_keeps)
    | ((try lift_lets); intro x; refine (fun (hx : Keeps pd x) => ?_) ?_; clear_value x; rotate_left; unfold x; clear x)
    | (lift_lets; intro x)
    | simp only [↓keeps_mk]
    | intro _
    | with_reducible apply keeps_ite
    | split)

theorem evalLattice_keeps {pd : Kept} (s : State) (t : Nat) (axisNo : Nat) (dir : Dir) (phase period : DWord) (path0 : Nat) (mv : Move) (hs : Keeps pd s) :
    Keeps pd (evalLattice s t axisNo dir phase period path0 mv) := by
  unfold evalLattice
  repeat' (first
    | with_reducible assumption
    | (with_reducible first | apply modTask_keeps | apply raiseHub_keeps | apply countSkips_keeps | apply fireRelease_keeps | apply standbyPoint_keeps | apply flipControl_keeps)
    | ((try lift_lets); intro x; refine (fun (hx : Keeps pd x) => ?_) ?_; clear_value x; rotate_left; unfold x; clear x)
    | (lift_lets; intro x)
    | intro _
    | simp only [↓keeps_mk]
    | with_reducible apply keeps_ite
    | split)

theorem evalEvent_keeps {pd : Kept} (s : State) (t : Nat) (hs : Keeps pd s) :
    Keeps pd (evalEvent s t) := by
  unfold evalEvent
  repeat' (first
    | with_reducible assumption
    | (with_reducible first | apply modTask_keeps | apply countSkips_keeps | apply fireRelease_keeps)
    | ((try lift_lets); intro x; refine (fun (hx : Keeps pd x) => ?_) ?_; clear_value x; rotate_left; unfold x; clear x)
    | (lift_lets; intro x)
    | intro _
    | simp only [↓keeps_mk]
    | with_reducible apply keeps_ite)

theorem eventArrive_keeps {pd : Kept} (s : State) (t : Nat) (hs : Keeps pd s) :
    Keeps pd (eventArrive s t) := by
  unfold eventArrive
  repeat' (first
    | with_reducible assumption
    | (with_reducible first | apply modTask_keeps)
    | ((try lift_lets); intro x; refine (fun (hx : Keeps pd x) => ?_) ?_; clear_value x; rotate_left; unfold x; clear x)
    | (lift_lets; intro x)
    | intro _
    | simp only [↓keeps_mk]
    | with_reducible apply keeps_ite
    | split)

theorem eventAll_keeps {pd : Kept} (s : State) (kind number : Nat) (hs : Keeps pd s) :
    Keeps pd (eventAll s kind number) := by
  unfold eventAll
  repeat' (first
    | with_reducible assumption
    | (with_reducible first | apply eventArrive_keeps)
    | with_reducible refine keeps_foldl ?_ (fun _ _ _ => ?_)
    | intro _
    | simp only [↓keeps_mk]
    | with_reducible apply keeps_ite
    | split)

theorem scheduleEdge_keeps {pd : Kept} (s : State) (n : Nat) (e : OutEdge) (at_ armSeq : Nat) (late : Bool) (hs : Keeps pd s) :
    Keeps pd (scheduleEdge s n e at_ armSeq late) := by
  unfold scheduleEdge
  repeat' (first
    | with_reducible assumption
    | intro _
    | simp only [↓keeps_mk]
    | with_reducible apply keeps_ite)

theorem advance_keeps {pd : Kept} (s : State) (hs : Keeps pd s) :
    Keeps pd (advance s) := by
  unfold advance
  repeat' (first
    | with_reducible assumption
    | (with_reducible first | apply modAxis_keeps)
    | ((try lift_lets); intro x; refine (fun (hx : Keeps pd x) => ?_) ?_; clear_value x; rotate_left; unfold x; clear x)
    | (lift_lets; intro x)
    | intro _
    | simp only [↓keeps_mk]
    | with_reducible apply keeps_ite
    | split)

theorem evaluate_keeps {pd : Kept} (s : State) (steps : List Int) (hs : Keeps pd s) :
    Keeps pd (evaluate s steps) := by
  unfold evaluate
  repeat' (first
    | with_reducible assumption
    | (with_reducible first | apply evalLattice_keeps | apply evalEvent_keeps)
    | with_reducible refine keeps_foldl ?_ (fun _ _ _ => ?_)
    | ((try lift_lets); intro x; refine (fun (hx : Keeps pd x) => ?_) ?_; clear_value x; rotate_left; unfold x; clear x)
    | (lift_lets; intro x)
    | intro _
    | simp only [↓keeps_mk]
    | split)

theorem discardEdge_keeps {pd : Kept} (s : State) (ti : Nat) (hs : Keeps pd s) :
    Keeps pd (discardEdge s ti) := by
  unfold discardEdge
  repeat' (first
    | with_reducible assumption
    | (with_reducible first | apply modAxis_keeps)
    | with_reducible refine keeps_foldl ?_ (fun _ _ _ => ?_)
    | ((try lift_lets); intro x; refine (fun (hx : Keeps pd x) => ?_) ?_; clear_value x; rotate_left; unfold x; clear x)
    | (lift_lets; intro x)
    | intro _
    | simp only [↓keeps_mk])

theorem countTravel_keeps {pd : Kept} (s : State) (rev : Bool) (r : Nat) (hs : Keeps pd s) :
    Keeps pd (countTravel s rev r) := by
  unfold countTravel
  repeat' (first
    | with_reducible assumption
    | (with_reducible first | apply modAxis_keeps)
    | ((try lift_lets); intro x; refine (fun (hx : Keeps pd x) => ?_) ?_; clear_value x; rotate_left; unfold x; clear x)
    | (lift_lets; intro x)
    | intro _
    | simp only [↓keeps_mk]
    | with_reducible apply keeps_ite
    | split)

theorem crossing_keeps {pd : Kept} (s : State) (t : DWord) (hs : Keeps pd s) :
    Keeps pd (crossing s t) := by
  unfold crossing
  repeat' (first
    | with_reducible assumption
    | (with_reducible first | apply modAxis_keeps)
    | ((try lift_lets); intro x; refine (fun (hx : Keeps pd x) => ?_) ?_; clear_value x; rotate_left; unfold x; clear x)
    | (lift_lets; intro x)
    | intro _
    | simp only [↓keeps_mk]
    | with_reducible apply keeps_ite
    | split)

theorem countEdge_keeps {pd : Kept} (s : State) (ti : Nat) (rising both : Bool) (r : Nat) (t : DWord) (hs : Keeps pd s) :
    Keeps pd (countEdge s ti rising both r t) := by
  unfold countEdge
  repeat' (first
    | with_reducible assumption
    | (with_reducible first | apply countTravel_keeps | apply crossing_keeps | apply modAxis_keeps)
    | ((try lift_lets); intro x; refine (fun (hx : Keeps pd x) => ?_) ?_; clear_value x; rotate_left; unfold x; clear x)
    | (lift_lets; intro x)
    | intro _
    | simp only [↓keeps_mk]
    | with_reducible apply keeps_ite
    | split)

theorem inputEdge_keeps {pd : Kept} (s : State) (e : ArrivedEdge) (hs : Keeps pd s) :
    Keeps pd (inputEdge s e) := by
  unfold inputEdge
  repeat' (first
    | with_reducible assumption
    | (with_reducible first | apply countEdge_keeps | apply discardEdge_keeps)
    | ((try lift_lets); intro x; refine (fun (hx : Keeps pd x) => ?_) ?_; clear_value x; rotate_left; unfold x; clear x)
    | (lift_lets; intro x)
    | intro _
    | simp only [↓keeps_mk]
    | with_reducible apply keeps_ite
    | split)

theorem tickStep1_keeps {pd : Kept} (s : State) (hs : Keeps pd s) :
    Keeps pd (tickStep1 s) := by
  unfold tickStep1
  repeat' (first
    | with_reducible assumption
    | (with_reducible first | apply advance_keeps | apply inputEdge_keeps)
    | with_reducible refine keeps_foldl ?_ (fun _ _ _ => ?_)
    | ((try lift_lets); intro x; refine (fun (hx : Keeps pd x) => ?_) ?_; clear_value x; rotate_left; unfold x; clear x)
    | (lift_lets; intro x)
    | simp only [↓keeps_mk]
    | intro _
    | with_reducible apply keeps_ite
    | split)

theorem tick_keeps {pd : Kept} (s : State) (hs : Keeps pd s) :
    Keeps pd (tick s) := by
  unfold tick
  repeat' (first
    | with_reducible assumption
    | (with_reducible first | apply applyWrite_keeps | apply axisIrq_keeps | apply evaluate_keeps | apply tickStep1_keeps)
    | with_reducible refine keeps_foldl ?_ (fun _ _ _ => ?_)
    | ((try lift_lets); intro x; refine (fun (hx : Keeps pd x) => ?_) ?_; clear_value x; rotate_left; unfold x; clear x)
    | (lift_lets; intro x)
    | intro _
    | simp only [↓keeps_mk]
    | with_reducible apply keeps_ite
    | split)

theorem discipline_keeps {pd : Kept} (s : State) (err : Int) (hs : Keeps pd s) :
    Keeps pd (discipline s err) := by
  unfold discipline
  repeat' (first
    | with_reducible assumption
    | (with_reducible first | apply modAxis_keeps | apply pushWrite_keeps)
    | ((try lift_lets); intro x; refine (fun (hx : Keeps pd x) => ?_) ?_; clear_value x; rotate_left; unfold x; clear x)
    | (lift_lets; intro x)
    | intro _
    | simp only [↓keeps_mk]
    | with_reducible apply keeps_ite)

theorem sourceLost_keeps {pd : Kept} (s : State) (hs : Keeps pd s) :
    Keeps pd (sourceLost s) := by
  unfold sourceLost
  repeat' (first
    | with_reducible assumption
    | (with_reducible first | apply modAxis_keeps)
    | intro _
    | simp only [↓keeps_mk]
    | with_reducible apply keeps_ite)

theorem masterHoldover_keeps {pd : Kept} (s : State) (hs : Keeps pd s) :
    Keeps pd (masterHoldover s) := by
  unfold masterHoldover
  repeat' (first
    | with_reducible assumption
    | (with_reducible first | apply sourceLost_keeps)
    | ((try lift_lets); intro x; refine (fun (hx : Keeps pd x) => ?_) ?_; clear_value x; rotate_left; unfold x; clear x)
    | (lift_lets; intro x)
    | intro _
    | simp only [↓keeps_mk]
    | with_reducible apply keeps_ite
    | split)

theorem selectSource_keeps {pd : Kept} (s : State) (n src input edges : Nat) (start : Option DWord) (hs : Keeps pd s) :
    Keeps pd (selectSource s n src input edges start) := by
  unfold selectSource
  repeat' (first
    | with_reducible assumption
    | (with_reducible first | apply masterHoldover_keeps | apply modAxis_keeps | apply pushWrite_keeps)
    | ((try lift_lets); intro x; refine (fun (hx : Keeps pd x) => ?_) ?_; clear_value x; rotate_left; unfold x; clear x)
    | (lift_lets; intro x)
    | intro _
    | simp only [↓keeps_mk]
    | with_reducible apply keeps_ite
    | split)

theorem execTimingInputEdge_keeps {pd : Kept} (ti : Fin 4) (rising : Bool) (width : Nat) (both half : Bool) (s : State) (hs : Keeps pd s) :
    KeepsO pd (execTimingInputEdge ti rising width both half s) := by
  unfold execTimingInputEdge
  repeat' (first
    | with_reducible assumption
    | with_reducible exact keepsO_fault _
    | with_reducible refine keepsO_next ?_
    | ((try lift_lets); intro x; refine (fun (hx : Keeps pd x) => ?_) ?_; clear_value x; rotate_left; unfold x; clear x)
    | (lift_lets; intro x)
    | intro _
    | simp only [↓keeps_mk]
    | with_reducible apply keeps_ite
    | with_reducible apply keepsO_ite
    | split)

theorem execZeroCrossing_keeps {pd : Kept} (ch : Fin 16) (s : State) (hs : Keeps pd s) :
    KeepsO pd (execZeroCrossing ch s) := by
  unfold execZeroCrossing
  repeat' (first
    | with_reducible assumption
    | with_reducible exact keepsO_fault _
    | with_reducible refine keepsO_next ?_
    | (with_reducible first | apply axisIrq_keeps | apply crossing_keeps)
    | ((try lift_lets); intro x; refine (fun (hx : Keeps pd x) => ?_) ?_; clear_value x; rotate_left; unfold x; clear x)
    | (lift_lets; intro x)
    | intro _
    | simp only [↓keeps_mk]
    | with_reducible apply keeps_ite
    | with_reducible apply keepsO_ite
    | split)

theorem execLost_keeps {pd : Kept} (s : State) (hs : Keeps pd s) :
    KeepsO pd (execLost s) := by
  unfold execLost
  repeat' (first
    | with_reducible assumption
    | with_reducible exact keepsO_fault _
    | with_reducible refine keepsO_next ?_
    | (with_reducible first | apply modAxis_keeps | apply axisIrq_keeps)
    | ((try lift_lets); intro x; refine (fun (hx : Keeps pd x) => ?_) ?_; clear_value x; rotate_left; unfold x; clear x)
    | (lift_lets; intro x)
    | intro _
    | simp only [↓keeps_mk]
    | with_reducible apply keeps_ite
    | with_reducible apply keepsO_ite
    | split)

theorem execHoldoverLimit_keeps {pd : Kept} (s : State) (hs : Keeps pd s) :
    KeepsO pd (execHoldoverLimit s) := by
  unfold execHoldoverLimit
  repeat' (first
    | with_reducible assumption
    | with_reducible exact keepsO_fault _
    | with_reducible refine keepsO_next ?_
    | (with_reducible first | apply modAxis_keeps | apply axisIrq_keeps)
    | ((try lift_lets); intro x; refine (fun (hx : Keeps pd x) => ?_) ?_; clear_value x; rotate_left; unfold x; clear x)
    | (lift_lets; intro x)
    | intro _
    | simp only [↓keeps_mk]
    | with_reducible apply keeps_ite
    | with_reducible apply keepsO_ite)

theorem snapAll_keeps {pd : Kept} (s : State) (hs : Keeps pd s) :
    Keeps pd (snapAll s) := by
  unfold snapAll
  repeat' (first
    | with_reducible assumption
    | intro _
    | simp only [↓keeps_mk])

theorem readValHi_keeps {pd : Kept} (s : State) (n : Nat) (hs : Keeps pd s) :
    Keeps pd (readValHi s n) := by
  unfold readValHi
  repeat' (first
    | with_reducible assumption
    | (with_reducible first | apply modAxis_keeps)
    | intro _
    | simp only [↓keeps_mk]
    | with_reducible apply keeps_ite)

end Sys2Proof.Machine
end

