-- ==== Sys2Proof/Laws/KeepsLaneExec.lean ====
section
/-! SUPPORT. Every operation of Machine/LaneExec.lean leaves the queue alone and keeps the memories canonical; one that writes no memory keeps every byte.
-/
namespace Sys2Proof.Machine

theorem stopLane_keeps {pd : Kept} (s : State) (l : Lane) (hs : Keeps pd s) :
    Keeps pd (stopLane s l) := by
  unfold stopLane
  repeat' (first
    | with_reducible assumption
    | (with_reducible first | apply modLane_keeps)
    | intro _
    | simp only [↓keeps_mk])

theorem enqueueInst_keeps {pd : Kept} (s : State) (l : Lane) (r : InstRef) (hs : Keeps pd s) :
    Keeps pd (enqueueInst s l r) := by
  unfold enqueueInst
  repeat' (first
    | with_reducible assumption
    | (with_reducible first | apply modLane_keeps | apply modLaneTask_keeps | apply raiseLane_keeps | apply stopLane_keeps)
    | ((try lift_lets); intro x; refine (fun (hx : Keeps pd x) => ?_) ?_; clear_value x; rotate_left; unfold x; clear x)
    | (lift_lets; intro x)
    | intro _
    | simp only
    | with_reducible apply keeps_ite
    | split)

theorem decrement_keeps {pd : Kept} (s : State) (l : Lane) (r : InstRef) (hs : Keeps pd s) :
    Keeps pd (decrement s l r) := by
  unfold decrement
  repeat' (first
    | with_reducible assumption
    | (with_reducible first | apply modLaneTask_keeps | apply raiseLane_keeps | apply stopLane_keeps | apply enqueueInst_keeps)
    | ((try lift_lets); intro x; refine (fun (hx : Keeps pd x) => ?_) ?_; clear_value x; rotate_left; unfold x; clear x)
    | (lift_lets; intro x)
    | intro _
    | simp only
    | with_reducible apply keeps_ite
    | split)

theorem takeFrom_keeps {pd : Kept} (s : State) (l : Lane) (b : Nat) (r : InstRef) (hs : Keeps pd s) :
    Keeps pd (takeFrom s l b r) := by
  unfold takeFrom
  repeat' (first
    | with_reducible assumption
    | (with_reducible first | apply modLane_keeps)
    | intro _
    | simp only [↓keeps_mk])

theorem modPan_keeps {pd : Kept} (s : State) (l : Lane) (b p : Nat) (f : Pan → Pan) (hs : Keeps pd s) :
    Keeps pd (modPan s l b p f) := by
  unfold modPan
  repeat' (first
    | with_reducible assumption
    | (with_reducible first | apply modLane_keeps)
    | intro _
    | simp only [↓keeps_mk])

theorem crossbar_keeps {pd : Kept} (s : State) (l : Lane) (b p : Nat) (r : Option InstRef) (y0 : Xbar) (hs : Keeps pd s) :
    Keeps pd (crossbar s l b p r y0).1 := by
  unfold crossbar
  repeat' (first
    | with_reducible assumption
    | (with_reducible first | apply raiseLane_keeps | apply stopLane_keeps)
    | ((try lift_lets); intro x; refine (fun (hx : Keeps pd x) => ?_) ?_; clear_value x; rotate_left; unfold x; clear x)
    | (lift_lets; intro x)
    | simp only [↓keeps_mk]
    | simp +zetaDelta only [↓keeps_mk]
    | split
    | (clear_value *; split))

theorem rakeFor_keeps {pd : Kept} (s : State) (l : Lane) (b p : Nat) (xb : Xbar) (hs : Keeps pd s) :
    Keeps pd (rakeFor s l b p xb) := by
  unfold rakeFor
  repeat' (first
    | with_reducible assumption
    | (with_reducible first | apply crossbar_keeps | apply modLane_keeps | apply modPan_keeps | apply takeFrom_keeps)
    | ((try lift_lets); intro x; refine (fun (hx : Keeps pd x) => ?_) ?_; clear_value x; rotate_left; unfold x; clear x)
    | (lift_lets; intro x)
    | intro _
    | simp only
    | simp only [↓keeps_mk]
    | with_reducible apply keeps_ite
    | (with_reducible refine keeps_pair1 (by assumption) ?_)
    | (with_reducible refine keeps_pair2 (by assumption) ?_)
    | (with_reducible refine keeps_pair3 (by assumption) ?_)
    | split)

theorem dispatchPan_keeps {pd : Kept} (s : State) (l : Lane) (b p : Nat) (xb : Xbar) (hs : Keeps pd s) :
    Keeps pd (dispatchPan s l b p xb) := by
  unfold dispatchPan
  repeat' (first
    | with_reducible assumption
    | (with_reducible first | apply modLane_keeps | apply modPan_keeps | apply rakeFor_keeps | apply takeFrom_keeps)
    | ((try lift_lets); intro x; refine (fun (hx : Keeps pd x) => ?_) ?_; clear_value x; rotate_left; unfold x; clear x)
    | (lift_lets; intro x)
    | intro _
    | simp only [↓keeps_mk]
    | with_reducible apply keeps_ite
    | split)

theorem retirePan_keeps {pd : Kept} (s : State) (l : Lane) (b p : Nat) (r : InstRef) (code : BitVec 16) (hs : Keeps pd s) :
    Keeps pd (retirePan s l b p r code) := by
  unfold retirePan
  repeat' (first
    | with_reducible assumption
    | (with_reducible first | apply modLane_keeps | apply modLaneTask_keeps | apply raiseLane_keeps | apply stopLane_keeps | apply modPan_keeps)
    | ((try lift_lets); intro x; refine (fun (hx : Keeps pd x) => ?_) ?_; clear_value x; rotate_left; unfold x; clear x)
    | (lift_lets; intro x)
    | intro _
    | simp only
    | with_reducible apply keeps_ite
    | split)

theorem commitInst_keeps {pd : Kept} (s : State) (l : Lane) (r : InstRef) (p : Program) (i : Inst) (hs : Keeps pd s) :
    Keeps pd (commitInst s l r p i) := by
  unfold commitInst
  repeat' (first
    | with_reducible assumption
    | (with_reducible first | apply modLane_keeps | apply decrement_keeps)
    | with_reducible refine keeps_foldl ?_ (fun _ _ _ => ?_)
    | ((try lift_lets); intro x; refine (fun (hx : Keeps pd x) => ?_) ?_; clear_value x; rotate_left; unfold x; clear x)
    | (lift_lets; intro x)
    | intro _
    | simp only [↓keeps_mk]
    | with_reducible apply keeps_ite
    | split)

theorem sendFrame_keeps {pd : Kept} (s : State) (l : Lane) (f : LaneFrame) (hs : Keeps pd s) :
    Keeps pd (sendFrame s l f) := by
  unfold sendFrame
  repeat' (first
    | with_reducible assumption
    | intro _
    | simp only [↓keeps_mk])

theorem setConn_keeps {pd : Kept} (s : State) (l : Lane) (x : ConnState) (hs : Keeps pd s) :
    Keeps pd (setConn s l x) := by
  unfold setConn
  repeat' (first
    | with_reducible assumption
    | ((try lift_lets); intro x; refine (fun (hx : Keeps pd x) => ?_) ?_; clear_value x; rotate_left; unfold x; clear x)
    | (lift_lets; intro x)
    | intro _
    | simp only [↓keeps_mk]
    | with_reducible apply keeps_ite
    | split)

theorem advanceSeq_keeps {pd : Kept} (s : State) (l : Lane) (t : Nat) (hs : Keeps pd s) :
    Keeps pd (advanceSeq s l t) := by
  unfold advanceSeq
  repeat' (first
    | with_reducible assumption
    | (with_reducible first | apply setConn_keeps)
    | with_reducible refine keeps_foldl ?_ (fun _ _ _ => ?_)
    | ((try lift_lets); intro x; refine (fun (hx : Keeps pd x) => ?_) ?_; clear_value x; rotate_left; unfold x; clear x)
    | (lift_lets; intro x)
    | intro _
    | simp only [↓keeps_mk]
    | with_reducible apply keeps_ite
    | split)

theorem shipFrame_keeps {pd : Kept} (s : State) (l : Lane) (t : Nat) (hs : Keeps pd s) :
    Keeps pd (shipFrame s l t) := by
  unfold shipFrame
  repeat' (first
    | with_reducible assumption
    | (with_reducible first | apply advanceSeq_keeps | apply modLane_keeps | apply sendFrame_keeps)
    | ((try lift_lets); intro x; refine (fun (hx : Keeps pd x) => ?_) ?_; clear_value x; rotate_left; unfold x; clear x)
    | (lift_lets; intro x)
    | intro _
    | simp only [↓keeps_mk]
    | with_reducible apply keeps_ite
    | (with_reducible refine keeps_pair1 (by assumption) ?_)
    | (with_reducible refine keeps_pair2 (by assumption) ?_)
    | (with_reducible refine keeps_pair3 (by assumption) ?_)
    | split)

theorem abandonCycle_keeps {pd : Kept} (s : State) (l : Lane) (t : Nat) (hs : Keeps pd s) :
    Keeps pd (abandonCycle s l t) := by
  unfold abandonCycle
  repeat' (first
    | with_reducible assumption
    | (with_reducible first | apply modLane_keeps)
    | ((try lift_lets); intro x; refine (fun (hx : Keeps pd x) => ?_) ?_; clear_value x; rotate_left; unfold x; clear x)
    | (lift_lets; intro x)
    | intro _
    | simp only
    | with_reducible apply keeps_ite)

theorem switchLane_keeps {pd : Kept} (s : State) (l : Lane) (t : Nat) (hs : Keeps pd s) :
    Keeps pd (switchLane s l t) := by
  unfold switchLane
  repeat' (first
    | with_reducible assumption
    | (with_reducible first | apply abandonCycle_keeps | apply modLane_keeps)
    | ((try lift_lets); intro x; refine (fun (hx : Keeps pd x) => ?_) ?_; clear_value x; rotate_left; unfold x; clear x)
    | (lift_lets; intro x)
    | intro _
    | simp only [↓keeps_mk]
    | with_reducible apply keeps_ite
    | split)

theorem startCycle_keeps {pd : Kept} (s : State) (l : Lane) (m : StampMsg) (conn : List (Nat × QWord)) (hs : Keeps pd s) :
    Keeps pd (startCycle s l m conn) := by
  unfold startCycle
  repeat' (first
    | with_reducible assumption
    | (with_reducible first | apply modLane_keeps | apply enqueueInst_keeps | apply shipFrame_keeps | apply abandonCycle_keeps | apply switchLane_keeps)
    | with_reducible refine keeps_foldl ?_ (fun _ _ _ => ?_)
    | ((try lift_lets); intro x; refine (fun (hx : Keeps pd x) => ?_) ?_; clear_value x; rotate_left; unfold x; clear x)
    | (lift_lets; intro x)
    | intro _
    | simp only
    | with_reducible apply keeps_ite
    | split)

end Sys2Proof.Machine
end

