-- ==== Sys2Proof/Laws/KeepsGroups.lean ====
section
/-! SUPPORT. Every operation of Machine/Groups.lean leaves the queue alone and keeps the memories canonical; one that writes no memory keeps every byte.
-/
namespace Sys2Proof.Machine

theorem nextGroupSeq_keeps {pd : Kept} (s : State) (g : Nat) (hs : Keeps pd s) :
    Keeps pd (nextGroupSeq s g).2 := by
  unfold nextGroupSeq
  repeat' (first
    | with_reducible assumption
    | ((try lift_lets); intro x; refine (fun (hx : Keeps pd x) => ?_) ?_; clear_value x; rotate_left; unfold x; clear x)
    | (lift_lets; intro x)
    | simp only [↓keeps_mk])

theorem formGroup_keeps {pd : Kept} (s : State) (g : SigGroup) (hs : Keeps pd s) :
    Keeps pd (formGroup s g).2 := by
  unfold formGroup
  repeat' (first
    | with_reducible assumption
    | (with_reducible first | apply nextGroupSeq_keeps)
    | ((try lift_lets); intro x; refine (fun (hx : Keeps pd x) => ?_) ?_; clear_value x; rotate_left; unfold x; clear x)
    | (lift_lets; intro x)
    | intro _
    | simp only
    | with_reducible apply keeps_ite
    | simp +zetaDelta only [↓keeps_mk]
    | split
    | (clear_value *; split)
    | (with_reducible refine keeps_pair1 (by assumption) ?_)
    | (with_reducible refine keeps_pair2 (by assumption) ?_)
    | (with_reducible refine keeps_pair3 (by assumption) ?_))

theorem modGroup_keeps {pd : Kept} (s : State) (g : Nat) (f : GroupSt → GroupSt) (hs : Keeps pd s) :
    Keeps pd (modGroup s g f) := by
  unfold modGroup
  repeat' (first
    | with_reducible assumption
    | ((try lift_lets); intro x; refine (fun (hx : Keeps pd x) => ?_) ?_; clear_value x; rotate_left; unfold x; clear x)
    | (lift_lets; intro x)
    | intro _
    | simp only [↓keeps_mk]
    | with_reducible apply keeps_ite)

theorem presentGroup_keeps {pd : Kept} (s : State) (g : SigGroup) (row : BitVec 4) (hs : Keeps pd s) :
    Keeps pd (presentGroup s g row) := by
  unfold presentGroup
  repeat' (first
    | with_reducible assumption
    | (with_reducible first | apply eventAll_keeps)
    | with_reducible refine keeps_foldl ?_ (fun _ _ _ => ?_)
    | ((try lift_lets); intro x; refine (fun (hx : Keeps pd x) => ?_) ?_; clear_value x; rotate_left; unfold x; clear x)
    | (lift_lets; intro x)
    | intro _
    | simp only [↓keeps_mk]
    | with_reducible apply keeps_ite
    | split)

theorem groupArrive_keeps {pd : Kept} (s : State) (g : SigGroup) (pdSeq : Word) (body : List Byte) (hs : Keeps pd s) :
    Keeps pd (groupArrive s g pdSeq body) := by
  unfold groupArrive
  repeat' (first
    | with_reducible assumption
    | (with_reducible first | apply eventAll_keeps | apply modGroup_keeps | apply presentGroup_keeps)
    | ((try lift_lets); intro x; refine (fun (hx : Keeps pd x) => ?_) ?_; clear_value x; rotate_left; unfold x; clear x)
    | (lift_lets; intro x)
    | intro _
    | simp only [↓keeps_mk]
    | with_reducible apply keeps_ite
    | split)

theorem evalGroup_keeps {pd : Kept} (s : State) (g : SigGroup) (hs : Keeps pd s) :
    Keeps pd (evalGroup s g) := by
  unfold evalGroup
  repeat' (first
    | with_reducible assumption
    | (with_reducible first | apply modGroup_keeps | apply presentGroup_keeps | apply raiseHub_keeps)
    | ((try lift_lets); intro x; refine (fun (hx : Keeps pd x) => ?_) ?_; clear_value x; rotate_left; unfold x; clear x)
    | (lift_lets; intro x)
    | intro _
    | simp only [↓keeps_mk]
    | with_reducible apply keeps_ite
    | split)

theorem moduleSignalEvents_keeps {pd : Kept} (s0 s : State) (hs : Keeps pd s) :
    Keeps pd (moduleSignalEvents s0 s) := by
  unfold moduleSignalEvents
  repeat' (first
    | with_reducible assumption
    | (with_reducible first | apply eventAll_keeps)
    | with_reducible refine keeps_foldl ?_ (fun _ _ _ => ?_)
    | intro _
    | with_reducible apply keeps_ite)

theorem watchModuleSignals_keeps {pd : Kept} (s : State) (hs : Keeps pd s) :
    Keeps pd (watchModuleSignals s) := by
  unfold watchModuleSignals
  repeat' (first
    | with_reducible assumption
    | (with_reducible first | apply eventAll_keeps)
    | ((try lift_lets); intro x; refine (fun (hx : Keeps pd x) => ?_) ?_; clear_value x; rotate_left; unfold x; clear x)
    | (lift_lets; intro x)
    | simp only [↓keeps_mk]
    | intro _
    | with_reducible apply keeps_ite)

theorem execFreshnessEvaluation_keeps {pd : Kept} (s : State) (hs : Keeps pd s) :
    KeepsO pd (execFreshnessEvaluation s) := by
  unfold execFreshnessEvaluation
  repeat' (first
    | with_reducible assumption
    | with_reducible exact keepsO_fault _
    | with_reducible refine keepsO_next ?_
    | (with_reducible first | apply evalGroup_keeps | apply watchModuleSignals_keeps)
    | with_reducible refine keeps_foldl ?_ (fun _ _ _ => ?_)
    | ((try lift_lets); intro x; refine (fun (hx : Keeps pd x) => ?_) ?_; clear_value x; rotate_left; unfold x; clear x)
    | (lift_lets; intro x)
    | intro _
    | simp only [↓keeps_mk]
    | split)

end Sys2Proof.Machine
end

