-- ==== Sys2Proof/Laws/KeepsSound.lean ====
section
/-! SUPPORT. Every operation of Machine/Sound.lean leaves the queue alone and keeps the memories canonical; one that writes no memory keeps every byte.
-/
namespace Sys2Proof.Machine

theorem feedChannel_keeps {pd : Kept} (s : State) (ch : Nat) (bs : List Bool) (hs : Keeps pd s) :
    Keeps pd (feedChannel s ch bs) := by
  unfold feedChannel
  repeat' (first
    | with_reducible assumption
    | ((try lift_lets); intro x; refine (fun (hx : Keeps pd x) => ?_) ?_; clear_value x; rotate_left; unfold x; clear x)
    | (lift_lets; intro x)
    | intro _
    | simp only [↓keeps_mk]
    | with_reducible apply keeps_ite)

theorem formBlock_keeps {pd : Kept} (s : State) (ch : Nat) (hs : Keeps pd s) :
    Keeps pd (formBlock s ch) := by
  unfold formBlock
  repeat' (first
    | with_reducible assumption
    | ((try lift_lets); intro x; refine (fun (hx : Keeps pd x) => ?_) ?_; clear_value x; rotate_left; unfold x; clear x)
    | (lift_lets; intro x)
    | intro _
    | simp only [↓keeps_mk]
    | with_reducible apply keeps_ite
    | split)

theorem modFlow_keeps {pd : Kept} (s : State) (id : Nat) (f : FlowSt → FlowSt) (hs : Keeps pd s) :
    Keeps pd (modFlow s id f) := by
  unfold modFlow
  repeat' (first
    | with_reducible assumption
    | ((try lift_lets); intro x; refine (fun (hx : Keeps pd x) => ?_) ?_; clear_value x; rotate_left; unfold x; clear x)
    | (lift_lets; intro x)
    | intro _
    | simp only [↓keeps_mk]
    | with_reducible apply keeps_ite)

theorem setRun_keeps {pd : Kept} (s : State) (id : Nat) (run : Bool) (hs : Keeps pd s) :
    Keeps pd (setRun s id run) := by
  unfold setRun
  repeat' (first
    | with_reducible assumption
    | (with_reducible first | apply modFlow_keeps)
    | intro _
    | simp only [↓keeps_mk]
    | with_reducible apply keeps_ite)

theorem placePacket_keeps {pd : Kept} (s : State) (id : Nat) (p0 : Int) (samples : List (List Int)) (hs : Keeps pd s) :
    Keeps pd (placePacket s id p0 samples) := by
  unfold placePacket
  repeat' (first
    | with_reducible assumption
    | (with_reducible first | apply modFlow_keeps)
    | with_reducible refine keeps_foldl ?_ (fun _ _ _ => ?_)
    | ((try lift_lets); intro x; refine (fun (hx : Keeps pd x) => ?_) ?_; clear_value x; rotate_left; unfold x; clear x)
    | (lift_lets; intro x)
    | intro _
    | simp only
    | with_reducible apply keeps_ite
    | split)

theorem modMix_keeps {pd : Kept} (s : State) (p : Nat) (f : MixPt → MixPt) (hs : Keeps pd s) :
    Keeps pd (modMix s p f) := by
  unfold modMix
  repeat' (first
    | with_reducible assumption
    | ((try lift_lets); intro x; refine (fun (hx : Keeps pd x) => ?_) ?_; clear_value x; rotate_left; unfold x; clear x)
    | (lift_lets; intro x)
    | intro _
    | simp only [↓keeps_mk])

theorem stepGains_keeps {pd : Kept} (s : State) (hs : Keeps pd s) :
    Keeps pd (stepGains s) := by
  unfold stepGains
  repeat' (first
    | with_reducible assumption
    | (with_reducible first | apply modMix_keeps)
    | with_reducible refine keeps_foldl ?_ (fun _ _ _ => ?_)
    | ((try lift_lets); intro x; refine (fun (hx : Keeps pd x) => ?_) ?_; clear_value x; rotate_left; unfold x; clear x)
    | (lift_lets; intro x)
    | intro _
    | simp only [↓keeps_mk]
    | with_reducible apply keeps_ite
    | split)

theorem portOut_keeps {pd : Kept} (s : State) (p : Nat) (vals : List Int) (hs : Keeps pd s) :
    Keeps pd (portOut s p vals) := by
  unfold portOut
  repeat' (first
    | with_reducible assumption
    | (with_reducible first | apply emit_keeps)
    | with_reducible refine keeps_foldl ?_ (fun _ _ _ => ?_)
    | ((try lift_lets); intro x; refine (fun (hx : Keeps pd x) => ?_) ?_; clear_value x; rotate_left; unfold x; clear x)
    | (lift_lets; intro x)
    | intro _
    | simp only [↓keeps_mk]
    | with_reducible apply keeps_ite
    | split)

theorem mixFrame_keeps {pd : Kept} (s : State) (tdmi : List Word) (hs : Keeps pd s) :
    Keeps pd (mixFrame s tdmi) := by
  unfold mixFrame
  repeat' (first
    | with_reducible assumption
    | (with_reducible first | apply modFlow_keeps | apply portOut_keeps | apply stepGains_keeps)
    | with_reducible refine keeps_foldl ?_ (fun _ _ _ => ?_)
    | simp only [↓keeps_mk]
    | ((try lift_lets); intro x; refine (fun (hx : Keeps pd x) => ?_) ?_; clear_value x; rotate_left; unfold x; clear x)
    | (lift_lets; intro x)
    | intro _
    | with_reducible apply keeps_ite
    | split)

theorem execModStuck_keeps {pd : Kept} (ch : Fin 16) (s : State) (hs : Keeps pd s) :
    KeepsO pd (execModStuck ch s) := by
  unfold execModStuck
  repeat' (first
    | with_reducible assumption
    | with_reducible exact keepsO_fault _
    | with_reducible refine keepsO_next ?_
    | intro _
    | simp only [↓keeps_mk]
    | with_reducible apply keeps_ite
    | with_reducible apply keepsO_ite)

theorem execModStuckClear_keeps {pd : Kept} (ch : Fin 16) (s : State) (hs : Keeps pd s) :
    KeepsO pd (execModStuckClear ch s) := by
  unfold execModStuckClear
  repeat' (first
    | with_reducible assumption
    | with_reducible exact keepsO_fault _
    | with_reducible refine keepsO_next ?_
    | intro _
    | simp only [↓keeps_mk])

theorem execMeasurementBlock_keeps {pd : Kept} (ch : Fin 16) (bs : List Bool) (s : State) (hs : Keeps pd s) :
    KeepsO pd (execMeasurementBlock ch bs s) := by
  unfold execMeasurementBlock
  repeat' (first
    | with_reducible assumption
    | with_reducible exact keepsO_fault _
    | with_reducible refine keepsO_next ?_
    | (with_reducible first | apply feedChannel_keeps | apply formBlock_keeps))

theorem execMixerFrame_keeps {pd : Kept} (bs : List (Fin 16 × List Bool)) (tdmi : List Word) (s : State) (hs : Keeps pd s) :
    KeepsO pd (execMixerFrame bs tdmi s) := by
  unfold execMixerFrame
  repeat' (first
    | with_reducible assumption
    | with_reducible exact keepsO_fault _
    | with_reducible refine keepsO_next ?_
    | (with_reducible first | apply feedChannel_keeps | apply mixFrame_keeps)
    | with_reducible refine keeps_foldl ?_ (fun _ _ _ => ?_)
    | intro _
    | with_reducible apply keeps_ite
    | with_reducible apply keepsO_ite)

end Sys2Proof.Machine
end

