-- ==== Sys2Proof/Laws/KeepsFlovis.lean ====
section
/-! SUPPORT. Every operation of Machine/Flovis.lean leaves the queue alone and keeps the memories canonical; one that writes no memory keeps every byte.
-/
namespace Sys2Proof.Machine

theorem netRecord_keeps {pd : Kept} (s : State) (sev : Nat) (code : BitVec 16) (pb : Bool) (port device arg0 slot : Nat) (hs : Keeps pd s) :
    Keeps pd (netRecord s sev code pb port device arg0 slot) := by
  unfold netRecord
  repeat' (first
    | with_reducible assumption
    | (with_reducible first | apply raiseHub_keeps)
    | ((try lift_lets); intro x; refine (fun (hx : Keeps pd x) => ?_) ?_; clear_value x; rotate_left; unfold x; clear x)
    | (lift_lets; intro x))

theorem nodeRecord_keeps {pd : Kept} (s : State) (sev : Nat) (code : BitVec 16) (pb : Bool) (arg0 slot : Nat) (hs : Keeps pd s) :
    Keeps pd (nodeRecord s sev code pb arg0 slot) := by
  unfold nodeRecord
  repeat' (first
    | with_reducible assumption
    | (with_reducible first | apply netRecord_keeps)
    | ((try lift_lets); intro x; refine (fun (hx : Keeps pd x) => ?_) ?_; clear_value x; rotate_left; unfold x; clear x)
    | (lift_lets; intro x)
    | intro _
    | simp only [↓keeps_mk]
    | with_reducible apply keeps_ite
    | split)

theorem setNode_keeps {pd : Kept} (s : State) (x : NodeState) (hs : Keeps pd s) :
    Keeps pd (setNode s x) := by
  unfold setNode
  repeat' (first
    | with_reducible assumption
    | (with_reducible first | apply modPlane_keeps | apply nodeRecord_keeps | apply setIrq_keeps)
    | ((try lift_lets); intro x; refine (fun (hx : Keeps pd x) => ?_) ?_; clear_value x; rotate_left; unfold x; clear x)
    | (lift_lets; intro x)
    | intro _
    | simp only [↓keeps_mk]
    | with_reducible apply keeps_ite
    | split)

theorem restartListen_keeps {pd : Kept} (s : State) (hs : Keeps pd s) :
    Keeps pd (restartListen s) := by
  unfold restartListen
  repeat' (first
    | with_reducible assumption
    | simp only [↓keeps_mk])

theorem enterListen_keeps {pd : Kept} (s : State) (hs : Keeps pd s) :
    Keeps pd (enterListen s) := by
  unfold enterListen
  repeat' (first
    | with_reducible assumption
    | (with_reducible first | apply setNode_keeps | apply restartListen_keeps))

theorem sendOn_keeps {pd : Kept} (s : State) (pb : Bool) (at_ : Int) (bs : List Byte) (hs : Keeps pd s) :
    Keeps pd (sendOn s pb at_ bs) := by
  unfold sendOn
  repeat' (first
    | with_reducible assumption
    | (with_reducible first | apply emit_keeps)
    | simp only [↓keeps_mk]
    | intro _
    | with_reducible apply keeps_ite
    | split)

theorem modEp_keeps {pd : Kept} (s : State) (ep : Nat) (f : Endpoint → Endpoint) (hs : Keeps pd s) :
    Keeps pd (modEp s ep f) := by
  unfold modEp
  repeat' (first
    | with_reducible assumption
    | intro _
    | simp only [↓keeps_mk]
    | with_reducible apply keeps_ite)

theorem entryContent_keeps {pd : Kept} (s : State) (x : TxEntry) (left : Nat) (hs : Keeps pd s) :
    Keeps pd (entryContent s x left).2.2 := by
  unfold entryContent
  repeat' (first
    | with_reducible assumption
    | (with_reducible first | apply formGroup_keeps | apply modFlow_keeps | apply modEp_keeps)
    | with_reducible refine keeps_foldl ?_ (fun _ _ _ => ?_)
    | ((try lift_lets); intro x; refine (fun (hx : Keeps pd x) => ?_) ?_; clear_value x; rotate_left; unfold x; clear x)
    | (lift_lets; intro x)
    | intro _
    | simp only [↓keeps_mk]
    | with_reducible apply keeps_ite
    | split)

theorem slotContent_keeps {pd : Kept} (s : State) (slot planes : Nat) (limit : Nat) (hs : Keeps pd s) :
    Keeps pd (slotContent s slot planes limit).2.2 := by
  unfold slotContent
  exact keeps_fold3 hs (fun x c h => entryContent_keeps _ _ _ h)

theorem claimNoted_keeps {pd : Kept} (s : State) (pb : Bool) (k : Int) (slot : Nat) (hs : Keeps pd s) :
    Keeps pd (claimNoted s pb k slot) := by
  unfold claimNoted
  repeat' (first
    | with_reducible assumption
    | ((try lift_lets); intro x; refine (fun (hx : Keeps pd x) => ?_) ?_; clear_value x; rotate_left; unfold x; clear x)
    | (lift_lets; intro x)
    | intro _
    | simp only [↓keeps_mk]
    | with_reducible apply keeps_ite
    | split)

theorem sendData_keeps {pd : Kept} (s : State) (slot : Nat) (hs : Keeps pd s) :
    Keeps pd (sendData s slot) := by
  unfold sendData
  repeat' (first
    | with_reducible assumption
    | (with_reducible first | apply sendOn_keeps | apply slotContent_keeps)
    | with_reducible refine keeps_foldl ?_ (fun _ _ _ => ?_)
    | ((try lift_lets); intro x; refine (fun (hx : Keeps pd x) => ?_) ?_; clear_value x; rotate_left; unfold x; clear x)
    | (lift_lets; intro x)
    | intro _
    | simp only [↓keeps_mk]
    | with_reducible apply keeps_ite
    | simp +zetaDelta only [↓keeps_mk]
    | split
    | (clear_value *; split)
    | (with_reducible refine keeps_pair1 (by assumption) ?_)
    | (with_reducible refine keeps_pair2 (by assumption) ?_)
    | (with_reducible refine keeps_pair3 (by assumption) ?_))

theorem sendReference_keeps {pd : Kept} (s : State) (pb : Bool) (b t : Int) (hs : Keeps pd s) :
    Keeps pd (sendReference s pb b t) := by
  unfold sendReference
  repeat' (first
    | with_reducible assumption
    | (with_reducible first | apply modPlane_keeps | apply sendOn_keeps)
    | ((try lift_lets); intro x; refine (fun (hx : Keeps pd x) => ?_) ?_; clear_value x; rotate_left; unfold x; clear x)
    | (lift_lets; intro x)
    | intro _
    | simp only [↓keeps_mk]
    | with_reducible apply keeps_ite
    | split)

theorem sendControl_keeps {pd : Kept} (s : State) (slot : Nat) (pb : Bool) (b : Int) (e : SchedEntry) (t : Int) (hs : Keeps pd s) :
    Keeps pd (sendControl s slot pb b e t) := by
  unfold sendControl
  repeat' (first
    | with_reducible assumption
    | (with_reducible first | apply claimNoted_keeps | apply drainPlane_keeps | apply sendOn_keeps | apply sendReference_keeps)
    | ((try lift_lets); intro x; refine (fun (hx : Keeps pd x) => ?_) ?_; clear_value x; rotate_left; unfold x; clear x)
    | (lift_lets; intro x)
    | intro _
    | simp only [↓keeps_mk]
    | with_reducible apply keeps_ite
    | split)

theorem transmitSlot_keeps {pd : Kept} (s : State) (slot : Nat) (hs : Keeps pd s) :
    Keeps pd (transmitSlot s slot) := by
  unfold transmitSlot
  repeat' (first
    | with_reducible assumption
    | (with_reducible first | apply sendControl_keeps | apply sendData_keeps)
    | with_reducible refine keeps_foldl ?_ (fun _ _ _ => ?_)
    | ((try lift_lets); intro x; refine (fun (hx : Keeps pd x) => ?_) ?_; clear_value x; rotate_left; unfold x; clear x)
    | (lift_lets; intro x)
    | intro _
    | simp only [↓keeps_mk]
    | with_reducible apply keeps_ite
    | split)

theorem renumber_keeps {pd : Kept} (s : State) (c : Schedule) (hs : Keeps pd s) :
    Keeps pd (renumber s c) := by
  unfold renumber
  repeat' (first
    | with_reducible assumption
    | (with_reducible first | apply modPlane_keeps)
    | ((try lift_lets); intro x; refine (fun (hx : Keeps pd x) => ?_) ?_; clear_value x; rotate_left; unfold x; clear x)
    | (lift_lets; intro x)
    | intro _
    | simp only [↓keeps_mk]
    | with_reducible apply keeps_ite
    | split)

theorem switchSchedule_keeps {pd : Kept} (s : State) (c : Schedule) (pb : Bool) (hs : Keeps pd s) :
    Keeps pd (switchSchedule s c pb) := by
  unfold switchSchedule
  repeat' (first
    | with_reducible assumption
    | (with_reducible first | apply nodeRecord_keeps | apply renumber_keeps)
    | ((try lift_lets); intro x; refine (fun (hx : Keeps pd x) => ?_) ?_; clear_value x; rotate_left; unfold x; clear x)
    | (lift_lets; intro x)
    | intro _
    | simp only [↓keeps_mk]
    | with_reducible apply keeps_ite
    | split)

theorem mismatch_keeps {pd : Kept} (s : State) (pb : Bool) (hs : Keeps pd s) :
    Keeps pd (mismatch s pb) := by
  unfold mismatch
  repeat' (first
    | with_reducible assumption
    | (with_reducible first | apply nodeRecord_keeps)
    | ((try lift_lets); intro x; refine (fun (hx : Keeps pd x) => ?_) ?_; clear_value x; rotate_left; unfold x; clear x)
    | (lift_lets; intro x)
    | intro _
    | simp only [↓keeps_mk]
    | with_reducible apply keeps_ite
    | split)

theorem foreignReference_keeps {pd : Kept} (s : State) (pb : Bool) (hs : Keeps pd s) :
    Keeps pd (foreignReference s pb) := by
  unfold foreignReference
  repeat' (first
    | with_reducible assumption
    | (with_reducible first | apply mismatch_keeps)
    | ((try lift_lets); intro x; refine (fun (hx : Keeps pd x) => ?_) ?_; clear_value x; rotate_left; unfold x; clear x)
    | (lift_lets; intro x)
    | intro _
    | simp only [↓keeps_mk]
    | with_reducible apply keeps_ite
    | split)

theorem enterSync_keeps {pd : Kept} (s : State) (hs : Keeps pd s) :
    Keeps pd (enterSync s) := by
  unfold enterSync
  repeat' (first
    | with_reducible assumption
    | (with_reducible first | apply setNode_keeps)
    | ((try lift_lets); intro x; refine (fun (hx : Keeps pd x) => ?_) ?_; clear_value x; rotate_left; unfold x; clear x)
    | (lift_lets; intro x)
    | intro _
    | simp only [↓keeps_mk]
    | with_reducible apply keeps_ite
    | split)

theorem referenceNode_keeps {pd : Kept} (s : State) (pb : Bool) (theta : Int) (consistent : Bool) (hs : Keeps pd s) :
    Keeps pd (referenceNode s pb theta consistent) := by
  unfold referenceNode
  repeat' (first
    | with_reducible assumption
    | (with_reducible first | apply enterListen_keeps | apply enterSync_keeps | apply nodeRecord_keeps | apply setNode_keeps)
    | ((try lift_lets); intro x; refine (fun (hx : Keeps pd x) => ?_) ?_; clear_value x; rotate_left; unfold x; clear x)
    | (lift_lets; intro x)
    | intro _
    | simp only [↓keeps_mk]
    | with_reducible apply keeps_ite
    | split)

theorem followReference_keeps {pd : Kept} (s : State) (pb : Bool) (bs : List Byte) (hs : Keeps pd s) :
    Keeps pd (followReference s pb bs) := by
  unfold followReference
  repeat' (first
    | with_reducible assumption
    | (with_reducible first | apply discipline_keeps | apply modPlane_keeps | apply referenceNode_keeps)
    | ((try lift_lets); intro x; refine (fun (hx : Keeps pd x) => ?_) ?_; clear_value x; rotate_left; unfold x; clear x)
    | (lift_lets; intro x)
    | intro _
    | simp only [↓keeps_mk]
    | with_reducible apply keeps_ite
    | split)

theorem receiveReference_keeps {pd : Kept} (s : State) (pb : Bool) (bs : List Byte) (hs : Keeps pd s) :
    Keeps pd (receiveReference s pb bs) := by
  unfold receiveReference
  repeat' (first
    | with_reducible assumption
    | (with_reducible first | apply followReference_keeps | apply foreignReference_keeps | apply switchSchedule_keeps)
    | ((try lift_lets); intro x; refine (fun (hx : Keeps pd x) => ?_) ?_; clear_value x; rotate_left; unfold x; clear x)
    | (lift_lets; intro x)
    | intro _
    | simp only [↓keeps_mk]
    | with_reducible apply keeps_ite
    | split)

theorem receiveColdstart_keeps {pd : Kept} (s : State) (bs : List Byte) (hs : Keeps pd s) :
    Keeps pd (receiveColdstart s bs) := by
  unfold receiveColdstart
  repeat' (first
    | with_reducible assumption
    | (with_reducible first | apply restartListen_keeps | apply enterListen_keeps)
    | simp only [↓keeps_mk]
    | intro _
    | with_reducible apply keeps_ite
    | split)

theorem listenExpiry_keeps {pd : Kept} (s : State) (hs : Keeps pd s) :
    Keeps pd (listenExpiry s) := by
  unfold listenExpiry
  repeat' (first
    | with_reducible assumption
    | (with_reducible first | apply setNode_keeps | apply sendOn_keeps)
    | with_reducible refine keeps_foldl ?_ (fun _ _ _ => ?_)
    | ((try lift_lets); intro x; refine (fun (hx : Keeps pd x) => ?_) ?_; clear_value x; rotate_left; unfold x; clear x)
    | (lift_lets; intro x)
    | intro _
    | simp only [↓keeps_mk]
    | with_reducible apply keeps_ite
    | split)

theorem contentionEnd_keeps {pd : Kept} (s : State) (hs : Keeps pd s) :
    Keeps pd (contentionEnd s) := by
  unfold contentionEnd
  repeat' (first
    | with_reducible assumption
    | (with_reducible first | apply sendReference_keeps | apply setNode_keeps)
    | with_reducible refine keeps_foldl ?_ (fun _ _ _ => ?_)
    | ((try lift_lets); intro x; refine (fun (hx : Keeps pd x) => ?_) ?_; clear_value x; rotate_left; unfold x; clear x)
    | (lift_lets; intro x)
    | intro _
    | simp only [↓keeps_mk]
    | with_reducible apply keeps_ite
    | split)

theorem referenceLoss_keeps {pd : Kept} (s : State) (p : Option Bool) (hs : Keeps pd s) :
    Keeps pd (referenceLoss s p) := by
  unfold referenceLoss
  repeat' (first
    | with_reducible assumption
    | (with_reducible first | apply enterListen_keeps | apply modPlane_keeps | apply nodeRecord_keeps | apply sourceLost_keeps)
    | ((try lift_lets); intro x; refine (fun (hx : Keeps pd x) => ?_) ?_; clear_value x; rotate_left; unfold x; clear x)
    | (lift_lets; intro x)
    | intro _
    | simp only [↓keeps_mk]
    | with_reducible apply keeps_ite
    | split)

theorem rankDeadline_keeps {pd : Kept} (s : State) (pb : Bool) (hs : Keeps pd s) :
    Keeps pd (rankDeadline s pb) := by
  unfold rankDeadline
  repeat' (first
    | with_reducible assumption
    | (with_reducible first | apply sendReference_keeps)
    | ((try lift_lets); intro x; refine (fun (hx : Keeps pd x) => ?_) ?_; clear_value x; rotate_left; unfold x; clear x)
    | (lift_lets; intro x)
    | intro _
    | simp only [↓keeps_mk]
    | with_reducible apply keeps_ite
    | split)

theorem modSluice_keeps {pd : Kept} (s : State) (n : Nat) (f : Sluice → Sluice) (hs : Keeps pd s) :
    Keeps pd (modSluice s n f) := by
  unfold modSluice
  repeat' (first
    | with_reducible assumption
    | simp only [↓keeps_mk])

theorem freeDesc_keeps {pd : Kept} (s : State) (id : Nat) (hs : Keeps pd s) :
    Keeps pd (freeDesc s id) := by
  unfold freeDesc
  repeat' (first
    | with_reducible assumption
    | intro _
    | simp only [↓keeps_mk])

theorem modDesc_keeps {pd : Kept} (s : State) (id : Nat) (f : Desc → Desc) (hs : Keeps pd s) :
    Keeps pd (modDesc s id f) := by
  unfold modDesc
  repeat' (first
    | with_reducible assumption
    | ((try lift_lets); intro x; refine (fun (hx : Keeps pd x) => ?_) ?_; clear_value x; rotate_left; unfold x; clear x)
    | (lift_lets; intro x)
    | intro _
    | simp only [↓keeps_mk]
    | with_reducible apply keeps_ite
    | split)

theorem copyOut_keeps {pd : Kept} (s : State) (d : Desc) (m lat : Nat) (hs : Keeps pd s) :
    Keeps pd (copyOut s d m lat) := by
  unfold copyOut
  repeat' (first
    | with_reducible assumption
    | (with_reducible first | apply emit_keeps)
    | ((try lift_lets); intro x; refine (fun (hx : Keeps pd x) => ?_) ?_; clear_value x; rotate_left; unfold x; clear x)
    | (lift_lets; intro x)
    | intro _
    | simp only [↓keeps_mk]
    | with_reducible apply keeps_ite
    | split)

theorem endCopies_keeps {pd : Kept} (s : State) (d : Desc) (t : Nat) (hs : Keeps pd s) :
    Keeps pd (endCopies s d t) := by
  unfold endCopies
  repeat' (first
    | with_reducible assumption
    | (with_reducible first | apply emit_keeps)
    | with_reducible refine keeps_foldl ?_ (fun _ _ _ => ?_)
    | ((try lift_lets); intro x; refine (fun (hx : Keeps pd x) => ?_) ?_; clear_value x; rotate_left; unfold x; clear x)
    | (lift_lets; intro x)
    | intro _
    | simp only [↓keeps_mk]
    | with_reducible apply keeps_ite
    | split)

theorem restoreRun_keeps {pd : Kept} (s : State) (d : Desc) (hs : Keeps pd s) :
    Keeps pd (restoreRun s d) := by
  unfold restoreRun
  repeat' (first
    | with_reducible assumption
    | (with_reducible first | apply modSluice_keeps)
    | ((try lift_lets); intro x; refine (fun (hx : Keeps pd x) => ?_) ?_; clear_value x; rotate_left; unfold x; clear x)
    | (lift_lets; intro x)
    | intro _
    | simp only [↓keeps_mk]
    | with_reducible apply keeps_ite
    | split)

theorem dropFrame_keeps {pd : Kept} (s : State) (d : Desc) (t reason : Nat) (hs : Keeps pd s) :
    Keeps pd (dropFrame s d t reason) := by
  unfold dropFrame
  repeat' (first
    | with_reducible assumption
    | (with_reducible first | apply endCopies_keeps | apply freeDesc_keeps | apply modSluice_keeps | apply netRecord_keeps | apply restoreRun_keeps)
    | ((try lift_lets); intro x; refine (fun (hx : Keeps pd x) => ?_) ?_; clear_value x; rotate_left; unfold x; clear x)
    | (lift_lets; intro x)
    | intro _
    | simp only [↓keeps_mk]
    | with_reducible apply keeps_ite
    | split)

theorem takeCells_keeps {pd : Kept} (k : Nat) (s : State) (hs : Keeps pd s) : Keeps pd (takeCells k s) := by
  induction k generalizing s with
  | zero => exact hs
  | succ k ih =>
    unfold takeCells
    split
    · exact ih _ (keeps_ite (fun _ => dropFrame_keeps _ _ _ _ hs) (fun _ => modDesc_keeps _ _ _ hs))
    · exact hs

theorem settle_keeps {pd : Kept} (s : State) (hs : Keeps pd s) :
    Keeps pd (settle s) := by
  unfold settle
  repeat' (first
    | with_reducible assumption
    | (with_reducible first | apply takeCells_keeps)
    | with_reducible refine keeps_foldl ?_ (fun _ _ _ => ?_)
    | ((try lift_lets); intro x; refine (fun (hx : Keeps pd x) => ?_) ?_; clear_value x; rotate_left; unfold x; clear x)
    | (lift_lets; intro x)
    | intro _
    | simp only [↓keeps_mk]
    | with_reducible apply keeps_ite
    | split)

theorem violate_keeps {pd : Kept} (s : State) (pb : Bool) (n kind device slot : Nat) (hs : Keeps pd s) :
    Keeps pd (violate s pb n kind device slot) := by
  unfold violate
  repeat' (first
    | with_reducible assumption
    | (with_reducible first | apply setIrq_keeps | apply netRecord_keeps | apply modSluice_keeps)
    | ((try lift_lets); intro x; refine (fun (hx : Keeps pd x) => ?_) ?_; clear_value x; rotate_left; unfold x; clear x)
    | (lift_lets; intro x)
    | intro _
    | simp only [↓keeps_mk]
    | with_reducible apply keeps_ite)

theorem clearRun_keeps {pd : Kept} (s : State) (n : Nat) (hs : Keeps pd s) :
    Keeps pd (clearRun s n) := by
  unfold clearRun
  repeat' (first
    | with_reducible assumption
    | (with_reducible first | apply modSluice_keeps)
    | ((try lift_lets); intro x; refine (fun (hx : Keeps pd x) => ?_) ?_; clear_value x; rotate_left; unfold x; clear x)
    | (lift_lets; intro x)
    | intro _
    | simp only [↓keeps_mk]
    | with_reducible apply keeps_ite
    | split)

theorem endQuarantine_keeps {pd : Kept} (s : State) (n : Nat) (hs : Keeps pd s) :
    Keeps pd (endQuarantine s n) := by
  unfold endQuarantine
  repeat' (first
    | with_reducible assumption
    | (with_reducible first | apply clearRun_keeps | apply modSluice_keeps)
    | ((try lift_lets); intro x; refine (fun (hx : Keeps pd x) => ?_) ?_; clear_value x; rotate_left; unfold x; clear x)
    | (lift_lets; intro x)
    | intro _
    | simp only [↓keeps_mk]
    | with_reducible apply keeps_ite
    | split)

theorem forward_keeps {pd : Kept} (s : State) (pb : Bool) (n : Nat) (egress : List Nat) (bs : List Byte) (queue : Bool) (ends : Option Nat) (hs : Keeps pd s) :
    Keeps pd (forward s pb n egress bs queue ends) := by
  unfold forward
  repeat' (first
    | with_reducible assumption
    | (with_reducible first | apply modSluice_keeps | apply netRecord_keeps)
    | ((try lift_lets); intro x; refine (fun (hx : Keeps pd x) => ?_) ?_; clear_value x; rotate_left; unfold x; clear x)
    | (lift_lets; intro x)
    | intro _
    | simp only [↓keeps_mk]
    | with_reducible apply keeps_ite
    | split)

theorem reject_keeps {pd : Kept} (s : State) (hs : Keeps pd s) :
    Keeps pd (reject s) := by
  unfold reject
  repeat' (first
    | with_reducible assumption
    | ((try lift_lets); intro x; refine (fun (hx : Keeps pd x) => ?_) ?_; clear_value x; rotate_left; unfold x; clear x)
    | (lift_lets; intro x)
    | intro _
    | simp only [↓keeps_mk]
    | with_reducible apply keeps_ite
    | split)

theorem sendDelayReq_keeps {pd : Kept} (s : State) (n : Nat) (hs : Keeps pd s) :
    Keeps pd (sendDelayReq s n) := by
  unfold sendDelayReq
  repeat' (first
    | with_reducible assumption
    | (with_reducible first | apply emit_keeps)
    | ((try lift_lets); intro x; refine (fun (hx : Keeps pd x) => ?_) ?_; clear_value x; rotate_left; unfold x; clear x)
    | (lift_lets; intro x)
    | intro _
    | simp only [↓keeps_mk]
    | with_reducible apply keeps_ite)

theorem takeDelayResp_keeps {pd : Kept} (s : State) (n : Nat) (bs : List Byte) (hs : Keeps pd s) :
    Keeps pd (takeDelayResp s n bs) := by
  unfold takeDelayResp
  repeat' (first
    | with_reducible assumption
    | (with_reducible first | apply reject_keeps)
    | ((try lift_lets); intro x; refine (fun (hx : Keeps pd x) => ?_) ?_; clear_value x; rotate_left; unfold x; clear x)
    | (lift_lets; intro x)
    | intro _
    | simp only [↓keeps_mk]
    | with_reducible apply keeps_ite
    | split)

theorem answerDelayReq_keeps {pd : Kept} (s : State) (n : Nat) (bs : List Byte) (hs : Keeps pd s) :
    Keeps pd (answerDelayReq s n bs) := by
  unfold answerDelayReq
  repeat' (first
    | with_reducible assumption
    | (with_reducible first | apply emit_keeps | apply reject_keeps)
    | ((try lift_lets); intro x; refine (fun (hx : Keeps pd x) => ?_) ?_; clear_value x; rotate_left; unfold x; clear x)
    | (lift_lets; intro x)
    | intro _
    | simp only [↓keeps_mk]
    | with_reducible apply keeps_ite
    | split)

theorem sendGrant_keeps {pd : Kept} (s : State) (pb : Bool) (b : Int) (n len : Nat) (hs : Keeps pd s) :
    Keeps pd (sendGrant s pb b n len) := by
  unfold sendGrant
  repeat' (first
    | with_reducible assumption
    | (with_reducible first | apply emit_keeps)
    | with_reducible refine keeps_foldl ?_ (fun _ _ _ => ?_)
    | ((try lift_lets); intro x; refine (fun (hx : Keeps pd x) => ?_) ?_; clear_value x; rotate_left; unfold x; clear x)
    | (lift_lets; intro x)
    | intro _
    | simp only [↓keeps_mk]
    | with_reducible apply keeps_ite
    | split)

theorem takeBack_keeps {pd : Kept} (s : State) (n : Nat) (hs : Keeps pd s) :
    Keeps pd (takeBack s n) := by
  unfold takeBack
  repeat' (first
    | with_reducible assumption
    | ((try lift_lets); intro x; refine (fun (hx : Keeps pd x) => ?_) ?_; clear_value x; rotate_left; unfold x; clear x)
    | (lift_lets; intro x)
    | intro _
    | simp only [↓keeps_mk]
    | with_reducible apply keeps_ite
    | split)

theorem ingressAlone_keeps {pd : Kept} (s : State) (pb : Bool) (n : Nat) (bs : List Byte) (hs : Keeps pd s) :
    Keeps pd (ingressAlone s pb n bs) := by
  unfold ingressAlone
  repeat' (first
    | with_reducible assumption
    | (with_reducible first | apply forward_keeps | apply modSluice_keeps | apply takeBack_keeps)
    | ((try lift_lets); intro x; refine (fun (hx : Keeps pd x) => ?_) ?_; clear_value x; rotate_left; unfold x; clear x)
    | (lift_lets; intro x)
    | intro _
    | simp only [↓keeps_mk]
    | with_reducible apply keeps_ite
    | split)

theorem bestEffort_keeps {pd : Kept} (s : State) (pb : Bool) (n : Nat) (bs : List Byte) (hs : Keeps pd s) :
    Keeps pd (bestEffort s pb n bs) := by
  unfold bestEffort
  repeat' (first
    | with_reducible assumption
    | (with_reducible first | apply forward_keeps | apply violate_keeps)
    | ((try lift_lets); intro x; refine (fun (hx : Keeps pd x) => ?_) ?_; clear_value x; rotate_left; unfold x; clear x)
    | (lift_lets; intro x)
    | simp only [↓keeps_mk]
    | intro _
    | with_reducible apply keeps_ite
    | split)

theorem claimIngress_keeps {pd : Kept} (s : State) (pb : Bool) (n : Nat) (bs : List Byte) (b : Int) (e : SchedEntry) (d : Int) (hs : Keeps pd s) :
    Keeps pd (claimIngress s pb n bs b e d) := by
  unfold claimIngress
  repeat' (first
    | with_reducible assumption
    | (with_reducible first | apply forward_keeps | apply modSluice_keeps | apply takeBack_keeps)
    | ((try lift_lets); intro x; refine (fun (hx : Keeps pd x) => ?_) ?_; clear_value x; rotate_left; unfold x; clear x)
    | (lift_lets; intro x)
    | simp only [↓keeps_mk]
    | intro _
    | with_reducible apply keeps_ite
    | split)

theorem sluiceJudge_keeps {pd : Kept} (s : State) (pb : Bool) (n : Nat) (bs : List Byte) (hs : Keeps pd s) :
    Keeps pd (sluiceJudge s pb n bs) := by
  unfold sluiceJudge
  repeat' (first
    | with_reducible assumption
    | (with_reducible first | apply bestEffort_keeps | apply claimIngress_keeps | apply forward_keeps | apply modSluice_keeps | apply sendGrant_keeps | apply violate_keeps)
    | ((try lift_lets); intro x; refine (fun (hx : Keeps pd x) => ?_) ?_; clear_value x; rotate_left; unfold x; clear x)
    | (lift_lets; intro x)
    | simp only [↓keeps_mk]
    | intro _
    | with_reducible apply keeps_ite
    | split)

theorem frameIngress_keeps {pd : Kept} (s : State) (n : Nat) (bs : List Byte) (hs : Keeps pd s) :
    Keeps pd (frameIngress s n bs) := by
  unfold frameIngress
  repeat' (first
    | with_reducible assumption
    | (with_reducible first | apply forward_keeps | apply ingressAlone_keeps | apply modSluice_keeps | apply settle_keeps | apply sluiceJudge_keeps)
    | ((try lift_lets); intro x; refine (fun (hx : Keeps pd x) => ?_) ?_; clear_value x; rotate_left; unfold x; clear x)
    | (lift_lets; intro x)
    | intro _
    | simp only [↓keeps_mk]
    | with_reducible apply keeps_ite
    | split)

theorem frameCut_keeps {pd : Kept} (s : State) (n : Nat) (slotEnd : Bool) (hs : Keeps pd s) :
    Keeps pd (frameCut s n slotEnd) := by
  unfold frameCut
  repeat' (first
    | with_reducible assumption
    | (with_reducible first | apply endCopies_keeps | apply freeDesc_keeps | apply modDesc_keeps | apply restoreRun_keeps | apply settle_keeps | apply violate_keeps)
    | ((try lift_lets); intro x; refine (fun (hx : Keeps pd x) => ?_) ?_; clear_value x; rotate_left; unfold x; clear x)
    | (lift_lets; intro x)
    | intro _
    | simp only [↓keeps_mk]
    | with_reducible apply keeps_ite
    | split)

theorem quarantineEnd_keeps {pd : Kept} (s : State) (n : Nat) (hs : Keeps pd s) :
    Keeps pd (quarantineEnd s n) := by
  unfold quarantineEnd
  repeat' (first
    | with_reducible assumption
    | (with_reducible first | apply endQuarantine_keeps)
    | ((try lift_lets); intro x; refine (fun (hx : Keeps pd x) => ?_) ?_; clear_value x; rotate_left; unfold x; clear x)
    | (lift_lets; intro x)
    | intro _
    | simp only [↓keeps_mk]
    | with_reducible apply keeps_ite
    | split)

theorem openAgeExpiry_keeps {pd : Kept} (s : State) (id : Nat) (hs : Keeps pd s) :
    Keeps pd (openAgeExpiry s id) := by
  unfold openAgeExpiry
  repeat' (first
    | with_reducible assumption
    | (with_reducible first | apply freeDesc_keeps | apply settle_keeps)
    | ((try lift_lets); intro x; refine (fun (hx : Keeps pd x) => ?_) ?_; clear_value x; rotate_left; unfold x; clear x)
    | (lift_lets; intro x)
    | intro _
    | simp only [↓keeps_mk]
    | with_reducible apply keeps_ite
    | split)

theorem lastCopy_keeps {pd : Kept} (s : State) (d : Desc) (hs : Keeps pd s) :
    Keeps pd (lastCopy s d) := by
  unfold lastCopy
  repeat' (first
    | with_reducible assumption
    | (with_reducible first | apply copyOut_keeps | apply freeDesc_keeps)
    | with_reducible refine keeps_foldl ?_ (fun _ _ _ => ?_)
    | ((try lift_lets); intro x; refine (fun (hx : Keeps pd x) => ?_) ?_; clear_value x; rotate_left; unfold x; clear x)
    | (lift_lets; intro x)
    | intro _
    | simp only [↓keeps_mk]
    | with_reducible apply keeps_ite
    | split)

theorem egressCopyLeft_keeps {pd : Kept} (s : State) (x : EgressEnd) (hs : Keeps pd s) :
    Keeps pd (egressCopyLeft s x) := by
  unfold egressCopyLeft
  repeat' (first
    | with_reducible assumption
    | (with_reducible first | apply dropFrame_keeps | apply lastCopy_keeps | apply settle_keeps)
    | ((try lift_lets); intro x; refine (fun (hx : Keeps pd x) => ?_) ?_; clear_value x; rotate_left; unfold x; clear x)
    | (lift_lets; intro x)
    | intro _
    | simp only [↓keeps_mk]
    | with_reducible apply keeps_ite
    | split)

theorem decideClaim_keeps {pd : Kept} (s : State) (n : Nat) (bs : List Byte) (hs : Keeps pd s) :
    Keeps pd (decideClaim s n bs) := by
  unfold decideClaim
  repeat' (first
    | with_reducible assumption
    | (with_reducible first | apply netRecord_keeps | apply reject_keeps)
    | ((try lift_lets); intro x; refine (fun (hx : Keeps pd x) => ?_) ?_; clear_value x; rotate_left; unfold x; clear x)
    | (lift_lets; intro x)
    | intro _
    | simp only [↓keeps_mk]
    | with_reducible apply keeps_ite
    | split)

theorem endSlotClaim_keeps {pd : Kept} (s : State) (hs : Keeps pd s) :
    Keeps pd (endSlotClaim s) := by
  unfold endSlotClaim
  repeat' (first
    | with_reducible assumption
    | (with_reducible first | apply finishMb_keeps | apply resultMb_keeps)
    | ((try lift_lets); intro x; refine (fun (hx : Keeps pd x) => ?_) ?_; clear_value x; rotate_left; unfold x; clear x)
    | (lift_lets; intro x)
    | intro _
    | simp only [↓keeps_mk]
    | with_reducible apply keeps_ite
    | split)

theorem followGrant_keeps {pd : Kept} (s : State) (pb : Bool) (bs : List Byte) (hs : Keeps pd s) :
    Keeps pd (followGrant s pb bs) := by
  unfold followGrant
  repeat' (first
    | with_reducible assumption
    | (with_reducible first | apply modPlane_keeps | apply endSlotClaim_keeps)
    | ((try lift_lets); intro x; refine (fun (hx : Keeps pd x) => ?_) ?_; clear_value x; rotate_left; unfold x; clear x)
    | (lift_lets; intro x)
    | intro _
    | simp only [↓keeps_mk]
    | with_reducible apply keeps_ite)

theorem receiveGrant_keeps {pd : Kept} (s : State) (pb : Bool) (bs : List Byte) (hs : Keeps pd s) :
    Keeps pd (receiveGrant s pb bs) := by
  unfold receiveGrant
  repeat' (first
    | with_reducible assumption
    | (with_reducible first | apply followGrant_keeps)
    | simp only [↓keeps_mk]
    | intro _
    | with_reducible apply keeps_ite)

theorem leaseLapse_keeps {pd : Kept} (s : State) (pb : Bool) (slot : Nat) (hs : Keeps pd s) :
    Keeps pd (leaseLapse s pb slot) := by
  unfold leaseLapse
  repeat' (first
    | with_reducible assumption
    | (with_reducible first | apply netRecord_keeps)
    | ((try lift_lets); intro x; refine (fun (hx : Keeps pd x) => ?_) ?_; clear_value x; rotate_left; unfold x; clear x)
    | (lift_lets; intro x)
    | intro _
    | simp only [↓keeps_mk]
    | with_reducible apply keeps_ite
    | split)

theorem revokeLeases_keeps {pd : Kept} (s : State) (n : Nat) (hs : Keeps pd s) :
    Keeps pd (revokeLeases s n) := by
  unfold revokeLeases
  repeat' (first
    | with_reducible assumption
    | (with_reducible first | apply netRecord_keeps)
    | with_reducible refine keeps_foldl ?_ (fun _ _ _ => ?_)
    | ((try lift_lets); intro x; refine (fun (hx : Keeps pd x) => ?_) ?_; clear_value x; rotate_left; unfold x; clear x)
    | (lift_lets; intro x)
    | intro _
    | simp only [↓keeps_mk])

theorem scheduleSwitch_keeps {pd : Kept} (s : State) (hs : Keeps pd s) :
    Keeps pd (scheduleSwitch s) := by
  unfold scheduleSwitch
  repeat' (first
    | with_reducible assumption
    | (with_reducible first | apply enterListen_keeps | apply mismatch_keeps | apply switchSchedule_keeps)
    | ((try lift_lets); intro x; refine (fun (hx : Keeps pd x) => ?_) ?_; clear_value x; rotate_left; unfold x; clear x)
    | (lift_lets; intro x)
    | intro _
    | simp only [↓keeps_mk]
    | with_reducible apply keeps_ite
    | split)

theorem adoptSchedule_keeps {pd : Kept} (s : State) (hs : Keeps pd s) :
    Keeps pd (adoptSchedule s) := by
  unfold adoptSchedule
  repeat' (first
    | with_reducible assumption
    | ((try lift_lets); intro x; refine (fun (hx : Keeps pd x) => ?_) ?_; clear_value x; rotate_left; unfold x; clear x)
    | (lift_lets; intro x)
    | simp only [↓keeps_mk]
    | intro _
    | with_reducible apply keeps_ite)

theorem execFlovisFrameIngress_keeps {pd : Kept} (port : Fin 9) (bytes : List Byte) (s : State) (hs : Keeps pd s) :
    KeepsO pd (execFlovisFrameIngress port bytes s) := by
  unfold execFlovisFrameIngress
  repeat' (first
    | with_reducible assumption
    | with_reducible exact keepsO_fault _
    | with_reducible refine keepsO_next ?_
    | (with_reducible first | apply frameIngress_keeps))

theorem execFrameCut_keeps {pd : Kept} (port : Fin 9) (slotEnd : Bool) (s : State) (hs : Keeps pd s) :
    KeepsO pd (execFrameCut port slotEnd s) := by
  unfold execFrameCut
  repeat' (first
    | with_reducible assumption
    | with_reducible exact keepsO_fault _
    | with_reducible refine keepsO_next ?_
    | (with_reducible first | apply frameCut_keeps))

theorem execQuarantineEnd_keeps {pd : Kept} (port : Fin 9) (s : State) (hs : Keeps pd s) :
    KeepsO pd (execQuarantineEnd port s) := by
  unfold execQuarantineEnd
  repeat' (first
    | with_reducible assumption
    | with_reducible exact keepsO_fault _
    | with_reducible refine keepsO_next ?_
    | (with_reducible first | apply quarantineEnd_keeps))

theorem execReferenceReceive_keeps {pd : Kept} (p : Plane) (bytes : List Byte) (s : State) (hs : Keeps pd s) :
    KeepsO pd (execReferenceReceive p bytes s) := by
  unfold execReferenceReceive
  repeat' (first
    | with_reducible assumption
    | with_reducible exact keepsO_fault _
    | with_reducible refine keepsO_next ?_
    | (with_reducible first | apply axisIrq_keeps | apply receiveReference_keeps))

theorem execColdstartReceive_keeps {pd : Kept} (p : Plane) (bytes : List Byte) (s : State) (hs : Keeps pd s) :
    KeepsO pd (execColdstartReceive p bytes s) := by
  unfold execColdstartReceive
  repeat' (first
    | with_reducible assumption
    | with_reducible exact keepsO_fault _
    | with_reducible refine keepsO_next ?_
    | (with_reducible first | apply receiveColdstart_keeps)
    | intro _
    | with_reducible apply keeps_ite
    | with_reducible apply keepsO_ite)

theorem execListenTimerExpiry_keeps {pd : Kept} (s : State) (hs : Keeps pd s) :
    KeepsO pd (execListenTimerExpiry s) := by
  unfold execListenTimerExpiry
  repeat' (first
    | with_reducible assumption
    | with_reducible exact keepsO_fault _
    | with_reducible refine keepsO_next ?_
    | (with_reducible first | apply listenExpiry_keeps))

theorem execContentionEnd_keeps {pd : Kept} (s : State) (hs : Keeps pd s) :
    KeepsO pd (execContentionEnd s) := by
  unfold execContentionEnd
  repeat' (first
    | with_reducible assumption
    | with_reducible exact keepsO_fault _
    | with_reducible refine keepsO_next ?_
    | (with_reducible first | apply contentionEnd_keeps))

theorem execReferenceLoss_keeps {pd : Kept} (p : Option Plane) (s : State) (hs : Keeps pd s) :
    KeepsO pd (execReferenceLoss p s) := by
  unfold execReferenceLoss
  repeat' (first
    | with_reducible assumption
    | with_reducible exact keepsO_fault _
    | with_reducible refine keepsO_next ?_
    | (with_reducible first | apply referenceLoss_keeps))

theorem execSlotTransmit_keeps {pd : Kept} (slot : Nat) (s : State) (hs : Keeps pd s) :
    KeepsO pd (execSlotTransmit slot s) := by
  unfold execSlotTransmit
  repeat' (first
    | with_reducible assumption
    | with_reducible exact keepsO_fault _
    | with_reducible refine keepsO_next ?_
    | (with_reducible first | apply transmitSlot_keeps))

theorem execRankDeadline_keeps {pd : Kept} (p : Plane) (s : State) (hs : Keeps pd s) :
    KeepsO pd (execRankDeadline p s) := by
  unfold execRankDeadline
  repeat' (first
    | with_reducible assumption
    | with_reducible exact keepsO_fault _
    | with_reducible refine keepsO_next ?_
    | (with_reducible first | apply rankDeadline_keeps))

theorem execDelayReq_keeps {pd : Kept} (port : Fin 9) (s : State) (hs : Keeps pd s) :
    KeepsO pd (execDelayReq port s) := by
  unfold execDelayReq
  repeat' (first
    | with_reducible assumption
    | with_reducible exact keepsO_fault _
    | with_reducible refine keepsO_next ?_
    | (with_reducible first | apply sendDelayReq_keeps))

theorem execDelayResp_keeps {pd : Kept} (port : Fin 9) (bytes : List Byte) (s : State) (hs : Keeps pd s) :
    KeepsO pd (execDelayResp port bytes s) := by
  unfold execDelayResp
  repeat' (first
    | with_reducible assumption
    | with_reducible exact keepsO_fault _
    | with_reducible refine keepsO_next ?_
    | (with_reducible first | apply takeDelayResp_keeps))

theorem execDelayReqReceive_keeps {pd : Kept} (port : Fin 9) (bytes : List Byte) (s : State) (hs : Keeps pd s) :
    KeepsO pd (execDelayReqReceive port bytes s) := by
  unfold execDelayReqReceive
  repeat' (first
    | with_reducible assumption
    | with_reducible exact keepsO_fault _
    | with_reducible refine keepsO_next ?_
    | (with_reducible first | apply answerDelayReq_keeps)
    | ((try lift_lets); intro x; refine (fun (hx : Keeps pd x) => ?_) ?_; clear_value x; rotate_left; unfold x; clear x)
    | (lift_lets; intro x)
    | intro _
    | simp only [↓keeps_mk]
    | with_reducible apply keeps_ite
    | with_reducible apply keepsO_ite
    | split)

theorem execClaim_keeps {pd : Kept} (port : Fin 9) (bytes : List Byte) (s : State) (hs : Keeps pd s) :
    KeepsO pd (execClaim port bytes s) := by
  unfold execClaim
  repeat' (first
    | with_reducible assumption
    | with_reducible exact keepsO_fault _
    | with_reducible refine keepsO_next ?_
    | (with_reducible first | apply decideClaim_keeps))

theorem execGrant_keeps {pd : Kept} (p : Plane) (bytes : List Byte) (s : State) (hs : Keeps pd s) :
    KeepsO pd (execGrant p bytes s) := by
  unfold execGrant
  repeat' (first
    | with_reducible assumption
    | with_reducible exact keepsO_fault _
    | with_reducible refine keepsO_next ?_
    | (with_reducible first | apply receiveGrant_keeps))

theorem execLeaseLapse_keeps {pd : Kept} (p : Plane) (slot : Nat) (s : State) (hs : Keeps pd s) :
    KeepsO pd (execLeaseLapse p slot s) := by
  unfold execLeaseLapse
  repeat' (first
    | with_reducible assumption
    | with_reducible exact keepsO_fault _
    | with_reducible refine keepsO_next ?_
    | (with_reducible first | apply leaseLapse_keeps))

theorem execScheduleSwitch_keeps {pd : Kept} (s : State) (hs : Keeps pd s) :
    KeepsO pd (execScheduleSwitch s) := by
  unfold execScheduleSwitch
  repeat' (first
    | with_reducible assumption
    | with_reducible exact keepsO_fault _
    | with_reducible refine keepsO_next ?_
    | (with_reducible first | apply scheduleSwitch_keeps))

theorem execOpenAgeExpiry_keeps {pd : Kept} (desc : Nat) (s : State) (hs : Keeps pd s) :
    KeepsO pd (execOpenAgeExpiry desc s) := by
  unfold execOpenAgeExpiry
  repeat' (first
    | with_reducible assumption
    | with_reducible exact keepsO_fault _
    | with_reducible refine keepsO_next ?_
    | (with_reducible first | apply openAgeExpiry_keeps))

theorem execEgressCopyLeft_keeps {pd : Kept} (e : EgressEnd) (s : State) (hs : Keeps pd s) :
    KeepsO pd (execEgressCopyLeft e s) := by
  unfold execEgressCopyLeft
  repeat' (first
    | with_reducible assumption
    | with_reducible exact keepsO_fault _
    | with_reducible refine keepsO_next ?_
    | (with_reducible first | apply egressCopyLeft_keeps)
    | ((try lift_lets); intro x; refine (fun (hx : Keeps pd x) => ?_) ?_; clear_value x; rotate_left; unfold x; clear x)
    | (lift_lets; intro x)
    | intro _
    | simp only [↓keeps_mk]
    | with_reducible apply keeps_ite
    | with_reducible apply keepsO_ite
    | split)

end Sys2Proof.Machine
end

