-- ==== Sys2Proof/Laws/KeepsField.lean ====
section
/-! SUPPORT. Every operation of Machine/Field.lean leaves the queue alone and keeps the memories canonical; one that writes no memory keeps every byte.
-/
namespace Sys2Proof.Machine

theorem modCh_keeps {pd : Kept} (s : State) (ch : Nat) (f : ChSt → ChSt) (hs : Keeps pd s) :
    Keeps pd (modCh s ch f) := by
  unfold modCh
  repeat' (first
    | with_reducible assumption
    | simp only [↓keeps_mk])

theorem modGrp_keeps {pd : Kept} (s : State) (g : Grp) (f : GrpSt → GrpSt) (hs : Keeps pd s) :
    Keeps pd (modGrp s g f) := by
  unfold modGrp
  repeat' (first
    | with_reducible assumption
    | simp only [↓keeps_mk]
    | split)

theorem diagChange_keeps {pd : Kept} (s : State) (ch : Nat) (hs : Keeps pd s) :
    Keeps pd (diagChange s ch) := by
  unfold diagChange
  repeat' (first
    | with_reducible assumption
    | simp only [↓keeps_mk]
    | intro _
    | with_reducible apply keeps_ite)

theorem endTest_keeps {pd : Kept} (s : State) (ch : Nat) (verdict : Option Bool) (answer : State → Mb → Nat → State) (hs : Keeps pd s) (hanswer : ∀ a0 a1 a2, Keeps pd a0 → Keeps pd (answer a0 a1 a2)) :
    Keeps pd (endTest s ch verdict answer) := by
  unfold endTest
  repeat' (first
    | with_reducible assumption
    | (with_reducible first | apply modCh_keeps | apply diagChange_keeps)
    | with_reducible apply hanswer
    | ((try lift_lets); intro x; refine (fun (hx : Keeps pd x) => ?_) ?_; clear_value x; rotate_left; unfold x; clear x)
    | (lift_lets; intro x)
    | intro _
    | simp only [↓keeps_mk]
    | with_reducible apply keeps_ite
    | split)

theorem answerChTest_keeps {pd : Kept} (s : State) (mb : Mb) (v : Nat) (hs : Keeps pd s) :
    Keeps pd (answerChTest s mb v) := by
  unfold answerChTest
  repeat' (first
    | with_reducible assumption
    | (with_reducible first | apply finishMb_keeps))

theorem clearOpen_keeps {pd : Kept} (s : State) (ch mv ma : Nat) (hs : Keeps pd s) :
    Keeps pd (clearOpen s ch mv ma) := by
  unfold clearOpen
  repeat' (first
    | with_reducible assumption
    | (with_reducible first | apply diagChange_keeps | apply modCh_keeps)
    | ((try lift_lets); intro x; refine (fun (hx : Keeps pd x) => ?_) ?_; clear_value x; rotate_left; unfold x; clear x)
    | (lift_lets; intro x)
    | intro _
    | simp only [↓keeps_mk]
    | with_reducible apply keeps_ite
    | split)

theorem countHeld_keeps {pd : Kept} (s : State) (ch : Nat) (hs : Keeps pd s) :
    Keeps pd (countHeld s ch) := by
  unfold countHeld
  repeat' (first
    | with_reducible assumption
    | (with_reducible first | apply modCh_keeps)
    | ((try lift_lets); intro x; refine (fun (hx : Keeps pd x) => ?_) ?_; clear_value x; rotate_left; unfold x; clear x)
    | (lift_lets; intro x)
    | intro _
    | simp only [↓keeps_mk]
    | with_reducible apply keeps_ite
    | split)

theorem strobe_keeps {pd : Kept} (s : State) (mv ma : List Nat) (hs : Keeps pd s) :
    Keeps pd (strobe s mv ma) := by
  unfold strobe
  repeat' (first
    | with_reducible assumption
    | (with_reducible first | apply answerChTest_keeps | apply clearOpen_keeps | apply countHeld_keeps | apply diagChange_keeps | apply endTest_keeps)
    | with_reducible refine keeps_foldl ?_ (fun _ _ _ => ?_)
    | ((try lift_lets); intro x; refine (fun (hx : Keeps pd x) => ?_) ?_; clear_value x; rotate_left; unfold x; clear x)
    | (lift_lets; intro x)
    | intro _
    | simp only [↓keeps_mk]
    | with_reducible apply keeps_ite
    | (with_reducible refine keeps_pair1 (by assumption) ?_)
    | (with_reducible refine keeps_pair2 (by assumption) ?_)
    | (with_reducible refine keeps_pair3 (by assumption) ?_)
    | split)

theorem voteChannel_keeps {pd : Kept} (s : State) (ch : Nat) (hs : Keeps pd s) :
    Keeps pd (voteChannel s ch) := by
  unfold voteChannel
  repeat' (first
    | with_reducible assumption
    | (with_reducible first | apply modCh_keeps | apply endTest_keeps <;> (try intro _ _ _) | apply answerChTest_keeps)
    | ((try lift_lets); intro x; refine (fun (hx : Keeps pd x) => ?_) ?_; clear_value x; rotate_left; unfold x; clear x)
    | (lift_lets; intro x)
    | intro _
    | simp only [↓keeps_mk]
    | with_reducible apply keeps_ite)

theorem voteAll_keeps {pd : Kept} (s : State) (hs : Keeps pd s) :
    Keeps pd (voteAll s) := by
  unfold voteAll
  repeat' (first
    | with_reducible assumption
    | (with_reducible first | apply modGrp_keeps | apply voteChannel_keeps)
    | with_reducible refine keeps_foldl ?_ (fun _ _ _ => ?_)
    | ((try lift_lets); intro x; refine (fun (hx : Keeps pd x) => ?_) ?_; clear_value x; rotate_left; unfold x; clear x)
    | (lift_lets; intro x)
    | intro _
    | simp only [↓keeps_mk]
    | with_reducible apply keeps_ite)

theorem startTests_keeps {pd : Kept} (s : State) (hs : Keeps pd s) :
    Keeps pd (startTests s) := by
  unfold startTests
  repeat' (first
    | with_reducible assumption
    | (with_reducible first | apply modCh_keeps)
    | with_reducible refine keeps_foldl ?_ (fun _ _ _ => ?_)
    | ((try lift_lets); intro x; refine (fun (hx : Keeps pd x) => ?_) ?_; clear_value x; rotate_left; unfold x; clear x)
    | (lift_lets; intro x)
    | intro _
    | simp only [↓keeps_mk]
    | with_reducible apply keeps_ite)

theorem settleChTests_keeps {pd : Kept} (s : State) (hs : Keeps pd s) :
    Keeps pd (settleChTests s) := by
  unfold settleChTests
  repeat' (first
    | with_reducible assumption
    | (with_reducible first | apply answerChTest_keeps | apply endTest_keeps)
    | with_reducible refine keeps_foldl ?_ (fun _ _ _ => ?_)
    | ((try lift_lets); intro x; refine (fun (hx : Keeps pd x) => ?_) ?_; clear_value x; rotate_left; unfold x; clear x)
    | (lift_lets; intro x)
    | intro _
    | simp only [↓keeps_mk]
    | with_reducible apply keeps_ite
    | split)

theorem sendDrive_keeps {pd : Kept} (s : State) (l : Lane) (hs : Keeps pd s) :
    Keeps pd (sendDrive s l) := by
  unfold sendDrive
  repeat' (first
    | with_reducible assumption
    | (with_reducible first | apply modLane_keeps)
    | ((try lift_lets); intro x; refine (fun (hx : Keeps pd x) => ?_) ?_; clear_value x; rotate_left; unfold x; clear x)
    | (lift_lets; intro x)
    | intro _
    | simp only [↓keeps_mk])

theorem setLink_keeps {pd : Kept} (s : State) (l : Lane) (k : DriveLink) (hs : Keeps pd s) :
    Keeps pd (setLink s l k) := by
  unfold setLink
  repeat' (first
    | with_reducible assumption
    | simp only [↓keeps_mk])

theorem takeDrive_keeps {pd : Kept} (s : State) (l : Lane) (good : Bool) (hs : Keeps pd s) :
    Keeps pd (takeDrive s l good) := by
  unfold takeDrive
  repeat' (first
    | with_reducible assumption
    | (with_reducible first | apply diagChange_keeps | apply setLink_keeps | apply settleChTests_keeps | apply startTests_keeps | apply voteAll_keeps)
    | with_reducible refine keeps_foldl ?_ (fun _ _ _ => ?_)
    | ((try lift_lets); intro x; refine (fun (hx : Keeps pd x) => ?_) ?_; clear_value x; rotate_left; unfold x; clear x)
    | (lift_lets; intro x)
    | intro _
    | simp only [↓keeps_mk]
    | with_reducible apply keeps_ite
    | split)

theorem lockoutReport_keeps {pd : Kept} (s : State) (l : Lane) (smp : SampleSet) (hs : Keeps pd s) :
    Keeps pd (lockoutReport s l smp) := by
  unfold lockoutReport
  repeat' (first
    | with_reducible assumption
    | (with_reducible first | apply modLane_keeps | apply raiseHub_keeps)
    | ((try lift_lets); intro x; refine (fun (hx : Keeps pd x) => ?_) ?_; clear_value x; rotate_left; unfold x; clear x)
    | (lift_lets; intro x)
    | intro _
    | simp only [↓keeps_mk]
    | with_reducible apply keeps_ite)

theorem takeSample_keeps {pd : Kept} (s : State) (l : Lane) (good : Bool) (hs : Keeps pd s) :
    Keeps pd (takeSample s l good) := by
  unfold takeSample
  repeat' (first
    | with_reducible assumption
    | (with_reducible first | apply modLane_keeps | apply setLink_keeps | apply lockoutReport_keeps)
    | ((try lift_lets); intro x; refine (fun (hx : Keeps pd x) => ?_) ?_; clear_value x; rotate_left; unfold x; clear x)
    | (lift_lets; intro x)
    | intro _
    | simp only
    | with_reducible apply keeps_ite
    | split)

theorem abandonTests_keeps {pd : Kept} (s : State) (chs : List Nat) (hs : Keeps pd s) :
    Keeps pd (abandonTests s chs) := by
  unfold abandonTests
  repeat' (first
    | with_reducible assumption
    | (with_reducible first | apply answerChTest_keeps | apply endTest_keeps | apply settleChTests_keeps)
    | with_reducible refine keeps_foldl ?_ (fun _ _ _ => ?_)
    | ((try lift_lets); intro x; refine (fun (hx : Keeps pd x) => ?_) ?_; clear_value x; rotate_left; unfold x; clear x)
    | (lift_lets; intro x)
    | intro _
    | simp only [↓keeps_mk]
    | with_reducible apply keeps_ite
    | split)

theorem abandonGsw_keeps {pd : Kept} (s : State) (g : Grp) (hs : Keeps pd s) :
    Keeps pd (abandonGsw s g) := by
  unfold abandonGsw
  repeat' (first
    | with_reducible assumption
    | (with_reducible first | apply modGrp_keeps)
    | ((try lift_lets); intro x; refine (fun (hx : Keeps pd x) => ?_) ?_; clear_value x; rotate_left; unfold x; clear x)
    | (lift_lets; intro x)
    | intro _
    | simp only [↓keeps_mk]
    | with_reducible apply keeps_ite
    | split)

theorem raiseChannel_keeps {pd : Kept} (s : State) (sev : Nat) (code : BitVec 16) (ch : Nat) (arg0 : Nat := 0) (hs : Keeps pd s) :
    Keeps pd (raiseChannel s sev code ch arg0) := by
  unfold raiseChannel
  repeat' (first
    | with_reducible assumption
    | (with_reducible first | apply raiseHub_keeps)
    | ((try lift_lets); intro x; refine (fun (hx : Keeps pd x) => ?_) ?_; clear_value x; rotate_left; unfold x; clear x)
    | (lift_lets; intro x)
    | intro _
    | simp only [↓keeps_mk]
    | with_reducible apply keeps_ite
    | split)

theorem tripOutput_keeps {pd : Kept} (s : State) (ch : Nat) (temp limit : Bool) (hs : Keeps pd s) :
    Keeps pd (tripOutput s ch temp limit) := by
  unfold tripOutput
  repeat' (first
    | with_reducible assumption
    | (with_reducible first | apply abandonTests_keeps | apply diagChange_keeps | apply modCh_keeps | apply raiseChannel_keeps)
    | ((try lift_lets); intro x; refine (fun (hx : Keeps pd x) => ?_) ?_; clear_value x; rotate_left; unfold x; clear x)
    | (lift_lets; intro x)
    | intro _
    | simp only [↓keeps_mk]
    | with_reducible apply keeps_ite
    | split)

theorem fieldSelftest_keeps {pd : Kept} (s : State) (bad : BitVec 32) (badA badB : Bool) (hs : Keeps pd s) :
    Keeps pd (fieldSelftest s bad badA badB) := by
  unfold fieldSelftest
  repeat' (first
    | with_reducible assumption
    | (with_reducible first | apply modLanes_keeps | apply raiseHub_keeps)
    | with_reducible refine keeps_foldl ?_ (fun _ _ _ => ?_)
    | ((try lift_lets); intro x; refine (fun (hx : Keeps pd x) => ?_) ?_; clear_value x; rotate_left; unfold x; clear x)
    | (lift_lets; intro x)
    | intro _
    | simp only [↓keeps_mk]
    | with_reducible apply keeps_ite)

theorem keepDrive_keeps {pd : Kept} (s : State) (l : Lane) (cmds : List (Nat × Word)) (isOpen : Bool) (hs : Keeps pd s) :
    Keeps pd (keepDrive s l cmds isOpen) := by
  unfold keepDrive
  repeat' (first
    | with_reducible assumption
    | (with_reducible first | apply modLane_keeps)
    | with_reducible refine keeps_foldl ?_ (fun _ _ _ => ?_)
    | intro _
    | simp only [↓keeps_mk])

theorem execSampleStrobe_keeps {pd : Kept} (mv ma : List Nat) (s : State) (hs : Keeps pd s) :
    KeepsO pd (execSampleStrobe mv ma s) := by
  unfold execSampleStrobe
  repeat' (first
    | with_reducible assumption
    | with_reducible exact keepsO_fault _
    | with_reducible refine keepsO_next ?_
    | (with_reducible first | apply strobe_keeps)
    | intro _
    | with_reducible apply keeps_ite
    | with_reducible apply keepsO_ite)

theorem execStuck_keeps {pd : Kept} (ch : Fin 32) (s : State) (hs : Keeps pd s) :
    KeepsO pd (execStuck ch s) := by
  unfold execStuck
  repeat' (first
    | with_reducible assumption
    | with_reducible exact keepsO_fault _
    | with_reducible refine keepsO_next ?_
    | (with_reducible first | apply modCh_keeps | apply diagChange_keeps)
    | ((try lift_lets); intro x; refine (fun (hx : Keeps pd x) => ?_) ?_; clear_value x; rotate_left; unfold x; clear x)
    | (lift_lets; intro x)
    | intro _
    | simp only [↓keeps_mk]
    | with_reducible apply keeps_ite
    | with_reducible apply keepsO_ite)

theorem execDriveFrameSend_keeps {pd : Kept} (l : Lane) (s : State) (hs : Keeps pd s) :
    KeepsO pd (execDriveFrameSend l s) := by
  unfold execDriveFrameSend
  repeat' (first
    | with_reducible assumption
    | with_reducible exact keepsO_fault _
    | with_reducible refine keepsO_next ?_
    | (with_reducible first | apply sendDrive_keeps)
    | intro _
    | with_reducible apply keeps_ite
    | with_reducible apply keepsO_ite)

theorem execDriveFrameReceive_keeps {pd : Kept} (l : Lane) (good : Bool) (s : State) (hs : Keeps pd s) :
    KeepsO pd (execDriveFrameReceive l good s) := by
  unfold execDriveFrameReceive
  repeat' (first
    | with_reducible assumption
    | with_reducible exact keepsO_fault _
    | with_reducible refine keepsO_next ?_
    | (with_reducible first | apply takeDrive_keeps)
    | intro _
    | with_reducible apply keeps_ite
    | with_reducible apply keepsO_ite)

theorem execDriveLinkTimeout_keeps {pd : Kept} (l : Lane) (s : State) (hs : Keeps pd s) :
    KeepsO pd (execDriveLinkTimeout l s) := by
  unfold execDriveLinkTimeout
  repeat' (first
    | with_reducible assumption
    | with_reducible exact keepsO_fault _
    | with_reducible refine keepsO_next ?_
    | (with_reducible first | apply settleChTests_keeps | apply voteAll_keeps)
    | ((try lift_lets); intro x; refine (fun (hx : Keeps pd x) => ?_) ?_; clear_value x; rotate_left; unfold x; clear x)
    | (lift_lets; intro x)
    | intro _
    | simp only [↓keeps_mk]
    | with_reducible apply keeps_ite
    | with_reducible apply keepsO_ite
    | split)

theorem execDisagree_keeps {pd : Kept} (ch : Fin 32) (times : DisagreeTimes) (s : State) (hs : Keeps pd s) :
    KeepsO pd (execDisagree ch times s) := by
  unfold execDisagree
  repeat' (first
    | with_reducible assumption
    | with_reducible exact keepsO_fault _
    | with_reducible refine keepsO_next ?_
    | (with_reducible first | apply diagChange_keeps | apply modCh_keeps | apply raiseHub_keeps)
    | ((try lift_lets); intro x; refine (fun (hx : Keeps pd x) => ?_) ?_; clear_value x; rotate_left; unfold x; clear x)
    | (lift_lets; intro x)
    | intro _
    | simp only [↓keeps_mk]
    | with_reducible apply keeps_ite
    | with_reducible apply keepsO_ite
    | split)

theorem execSupplyFault_keeps {pd : Kept} (g : Grp) (s : State) (hs : Keeps pd s) :
    KeepsO pd (execSupplyFault g s) := by
  unfold execSupplyFault
  repeat' (first
    | with_reducible assumption
    | with_reducible exact keepsO_fault _
    | with_reducible refine keepsO_next ?_
    | (with_reducible first | apply abandonGsw_keeps | apply abandonTests_keeps | apply diagChange_keeps | apply modGrp_keeps)
    | with_reducible refine keeps_foldl ?_ (fun _ _ _ => ?_)
    | ((try lift_lets); intro x; refine (fun (hx : Keeps pd x) => ?_) ?_; clear_value x; rotate_left; unfold x; clear x)
    | (lift_lets; intro x)
    | intro _
    | simp only [↓keeps_mk]
    | with_reducible apply keeps_ite
    | with_reducible apply keepsO_ite
    | split)

theorem execSupplyGood_keeps {pd : Kept} (g : Grp) (s : State) (hs : Keeps pd s) :
    KeepsO pd (execSupplyGood g s) := by
  unfold execSupplyGood
  repeat' (first
    | with_reducible assumption
    | with_reducible exact keepsO_fault _
    | with_reducible refine keepsO_next ?_
    | (with_reducible first | apply modGrp_keeps | apply diagChange_keeps)
    | with_reducible refine keeps_foldl ?_ (fun _ _ _ => ?_)
    | intro _
    | simp only [↓keeps_mk]
    | with_reducible apply keeps_ite
    | with_reducible apply keepsO_ite)

theorem execGroupOverload_keeps {pd : Kept} (g : Grp) (s : State) (hs : Keeps pd s) :
    KeepsO pd (execGroupOverload g s) := by
  unfold execGroupOverload
  repeat' (first
    | with_reducible assumption
    | with_reducible exact keepsO_fault _
    | with_reducible refine keepsO_next ?_
    | (with_reducible first | apply tripOutput_keeps)
    | with_reducible refine keeps_foldl ?_ (fun _ _ _ => ?_)
    | intro _
    | with_reducible apply keeps_ite
    | with_reducible apply keepsO_ite)

theorem execOverload_keeps {pd : Kept} (ch : Fin 32) (limit : Bool) (s : State) (hs : Keeps pd s) :
    KeepsO pd (execOverload ch limit s) := by
  unfold execOverload
  repeat' (first
    | with_reducible assumption
    | with_reducible exact keepsO_fault _
    | with_reducible refine keepsO_next ?_
    | (with_reducible first | apply tripOutput_keeps)
    | intro _
    | with_reducible apply keeps_ite
    | with_reducible apply keepsO_ite)

theorem execOvertemp_keeps {pd : Kept} (ch : Fin 32) (s : State) (hs : Keeps pd s) :
    KeepsO pd (execOvertemp ch s) := by
  unfold execOvertemp
  repeat' (first
    | with_reducible assumption
    | with_reducible exact keepsO_fault _
    | with_reducible refine keepsO_next ?_
    | (with_reducible first | apply tripOutput_keeps)
    | intro _
    | with_reducible apply keeps_ite
    | with_reducible apply keepsO_ite)

theorem execTripLatchClear_keeps {pd : Kept} (ch : Fin 32) (retry cool : Bool) (s : State) (hs : Keeps pd s) :
    KeepsO pd (execTripLatchClear ch retry cool s) := by
  unfold execTripLatchClear
  repeat' (first
    | with_reducible assumption
    | with_reducible exact keepsO_fault _
    | with_reducible refine keepsO_next ?_
    | (with_reducible first | apply modCh_keeps | apply diagChange_keeps)
    | ((try lift_lets); intro x; refine (fun (hx : Keeps pd x) => ?_) ?_; clear_value x; rotate_left; unfold x; clear x)
    | (lift_lets; intro x)
    | intro _
    | simp only [↓keeps_mk]
    | with_reducible apply keeps_ite
    | with_reducible apply keepsO_ite)

theorem execOpenWire_keeps {pd : Kept} (ch : Fin 32) (seen : OpenSense) (s : State) (hs : Keeps pd s) :
    KeepsO pd (execOpenWire ch seen s) := by
  unfold execOpenWire
  repeat' (first
    | with_reducible assumption
    | with_reducible exact keepsO_fault _
    | with_reducible refine keepsO_next ?_
    | (with_reducible first | apply diagChange_keeps | apply modCh_keeps | apply raiseChannel_keeps)
    | ((try lift_lets); intro x; refine (fun (hx : Keeps pd x) => ?_) ?_; clear_value x; rotate_left; unfold x; clear x)
    | (lift_lets; intro x)
    | intro _
    | simp only [↓keeps_mk]
    | with_reducible apply keeps_ite
    | with_reducible apply keepsO_ite
    | split)

theorem execRbErr_keeps {pd : Kept} (ch : Fin 32) (wrong : Bool) (s : State) (hs : Keeps pd s) :
    KeepsO pd (execRbErr ch wrong s) := by
  unfold execRbErr
  repeat' (first
    | with_reducible assumption
    | with_reducible exact keepsO_fault _
    | with_reducible refine keepsO_next ?_
    | (with_reducible first | apply diagChange_keeps | apply modCh_keeps | apply raiseChannel_keeps)
    | ((try lift_lets); intro x; refine (fun (hx : Keeps pd x) => ?_) ?_; clear_value x; rotate_left; unfold x; clear x)
    | (lift_lets; intro x)
    | intro _
    | simp only [↓keeps_mk]
    | with_reducible apply keeps_ite
    | with_reducible apply keepsO_ite
    | (with_reducible refine keeps_pair1 (by assumption) ?_)
    | (with_reducible refine keeps_pair2 (by assumption) ?_)
    | (with_reducible refine keeps_pair3 (by assumption) ?_)
    | split)

theorem execTestPeriod_keeps {pd : Kept} (l : Lane) (ch : Fin 32) (s : State) (hs : Keeps pd s) :
    KeepsO pd (execTestPeriod l ch s) := by
  unfold execTestPeriod
  repeat' (first
    | with_reducible assumption
    | with_reducible exact keepsO_fault _
    | with_reducible refine keepsO_next ?_
    | (with_reducible first | apply modLane_keeps)
    | intro _
    | simp only [↓keeps_mk]
    | with_reducible apply keeps_ite
    | with_reducible apply keepsO_ite)

theorem execTestWidthExpiry_keeps {pd : Kept} (ch : Fin 32) (s : State) (hs : Keeps pd s) :
    KeepsO pd (execTestWidthExpiry ch s) := by
  unfold execTestWidthExpiry
  repeat' (first
    | with_reducible assumption
    | with_reducible exact keepsO_fault _
    | with_reducible refine keepsO_next ?_
    | (with_reducible first | apply endTest_keeps <;> (try intro _ _ _) | apply answerChTest_keeps)
    | intro _
    | with_reducible apply keeps_ite
    | with_reducible apply keepsO_ite)

theorem execTestOverdue_keeps {pd : Kept} (ch : Fin 32) (s : State) (hs : Keeps pd s) :
    KeepsO pd (execTestOverdue ch s) := by
  unfold execTestOverdue
  repeat' (first
    | with_reducible assumption
    | with_reducible exact keepsO_fault _
    | with_reducible refine keepsO_next ?_
    | (with_reducible first | apply diagChange_keeps | apply modCh_keeps | apply raiseChannel_keeps)
    | ((try lift_lets); intro x; refine (fun (hx : Keeps pd x) => ?_) ?_; clear_value x; rotate_left; unfold x; clear x)
    | (lift_lets; intro x)
    | intro _
    | simp only [↓keeps_mk]
    | with_reducible apply keeps_ite
    | with_reducible apply keepsO_ite
    | split)

theorem execGswTest_keeps {pd : Kept} (g : Grp) (phase : GswPhase) (s : State) (hs : Keeps pd s) :
    KeepsO pd (execGswTest g phase s) := by
  unfold execGswTest
  repeat' (first
    | with_reducible assumption
    | with_reducible exact keepsO_fault _
    | with_reducible refine keepsO_next ?_
    | (with_reducible first | apply abandonGsw_keeps | apply diagChange_keeps | apply modCh_keeps | apply modGrp_keeps | apply raiseHub_keeps)
    | with_reducible refine keeps_foldl ?_ (fun _ _ _ => ?_)
    | ((try lift_lets); intro x; refine (fun (hx : Keeps pd x) => ?_) ?_; clear_value x; rotate_left; unfold x; clear x)
    | (lift_lets; intro x)
    | intro _
    | simp only [↓keeps_mk]
    | with_reducible apply keeps_ite
    | with_reducible apply keepsO_ite
    | split)

end Sys2Proof.Machine
end

