-- ==== Sys2Proof/Laws/KeepsRecStore.lean ====
section
/-! SUPPORT. Every operation of Machine/RecStore.lean leaves the queue alone and keeps the memories canonical; one that writes no memory keeps every byte.
-/
namespace Sys2Proof.Machine

theorem writeRecControl_keeps {pl : List Instr} (s : State) (hs : Keeps (.mk pl none) s) :
    Keeps (.mk pl none) (writeRecControl s) := by
  unfold writeRecControl
  repeat' (first
    | with_reducible assumption
    | (with_reducible first | apply modMram_keeps)
    | ((try lift_lets); intro x; refine (fun (hx : Keeps (.mk pl none) x) => ?_) ?_; clear_value x; rotate_left; unfold x; clear x)
    | (lift_lets; intro x)
    | intro _
    | simp only [↓keeps_mk]
    | apply memWrites_wf
    | apply ringWrite_wf
    | assumption)

theorem setRecReader_keeps {pd : Kept} (s : State) (p : Port) (r : Reader) (hs : Keeps pd s) :
    Keeps pd (setRecReader s p r) := by
  unfold setRecReader
  repeat' (first
    | with_reducible assumption
    | simp only [↓keeps_mk]
    | split)

theorem readRecData_keeps {pd : Kept} (s : State) (p : Port) (hs : Keeps pd s) :
    Keeps pd (readRecData s p).2 := by
  unfold readRecData
  repeat' (first
    | with_reducible assumption
    | (with_reducible first | apply setRecReader_keeps)
    | ((try lift_lets); intro x; refine (fun (hx : Keeps pd x) => ?_) ?_; clear_value x; rotate_left; unfold x; clear x)
    | (lift_lets; intro x)
    | simp only [↓keeps_mk]
    | intro _
    | with_reducible apply keeps_ite)

theorem logWrite_keeps {pl : List Instr} (s : State) (x : FaultRec) (hs : Keeps (.mk pl none) s) :
    Keeps (.mk pl none) (logWrite s x) := by
  unfold logWrite
  repeat' (first
    | with_reducible assumption
    | (with_reducible first | apply modMram_keeps | apply writeLogControl_keeps)
    | ((try lift_lets); intro x; refine (fun (hx : Keeps (.mk pl none) x) => ?_) ?_; clear_value x; rotate_left; unfold x; clear x)
    | (lift_lets; intro x)
    | intro _
    | simp only [↓keeps_mk]
    | apply memWrites_wf
    | apply ringWrite_wf
    | assumption
    | with_reducible apply keeps_ite)

theorem setFltReader_keeps {pd : Kept} (s : State) (p : Port) (r : Reader) (hs : Keeps pd s) :
    Keeps pd (setFltReader s p r) := by
  unfold setFltReader
  repeat' (first
    | with_reducible assumption
    | simp only [↓keeps_mk]
    | split)

theorem readLogData_keeps {pd : Kept} (s : State) (p : Port) (hs : Keeps pd s) :
    Keeps pd (readLogData s p).2 := by
  unfold readLogData
  repeat' (first
    | with_reducible assumption
    | (with_reducible first | apply setFltReader_keeps)
    | ((try lift_lets); intro x; refine (fun (hx : Keeps pd x) => ?_) ?_; clear_value x; rotate_left; unfold x; clear x)
    | (lift_lets; intro x)
    | simp only [↓keeps_mk]
    | intro _
    | with_reducible apply keeps_ite)

theorem loadRecorder_keeps {pd : Kept} (s : State) (hs : Keeps pd s) :
    Keeps pd (loadRecorder s) := by
  unfold loadRecorder
  repeat' (first
    | with_reducible assumption
    | (with_reducible first | apply raiseHub_keeps)
    | ((try lift_lets); intro x; refine (fun (hx : Keeps pd x) => ?_) ?_; clear_value x; rotate_left; unfold x; clear x)
    | (lift_lets; intro x)
    | simp only [↓keeps_mk]
    | intro _
    | with_reducible apply keeps_ite
    | split)

theorem loadLog_keeps {pd : Kept} (s : State) (hs : Keeps pd s) :
    Keeps pd (loadLog s) := by
  unfold loadLog
  repeat' (first
    | with_reducible assumption
    | (with_reducible first | apply raiseHub_keeps)
    | ((try lift_lets); intro x; refine (fun (hx : Keeps pd x) => ?_) ?_; clear_value x; rotate_left; unfold x; clear x)
    | (lift_lets; intro x)
    | intro _
    | simp only [↓keeps_mk]
    | with_reducible apply keeps_ite
    | split)

end Sys2Proof.Machine
end

