-- ==== Sys2Proof/Laws/KeepsRegs.lean ====
section
/-! SUPPORT. Every operation of Machine/Regs.lean leaves the queue alone and keeps the memories canonical; one that writes no memory keeps every byte.
-/
namespace Sys2Proof.Machine

theorem ackIrq_keeps {pd : Kept} (s0 s : State) (hs : Keeps pd s) :
    Keeps pd (ackIrq s0 s) := by
  unfold ackIrq
  repeat' (first
    | with_reducible assumption
    | (with_reducible first | apply setIrqIf_keeps))

theorem refuse_keeps {pd : Kept} (s : State) (k : Nat) (hs : Keeps pd s) :
    Keeps pd (refuse s k) := by
  unfold refuse
  repeat' (first
    | with_reducible assumption
    | simp only [↓keeps_mk])

theorem writePageCfg_keeps {pd : Kept} (s : State) (n : Nat) (w : Word) (hs : Keeps pd s) :
    Keeps pd (writePageCfg s n w) := by
  unfold writePageCfg
  repeat' (first
    | with_reducible assumption
    | (with_reducible first | apply refuse_keeps)
    | ((try lift_lets); intro x; refine (fun (hx : Keeps pd x) => ?_) ?_; clear_value x; rotate_left; unfold x; clear x)
    | (lift_lets; intro x)
    | intro _
    | simp only [↓keeps_mk]
    | with_reducible apply keeps_ite)

theorem readBrLog_keeps {pd : Kept} (s : State) (hs : Keeps pd s) :
    Keeps pd (readBrLog s).2 := by
  unfold readBrLog
  repeat' (first
    | with_reducible assumption
    | simp only [↓keeps_mk]
    | split)

theorem hostError_keeps {pd : Kept} (s : State) (cause word : Nat) (hs : Keeps pd s) :
    Keeps pd (hostError s cause word) := by
  unfold hostError
  repeat' (first
    | with_reducible assumption
    | simp only [↓keeps_mk])

theorem readMbData_keeps {pd : Kept} (s : State) (mb : Mb) (hs : Keeps pd s) :
    Keeps pd (readMbData s mb).2 := by
  unfold readMbData
  repeat' (first
    | with_reducible assumption
    | (with_reducible first | apply modMb_keeps)
    | ((try lift_lets); intro x; refine (fun (hx : Keeps pd x) => ?_) ?_; clear_value x; rotate_left; unfold x; clear x)
    | (lift_lets; intro x)
    | intro _
    | simp only [↓keeps_mk])

theorem writeMbData_keeps {pd : Kept} (s : State) (mb : Mb) (src : Source) (w : Word) (drained : Nat) (hs : Keeps pd s) :
    Keeps pd (writeMbData s mb src w drained) := by
  unfold writeMbData
  repeat' (first
    | with_reducible assumption
    | (with_reducible first | apply modMb_keeps | apply finishMbAt_keeps | apply hostError_keeps)
    | ((try lift_lets); intro x; refine (fun (hx : Keeps pd x) => ?_) ?_; clear_value x; rotate_left; unfold x; clear x)
    | (lift_lets; intro x)
    | intro _
    | simp only [↓keeps_mk]
    | with_reducible apply keeps_ite)

theorem writeMbCmd_keeps {pd : Kept} (s : State) (mb : Mb) (src : Source) (w : Word) (hs : Keeps pd s) :
    Keeps pd (writeMbCmd s mb src w) := by
  unfold writeMbCmd
  repeat' (first
    | with_reducible assumption
    | (with_reducible first | apply discardWrite_keeps | apply finishMbAt_keeps | apply modMb_keeps | apply startMb_keeps)
    | ((try lift_lets); intro x; refine (fun (hx : Keeps pd x) => ?_) ?_; clear_value x; rotate_left; unfold x; clear x)
    | (lift_lets; intro x)
    | intro _
    | simp only [↓keeps_mk]
    | with_reducible apply keeps_ite
    | split)

theorem writeMbCtrl_keeps {pd : Kept} (s : State) (mb : Mb) (src : Source) (w : Word) (hs : Keeps pd s) :
    Keeps pd (writeMbCtrl s mb src w) := by
  unfold writeMbCtrl
  repeat' (first
    | with_reducible assumption
    | (with_reducible first | apply idleMb_keeps)
    | ((try lift_lets); intro x; refine (fun (hx : Keeps pd x) => ?_) ?_; clear_value x; rotate_left; unfold x; clear x)
    | (lift_lets; intro x)
    | intro _
    | with_reducible apply keeps_ite)

theorem writeMb_keeps {pd : Kept} (s : State) (mb : Mb) (src : Source) (off : Nat) (w : Word) (drained : Nat) (hs : Keeps pd s) :
    Keeps pd (writeMb s mb src off w drained) := by
  unfold writeMb
  repeat' (first
    | with_reducible assumption
    | (with_reducible first | apply modMb_keeps | apply writeMbData_keeps | apply writeMbCmd_keeps | apply writeMbCtrl_keeps)
    | intro _
    | simp only [↓keeps_mk]
    | with_reducible apply keeps_ite
    | split)

theorem readEffect_keeps {pd : Kept} (s : State) (p : Port) (a : Nat) (hs : Keeps pd s) :
    Keeps pd (readEffect s p a) := by
  unfold readEffect
  repeat' (first
    | with_reducible assumption
    | (with_reducible first | apply readRecData_keeps | apply readLogData_keeps | apply readBrLog_keeps | apply readMbData_keeps)
    | intro _
    | simp only [↓keeps_mk]
    | with_reducible apply keeps_ite)

theorem regRead_keeps {pd : Kept} (s : State) (p : Port) (a : Nat) (hs : Keeps pd s) :
    Keeps pd (regRead s p a).2 := by
  unfold regRead
  repeat' (first
    | with_reducible assumption
    | (with_reducible first | apply readValHi_keeps | apply readEffect_keeps)
    | ((try lift_lets); intro x; refine (fun (hx : Keeps pd x) => ?_) ?_; clear_value x; rotate_left; unfold x; clear x)
    | (lift_lets; intro x)
    | intro _
    | with_reducible apply keeps_ite)

theorem regWrite_keeps {pd : Kept} (s : State) (p : Port) (node : Nat) (a : Nat) (w : Word) (drained : Nat) (hs : Keeps pd s) :
    Keeps pd (regWrite s p node a w drained) := by
  unfold regWrite
  repeat' (first
    | with_reducible assumption
    | (with_reducible first | apply modAxis_keeps | apply snapAll_keeps | apply setRecReader_keeps | apply setFltReader_keeps | apply writePageCfg_keeps | apply writeMb_keeps)
    | ((try lift_lets); intro x; refine (fun (hx : Keeps pd x) => ?_) ?_; clear_value x; rotate_left; unfold x; clear x)
    | (lift_lets; intro x)
    | intro _
    | simp only [↓keeps_mk]
    | with_reducible apply keeps_ite)

end Sys2Proof.Machine
end

