-- ==== Sys2Proof/Laws/KeepsBridgeOps.lean ====
section
/-! SUPPORT. Every operation of Machine/BridgeOps.lean leaves the queue alone and keeps the memories canonical; one that writes no memory keeps every byte.
-/
namespace Sys2Proof.Machine

theorem modNode_keeps {pd : Kept} (s : State) (n : Nat) (f : NodeSt → NodeSt) (hs : Keeps pd s) :
    Keeps pd (modNode s n f) := by
  unfold modNode
  repeat' (first
    | with_reducible assumption
    | ((try lift_lets); intro x; refine (fun (hx : Keeps pd x) => ?_) ?_; clear_value x; rotate_left; unfold x; clear x)
    | (lift_lets; intro x)
    | intro _
    | simp only [↓keeps_mk]
    | with_reducible apply keeps_ite)

theorem pumpTrain_keeps {pd : Kept} (y0 : Nat) (y1 : State) (hy1 : Keeps pd y1) :
    Keeps pd (pumpTrain y0 y1) := by
  induction y0 generalizing y1 with
  | zero => exact hy1
  | succ k ih =>
  unfold pumpTrain
  repeat' (first
    | with_reducible assumption
    | (with_reducible apply ih)
    | (with_reducible refine keeps_pair2 (by assumption) ?_)
    | (with_reducible first | apply sendIp_keeps | apply modNode_keeps)
    | with_reducible refine keeps_foldl ?_ (fun _ _ _ => ?_)
    | ((try lift_lets); intro x; refine (fun (hx : Keeps pd x) => ?_) ?_; clear_value x; rotate_left; unfold x; clear x)
    | (lift_lets; intro x)
    | intro _
    | simp only [↓keeps_mk]
    | with_reducible apply keeps_ite
    | split)

theorem pump_keeps {pd : Kept} (s : State) (hs : Keeps pd s) :
    Keeps pd (pump s) := by
  unfold pump
  repeat' (first
    | with_reducible assumption
    | (with_reducible first | apply pumpTrain_keeps))

theorem issue_keeps {pd : Kept} (s : State) (train : Bool) (node : Nat) (tag : Option Nat) (page : Nat) (body : List Byte) (hs : Keeps pd s) :
    Keeps pd (issue s train node tag page body) := by
  unfold issue
  repeat' (first
    | with_reducible assumption
    | (with_reducible first | apply pump_keeps)
    | simp only [↓keeps_mk]
    | intro _
    | with_reducible apply keeps_ite)

theorem respond_keeps {pd : Kept} (s : State) (node : Nat) (body : List Byte) (hs : Keeps pd s) :
    Keeps pd (respond s node body) := by
  unfold respond
  repeat' (first
    | with_reducible assumption
    | (with_reducible first | apply pump_keeps)
    | simp only [↓keeps_mk]
    | intro _
    | with_reducible apply keeps_ite)

theorem logBridge_keeps {pd : Kept} (s : State) (code page node tag count remote : Nat) (hs : Keeps pd s) :
    Keeps pd (logBridge s code page node tag count remote) := by
  unfold logBridge
  repeat' (first
    | with_reducible assumption
    | (with_reducible first | apply raiseHub_keeps)
    | ((try lift_lets); intro x; refine (fun (hx : Keeps pd x) => ?_) ?_; clear_value x; rotate_left; unfold x; clear x)
    | (lift_lets; intro x)
    | simp only [↓keeps_mk]
    | intro _
    | with_reducible apply keeps_ite)

theorem fence_keeps {pd : Kept} (s : State) (node : Nat) (hs : Keeps pd s) :
    Keeps pd (fence s node) := by
  unfold fence
  repeat' (first
    | with_reducible assumption
    | (with_reducible first | apply raiseHub_keeps | apply modNode_keeps | apply logBridge_keeps)
    | with_reducible refine keeps_foldl ?_ (fun _ _ _ => ?_)
    | ((try lift_lets); intro x; refine (fun (hx : Keeps pd x) => ?_) ?_; clear_value x; rotate_left; unfold x; clear x)
    | (lift_lets; intro x)
    | intro _
    | simp only [↓keeps_mk]
    | with_reducible apply keeps_ite)

theorem postError_keeps {pd : Kept} (s : State) (node code : Nat) (p : PostSt) (hs : Keeps pd s) :
    Keeps pd (postError s node code p) := by
  unfold postError
  repeat' (first
    | with_reducible assumption
    | (with_reducible first | apply setIrq_keeps | apply raiseHub_keeps | apply logBridge_keeps | apply fence_keeps)
    | ((try lift_lets); intro x; refine (fun (hx : Keeps pd x) => ?_) ?_; clear_value x; rotate_left; unfold x; clear x)
    | (lift_lets; intro x))

theorem returnCredit_keeps {pd : Kept} (s : State) (node tag code : Nat) (hs : Keeps pd s) :
    Keeps pd (returnCredit s node tag code) := by
  unfold returnCredit
  repeat' (first
    | with_reducible assumption
    | (with_reducible first | apply modNode_keeps | apply postError_keeps)
    | ((try lift_lets); intro x; refine (fun (hx : Keeps pd x) => ?_) ?_; clear_value x; rotate_left; unfold x; clear x)
    | (lift_lets; intro x)
    | intro _
    | simp only [↓keeps_mk]
    | with_reducible apply keeps_ite
    | split)

theorem setDelayed_keeps {pd : Kept} (s : State) (i : Nat) (e : Option DelayedEntry) (hs : Keeps pd s) :
    Keeps pd (setDelayed s i e) := by
  unfold setDelayed
  repeat' (first
    | with_reducible assumption
    | intro _
    | simp only [↓keeps_mk])

theorem delayedTimeout_keeps {pd : Kept} (s : State) (i : Nat) (e : DelayedEntry) (hs : Keeps pd s) :
    Keeps pd (delayedTimeout s i e) := by
  unfold delayedTimeout
  repeat' (first
    | with_reducible assumption
    | (with_reducible first | apply raiseHub_keeps | apply logBridge_keeps | apply setDelayed_keeps)
    | ((try lift_lets); intro x; refine (fun (hx : Keeps pd x) => ?_) ?_; clear_value x; rotate_left; unfold x; clear x)
    | (lift_lets; intro x)
    | simp only [↓keeps_mk])

theorem discardEntry_keeps {pd : Kept} (s : State) (i : Nat) (hs : Keeps pd s) :
    Keeps pd (discardEntry s i) := by
  unfold discardEntry
  repeat' (first
    | with_reducible assumption
    | (with_reducible first | apply setDelayed_keeps)
    | ((try lift_lets); intro x; refine (fun (hx : Keeps pd x) => ?_) ?_; clear_value x; rotate_left; unfold x; clear x)
    | (lift_lets; intro x)
    | simp only [↓keeps_mk]
    | intro _
    | with_reducible apply keeps_ite
    | split)

theorem windowRefused_keeps {pd : Kept} (s : State) (zero : List Word) (hs : Keeps pd s) :
    Keeps pd (windowRefused s zero).2 := by
  unfold windowRefused
  repeat' (first
    | with_reducible assumption
    | (with_reducible first | apply refuse_keeps | apply hostError_keeps)
    | simp only [↓keeps_mk])

theorem newDelayed_keeps {pd : Kept} (s : State) (page a k : Nat) (write : Bool) (data : List Word) (hs : Keeps pd s) :
    Keeps pd (newDelayed s page a k write data) := by
  unfold newDelayed
  repeat' (first
    | with_reducible assumption
    | (with_reducible first | apply refuse_keeps | apply issue_keeps | apply setDelayed_keeps)
    | ((try lift_lets); intro x; refine (fun (hx : Keeps pd x) => ?_) ?_; clear_value x; rotate_left; unfold x; clear x)
    | (lift_lets; intro x)
    | intro _
    | simp only [↓keeps_mk]
    | with_reducible apply keeps_ite
    | split)

theorem windowRead_keeps {pd : Kept} (s : State) (a count : Nat) (hs : Keeps pd s) :
    Keeps pd (windowRead s a count).2 := by
  unfold windowRead
  repeat' (first
    | with_reducible assumption
    | (with_reducible first | apply hostError_keeps | apply newDelayed_keeps | apply refuse_keeps | apply setDelayed_keeps | apply windowRefused_keeps | apply zeroReads_keeps)
    | ((try lift_lets); intro x; refine (fun (hx : Keeps pd x) => ?_) ?_; clear_value x; rotate_left; unfold x; clear x)
    | (lift_lets; intro x)
    | intro _
    | simp only [↓keeps_mk]
    | with_reducible apply keeps_ite
    | (with_reducible refine keeps_pair1 (by assumption) ?_)
    | (with_reducible refine keeps_pair2 (by assumption) ?_)
    | (with_reducible refine keeps_pair3 (by assumption) ?_)
    | split)

theorem windowPost_keeps {pd : Kept} (s : State) (page a : Nat) (ws : List Word) (hs : Keeps pd s) :
    Keeps pd (windowPost s page a ws).2 := by
  unfold windowPost
  repeat' (first
    | with_reducible assumption
    | (with_reducible first | apply setIrq_keeps | apply refuse_keeps | apply hostError_keeps | apply modNode_keeps | apply issue_keeps | apply logBridge_keeps)
    | ((try lift_lets); intro x; refine (fun (hx : Keeps pd x) => ?_) ?_; clear_value x; rotate_left; unfold x; clear x)
    | (lift_lets; intro x)
    | intro _
    | simp only
    | with_reducible apply keeps_ite
    | simp +zetaDelta only [↓keeps_mk]
    | split
    | (clear_value *; split))

theorem windowWrite_keeps {pd : Kept} (s : State) (a : Nat) (ws : List Word) (hs : Keeps pd s) :
    Keeps pd (windowWrite s a ws).2 := by
  unfold windowWrite
  repeat' (first
    | with_reducible assumption
    | (with_reducible first | apply discardWrite_keeps | apply hostError_keeps | apply newDelayed_keeps | apply refuse_keeps | apply setDelayed_keeps | apply windowPost_keeps | apply windowRefused_keeps)
    | ((try lift_lets); intro x; refine (fun (hx : Keeps pd x) => ?_) ?_; clear_value x; rotate_left; unfold x; clear x)
    | (lift_lets; intro x)
    | intro _
    | simp only [↓keeps_mk]
    | with_reducible apply keeps_ite
    | (with_reducible refine keeps_pair1 (by assumption) ?_)
    | (with_reducible refine keeps_pair2 (by assumption) ?_)
    | (with_reducible refine keeps_pair3 (by assumption) ?_)
    | split)

theorem completeDelayed_keeps {pd : Kept} (s : State) (node : Nat) (body : List Byte) (hs : Keeps pd s) :
    Keeps pd (completeDelayed s node body) := by
  unfold completeDelayed
  repeat' (first
    | with_reducible assumption
    | (with_reducible first | apply setDelayed_keeps)
    | ((try lift_lets); intro x; refine (fun (hx : Keeps pd x) => ?_) ?_; clear_value x; rotate_left; unfold x; clear x)
    | (lift_lets; intro x)
    | simp only [↓keeps_mk]
    | intro _
    | with_reducible apply keeps_ite
    | split)

theorem adoptBridge_keeps {pd : Kept} (s : State) (hs : Keeps pd s) :
    Keeps pd (adoptBridge s) := by
  unfold adoptBridge
  repeat' (first
    | with_reducible assumption
    | (with_reducible first | apply delayedTimeout_keeps)
    | with_reducible refine keeps_foldl ?_ (fun _ _ _ => ?_)
    | ((try lift_lets); intro x; refine (fun (hx : Keeps pd x) => ?_) ?_; clear_value x; rotate_left; unfold x; clear x)
    | (lift_lets; intro x)
    | intro _
    | simp only [↓keeps_mk]
    | with_reducible apply keeps_ite
    | split)

theorem modSource_keeps {pd : Kept} (s : State) (n : Nat) (f : SourceSt → SourceSt) (hs : Keeps pd s) :
    Keeps pd (modSource s n f) := by
  unfold modSource
  repeat' (first
    | with_reducible assumption
    | ((try lift_lets); intro x; refine (fun (hx : Keeps pd x) => ?_) ?_; clear_value x; rotate_left; unfold x; clear x)
    | (lift_lets; intro x)
    | intro _
    | simp only [↓keeps_mk]
    | with_reducible apply keeps_ite)

theorem regReads_keeps {pd : Kept} (p : Port) (y0 : List Nat) (y1 : State) (hy1 : Keeps pd y1) :
    Keeps pd (regReads p y0 y1).2 := by
  induction y0 generalizing y1 with
  | nil => exact hy1
  | cons a l ih =>
  unfold regReads
  repeat' (first
    | with_reducible assumption
    | (with_reducible apply ih)
    | (with_reducible refine keeps_pair2 (by assumption) ?_)
    | (with_reducible first | apply regRead_keeps)
    | ((try lift_lets); intro x; refine (fun (hx : Keeps pd x) => ?_) ?_; clear_value x; rotate_left; unfold x; clear x)
    | (lift_lets; intro x)
    | simp only [↓keeps_mk]
    | intro _
    | with_reducible apply keeps_ite
    | simp +zetaDelta only [↓keeps_mk]
    | split
    | (clear_value *; split)
    | (with_reducible refine keeps_pair1 (by assumption) ?_)
    | (with_reducible refine keeps_pair2 (by assumption) ?_)
    | (with_reducible refine keeps_pair3 (by assumption) ?_))

theorem regWrites_keeps {pd : Kept} (p : Port) (node drained : Nat) (y0 : List (Nat × Word)) (y1 : State) (hy1 : Keeps pd y1) :
    Keeps pd (regWrites p node drained y0 y1) := by
  induction y0 generalizing y1 with
  | nil => exact hy1
  | cons a l ih =>
  unfold regWrites
  repeat' (first
    | with_reducible assumption
    | (with_reducible apply ih)
    | (with_reducible refine keeps_pair2 (by assumption) ?_)
    | (with_reducible first | apply regWrite_keeps)
    | intro _
    | with_reducible apply keeps_ite)

theorem performWrite_keeps {pd : Kept} (s : State) (node : Nat) (b : List Byte) (hs : Keeps pd s) :
    Keeps pd (performWrite s node b).2 := by
  unfold performWrite
  repeat' (first
    | with_reducible assumption
    | (with_reducible first | apply regWrites_keeps)
    | ((try lift_lets); intro x; refine (fun (hx : Keeps pd x) => ?_) ?_; clear_value x; rotate_left; unfold x; clear x)
    | (lift_lets; intro x)
    | simp only
    | intro _
    | with_reducible apply keeps_ite
    | simp +zetaDelta only [↓keeps_mk]
    | split
    | (clear_value *; split))

theorem answerAccess_keeps {pd : Kept} (s : State) (node : Nat) (b : List Byte) (hs : Keeps pd s) :
    Keeps pd (answerAccess s node b) := by
  unfold answerAccess
  repeat' (first
    | with_reducible assumption
    | (with_reducible first | apply respond_keeps | apply regReads_keeps | apply performWrite_keeps)
    | ((try lift_lets); intro x; refine (fun (hx : Keeps pd x) => ?_) ?_; clear_value x; rotate_left; unfold x; clear x)
    | (lift_lets; intro x)
    | intro _
    | with_reducible apply keeps_ite)

theorem sendCredits_keeps {pd : Kept} (y0 : Nat) (y1 : State) (y2 : Nat) (y3 : List (Nat × Nat)) (hy1 : Keeps pd y1) :
    Keeps pd (sendCredits y0 y1 y2 y3) := by
  induction y0 generalizing y1 y2 y3 with
  | zero => exact hy1
  | succ k ih =>
  unfold sendCredits
  repeat' (first
    | with_reducible assumption
    | (with_reducible apply ih)
    | (with_reducible refine keeps_pair2 (by assumption) ?_)
    | (with_reducible first | apply respond_keeps)
    | ((try lift_lets); intro x; refine (fun (hx : Keeps pd x) => ?_) ?_; clear_value x; rotate_left; unfold x; clear x)
    | (lift_lets; intro x)
    | intro _
    | with_reducible apply keeps_ite)

theorem performPost_keeps {pd : Kept} (s : State) (node : Nat) (b : List Byte) (hs : Keeps pd s) :
    Keeps pd (performPost s node b).2 := by
  unfold performPost
  repeat' (first
    | with_reducible assumption
    | (with_reducible first | apply modSource_keeps | apply performWrite_keeps)
    | ((try lift_lets); intro x; refine (fun (hx : Keeps pd x) => ?_) ?_; clear_value x; rotate_left; unfold x; clear x)
    | (lift_lets; intro x)
    | intro _
    | simp only [↓keeps_mk]
    | with_reducible apply keeps_ite
    | simp +zetaDelta only [↓keeps_mk]
    | split
    | (clear_value *; split)
    | (with_reducible refine keeps_pair1 (by assumption) ?_)
    | (with_reducible refine keeps_pair2 (by assumption) ?_)
    | (with_reducible refine keeps_pair3 (by assumption) ?_))

theorem drainHeld_keeps {pd : Kept} (y0 : Nat) (y1 : State) (y2 : Nat) (y3 : List (Nat × Nat)) (hy1 : Keeps pd y1) :
    Keeps pd (drainHeld y0 y1 y2 y3).2 := by
  induction y0 generalizing y1 y3 with
  | zero => exact hy1
  | succ k ih =>
    unfold drainHeld
    lift_lets
    intro x turn
    clear_value turn
    cases turn with
    | none => exact hy1
    | some h =>
      by_cases hf : x.fenced = true
      · simp only [hf, ↓reduceIte]
        exact ih _ _ (modSource_keeps _ _ _ hy1)
      · simp only [hf, ↓reduceIte]
        exact ih _ _ (performPost_keeps _ _ _ (modSource_keeps _ _ _ hy1))

theorem releaseWaits_keeps {pd : Kept} (s : State) (node : Nat) (hs : Keeps pd s) :
    Keeps pd (releaseWaits s node) := by
  unfold releaseWaits
  repeat' (first
    | with_reducible assumption
    | (with_reducible first | apply modSource_keeps | apply answerAccess_keeps)
    | with_reducible refine keeps_foldl ?_ (fun _ _ _ => ?_)
    | ((try lift_lets); intro x; refine (fun (hx : Keeps pd x) => ?_) ?_; clear_value x; rotate_left; unfold x; clear x)
    | (lift_lets; intro x)
    | intro _
    | simp only [↓keeps_mk])

theorem settleSource_keeps {pd : Kept} (s : State) (node : Nat) (es : List (Nat × Nat)) (hs : Keeps pd s) :
    Keeps pd (settleSource s node es) := by
  unfold settleSource
  exact releaseWaits_keeps _ _ (sendCredits_keeps _ _ _ _ (drainHeld_keeps _ _ _ _ hs))

theorem takeRequest_keeps {pd : Kept} (s : State) (node : Nat) (b : List Byte) (hs : Keeps pd s) :
    Keeps pd (takeRequest s node b) := by
  unfold takeRequest
  repeat' (first
    | with_reducible assumption
    | (with_reducible first | apply respond_keeps | apply modSource_keeps | apply answerAccess_keeps | apply performPost_keeps | apply settleSource_keeps)
    | ((try lift_lets); intro x; refine (fun (hx : Keeps pd x) => ?_) ?_; clear_value x; rotate_left; unfold x; clear x)
    | (lift_lets; intro x)
    | intro _
    | simp only
    | with_reducible apply keeps_ite
    | split)

theorem reportGap_keeps {pd : Kept} (s : State) (node : Nat) (hs : Keeps pd s) :
    Keeps pd (reportGap s node) := by
  unfold reportGap
  repeat' (first
    | with_reducible assumption
    | (with_reducible first | apply modSource_keeps | apply settleSource_keeps)
    | with_reducible refine keeps_foldl ?_ (fun _ _ _ => ?_)
    | ((try lift_lets); intro x; refine (fun (hx : Keeps pd x) => ?_) ?_; clear_value x; rotate_left; unfold x; clear x)
    | (lift_lets; intro x)
    | intro _
    | simp only [↓keeps_mk]
    | with_reducible apply keeps_ite)

theorem takeResync_keeps {pd : Kept} (s : State) (node tag : Nat) (hs : Keeps pd s) :
    Keeps pd (takeResync s node tag) := by
  unfold takeResync
  repeat' (first
    | with_reducible assumption
    | (with_reducible first | apply respond_keeps | apply modSource_keeps | apply sendCredits_keeps | apply releaseWaits_keeps)
    | ((try lift_lets); intro x; refine (fun (hx : Keeps pd x) => ?_) ?_; clear_value x; rotate_left; unfold x; clear x)
    | (lift_lets; intro x)
    | intro _
    | simp only [↓keeps_mk]
    | with_reducible apply keeps_ite)

end Sys2Proof.Machine
end

