-- ==== Sys2Proof/Laws/KeepsBridge.lean ====
section
/-! SUPPORT. Every operation of Machine/Bridge.lean leaves the queue alone and keeps the memories canonical; one that writes no memory keeps every byte.
-/
namespace Sys2Proof.Machine

theorem execFenceClear_keeps {pd : Kept} (mb : Mb) (s : State) (hs : Keeps pd s) :
    KeepsO pd (execFenceClear mb s) := by
  unfold execFenceClear
  repeat' (first
    | with_reducible assumption
    | with_reducible exact keepsO_fault _
    | with_reducible refine keepsO_next ?_
    | (with_reducible first | apply resultMb_keeps | apply waitMb_keeps | apply runCmd_keeps <;> (try intro _ _ _) | apply modNode_keeps | apply issue_keeps)
    | ((try lift_lets); intro x; refine (fun (hx : Keeps pd x) => ?_) ?_; clear_value x; rotate_left; unfold x; clear x)
    | (lift_lets; intro x)
    | intro _
    | simp only [↓keeps_mk]
    | with_reducible apply keeps_ite
    | with_reducible apply keepsO_ite)

theorem execFenceClearTimeout_keeps {pd : Kept} (mb : Mb) (s : State) (hs : Keeps pd s) :
    KeepsO pd (execFenceClearTimeout mb s) := by
  unfold execFenceClearTimeout
  repeat' (first
    | with_reducible assumption
    | with_reducible exact keepsO_fault _
    | with_reducible refine keepsO_next ?_
    | (with_reducible first | apply resultMb_keeps | apply modNode_keeps)
    | intro _
    | simp only [↓keeps_mk]
    | split)

theorem resyncDone_keeps {pd : Kept} (s : State) (node tag : Nat) (hs : Keeps pd s) :
    Keeps pd (resyncDone s node tag) := by
  unfold resyncDone
  repeat' (first
    | with_reducible assumption
    | (with_reducible first | apply raiseHub_keeps | apply resultMb_keeps | apply modNode_keeps)
    | ((try lift_lets); intro x; refine (fun (hx : Keeps pd x) => ?_) ?_; clear_value x; rotate_left; unfold x; clear x)
    | (lift_lets; intro x)
    | intro _
    | simp only [↓keeps_mk]
    | with_reducible apply keeps_ite
    | split)

theorem execResyncDone_keeps {pd : Kept} (node tag : Nat) (s : State) (hs : Keeps pd s) :
    KeepsO pd (execResyncDone node tag s) := by
  unfold execResyncDone
  repeat' (first
    | with_reducible assumption
    | with_reducible exact keepsO_fault _
    | with_reducible refine keepsO_next ?_
    | (with_reducible first | apply resyncDone_keeps))

theorem takeCredits_keeps {pd : Kept} (s : State) (node : Nat) (body : List Byte) (hs : Keeps pd s) :
    Keeps pd (takeCredits s node body) := by
  unfold takeCredits
  repeat' (first
    | with_reducible assumption
    | (with_reducible first | apply returnCredit_keeps)
    | with_reducible refine keeps_foldl ?_ (fun _ _ _ => ?_)
    | intro _
    | with_reducible apply keeps_ite)

theorem execCredit_keeps {pd : Kept} (node : Nat) (body : List Byte) (s : State) (hs : Keeps pd s) :
    KeepsO pd (execCredit node body s) := by
  unfold execCredit
  repeat' (first
    | with_reducible assumption
    | with_reducible exact keepsO_fault _
    | with_reducible refine keepsO_next ?_
    | (with_reducible first | apply takeCredits_keeps))

theorem execRemoteAccessResponse_keeps {pd : Kept} (node : Nat) (body : List Byte) (s : State) (hs : Keeps pd s) :
    KeepsO pd (execRemoteAccessResponse node body s) := by
  unfold execRemoteAccessResponse
  repeat' (first
    | with_reducible assumption
    | with_reducible exact keepsO_fault _
    | with_reducible refine keepsO_next ?_
    | (with_reducible first | apply completeDelayed_keeps)
    | intro _
    | with_reducible apply keeps_ite
    | with_reducible apply keepsO_ite)

theorem takeResponse_keeps {pd : Kept} (s : State) (node : Nat) (body : List Byte) (hs : Keeps pd s) :
    Keeps pd (takeResponse s node body) := by
  unfold takeResponse
  repeat' (first
    | with_reducible assumption
    | (with_reducible first | apply completeDelayed_keeps | apply resyncDone_keeps | apply takeCredits_keeps)
    | simp only [↓keeps_mk]
    | intro _
    | with_reducible apply keeps_ite
    | split)

theorem execResync_keeps {pd : Kept} (node tag : Nat) (s : State) (hs : Keeps pd s) :
    KeepsO pd (execResync node tag s) := by
  unfold execResync
  repeat' (first
    | with_reducible assumption
    | with_reducible exact keepsO_fault _
    | with_reducible refine keepsO_next ?_
    | (with_reducible first | apply takeResync_keeps))

theorem execInboundRequest_keeps {pd : Kept} (node : Nat) (body : List Byte) (s : State) (hs : Keeps pd s) :
    KeepsO pd (execInboundRequest node body s) := by
  unfold execInboundRequest
  repeat' (first
    | with_reducible assumption
    | with_reducible exact keepsO_fault _
    | with_reducible refine keepsO_next ?_
    | (with_reducible first | apply takeRequest_keeps))

theorem execSeqGap_keeps {pd : Kept} (node : Nat) (s : State) (hs : Keeps pd s) :
    KeepsO pd (execSeqGap node s) := by
  unfold execSeqGap
  repeat' (first
    | with_reducible assumption
    | with_reducible exact keepsO_fault _
    | with_reducible refine keepsO_next ?_
    | (with_reducible first | apply reportGap_keeps))

theorem arriveRequest_keeps {pd : Kept} (s : State) (node : Nat) (body : List Byte) (hs : Keeps pd s) :
    Keeps pd (arriveRequest s node body) := by
  unfold arriveRequest
  repeat' (first
    | with_reducible assumption
    | (with_reducible first | apply takeRequest_keeps | apply takeResync_keeps)
    | intro _
    | with_reducible apply keeps_ite)

theorem execReqTimeout_keeps {pd : Kept} (what : BridgeWait) (s : State) (hs : Keeps pd s) :
    KeepsO pd (execReqTimeout what s) := by
  unfold execReqTimeout
  repeat' (first
    | with_reducible assumption
    | with_reducible exact keepsO_fault _
    | with_reducible refine keepsO_next ?_
    | (with_reducible first | apply modNode_keeps | apply postError_keeps | apply delayedTimeout_keeps)
    | ((try lift_lets); intro x; refine (fun (hx : Keeps pd x) => ?_) ?_; clear_value x; rotate_left; unfold x; clear x)
    | (lift_lets; intro x)
    | intro _
    | simp only
    | with_reducible apply keeps_ite
    | with_reducible apply keepsO_ite
    | split)

theorem execDiscardMs_keeps {pd : Kept} (entry : Fin 16) (s : State) (hs : Keeps pd s) :
    KeepsO pd (execDiscardMs entry s) := by
  unfold execDiscardMs
  repeat' (first
    | with_reducible assumption
    | with_reducible exact keepsO_fault _
    | with_reducible refine keepsO_next ?_
    | (with_reducible first | apply discardEntry_keeps))

theorem tunnelRecord_keeps {pd : Kept} (s : State) (sev : Nat) (code : BitVec 16) (unit : Nat) (on : Bool) (hs : Keeps pd s) :
    Keeps pd (tunnelRecord s sev code unit on) := by
  unfold tunnelRecord
  repeat' (first
    | with_reducible assumption
    | (with_reducible first | apply raiseHub_keeps))

theorem execTunnelOpen_keeps {pd : Kept} (mb : Mb) (s : State) (hs : Keeps pd s) :
    KeepsO pd (execTunnelOpen mb s) := by
  unfold execTunnelOpen
  repeat' (first
    | with_reducible assumption
    | with_reducible exact keepsO_fault _
    | with_reducible refine keepsO_next ?_
    | (with_reducible first | apply resultMb_keeps | apply runCmd_keeps <;> (try intro _ _ _) | apply tunnelRecord_keeps)
    | ((try lift_lets); intro x; refine (fun (hx : Keeps pd x) => ?_) ?_; clear_value x; rotate_left; unfold x; clear x)
    | (lift_lets; intro x)
    | intro _
    | simp only [↓keeps_mk]
    | with_reducible apply keeps_ite
    | with_reducible apply keepsO_ite)

theorem execTunnelClose_keeps {pd : Kept} (mb : Mb) (s : State) (hs : Keeps pd s) :
    KeepsO pd (execTunnelClose mb s) := by
  unfold execTunnelClose
  repeat' (first
    | with_reducible assumption
    | with_reducible exact keepsO_fault _
    | with_reducible refine keepsO_next ?_
    | (with_reducible first | apply resultMb_keeps | apply runCmd_keeps <;> (try intro _ _ _) | apply tunnelRecord_keeps)
    | ((try lift_lets); intro x; refine (fun (hx : Keeps pd x) => ?_) ?_; clear_value x; rotate_left; unfold x; clear x)
    | (lift_lets; intro x)
    | intro _
    | simp only [↓keeps_mk]
    | with_reducible apply keeps_ite
    | with_reducible apply keepsO_ite)

theorem execForeignFrameReceive_keeps {pd : Kept} (iface : Fin 4) (f : ForeignFrame) (ago : Nat) (s : State) (hs : Keeps pd s) :
    KeepsO pd (execForeignFrameReceive iface f ago s) := by
  unfold execForeignFrameReceive
  repeat' (first
    | with_reducible assumption
    | with_reducible exact keepsO_fault _
    | with_reducible refine keepsO_next ?_
    | (with_reducible first | apply modEp_keeps)
    | ((try lift_lets); intro x; refine (fun (hx : Keeps pd x) => ?_) ?_; clear_value x; rotate_left; unfold x; clear x)
    | (lift_lets; intro x)
    | intro _
    | simp only [↓keeps_mk]
    | with_reducible apply keeps_ite
    | with_reducible apply keepsO_ite
    | split)

theorem takeTunnel_keeps {pd : Kept} (s : State) (node : Nat) (b : List Byte) (hs : Keeps pd s) :
    Keeps pd (takeTunnel s node b) := by
  unfold takeTunnel
  repeat' (first
    | with_reducible assumption
    | (with_reducible first | apply modEp_keeps)
    | ((try lift_lets); intro x; refine (fun (hx : Keeps pd x) => ?_) ?_; clear_value x; rotate_left; unfold x; clear x)
    | (lift_lets; intro x)
    | intro _
    | simp only [↓keeps_mk]
    | with_reducible apply keeps_ite
    | split)

theorem execTunnelContainerReceive_keeps {pd : Kept} (node : Nat) (body : List Byte) (s : State) (hs : Keeps pd s) :
    KeepsO pd (execTunnelContainerReceive node body s) := by
  unfold execTunnelContainerReceive
  repeat' (first
    | with_reducible assumption
    | with_reducible exact keepsO_fault _
    | with_reducible refine keepsO_next ?_
    | (with_reducible first | apply takeTunnel_keeps))

theorem execReplay_keeps {pd : Kept} (ep : Fin 32) (ok : Bool) (s : State) (hs : Keeps pd s) :
    KeepsO pd (execReplay ep ok s) := by
  unfold execReplay
  repeat' (first
    | with_reducible assumption
    | with_reducible exact keepsO_fault _
    | with_reducible refine keepsO_next ?_
    | (with_reducible first | apply emit_keeps | apply modEp_keeps)
    | intro _
    | simp only [↓keeps_mk]
    | with_reducible apply keeps_ite
    | with_reducible apply keepsO_ite
    | split)

theorem execBusOff_keeps {pd : Kept} (iface : Fin 4) (entered : Bool) (s : State) (hs : Keeps pd s) :
    KeepsO pd (execBusOff iface entered s) := by
  unfold execBusOff
  repeat' (first
    | with_reducible assumption
    | with_reducible exact keepsO_fault _
    | with_reducible refine keepsO_next ?_
    | (with_reducible first | apply tunnelRecord_keeps)
    | ((try lift_lets); intro x; refine (fun (hx : Keeps pd x) => ?_) ?_; clear_value x; rotate_left; unfold x; clear x)
    | (lift_lets; intro x)
    | simp only [↓keeps_mk]
    | intro _
    | with_reducible apply keeps_ite
    | with_reducible apply keepsO_ite)

end Sys2Proof.Machine
end

