-- ==== Sys2Proof/Laws/KeepsRecorder.lean ====
section
/-! SUPPORT. Every operation of Machine/Recorder.lean leaves the queue alone and keeps the memories canonical; one that writes no memory keeps every byte.
-/
namespace Sys2Proof.Machine

theorem takeRecSeq_keeps {pl : List Instr} (s : State) (hs : Keeps (.mk pl none) s) :
    Keeps (.mk pl none) (takeRecSeq s).2 := by
  unfold takeRecSeq
  repeat' (first
    | with_reducible assumption
    | (with_reducible first | apply writeRecControl_keeps)
    | ((try lift_lets); intro x; refine (fun (hx : Keeps (.mk pl none) x) => ?_) ?_; clear_value x; rotate_left; unfold x; clear x)
    | (lift_lets; intro x)
    | simp only [↓keeps_mk]
    | intro _
    | with_reducible apply keeps_ite)

theorem stage_keeps {pl : List Instr} (s : State) (r : RecRecord) (hs : Keeps (.mk pl none) s) :
    Keeps (.mk pl none) (stage s r) := by
  unfold stage
  repeat' (first
    | with_reducible assumption
    | (with_reducible first | apply takeRecSeq_keeps)
    | ((try lift_lets); intro x; refine (fun (hx : Keeps (.mk pl none) x) => ?_) ?_; clear_value x; rotate_left; unfold x; clear x)
    | (lift_lets; intro x)
    | simp only [↓keeps_mk])

theorem moduleRecord_keeps {pl : List Instr} (s : State) (ident : Nat) (words : List Word) (hs : Keeps (.mk pl none) s) :
    Keeps (.mk pl none) (moduleRecord s ident words) := by
  unfold moduleRecord
  repeat' (first
    | with_reducible assumption
    | (with_reducible first | apply stage_keeps)
    | ((try lift_lets); intro x; refine (fun (hx : Keeps (.mk pl none) x) => ?_) ?_; clear_value x; rotate_left; unfold x; clear x)
    | (lift_lets; intro x)
    | simp only [↓keeps_mk]
    | intro _
    | with_reducible apply keeps_ite)

theorem modCount_keeps {pd : Kept} (s : State) (d : Nat) (f : RecCount → RecCount) (hs : Keeps pd s) :
    Keeps pd (modCount s d f) := by
  unfold modCount
  repeat' (first
    | with_reducible assumption
    | ((try lift_lets); intro x; refine (fun (hx : Keeps pd x) => ?_) ?_; clear_value x; rotate_left; unfold x; clear x)
    | (lift_lets; intro x)
    | intro _
    | simp only [↓keeps_mk])

theorem fireDef_keeps {pl : List Instr} (s : State) (d : RecDef) (harvest : DWord) (stepped late : Bool) (hs : Keeps (.mk pl none) s) :
    Keeps (.mk pl none) (fireDef s d harvest stepped late) := by
  unfold fireDef
  repeat' (first
    | with_reducible assumption
    | (with_reducible first | apply modCount_keeps | apply raiseHub_keeps | apply setIrq_keeps | apply stage_keeps | apply zeroReads_keeps)
    | ((try lift_lets); intro x; refine (fun (hx : Keeps (.mk pl none) x) => ?_) ?_; clear_value x; rotate_left; unfold x; clear x)
    | (lift_lets; intro x)
    | intro _
    | simp only [↓keeps_mk]
    | with_reducible apply keeps_ite
    | (with_reducible refine keeps_pair1 (by assumption) ?_)
    | (with_reducible refine keeps_pair2 (by assumption) ?_)
    | (with_reducible refine keeps_pair3 (by assumption) ?_)
    | split)

theorem fireMode_keeps {pl : List Instr} (s : State) (hs : Keeps (.mk pl none) s) :
    Keeps (.mk pl none) (fireMode s) := by
  unfold fireMode
  repeat' (first
    | with_reducible assumption
    | (with_reducible first | apply fireDef_keeps)
    | with_reducible refine keeps_foldl ?_ (fun _ _ _ => ?_)
    | intro _)

theorem fireFault_keeps {pl : List Instr} (s : State) (sev : Nat) (hs : Keeps (.mk pl none) s) :
    Keeps (.mk pl none) (fireFault s sev) := by
  unfold fireFault
  repeat' (first
    | with_reducible assumption
    | (with_reducible first | apply fireDef_keeps)
    | with_reducible refine keeps_foldl ?_ (fun _ _ _ => ?_)
    | intro _
    | with_reducible apply keeps_ite)

theorem fireTrigger_keeps {pl : List Instr} (s : State) (defn : Nat) (stepped late : Bool) (hs : Keeps (.mk pl none) s) :
    Keeps (.mk pl none) (fireTrigger s defn stepped late) := by
  unfold fireTrigger
  repeat' (first
    | with_reducible assumption
    | (with_reducible first | apply fireDef_keeps)
    | with_reducible refine keeps_foldl ?_ (fun _ _ _ => ?_)
    | intro _)

theorem step7_keeps {pl : List Instr} (s : State) (harvest : DWord) (t : Nat) (reqs : List Nat) (hs : Keeps (.mk pl none) s) :
    Keeps (.mk pl none) (step7 s harvest t reqs) := by
  unfold step7
  repeat' (first
    | with_reducible assumption
    | (with_reducible first | apply modTask_keeps | apply fireDef_keeps)
    | with_reducible refine keeps_foldl ?_ (fun _ _ _ => ?_)
    | ((try lift_lets); intro x; refine (fun (hx : Keeps (.mk pl none) x) => ?_) ?_; clear_value x; rotate_left; unfold x; clear x)
    | (lift_lets; intro x)
    | intro _
    | simp only [↓keeps_mk]
    | with_reducible apply keeps_ite)

theorem wantFlush_keeps {pd : Kept} (s : State) (hs : Keeps pd s) :
    Keeps pd (wantFlush s) := by
  unfold wantFlush
  repeat' (first
    | with_reducible assumption
    | simp only [↓keeps_mk])

theorem placePowerfail_keeps {pl : List Instr} (s : State) (hs : Keeps (.mk pl none) s) :
    Keeps (.mk pl none) (placePowerfail s) := by
  unfold placePowerfail
  repeat' (first
    | with_reducible assumption
    | (with_reducible first | apply moduleRecord_keeps)
    | simp only [↓keeps_mk]
    | intro _
    | with_reducible apply keeps_ite
    | split)

theorem moveStaged_keeps {pl : List Instr} (s : State) (hs : Keeps (.mk pl none) s) :
    Keeps (.mk pl none) (moveStaged s) := by
  unfold moveStaged
  repeat' (first
    | with_reducible assumption
    | (with_reducible first | apply stage_keeps | apply wantFlush_keeps | apply placePowerfail_keeps)
    | ((try lift_lets); intro x; refine (fun (hx : Keeps (.mk pl none) x) => ?_) ?_; clear_value x; rotate_left; unfold x; clear x)
    | (lift_lets; intro x)
    | simp only [↓keeps_mk]
    | intro _
    | with_reducible apply keeps_ite
    | split)

theorem startFlush_keeps {pd : Kept} (s : State) (hs : Keeps pd s) :
    Keeps pd (startFlush s) := by
  unfold startFlush
  repeat' (first
    | with_reducible assumption
    | ((try lift_lets); intro x; refine (fun (hx : Keeps pd x) => ?_) ?_; clear_value x; rotate_left; unfold x; clear x)
    | (lift_lets; intro x)
    | simp only [↓keeps_mk]
    | intro _
    | with_reducible apply keeps_ite)

theorem endFlushWaits_keeps {pd : Kept} (s : State) (hs : Keeps pd s) :
    Keeps pd (endFlushWaits s) := by
  unfold endFlushWaits
  repeat' (first
    | with_reducible assumption
    | (with_reducible first | apply resultMb_keeps)
    | with_reducible refine keeps_foldl ?_ (fun _ _ _ => ?_)
    | ((try lift_lets); intro x; refine (fun (hx : Keeps pd x) => ?_) ?_; clear_value x; rotate_left; unfold x; clear x)
    | (lift_lets; intro x)
    | intro _
    | simp only [↓keeps_mk])

theorem writeRecord_keeps {pl : List Instr} (s : State) (hs : Keeps (.mk pl none) s) :
    Keeps (.mk pl none) (writeRecord s) := by
  unfold writeRecord
  repeat' (first
    | with_reducible assumption
    | (with_reducible first | apply setIrq_keeps | apply raiseHub_keeps | apply resultMb_keeps | apply modMram_keeps | apply writeRecControl_keeps | apply endFlushWaits_keeps)
    | with_reducible refine keeps_foldl ?_ (fun _ _ _ => ?_)
    | ((try lift_lets); intro x; refine (fun (hx : Keeps (.mk pl none) x) => ?_) ?_; clear_value x; rotate_left; unfold x; clear x)
    | (lift_lets; intro x)
    | intro _
    | simp only [↓keeps_mk]
    | apply memWrites_wf
    | apply ringWrite_wf
    | assumption
    | with_reducible apply keeps_ite
    | split)

theorem execStagedMove_keeps {pl : List Instr} (s : State) (hs : Keeps (.mk pl none) s) :
    KeepsO (.mk pl none) (execStagedMove s) := by
  unfold execStagedMove
  repeat' (first
    | with_reducible assumption
    | with_reducible exact keepsO_fault _
    | with_reducible refine keepsO_next ?_
    | (with_reducible first | apply moveStaged_keeps))

theorem execFlushStart_keeps {pd : Kept} (s : State) (hs : Keeps pd s) :
    KeepsO pd (execFlushStart s) := by
  unfold execFlushStart
  repeat' (first
    | with_reducible assumption
    | with_reducible exact keepsO_fault _
    | with_reducible refine keepsO_next ?_
    | (with_reducible first | apply startFlush_keeps))

theorem execRecordAge_keeps {pd : Kept} (s : State) (hs : Keeps pd s) :
    KeepsO pd (execRecordAge s) := by
  unfold execRecordAge
  repeat' (first
    | with_reducible assumption
    | with_reducible exact keepsO_fault _
    | with_reducible refine keepsO_next ?_
    | (with_reducible first | apply wantFlush_keeps)
    | intro _
    | with_reducible apply keeps_ite
    | with_reducible apply keepsO_ite)

theorem settleFault_keeps {pl : List Instr} (s : State) (x : FaultRec) (w1 w2 : Bool) (hs : Keeps (.mk pl none) s) :
    Keeps (.mk pl none) (settleFault s x w1 w2) := by
  unfold settleFault
  repeat' (first
    | with_reducible assumption
    | (with_reducible first | apply setFaultQueue_keeps | apply raiseHub_keeps | apply logWrite_keeps | apply fireFault_keeps | apply wantFlush_keeps)
    | ((try lift_lets); intro x; refine (fun (hx : Keeps (.mk pl none) x) => ?_) ?_; clear_value x; rotate_left; unfold x; clear x)
    | (lift_lets; intro x)
    | intro _
    | simp only [↓keeps_mk]
    | with_reducible apply keeps_ite)

theorem finishFault_keeps {pl : List Instr} (s : State) (w1 w2 : Bool) (hs : Keeps (.mk pl none) s) :
    Keeps (.mk pl none) (finishFault s w1 w2) := by
  unfold finishFault
  repeat' (first
    | with_reducible assumption
    | (with_reducible first | apply setFaultQueue_keeps | apply reportFault_keeps | apply settleFault_keeps)
    | ((try lift_lets); intro x; refine (fun (hx : Keeps (.mk pl none) x) => ?_) ?_; clear_value x; rotate_left; unfold x; clear x)
    | (lift_lets; intro x)
    | simp only
    | intro _
    | with_reducible apply keeps_ite
    | split)

theorem handleHub_keeps {pl : List Instr} (s : State) (hold w1 w2 : Bool) (hs : Keeps (.mk pl none) s) :
    Keeps (.mk pl none) (handleHub s hold w1 w2) := by
  unfold handleHub
  repeat' (first
    | with_reducible assumption
    | (with_reducible first | apply setFaultQueue_keeps | apply reportFault_keeps | apply finishFault_keeps)
    | ((try lift_lets); intro x; refine (fun (hx : Keeps (.mk pl none) x) => ?_) ?_; clear_value x; rotate_left; unfold x; clear x)
    | (lift_lets; intro x)
    | simp only
    | intro _
    | with_reducible apply keeps_ite
    | split)

theorem handleLane_keeps {pd : Kept} (s : State) (l : Lane) (hs : Keeps pd s) :
    Keeps pd (handleLane s l) := by
  unfold handleLane
  repeat' (first
    | with_reducible assumption
    | (with_reducible first | apply setFaultQueue_keeps | apply enqueueFault_keeps)
    | simp only [↓keeps_mk]
    | split)

theorem execFaultRecord_keeps {pd : Kept} (f : FaultIn) (s : State) (hs : Keeps pd s) :
    KeepsO pd (execFaultRecord f s) := by
  unfold execFaultRecord
  repeat' (first
    | with_reducible assumption
    | with_reducible exact keepsO_fault _
    | with_reducible refine keepsO_next ?_
    | (with_reducible first | apply raise_keeps))

theorem execFaultHandle_keeps {pl : List Instr} (r : Region) (hold w1 w2 : Bool) (s : State) (hs : Keeps (.mk pl none) s) :
    KeepsO (.mk pl none) (execFaultHandle r hold w1 w2 s) := by
  unfold execFaultHandle
  repeat' (first
    | with_reducible assumption
    | with_reducible exact keepsO_fault _
    | with_reducible refine keepsO_next ?_
    | (with_reducible first | apply handleHub_keeps | apply handleLane_keeps)
    | simp only [↓keeps_mk]
    | split)

theorem execLedgerImbalance_keeps {pd : Kept} (row : Fin 9) (s : State) (hs : Keeps pd s) :
    KeepsO pd (execLedgerImbalance row s) := by
  unfold execLedgerImbalance
  repeat' (first
    | with_reducible assumption
    | with_reducible exact keepsO_fault _
    | with_reducible refine keepsO_next ?_
    | (with_reducible first | apply raiseHub_keeps))

end Sys2Proof.Machine
end

