-- ==== Sys2Proof/Laws/KeepsModes.lean ====
section
/-! SUPPORT. Every operation of Machine/Modes.lean leaves the queue alone and keeps the memories canonical; one that writes no memory keeps every byte.
-/
namespace Sys2Proof.Machine

theorem abandonSwitch_keeps {pd : Kept} (s : State) (hs : Keeps pd s) :
    Keeps pd (abandonSwitch s) := by
  unfold abandonSwitch
  repeat' (first
    | with_reducible assumption
    | (with_reducible first | apply resultMb_keeps)
    | ((try lift_lets); intro x; refine (fun (hx : Keeps pd x) => ?_) ?_; clear_value x; rotate_left; unfold x; clear x)
    | (lift_lets; intro x)
    | simp only [↓keeps_mk]
    | intro _
    | with_reducible apply keeps_ite
    | split)

theorem startPairing_keeps {pd : Kept} (s : State) (hs : Keeps pd s) :
    Keeps pd (startPairing s) := by
  unfold startPairing
  repeat' (first
    | with_reducible assumption
    | simp only [↓keeps_mk])

theorem setMode_keeps {pl : List Instr} (s : State) (m : Mode) (record : Option Nat) (left : Nat) (hs : Keeps (.mk pl none) s) :
    Keeps (.mk pl none) (setMode s m record left) := by
  unfold setMode
  repeat' (first
    | with_reducible assumption
    | (with_reducible first | apply setIrq_keeps | apply raiseHub_keeps | apply ackIrq_keeps | apply fireMode_keeps | apply abandonSwitch_keeps | apply startPairing_keeps)
    | ((try lift_lets); intro x; refine (fun (hx : Keeps (.mk pl none) x) => ?_) ?_; clear_value x; rotate_left; unfold x; clear x)
    | (lift_lets; intro x)
    | simp only [↓keeps_mk]
    | intro _
    | with_reducible apply keeps_ite
    | split)

theorem setLatches_keeps {pd : Kept} (s : State) (hs : Keeps pd s) :
    Keeps pd (setLatches s) := by
  unfold setLatches
  repeat' (first
    | with_reducible assumption
    | (with_reducible first | apply modLanes_keeps)
    | intro _
    | simp only [↓keeps_mk])

theorem failInFlight_keeps {pd : Kept} (s : State) (hs : Keeps pd s) :
    Keeps pd (failInFlight s) := by
  unfold failInFlight
  repeat' (first
    | with_reducible assumption
    | (with_reducible first | apply finishMbAt_keeps)
    | with_reducible refine keeps_foldl ?_ (fun _ _ _ => ?_)
    | ((try lift_lets); intro x; refine (fun (hx : Keeps pd x) => ?_) ?_; clear_value x; rotate_left; unfold x; clear x)
    | (lift_lets; intro x)
    | intro _
    | with_reducible apply keeps_ite)

theorem abortSwap_keeps {pd : Kept} (s : State) (hs : Keeps pd s) :
    Keeps pd (abortSwap s) := by
  unfold abortSwap
  repeat' (first
    | with_reducible assumption
    | (with_reducible first | apply modLanes_keeps | apply finishMb_keeps)
    | ((try lift_lets); intro x; refine (fun (hx : Keeps pd x) => ?_) ?_; clear_value x; rotate_left; unfold x; clear x)
    | (lift_lets; intro x)
    | intro _
    | simp only [↓keeps_mk]
    | simp +zetaDelta only [↓keeps_mk]
    | split
    | (clear_value *; split)
    | (with_reducible refine keeps_pair1 (by assumption) ?_)
    | (with_reducible refine keeps_pair2 (by assumption) ?_)
    | (with_reducible refine keeps_pair3 (by assumption) ?_))

theorem discardActivation_keeps {pd : Kept} (s : State) (hs : Keeps pd s) :
    Keeps pd (discardActivation s) := by
  unfold discardActivation
  repeat' (first
    | with_reducible assumption
    | (with_reducible first | apply finishMb_keeps)
    | ((try lift_lets); intro x; refine (fun (hx : Keeps pd x) => ?_) ?_; clear_value x; rotate_left; unfold x; clear x)
    | (lift_lets; intro x)
    | simp only [↓keeps_mk]
    | intro _
    | with_reducible apply keeps_ite
    | simp +zetaDelta only [↓keeps_mk]
    | split
    | (clear_value *; split)
    | (with_reducible refine keeps_pair1 (by assumption) ?_)
    | (with_reducible refine keeps_pair2 (by assumption) ?_)
    | (with_reducible refine keeps_pair3 (by assumption) ?_))

theorem resetVoter_keeps {pd : Kept} (s : State) (hs : Keeps pd s) :
    Keeps pd (resetVoter s) := by
  unfold resetVoter
  repeat' (first
    | with_reducible assumption
    | intro _
    | simp only [↓keeps_mk])

theorem enterHalted_keeps {pl : List Instr} (s : State) (left : Nat) (hs : Keeps (.mk pl none) s) :
    Keeps (.mk pl none) (enterHalted s left) := by
  unfold enterHalted
  repeat' (first
    | with_reducible assumption
    | (with_reducible first | apply modLanes_keeps | apply ackIrq_keeps | apply setRun_keeps | apply stage_keeps | apply setMode_keeps | apply failInFlight_keeps | apply abortSwap_keeps | apply discardActivation_keeps | apply resetVoter_keeps)
    | with_reducible refine keeps_foldl ?_ (fun _ _ _ => ?_)
    | ((try lift_lets); intro x; refine (fun (hx : Keeps (.mk pl none) x) => ?_) ?_; clear_value x; rotate_left; unfold x; clear x)
    | (lift_lets; intro x)
    | intro _
    | simp only [↓keeps_mk]
    | with_reducible apply keeps_ite)

theorem toExcluded_keeps {pd : Kept} (s : State) (l : Lane) (counts : Bool) (hs : Keeps pd s) :
    Keeps pd (toExcluded s l counts) := by
  unfold toExcluded
  repeat' (first
    | with_reducible assumption
    | (with_reducible first | apply modLane_keeps)
    | ((try lift_lets); intro x; refine (fun (hx : Keeps pd x) => ?_) ?_; clear_value x; rotate_left; unfold x; clear x)
    | (lift_lets; intro x)
    | intro _
    | simp only [↓keeps_mk]
    | with_reducible apply keeps_ite)

theorem resetLanes_keeps {pd : Kept} (s : State) (hs : Keeps pd s) :
    Keeps pd (resetLanes s) := by
  unfold resetLanes
  repeat' (first
    | with_reducible assumption
    | (with_reducible first | apply modLanes_keeps | apply stage_keeps)
    | ((try lift_lets); intro x; refine (fun (hx : Keeps pd x) => ?_) ?_; clear_value x; rotate_left; unfold x; clear x)
    | (lift_lets; intro x)
    | intro _
    | simp only [↓keeps_mk]
    | with_reducible apply keeps_ite)

theorem countRestart_keeps {pd : Kept} (s : State) (hs : Keeps pd s) :
    Keeps pd (countRestart s) := by
  unfold countRestart
  repeat' (first
    | with_reducible assumption
    | ((try lift_lets); intro x; refine (fun (hx : Keeps pd x) => ?_) ?_; clear_value x; rotate_left; unfold x; clear x)
    | (lift_lets; intro x)
    | intro _
    | simp only [↓keeps_mk]
    | with_reducible apply keeps_ite
    | split)

theorem startRestart_keeps {pl : List Instr} (s : State) (hs : Keeps (.mk pl none) s) :
    Keeps (.mk pl none) (startRestart s) := by
  unfold startRestart
  repeat' (first
    | with_reducible assumption
    | (with_reducible first | apply abortSwap_keeps | apply resetVoter_keeps | apply enterHalted_keeps | apply resetLanes_keeps)
    | ((try lift_lets); intro x; refine (fun (hx : Keeps (.mk pl none) x) => ?_) ?_; clear_value x; rotate_left; unfold x; clear x)
    | (lift_lets; intro x)
    | simp only [↓keeps_mk]
    | intro _
    | with_reducible apply keeps_ite)

theorem holdAll_keeps {pd : Kept} (s : State) (hs : Keeps pd s) :
    Keeps pd (holdAll s) := by
  unfold holdAll
  repeat' (first
    | with_reducible assumption
    | (with_reducible first | apply modLanes_keeps | apply abortSwap_keeps | apply resetVoter_keeps)
    | ((try lift_lets); intro x; refine (fun (hx : Keeps pd x) => ?_) ?_; clear_value x; rotate_left; unfold x; clear x)
    | (lift_lets; intro x)
    | intro _
    | simp only [↓keeps_mk]
    | with_reducible apply keeps_ite)

theorem enterSafe_keeps {pl : List Instr} (s : State) (left : Nat := 0) (hs : Keeps (.mk pl none) s) :
    Keeps (.mk pl none) (enterSafe s left) := by
  unfold enterSafe
  repeat' (first
    | with_reducible assumption
    | (with_reducible first | apply countRestart_keeps | apply enterHalted_keeps | apply failInFlight_keeps | apply holdAll_keeps | apply raiseHub_keeps | apply setLatches_keeps | apply setMode_keeps | apply startRestart_keeps)
    | ((try lift_lets); intro x; refine (fun (hx : Keeps (.mk pl none) x) => ?_) ?_; clear_value x; rotate_left; unfold x; clear x)
    | (lift_lets; intro x)
    | intro _
    | simp only [↓keeps_mk]
    | with_reducible apply keeps_ite
    | split)

theorem excludeLane_keeps {pl : List Instr} (s : State) (l : Lane) (event : BitVec 16) (arg0 : Nat) (hs : Keeps (.mk pl none) s) :
    Keeps (.mk pl none) (excludeLane s l event arg0) := by
  unfold excludeLane
  repeat' (first
    | with_reducible assumption
    | (with_reducible first | apply raiseHub_keeps | apply setMode_keeps | apply toExcluded_keeps | apply enterSafe_keeps)
    | ((try lift_lets); intro x; refine (fun (hx : Keeps (.mk pl none) x) => ?_) ?_; clear_value x; rotate_left; unfold x; clear x)
    | (lift_lets; intro x)
    | intro _
    | with_reducible apply keeps_ite)

theorem failRejoin_keeps {pd : Kept} (s : State) (l : Lane) (event : BitVec 16) (arg0 : Nat) (hs : Keeps pd s) :
    Keeps pd (failRejoin s l event arg0) := by
  unfold failRejoin
  repeat' (first
    | with_reducible assumption
    | (with_reducible first | apply raiseHub_keeps | apply toExcluded_keeps))

theorem execSupervisorWatchdog_keeps {pl : List Instr} (s : State) (hs : Keeps (.mk pl none) s) :
    KeepsO (.mk pl none) (execSupervisorWatchdog s) := by
  unfold execSupervisorWatchdog
  repeat' (first
    | with_reducible assumption
    | with_reducible exact keepsO_fault _
    | with_reducible refine keepsO_next ?_
    | (with_reducible first | apply raiseHub_keeps | apply failInFlight_keeps | apply enterHalted_keeps)
    | ((try lift_lets); intro x; refine (fun (hx : Keeps (.mk pl none) x) => ?_) ?_; clear_value x; rotate_left; unfold x; clear x)
    | (lift_lets; intro x)
    | simp only [↓keeps_mk]
    | intro _
    | with_reducible apply keeps_ite
    | with_reducible apply keepsO_ite)

theorem execSupervisorRestarted_keeps {pd : Kept} (s : State) (hs : Keeps pd s) :
    KeepsO pd (execSupervisorRestarted s) := by
  unfold execSupervisorRestarted
  repeat' (first
    | with_reducible assumption
    | with_reducible exact keepsO_fault _
    | with_reducible refine keepsO_next ?_
    | simp only [↓keeps_mk])

theorem execHubThermalTrip_keeps {pl : List Instr} (s : State) (hs : Keeps (.mk pl none) s) :
    KeepsO (.mk pl none) (execHubThermalTrip s) := by
  unfold execHubThermalTrip
  repeat' (first
    | with_reducible assumption
    | with_reducible exact keepsO_fault _
    | with_reducible refine keepsO_next ?_
    | (with_reducible first | apply enterHalted_keeps)
    | intro _
    | with_reducible apply keeps_ite
    | with_reducible apply keepsO_ite)

theorem execLaneThermalTrip_keeps {pl : List Instr} (l : Lane) (s : State) (hs : Keeps (.mk pl none) s) :
    KeepsO (.mk pl none) (execLaneThermalTrip l s) := by
  unfold execLaneThermalTrip
  repeat' (first
    | with_reducible assumption
    | with_reducible exact keepsO_fault _
    | with_reducible refine keepsO_next ?_
    | (with_reducible first | apply modLane_keeps | apply raiseHub_keeps | apply stopLane_keeps | apply enterHalted_keeps | apply toExcluded_keeps | apply failRejoin_keeps)
    | ((try lift_lets); intro x; refine (fun (hx : Keeps (.mk pl none) x) => ?_) ?_; clear_value x; rotate_left; unfold x; clear x)
    | (lift_lets; intro x)
    | intro _
    | simp only [↓keeps_mk]
    | with_reducible apply keeps_ite
    | with_reducible apply keepsO_ite
    | split)

theorem execLaneJunctionCooled_keeps {pd : Kept} (l : Lane) (s : State) (hs : Keeps pd s) :
    KeepsO pd (execLaneJunctionCooled l s) := by
  unfold execLaneJunctionCooled
  repeat' (first
    | with_reducible assumption
    | with_reducible exact keepsO_fault _
    | with_reducible refine keepsO_next ?_
    | (with_reducible first | apply modLane_keeps)
    | intro _
    | simp only [↓keeps_mk])

end Sys2Proof.Machine
end

