-- ==== Sys2Proof/Laws/KeepsTrain.lean ====
section
/-! SUPPORT. Every operation of Machine/Train.lean leaves the queue alone and keeps the memories canonical; one that writes no memory keeps every byte.
-/
namespace Sys2Proof.Machine

theorem modPtp_keeps {pd : Kept} (s : State) (f : Ptp → Ptp) (hs : Keeps pd s) :
    Keeps pd (modPtp s f) := by
  unfold modPtp
  repeat' (first
    | with_reducible assumption
    | simp only [↓keeps_mk])

theorem setPtpState_keeps {pd : Kept} (s : State) (x : PtpState) (hs : Keeps pd s) :
    Keeps pd (setPtpState s x) := by
  unfold setPtpState
  repeat' (first
    | with_reducible assumption
    | (with_reducible first | apply masterHoldover_keeps | apply modPtp_keeps | apply raiseHub_keeps)
    | ((try lift_lets); intro x; refine (fun (hx : Keeps pd x) => ?_) ?_; clear_value x; rotate_left; unfold x; clear x)
    | (lift_lets; intro x)
    | intro _
    | simp only [↓keeps_mk]
    | with_reducible apply keeps_ite
    | split)

theorem restartPtp_keeps {pd : Kept} (s : State) (hs : Keeps pd s) :
    Keeps pd (restartPtp s) := by
  unfold restartPtp
  repeat' (first
    | with_reducible assumption
    | (with_reducible first | apply modPtp_keeps | apply setPtpState_keeps)
    | ((try lift_lets); intro x; refine (fun (hx : Keeps pd x) => ?_) ?_; clear_value x; rotate_left; unfold x; clear x)
    | (lift_lets; intro x)
    | intro _
    | simp only [↓keeps_mk]
    | with_reducible apply keeps_ite)

theorem decidePtp_keeps {pd : Kept} (s : State) (hs : Keeps pd s) :
    Keeps pd (decidePtp s) := by
  unfold decidePtp
  repeat' (first
    | with_reducible assumption
    | (with_reducible first | apply setPtpState_keeps)
    | simp only [↓keeps_mk]
    | intro _
    | with_reducible apply keeps_ite
    | split)

theorem takeAnnounce_keeps {pd : Kept} (s : State) (m : PtpAnnounceMsg) (hs : Keeps pd s) :
    Keeps pd (takeAnnounce s m) := by
  unfold takeAnnounce
  repeat' (first
    | with_reducible assumption
    | (with_reducible first | apply raiseHub_keeps | apply modPtp_keeps | apply decidePtp_keeps)
    | ((try lift_lets); intro x; refine (fun (hx : Keeps pd x) => ?_) ?_; clear_value x; rotate_left; unfold x; clear x)
    | (lift_lets; intro x)
    | intro _
    | simp only [↓keeps_mk]
    | with_reducible apply keeps_ite
    | split)

theorem announceTimeout_keeps {pd : Kept} (s : State) (hs : Keeps pd s) :
    Keeps pd (announceTimeout s) := by
  unfold announceTimeout
  repeat' (first
    | with_reducible assumption
    | (with_reducible first | apply raiseHub_keeps | apply sourceLost_keeps | apply modPtp_keeps | apply setPtpState_keeps)
    | ((try lift_lets); intro x; refine (fun (hx : Keeps pd x) => ?_) ?_; clear_value x; rotate_left; unfold x; clear x)
    | (lift_lets; intro x)
    | intro _
    | simp only [↓keeps_mk]
    | with_reducible apply keeps_ite)

theorem takeSync_keeps {pd : Kept} (s : State) (m : PtpSyncMsg) (hs : Keeps pd s) :
    Keeps pd (takeSync s m) := by
  unfold takeSync
  repeat' (first
    | with_reducible assumption
    | (with_reducible first | apply discipline_keeps | apply moduleSignalEvents_keeps | apply modPtp_keeps)
    | ((try lift_lets); intro x; refine (fun (hx : Keeps pd x) => ?_) ?_; clear_value x; rotate_left; unfold x; clear x)
    | (lift_lets; intro x)
    | intro _
    | simp only [↓keeps_mk]
    | with_reducible apply keeps_ite)

theorem takeDelay_keeps {pd : Kept} (s : State) (m : PtpDelayMsg) (hs : Keeps pd s) :
    Keeps pd (takeDelay s m) := by
  unfold takeDelay
  repeat' (first
    | with_reducible assumption
    | (with_reducible first | apply modPtp_keeps)
    | ((try lift_lets); intro x; refine (fun (hx : Keeps pd x) => ?_) ?_; clear_value x; rotate_left; unfold x; clear x)
    | (lift_lets; intro x)
    | intro _
    | simp only [↓keeps_mk]
    | with_reducible apply keeps_ite)

theorem sendPtp_keeps {pd : Kept} (s : State) (kind : PtpKind) (seq : Nat) (time : Int) (fields : List Int) (hs : Keeps pd s) :
    Keeps pd (sendPtp s kind seq time fields) := by
  unfold sendPtp
  repeat' (first
    | with_reducible assumption
    | (with_reducible first | apply leave_keeps)
    | ((try lift_lets); intro x; refine (fun (hx : Keeps pd x) => ?_) ?_; clear_value x; rotate_left; unfold x; clear x)
    | (lift_lets; intro x)
    | intro _
    | simp only [↓keeps_mk]
    | with_reducible apply keeps_ite
    | split)

theorem masterSend_keeps {pd : Kept} (s : State) (isAnnounce : Bool) (hs : Keeps pd s) :
    Keeps pd (masterSend s isAnnounce) := by
  unfold masterSend
  repeat' (first
    | with_reducible assumption
    | (with_reducible first | apply modPtp_keeps | apply sendPtp_keeps)
    | ((try lift_lets); intro x; refine (fun (hx : Keeps pd x) => ?_) ?_; clear_value x; rotate_left; unfold x; clear x)
    | (lift_lets; intro x)
    | intro _
    | simp only [↓keeps_mk]
    | with_reducible apply keeps_ite
    | split)

theorem delayRequestSend_keeps {pd : Kept} (s : State) (hs : Keeps pd s) :
    Keeps pd (delayRequestSend s) := by
  unfold delayRequestSend
  repeat' (first
    | with_reducible assumption
    | (with_reducible first | apply modPtp_keeps | apply sendPtp_keeps)
    | ((try lift_lets); intro x; refine (fun (hx : Keeps pd x) => ?_) ?_; clear_value x; rotate_left; unfold x; clear x)
    | (lift_lets; intro x)
    | intro _
    | simp only [↓keeps_mk]
    | with_reducible apply keeps_ite
    | split)

theorem delayRequestReceive_keeps {pd : Kept} (s : State) (port : Nat) (r : PtpReq) (t : DWord) (hs : Keeps pd s) :
    Keeps pd (delayRequestReceive s port r t) := by
  unfold delayRequestReceive
  repeat' (first
    | with_reducible assumption
    | (with_reducible first | apply leave_keeps)
    | ((try lift_lets); intro x; refine (fun (hx : Keeps pd x) => ?_) ?_; clear_value x; rotate_left; unfold x; clear x)
    | (lift_lets; intro x)
    | intro _
    | simp only [↓keeps_mk]
    | with_reducible apply keeps_ite
    | split)

theorem portAltMove_keeps {pd : Kept} (s : State) (hs : Keeps pd s) :
    Keeps pd (portAltMove s) := by
  unfold portAltMove
  repeat' (first
    | with_reducible assumption
    | (with_reducible first | apply raiseHub_keeps | apply modPtp_keeps | apply restartPtp_keeps)
    | intro _
    | simp only [↓keeps_mk]
    | with_reducible apply keeps_ite)

theorem portReturn_keeps {pd : Kept} (s : State) (hs : Keeps pd s) :
    Keeps pd (portReturn s) := by
  unfold portReturn
  repeat' (first
    | with_reducible assumption
    | (with_reducible first | apply modPtp_keeps | apply restartPtp_keeps)
    | ((try lift_lets); intro x; refine (fun (hx : Keeps pd x) => ?_) ?_; clear_value x; rotate_left; unfold x; clear x)
    | (lift_lets; intro x)
    | intro _
    | simp only [↓keeps_mk]
    | with_reducible apply keeps_ite)

theorem takeTopology_keeps {pd : Kept} (s : State) (m : TopologyMsg) (hs : Keeps pd s) :
    Keeps pd (takeTopology s m) := by
  unfold takeTopology
  repeat' (first
    | with_reducible assumption
    | (with_reducible first | apply raiseHub_keeps | apply moduleSignalEvents_keeps)
    | ((try lift_lets); intro x; refine (fun (hx : Keeps pd x) => ?_) ?_; clear_value x; rotate_left; unfold x; clear x)
    | (lift_lets; intro x)
    | intro _
    | simp only [↓keeps_mk]
    | with_reducible apply keeps_ite)

theorem topologyTimeout_keeps {pd : Kept} (s : State) (hs : Keeps pd s) :
    Keeps pd (topologyTimeout s) := by
  unfold topologyTimeout
  repeat' (first
    | with_reducible assumption
    | (with_reducible first | apply raiseHub_keeps | apply moduleSignalEvents_keeps)
    | ((try lift_lets); intro x; refine (fun (hx : Keeps pd x) => ?_) ?_; clear_value x; rotate_left; unfold x; clear x)
    | (lift_lets; intro x)
    | simp only [↓keeps_mk]
    | intro _
    | with_reducible apply keeps_ite)

theorem linkChange_keeps {pd : Kept} (s : State) (n speed : Nat) (hs : Keeps pd s) :
    Keeps pd (linkChange s n speed) := by
  unfold linkChange
  repeat' (first
    | with_reducible assumption
    | (with_reducible first | apply moduleSignalEvents_keeps)
    | ((try lift_lets); intro x; refine (fun (hx : Keeps pd x) => ?_) ?_; clear_value x; rotate_left; unfold x; clear x)
    | (lift_lets; intro x)
    | intro _
    | simp only [↓keeps_mk]
    | with_reducible apply keeps_ite)

theorem arpExpire_keeps {pd : Kept} (s : State) (ip : Word) (unresolved : Bool) (hs : Keeps pd s) :
    Keeps pd (arpExpire s ip unresolved) := by
  unfold arpExpire
  repeat' (first
    | with_reducible assumption
    | ((try lift_lets); intro x; refine (fun (hx : Keeps pd x) => ?_) ?_; clear_value x; rotate_left; unfold x; clear x)
    | (lift_lets; intro x)
    | intro _
    | simp only [↓keeps_mk]
    | with_reducible apply keeps_ite)

theorem arpFrame_keeps {pd : Kept} (s : State) (request : Bool) (ip target : Word) (mac : BitVec 48) (hs : Keeps pd s) :
    Keeps pd (arpFrame s request ip target mac) := by
  unfold arpFrame
  repeat' (first
    | with_reducible assumption
    | (with_reducible first | apply leave_keeps)
    | with_reducible refine keeps_foldl ?_ (fun _ _ _ => ?_)
    | ((try lift_lets); intro x; refine (fun (hx : Keeps pd x) => ?_) ?_; clear_value x; rotate_left; unfold x; clear x)
    | (lift_lets; intro x)
    | intro _
    | simp only [↓keeps_mk]
    | with_reducible apply keeps_ite
    | split)

theorem nextPd_keeps {pd : Kept} (s : State) (comId dst : Word) (hs : Keeps pd s) :
    Keeps pd (nextPd s comId dst).2 := by
  unfold nextPd
  repeat' (first
    | with_reducible assumption
    | intro _
    | simp only [↓keeps_mk]
    | with_reducible apply keeps_ite
    | split)

theorem sendPd_keeps {pd : Kept} (s : State) (kind : String) (dst comId : Word) (body : List Byte) (hs : Keeps pd s) :
    Keeps pd (sendPd s kind dst comId body) := by
  unfold sendPd
  repeat' (first
    | with_reducible assumption
    | (with_reducible first | apply sendIp_keeps | apply nextPd_keeps)
    | ((try lift_lets); intro x; refine (fun (hx : Keeps pd x) => ?_) ?_; clear_value x; rotate_left; unfold x; clear x)
    | (lift_lets; intro x)
    | intro _)

theorem sendSafePd_keeps {pd : Kept} (s : State) (g : SigGroup) (hs : Keeps pd s) :
    Keeps pd (sendSafePd s g) := by
  unfold sendSafePd
  repeat' (first
    | with_reducible assumption
    | (with_reducible first | apply nextPd_keeps | apply sendLine_keeps)
    | with_reducible refine keeps_foldl ?_ (fun _ _ _ => ?_)
    | ((try lift_lets); intro x; refine (fun (hx : Keeps pd x) => ?_) ?_; clear_value x; rotate_left; unfold x; clear x)
    | (lift_lets; intro x)
    | intro _
    | simp only [↓keeps_mk]
    | with_reducible apply keeps_ite
    | (with_reducible refine keeps_pair1 (by assumption) ?_)
    | (with_reducible refine keeps_pair2 (by assumption) ?_)
    | (with_reducible refine keeps_pair3 (by assumption) ?_)
    | split)

theorem sendGroupPd_keeps {pd : Kept} (s : State) (g : SigGroup) (hs : Keeps pd s) :
    Keeps pd (sendGroupPd s g) := by
  unfold sendGroupPd
  repeat' (first
    | with_reducible assumption
    | (with_reducible first | apply formGroup_keeps | apply sendPd_keeps | apply sendSafePd_keeps)
    | ((try lift_lets); intro x; refine (fun (hx : Keeps pd x) => ?_) ?_; clear_value x; rotate_left; unfold x; clear x)
    | (lift_lets; intro x)
    | intro _
    | with_reducible apply keeps_ite)

theorem publishTrdp_keeps {pd : Kept} (s : State) (g : Nat) (hs : Keeps pd s) :
    Keeps pd (publishTrdp s g) := by
  unfold publishTrdp
  repeat' (first
    | with_reducible assumption
    | (with_reducible first | apply sendPd_keeps | apply sendGroupPd_keeps)
    | ((try lift_lets); intro x; refine (fun (hx : Keeps pd x) => ?_) ?_; clear_value x; rotate_left; unfold x; clear x)
    | (lift_lets; intro x)
    | simp only [↓keeps_mk]
    | intro _
    | with_reducible apply keeps_ite
    | split)

theorem dropIp_keeps {pd : Kept} (s : State) (h : IpHead) (hs : Keeps pd s) :
    Keeps pd (dropIp s h) := by
  unfold dropIp
  repeat' (first
    | with_reducible assumption
    | ((try lift_lets); intro x; refine (fun (hx : Keeps pd x) => ?_) ?_; clear_value x; rotate_left; unfold x; clear x)
    | (lift_lets; intro x)
    | intro _
    | simp only [↓keeps_mk]
    | with_reducible apply keeps_ite
    | split)

theorem dropPd_keeps {pd : Kept} (s : State) (hs : Keeps pd s) :
    Keeps pd (dropPd s) := by
  unfold dropPd
  repeat' (first
    | with_reducible assumption
    | simp only [↓keeps_mk])

theorem keepSafe_keeps {pd : Kept} (s : State) (conn : Nat) (pb : Bool) (bs : List Byte) (hs : Keeps pd s) :
    Keeps pd (keepSafe s conn pb bs) := by
  unfold keepSafe
  repeat' (first
    | with_reducible assumption
    | ((try lift_lets); intro x; refine (fun (hx : Keeps pd x) => ?_) ?_; clear_value x; rotate_left; unfold x; clear x)
    | (lift_lets; intro x)
    | intro _
    | simp only [↓keeps_mk]
    | with_reducible apply keeps_ite)

theorem safeArrive_keeps {pd : Kept} (s : State) (pb : Bool) (bs : List Byte) (hs : Keeps pd s) :
    Keeps pd (safeArrive s pb bs) := by
  unfold safeArrive
  repeat' (first
    | with_reducible assumption
    | (with_reducible first | apply keepSafe_keeps)
    | intro _
    | simp only [↓keeps_mk]
    | split)

theorem receivePd_keeps {pd : Kept} (s : State) (line : Nat) (h : PdHeader) (data : List Byte) (hs : Keeps pd s) :
    Keeps pd (receivePd s line h data) := by
  unfold receivePd
  repeat' (first
    | with_reducible assumption
    | (with_reducible first | apply dropIp_keeps | apply dropPd_keeps | apply groupArrive_keeps | apply keepSafe_keeps)
    | ((try lift_lets); intro x; refine (fun (hx : Keeps pd x) => ?_) ?_; clear_value x; rotate_left; unfold x; clear x)
    | (lift_lets; intro x)
    | intro _
    | simp only [↓keeps_mk]
    | with_reducible apply keeps_ite
    | split)

theorem receivePr_keeps {pd : Kept} (s : State) (line : Nat) (src : Word) (h : PdHeader) (hs : Keeps pd s) :
    Keeps pd (receivePr s line src h) := by
  unfold receivePr
  repeat' (first
    | with_reducible assumption
    | (with_reducible first | apply dropIp_keeps | apply dropPd_keeps | apply formGroup_keeps | apply sendPd_keeps)
    | ((try lift_lets); intro x; refine (fun (hx : Keeps pd x) => ?_) ?_; clear_value x; rotate_left; unfold x; clear x)
    | (lift_lets; intro x)
    | intro _
    | simp only [↓keeps_mk]
    | with_reducible apply keeps_ite
    | (with_reducible refine keeps_pair1 (by assumption) ?_)
    | (with_reducible refine keeps_pair2 (by assumption) ?_)
    | (with_reducible refine keeps_pair3 (by assumption) ?_)
    | split)

theorem receiveMd_keeps {pd : Kept} (s : State) (src comId : Word) (data : List Byte) (answer : Bool) (hs : Keeps pd s) :
    Keeps pd (receiveMd s src comId data answer) := by
  unfold receiveMd
  repeat' (first
    | with_reducible assumption
    | (with_reducible first | apply raiseHub_keeps | apply sendIp_keeps | apply startMb_keeps | apply finishMbAt_keeps)
    | ((try lift_lets); intro x; refine (fun (hx : Keeps pd x) => ?_) ?_; clear_value x; rotate_left; unfold x; clear x)
    | (lift_lets; intro x)
    | intro _
    | simp only [↓keeps_mk]
    | with_reducible apply keeps_ite)

theorem reassemble_keeps {pd : Kept} (s : State) (src : Word) (x : IpPiece) (bytes : List Byte) (hs : Keeps pd s) :
    Keeps pd (reassemble s src x bytes).2 := by
  unfold reassemble
  repeat' (first
    | with_reducible assumption
    | ((try lift_lets); intro x; refine (fun (hx : Keeps pd x) => ?_) ?_; clear_value x; rotate_left; unfold x; clear x)
    | (lift_lets; intro x)
    | intro _
    | simp only [↓keeps_mk]
    | with_reducible apply keeps_ite
    | (with_reducible refine keeps_pair1 (by assumption) ?_)
    | (with_reducible refine keeps_pair2 (by assumption) ?_)
    | (with_reducible refine keeps_pair3 (by assumption) ?_)
    | split)

theorem arriveMd_keeps {pd : Kept} (s : State) (src comId : Word) (m : MdData) (answer : Bool) (hs : Keeps pd s) :
    Keeps pd (arriveMd s src comId m answer) := by
  unfold arriveMd
  repeat' (first
    | with_reducible assumption
    | (with_reducible first | apply reassemble_keeps | apply receiveMd_keeps)
    | ((try lift_lets); intro x; refine (fun (hx : Keeps pd x) => ?_) ?_; clear_value x; rotate_left; unfold x; clear x)
    | (lift_lets; intro x)
    | intro _
    | simp only [↓keeps_mk]
    | with_reducible apply keeps_ite
    | (with_reducible refine keeps_pair1 (by assumption) ?_)
    | (with_reducible refine keeps_pair2 (by assumption) ?_)
    | (with_reducible refine keeps_pair3 (by assumption) ?_)
    | split)

theorem reassemblyTimeout_keeps {pd : Kept} (s : State) (ident : Nat) (hs : Keeps pd s) :
    Keeps pd (reassemblyTimeout s ident) := by
  unfold reassemblyTimeout
  repeat' (first
    | with_reducible assumption
    | ((try lift_lets); intro x; refine (fun (hx : Keeps pd x) => ?_) ?_; clear_value x; rotate_left; unfold x; clear x)
    | (lift_lets; intro x)
    | intro _
    | simp only [↓keeps_mk]
    | with_reducible apply keeps_ite
    | split)

theorem execPtpSync_keeps {pd : Kept} (m : PtpSyncMsg) (s : State) (hs : Keeps pd s) :
    KeepsO pd (execPtpSync m s) := by
  unfold execPtpSync
  repeat' (first
    | with_reducible assumption
    | with_reducible exact keepsO_fault _
    | with_reducible refine keepsO_next ?_
    | (with_reducible first | apply axisIrq_keeps | apply takeSync_keeps))

theorem execPtpDelayResp_keeps {pd : Kept} (m : PtpDelayMsg) (s : State) (hs : Keeps pd s) :
    KeepsO pd (execPtpDelayResp m s) := by
  unfold execPtpDelayResp
  repeat' (first
    | with_reducible assumption
    | with_reducible exact keepsO_fault _
    | with_reducible refine keepsO_next ?_
    | (with_reducible first | apply takeDelay_keeps))

theorem execAnnounce_keeps {pd : Kept} (m : PtpAnnounceMsg) (s : State) (hs : Keeps pd s) :
    KeepsO pd (execAnnounce m s) := by
  unfold execAnnounce
  repeat' (first
    | with_reducible assumption
    | with_reducible exact keepsO_fault _
    | with_reducible refine keepsO_next ?_
    | (with_reducible first | apply takeAnnounce_keeps))

theorem execAnnounceReceiptTimeout_keeps {pd : Kept} (s : State) (hs : Keeps pd s) :
    KeepsO pd (execAnnounceReceiptTimeout s) := by
  unfold execAnnounceReceiptTimeout
  repeat' (first
    | with_reducible assumption
    | with_reducible exact keepsO_fault _
    | with_reducible refine keepsO_next ?_
    | (with_reducible first | apply announceTimeout_keeps))

theorem execPortAltMove_keeps {pd : Kept} (s : State) (hs : Keeps pd s) :
    KeepsO pd (execPortAltMove s) := by
  unfold execPortAltMove
  repeat' (first
    | with_reducible assumption
    | with_reducible exact keepsO_fault _
    | with_reducible refine keepsO_next ?_
    | (with_reducible first | apply portAltMove_keeps))

theorem execPortReturn_keeps {pd : Kept} (s : State) (hs : Keeps pd s) :
    KeepsO pd (execPortReturn s) := by
  unfold execPortReturn
  repeat' (first
    | with_reducible assumption
    | with_reducible exact keepsO_fault _
    | with_reducible refine keepsO_next ?_
    | (with_reducible first | apply portReturn_keeps))

theorem execPtpMasterSend_keeps {pd : Kept} (isAnnounce : Bool) (s : State) (hs : Keeps pd s) :
    KeepsO pd (execPtpMasterSend isAnnounce s) := by
  unfold execPtpMasterSend
  repeat' (first
    | with_reducible assumption
    | with_reducible exact keepsO_fault _
    | with_reducible refine keepsO_next ?_
    | (with_reducible first | apply masterSend_keeps))

theorem execPtpDelayRequestSend_keeps {pd : Kept} (s : State) (hs : Keeps pd s) :
    KeepsO pd (execPtpDelayRequestSend s) := by
  unfold execPtpDelayRequestSend
  repeat' (first
    | with_reducible assumption
    | with_reducible exact keepsO_fault _
    | with_reducible refine keepsO_next ?_
    | (with_reducible first | apply delayRequestSend_keeps))

theorem execPtpDelayRequestReceive_keeps {pd : Kept} (port : Nat) (req : PtpReq) (t : DWord) (s : State) (hs : Keeps pd s) :
    KeepsO pd (execPtpDelayRequestReceive port req t s) := by
  unfold execPtpDelayRequestReceive
  repeat' (first
    | with_reducible assumption
    | with_reducible exact keepsO_fault _
    | with_reducible refine keepsO_next ?_
    | (with_reducible first | apply delayRequestReceive_keeps)
    | ((try lift_lets); intro x; refine (fun (hx : Keeps pd x) => ?_) ?_; clear_value x; rotate_left; unfold x; clear x)
    | (lift_lets; intro x)
    | intro _
    | simp only [↓keeps_mk]
    | with_reducible apply keeps_ite
    | with_reducible apply keepsO_ite
    | split)

theorem execTopology_keeps {pd : Kept} (line : Fin 2) (m : TopologyMsg) (s : State) (hs : Keeps pd s) :
    KeepsO pd (execTopology line m s) := by
  unfold execTopology
  repeat' (first
    | with_reducible assumption
    | with_reducible exact keepsO_fault _
    | with_reducible refine keepsO_next ?_
    | (with_reducible first | apply takeTopology_keeps)
    | intro _
    | with_reducible apply keeps_ite
    | with_reducible apply keepsO_ite)

theorem execTopologyTimeout_keeps {pd : Kept} (s : State) (hs : Keeps pd s) :
    KeepsO pd (execTopologyTimeout s) := by
  unfold execTopologyTimeout
  repeat' (first
    | with_reducible assumption
    | with_reducible exact keepsO_fault _
    | with_reducible refine keepsO_next ?_
    | (with_reducible first | apply topologyTimeout_keeps))

theorem execEthernetLinkChange_keeps {pd : Kept} (port : Fin 11) (speed : Nat) (s : State) (hs : Keeps pd s) :
    KeepsO pd (execEthernetLinkChange port speed s) := by
  unfold execEthernetLinkChange
  repeat' (first
    | with_reducible assumption
    | with_reducible exact keepsO_fault _
    | with_reducible refine keepsO_next ?_
    | (with_reducible first | apply linkChange_keeps))

theorem execArpExpiry_keeps {pd : Kept} (ip : Word) (unresolved : Bool) (s : State) (hs : Keeps pd s) :
    KeepsO pd (execArpExpiry ip unresolved s) := by
  unfold execArpExpiry
  repeat' (first
    | with_reducible assumption
    | with_reducible exact keepsO_fault _
    | with_reducible refine keepsO_next ?_
    | (with_reducible first | apply arpExpire_keeps))

theorem execReassemblyTimeout_keeps {pd : Kept} (id : Nat) (s : State) (hs : Keeps pd s) :
    KeepsO pd (execReassemblyTimeout id s) := by
  unfold execReassemblyTimeout
  repeat' (first
    | with_reducible assumption
    | with_reducible exact keepsO_fault _
    | with_reducible refine keepsO_next ?_
    | (with_reducible first | apply reassemblyTimeout_keeps)
    | ((try lift_lets); intro x; refine (fun (hx : Keeps pd x) => ?_) ?_; clear_value x; rotate_left; unfold x; clear x)
    | (lift_lets; intro x)
    | intro _
    | simp only [↓keeps_mk]
    | with_reducible apply keeps_ite
    | with_reducible apply keepsO_ite
    | split)

theorem execArpFrame_keeps {pd : Kept} (request : Bool) (ip target : Word) (mac : BitVec 48) (s : State) (hs : Keeps pd s) :
    KeepsO pd (execArpFrame request ip target mac s) := by
  unfold execArpFrame
  repeat' (first
    | with_reducible assumption
    | with_reducible exact keepsO_fault _
    | with_reducible refine keepsO_next ?_
    | (with_reducible first | apply arpFrame_keeps))

theorem execIcmpEchoRequest_keeps {pd : Kept} (src dst : Word) (data : EchoMsg) (s : State) (hs : Keeps pd s) :
    KeepsO pd (execIcmpEchoRequest src dst data s) := by
  unfold execIcmpEchoRequest
  repeat' (first
    | with_reducible assumption
    | with_reducible exact keepsO_fault _
    | with_reducible refine keepsO_next ?_
    | (with_reducible first | apply dropIp_keeps | apply sendIp_keeps)
    | ((try lift_lets); intro x; refine (fun (hx : Keeps pd x) => ?_) ?_; clear_value x; rotate_left; unfold x; clear x)
    | (lift_lets; intro x)
    | intro _
    | simp only [↓keeps_mk]
    | with_reducible apply keeps_ite
    | with_reducible apply keepsO_ite
    | split)

theorem execIgmpQuery_keeps {pd : Kept} (line : Fin 3) (s : State) (hs : Keeps pd s) :
    KeepsO pd (execIgmpQuery line s) := by
  unfold execIgmpQuery
  repeat' (first
    | with_reducible assumption
    | with_reducible exact keepsO_fault _
    | with_reducible refine keepsO_next ?_
    | (with_reducible first | apply leave_keeps)
    | with_reducible refine keeps_foldl ?_ (fun _ _ _ => ?_)
    | ((try lift_lets); intro x; refine (fun (hx : Keeps pd x) => ?_) ?_; clear_value x; rotate_left; unfold x; clear x)
    | (lift_lets; intro x)
    | intro _
    | simp only [↓keeps_mk]
    | with_reducible apply keeps_ite
    | with_reducible apply keepsO_ite
    | split)

theorem execTrdpPdReceive_keeps {pd : Kept} (line : Fin 3) (h : PdHeader) (data : List Byte) (s : State) (hs : Keeps pd s) :
    KeepsO pd (execTrdpPdReceive line h data s) := by
  unfold execTrdpPdReceive
  repeat' (first
    | with_reducible assumption
    | with_reducible exact keepsO_fault _
    | with_reducible refine keepsO_next ?_
    | (with_reducible first | apply receivePd_keeps))

theorem execTrdpPrReceive_keeps {pd : Kept} (line : Fin 3) (src : Word) (h : PdHeader) (s : State) (hs : Keeps pd s) :
    KeepsO pd (execTrdpPrReceive line src h s) := by
  unfold execTrdpPrReceive
  repeat' (first
    | with_reducible assumption
    | with_reducible exact keepsO_fault _
    | with_reducible refine keepsO_next ?_
    | (with_reducible first | apply receivePr_keeps))

theorem execTrdpPublish_keeps {pd : Kept} (g : Nat) (s : State) (hs : Keeps pd s) :
    KeepsO pd (execTrdpPublish g s) := by
  unfold execTrdpPublish
  repeat' (first
    | with_reducible assumption
    | with_reducible exact keepsO_fault _
    | with_reducible refine keepsO_next ?_
    | (with_reducible first | apply publishTrdp_keeps))

theorem execTrdpMrReceive_keeps {pd : Kept} (src comId : Word) (data : MdData) (s : State) (hs : Keeps pd s) :
    KeepsO pd (execTrdpMrReceive src comId data s) := by
  unfold execTrdpMrReceive
  repeat' (first
    | with_reducible assumption
    | with_reducible exact keepsO_fault _
    | with_reducible refine keepsO_next ?_
    | (with_reducible first | apply arriveMd_keeps)
    | ((try lift_lets); intro x; refine (fun (hx : Keeps pd x) => ?_) ?_; clear_value x; rotate_left; unfold x; clear x)
    | (lift_lets; intro x)
    | intro _
    | simp only [↓keeps_mk]
    | with_reducible apply keeps_ite
    | with_reducible apply keepsO_ite
    | split)

theorem execTrdpMnReceive_keeps {pd : Kept} (src comId : Word) (data : MdData) (s : State) (hs : Keeps pd s) :
    KeepsO pd (execTrdpMnReceive src comId data s) := by
  unfold execTrdpMnReceive
  repeat' (first
    | with_reducible assumption
    | with_reducible exact keepsO_fault _
    | with_reducible refine keepsO_next ?_
    | (with_reducible first | apply arriveMd_keeps)
    | ((try lift_lets); intro x; refine (fun (hx : Keeps pd x) => ?_) ?_; clear_value x; rotate_left; unfold x; clear x)
    | (lift_lets; intro x)
    | intro _
    | simp only [↓keeps_mk]
    | with_reducible apply keeps_ite
    | with_reducible apply keepsO_ite
    | split)

theorem execSafeTelegramReceive_keeps {pd : Kept} (p : Plane) (bytes : List Byte) (s : State) (hs : Keeps pd s) :
    KeepsO pd (execSafeTelegramReceive p bytes s) := by
  unfold execSafeTelegramReceive
  repeat' (first
    | with_reducible assumption
    | with_reducible exact keepsO_fault _
    | with_reducible refine keepsO_next ?_
    | (with_reducible first | apply safeArrive_keeps)
    | simp only [↓keeps_mk]
    | split)

end Sys2Proof.Machine
end

