-- ==== Sys2Proof/Laws/KeepsPower.lean ====
section
/-! SUPPORT. Every operation of Machine/Power.lean leaves the queue alone and keeps the memories canonical; one that writes no memory keeps every byte.
-/
namespace Sys2Proof.Machine

theorem latchPwr_keeps {pd : Kept} (s : State) (hs : Keeps pd s) :
    Keeps pd (latchPwr s) := by
  unfold latchPwr
  repeat' (first
    | with_reducible assumption
    | ((try lift_lets); intro x; refine (fun (hx : Keeps pd x) => ?_) ?_; clear_value x; rotate_left; unfold x; clear x)
    | (lift_lets; intro x)
    | simp only [↓keeps_mk])

theorem powerRecord_keeps {pd : Kept} (s : State) (sev : Nat) (code : BitVec 16) (loc arg0 : Nat) (hs : Keeps pd s) :
    Keeps pd (powerRecord s sev code loc arg0) := by
  unfold powerRecord
  repeat' (first
    | with_reducible assumption
    | (with_reducible first | apply raiseHub_keeps)
    | simp only [↓keeps_mk]
    | intro _
    | with_reducible apply keeps_ite)

theorem powerDone_keeps {pd : Kept} (s0 s : State) (hs : Keeps pd s) :
    Keeps pd (powerDone s0 s) := by
  unfold powerDone
  repeat' (first
    | with_reducible assumption
    | (with_reducible first | apply setIrqIf_keeps | apply latchPwr_keeps | apply powerRecord_keeps)
    | ((try lift_lets); intro x; refine (fun (hx : Keeps pd x) => ?_) ?_; clear_value x; rotate_left; unfold x; clear x)
    | (lift_lets; intro x)
    | simp only [↓keeps_mk]
    | intro _
    | with_reducible apply keeps_ite)

theorem fieldOff_keeps {pd : Kept} (s : State) (hs : Keeps pd s) :
    Keeps pd (fieldOff s) := by
  unfold fieldOff
  repeat' (first
    | with_reducible assumption
    | (with_reducible first | apply abandonTests_keeps | apply answerChTest_keeps | apply endTest_keeps)
    | with_reducible refine keeps_foldl ?_ (fun _ _ _ => ?_)
    | ((try lift_lets); intro x; refine (fun (hx : Keeps pd x) => ?_) ?_; clear_value x; rotate_left; unfold x; clear x)
    | (lift_lets; intro x)
    | intro _
    | simp only [↓keeps_mk]
    | with_reducible apply keeps_ite
    | (with_reducible refine keeps_pair1 (by assumption) ?_)
    | (with_reducible refine keeps_pair2 (by assumption) ?_)
    | (with_reducible refine keeps_pair3 (by assumption) ?_)
    | split)

theorem lanesOff_keeps {pd : Kept} (s : State) (hs : Keeps pd s) :
    Keeps pd (lanesOff s) := by
  unfold lanesOff
  repeat' (first
    | with_reducible assumption
    | (with_reducible first | apply modLanes_keeps | apply stage_keeps | apply resetVoter_keeps)
    | ((try lift_lets); intro x; refine (fun (hx : Keeps pd x) => ?_) ?_; clear_value x; rotate_left; unfold x; clear x)
    | (lift_lets; intro x)
    | intro _
    | simp only [↓keeps_mk]
    | with_reducible apply keeps_ite)

theorem soundOff_keeps {pd : Kept} (s : State) (hs : Keeps pd s) :
    Keeps pd (soundOff s) := by
  unfold soundOff
  repeat' (first
    | with_reducible assumption
    | simp only [↓keeps_mk])

theorem netOff_keeps {pd : Kept} (s : State) (hs : Keeps pd s) :
    Keeps pd (netOff s) := by
  unfold netOff
  repeat' (first
    | with_reducible assumption
    | (with_reducible first | apply moduleSignalEvents_keeps | apply resultMb_keeps)
    | ((try lift_lets); intro x; refine (fun (hx : Keeps pd x) => ?_) ?_; clear_value x; rotate_left; unfold x; clear x)
    | (lift_lets; intro x)
    | intro _
    | simp only [↓keeps_mk]
    | with_reducible apply keeps_ite
    | split)

theorem hubReset_keeps {pd : Kept} (s : State) (hs : Keeps pd s) :
    Keeps pd (hubReset s) := by
  unfold hubReset
  repeat' (first
    | with_reducible assumption
    | simp only [↓keeps_mk])

theorem drainRecorder_keeps {pl : List Instr} (y0 : Nat) (y1 : State) (hy1 : Keeps (.mk pl none) y1) :
    Keeps (.mk pl none) (drainRecorder y0 y1) := by
  induction y0 generalizing y1 with
  | zero => exact hy1
  | succ k ih =>
  unfold drainRecorder
  repeat' (first
    | with_reducible assumption
    | (with_reducible apply ih)
    | (with_reducible refine keeps_pair2 (by assumption) ?_)
    | (with_reducible first | apply wantFlush_keeps | apply moveStaged_keeps | apply startFlush_keeps | apply writeRecord_keeps)
    | intro _)

theorem drainFaults_keeps {pl : List Instr} (y0 : Nat) (y1 : State) (hy1 : Keeps (.mk pl none) y1) :
    Keeps (.mk pl none) (drainFaults y0 y1) := by
  induction y0 generalizing y1 with
  | zero => exact hy1
  | succ k ih =>
  unfold drainFaults
  repeat' (first
    | with_reducible assumption
    | (with_reducible apply ih)
    | (with_reducible refine keeps_pair2 (by assumption) ?_)
    | (with_reducible first | apply handleHub_keeps | apply handleLane_keeps)
    | intro _)

theorem forceRecord_keeps {pl : List Instr} (s : State) (cause : Nat) (f : Force) (hs : Keeps (.mk pl none) s) :
    Keeps (.mk pl none) (forceRecord s cause f) := by
  unfold forceRecord
  repeat' (first
    | with_reducible assumption
    | (with_reducible first | apply moduleRecord_keeps))

theorem dropForces_keeps {pl : List Instr} (s : State) (cause : Nat) (p : Force → Bool) (hs : Keeps (.mk pl none) s) :
    Keeps (.mk pl none) (dropForces s cause p) := by
  unfold dropForces
  repeat' (first
    | with_reducible assumption
    | (with_reducible first | apply setIrq_keeps | apply forceRecord_keeps)
    | with_reducible refine keeps_foldl ?_ (fun _ _ _ => ?_)
    | ((try lift_lets); intro x; refine (fun (hx : Keeps (.mk pl none) x) => ?_) ?_; clear_value x; rotate_left; unfold x; clear x)
    | (lift_lets; intro x)
    | intro _
    | simp only [↓keeps_mk]
    | with_reducible apply keeps_ite)

theorem readControl_keeps {pd : Kept} (s : State) (hs : Keeps pd s) :
    Keeps pd (readControl s) := by
  unfold readControl
  repeat' (first
    | with_reducible assumption
    | (with_reducible first | apply enterEarly_keeps | apply loadRecorder_keeps | apply loadLog_keeps)
    | intro _
    | with_reducible apply keeps_ite)

theorem hubOff_keeps {pl : List Instr} (s : State) (hs : Keeps (.mk pl none) s) :
    Keeps (.mk pl none) (hubOff s) := by
  unfold hubOff
  repeat' (first
    | with_reducible assumption
    | (with_reducible first | apply writeLogControl_keeps | apply hubReset_keeps | apply drainRecorder_keeps | apply drainFaults_keeps | apply dropForces_keeps | apply readControl_keeps)
    | ((try lift_lets); intro x; refine (fun (hx : Keeps (.mk pl none) x) => ?_) ?_; clear_value x; rotate_left; unfold x; clear x)
    | (lift_lets; intro x)
    | intro _
    | simp only [↓keeps_mk])

theorem startStep_keeps {pd : Kept} (s : State) (k : Nat) (hs : Keeps pd s) :
    Keeps pd (startStep s k) := by
  unfold startStep
  repeat' (first
    | with_reducible assumption
    | (with_reducible first | apply modLanes_keeps | apply abandonTests_keeps | apply wantFlush_keeps | apply startFlush_keeps)
    | ((try lift_lets); intro x; refine (fun (hx : Keeps pd x) => ?_) ?_; clear_value x; rotate_left; unfold x; clear x)
    | (lift_lets; intro x)
    | intro _
    | simp only [↓keeps_mk]
    | split)

theorem beginShed_keeps {pd : Kept} (s : State) (m : BitVec 8) (hs : Keeps pd s) :
    Keeps pd (beginShed s m) := by
  unfold beginShed
  repeat' (first
    | with_reducible assumption
    | (with_reducible first | apply startStep_keeps)
    | simp only [↓keeps_mk]
    | split)

theorem reviewIdle_keeps {pd : Kept} (s : State) (hs : Keeps pd s) :
    Keeps pd (reviewIdle s) := by
  unfold reviewIdle
  repeat' (first
    | with_reducible assumption
    | (with_reducible first | apply beginShed_keeps)
    | ((try lift_lets); intro x; refine (fun (hx : Keeps pd x) => ?_) ?_; clear_value x; rotate_left; unfold x; clear x)
    | (lift_lets; intro x)
    | simp only [↓keeps_mk]
    | intro _
    | with_reducible apply keeps_ite)

theorem review_keeps {pd : Kept} (s : State) (hs : Keeps pd s) :
    Keeps pd (review s) := by
  unfold review
  repeat' (first
    | with_reducible assumption
    | (with_reducible first | apply powerDone_keeps | apply reviewIdle_keeps)
    | ((try lift_lets); intro x; refine (fun (hx : Keeps pd x) => ?_) ?_; clear_value x; rotate_left; unfold x; clear x)
    | (lift_lets; intro x)
    | simp only [↓keeps_mk]
    | intro _
    | with_reducible apply keeps_ite
    | split)

theorem markStuck_keeps {pd : Kept} (s : State) (hs : Keeps pd s) :
    Keeps pd (markStuck s) := by
  unfold markStuck
  repeat' (first
    | with_reducible assumption
    | (with_reducible first | apply powerRecord_keeps)
    | with_reducible refine keeps_foldl ?_ (fun _ _ _ => ?_)
    | ((try lift_lets); intro x; refine (fun (hx : Keeps pd x) => ?_) ?_; clear_value x; rotate_left; unfold x; clear x)
    | (lift_lets; intro x)
    | intro _
    | simp only [↓keeps_mk]
    | with_reducible apply keeps_ite)

theorem stepWork_keeps {pl : List Instr} (s : State) (k : Nat) (m : Byte) (hs : Keeps (.mk pl none) s) :
    Keeps (.mk pl none) (stepWork s k m) := by
  unfold stepWork
  repeat' (first
    | with_reducible assumption
    | (with_reducible first | apply fieldOff_keeps | apply lanesOff_keeps | apply soundOff_keeps | apply netOff_keeps | apply hubOff_keeps)
    | with_reducible refine keeps_foldl ?_ (fun _ _ _ => ?_)
    | ((try lift_lets); intro x; refine (fun (hx : Keeps (.mk pl none) x) => ?_) ?_; clear_value x; rotate_left; unfold x; clear x)
    | (lift_lets; intro x)
    | intro _
    | simp only [↓keeps_mk]
    | with_reducible apply keeps_ite)

theorem stepEnd_keeps {pd : Kept} (s : State) (k : Nat) (m : Byte) (hs : Keeps pd s) :
    Keeps pd (stepEnd s k m) := by
  unfold stepEnd
  repeat' (first
    | with_reducible assumption
    | (with_reducible first | apply beginShed_keeps | apply reviewIdle_keeps | apply markStuck_keeps)
    | ((try lift_lets); intro x; refine (fun (hx : Keeps pd x) => ?_) ?_; clear_value x; rotate_left; unfold x; clear x)
    | (lift_lets; intro x)
    | simp only [↓keeps_mk]
    | intro _
    | with_reducible apply keeps_ite)

theorem endStep_keeps {pl : List Instr} (s : State) (k : Nat) (hs : Keeps (.mk pl none) s) :
    Keeps (.mk pl none) (endStep s k) := by
  unfold endStep
  repeat' (first
    | with_reducible assumption
    | (with_reducible first | apply powerDone_keeps | apply stepWork_keeps | apply stepEnd_keeps)
    | ((try lift_lets); intro x; refine (fun (hx : Keeps (.mk pl none) x) => ?_) ?_; clear_value x; rotate_left; unfold x; clear x)
    | (lift_lets; intro x))

theorem execDomainShedStep_keeps {pl : List Instr} (s : State) (hs : Keeps (.mk pl none) s) :
    KeepsO (.mk pl none) (execDomainShedStep s) := by
  unfold execDomainShedStep
  repeat' (first
    | with_reducible assumption
    | with_reducible exact keepsO_fault _
    | with_reducible refine keepsO_next ?_
    | (with_reducible first | apply endStep_keeps)
    | simp only [↓keeps_mk]
    | split)

theorem shedAtStep8_keeps {pd : Kept} (s : State) (hs : Keeps pd s) :
    Keeps pd (shedAtStep8 s) := by
  unfold shedAtStep8
  repeat' (first
    | with_reducible assumption
    | (with_reducible first | apply powerDone_keeps | apply beginShed_keeps | apply reviewIdle_keeps)
    | ((try lift_lets); intro x; refine (fun (hx : Keeps pd x) => ?_) ?_; clear_value x; rotate_left; unfold x; clear x)
    | (lift_lets; intro x)
    | intro _
    | with_reducible apply keeps_ite)

theorem setVote_keeps {pd : Kept} (s : State) (client : Nat) (mask : Byte) (hs : Keeps pd s) :
    Keeps pd (setVote s client mask) := by
  unfold setVote
  repeat' (first
    | with_reducible assumption
    | (with_reducible first | apply review_keeps)
    | intro _
    | simp only [↓keeps_mk]
    | with_reducible apply keeps_ite)

theorem wake_keeps {pd : Kept} (s : State) (cause : Nat) (inputs : Byte) (hs : Keeps pd s) :
    Keeps pd (wake s cause inputs) := by
  unfold wake
  repeat' (first
    | with_reducible assumption
    | (with_reducible first | apply powerRecord_keeps | apply setVote_keeps)
    | ((try lift_lets); intro x; refine (fun (hx : Keeps pd x) => ?_) ?_; clear_value x; rotate_left; unfold x; clear x)
    | (lift_lets; intro x)
    | simp only [↓keeps_mk]
    | intro _
    | with_reducible apply keeps_ite)

theorem execWakePortStop_keeps {pd : Kept} (tx : WakeTx) (s : State) (hs : Keeps pd s) :
    KeepsO pd (execWakePortStop tx s) := by
  unfold execWakePortStop
  repeat' (first
    | with_reducible assumption
    | with_reducible exact keepsO_fault _
    | with_reducible refine keepsO_next ?_
    | (with_reducible first | apply emit_keeps | apply setVote_keeps | apply wake_keeps)
    | ((try lift_lets); intro x; refine (fun (hx : Keeps pd x) => ?_) ?_; clear_value x; rotate_left; unfold x; clear x)
    | (lift_lets; intro x)
    | simp only
    | intro _
    | with_reducible apply keeps_ite
    | with_reducible apply keepsO_ite
    | split)

theorem execWakeInput_keeps {pd : Kept} (ch : Fin 8) (s : State) (hs : Keeps pd s) :
    KeepsO pd (execWakeInput ch s) := by
  unfold execWakeInput
  repeat' (first
    | with_reducible assumption
    | with_reducible exact keepsO_fault _
    | with_reducible refine keepsO_next ?_
    | (with_reducible first | apply wake_keeps)
    | ((try lift_lets); intro x; refine (fun (hx : Keeps pd x) => ?_) ?_; clear_value x; rotate_left; unfold x; clear x)
    | (lift_lets; intro x)
    | simp only [↓keeps_mk]
    | intro _
    | with_reducible apply keeps_ite
    | with_reducible apply keepsO_ite)

theorem execWakeStuckClear_keeps {pd : Kept} (ch : Fin 8) (s : State) (hs : Keeps pd s) :
    KeepsO pd (execWakeStuckClear ch s) := by
  unfold execWakeStuckClear
  repeat' (first
    | with_reducible assumption
    | with_reducible exact keepsO_fault _
    | with_reducible refine keepsO_next ?_
    | ((try lift_lets); intro x; refine (fun (hx : Keeps pd x) => ?_) ?_; clear_value x; rotate_left; unfold x; clear x)
    | (lift_lets; intro x)
    | simp only [↓keeps_mk])

theorem execAonTick_keeps {pd : Kept} (s : State) (hs : Keeps pd s) :
    KeepsO pd (execAonTick s) := by
  unfold execAonTick
  repeat' (first
    | with_reducible assumption
    | with_reducible exact keepsO_fault _
    | with_reducible refine keepsO_next ?_
    | (with_reducible first | apply tick_keeps | apply wake_keeps)
    | intro _
    | with_reducible apply keeps_ite
    | with_reducible apply keepsO_ite)

theorem execWakeFrame_keeps {pd : Kept} (payload : List Byte) (s : State) (hs : Keeps pd s) :
    KeepsO pd (execWakeFrame payload s) := by
  unfold execWakeFrame
  repeat' (first
    | with_reducible assumption
    | with_reducible exact keepsO_fault _
    | with_reducible refine keepsO_next ?_
    | (with_reducible first | apply setVote_keeps | apply wake_keeps)
    | simp only [↓keeps_mk]
    | intro _
    | with_reducible apply keeps_ite
    | with_reducible apply keepsO_ite)

theorem execWakeHoldExpiry_keeps {pd : Kept} (s : State) (hs : Keeps pd s) :
    KeepsO pd (execWakeHoldExpiry s) := by
  unfold execWakeHoldExpiry
  repeat' (first
    | with_reducible assumption
    | with_reducible exact keepsO_fault _
    | with_reducible refine keepsO_next ?_
    | (with_reducible first | apply setVote_keeps))

theorem execPartnerVoteLoss_keeps {pd : Kept} (s : State) (hs : Keeps pd s) :
    KeepsO pd (execPartnerVoteLoss s) := by
  unfold execPartnerVoteLoss
  repeat' (first
    | with_reducible assumption
    | with_reducible exact keepsO_fault _
    | with_reducible refine keepsO_next ?_
    | (with_reducible first | apply setVote_keeps)
    | intro _
    | with_reducible apply keeps_ite
    | with_reducible apply keepsO_ite)

theorem execMinOnExpiry_keeps {pd : Kept} (d : Fin 5) (s : State) (hs : Keeps pd s) :
    KeepsO pd (execMinOnExpiry d s) := by
  unfold execMinOnExpiry
  repeat' (first
    | with_reducible assumption
    | with_reducible exact keepsO_fault _
    | with_reducible refine keepsO_next ?_
    | (with_reducible first | apply review_keeps)
    | ((try lift_lets); intro x; refine (fun (hx : Keeps pd x) => ?_) ?_; clear_value x; rotate_left; unfold x; clear x)
    | (lift_lets; intro x)
    | simp only [↓keeps_mk]
    | intro _
    | with_reducible apply keeps_ite
    | with_reducible apply keepsO_ite)

theorem execDutyWatchCycle_keeps {pd : Kept} (mv : List (List Nat)) (bs : List Bool) (s : State) (hs : Keeps pd s) :
    KeepsO pd (execDutyWatchCycle mv bs s) := by
  unfold execDutyWatchCycle
  repeat' (first
    | with_reducible assumption
    | with_reducible exact keepsO_fault _
    | with_reducible refine keepsO_next ?_
    | (with_reducible first | apply wake_keeps)
    | ((try lift_lets); intro x; refine (fun (hx : Keeps pd x) => ?_) ?_; clear_value x; rotate_left; unfold x; clear x)
    | (lift_lets; intro x)
    | intro _
    | with_reducible apply keeps_ite
    | with_reducible apply keepsO_ite)

theorem restored_keeps {pd : Kept} (s : State) (m : BitVec 8) (idx : Nat) (hs : Keeps pd s) :
    Keeps pd (restored s m idx) := by
  unfold restored
  repeat' (first
    | with_reducible assumption
    | intro _
    | simp only [↓keeps_mk])

theorem writeOwed_keeps {pd : Kept} (s : State) (hs : Keeps pd s) :
    Keeps pd (writeOwed s) := by
  unfold writeOwed
  repeat' (first
    | with_reducible assumption
    | (with_reducible first | apply raiseHub_keeps)
    | with_reducible refine keeps_foldl ?_ (fun _ _ _ => ?_)
    | ((try lift_lets); intro x; refine (fun (hx : Keeps pd x) => ?_) ?_; clear_value x; rotate_left; unfold x; clear x)
    | (lift_lets; intro x)
    | intro _
    | simp only [↓keeps_mk])

theorem hubOn_keeps {pd : Kept} (s : State) (hs : Keeps pd s) :
    Keeps pd (hubOn s) := by
  unfold hubOn
  repeat' (first
    | with_reducible assumption
    | (with_reducible first | apply hubReset_keeps | apply restored_keeps)
    | ((try lift_lets); intro x; refine (fun (hx : Keeps pd x) => ?_) ?_; clear_value x; rotate_left; unfold x; clear x)
    | (lift_lets; intro x)
    | simp only [↓keeps_mk])

theorem laneOn_keeps {pl : List Instr} (s : State) (l : Lane) (fail : Option Nat) (retired : List (Fin 16 × Fin 16)) (hs : Keeps (.mk pl none) s) :
    Keeps (.mk pl none) (laneOn s l fail retired) := by
  unfold laneOn
  repeat' (first
    | with_reducible assumption
    | (with_reducible first | apply countRestart_keeps | apply enterHalted_keeps | apply modLane_keeps | apply raiseHub_keeps | apply restored_keeps | apply stage_keeps | apply toExcluded_keeps)
    | ((try lift_lets); intro x; refine (fun (hx : Keeps (.mk pl none) x) => ?_) ?_; clear_value x; rotate_left; unfold x; clear x)
    | (lift_lets; intro x)
    | intro _
    | simp only [↓keeps_mk]
    | with_reducible apply keeps_ite
    | split)

theorem restoreWork_keeps {pl : List Instr} (s : State) (y0 : RestoreResult) (hs : Keeps (.mk pl none) s) :
    Keeps (.mk pl none) (restoreWork s y0) := by
  unfold restoreWork
  repeat' (first
    | with_reducible assumption
    | (with_reducible first | apply enterListen_keeps | apply adoptSchedule_keeps | apply fieldSelftest_keeps | apply restartPtp_keeps | apply restored_keeps | apply hubOn_keeps | apply laneOn_keeps)
    | ((try lift_lets); intro x; refine (fun (hx : Keeps (.mk pl none) x) => ?_) ?_; clear_value x; rotate_left; unfold x; clear x)
    | (lift_lets; intro x)
    | simp only [↓keeps_mk]
    | intro _
    | with_reducible apply keeps_ite
    | simp +zetaDelta only [↓keeps_mk]
    | split
    | (clear_value *; split))

theorem endRestore_keeps {pl : List Instr} (s : State) (res : RestoreResult) (hs : Keeps (.mk pl none) s) :
    Keeps (.mk pl none) (endRestore s res) := by
  unfold endRestore
  repeat' (first
    | with_reducible assumption
    | (with_reducible first | apply powerDone_keeps | apply reviewIdle_keeps | apply restoreWork_keeps)
    | ((try lift_lets); intro x; refine (fun (hx : Keeps (.mk pl none) x) => ?_) ?_; clear_value x; rotate_left; unfold x; clear x)
    | (lift_lets; intro x)
    | intro _
    | with_reducible apply keeps_ite)

theorem execDomainRestore_keeps {pl : List Instr} (res : RestoreResult) (s : State) (hs : Keeps (.mk pl none) s) :
    KeepsO (.mk pl none) (execDomainRestore res s) := by
  unfold execDomainRestore
  repeat' (first
    | with_reducible assumption
    | with_reducible exact keepsO_fault _
    | with_reducible refine keepsO_next ?_
    | (with_reducible first | apply endRestore_keeps)
    | intro _
    | with_reducible apply keeps_ite
    | with_reducible apply keepsO_ite)

theorem goOff_keeps {pd : Kept} (s : State) (hs : Keeps pd s) :
    Keeps pd (goOff s) := by
  unfold goOff
  repeat' (first
    | with_reducible assumption
    | (with_reducible first | apply hubReset_keeps)
    | ((try lift_lets); intro x; refine (fun (hx : Keeps pd x) => ?_) ?_; clear_value x; rotate_left; unfold x; clear x)
    | (lift_lets; intro x)
    | simp only [↓keeps_mk])

theorem failPower_keeps {pl : List Instr} (s : State) (vsys : Bool) (hs : Keeps (.mk pl none) s) :
    Keeps (.mk pl none) (failPower s vsys) := by
  unfold failPower
  repeat' (first
    | with_reducible assumption
    | (with_reducible first | apply takeFseq_keeps | apply logWrite_keeps | apply wantFlush_keeps | apply placePowerfail_keeps | apply startFlush_keeps | apply setLatches_keeps | apply fieldOff_keeps | apply lanesOff_keeps | apply soundOff_keeps | apply netOff_keeps | apply readControl_keeps)
    | ((try lift_lets); intro x; refine (fun (hx : Keeps (.mk pl none) x) => ?_) ?_; clear_value x; rotate_left; unfold x; clear x)
    | (lift_lets; intro x)
    | simp only [↓keeps_mk])

theorem execPowerFail_keeps {pl : List Instr} (vsys : Bool) (s : State) (hs : Keeps (.mk pl none) s) :
    KeepsO (.mk pl none) (execPowerFail vsys s) := by
  unfold execPowerFail
  repeat' (first
    | with_reducible assumption
    | with_reducible exact keepsO_fault _
    | with_reducible refine keepsO_next ?_
    | (with_reducible first | apply goOff_keeps | apply failPower_keeps)
    | ((try lift_lets); intro x; refine (fun (hx : Keeps (.mk pl none) x) => ?_) ?_; clear_value x; rotate_left; unfold x; clear x)
    | (lift_lets; intro x)
    | simp only [↓keeps_mk]
    | intro _
    | with_reducible apply keeps_ite
    | with_reducible apply keepsO_ite)

theorem execFlushRecordWritten_keeps {pl : List Instr} (s : State) (hs : Keeps (.mk pl none) s) :
    KeepsO (.mk pl none) (execFlushRecordWritten s) := by
  unfold execFlushRecordWritten
  repeat' (first
    | with_reducible assumption
    | with_reducible exact keepsO_fault _
    | with_reducible refine keepsO_next ?_
    | (with_reducible first | apply writeLogControl_keeps | apply wantFlush_keeps | apply writeRecord_keeps | apply goOff_keeps)
    | ((try lift_lets); intro x; refine (fun (hx : Keeps (.mk pl none) x) => ?_) ?_; clear_value x; rotate_left; unfold x; clear x)
    | (lift_lets; intro x)
    | simp only [↓keeps_mk]
    | intro _
    | with_reducible apply keeps_ite
    | with_reducible apply keepsO_ite)

theorem execVholdExhausted_keeps {pd : Kept} (s : State) (hs : Keeps pd s) :
    KeepsO pd (execVholdExhausted s) := by
  unfold execVholdExhausted
  repeat' (first
    | with_reducible assumption
    | with_reducible exact keepsO_fault _
    | with_reducible refine keepsO_next ?_
    | (with_reducible first | apply goOff_keeps)
    | intro _
    | with_reducible apply keeps_ite
    | with_reducible apply keepsO_ite)

theorem execPowerReturn_keeps {pd : Kept} (vsysMv : Nat) (s : State) (hs : Keeps pd s) :
    KeepsO pd (execPowerReturn vsysMv s) := by
  unfold execPowerReturn
  repeat' (first
    | with_reducible assumption
    | with_reducible exact keepsO_fault _
    | with_reducible refine keepsO_next ?_
    | (with_reducible first | apply latchPwr_keeps)
    | with_reducible refine keeps_foldl ?_ (fun _ _ _ => ?_)
    | ((try lift_lets); intro x; refine (fun (hx : Keeps pd x) => ?_) ?_; clear_value x; rotate_left; unfold x; clear x)
    | (lift_lets; intro x)
    | intro _
    | simp only [↓keeps_mk]
    | with_reducible apply keeps_ite
    | with_reducible apply keepsO_ite)

end Sys2Proof.Machine
end

