-- ==== Sys2Proof/Laws/KeepsTriggers.lean ====
section
/-! SUPPORT. Every operation of Machine/Triggers.lean leaves the queue alone and keeps the memories canonical; one that writes no memory keeps every byte.
-/
namespace Sys2Proof.Machine

theorem modTrigger_keeps {pd : Kept} (s : State) (n : Nat) (f : Trigger → Trigger) (hs : Keeps pd s) :
    Keeps pd (modTrigger s n f) := by
  unfold modTrigger
  repeat' (first
    | with_reducible assumption
    | simp only [↓keeps_mk])

theorem armTrigger_keeps {pd : Kept} (s : State) (n : Nat) (owner : TrigOwner) (g : Trigger) (keep : Bool) (hs : Keeps pd s) :
    Keeps pd (armTrigger s n owner g keep) := by
  unfold armTrigger
  repeat' (first
    | with_reducible assumption
    | (with_reducible first | apply modTrigger_keeps)
    | ((try lift_lets); intro x; refine (fun (hx : Keeps pd x) => ?_) ?_; clear_value x; rotate_left; unfold x; clear x)
    | (lift_lets; intro x)
    | intro _
    | simp only [↓keeps_mk]
    | with_reducible apply keeps_ite)

theorem cancelTrigger_keeps {pd : Kept} (s : State) (n : Nat) (hs : Keeps pd s) :
    Keeps pd (cancelTrigger s n) := by
  unfold cancelTrigger
  repeat' (first
    | with_reducible assumption
    | (with_reducible first | apply modTrigger_keeps)
    | intro _
    | simp only [↓keeps_mk]
    | with_reducible apply keeps_ite)

theorem programArm_keeps {pd : Kept} (s : State) (p : Program) (n arg : Nat) (value period : DWord) (hs : Keeps pd s) :
    Keeps pd (programArm s p n arg value period) := by
  unfold programArm
  repeat' (first
    | with_reducible assumption
    | (with_reducible first | apply armTrigger_keeps)
    | simp only [↓keeps_mk]
    | intro _
    | with_reducible apply keeps_ite)

theorem performFiring_keeps {pl : List Instr} (s : State) (n : Nat) (r : FiringReport) (hs : Keeps (.mk pl none) s) :
    Keeps (.mk pl none) (performFiring s n r) := by
  unfold performFiring
  repeat' (first
    | with_reducible assumption
    | (with_reducible first | apply setIrq_keeps | apply eventArrive_keeps | apply scheduleEdge_keeps | apply setRun_keeps | apply fireTrigger_keeps | apply modTrigger_keeps)
    | ((try lift_lets); intro x; refine (fun (hx : Keeps (.mk pl none) x) => ?_) ?_; clear_value x; rotate_left; unfold x; clear x)
    | (lift_lets; intro x)
    | intro _
    | simp only [↓keeps_mk]
    | with_reducible apply keeps_ite
    | split)

theorem execTriggerFiring_keeps {pl : List Instr} (n : Fin 64) (s : State) (hs : Keeps (.mk pl none) s) :
    KeepsO (.mk pl none) (execTriggerFiring n s) := by
  unfold execTriggerFiring
  repeat' (first
    | with_reducible assumption
    | with_reducible exact keepsO_fault _
    | with_reducible refine keepsO_next ?_
    | (with_reducible first | apply modTrigger_keeps | apply performFiring_keeps)
    | intro _
    | simp only [↓keeps_mk]
    | split)

end Sys2Proof.Machine
end

