-- ==== Sys2Proof/Laws/KeepsSlots.lean ====
section
/-! SUPPORT. Every operation of Machine/Slots.lean leaves the queue alone and keeps the memories canonical; one that writes no memory keeps every byte.
-/
namespace Sys2Proof.Machine

theorem slotWrite_keeps {pl : List Instr} (s : State) (img : Bool) (k off : Nat) (bs : List Byte) (hs : Keeps (.mk pl none) s) :
    Keeps (.mk pl none) (slotWrite s img k off bs) := by
  obtain ⟨h1, h2, h3, _⟩ := hs
  unfold slotWrite
  dsimp only
  split
  · exact ⟨h1, h2, memWrites_wf _ _ h3, fun _ h => nomatch h⟩
  · exact ⟨h1, memWrites_wf _ _ h2, h3, fun _ h => nomatch h⟩

theorem slotErase_keeps {pl : List Instr} (s : State) (img : Bool) (k : Nat) (hs : Keeps (.mk pl none) s) :
    Keeps (.mk pl none) (slotErase s img k) := by
  obtain ⟨h1, h2, h3, _⟩ := hs
  unfold slotErase
  split
  · exact ⟨h1, h2, memErase_wf _ _ h3, fun _ h => nomatch h⟩
  · exact ⟨h1, memErase_wf _ _ h2, h3, fun _ h => nomatch h⟩

theorem setSlotState_keeps {pl : List Instr} (s : State) (img : Bool) (k x : Nat) (hs : Keeps (.mk pl none) s) :
    Keeps (.mk pl none) (setSlotState s img k x) := by
  unfold setSlotState
  repeat' (first
    | with_reducible assumption
    | (with_reducible first | apply slotWrite_keeps))

theorem makeActive_keeps {pl : List Instr} (s : State) (img : Bool) (k : Nat) (hs : Keeps (.mk pl none) s) :
    Keeps (.mk pl none) (makeActive s img k) := by
  unfold makeActive
  repeat' (first
    | with_reducible assumption
    | (with_reducible first | apply slotWrite_keeps | apply setSlotState_keeps)
    | ((try lift_lets); intro x; refine (fun (hx : Keeps (.mk pl none) x) => ?_) ?_; clear_value x; rotate_left; unfold x; clear x)
    | (lift_lets; intro x)
    | simp only [↓keeps_mk]
    | split)

theorem setLoad_keeps {pd : Kept} (s : State) (img : Bool) (l : Option Load) (hs : Keeps pd s) :
    Keeps pd (setLoad s img l) := by
  unfold setLoad
  repeat' (first
    | with_reducible assumption
    | simp only [↓keeps_mk]
    | intro _
    | with_reducible apply keeps_ite)

theorem beginLoad_keeps {pl : List Instr} (s : State) (mb : Mb) (img : Bool) (ws : List Word) (hs : Keeps (.mk pl none) s) :
    Keeps (.mk pl none) (beginLoad s mb img ws) := by
  unfold beginLoad
  repeat' (first
    | with_reducible assumption
    | (with_reducible first | apply resultMb_keeps | apply okMb_keeps | apply slotWrite_keeps | apply slotErase_keeps | apply setLoad_keeps)
    | ((try lift_lets); intro x; refine (fun (hx : Keeps (.mk pl none) x) => ?_) ?_; clear_value x; rotate_left; unfold x; clear x)
    | (lift_lets; intro x)
    | intro _
    | simp only [↓keeps_mk]
    | with_reducible apply keeps_ite)

theorem dataLoad_keeps {pl : List Instr} (s : State) (mb : Mb) (img : Bool) (ws : List Word) (hs : Keeps (.mk pl none) s) :
    Keeps (.mk pl none) (dataLoad s mb img ws) := by
  unfold dataLoad
  repeat' (first
    | with_reducible assumption
    | (with_reducible first | apply resultMb_keeps | apply okMb_keeps | apply slotWrite_keeps | apply setLoad_keeps)
    | ((try lift_lets); intro x; refine (fun (hx : Keeps (.mk pl none) x) => ?_) ?_; clear_value x; rotate_left; unfold x; clear x)
    | (lift_lets; intro x)
    | simp only
    | intro _
    | with_reducible apply keeps_ite
    | split)

theorem endLoad_keeps {pl : List Instr} (s : State) (mb : Mb) (img : Bool) (hs : Keeps (.mk pl none) s) :
    Keeps (.mk pl none) (endLoad s mb img) := by
  unfold endLoad
  repeat' (first
    | with_reducible assumption
    | (with_reducible first | apply finishMb_keeps | apply okMb_keeps | apply slotWrite_keeps | apply slotErase_keeps | apply setSlotState_keeps | apply setLoad_keeps)
    | ((try lift_lets); intro x; refine (fun (hx : Keeps (.mk pl none) x) => ?_) ?_; clear_value x; rotate_left; unfold x; clear x)
    | (lift_lets; intro x)
    | simp only
    | intro _
    | with_reducible apply keeps_ite
    | split)

theorem execProgBegin_keeps {pl : List Instr} (mb : Mb) (s : State) (hs : Keeps (.mk pl none) s) :
    KeepsO (.mk pl none) (execProgBegin mb s) := by
  unfold execProgBegin
  repeat' (first
    | with_reducible assumption
    | with_reducible exact keepsO_fault _
    | with_reducible refine keepsO_next ?_
    | (with_reducible first | apply runCmd_keeps <;> (try intro _ _ _) | apply beginLoad_keeps)
    | intro _)

theorem execProgData_keeps {pl : List Instr} (mb : Mb) (s : State) (hs : Keeps (.mk pl none) s) :
    KeepsO (.mk pl none) (execProgData mb s) := by
  unfold execProgData
  repeat' (first
    | with_reducible assumption
    | with_reducible exact keepsO_fault _
    | with_reducible refine keepsO_next ?_
    | (with_reducible first | apply runCmd_keeps <;> (try intro _ _ _) | apply dataLoad_keeps)
    | intro _)

theorem execProgEnd_keeps {pl : List Instr} (mb : Mb) (s : State) (hs : Keeps (.mk pl none) s) :
    KeepsO (.mk pl none) (execProgEnd mb s) := by
  unfold execProgEnd
  repeat' (first
    | with_reducible assumption
    | with_reducible exact keepsO_fault _
    | with_reducible refine keepsO_next ?_
    | (with_reducible first | apply runCmd_keeps <;> (try intro _ _ _) | apply endLoad_keeps)
    | intro _)

theorem execCfgBegin_keeps {pl : List Instr} (mb : Mb) (s : State) (hs : Keeps (.mk pl none) s) :
    KeepsO (.mk pl none) (execCfgBegin mb s) := by
  unfold execCfgBegin
  repeat' (first
    | with_reducible assumption
    | with_reducible exact keepsO_fault _
    | with_reducible refine keepsO_next ?_
    | (with_reducible first | apply runCmd_keeps <;> (try intro _ _ _) | apply beginLoad_keeps)
    | intro _)

theorem execCfgData_keeps {pl : List Instr} (mb : Mb) (s : State) (hs : Keeps (.mk pl none) s) :
    KeepsO (.mk pl none) (execCfgData mb s) := by
  unfold execCfgData
  repeat' (first
    | with_reducible assumption
    | with_reducible exact keepsO_fault _
    | with_reducible refine keepsO_next ?_
    | (with_reducible first | apply runCmd_keeps <;> (try intro _ _ _) | apply dataLoad_keeps)
    | intro _)

theorem execCfgEnd_keeps {pl : List Instr} (mb : Mb) (s : State) (hs : Keeps (.mk pl none) s) :
    KeepsO (.mk pl none) (execCfgEnd mb s) := by
  unfold execCfgEnd
  repeat' (first
    | with_reducible assumption
    | with_reducible exact keepsO_fault _
    | with_reducible refine keepsO_next ?_
    | (with_reducible first | apply runCmd_keeps <;> (try intro _ _ _) | apply endLoad_keeps)
    | intro _)

end Sys2Proof.Machine
end

