-- ==== Sys2Proof/Laws/KeepsExchange.lean ====
section
/-! SUPPORT. Every operation of Machine/Exchange.lean leaves the queue alone and keeps the memories canonical; one that writes no memory keeps every byte.
-/
namespace Sys2Proof.Machine

theorem placeDestination_keeps {pd : Kept} (s : State) (p : Program) (b : Binding) (hs : Keeps pd s) :
    Keeps pd (placeDestination s p b) := by
  unfold placeDestination
  repeat' (first
    | with_reducible assumption
    | (with_reducible first | apply setVote_keeps)
    | intro _
    | simp only [↓keeps_mk]
    | split)

theorem loadDestinations_keeps {pd : Kept} (s : State) (hs : Keeps pd s) :
    Keeps pd (loadDestinations s) := by
  unfold loadDestinations
  repeat' (first
    | with_reducible assumption
    | (with_reducible first | apply setVote_keeps | apply placeDestination_keeps)
    | with_reducible refine keeps_foldl ?_ (fun _ _ _ => ?_)
    | ((try lift_lets); intro x; refine (fun (hx : Keeps pd x) => ?_) ?_; clear_value x; rotate_left; unfold x; clear x)
    | (lift_lets; intro x)
    | intro _
    | simp only [↓keeps_mk])

theorem toLaneRelease_keeps {pl : List Instr} (s : State) (hs : Keeps (.mk pl none) s) :
    Keeps (.mk pl none) (toLaneRelease s) := by
  unfold toLaneRelease
  repeat' (first
    | with_reducible assumption
    | (with_reducible first | apply modLanes_keeps | apply setRun_keeps | apply stage_keeps | apply setMode_keeps | apply resetVoter_keeps | apply loadDestinations_keeps)
    | with_reducible refine keeps_foldl ?_ (fun _ _ _ => ?_)
    | ((try lift_lets); intro x; refine (fun (hx : Keeps (.mk pl none) x) => ?_) ?_; clear_value x; rotate_left; unfold x; clear x)
    | (lift_lets; intro x)
    | intro _
    | simp only [↓keeps_mk])

theorem adoptField_keeps {pd : Kept} (s : State) (old : Bank) (hs : Keeps pd s) :
    Keeps pd (adoptField s old) := by
  unfold adoptField
  repeat' (first
    | with_reducible assumption
    | (with_reducible first | apply abandonGsw_keeps | apply abandonTests_keeps)
    | ((try lift_lets); intro x; refine (fun (hx : Keeps pd x) => ?_) ?_; clear_value x; rotate_left; unfold x; clear x)
    | (lift_lets; intro x)
    | intro _
    | simp only [↓keeps_mk]
    | with_reducible apply keeps_ite
    | split)

theorem adoptTiming_keeps {pd : Kept} (s : State) (hs : Keeps pd s) :
    Keeps pd (adoptTiming s) := by
  unfold adoptTiming
  repeat' (first
    | with_reducible assumption
    | (with_reducible first | apply selectSource_keeps)
    | with_reducible refine keeps_foldl ?_ (fun _ _ _ => ?_)
    | ((try lift_lets); intro x; refine (fun (hx : Keeps pd x) => ?_) ?_; clear_value x; rotate_left; unfold x; clear x)
    | (lift_lets; intro x)
    | intro _
    | simp only [↓keeps_mk]
    | with_reducible apply keeps_ite)

theorem adoptSound_keeps {pd : Kept} (s : State) (old : Bank) (hs : Keeps pd s) :
    Keeps pd (adoptSound s old) := by
  unfold adoptSound
  repeat' (first
    | with_reducible assumption
    | ((try lift_lets); intro x; refine (fun (hx : Keeps pd x) => ?_) ?_; clear_value x; rotate_left; unfold x; clear x)
    | (lift_lets; intro x)
    | intro _
    | simp only [↓keeps_mk]
    | with_reducible apply keeps_ite)

theorem adoptNet_keeps {pd : Kept} (s : State) (old : Bank) (hs : Keeps pd s) :
    Keeps pd (adoptNet s old) := by
  unfold adoptNet
  repeat' (first
    | with_reducible assumption
    | (with_reducible first | apply adoptSchedule_keeps | apply restartPtp_keeps | apply linkChange_keeps)
    | with_reducible refine keeps_foldl ?_ (fun _ _ _ => ?_)
    | ((try lift_lets); intro x; refine (fun (hx : Keeps pd x) => ?_) ?_; clear_value x; rotate_left; unfold x; clear x)
    | (lift_lets; intro x)
    | intro _
    | simp only [↓keeps_mk]
    | with_reducible apply keeps_ite)

theorem adoptPower_keeps {pd : Kept} (s : State) (hs : Keeps pd s) :
    Keeps pd (adoptPower s) := by
  unfold adoptPower
  repeat' (first
    | with_reducible assumption
    | (with_reducible first | apply review_keeps)
    | with_reducible refine keeps_foldl ?_ (fun _ _ _ => ?_)
    | ((try lift_lets); intro x; refine (fun (hx : Keeps pd x) => ?_) ?_; clear_value x; rotate_left; unfold x; clear x)
    | (lift_lets; intro x)
    | intro _
    | simp only [↓keeps_mk])

theorem takeConns_keeps {pd : Kept} (s : State) (t : Nat) (hs : Keeps pd s) :
    Keeps pd (takeConns s t) := by
  unfold takeConns
  repeat' (first
    | with_reducible assumption
    | ((try lift_lets); intro x; refine (fun (hx : Keeps pd x) => ?_) ?_; clear_value x; rotate_left; unfold x; clear x)
    | (lift_lets; intro x)
    | intro _
    | simp only [↓keeps_mk]
    | with_reducible apply keeps_ite
    | split)

theorem adoptConns_keeps {pd : Kept} (s : State) (old : Bank) (hs : Keeps pd s) :
    Keeps pd (adoptConns s old) := by
  unfold adoptConns
  repeat' (first
    | with_reducible assumption
    | (with_reducible first | apply takeConns_keeps)
    | with_reducible refine keeps_foldl ?_ (fun _ _ _ => ?_)
    | ((try lift_lets); intro x; refine (fun (hx : Keeps pd x) => ?_) ?_; clear_value x; rotate_left; unfold x; clear x)
    | (lift_lets; intro x)
    | intro _
    | simp only [↓keeps_mk]
    | with_reducible apply keeps_ite
    | split)

theorem orphanConns_keeps {pd : Kept} (s : State) (b : Bank) (p : Option Program) (hs : Keeps pd s) :
    Keeps pd (orphanConns s b p) := by
  unfold orphanConns
  repeat' (first
    | with_reducible assumption
    | (with_reducible first | apply raiseHub_keeps)
    | with_reducible refine keeps_foldl ?_ (fun _ _ _ => ?_)
    | intro _
    | simp only [↓keeps_mk]
    | with_reducible apply keeps_ite
    | split)

theorem adoptPair_keeps {pl : List Instr} (s : State) (old : Bank) (hs : Keeps (.mk pl none) s) :
    Keeps (.mk pl none) (adoptPair s old) := by
  unfold adoptPair
  repeat' (first
    | with_reducible assumption
    | (with_reducible first | apply abandonSwitch_keeps | apply raiseHub_keeps | apply setIrq_keeps | apply setVote_keeps | apply toLaneRelease_keeps)
    | ((try lift_lets); intro x; refine (fun (hx : Keeps (.mk pl none) x) => ?_) ?_; clear_value x; rotate_left; unfold x; clear x)
    | (lift_lets; intro x)
    | intro _
    | simp only [↓keeps_mk]
    | with_reducible apply keeps_ite
    | split)

theorem applyBank_keeps {pl : List Instr} (s : State) (b : Bank) (hs : Keeps (.mk pl none) s) :
    Keeps (.mk pl none) (applyBank s b) := by
  unfold applyBank
  repeat' (first
    | with_reducible assumption
    | (with_reducible first | apply adoptBridge_keeps | apply adoptConns_keeps | apply adoptField_keeps | apply adoptNet_keeps | apply adoptPair_keeps | apply adoptPower_keeps | apply adoptSound_keeps | apply adoptTiming_keeps | apply dropForces_keeps | apply setLatches_keeps | apply writeRecControl_keeps)
    | ((try lift_lets); intro x; refine (fun (hx : Keeps (.mk pl none) x) => ?_) ?_; clear_value x; rotate_left; unfold x; clear x)
    | (lift_lets; intro x)
    | intro _
    | simp only [↓keeps_mk]
    | with_reducible apply keeps_ite
    | split)

theorem performSwap_keeps {pl : List Instr} (s : State) (hs : Keeps (.mk pl none) s) :
    Keeps (.mk pl none) (performSwap s) := by
  unfold performSwap
  repeat' (first
    | with_reducible assumption
    | (with_reducible first | apply modLanes_keeps | apply raiseHub_keeps | apply okMb_keeps | apply setSlotState_keeps | apply makeActive_keeps | apply orphanConns_keeps | apply applyBank_keeps)
    | ((try lift_lets); intro x; refine (fun (hx : Keeps (.mk pl none) x) => ?_) ?_; clear_value x; rotate_left; unfold x; clear x)
    | (lift_lets; intro x)
    | intro _
    | simp only [↓keeps_mk]
    | simp +zetaDelta only [↓keeps_mk]
    | split
    | (clear_value *; split)
    | (with_reducible refine keeps_pair1 (by assumption) ?_)
    | (with_reducible refine keeps_pair2 (by assumption) ?_)
    | (with_reducible refine keeps_pair3 (by assumption) ?_))

theorem checkStaging_keeps {pd : Kept} (s : State) (hs : Keeps pd s) :
    Keeps pd (checkStaging s) := by
  unfold checkStaging
  repeat' (first
    | with_reducible assumption
    | (with_reducible first | apply okMb_keeps)
    | simp only [↓keeps_mk]
    | intro _
    | with_reducible apply keeps_ite
    | split)

theorem refuseDigest_keeps {pd : Kept} (s : State) (hs : Keeps pd s) :
    Keeps pd (refuseDigest s) := by
  unfold refuseDigest
  repeat' (first
    | with_reducible assumption
    | (with_reducible first | apply raiseHub_keeps | apply finishMb_keeps)
    | ((try lift_lets); intro x; refine (fun (hx : Keeps pd x) => ?_) ?_; clear_value x; rotate_left; unfold x; clear x)
    | (lift_lets; intro x)
    | simp only [↓keeps_mk]
    | split)

theorem reportDigest_keeps {pl : List Instr} (s : State) (l : Lane) (same : Bool) (hs : Keeps (.mk pl none) s) :
    Keeps (.mk pl none) (reportDigest s l same) := by
  unfold reportDigest
  repeat' (first
    | with_reducible assumption
    | (with_reducible first | apply modLane_keeps | apply excludeLane_keeps | apply failRejoin_keeps | apply checkStaging_keeps | apply refuseDigest_keeps)
    | ((try lift_lets); intro x; refine (fun (hx : Keeps (.mk pl none) x) => ?_) ?_; clear_value x; rotate_left; unfold x; clear x)
    | (lift_lets; intro x)
    | intro _
    | simp only [↓keeps_mk]
    | with_reducible apply keeps_ite)

theorem execBankDigestReport_keeps {pl : List Instr} (l : Lane) (same : Bool) (s : State) (hs : Keeps (.mk pl none) s) :
    KeepsO (.mk pl none) (execBankDigestReport l same s) := by
  unfold execBankDigestReport
  repeat' (first
    | with_reducible assumption
    | with_reducible exact keepsO_fault _
    | with_reducible refine keepsO_next ?_
    | (with_reducible first | apply reportDigest_keeps))

theorem execStagingComplete_keeps {pl : List Instr} (same : List (Lane × Bool)) (s : State) (hs : Keeps (.mk pl none) s) :
    KeepsO (.mk pl none) (execStagingComplete same s) := by
  unfold execStagingComplete
  repeat' (first
    | with_reducible assumption
    | with_reducible exact keepsO_fault _
    | with_reducible refine keepsO_next ?_
    | (with_reducible first | apply reportDigest_keeps)
    | with_reducible refine keeps_foldl ?_ (fun _ _ _ => ?_)
    | intro _
    | with_reducible apply keeps_ite
    | with_reducible apply keepsO_ite)

theorem cfgSwap_keeps {pl : List Instr} (s : State) (mb : Mb) (hs : Keeps (.mk pl none) s) :
    Keeps (.mk pl none) (cfgSwap s mb) := by
  unfold cfgSwap
  repeat' (first
    | with_reducible assumption
    | (with_reducible first | apply modLanes_keeps | apply finishMb_keeps | apply waitMb_keeps | apply performSwap_keeps)
    | ((try lift_lets); intro x; refine (fun (hx : Keeps (.mk pl none) x) => ?_) ?_; clear_value x; rotate_left; unfold x; clear x)
    | (lift_lets; intro x)
    | intro _
    | simp only [↓keeps_mk]
    | with_reducible apply keeps_ite
    | simp +zetaDelta only [↓keeps_mk]
    | split
    | (clear_value *; split)
    | (with_reducible refine keeps_pair1 (by assumption) ?_)
    | (with_reducible refine keeps_pair2 (by assumption) ?_)
    | (with_reducible refine keeps_pair3 (by assumption) ?_))

theorem execCfgSwap_keeps {pl : List Instr} (mb : Mb) (s : State) (hs : Keeps (.mk pl none) s) :
    KeepsO (.mk pl none) (execCfgSwap mb s) := by
  unfold execCfgSwap
  repeat' (first
    | with_reducible assumption
    | with_reducible exact keepsO_fault _
    | with_reducible refine keepsO_next ?_
    | (with_reducible first | apply runCmd_keeps <;> (try intro _ _ _) | apply cfgSwap_keeps)
    | intro _)

theorem activateRestart_keeps {pl : List Instr} (s : State) (hs : Keeps (.mk pl none) s) :
    Keeps (.mk pl none) (activateRestart s) := by
  unfold activateRestart
  repeat' (first
    | with_reducible assumption
    | (with_reducible first | apply dropForces_keeps | apply setSlotState_keeps | apply makeActive_keeps | apply toLaneRelease_keeps | apply orphanConns_keeps)
    | ((try lift_lets); intro x; refine (fun (hx : Keeps (.mk pl none) x) => ?_) ?_; clear_value x; rotate_left; unfold x; clear x)
    | (lift_lets; intro x)
    | intro _
    | simp only [↓keeps_mk]
    | simp +zetaDelta only [↓keeps_mk]
    | split
    | (clear_value *; split)
    | (with_reducible refine keeps_pair1 (by assumption) ?_)
    | (with_reducible refine keeps_pair2 (by assumption) ?_)
    | (with_reducible refine keeps_pair3 (by assumption) ?_))

theorem setGenerator_keeps {pd : Kept} (s : State) (d : TaskDef) (hs : Keeps pd s) :
    Keeps pd (setGenerator s d) := by
  unfold setGenerator
  repeat' (first
    | with_reducible assumption
    | intro _
    | simp only [↓keeps_mk])

theorem initDestination_keeps {pd : Kept} (s : State) (t : Nat) (b : Binding) (hs : Keeps pd s) :
    Keeps pd (initDestination s t b) := by
  unfold initDestination
  repeat' (first
    | with_reducible assumption
    | (with_reducible first | apply modLanes_keeps | apply setRun_keeps | apply modMix_keeps | apply setVote_keeps)
    | intro _
    | simp only [↓keeps_mk]
    | split)

theorem dropDestinations_keeps {pd : Kept} (s : State) (old new : Program) (t : Nat) (hs : Keeps pd s) :
    Keeps pd (dropDestinations s old new t) := by
  unfold dropDestinations
  repeat' (first
    | with_reducible assumption
    | (with_reducible first | apply initDestination_keeps)
    | with_reducible refine keeps_foldl ?_ (fun _ _ _ => ?_)
    | intro _
    | with_reducible apply keeps_ite)

theorem switchTask_keeps {pl : List Instr} (s : State) (t : Nat) (hs : Keeps (.mk pl none) s) :
    Keeps (.mk pl none) (switchTask s t) := by
  unfold switchTask
  repeat' (first
    | with_reducible assumption
    | (with_reducible first | apply modTask_keeps | apply dropForces_keeps | apply placeDestination_keeps | apply dropDestinations_keeps)
    | with_reducible refine keeps_foldl ?_ (fun _ _ _ => ?_)
    | ((try lift_lets); intro x; refine (fun (hx : Keeps (.mk pl none) x) => ?_) ?_; clear_value x; rotate_left; unfold x; clear x)
    | (lift_lets; intro x)
    | intro _
    | simp only [↓keeps_mk]
    | with_reducible apply keeps_ite
    | split)

theorem retireTask_keeps {pd : Kept} (s : State) (t : Nat) (hs : Keeps pd s) :
    Keeps pd (retireTask s t) := by
  unfold retireTask
  repeat' (first
    | with_reducible assumption
    | (with_reducible first | apply dropDestinations_keeps | apply modTask_keeps)
    | ((try lift_lets); intro x; refine (fun (hx : Keeps pd x) => ?_) ?_; clear_value x; rotate_left; unfold x; clear x)
    | (lift_lets; intro x)
    | intro _
    | simp only [↓keeps_mk]
    | with_reducible apply keeps_ite
    | (with_reducible refine keeps_pair1 (by assumption) ?_)
    | (with_reducible refine keeps_pair2 (by assumption) ?_)
    | (with_reducible refine keeps_pair3 (by assumption) ?_)
    | split)

theorem retireGone_keeps {pd : Kept} (s : State) (hs : Keeps pd s) :
    Keeps pd (retireGone s) := by
  unfold retireGone
  repeat' (first
    | with_reducible assumption
    | (with_reducible first | apply retireTask_keeps)
    | with_reducible refine keeps_foldl ?_ (fun _ _ _ => ?_)
    | ((try lift_lets); intro x; refine (fun (hx : Keeps pd x) => ?_) ?_; clear_value x; rotate_left; unfold x; clear x)
    | (lift_lets; intro x)
    | intro _
    | simp only [↓keeps_mk]
    | with_reducible apply keeps_ite
    | split)

theorem swapPoint_keeps {pl : List Instr} (s : State) (same : RelDue → Bool) (hs : Keeps (.mk pl none) s) :
    Keeps (.mk pl none) (swapPoint s same) := by
  unfold swapPoint
  repeat' (first
    | with_reducible assumption
    | (with_reducible first | apply cancelTrigger_keeps | apply makeActive_keeps | apply modTask_keeps | apply retireTask_keeps | apply setGenerator_keeps | apply toExcluded_keeps)
    | with_reducible refine keeps_foldl ?_ (fun _ _ _ => ?_)
    | ((try lift_lets); intro x; refine (fun (hx : Keeps (.mk pl none) x) => ?_) ?_; clear_value x; rotate_left; unfold x; clear x)
    | (lift_lets; intro x)
    | intro _
    | simp only [↓keeps_mk]
    | with_reducible apply keeps_ite
    | split)

theorem freeOld_keeps {pd : Kept} (s : State) (hs : Keeps pd s) :
    Keeps pd (freeOld s) := by
  unfold freeOld
  repeat' (first
    | with_reducible assumption
    | (with_reducible first | apply modLanes_keeps | apply modTask_keeps | apply orphanConns_keeps | apply retireTask_keeps)
    | with_reducible refine keeps_foldl ?_ (fun _ _ _ => ?_)
    | ((try lift_lets); intro x; refine (fun (hx : Keeps pd x) => ?_) ?_; clear_value x; rotate_left; unfold x; clear x)
    | (lift_lets; intro x)
    | simp only [↓keeps_mk]
    | intro _
    | with_reducible apply keeps_ite
    | split)

theorem finishExchange_keeps {pl : List Instr} (s : State) (hs : Keeps (.mk pl none) s) :
    Keeps (.mk pl none) (finishExchange s) := by
  unfold finishExchange
  repeat' (first
    | with_reducible assumption
    | (with_reducible first | apply freeOld_keeps | apply raiseHub_keeps | apply setSlotState_keeps)
    | ((try lift_lets); intro x; refine (fun (hx : Keeps (.mk pl none) x) => ?_) ?_; clear_value x; rotate_left; unfold x; clear x)
    | (lift_lets; intro x)
    | intro _
    | simp only [↓keeps_mk]
    | with_reducible apply keeps_ite
    | (with_reducible refine keeps_pair1 (by assumption) ?_)
    | (with_reducible refine keeps_pair2 (by assumption) ?_)
    | (with_reducible refine keeps_pair3 (by assumption) ?_)
    | split)

theorem execSwitchWithoutRelease_keeps {pl : List Instr} (t : Fin 16) (s : State) (hs : Keeps (.mk pl none) s) :
    KeepsO (.mk pl none) (execSwitchWithoutRelease t s) := by
  unfold execSwitchWithoutRelease
  repeat' (first
    | with_reducible assumption
    | with_reducible exact keepsO_fault _
    | with_reducible refine keepsO_next ?_
    | (with_reducible first | apply switchLane_keeps | apply switchTask_keeps | apply finishExchange_keeps)
    | with_reducible refine keeps_foldl ?_ (fun _ _ _ => ?_)
    | ((try lift_lets); intro x; refine (fun (hx : Keeps (.mk pl none) x) => ?_) ?_; clear_value x; rotate_left; unfold x; clear x)
    | (lift_lets; intro x)
    | intro _
    | simp only [↓keeps_mk]
    | with_reducible apply keeps_ite
    | with_reducible apply keepsO_ite
    | split)

theorem stageProgram_keeps {pd : Kept} (s : State) (mb : Mb) (p : Program) (hs : Keeps pd s) :
    Keeps pd (stageProgram s mb p) := by
  unfold stageProgram
  repeat' (first
    | with_reducible assumption
    | (with_reducible first | apply freeOld_keeps | apply modLanes_keeps | apply waitMb_keeps)
    | ((try lift_lets); intro x; refine (fun (hx : Keeps pd x) => ?_) ?_; clear_value x; rotate_left; unfold x; clear x)
    | (lift_lets; intro x)
    | intro _
    | simp +zetaDelta only [↓keeps_mk]
    | with_reducible apply keeps_ite
    | split)

theorem progActivate_keeps {pl : List Instr} (s : State) (mb : Mb) (ws : List Word) (hs : Keeps (.mk pl none) s) :
    Keeps (.mk pl none) (progActivate s mb ws) := by
  unfold progActivate
  repeat' (first
    | with_reducible assumption
    | (with_reducible first | apply finishMb_keeps | apply okMb_keeps | apply activateRestart_keeps | apply stageProgram_keeps)
    | ((try lift_lets); intro x; refine (fun (hx : Keeps (.mk pl none) x) => ?_) ?_; clear_value x; rotate_left; unfold x; clear x)
    | (lift_lets; intro x)
    | intro _
    | simp only [↓keeps_mk]
    | with_reducible apply keeps_ite
    | simp +zetaDelta only [↓keeps_mk]
    | split
    | (clear_value *; split)
    | (with_reducible refine keeps_pair1 (by assumption) ?_)
    | (with_reducible refine keeps_pair2 (by assumption) ?_)
    | (with_reducible refine keeps_pair3 (by assumption) ?_))

theorem execProgActivate_keeps {pl : List Instr} (mb : Mb) (s : State) (hs : Keeps (.mk pl none) s) :
    KeepsO (.mk pl none) (execProgActivate mb s) := by
  unfold execProgActivate
  repeat' (first
    | with_reducible assumption
    | with_reducible exact keepsO_fault _
    | with_reducible refine keepsO_next ?_
    | (with_reducible first | apply runCmd_keeps <;> (try intro _ _ _) | apply progActivate_keeps)
    | intro _)

theorem progDiscard_keeps {pl : List Instr} (s : State) (mb : Mb) (hs : Keeps (.mk pl none) s) :
    Keeps (.mk pl none) (progDiscard s mb) := by
  unfold progDiscard
  repeat' (first
    | with_reducible assumption
    | (with_reducible first | apply resultMb_keeps | apply okMb_keeps | apply discardActivation_keeps | apply slotErase_keeps | apply setLoad_keeps)
    | intro _
    | with_reducible apply keeps_ite)

theorem execProgDiscard_keeps {pl : List Instr} (mb : Mb) (s : State) (hs : Keeps (.mk pl none) s) :
    KeepsO (.mk pl none) (execProgDiscard mb s) := by
  unfold execProgDiscard
  repeat' (first
    | with_reducible assumption
    | with_reducible exact keepsO_fault _
    | with_reducible refine keepsO_next ?_
    | (with_reducible first | apply runCmd_keeps <;> (try intro _ _ _) | apply progDiscard_keeps)
    | intro _)

theorem execProgInfo_keeps {pd : Kept} (mb : Mb) (s : State) (hs : Keeps pd s) :
    KeepsO pd (execProgInfo mb s) := by
  unfold execProgInfo
  repeat' (first
    | with_reducible assumption
    | with_reducible exact keepsO_fault _
    | with_reducible refine keepsO_next ?_
    | (with_reducible first | apply resultMb_keeps | apply okMb_keeps | apply runCmd_keeps <;> (try intro _ _ _))
    | ((try lift_lets); intro x; refine (fun (hx : Keeps pd x) => ?_) ?_; clear_value x; rotate_left; unfold x; clear x)
    | (lift_lets; intro x)
    | intro _
    | simp only [↓keeps_mk]
    | split)

theorem cfgRead_keeps {pd : Kept} (s : State) (mb : Mb) (ws : List Word) (hs : Keeps pd s) :
    Keeps pd (cfgRead s mb ws) := by
  unfold cfgRead
  repeat' (first
    | with_reducible assumption
    | (with_reducible first | apply resultMb_keeps | apply okMb_keeps)
    | ((try lift_lets); intro x; refine (fun (hx : Keeps pd x) => ?_) ?_; clear_value x; rotate_left; unfold x; clear x)
    | (lift_lets; intro x)
    | simp only
    | intro _
    | with_reducible apply keeps_ite
    | split)

theorem execCfgRead_keeps {pd : Kept} (mb : Mb) (s : State) (hs : Keeps pd s) :
    KeepsO pd (execCfgRead mb s) := by
  unfold execCfgRead
  repeat' (first
    | with_reducible assumption
    | with_reducible exact keepsO_fault _
    | with_reducible refine keepsO_next ?_
    | (with_reducible first | apply runCmd_keeps <;> (try intro _ _ _) | apply cfgRead_keeps)
    | intro _)

end Sys2Proof.Machine
end

