-- ==== Sys2Proof/Laws/KeepsSafeState.lean ====
section
/-! SUPPORT. Every operation of Machine/SafeState.lean leaves the queue alone and keeps the memories canonical; one that writes no memory keeps every byte.
-/
namespace Sys2Proof.Machine

theorem acceptAck_keeps {pl : List Instr} (s : State) (hs : Keeps (.mk pl none) s) :
    Keeps (.mk pl none) (acceptAck s) := by
  unfold acceptAck
  repeat' (first
    | with_reducible assumption
    | (with_reducible first | apply raiseHub_keeps | apply toLaneRelease_keeps)
    | ((try lift_lets); intro x; refine (fun (hx : Keeps (.mk pl none) x) => ?_) ?_; clear_value x; rotate_left; unfold x; clear x)
    | (lift_lets; intro x)
    | simp only [↓keeps_mk]
    | intro _
    | with_reducible apply keeps_ite)

theorem modAckTrack_keeps {pd : Kept} (s : State) (rcv : AckReceiver) (f : AckTrack → AckTrack) (hs : Keeps pd s) :
    Keeps pd (modAckTrack s rcv f) := by
  unfold modAckTrack
  repeat' (first
    | with_reducible assumption
    | (with_reducible first | apply modLane_keeps)
    | ((try lift_lets); intro x; refine (fun (hx : Keeps pd x) => ?_) ?_; clear_value x; rotate_left; unfold x; clear x)
    | (lift_lets; intro x)
    | intro _
    | simp only [↓keeps_mk]
    | with_reducible apply keeps_ite
    | split)

theorem takePulse_keeps {pd : Kept} (s : State) (rcv : AckReceiver) (src : AckSource) (hs : Keeps pd s) :
    Keeps pd (takePulse s rcv src) := by
  cases src
  · simpa only [takePulse, ↓keeps_mk] using hs
  · unfold takePulse
    exact modAckTrack_keeps _ _ _ hs

theorem judgePulse_keeps {pl : List Instr} (s : State) (rcv : AckReceiver) (src : AckSource) (highNs : Nat) (stepped : Bool) (hs : Keeps (.mk pl none) s) :
    Keeps (.mk pl none) (judgePulse s rcv src highNs stepped) := by
  unfold judgePulse
  repeat' (first
    | with_reducible assumption
    | (with_reducible first | apply acceptAck_keeps | apply modLane_keeps | apply raiseHub_keeps)
    | ((try lift_lets); intro x; refine (fun (hx : Keeps (.mk pl none) x) => ?_) ?_; clear_value x; rotate_left; unfold x; clear x)
    | (lift_lets; intro x)
    | intro _
    | simp only [↓keeps_mk]
    | with_reducible apply keeps_ite
    | split)

theorem execAckEdge_keeps {pl : List Instr} (rcv : AckReceiver) (src : AckSource) (highNs : Nat) (stepped : Bool) (s : State) (hs : Keeps (.mk pl none) s) :
    KeepsO (.mk pl none) (execAckEdge rcv src highNs stepped s) := by
  unfold execAckEdge
  repeat' (first
    | with_reducible assumption
    | with_reducible exact keepsO_fault _
    | with_reducible refine keepsO_next ?_
    | (with_reducible first | apply judgePulse_keeps | apply takePulse_keeps)
    | ((try lift_lets); intro x; refine (fun (hx : Keeps (.mk pl none) x) => ?_) ?_; clear_value x; rotate_left; unfold x; clear x)
    | (lift_lets; intro x)
    | intro _
    | simp only [↓keeps_mk]
    | with_reducible apply keeps_ite
    | with_reducible apply keepsO_ite
    | split)

theorem purgeReports_keeps {pd : Kept} (s : State) (src : AckSource) (hs : Keeps pd s) :
    Keeps pd (purgeReports s src) := by
  unfold purgeReports
  repeat' (first
    | with_reducible assumption
    | ((try lift_lets); intro x; refine (fun (hx : Keeps pd x) => ?_) ?_; clear_value x; rotate_left; unfold x; clear x)
    | (lift_lets; intro x)
    | intro _
    | simp only [↓keeps_mk]
    | with_reducible apply keeps_ite)

theorem execAckReport_keeps {pl : List Instr} (l : Lane) (src : AckSource) (s : State) (hs : Keeps (.mk pl none) s) :
    KeepsO (.mk pl none) (execAckReport l src s) := by
  unfold execAckReport
  repeat' (first
    | with_reducible assumption
    | with_reducible exact keepsO_fault _
    | with_reducible refine keepsO_next ?_
    | (with_reducible first | apply modLane_keeps | apply acceptAck_keeps | apply purgeReports_keeps)
    | ((try lift_lets); intro x; refine (fun (hx : Keeps (.mk pl none) x) => ?_) ?_; clear_value x; rotate_left; unfold x; clear x)
    | (lift_lets; intro x)
    | intro _
    | simp only [↓keeps_mk]
    | with_reducible apply keeps_ite
    | with_reducible apply keepsO_ite)

theorem execLoneAckReport_keeps {pd : Kept} (src : AckSource) (s : State) (hs : Keeps pd s) :
    KeepsO pd (execLoneAckReport src s) := by
  unfold execLoneAckReport
  repeat' (first
    | with_reducible assumption
    | with_reducible exact keepsO_fault _
    | with_reducible refine keepsO_next ?_
    | (with_reducible first | apply purgeReports_keeps))

theorem execAckJammed_keeps {pd : Kept} (rcv : AckReceiver) (src : AckSource) (s : State) (hs : Keeps pd s) :
    KeepsO pd (execAckJammed rcv src s) := by
  unfold execAckJammed
  repeat' (first
    | with_reducible assumption
    | with_reducible exact keepsO_fault _
    | with_reducible refine keepsO_next ?_
    | (with_reducible first | apply raiseHub_keeps)
    | ((try lift_lets); intro x; refine (fun (hx : Keeps pd x) => ?_) ?_; clear_value x; rotate_left; unfold x; clear x)
    | (lift_lets; intro x)
    | simp only [↓keeps_mk]
    | intro _
    | with_reducible apply keeps_ite
    | with_reducible apply keepsO_ite
    | split)

theorem execAckJamClear_keeps {pd : Kept} (src : AckSource) (s : State) (hs : Keeps pd s) :
    KeepsO pd (execAckJamClear src s) := by
  unfold execAckJamClear
  repeat' (first
    | with_reducible assumption
    | with_reducible exact keepsO_fault _
    | with_reducible refine keepsO_next ?_
    | simp only [↓keeps_mk]
    | split)

theorem safeAck_keeps {pl : List Instr} (s : State) (mb : Mb) (ws : List Word) (hs : Keeps (.mk pl none) s) :
    Keeps (.mk pl none) (safeAck s mb ws) := by
  unfold safeAck
  repeat' (first
    | with_reducible assumption
    | (with_reducible first | apply resultMb_keeps | apply okMb_keeps | apply acceptAck_keeps)
    | ((try lift_lets); intro x; refine (fun (hx : Keeps (.mk pl none) x) => ?_) ?_; clear_value x; rotate_left; unfold x; clear x)
    | (lift_lets; intro x)
    | intro _
    | simp only [↓keeps_mk]
    | with_reducible apply keeps_ite
    | split)

theorem execSafeAck_keeps {pl : List Instr} (mb : Mb) (s : State) (hs : Keeps (.mk pl none) s) :
    KeepsO (.mk pl none) (execSafeAck mb s) := by
  unfold execSafeAck
  repeat' (first
    | with_reducible assumption
    | with_reducible exact keepsO_fault _
    | with_reducible refine keepsO_next ?_
    | (with_reducible first | apply runCmd_keeps <;> (try intro _ _ _) | apply safeAck_keeps)
    | intro _)

theorem checkConns_keeps {pd : Kept} (s : State) (l : Lane) (m : StampMsg) (hs : Keeps pd s) :
    Keeps pd (checkConns s l m) := by
  unfold checkConns
  repeat' (first
    | with_reducible assumption
    | (with_reducible first | apply raiseHub_keeps | apply setConn_keeps)
    | with_reducible refine keeps_foldl ?_ (fun _ _ _ => ?_)
    | ((try lift_lets); intro x; refine (fun (hx : Keeps pd x) => ?_) ?_; clear_value x; rotate_left; unfold x; clear x)
    | (lift_lets; intro x)
    | intro _
    | simp only [↓keeps_mk]
    | with_reducible apply keeps_ite)

theorem produceSafe_keeps {pd : Kept} (s : State) (l : Lane) (p : Program) (t : Nat) (voted : List QWord) (hs : Keeps pd s) :
    Keeps pd (produceSafe s l p t voted) := by
  unfold produceSafe
  repeat' (first
    | with_reducible assumption
    | (with_reducible first | apply setConn_keeps)
    | with_reducible refine keeps_foldl ?_ (fun _ _ _ => ?_)
    | ((try lift_lets); intro x; refine (fun (hx : Keeps pd x) => ?_) ?_; clear_value x; rotate_left; unfold x; clear x)
    | (lift_lets; intro x)
    | intro _
    | simp only [↓keeps_mk]
    | with_reducible apply keeps_ite
    | simp +zetaDelta only [↓keeps_mk]
    | split
    | (clear_value *; split))

end Sys2Proof.Machine
end

