-- ==== Sys2Proof/Laws/KeepsPair.lean ====
section
/-! SUPPORT. Every operation of Machine/Pair.lean leaves the queue alone and keeps the memories canonical; one that writes no memory keeps every byte.
-/
namespace Sys2Proof.Machine

theorem jaranSend_keeps {pd : Kept} (s : State) (type flags : Nat) (payload : List Byte) (hs : Keeps pd s) :
    Keeps pd (jaranSend s type flags payload) := by
  unfold jaranSend
  repeat' (first
    | with_reducible assumption
    | (with_reducible first | apply emit_keeps)
    | with_reducible refine keeps_foldl ?_ (fun _ _ _ => ?_)
    | ((try lift_lets); intro x; refine (fun (hx : Keeps pd x) => ?_) ?_; clear_value x; rotate_left; unfold x; clear x)
    | (lift_lets; intro x)
    | intro _
    | simp only [↓keeps_mk]
    | with_reducible apply keeps_ite
    | split)

theorem sendResync_keeps {pd : Kept} (s : State) (ts : List Nat) (hs : Keeps pd s) :
    Keeps pd (sendResync s ts) := by
  unfold sendResync
  repeat' (first
    | with_reducible assumption
    | (with_reducible first | apply jaranSend_keeps)
    | ((try lift_lets); intro x; refine (fun (hx : Keeps pd x) => ?_) ?_; clear_value x; rotate_left; unfold x; clear x)
    | (lift_lets; intro x)
    | intro _
    | simp only [↓keeps_mk]
    | with_reducible apply keeps_ite
    | split)

theorem requestCopy_keeps {pd : Kept} (s : State) (ts : List Nat) (hs : Keeps pd s) :
    Keeps pd (requestCopy s ts) := by
  unfold requestCopy
  repeat' (first
    | with_reducible assumption
    | (with_reducible first | apply setIrqIf_keeps | apply raiseHub_keeps | apply sendResync_keeps)
    | ((try lift_lets); intro x; refine (fun (hx : Keeps pd x) => ?_) ?_; clear_value x; rotate_left; unfold x; clear x)
    | (lift_lets; intro x)
    | intro _
    | simp only [↓keeps_mk]
    | with_reducible apply keeps_ite)

theorem acceptJaran_keeps {pd : Kept} (s : State) (h : JaranHead) (hs : Keeps pd s) :
    Keeps pd (acceptJaran s h) := by
  unfold acceptJaran
  repeat' (first
    | with_reducible assumption
    | (with_reducible first | apply requestCopy_keeps)
    | ((try lift_lets); intro x; refine (fun (hx : Keeps pd x) => ?_) ?_; clear_value x; rotate_left; unfold x; clear x)
    | (lift_lets; intro x)
    | simp only [↓keeps_mk]
    | intro _
    | with_reducible apply keeps_ite
    | split)

theorem makeIncompatible_keeps {pd : Kept} (s : State) (hs : Keeps pd s) :
    Keeps pd (makeIncompatible s) := by
  unfold makeIncompatible
  repeat' (first
    | with_reducible assumption
    | (with_reducible first | apply abandonSwitch_keeps | apply raiseHub_keeps | apply setIrq_keeps | apply setVote_keeps)
    | ((try lift_lets); intro x; refine (fun (hx : Keeps pd x) => ?_) ?_; clear_value x; rotate_left; unfold x; clear x)
    | (lift_lets; intro x)
    | intro _
    | simp only [↓keeps_mk]
    | with_reducible apply keeps_ite
    | split)

theorem seeMismatch_keeps {pd : Kept} (s : State) (hs : Keeps pd s) :
    Keeps pd (seeMismatch s) := by
  unfold seeMismatch
  repeat' (first
    | with_reducible assumption
    | (with_reducible first | apply raiseHub_keeps | apply abandonSwitch_keeps)
    | simp only [↓keeps_mk])

theorem compareOutputs_keeps {pd : Kept} (s : State) (t : Nat) (hs : Keeps pd s) :
    Keeps pd (compareOutputs s t) := by
  unfold compareOutputs
  repeat' (first
    | with_reducible assumption
    | (with_reducible first | apply seeMismatch_keeps)
    | ((try lift_lets); intro x; refine (fun (hx : Keeps pd x) => ?_) ?_; clear_value x; rotate_left; unfold x; clear x)
    | (lift_lets; intro x)
    | intro _
    | simp only
    | with_reducible apply keeps_ite
    | simp +zetaDelta only [↓keeps_mk]
    | split
    | (clear_value *; split)
    | (with_reducible refine keeps_pair1 (by assumption) ?_)
    | (with_reducible refine keeps_pair2 (by assumption) ?_)
    | (with_reducible refine keeps_pair3 (by assumption) ?_))

theorem offerOutput_keeps {pd : Kept} (s : State) (t : Nat) (f : LaneFrame) (hs : Keeps pd s) :
    Keeps pd (offerOutput s t f) := by
  unfold offerOutput
  repeat' (first
    | with_reducible assumption
    | (with_reducible first | apply compareOutputs_keeps)
    | intro _
    | simp only [↓keeps_mk]
    | with_reducible apply keeps_ite)

theorem sendOutput_keeps {pd : Kept} (s : State) (t : Nat) (f : LaneFrame) (hs : Keeps pd s) :
    Keeps pd (sendOutput s t f) := by
  unfold sendOutput
  repeat' (first
    | with_reducible assumption
    | (with_reducible first | apply jaranSend_keeps)
    | ((try lift_lets); intro x; refine (fun (hx : Keeps pd x) => ?_) ?_; clear_value x; rotate_left; unfold x; clear x)
    | (lift_lets; intro x)
    | intro _
    | simp only [↓keeps_mk]
    | with_reducible apply keeps_ite
    | split)

theorem pairStep6_keeps {pd : Kept} (s : State) (t : Nat) (f : LaneFrame) (dirty : List (Nat × Nat)) (hs : Keeps pd s) :
    Keeps pd (pairStep6 s t f dirty) := by
  unfold pairStep6
  repeat' (first
    | with_reducible assumption
    | (with_reducible first | apply sendOutput_keeps)
    | with_reducible refine keeps_foldl ?_ (fun _ _ _ => ?_)
    | ((try lift_lets); intro x; refine (fun (hx : Keeps pd x) => ?_) ?_; clear_value x; rotate_left; unfold x; clear x)
    | (lift_lets; intro x)
    | intro _
    | simp only [↓keeps_mk]
    | with_reducible apply keeps_ite)

theorem carryState_keeps {pd : Kept} (s : State) (hs : Keeps pd s) :
    Keeps pd (carryState s) := by
  unfold carryState
  repeat' (first
    | with_reducible assumption
    | (with_reducible first | apply setIrq_keeps | apply raiseHub_keeps)
    | simp only [↓keeps_mk]
    | intro _
    | with_reducible apply keeps_ite)

theorem copyPages_keeps {pd : Kept} (s : State) (hs : Keeps pd s) :
    Keeps pd (copyPages s) := by
  unfold copyPages
  repeat' (first
    | with_reducible assumption
    | (with_reducible first | apply carryState_keeps | apply jaranSend_keeps)
    | with_reducible refine keeps_foldl ?_ (fun _ _ _ => ?_)
    | ((try lift_lets); intro x; refine (fun (hx : Keeps pd x) => ?_) ?_; clear_value x; rotate_left; unfold x; clear x)
    | (lift_lets; intro x)
    | intro _
    | simp only [↓keeps_mk]
    | with_reducible apply keeps_ite
    | (with_reducible refine keeps_pair1 (by assumption) ?_)
    | (with_reducible refine keeps_pair2 (by assumption) ?_)
    | (with_reducible refine keeps_pair3 (by assumption) ?_)
    | split)

theorem sendHello_keeps {pd : Kept} (s : State) (hs : Keeps pd s) :
    Keeps pd (sendHello s) := by
  unfold sendHello
  repeat' (first
    | with_reducible assumption
    | (with_reducible first | apply jaranSend_keeps)
    | ((try lift_lets); intro x; refine (fun (hx : Keeps pd x) => ?_) ?_; clear_value x; rotate_left; unfold x; clear x)
    | (lift_lets; intro x)
    | intro _
    | simp only [↓keeps_mk]
    | with_reducible apply keeps_ite
    | split)

theorem proposeSwitch_keeps {pd : Kept} (s : State) (reason : Nat) (mb : Option Mb) (hs : Keeps pd s) :
    Keeps pd (proposeSwitch s reason mb) := by
  unfold proposeSwitch
  repeat' (first
    | with_reducible assumption
    | (with_reducible first | apply jaranSend_keeps)
    | ((try lift_lets); intro x; refine (fun (hx : Keeps pd x) => ?_) ?_; clear_value x; rotate_left; unfold x; clear x)
    | (lift_lets; intro x)
    | intro _
    | simp only [↓keeps_mk]
    | with_reducible apply keeps_ite
    | split)

theorem decideStandby_keeps {pd : Kept} (s : State) (hs : Keeps pd s) :
    Keeps pd (decideStandby s) := by
  unfold decideStandby
  repeat' (first
    | with_reducible assumption
    | (with_reducible first | apply requestCopy_keeps)
    | simp only [↓keeps_mk]
    | intro _
    | with_reducible apply keeps_ite
    | split)

theorem pairStep8_keeps {pd : Kept} (s : State) (hs : Keeps pd s) :
    Keeps pd (pairStep8 s) := by
  unfold pairStep8
  repeat' (first
    | with_reducible assumption
    | (with_reducible first | apply decideStandby_keeps | apply jaranSend_keeps | apply mismatch_keeps | apply proposeSwitch_keeps | apply sendResync_keeps)
    | ((try lift_lets); intro x; refine (fun (hx : Keeps pd x) => ?_) ?_; clear_value x; rotate_left; unfold x; clear x)
    | (lift_lets; intro x)
    | intro _
    | simp only [↓keeps_mk]
    | with_reducible apply keeps_ite
    | split)

theorem takeControl_keeps {pd : Kept} (s : State) (hs : Keeps pd s) :
    Keeps pd (takeControl s) := by
  unfold takeControl
  repeat' (first
    | with_reducible assumption
    | (with_reducible first | apply setIrq_keeps | apply raiseHub_keeps | apply fireRelease_keeps | apply dropDrive_keeps | apply pump_keeps | apply voteAll_keeps)
    | ((try lift_lets); intro x; refine (fun (hx : Keeps pd x) => ?_) ?_; clear_value x; rotate_left; unfold x; clear x)
    | (lift_lets; intro x)
    | simp only [↓keeps_mk]
    | intro _
    | with_reducible apply keeps_ite
    | split)

theorem resolveConflict_keeps {pd : Kept} (s : State) (epoch : Word) (otherPrimary : Bool) (hs : Keeps pd s) :
    Keeps pd (resolveConflict s epoch otherPrimary) := by
  unfold resolveConflict
  repeat' (first
    | with_reducible assumption
    | (with_reducible first | apply abandonSwitch_keeps | apply raiseHub_keeps | apply requestCopy_keeps | apply setIrq_keeps | apply setVote_keeps | apply voteAll_keeps)
    | ((try lift_lets); intro x; refine (fun (hx : Keeps pd x) => ?_) ?_; clear_value x; rotate_left; unfold x; clear x)
    | (lift_lets; intro x)
    | intro _
    | simp only [↓keeps_mk]
    | with_reducible apply keeps_ite
    | (with_reducible refine keeps_pair1 (by assumption) ?_)
    | (with_reducible refine keeps_pair2 (by assumption) ?_)
    | (with_reducible refine keeps_pair3 (by assumption) ?_)
    | split)

theorem takeRole_keeps {pd : Kept} (s : State) (controlling : Bool) (epoch : Word) (otherPrimary : Option Bool) (hs : Keeps pd s) :
    Keeps pd (takeRole s controlling epoch otherPrimary) := by
  unfold takeRole
  repeat' (first
    | with_reducible assumption
    | (with_reducible first | apply setIrq_keeps | apply raiseHub_keeps)
    | ((try lift_lets); intro x; refine (fun (hx : Keeps pd x) => ?_) ?_; clear_value x; rotate_left; unfold x; clear x)
    | (lift_lets; intro x)
    | intro _
    | simp only [↓keeps_mk]
    | with_reducible apply keeps_ite)

end Sys2Proof.Machine
end

