-- ==== Sys2Proof/Laws/KeepsCheckpoint.lean ====
section
/-! SUPPORT. Every operation of Machine/Checkpoint.lean leaves the queue alone and keeps the memories canonical; one that writes no memory keeps every byte.
-/
namespace Sys2Proof.Machine

theorem endWindow_keeps {pd : Kept} (s : State) (t : Nat) (hs : Keeps pd s) :
    Keeps pd (endWindow s t) := by
  unfold endWindow
  repeat' (first
    | with_reducible assumption
    | (with_reducible first | apply modLanes_keeps | apply modTask_keeps)
    | ((try lift_lets); intro x; refine (fun (hx : Keeps pd x) => ?_) ?_; clear_value x; rotate_left; unfold x; clear x)
    | (lift_lets; intro x)
    | intro _
    | simp only [↓keeps_mk])

theorem nextWpos_keeps {pd : Kept} (s : State) (t : Nat) (hs : Keeps pd s) :
    Keeps pd (nextWpos s t) := by
  unfold nextWpos
  repeat' (first
    | with_reducible assumption
    | (with_reducible first | apply modLanes_keeps | apply modTask_keeps)
    | ((try lift_lets); intro x; refine (fun (hx : Keeps pd x) => ?_) ?_; clear_value x; rotate_left; unfold x; clear x)
    | (lift_lets; intro x)
    | intro _
    | simp only [↓keeps_mk])

theorem loadLaneTask_keeps {pd : Kept} (s : State) (l : Lane) (t : Nat) (hs : Keeps pd s) :
    Keeps pd (loadLaneTask s l t) := by
  unfold loadLaneTask
  repeat' (first
    | with_reducible assumption
    | (with_reducible first | apply modLane_keeps)
    | ((try lift_lets); intro x; refine (fun (hx : Keeps pd x) => ?_) ?_; clear_value x; rotate_left; unfold x; clear x)
    | (lift_lets; intro x)
    | intro _
    | simp only [↓keeps_mk]
    | split)

theorem finishCkpt_keeps {pd : Kept} (s : State) (c : Ckpt) (hs : Keeps pd s) :
    Keeps pd (finishCkpt s c) := by
  unfold finishCkpt
  repeat' (first
    | with_reducible assumption
    | (with_reducible first | apply modTask_keeps | apply modLaneTask_keeps | apply loadLaneTask_keeps)
    | with_reducible refine keeps_foldl ?_ (fun _ _ _ => ?_)
    | ((try lift_lets); intro x; refine (fun (hx : Keeps pd x) => ?_) ?_; clear_value x; rotate_left; unfold x; clear x)
    | (lift_lets; intro x)
    | intro _
    | simp only [↓keeps_mk]
    | with_reducible apply keeps_ite
    | split)

theorem startCkpt_keeps {pd : Kept} (s : State) (t : Nat) (catchUp : Option Lane) (hs : Keeps pd s) :
    Keeps pd (startCkpt s t catchUp) := by
  unfold startCkpt
  repeat' (first
    | with_reducible assumption
    | (with_reducible first | apply modLanes_keeps | apply finishCkpt_keeps)
    | ((try lift_lets); intro x; refine (fun (hx : Keeps pd x) => ?_) ?_; clear_value x; rotate_left; unfold x; clear x)
    | (lift_lets; intro x)
    | intro _
    | simp only [↓keeps_mk]
    | with_reducible apply keeps_ite
    | split)

theorem catchUps_keeps {pd : Kept} (s : State) (t : Nat) (hs : Keeps pd s) :
    Keeps pd (catchUps s t) := by
  unfold catchUps
  repeat' (first
    | with_reducible assumption
    | (with_reducible first | apply endWindow_keeps | apply startCkpt_keeps)
    | intro _
    | simp only [↓keeps_mk]
    | with_reducible apply keeps_ite
    | split)

theorem abandonCkpt_keeps {pd : Kept} (s : State) (c : Ckpt) (hs : Keeps pd s) :
    Keeps pd (abandonCkpt s c) := by
  unfold abandonCkpt
  repeat' (first
    | with_reducible assumption
    | (with_reducible first | apply modLanes_keeps)
    | with_reducible refine keeps_foldl ?_ (fun _ _ _ => ?_)
    | ((try lift_lets); intro x; refine (fun (hx : Keeps pd x) => ?_) ?_; clear_value x; rotate_left; unfold x; clear x)
    | (lift_lets; intro x)
    | intro _
    | simp only [↓keeps_mk])

theorem ckptRecord_keeps {pd : Kept} (s : State) (sev t : Nat) (hs : Keeps pd s) :
    Keeps pd (ckptRecord s sev t) := by
  unfold ckptRecord
  repeat' (first
    | with_reducible assumption
    | (with_reducible first | apply raiseHub_keeps)
    | intro _
    | with_reducible apply keeps_ite)

theorem putCkpt_keeps {pd : Kept} (s : State) (c : Ckpt) (hs : Keeps pd s) :
    Keeps pd (putCkpt s c) := by
  unfold putCkpt
  repeat' (first
    | with_reducible assumption
    | intro _
    | simp only [↓keeps_mk]
    | with_reducible apply keeps_ite)

theorem judgePage_keeps {pl : List Instr} (s : State) (c : Ckpt) (d : CkptPage) (rest : List CkptPage) (hs : Keeps (.mk pl none) s) :
    Keeps (.mk pl none) (judgePage s c d rest) := by
  unfold judgePage
  repeat' (first
    | with_reducible assumption
    | (with_reducible first | apply enterSafe_keeps | apply excludeLane_keeps | apply finishCkpt_keeps | apply catchUps_keeps | apply ckptRecord_keeps | apply putCkpt_keeps)
    | with_reducible refine keeps_foldl ?_ (fun _ _ _ => ?_)
    | ((try lift_lets); intro x; refine (fun (hx : Keeps (.mk pl none) x) => ?_) ?_; clear_value x; rotate_left; unfold x; clear x)
    | (lift_lets; intro x)
    | intro _
    | simp only
    | with_reducible apply keeps_ite
    | simp +zetaDelta only [↓keeps_mk]
    | split
    | (clear_value *; split)
    | (with_reducible refine keeps_pair1 (by assumption) ?_)
    | (with_reducible refine keeps_pair2 (by assumption) ?_)
    | (with_reducible refine keeps_pair3 (by assumption) ?_))

theorem failCatchUp_keeps {pd : Kept} (s : State) (c : Ckpt) (hs : Keeps pd s) :
    Keeps pd (failCatchUp s c) := by
  unfold failCatchUp
  repeat' (first
    | with_reducible assumption
    | (with_reducible first | apply failRejoin_keeps)
    | ((try lift_lets); intro x; refine (fun (hx : Keeps pd x) => ?_) ?_; clear_value x; rotate_left; unfold x; clear x)
    | (lift_lets; intro x)
    | intro _
    | simp only [↓keeps_mk]
    | with_reducible apply keeps_ite
    | split)

theorem sendFirst_keeps {pd : Kept} (s : State) (t : Nat) (pages : List (Nat × Nat)) (hs : Keeps pd s) :
    Keeps pd (sendFirst s t pages) := by
  unfold sendFirst
  repeat' (first
    | with_reducible assumption
    | ((try lift_lets); intro x; refine (fun (hx : Keeps pd x) => ?_) ?_; clear_value x; rotate_left; unfold x; clear x)
    | (lift_lets; intro x)
    | intro _
    | simp only [↓keeps_mk]
    | with_reducible apply keeps_ite
    | split)

theorem takePage_keeps {pl : List Instr} (s : State) (fate : PageFate) (hs : Keeps (.mk pl none) s) :
    Keeps (.mk pl none) (takePage s fate) := by
  unfold takePage
  repeat' (first
    | with_reducible assumption
    | (with_reducible first | apply abandonCkpt_keeps | apply ckptRecord_keeps | apply failCatchUp_keeps | apply finishCkpt_keeps | apply judgePage_keeps | apply putCkpt_keeps)
    | ((try lift_lets); intro x; refine (fun (hx : Keeps (.mk pl none) x) => ?_) ?_; clear_value x; rotate_left; unfold x; clear x)
    | (lift_lets; intro x)
    | intro _
    | simp only [↓keeps_mk]
    | with_reducible apply keeps_ite
    | split)

theorem execCheckpointPage_keeps {pl : List Instr} (fate : PageFate) (s : State) (hs : Keeps (.mk pl none) s) :
    KeepsO (.mk pl none) (execCheckpointPage fate s) := by
  unfold execCheckpointPage
  repeat' (first
    | with_reducible assumption
    | with_reducible exact keepsO_fault _
    | with_reducible refine keepsO_next ?_
    | (with_reducible first | apply takePage_keeps)
    | ((try lift_lets); intro x; refine (fun (hx : Keeps (.mk pl none) x) => ?_) ?_; clear_value x; rotate_left; unfold x; clear x)
    | (lift_lets; intro x)
    | intro _
    | simp only [↓keeps_mk]
    | with_reducible apply keeps_ite
    | with_reducible apply keepsO_ite
    | split)

theorem retainedStep5_keeps {pd : Kept} (s : State) (lines : List RetLine) (hs : Keeps pd s) :
    Keeps pd (retainedStep5 s lines) := by
  unfold retainedStep5
  repeat' (first
    | with_reducible assumption
    | with_reducible refine keeps_foldl ?_ (fun _ _ _ => ?_)
    | ((try lift_lets); intro x; refine (fun (hx : Keeps pd x) => ?_) ?_; clear_value x; rotate_left; unfold x; clear x)
    | (lift_lets; intro x)
    | intro _
    | simp only [↓keeps_mk])

theorem writeLines_wf {m : List Host.Cell} (k : Nat) (keys : List Word) (xs : List (RetLine × Bool × Bool)) (h : Memory.wf m) :
    Memory.wf (writeLines m k keys xs) := by
  induction xs generalizing m with
  | nil => exact h
  | cons x xs ih =>
    unfold writeLines
    split
    · exact ih (memWrites_wf _ _ h)
    · exact ih h

theorem writtenBuffer_wf (s : State) (p : Program) (k : Nat) (keys : List Word) (h : Memory.wf s.xch.mram) :
    Memory.wf (writtenBuffer s p k keys) := by
  unfold writtenBuffer
  refine memWrites_wf _ _ ?_
  split
  · exact memWrites_wf _ _ (writeLines_wf _ _ _ (memWrites_wf _ _ h))
  · exact writeLines_wf _ _ _ (memWrites_wf _ _ h)

theorem writeRetained_keeps {pl : List Instr} (s : State) (hs : Keeps (.mk pl none) s) :
    Keeps (.mk pl none) (writeRetained s) := by
  unfold writeRetained
  split
  · exact hs
  · lift_lets
    intro _ _ _ _
    refine keeps_ite (fun _ => hs) (fun _ => ?_)
    simp only [↓keeps_mk]
    exact modMram_keeps _ _ hs (fun h => writtenBuffer_wf _ _ _ _ h)

end Sys2Proof.Machine
end

