-- ==== Sys2Proof/Laws/KeepsHarvest.lean ====
section
/-! SUPPORT. Every operation of Machine/Harvest.lean leaves the queue alone and keeps the memories canonical; one that writes no memory keeps every byte.
-/
namespace Sys2Proof.Machine

theorem modVote_keeps {pd : Kept} (s : State) (p : Party) (t : Nat) (f : Vote → Vote) (hs : Keeps pd s) :
    Keeps pd (modVote s p t f) := by
  unfold modVote
  repeat' (first
    | with_reducible assumption
    | intro _
    | simp only [↓keeps_mk]
    | with_reducible apply keeps_ite)

theorem judge_keeps {pl : List Instr} (s : State) (t : Nat) (hs : Keeps (.mk pl none) s) :
    Keeps (.mk pl none) (judge s t) := by
  unfold judge
  repeat' (first
    | with_reducible assumption
    | (with_reducible first | apply raiseHub_keeps | apply enterSafe_keeps | apply excludeLane_keeps | apply modVote_keeps)
    | with_reducible refine keeps_foldl ?_ (fun _ _ _ => ?_)
    | ((try lift_lets); intro x; refine (fun (hx : Keeps (.mk pl none) x) => ?_) ?_; clear_value x; rotate_left; unfold x; clear x)
    | (lift_lets; intro x)
    | intro _
    | simp only [↓keeps_mk]
    | with_reducible apply keeps_ite)

theorem laneStep3_keeps {pd : Kept} (s : State) (l : Lane) (t : Nat) (hs : Keeps pd s) :
    Keeps pd (laneStep3 s l t) := by
  unfold laneStep3
  repeat' (first
    | with_reducible assumption
    | (with_reducible first | apply modLaneTask_keeps | apply sendDrive_keeps | apply keepDrive_keeps | apply produceSafe_keeps)
    | ((try lift_lets); intro x; refine (fun (hx : Keeps pd x) => ?_) ?_; clear_value x; rotate_left; unfold x; clear x)
    | (lift_lets; intro x)
    | intro _
    | simp only
    | with_reducible apply keeps_ite
    | split)

theorem publishSlot_keeps {pd : Kept} (s : State) (n : Nat) (w : QWord) (hs : Keeps pd s) :
    Keeps pd (publishSlot s n w) := by
  unfold publishSlot
  repeat' (first
    | with_reducible assumption
    | (with_reducible first | apply setIrq_keeps)
    | ((try lift_lets); intro x; refine (fun (hx : Keeps pd x) => ?_) ?_; clear_value x; rotate_left; unfold x; clear x)
    | (lift_lets; intro x)
    | intro _
    | simp only [↓keeps_mk]
    | with_reducible apply keeps_ite)

theorem applyOutput_keeps {pd : Kept} (s : State) (t : Nat) (p : Program) (f : LaneFrame) (b : Binding) (hs : Keeps pd s) :
    Keeps pd (applyOutput s t p f b) := by
  unfold applyOutput
  repeat' (first
    | with_reducible assumption
    | (with_reducible first | apply discardWrite_keeps | apply modMix_keeps | apply publishSlot_keeps | apply setRun_keeps | apply setVote_keeps)
    | ((try lift_lets); intro x; refine (fun (hx : Keeps pd x) => ?_) ?_; clear_value x; rotate_left; unfold x; clear x)
    | (lift_lets; intro x)
    | intro _
    | simp only [↓keeps_mk]
    | with_reducible apply keeps_ite
    | split)

theorem requestGroup_keeps {pd : Kept} (s : State) (g : Nat) (hs : Keeps pd s) :
    Keeps pd (requestGroup s g) := by
  unfold requestGroup
  repeat' (first
    | with_reducible assumption
    | (with_reducible first | apply sendGroupPd_keeps)
    | simp only [↓keeps_mk]
    | intro _
    | with_reducible apply keeps_ite
    | split)

theorem hubStep3_keeps {pd : Kept} (s : State) (t : Nat) (p : Program) (f : LaneFrame) (hs : Keeps pd s) :
    Keeps pd (hubStep3 s t p f).1 := by
  unfold hubStep3
  repeat' (first
    | with_reducible assumption
    | (with_reducible first | apply modTask_keeps | apply cancelTrigger_keeps | apply programArm_keeps | apply applyOutput_keeps | apply requestGroup_keeps)
    | with_reducible refine keeps_foldl ?_ (fun _ _ _ => ?_)
    | ((try lift_lets); intro x; refine (fun (hx : Keeps pd x) => ?_) ?_; clear_value x; rotate_left; unfold x; clear x)
    | (lift_lets; intro x)
    | intro _
    | simp only [↓keeps_mk])

theorem step4_keeps {pd : Kept} (s : State) (t : Nat) (first : Bool) (hs : Keeps pd s) :
    Keeps pd (step4 s t first) := by
  unfold step4
  repeat' (first
    | with_reducible assumption
    | (with_reducible first | apply endWindow_keeps | apply nextWpos_keeps | apply startCkpt_keeps | apply catchUps_keeps)
    | ((try lift_lets); intro x; refine (fun (hx : Keeps pd x) => ?_) ?_; clear_value x; rotate_left; unfold x; clear x)
    | (lift_lets; intro x)
    | intro _
    | simp only [↓keeps_mk]
    | with_reducible apply keeps_ite)

theorem takeAck_keeps {pl : List Instr} (s : State) (hs : Keeps (.mk pl none) s) :
    Keeps (.mk pl none) (takeAck s) := by
  unfold takeAck
  repeat' (first
    | with_reducible assumption
    | (with_reducible first | apply ackIrq_keeps | apply catchUps_keeps | apply modLanes_keeps | apply setMode_keeps)
    | with_reducible refine keeps_foldl ?_ (fun _ _ _ => ?_)
    | ((try lift_lets); intro x; refine (fun (hx : Keeps (.mk pl none) x) => ?_) ?_; clear_value x; rotate_left; unfold x; clear x)
    | (lift_lets; intro x)
    | intro _
    | simp only [↓keeps_mk]
    | with_reducible apply keeps_ite
    | split)

theorem takeAttach_keeps {pl : List Instr} (s : State) (hs : Keeps (.mk pl none) s) :
    Keeps (.mk pl none) (takeAttach s) := by
  unfold takeAttach
  repeat' (first
    | with_reducible assumption
    | (with_reducible first | apply modLane_keeps | apply voteAll_keeps | apply moduleRecord_keeps | apply setMode_keeps)
    | ((try lift_lets); intro x; refine (fun (hx : Keeps (.mk pl none) x) => ?_) ?_; clear_value x; rotate_left; unfold x; clear x)
    | (lift_lets; intro x)
    | intro _
    | simp only [↓keeps_mk]
    | with_reducible apply keeps_ite
    | split)

theorem admitLanes_keeps {pl : List Instr} (s : State) (hs : Keeps (.mk pl none) s) :
    Keeps (.mk pl none) (admitLanes s) := by
  unfold admitLanes
  repeat' (first
    | with_reducible assumption
    | (with_reducible first | apply modLane_keeps | apply raiseHub_keeps | apply stage_keeps | apply setMode_keeps)
    | with_reducible refine keeps_foldl ?_ (fun _ _ _ => ?_)
    | ((try lift_lets); intro x; refine (fun (hx : Keeps (.mk pl none) x) => ?_) ?_; clear_value x; rotate_left; unfold x; clear x)
    | (lift_lets; intro x)
    | intro _
    | simp only [↓keeps_mk]
    | with_reducible apply keeps_ite)

theorem renewRetained_keeps {pd : Kept} (s : State) (hs : Keeps pd s) :
    Keeps pd (renewRetained s) := by
  unfold renewRetained
  repeat' (first
    | with_reducible assumption
    | ((try lift_lets); intro x; refine (fun (hx : Keeps pd x) => ?_) ?_; clear_value x; rotate_left; unfold x; clear x)
    | (lift_lets; intro x)
    | intro _
    | simp only [↓keeps_mk]
    | split)

theorem step8_keeps {pl : List Instr} (s : State) (t : Nat) (hs : Keeps (.mk pl none) s) :
    Keeps (.mk pl none) (step8 s t) := by
  unfold step8
  repeat' (first
    | with_reducible assumption
    | (with_reducible first | apply shedAtStep8_keeps | apply performSwap_keeps | apply activateRestart_keeps | apply finishExchange_keeps | apply pairStep8_keeps | apply takeAck_keeps | apply takeAttach_keeps | apply admitLanes_keeps | apply renewRetained_keeps)
    | ((try lift_lets); intro x; refine (fun (hx : Keeps (.mk pl none) x) => ?_) ?_; clear_value x; rotate_left; unfold x; clear x)
    | (lift_lets; intro x)
    | intro _
    | with_reducible apply keeps_ite)

theorem runStep8_keeps {pl : List Instr} (n : Nat) (s : State) (hs : Keeps (.mk pl none) s) : Keeps (.mk pl none) (runStep8 n s) := by
  induction n generalizing s with
  | zero => exact hs
  | succ n ih =>
    unfold runStep8
    split
    · exact hs
    · refine keeps_ite (fun _ => hs) (fun _ => ih _ (step8_keeps _ _ ?_))
      simpa only [↓keeps_mk] using hs

theorem pumpStep8_keeps {pl : List Instr} (s : State) (hs : Keeps (.mk pl none) s) :
    Keeps (.mk pl none) (pumpStep8 s) := by
  unfold pumpStep8
  repeat' (first
    | with_reducible assumption
    | (with_reducible first | apply runStep8_keeps)
    | ((try lift_lets); intro x; refine (fun (hx : Keeps (.mk pl none) x) => ?_) ?_; clear_value x; rotate_left; unfold x; clear x)
    | (lift_lets; intro x)
    | intro _
    | simp only [↓keeps_mk]
    | with_reducible apply keeps_ite
    | split)

theorem execRetainedWrite_keeps {pl : List Instr} (s : State) (hs : Keeps (.mk pl none) s) :
    KeepsO (.mk pl none) (execRetainedWrite s) := by
  unfold execRetainedWrite
  repeat' (first
    | with_reducible assumption
    | with_reducible exact keepsO_fault _
    | with_reducible refine keepsO_next ?_
    | (with_reducible first | apply pumpStep8_keeps | apply writeRetained_keeps)
    | ((try lift_lets); intro x; refine (fun (hx : Keeps (.mk pl none) x) => ?_) ?_; clear_value x; rotate_left; unfold x; clear x)
    | (lift_lets; intro x)
    | intro _
    | simp only [↓keeps_mk]
    | with_reducible apply keeps_ite
    | with_reducible apply keepsO_ite
    | split)

theorem execJaranCopy_keeps {pl : List Instr} (s : State) (hs : Keeps (.mk pl none) s) :
    KeepsO (.mk pl none) (execJaranCopy s) := by
  unfold execJaranCopy
  repeat' (first
    | with_reducible assumption
    | with_reducible exact keepsO_fault _
    | with_reducible refine keepsO_next ?_
    | (with_reducible first | apply copyPages_keeps | apply pumpStep8_keeps)
    | ((try lift_lets); intro x; refine (fun (hx : Keeps (.mk pl none) x) => ?_) ?_; clear_value x; rotate_left; unfold x; clear x)
    | (lift_lets; intro x)
    | intro _
    | simp only [↓keeps_mk]
    | with_reducible apply keeps_ite
    | with_reducible apply keepsO_ite
    | split)

theorem execRecorderFiring_keeps {pl : List Instr} (s : State) (hs : Keeps (.mk pl none) s) :
    KeepsO (.mk pl none) (execRecorderFiring s) := by
  unfold execRecorderFiring
  repeat' (first
    | with_reducible assumption
    | with_reducible exact keepsO_fault _
    | with_reducible refine keepsO_next ?_
    | (with_reducible first | apply pumpStep8_keeps | apply step7_keeps)
    | ((try lift_lets); intro x; refine (fun (hx : Keeps (.mk pl none) x) => ?_) ?_; clear_value x; rotate_left; unfold x; clear x)
    | (lift_lets; intro x)
    | intro _
    | simp only [↓keeps_mk]
    | with_reducible apply keeps_ite
    | with_reducible apply keepsO_ite
    | (with_reducible refine keeps_pair1 (by assumption) ?_)
    | (with_reducible refine keeps_pair2 (by assumption) ?_)
    | (with_reducible refine keeps_pair3 (by assumption) ?_)
    | split)

theorem judgeShadow_keeps {pd : Kept} (s : State) (t : Nat) (x : Vector3) (hs : Keeps pd s) :
    Keeps pd (judgeShadow s t x) := by
  unfold judgeShadow
  repeat' (first
    | with_reducible assumption
    | (with_reducible first | apply modLane_keeps | apply failRejoin_keeps)
    | with_reducible refine keeps_foldl ?_ (fun _ _ _ => ?_)
    | ((try lift_lets); intro x; refine (fun (hx : Keeps pd x) => ?_) ?_; clear_value x; rotate_left; unfold x; clear x)
    | (lift_lets; intro x)
    | intro _
    | simp only [↓keeps_mk]
    | with_reducible apply keeps_ite
    | split)

theorem abortHarvest_keeps {pd : Kept} (s : State) (seq : DWord) (t : Nat) (hs : Keeps pd s) :
    Keeps pd (abortHarvest s seq t) := by
  unfold abortHarvest
  repeat' (first
    | with_reducible assumption
    | (with_reducible first | apply step7_keeps)
    | simp only [↓keeps_mk])

theorem performHarvest_keeps {pl : List Instr} (s : State) (seq : DWord) (t : Nat) (f : LaneFrame) (hs : Keeps (.mk pl none) s) :
    Keeps (.mk pl none) (performHarvest s seq t f) := by
  unfold performHarvest
  repeat' (first
    | with_reducible assumption
    | (with_reducible first | apply hubStep3_keeps | apply offerOutput_keeps | apply pairStep6_keeps | apply pumpStep8_keeps | apply retainedStep5_keeps | apply retireGone_keeps | apply step4_keeps | apply step7_keeps | apply step8_keeps)
    | ((try lift_lets); intro x; refine (fun (hx : Keeps (.mk pl none) x) => ?_) ?_; clear_value x; rotate_left; unfold x; clear x)
    | (lift_lets; intro x)
    | intro _
    | simp only [↓keeps_mk]
    | with_reducible apply keeps_ite
    | (with_reducible refine keeps_pair1 (by assumption) ?_)
    | (with_reducible refine keeps_pair2 (by assumption) ?_)
    | (with_reducible refine keeps_pair3 (by assumption) ?_)
    | split)

theorem numberHarvest_keeps {pl : List Instr} (s : State) (t : Nat) (hs : Keeps (.mk pl none) s) :
    Keeps (.mk pl none) (numberHarvest s t) := by
  unfold numberHarvest
  repeat' (first
    | with_reducible assumption
    | (with_reducible first | apply abortHarvest_keeps | apply enterHalted_keeps | apply enterSafe_keeps | apply judgeShadow_keeps | apply judge_keeps | apply modLane_keeps | apply modTask_keeps | apply performHarvest_keeps)
    | with_reducible refine keeps_foldl ?_ (fun _ _ _ => ?_)
    | ((try lift_lets); intro x; refine (fun (hx : Keeps (.mk pl none) x) => ?_) ?_; clear_value x; rotate_left; unfold x; clear x)
    | (lift_lets; intro x)
    | intro _
    | simp only [↓keeps_mk]
    | with_reducible apply keeps_ite
    | split)

theorem hubHarvest_keeps {pl : List Instr} (s : State) (t : Nat) (hs : Keeps (.mk pl none) s) :
    Keeps (.mk pl none) (hubHarvest s t) := by
  unfold hubHarvest
  repeat' (first
    | with_reducible assumption
    | (with_reducible first | apply enterHalted_keeps | apply numberHarvest_keeps)
    | ((try lift_lets); intro x; refine (fun (hx : Keeps (.mk pl none) x) => ?_) ?_; clear_value x; rotate_left; unfold x; clear x)
    | (lift_lets; intro x)
    | intro _
    | with_reducible apply keeps_ite)

theorem holdTask_keeps {pd : Kept} (s : State) (t : Nat) (hs : Keeps pd s) :
    Keeps pd (holdTask s t) := by
  unfold holdTask
  repeat' (first
    | with_reducible assumption
    | (with_reducible first | apply voteAll_keeps)
    | ((try lift_lets); intro x; refine (fun (hx : Keeps pd x) => ?_) ?_; clear_value x; rotate_left; unfold x; clear x)
    | (lift_lets; intro x)
    | intro _
    | simp only [↓keeps_mk]
    | with_reducible apply keeps_ite)

theorem closeVote_keeps {pl : List Instr} (s : State) (p : Party) (t : Nat) (hs : Keeps (.mk pl none) s) :
    Keeps (.mk pl none) (closeVote s p t) := by
  unfold closeVote
  repeat' (first
    | with_reducible assumption
    | (with_reducible first | apply modVote_keeps | apply judge_keeps | apply laneStep3_keeps | apply hubHarvest_keeps | apply holdTask_keeps)
    | ((try lift_lets); intro x; refine (fun (hx : Keeps (.mk pl none) x) => ?_) ?_; clear_value x; rotate_left; unfold x; clear x)
    | (lift_lets; intro x)
    | intro _
    | simp only [↓keeps_mk]
    | with_reducible apply keeps_ite
    | split)

theorem countAtHub_keeps {pd : Kept} (s : State) (p : Party) (l : Lane) (f : LaneSt → LaneSt) (hs : Keeps pd s) :
    Keeps pd (countAtHub s p l f) := by
  unfold countAtHub
  repeat' (first
    | with_reducible assumption
    | (with_reducible first | apply modLane_keeps)
    | intro _
    | with_reducible apply keeps_ite)

theorem badSlot_keeps {pd : Kept} (s : State) (t : Nat) (l : Lane) (corrupt : Bool) (hs : Keeps pd s) :
    Keeps pd (badSlot s t l corrupt) := by
  unfold badSlot
  repeat' (first
    | with_reducible assumption
    | (with_reducible first | apply raiseHub_keeps | apply modVote_keeps)
    | ((try lift_lets); intro x; refine (fun (hx : Keeps pd x) => ?_) ?_; clear_value x; rotate_left; unfold x; clear x)
    | (lift_lets; intro x)
    | intro _
    | simp only [↓keeps_mk]
    | with_reducible apply keeps_ite)

theorem takeSeq_keeps {pd : Kept} (s : State) (p : Party) (l : Lane) (seq : Word) (last : Option Word) (hs : Keeps pd s) :
    Keeps pd (takeSeq s p l seq last) := by
  unfold takeSeq
  repeat' (first
    | with_reducible assumption
    | (with_reducible first | apply countAtHub_keeps)
    | ((try lift_lets); intro x; refine (fun (hx : Keeps pd x) => ?_) ?_; clear_value x; rotate_left; unfold x; clear x)
    | (lift_lets; intro x)
    | intro _
    | simp only [↓keeps_mk]
    | with_reducible apply keeps_ite
    | split)

theorem compareFrame_keeps {pl : List Instr} (s : State) (p : Party) (l : Lane) (f : LaneFrame) (v : Vote) (slot : Option Bool) (hs : Keeps (.mk pl none) s) :
    Keeps (.mk pl none) (compareFrame s p l f v slot) := by
  unfold compareFrame
  repeat' (first
    | with_reducible assumption
    | (with_reducible first | apply badSlot_keeps | apply closeVote_keeps | apply modVote_keeps)
    | ((try lift_lets); intro x; refine (fun (hx : Keeps (.mk pl none) x) => ?_) ?_; clear_value x; rotate_left; unfold x; clear x)
    | (lift_lets; intro x)
    | intro _
    | simp only [↓keeps_mk]
    | with_reducible apply keeps_ite
    | split)

theorem acceptFrame_keeps {pl : List Instr} (s : State) (p : Party) (l : Lane) (f : LaneFrame) (slot : Option Bool) (hs : Keeps (.mk pl none) s) :
    Keeps (.mk pl none) (acceptFrame s p l f slot) := by
  unfold acceptFrame
  repeat' (first
    | with_reducible assumption
    | (with_reducible first | apply compareFrame_keeps | apply countAtHub_keeps | apply takeSeq_keeps)
    | ((try lift_lets); intro x; refine (fun (hx : Keeps (.mk pl none) x) => ?_) ?_; clear_value x; rotate_left; unfold x; clear x)
    | (lift_lets; intro x)
    | intro _
    | simp only [↓keeps_mk]
    | with_reducible apply keeps_ite
    | split)

theorem arriveFrame_keeps {pl : List Instr} (s : State) (p : Party) (l : Lane) (t : Nat) (fate : FrameFate) (hs : Keeps (.mk pl none) s) :
    Keeps (.mk pl none) (arriveFrame s p l t fate) := by
  unfold arriveFrame
  repeat' (first
    | with_reducible assumption
    | (with_reducible first | apply countAtHub_keeps | apply acceptFrame_keeps)
    | ((try lift_lets); intro x; refine (fun (hx : Keeps (.mk pl none) x) => ?_) ?_; clear_value x; rotate_left; unfold x; clear x)
    | (lift_lets; intro x)
    | intro _
    | simp only [↓keeps_mk]
    | with_reducible apply keeps_ite
    | split)

theorem execLaneFrameArrival_keeps {pl : List Instr} (p : Party) (l : Lane) (t : Fin 16) (fate : FrameFate) (s : State) (hs : Keeps (.mk pl none) s) :
    KeepsO (.mk pl none) (execLaneFrameArrival p l t fate s) := by
  unfold execLaneFrameArrival
  repeat' (first
    | with_reducible assumption
    | with_reducible exact keepsO_fault _
    | with_reducible refine keepsO_next ?_
    | (with_reducible first | apply arriveFrame_keeps))

theorem execVoteDeadline_keeps {pl : List Instr} (p : Party) (t : Fin 16) (s : State) (hs : Keeps (.mk pl none) s) :
    KeepsO (.mk pl none) (execVoteDeadline p t s) := by
  unfold execVoteDeadline
  repeat' (first
    | with_reducible assumption
    | with_reducible exact keepsO_fault _
    | with_reducible refine keepsO_next ?_
    | (with_reducible first | apply closeVote_keeps)
    | simp only [↓keeps_mk]
    | intro _
    | with_reducible apply keeps_ite
    | with_reducible apply keepsO_ite
    | split)

theorem execComparatorNoVerdict_keeps {pl : List Instr} (p : Party) (t : Fin 16) (s : State) (hs : Keeps (.mk pl none) s) :
    KeepsO (.mk pl none) (execComparatorNoVerdict p t s) := by
  unfold execComparatorNoVerdict
  repeat' (first
    | with_reducible assumption
    | with_reducible exact keepsO_fault _
    | with_reducible refine keepsO_next ?_
    | (with_reducible first | apply abortHarvest_keeps | apply judge_keeps | apply modTask_keeps | apply modVote_keeps)
    | ((try lift_lets); intro x; refine (fun (hx : Keeps (.mk pl none) x) => ?_) ?_; clear_value x; rotate_left; unfold x; clear x)
    | (lift_lets; intro x)
    | intro _
    | simp only [↓keeps_mk]
    | with_reducible apply keeps_ite
    | with_reducible apply keepsO_ite
    | split)

end Sys2Proof.Machine
end

