-- ==== Sys2Proof/Laws/KeepsLanes.lean ====
section
/-! SUPPORT. Every operation of Machine/Lanes.lean leaves the queue alone and keeps the memories canonical; one that writes no memory keeps every byte.
-/
namespace Sys2Proof.Machine

theorem deliverOwn_keeps {pl : List Instr} (s : State) (l : Lane) (t : Nat) (hs : Keeps (.mk pl none) s) :
    Keeps (.mk pl none) (deliverOwn s l t) := by
  unfold deliverOwn
  repeat' (first
    | with_reducible assumption
    | (with_reducible first | apply arriveFrame_keeps))

theorem endCycle_keeps {pl : List Instr} (s : State) (l : Lane) (t : Nat) (hs : Keeps (.mk pl none) s) :
    Keeps (.mk pl none) (endCycle s l t) := by
  unfold endCycle
  repeat' (first
    | with_reducible assumption
    | (with_reducible first | apply shipFrame_keeps | apply deliverOwn_keeps)
    | intro _
    | with_reducible apply keeps_ite)

theorem takeStamp_keeps {pl : List Instr} (s : State) (l : Lane) (m : StampMsg) (hs : Keeps (.mk pl none) s) :
    Keeps (.mk pl none) (takeStamp s l m) := by
  unfold takeStamp
  repeat' (first
    | with_reducible assumption
    | (with_reducible first | apply startCycle_keeps | apply checkConns_keeps | apply deliverOwn_keeps)
    | ((try lift_lets); intro x; refine (fun (hx : Keeps (.mk pl none) x) => ?_) ?_; clear_value x; rotate_left; unfold x; clear x)
    | (lift_lets; intro x)
    | simp only
    | intro _
    | with_reducible apply keeps_ite
    | split)

theorem startReleases_keeps {pl : List Instr} (s : State) (l : Lane) (hs : Keeps (.mk pl none) s) :
    Keeps (.mk pl none) (startReleases s l) := by
  unfold startReleases
  repeat' (first
    | with_reducible assumption
    | (with_reducible first | apply modLane_keeps | apply takeStamp_keeps)
    | with_reducible refine keeps_foldl ?_ (fun _ _ _ => ?_)
    | ((try lift_lets); intro x; refine (fun (hx : Keeps (.mk pl none) x) => ?_) ?_; clear_value x; rotate_left; unfold x; clear x)
    | (lift_lets; intro x)
    | intro _
    | simp only [↓keeps_mk]
    | with_reducible apply keeps_ite
    | split)

theorem stampArrives_keeps {pl : List Instr} (s : State) (l : Lane) (m : StampMsg) (hs : Keeps (.mk pl none) s) :
    Keeps (.mk pl none) (stampArrives s l m) := by
  unfold stampArrives
  repeat' (first
    | with_reducible assumption
    | (with_reducible first | apply modLaneTask_keeps | apply modLane_keeps | apply startReleases_keeps)
    | ((try lift_lets); intro x; refine (fun (hx : Keeps (.mk pl none) x) => ?_) ?_; clear_value x; rotate_left; unfold x; clear x)
    | (lift_lets; intro x)
    | intro _
    | simp only [↓keeps_mk]
    | with_reducible apply keeps_ite
    | split)

theorem execReleaseStampArrival_keeps {pl : List Instr} (a : StampArrival) (s : State) (hs : Keeps (.mk pl none) s) :
    KeepsO (.mk pl none) (execReleaseStampArrival a s) := by
  unfold execReleaseStampArrival
  repeat' (first
    | with_reducible assumption
    | with_reducible exact keepsO_fault _
    | with_reducible refine keepsO_next ?_
    | (with_reducible first | apply modLane_keeps | apply stampArrives_keeps)
    | ((try lift_lets); intro x; refine (fun (hx : Keeps (.mk pl none) x) => ?_) ?_; clear_value x; rotate_left; unfold x; clear x)
    | (lift_lets; intro x)
    | intro _
    | simp only [↓keeps_mk]
    | with_reducible apply keeps_ite
    | with_reducible apply keepsO_ite
    | split)

theorem execSampleFrameReceive_keeps {pl : List Instr} (l : Lane) (good : Bool) (s : State) (hs : Keeps (.mk pl none) s) :
    KeepsO (.mk pl none) (execSampleFrameReceive l good s) := by
  unfold execSampleFrameReceive
  repeat' (first
    | with_reducible assumption
    | with_reducible exact keepsO_fault _
    | with_reducible refine keepsO_next ?_
    | (with_reducible first | apply startReleases_keeps | apply takeSample_keeps)
    | ((try lift_lets); intro x; refine (fun (hx : Keeps (.mk pl none) x) => ?_) ?_; clear_value x; rotate_left; unfold x; clear x)
    | (lift_lets; intro x)
    | intro _
    | simp only [↓keeps_mk]
    | with_reducible apply keeps_ite
    | with_reducible apply keepsO_ite
    | split)

theorem execPanDispatch_keeps {pd : Kept} (l : Lane) (block pan : Fin 16) (xbar : Xbar) (s : State) (hs : Keeps pd s) :
    KeepsO pd (execPanDispatch l block pan xbar s) := by
  unfold execPanDispatch
  repeat' (first
    | with_reducible assumption
    | with_reducible exact keepsO_fault _
    | with_reducible refine keepsO_next ?_
    | (with_reducible first | apply dispatchPan_keeps))

theorem completeInst_keeps {pl : List Instr} (s : State) (l : Lane) (b p : Nat) (agree : Bool) (xbar : Xbar) (hs : Keeps (.mk pl none) s) :
    Keeps (.mk pl none) (completeInst s l b p agree xbar) := by
  unfold completeInst
  repeat' (first
    | with_reducible assumption
    | (with_reducible first | apply commitInst_keeps | apply crossbar_keeps | apply endCycle_keeps | apply modPan_keeps | apply retirePan_keeps | apply sendFirst_keeps)
    | ((try lift_lets); intro x; refine (fun (hx : Keeps (.mk pl none) x) => ?_) ?_; clear_value x; rotate_left; unfold x; clear x)
    | (lift_lets; intro x)
    | intro _
    | simp only [↓keeps_mk]
    | with_reducible apply keeps_ite
    | (with_reducible refine keeps_pair1 (by assumption) ?_)
    | (with_reducible refine keeps_pair2 (by assumption) ?_)
    | (with_reducible refine keeps_pair3 (by assumption) ?_)
    | split)

theorem execInstanceCommit_keeps {pl : List Instr} (l : Lane) (block pan : Fin 16) (agree : Bool) (xbar : Xbar) (s : State) (hs : Keeps (.mk pl none) s) :
    KeepsO (.mk pl none) (execInstanceCommit l block pan agree xbar s) := by
  unfold execInstanceCommit
  repeat' (first
    | with_reducible assumption
    | with_reducible exact keepsO_fault _
    | with_reducible refine keepsO_next ?_
    | (with_reducible first | apply completeInst_keeps))

theorem takeWake_keeps {pd : Kept} (s : State) (l : Lane) (k : Nat) (xbar : Xbar) (hs : Keeps pd s) :
    Keeps pd (takeWake s l k xbar) := by
  unfold takeWake
  repeat' (first
    | with_reducible assumption
    | (with_reducible first | apply modLane_keeps | apply decrement_keeps | apply crossbar_keeps)
    | ((try lift_lets); intro x; refine (fun (hx : Keeps pd x) => ?_) ?_; clear_value x; rotate_left; unfold x; clear x)
    | (lift_lets; intro x)
    | intro _
    | simp only
    | with_reducible apply keeps_ite
    | split)

theorem execWakeMessage_keeps {pd : Kept} (l : Lane) (k : Nat) (xbar : Xbar) (s : State) (hs : Keeps pd s) :
    KeepsO pd (execWakeMessage l k xbar s) := by
  unfold execWakeMessage
  repeat' (first
    | with_reducible assumption
    | with_reducible exact keepsO_fault _
    | with_reducible refine keepsO_next ?_
    | (with_reducible first | apply takeWake_keeps))

theorem execCommitTimeout_keeps {pd : Kept} (l : Lane) (block pan : Fin 16) (s : State) (hs : Keeps pd s) :
    KeepsO pd (execCommitTimeout l block pan s) := by
  unfold execCommitTimeout
  repeat' (first
    | with_reducible assumption
    | with_reducible exact keepsO_fault _
    | with_reducible refine keepsO_next ?_
    | (with_reducible first | apply retirePan_keeps)
    | simp only [↓keeps_mk]
    | intro _
    | with_reducible apply keeps_ite
    | with_reducible apply keepsO_ite
    | split)

theorem eccEvent_keeps {pd : Kept} (s : State) (l : Lane) (mem : LaneMem) (b addr : Nat) (fixed : Bool) (hs : Keeps pd s) :
    Keeps pd (eccEvent s l mem b addr fixed) := by
  unfold eccEvent
  repeat' (first
    | with_reducible assumption
    | (with_reducible first | apply modLane_keeps | apply raiseLane_keeps | apply stopLane_keeps)
    | ((try lift_lets); intro x; refine (fun (hx : Keeps pd x) => ?_) ?_; clear_value x; rotate_left; unfold x; clear x)
    | (lift_lets; intro x)
    | intro _
    | simp only [↓keeps_mk]
    | with_reducible apply keeps_ite)

theorem execEccError_keeps {pd : Kept} (l : Lane) (mem : LaneMem) (block : Fin 16) (addr : Nat) (fixed : Bool) (s : State) (hs : Keeps pd s) :
    KeepsO pd (execEccError l mem block addr fixed s) := by
  unfold execEccError
  repeat' (first
    | with_reducible assumption
    | with_reducible exact keepsO_fault _
    | with_reducible refine keepsO_next ?_
    | (with_reducible first | apply eccEvent_keeps))

theorem serviceOverrun_keeps {pd : Kept} (s : State) (t : Nat) (rel : Word) (mask : Nat) (hs : Keeps pd s) :
    Keeps pd (serviceOverrun s t rel mask) := by
  unfold serviceOverrun
  repeat' (first
    | with_reducible assumption
    | (with_reducible first | apply modTask_keeps | apply setIrq_keeps | apply raiseHub_keeps)
    | ((try lift_lets); intro x; refine (fun (hx : Keeps pd x) => ?_) ?_; clear_value x; rotate_left; unfold x; clear x)
    | (lift_lets; intro x)
    | intro _
    | simp only [↓keeps_mk]
    | with_reducible apply keeps_ite)

theorem watchdogExpires_keeps {pl : List Instr} (s : State) (l : Lane) (t : Nat) (hs : Keeps (.mk pl none) s) :
    Keeps (.mk pl none) (watchdogExpires s l t) := by
  unfold watchdogExpires
  repeat' (first
    | with_reducible assumption
    | (with_reducible first | apply enterHalted_keeps | apply modLaneTask_keeps | apply modTask_keeps | apply raiseHub_keeps | apply raise_keeps | apply serviceOverrun_keeps)
    | ((try lift_lets); intro x; refine (fun (hx : Keeps (.mk pl none) x) => ?_) ?_; clear_value x; rotate_left; unfold x; clear x)
    | (lift_lets; intro x)
    | intro _
    | simp only [↓keeps_mk]
    | with_reducible apply keeps_ite
    | (with_reducible refine keeps_pair1 (by assumption) ?_)
    | (with_reducible refine keeps_pair2 (by assumption) ?_)
    | (with_reducible refine keeps_pair3 (by assumption) ?_)
    | split)

theorem execTaskWatchdogExpiry_keeps {pl : List Instr} (l : Lane) (t : Fin 16) (s : State) (hs : Keeps (.mk pl none) s) :
    KeepsO (.mk pl none) (execTaskWatchdogExpiry l t s) := by
  unfold execTaskWatchdogExpiry
  repeat' (first
    | with_reducible assumption
    | with_reducible exact keepsO_fault _
    | with_reducible refine keepsO_next ?_
    | (with_reducible first | apply watchdogExpires_keeps))

end Sys2Proof.Machine
end

