-- ==== Sys2Proof/Laws/KeepsRelease.lean ====
section
/-! SUPPORT. Every operation of Machine/Release.lean leaves the queue alone and keeps the memories canonical; one that writes no memory keeps every byte.
-/
namespace Sys2Proof.Machine

theorem deliverCaptures_keeps {pd : Kept} (s : State) (b : Binding) (caps : List (Nat × BitVec 16)) (hs : Keeps pd s) :
    Keeps pd (deliverCaptures s b caps).2 := by
  unfold deliverCaptures
  repeat' (first
    | with_reducible assumption
    | ((try lift_lets); intro x; refine (fun (hx : Keeps pd x) => ?_) ?_; clear_value x; rotate_left; unfold x; clear x)
    | (lift_lets; intro x)
    | intro _
    | simp only [↓keeps_mk]
    | with_reducible apply keeps_ite
    | (with_reducible refine keeps_pair1 (by assumption) ?_)
    | (with_reducible refine keeps_pair2 (by assumption) ?_)
    | (with_reducible refine keeps_pair3 (by assumption) ?_)
    | split)

theorem captureImage_keeps {pd : Kept} (s : State) (p : Program) (t : Nat) (caps : List (Nat × BitVec 16)) (hs : Keeps pd s) :
    Keeps pd (captureImage s p t caps).2 := by
  unfold captureImage
  repeat' (first
    | with_reducible assumption
    | (with_reducible first | apply deliverCaptures_keeps)
    | with_reducible refine keeps_foldl ?_ (fun _ _ _ => ?_)
    | with_reducible refine keeps_fold2 ?_ (fun _ _ _ => ?_)
    | ((try lift_lets); intro x; refine (fun (hx : Keeps pd x) => ?_) ?_; clear_value x; rotate_left; unfold x; clear x)
    | (lift_lets; intro x)
    | intro _
    | simp only [↓keeps_mk]
    | with_reducible apply keeps_ite
    | (with_reducible refine keeps_pair1 (by assumption) ?_)
    | (with_reducible refine keeps_pair2 (by assumption) ?_)
    | (with_reducible refine keeps_pair3 (by assumption) ?_)
    | split)

theorem latchViews_keeps {pd : Kept} (s : State) (hs : Keeps pd s) :
    Keeps pd (latchViews s) := by
  unfold latchViews
  repeat' (first
    | with_reducible assumption
    | ((try lift_lets); intro x; refine (fun (hx : Keeps pd x) => ?_) ?_; clear_value x; rotate_left; unfold x; clear x)
    | (lift_lets; intro x)
    | intro _
    | simp only [↓keeps_mk]
    | with_reducible apply keeps_ite
    | split)

theorem execTimingTick_keeps {pd : Kept} (s : State) (hs : Keeps pd s) :
    KeepsO pd (execTimingTick s) := by
  unfold execTimingTick
  repeat' (first
    | with_reducible assumption
    | with_reducible exact keepsO_fault _
    | with_reducible refine keepsO_next ?_
    | (with_reducible first | apply latchViews_keeps | apply tick_keeps)
    | ((try lift_lets); intro x; refine (fun (hx : Keeps pd x) => ?_) ?_; clear_value x; rotate_left; unfold x; clear x)
    | (lift_lets; intro x)
    | intro _
    | simp only [↓keeps_mk]
    | with_reducible apply keeps_ite
    | with_reducible apply keepsO_ite
    | split)

theorem endRestart_keeps {pd : Kept} (s : State) (hs : Keeps pd s) :
    Keeps pd (endRestart s) := by
  unfold endRestart
  repeat' (first
    | with_reducible assumption
    | (with_reducible first | apply modLanes_keeps | apply ackIrq_keeps | apply stage_keeps)
    | ((try lift_lets); intro x; refine (fun (hx : Keeps pd x) => ?_) ?_; clear_value x; rotate_left; unfold x; clear x)
    | (lift_lets; intro x)
    | intro _
    | simp only [↓keeps_mk]
    | with_reducible apply keeps_ite)

theorem failUnshipped_keeps {pd : Kept} (s : State) (t : Nat) (hs : Keeps pd s) :
    Keeps pd (failUnshipped s t) := by
  unfold failUnshipped
  repeat' (first
    | with_reducible assumption
    | (with_reducible first | apply failRejoin_keeps)
    | with_reducible refine keeps_foldl ?_ (fun _ _ _ => ?_)
    | ((try lift_lets); intro x; refine (fun (hx : Keeps pd x) => ?_) ?_; clear_value x; rotate_left; unfold x; clear x)
    | (lift_lets; intro x)
    | intro _
    | with_reducible apply keeps_ite)

theorem openRelease_keeps {pd : Kept} (s : State) (m : StampMsg) (hs : Keeps pd s) :
    Keeps pd (openRelease s m) := by
  unfold openRelease
  repeat' (first
    | with_reducible assumption
    | (with_reducible first | apply endRestart_keeps | apply failUnshipped_keeps | apply modLanes_keeps | apply takeConns_keeps)
    | ((try lift_lets); intro x; refine (fun (hx : Keeps pd x) => ?_) ?_; clear_value x; rotate_left; unfold x; clear x)
    | (lift_lets; intro x)
    | intro _
    | simp only [↓keeps_mk]
    | with_reducible apply keeps_ite
    | split)

theorem sendImage_keeps {pd : Kept} (s : State) (p : Program) (m : StampMsg) (smp : Option SampleSet) (hs : Keeps pd s) :
    Keeps pd (sendImage s p m smp) := by
  unfold sendImage
  repeat' (first
    | with_reducible assumption
    | (with_reducible first | apply checkConns_keeps | apply jaranSend_keeps)
    | ((try lift_lets); intro x; refine (fun (hx : Keeps pd x) => ?_) ?_; clear_value x; rotate_left; unfold x; clear x)
    | (lift_lets; intro x)
    | intro _
    | simp only [↓keeps_mk]
    | with_reducible apply keeps_ite
    | split)

theorem switchAtRelease_keeps {pl : List Instr} (s : State) (t : Nat) (hs : Keeps (.mk pl none) s) :
    Keeps (.mk pl none) (switchAtRelease s t).1 := by
  unfold switchAtRelease
  repeat' (first
    | with_reducible assumption
    | (with_reducible first | apply switchTask_keeps)
    | simp only [↓keeps_mk]
    | intro _
    | with_reducible apply keeps_ite
    | split)

theorem performRelease_keeps {pl : List Instr} (s : State) (t : Nat) (r : RelDue) (hs : Keeps (.mk pl none) s) :
    Keeps (.mk pl none) (performRelease s t r) := by
  unfold performRelease
  repeat' (first
    | with_reducible assumption
    | (with_reducible first | apply captureImage_keeps | apply modTask_keeps | apply openRelease_keeps | apply sendImage_keeps | apply swapPoint_keeps | apply switchAtRelease_keeps)
    | ((try lift_lets); intro x; refine (fun (hx : Keeps (.mk pl none) x) => ?_) ?_; clear_value x; rotate_left; unfold x; clear x)
    | (lift_lets; intro x)
    | intro _
    | simp only [↓keeps_mk]
    | with_reducible apply keeps_ite
    | (with_reducible refine keeps_pair1 (by assumption) ?_)
    | (with_reducible refine keeps_pair2 (by assumption) ?_)
    | (with_reducible refine keeps_pair3 (by assumption) ?_)
    | split)

theorem execRelease_keeps {pl : List Instr} (t : Fin 16) (s : State) (hs : Keeps (.mk pl none) s) :
    KeepsO (.mk pl none) (execRelease t s) := by
  unfold execRelease
  repeat' (first
    | with_reducible assumption
    | with_reducible exact keepsO_fault _
    | with_reducible refine keepsO_next ?_
    | (with_reducible first | apply modTask_keeps | apply performRelease_keeps)
    | ((try lift_lets); intro x; refine (fun (hx : Keeps (.mk pl none) x) => ?_) ?_; clear_value x; rotate_left; unfold x; clear x)
    | (lift_lets; intro x)
    | intro _
    | simp only [↓keeps_mk]
    | with_reducible apply keeps_ite
    | with_reducible apply keepsO_ite
    | split)

theorem followStamp_keeps {pd : Kept} (s : State) (t : Nat) (stamp : List QWord) (hs : Keeps pd s) :
    Keeps pd (followStamp s t stamp) := by
  unfold followStamp
  repeat' (first
    | with_reducible assumption
    | ((try lift_lets); intro x; refine (fun (hx : Keeps pd x) => ?_) ?_; clear_value x; rotate_left; unfold x; clear x)
    | (lift_lets; intro x)
    | intro _
    | simp only [↓keeps_mk]
    | with_reducible apply keeps_ite
    | split)

theorem reloadTask_keeps {pd : Kept} (s : State) (t : Nat) (hs : Keeps pd s) :
    Keeps pd (reloadTask s t) := by
  unfold reloadTask
  repeat' (first
    | with_reducible assumption
    | (with_reducible first | apply modTask_keeps | apply modLaneTask_keeps | apply setIrq_keeps | apply loadLaneTask_keeps)
    | with_reducible refine keeps_foldl ?_ (fun _ _ _ => ?_)
    | ((try lift_lets); intro x; refine (fun (hx : Keeps pd x) => ?_) ?_; clear_value x; rotate_left; unfold x; clear x)
    | (lift_lets; intro x)
    | intro _
    | simp only [↓keeps_mk]
    | with_reducible apply keeps_ite)

theorem standbyLoad_keeps {pd : Kept} (s : State) (t : Nat) (hs : Keeps pd s) :
    Keeps pd (standbyLoad s t) := by
  unfold standbyLoad
  repeat' (first
    | with_reducible assumption
    | (with_reducible first | apply modLaneTask_keeps | apply stage_keeps | apply endWindow_keeps | apply loadLaneTask_keeps)
    | with_reducible refine keeps_foldl ?_ (fun _ _ _ => ?_)
    | ((try lift_lets); intro x; refine (fun (hx : Keeps pd x) => ?_) ?_; clear_value x; rotate_left; unfold x; clear x)
    | (lift_lets; intro x)
    | intro _
    | simp only [↓keeps_mk]
    | with_reducible apply keeps_ite)

theorem copyRelease_keeps {pl : List Instr} (s : State) (flags : Nat) (i : ImageMsg) (hs : Keeps (.mk pl none) s) :
    Keeps (.mk pl none) (copyRelease s flags i) := by
  unfold copyRelease
  repeat' (first
    | with_reducible assumption
    | (with_reducible first | apply modTask_keeps | apply swapPoint_keeps | apply makeIncompatible_keeps | apply openRelease_keeps | apply switchAtRelease_keeps | apply followStamp_keeps | apply reloadTask_keeps | apply standbyLoad_keeps)
    | ((try lift_lets); intro x; refine (fun (hx : Keeps (.mk pl none) x) => ?_) ?_; clear_value x; rotate_left; unfold x; clear x)
    | (lift_lets; intro x)
    | intro _
    | simp only
    | with_reducible apply keeps_ite
    | simp +zetaDelta only [↓keeps_mk]
    | split
    | (clear_value *; split)
    | (with_reducible refine keeps_pair1 (by assumption) ?_)
    | (with_reducible refine keeps_pair2 (by assumption) ?_)
    | (with_reducible refine keeps_pair3 (by assumption) ?_))

end Sys2Proof.Machine
end

