-- ==== Sys2Proof/Laws/KeepsRestart.lean ====
section
/-! SUPPORT. Every operation of Machine/Restart.lean leaves the queue alone and keeps the memories canonical; one that writes no memory keeps every byte.
-/
namespace Sys2Proof.Machine

theorem restartSelftest_keeps {pl : List Instr} (s : State) (l : Lane) (fail : Option Nat) (bad : List (Fin 16 × Fin 16)) (hs : Keeps (.mk pl none) s) :
    Keeps (.mk pl none) (restartSelftest s l fail bad) := by
  unfold restartSelftest
  repeat' (first
    | with_reducible assumption
    | (with_reducible first | apply modLane_keeps | apply raiseHub_keeps | apply stage_keeps | apply enterHalted_keeps | apply toExcluded_keeps)
    | ((try lift_lets); intro x; refine (fun (hx : Keeps (.mk pl none) x) => ?_) ?_; clear_value x; rotate_left; unfold x; clear x)
    | (lift_lets; intro x)
    | intro _
    | simp only [↓keeps_mk]
    | with_reducible apply keeps_ite
    | split)

theorem execRestartSelftestDone_keeps {pl : List Instr} (l : Lane) (fail : Option Nat) (retired : List (Fin 16 × Fin 16)) (s : State) (hs : Keeps (.mk pl none) s) :
    KeepsO (.mk pl none) (execRestartSelftestDone l fail retired s) := by
  unfold execRestartSelftestDone
  repeat' (first
    | with_reducible assumption
    | with_reducible exact keepsO_fault _
    | with_reducible refine keepsO_next ?_
    | (with_reducible first | apply restartSelftest_keeps))

theorem loadLane_keeps {pd : Kept} (s : State) (l : Lane) (hs : Keeps pd s) :
    Keeps pd (loadLane s l) := by
  unfold loadLane
  repeat' (first
    | with_reducible assumption
    | (with_reducible first | apply loadLaneTask_keeps)
    | with_reducible refine keeps_foldl ?_ (fun _ _ _ => ?_)
    | intro _)

theorem checkpointLoaded_keeps {pd : Kept} (s : State) (hs : Keeps pd s) :
    Keeps pd (checkpointLoaded s) := by
  unfold checkpointLoaded
  repeat' (first
    | with_reducible assumption
    | (with_reducible first | apply modLane_keeps | apply modTask_keeps | apply stage_keeps | apply loadLane_keeps)
    | with_reducible refine keeps_foldl ?_ (fun _ _ _ => ?_)
    | ((try lift_lets); intro x; refine (fun (hx : Keeps pd x) => ?_) ?_; clear_value x; rotate_left; unfold x; clear x)
    | (lift_lets; intro x)
    | intro _
    | simp only [↓keeps_mk]
    | with_reducible apply keeps_ite)

theorem execCheckpointLoadDone_keeps {pd : Kept} (s : State) (hs : Keeps pd s) :
    KeepsO pd (execCheckpointLoadDone s) := by
  unfold execCheckpointLoadDone
  repeat' (first
    | with_reducible assumption
    | with_reducible exact keepsO_fault _
    | with_reducible refine keepsO_next ?_
    | (with_reducible first | apply checkpointLoaded_keeps))

theorem holdOver_keeps {pd : Kept} (s : State) (l : Lane) (hs : Keeps pd s) :
    Keeps pd (holdOver s l) := by
  unfold holdOver
  repeat' (first
    | with_reducible assumption
    | (with_reducible first | apply modLane_keeps | apply stage_keeps)
    | ((try lift_lets); intro x; refine (fun (hx : Keeps pd x) => ?_) ?_; clear_value x; rotate_left; unfold x; clear x)
    | (lift_lets; intro x)
    | intro _
    | simp only [↓keeps_mk]
    | with_reducible apply keeps_ite)

theorem execResetHoldExpiry_keeps {pd : Kept} (l : Lane) (s : State) (hs : Keeps pd s) :
    KeepsO pd (execResetHoldExpiry l s) := by
  unfold execResetHoldExpiry
  repeat' (first
    | with_reducible assumption
    | with_reducible exact keepsO_fault _
    | with_reducible refine keepsO_next ?_
    | (with_reducible first | apply holdOver_keeps))

theorem rejoinSelftest_keeps {pd : Kept} (s : State) (l : Lane) (fail : Option Nat) (bad : List (Fin 16 × Fin 16)) (hs : Keeps pd s) :
    Keeps pd (rejoinSelftest s l fail bad) := by
  unfold rejoinSelftest
  repeat' (first
    | with_reducible assumption
    | (with_reducible first | apply modLane_keeps | apply stage_keeps | apply failRejoin_keeps)
    | ((try lift_lets); intro x; refine (fun (hx : Keeps pd x) => ?_) ?_; clear_value x; rotate_left; unfold x; clear x)
    | (lift_lets; intro x)
    | intro _
    | simp only [↓keeps_mk]
    | with_reducible apply keeps_ite
    | split)

theorem execRejoinSelftestDone_keeps {pd : Kept} (l : Lane) (fail : Option Nat) (retired : List (Fin 16 × Fin 16)) (s : State) (hs : Keeps pd s) :
    KeepsO pd (execRejoinSelftestDone l fail retired s) := by
  unfold execRejoinSelftestDone
  repeat' (first
    | with_reducible assumption
    | with_reducible exact keepsO_fault _
    | with_reducible refine keepsO_next ?_
    | (with_reducible first | apply rejoinSelftest_keeps))

theorem rejoinLoaded_keeps {pd : Kept} (s : State) (l : Lane) (ok : Bool) (hs : Keeps pd s) :
    Keeps pd (rejoinLoaded s l ok) := by
  unfold rejoinLoaded
  repeat' (first
    | with_reducible assumption
    | (with_reducible first | apply modLane_keeps | apply stage_keeps | apply failRejoin_keeps | apply catchUps_keeps | apply loadLane_keeps)
    | with_reducible refine keeps_foldl ?_ (fun _ _ _ => ?_)
    | ((try lift_lets); intro x; refine (fun (hx : Keeps pd x) => ?_) ?_; clear_value x; rotate_left; unfold x; clear x)
    | (lift_lets; intro x)
    | intro _
    | simp only [↓keeps_mk]
    | with_reducible apply keeps_ite)

theorem execRejoinLoadDone_keeps {pd : Kept} (l : Lane) (ok : Bool) (s : State) (hs : Keeps pd s) :
    KeepsO pd (execRejoinLoadDone l ok s) := by
  unfold execRejoinLoadDone
  repeat' (first
    | with_reducible assumption
    | with_reducible exact keepsO_fault _
    | with_reducible refine keepsO_next ?_
    | (with_reducible first | apply rejoinLoaded_keeps))

theorem startInjection_keeps {pd : Kept} (s : State) (who : InjectBy) (hs : Keeps pd s) :
    Keeps pd (startInjection s who) := by
  unfold startInjection
  repeat' (first
    | with_reducible assumption
    | simp only [↓keeps_mk])

theorem execSelftestRun_keeps {pd : Kept} (mb : Mb) (s : State) (hs : Keeps pd s) :
    KeepsO pd (execSelftestRun mb s) := by
  unfold execSelftestRun
  repeat' (first
    | with_reducible assumption
    | with_reducible exact keepsO_fault _
    | with_reducible refine keepsO_next ?_
    | (with_reducible first | apply resultMb_keeps | apply waitMb_keeps | apply runCmd_keeps <;> (try intro _ _ _) | apply startInjection_keeps)
    | intro _
    | with_reducible apply keeps_ite
    | with_reducible apply keepsO_ite)

theorem execInjectionTestTimer_keeps {pd : Kept} (s : State) (hs : Keeps pd s) :
    KeepsO pd (execInjectionTestTimer s) := by
  unfold execInjectionTestTimer
  repeat' (first
    | with_reducible assumption
    | with_reducible exact keepsO_fault _
    | with_reducible refine keepsO_next ?_
    | (with_reducible first | apply startInjection_keeps)
    | intro _
    | with_reducible apply keeps_ite
    | with_reducible apply keepsO_ite)

theorem keepResults_keeps {pd : Kept} (s : State) (fails : List (Party × Nat)) (tested : Party → Bool) (hs : Keeps pd s) :
    Keeps pd (keepResults s fails tested) := by
  unfold keepResults
  repeat' (first
    | with_reducible assumption
    | (with_reducible first | apply modLanes_keeps)
    | ((try lift_lets); intro x; refine (fun (hx : Keeps pd x) => ?_) ?_; clear_value x; rotate_left; unfold x; clear x)
    | (lift_lets; intro x)
    | intro _
    | simp only [↓keeps_mk]
    | with_reducible apply keeps_ite)

theorem failParty_keeps {pl : List Instr} (s : State) (x : Party × Nat) (hs : Keeps (.mk pl none) s) :
    Keeps (.mk pl none) (failParty s x) := by
  unfold failParty
  repeat' (first
    | with_reducible assumption
    | (with_reducible first | apply raiseHub_keeps | apply enterSafe_keeps | apply excludeLane_keeps)
    | ((try lift_lets); intro x; refine (fun (hx : Keeps (.mk pl none) x) => ?_) ?_; clear_value x; rotate_left; unfold x; clear x)
    | (lift_lets; intro x)
    | simp only [↓keeps_mk]
    | intro _
    | with_reducible apply keeps_ite
    | split)

theorem failParties_keeps {pl : List Instr} (s : State) (bad : List (Party × Nat)) (hs : Keeps (.mk pl none) s) :
    Keeps (.mk pl none) (failParties s bad) := by
  unfold failParties
  repeat' (first
    | with_reducible assumption
    | (with_reducible first | apply enterSafe_keeps | apply failParty_keeps | apply raiseHub_keeps)
    | with_reducible refine keeps_foldl ?_ (fun _ _ _ => ?_)
    | ((try lift_lets); intro x; refine (fun (hx : Keeps (.mk pl none) x) => ?_) ?_; clear_value x; rotate_left; unfold x; clear x)
    | (lift_lets; intro x)
    | intro _
    | simp only [↓keeps_mk]
    | with_reducible apply keeps_ite
    | split)

theorem bringUpResult_keeps {pl : List Instr} (s : State) (fails : List (Party × Nat)) (hs : Keeps (.mk pl none) s) :
    Keeps (.mk pl none) (bringUpResult s fails) := by
  unfold bringUpResult
  repeat' (first
    | with_reducible assumption
    | (with_reducible first | apply raiseHub_keeps | apply stage_keeps | apply enterHalted_keeps | apply toExcluded_keeps | apply keepResults_keeps)
    | with_reducible refine keeps_foldl ?_ (fun _ _ _ => ?_)
    | ((try lift_lets); intro x; refine (fun (hx : Keeps (.mk pl none) x) => ?_) ?_; clear_value x; rotate_left; unfold x; clear x)
    | (lift_lets; intro x)
    | intro _
    | simp only [↓keeps_mk]
    | with_reducible apply keeps_ite
    | split)

theorem serviceResult_keeps {pl : List Instr} (s : State) (who : InjectBy) (fails : List (Party × Nat)) (hs : Keeps (.mk pl none) s) :
    Keeps (.mk pl none) (serviceResult s who fails) := by
  unfold serviceResult
  repeat' (first
    | with_reducible assumption
    | (with_reducible first | apply failParties_keeps | apply keepResults_keeps | apply okMb_keeps | apply resultMb_keeps)
    | ((try lift_lets); intro x; refine (fun (hx : Keeps (.mk pl none) x) => ?_) ?_; clear_value x; rotate_left; unfold x; clear x)
    | (lift_lets; intro x)
    | intro _
    | simp only [↓keeps_mk]
    | with_reducible apply keeps_ite
    | split)

theorem execInjectionTestResult_keeps {pl : List Instr} (seen : List InjectSeen) (s : State) (hs : Keeps (.mk pl none) s) :
    KeepsO (.mk pl none) (execInjectionTestResult seen s) := by
  unfold execInjectionTestResult
  repeat' (first
    | with_reducible assumption
    | with_reducible exact keepsO_fault _
    | with_reducible refine keepsO_next ?_
    | (with_reducible first | apply bringUpResult_keeps | apply serviceResult_keeps)
    | ((try lift_lets); intro x; refine (fun (hx : Keeps (.mk pl none) x) => ?_) ?_; clear_value x; rotate_left; unfold x; clear x)
    | (lift_lets; intro x)
    | intro _
    | simp only [↓keeps_mk]
    | with_reducible apply keeps_ite
    | with_reducible apply keepsO_ite
    | split)

theorem dbgAttach_keeps {pd : Kept} (s : State) (mb : Mb) (ws : List Word) (hs : Keeps pd s) :
    Keeps pd (dbgAttach s mb ws) := by
  unfold dbgAttach
  repeat' (first
    | with_reducible assumption
    | (with_reducible first | apply resultMb_keeps | apply okMb_keeps)
    | ((try lift_lets); intro x; refine (fun (hx : Keeps pd x) => ?_) ?_; clear_value x; rotate_left; unfold x; clear x)
    | (lift_lets; intro x)
    | simp only [↓keeps_mk]
    | intro _
    | with_reducible apply keeps_ite)

theorem execDbgAttach_keeps {pd : Kept} (mb : Mb) (s : State) (hs : Keeps pd s) :
    KeepsO pd (execDbgAttach mb s) := by
  unfold execDbgAttach
  repeat' (first
    | with_reducible assumption
    | with_reducible exact keepsO_fault _
    | with_reducible refine keepsO_next ?_
    | (with_reducible first | apply runCmd_keeps <;> (try intro _ _ _) | apply dbgAttach_keeps)
    | intro _)

theorem detach_keeps {pl : List Instr} (s : State) (hs : Keeps (.mk pl none) s) :
    Keeps (.mk pl none) (detach s) := by
  unfold detach
  repeat' (first
    | with_reducible assumption
    | (with_reducible first | apply modLane_keeps | apply stage_keeps | apply moduleRecord_keeps)
    | with_reducible refine keeps_foldl ?_ (fun _ _ _ => ?_)
    | ((try lift_lets); intro x; refine (fun (hx : Keeps (.mk pl none) x) => ?_) ?_; clear_value x; rotate_left; unfold x; clear x)
    | (lift_lets; intro x)
    | intro _
    | simp only [↓keeps_mk])

theorem execDbgDetach_keeps {pl : List Instr} (mb : Mb) (s : State) (hs : Keeps (.mk pl none) s) :
    KeepsO (.mk pl none) (execDbgDetach mb s) := by
  unfold execDbgDetach
  repeat' (first
    | with_reducible assumption
    | with_reducible exact keepsO_fault _
    | with_reducible refine keepsO_next ?_
    | (with_reducible first | apply resultMb_keeps | apply okMb_keeps | apply runCmd_keeps <;> (try intro _ _ _) | apply detach_keeps)
    | intro _
    | with_reducible apply keeps_ite
    | with_reducible apply keepsO_ite)

theorem laneMemory_keeps {pd : Kept} (s : State) (mb : Mb) (l : Lane) (ws : List Word) (hs : Keeps pd s) :
    Keeps pd (laneMemory s mb l ws) := by
  unfold laneMemory
  repeat' (first
    | with_reducible assumption
    | (with_reducible first | apply resultMb_keeps | apply okMb_keeps)
    | ((try lift_lets); intro x; refine (fun (hx : Keeps pd x) => ?_) ?_; clear_value x; rotate_left; unfold x; clear x)
    | (lift_lets; intro x)
    | intro _
    | with_reducible apply keeps_ite)

theorem execLaneStatus_keeps {pd : Kept} (mb : Mb) (s : State) (hs : Keeps pd s) :
    KeepsO pd (execLaneStatus mb s) := by
  unfold execLaneStatus
  repeat' (first
    | with_reducible assumption
    | with_reducible exact keepsO_fault _
    | with_reducible refine keepsO_next ?_
    | (with_reducible first | apply resultMb_keeps | apply okMb_keeps | apply runCmd_keeps <;> (try intro _ _ _) | apply laneMemory_keeps)
    | ((try lift_lets); intro x; refine (fun (hx : Keeps pd x) => ?_) ?_; clear_value x; rotate_left; unfold x; clear x)
    | (lift_lets; intro x)
    | intro _
    | with_reducible apply keeps_ite
    | with_reducible apply keepsO_ite)

end Sys2Proof.Machine
end

