-- ==== Sys2Proof/Laws/KeepsBringUp.lean ====
section
/-! SUPPORT. Every operation of Machine/BringUp.lean leaves the queue alone and keeps the memories canonical; one that writes no memory keeps every byte.
-/
namespace Sys2Proof.Machine

theorem atStage_keeps {pd : Kept} (s : State) (g : Stage) (hs : Keeps pd s) :
    Keeps pd (atStage s g) := by
  unfold atStage
  repeat' (first
    | with_reducible assumption
    | (with_reducible first | apply stage_keeps)
    | simp only [↓keeps_mk])

theorem firmwareVerified_keeps {pd : Kept} (s : State) (ok0 ok1 : Bool) (hs : Keeps pd s) :
    Keeps pd (firmwareVerified s ok0 ok1) := by
  unfold firmwareVerified
  repeat' (first
    | with_reducible assumption
    | (with_reducible first | apply atStage_keeps)
    | ((try lift_lets); intro x; refine (fun (hx : Keeps pd x) => ?_) ?_; clear_value x; rotate_left; unfold x; clear x)
    | (lift_lets; intro x)
    | intro _
    | simp only
    | with_reducible apply keeps_ite
    | simp +zetaDelta only [↓keeps_mk]
    | split
    | (clear_value *; split)
    | (with_reducible refine keeps_pair1 (by assumption) ?_)
    | (with_reducible refine keeps_pair2 (by assumption) ?_)
    | (with_reducible refine keeps_pair3 (by assumption) ?_))

theorem execFirmwareVerified_keeps {pd : Kept} (ok0 ok1 : Bool) (s : State) (hs : Keeps pd s) :
    KeepsO pd (execFirmwareVerified ok0 ok1 s) := by
  unfold execFirmwareVerified
  repeat' (first
    | with_reducible assumption
    | with_reducible exact keepsO_fault _
    | with_reducible refine keepsO_next ?_
    | (with_reducible first | apply stage_keeps | apply firmwareVerified_keeps)
    | intro _
    | with_reducible apply keeps_ite
    | with_reducible apply keepsO_ite)

theorem readHeaders_keeps {pl : List Instr} (s : State) (img : Bool) (hs : Keeps (.mk pl none) s) :
    Keeps (.mk pl none) (readHeaders s img) := by
  unfold readHeaders
  repeat' (first
    | with_reducible assumption
    | (with_reducible first | apply setSlotState_keeps)
    | ((try lift_lets); intro x; refine (fun (hx : Keeps (.mk pl none) x) => ?_) ?_; clear_value x; rotate_left; unfold x; clear x)
    | (lift_lets; intro x)
    | intro _
    | simp only [↓keeps_mk]
    | with_reducible apply keeps_ite)

theorem supervisorStart_keeps {pl : List Instr} (s : State) (strapPrimary : Bool) (hs : Keeps (.mk pl none) s) :
    Keeps (.mk pl none) (supervisorStart s strapPrimary) := by
  unfold supervisorStart
  repeat' (first
    | with_reducible assumption
    | (with_reducible first | apply enterEarly_keeps | apply raiseHub_keeps | apply loadRecorder_keeps | apply loadLog_keeps | apply setMode_keeps | apply writeOwed_keeps | apply atStage_keeps | apply readHeaders_keeps)
    | ((try lift_lets); intro x; refine (fun (hx : Keeps (.mk pl none) x) => ?_) ?_; clear_value x; rotate_left; unfold x; clear x)
    | (lift_lets; intro x)
    | simp only [↓keeps_mk]
    | intro _
    | with_reducible apply keeps_ite
    | split)

theorem execSupervisorStart_keeps {pl : List Instr} (strapPrimary : Bool) (s : State) (hs : Keeps (.mk pl none) s) :
    KeepsO (.mk pl none) (execSupervisorStart strapPrimary s) := by
  unfold execSupervisorStart
  repeat' (first
    | with_reducible assumption
    | with_reducible exact keepsO_fault _
    | with_reducible refine keepsO_next ?_
    | (with_reducible first | apply stage_keeps | apply supervisorStart_keeps)
    | intro _
    | with_reducible apply keeps_ite
    | with_reducible apply keepsO_ite)

theorem verifyBank_keeps {pl : List Instr} (s : State) (hs : Keeps (.mk pl none) s) :
    Keeps (.mk pl none) (verifyBank s) := by
  unfold verifyBank
  repeat' (first
    | with_reducible assumption
    | (with_reducible first | apply raiseHub_keeps | apply applyBank_keeps)
    | ((try lift_lets); intro x; refine (fun (hx : Keeps (.mk pl none) x) => ?_) ?_; clear_value x; rotate_left; unfold x; clear x)
    | (lift_lets; intro x)
    | simp only
    | intro _
    | with_reducible apply keeps_ite
    | simp +zetaDelta only [↓keeps_mk]
    | split
    | (clear_value *; split)
    | (with_reducible refine keeps_pair1 (by assumption) ?_)
    | (with_reducible refine keeps_pair2 (by assumption) ?_)
    | (with_reducible refine keeps_pair3 (by assumption) ?_))

theorem verifyProgram_keeps {pl : List Instr} (s : State) (hs : Keeps (.mk pl none) s) :
    Keeps (.mk pl none) (verifyProgram s) := by
  unfold verifyProgram
  repeat' (first
    | with_reducible assumption
    | (with_reducible first | apply raiseHub_keeps | apply enterHalted_keeps | apply loadDestinations_keeps | apply orphanConns_keeps)
    | ((try lift_lets); intro x; refine (fun (hx : Keeps (.mk pl none) x) => ?_) ?_; clear_value x; rotate_left; unfold x; clear x)
    | (lift_lets; intro x)
    | simp only [↓keeps_mk]
    | intro _
    | with_reducible apply keeps_ite
    | split)

theorem verifyObjects_keeps {pl : List Instr} (s : State) (hs : Keeps (.mk pl none) s) :
    Keeps (.mk pl none) (verifyObjects s) := by
  unfold verifyObjects
  repeat' (first
    | with_reducible assumption
    | (with_reducible first | apply verifyBank_keeps | apply verifyProgram_keeps)
    | ((try lift_lets); intro x; refine (fun (hx : Keeps (.mk pl none) x) => ?_) ?_; clear_value x; rotate_left; unfold x; clear x)
    | (lift_lets; intro x)
    | simp only [↓keeps_mk]
    | intro _
    | with_reducible apply keeps_ite)

theorem execObjectVerification_keeps {pl : List Instr} (s : State) (hs : Keeps (.mk pl none) s) :
    KeepsO (.mk pl none) (execObjectVerification s) := by
  unfold execObjectVerification
  repeat' (first
    | with_reducible assumption
    | with_reducible exact keepsO_fault _
    | with_reducible refine keepsO_next ?_
    | (with_reducible first | apply verifyObjects_keeps)
    | intro _
    | with_reducible apply keeps_ite
    | with_reducible apply keepsO_ite)

theorem execStart_keeps {pd : Kept} (mb : Mb) (s : State) (hs : Keeps pd s) :
    KeepsO pd (execStart mb s) := by
  unfold execStart
  repeat' (first
    | with_reducible assumption
    | with_reducible exact keepsO_fault _
    | with_reducible refine keepsO_next ?_
    | (with_reducible first | apply resultMb_keeps | apply okMb_keeps | apply runCmd_keeps <;> (try intro _ _ _))
    | intro _
    | simp only [↓keeps_mk]
    | with_reducible apply keeps_ite
    | with_reducible apply keepsO_ite)

theorem releaseLanes_keeps {pd : Kept} (s : State) (hs : Keeps pd s) :
    Keeps pd (releaseLanes s) := by
  unfold releaseLanes
  repeat' (first
    | with_reducible assumption
    | (with_reducible first | apply modLanes_keeps | apply stage_keeps | apply atStage_keeps)
    | ((try lift_lets); intro x; refine (fun (hx : Keeps pd x) => ?_) ?_; clear_value x; rotate_left; unfold x; clear x)
    | (lift_lets; intro x)
    | intro _
    | simp only [↓keeps_mk])

theorem execLaneRelease_keeps {pd : Kept} (s : State) (hs : Keeps pd s) :
    KeepsO pd (execLaneRelease s) := by
  unfold execLaneRelease
  repeat' (first
    | with_reducible assumption
    | with_reducible exact keepsO_fault _
    | with_reducible refine keepsO_next ?_
    | (with_reducible first | apply releaseLanes_keeps)
    | intro _
    | with_reducible apply keeps_ite
    | with_reducible apply keepsO_ite)

theorem programLoaded_keeps {pd : Kept} (s : State) (p : Program) (fails : List Lane) (hs : Keeps pd s) :
    Keeps pd (programLoaded s p fails) := by
  unfold programLoaded
  repeat' (first
    | with_reducible assumption
    | (with_reducible first | apply modLane_keeps | apply raiseHub_keeps | apply toExcluded_keeps | apply atStage_keeps)
    | with_reducible refine keeps_foldl ?_ (fun _ _ _ => ?_)
    | ((try lift_lets); intro x; refine (fun (hx : Keeps pd x) => ?_) ?_; clear_value x; rotate_left; unfold x; clear x)
    | (lift_lets; intro x)
    | intro _
    | simp only [↓keeps_mk]
    | with_reducible apply keeps_ite)

theorem execProgramLoadDone_keeps {pd : Kept} (fails : List Lane) (s : State) (hs : Keeps pd s) :
    KeepsO pd (execProgramLoadDone fails s) := by
  unfold execProgramLoadDone
  repeat' (first
    | with_reducible assumption
    | with_reducible exact keepsO_fault _
    | with_reducible refine keepsO_next ?_
    | (with_reducible first | apply stage_keeps | apply programLoaded_keeps)
    | simp only [↓keeps_mk]
    | intro _
    | with_reducible apply keeps_ite
    | with_reducible apply keepsO_ite
    | split)

theorem restoreRetained_keeps {pd : Kept} (s : State) (p : Program) (hs : Keeps pd s) :
    Keeps pd (restoreRetained s p) := by
  unfold restoreRetained
  repeat' (first
    | with_reducible assumption
    | (with_reducible first | apply modLanes_keeps | apply raiseHub_keeps)
    | with_reducible refine keeps_foldl ?_ (fun _ _ _ => ?_)
    | ((try lift_lets); intro x; refine (fun (hx : Keeps pd x) => ?_) ?_; clear_value x; rotate_left; unfold x; clear x)
    | (lift_lets; intro x)
    | intro _
    | simp only [↓keeps_mk]
    | with_reducible apply keeps_ite
    | split)

theorem restoreDone_keeps {pd : Kept} (s : State) (p : Program) (hs : Keeps pd s) :
    Keeps pd (restoreDone s p) := by
  unfold restoreDone
  repeat' (first
    | with_reducible assumption
    | (with_reducible first | apply modLanes_keeps | apply stage_keeps | apply setGenerator_keeps | apply atStage_keeps | apply restoreRetained_keeps)
    | with_reducible refine keeps_foldl ?_ (fun _ _ _ => ?_)
    | ((try lift_lets); intro x; refine (fun (hx : Keeps pd x) => ?_) ?_; clear_value x; rotate_left; unfold x; clear x)
    | (lift_lets; intro x)
    | intro _
    | simp only [↓keeps_mk]
    | with_reducible apply keeps_ite)

theorem execRetainedRestore_keeps {pd : Kept} (s : State) (hs : Keeps pd s) :
    KeepsO pd (execRetainedRestore s) := by
  unfold execRetainedRestore
  repeat' (first
    | with_reducible assumption
    | with_reducible exact keepsO_fault _
    | with_reducible refine keepsO_next ?_
    | (with_reducible first | apply stage_keeps | apply restoreDone_keeps)
    | simp only [↓keeps_mk]
    | intro _
    | with_reducible apply keeps_ite
    | with_reducible apply keepsO_ite
    | split)

theorem admitModule_keeps {pl : List Instr} (s : State) (p : Program) (hs : Keeps (.mk pl none) s) :
    Keeps (.mk pl none) (admitModule s p) := by
  unfold admitModule
  repeat' (first
    | with_reducible assumption
    | (with_reducible first | apply modLanes_keeps | apply fireRelease_keeps | apply stage_keeps | apply setMode_keeps | apply enterHalted_keeps)
    | ((try lift_lets); intro x; refine (fun (hx : Keeps (.mk pl none) x) => ?_) ?_; clear_value x; rotate_left; unfold x; clear x)
    | (lift_lets; intro x)
    | intro _
    | simp only [↓keeps_mk]
    | with_reducible apply keeps_ite
    | split)

theorem execAdmission_keeps {pl : List Instr} (s : State) (hs : Keeps (.mk pl none) s) :
    KeepsO (.mk pl none) (execAdmission s) := by
  unfold execAdmission
  repeat' (first
    | with_reducible assumption
    | with_reducible exact keepsO_fault _
    | with_reducible refine keepsO_next ?_
    | (with_reducible first | apply stage_keeps | apply admitModule_keeps)
    | simp only [↓keeps_mk]
    | intro _
    | with_reducible apply keeps_ite
    | with_reducible apply keepsO_ite
    | split)

theorem execStageTimeLimit_keeps {pl : List Instr} (s : State) (hs : Keeps (.mk pl none) s) :
    KeepsO (.mk pl none) (execStageTimeLimit s) := by
  unfold execStageTimeLimit
  repeat' (first
    | with_reducible assumption
    | with_reducible exact keepsO_fault _
    | with_reducible refine keepsO_next ?_
    | (with_reducible first | apply raiseHub_keeps | apply stage_keeps | apply enterHalted_keeps)
    | ((try lift_lets); intro x; refine (fun (hx : Keeps (.mk pl none) x) => ?_) ?_; clear_value x; rotate_left; unfold x; clear x)
    | (lift_lets; intro x)
    | intro _
    | simp only [↓keeps_mk]
    | with_reducible apply keeps_ite
    | with_reducible apply keepsO_ite)

theorem execJtagTrstHigh_keeps {pd : Kept} (high : Bool) (s : State) (hs : Keeps pd s) :
    KeepsO pd (execJtagTrstHigh high s) := by
  unfold execJtagTrstHigh
  repeat' (first
    | with_reducible assumption
    | with_reducible exact keepsO_fault _
    | with_reducible refine keepsO_next ?_
    | simp only [↓keeps_mk])

end Sys2Proof.Machine
end

