-- ==== Sys2Proof/Laws/KeepsForceCmds.lean ====
section
/-! SUPPORT. Every operation of Machine/ForceCmds.lean leaves the queue alone and keeps the memories canonical; one that writes no memory keeps every byte.
-/
namespace Sys2Proof.Machine

theorem execForceSet_keeps {pd : Kept} (mb : Mb) (s : State) (hs : Keeps pd s) :
    KeepsO pd (execForceSet mb s) := by
  unfold execForceSet
  repeat' (first
    | with_reducible assumption
    | with_reducible exact keepsO_fault _
    | with_reducible refine keepsO_next ?_
    | (with_reducible first | apply resultMb_keeps | apply waitMb_keeps | apply runCmd_keeps <;> (try intro _ _ _))
    | ((try lift_lets); intro x; refine (fun (hx : Keeps pd x) => ?_) ?_; clear_value x; rotate_left; unfold x; clear x)
    | (lift_lets; intro x)
    | intro _
    | simp only [↓keeps_mk]
    | with_reducible apply keeps_ite
    | with_reducible apply keepsO_ite
    | split)

theorem execForceClear_keeps {pd : Kept} (mb : Mb) (s : State) (hs : Keeps pd s) :
    KeepsO pd (execForceClear mb s) := by
  unfold execForceClear
  repeat' (first
    | with_reducible assumption
    | with_reducible exact keepsO_fault _
    | with_reducible refine keepsO_next ?_
    | (with_reducible first | apply resultMb_keeps | apply waitMb_keeps | apply runCmd_keeps <;> (try intro _ _ _))
    | ((try lift_lets); intro x; refine (fun (hx : Keeps pd x) => ?_) ?_; clear_value x; rotate_left; unfold x; clear x)
    | (lift_lets; intro x)
    | intro _
    | simp only [↓keeps_mk]
    | with_reducible apply keeps_ite
    | with_reducible apply keepsO_ite)

theorem execForceAcknowledge_keeps {pl : List Instr} (s : State) (hs : Keeps (.mk pl none) s) :
    KeepsO (.mk pl none) (execForceAcknowledge s) := by
  unfold execForceAcknowledge
  repeat' (first
    | with_reducible assumption
    | with_reducible exact keepsO_fault _
    | with_reducible refine keepsO_next ?_
    | (with_reducible first | apply setIrq_keeps | apply finishMb_keeps | apply forceRecord_keeps)
    | with_reducible refine keeps_foldl ?_ (fun _ _ _ => ?_)
    | ((try lift_lets); intro x; refine (fun (hx : Keeps (.mk pl none) x) => ?_) ?_; clear_value x; rotate_left; unfold x; clear x)
    | (lift_lets; intro x)
    | intro _
    | simp only [↓keeps_mk]
    | split)

theorem execForceList_keeps {pd : Kept} (mb : Mb) (s : State) (hs : Keeps pd s) :
    KeepsO pd (execForceList mb s) := by
  unfold execForceList
  repeat' (first
    | with_reducible assumption
    | with_reducible exact keepsO_fault _
    | with_reducible refine keepsO_next ?_
    | (with_reducible first | apply finishMb_keeps | apply runCmd_keeps <;> (try intro _ _ _))
    | ((try lift_lets); intro x; refine (fun (hx : Keeps pd x) => ?_) ?_; clear_value x; rotate_left; unfold x; clear x)
    | (lift_lets; intro x)
    | intro _)

end Sys2Proof.Machine
end

