-- ==== Sys2Proof/Laws/KeepsHostPort.lean ====
section
/-! SUPPORT. Every operation of Machine/HostPort.lean leaves the queue alone and keeps the memories canonical; one that writes no memory keeps every byte.
-/
namespace Sys2Proof.Machine

theorem drainFifos_keeps {pd : Kept} (s : State) (n : Nat) (hs : Keeps pd s) : Keeps pd (drainFifos s n) := by
  unfold drainFifos
  repeat' (first
    | with_reducible assumption
    | simp only [↓keeps_mk])

theorem opcodePhase_keeps {pd : Kept} (s : State) (tm : HostTiming) (hs : Keeps pd s) :
    Keeps pd (opcodePhase s tm) := by
  unfold opcodePhase
  repeat' (first
    | with_reducible assumption
    | (with_reducible first | apply emit_keeps | apply drainFifos_keeps)
    | ((try lift_lets); intro x; refine (fun (hx : Keeps pd x) => ?_) ?_; clear_value x; rotate_left; unfold x; clear x)
    | (lift_lets; intro x)
    | simp only [↓keeps_mk])

theorem portError_keeps {pd : Kept} (s : State) (cause word : Nat) (hs : Keeps pd s) :
    Keeps pd (portError s cause word) := by
  unfold portError
  repeat' (first
    | with_reducible assumption
    | (with_reducible first | apply hostError_keeps)
    | ((try lift_lets); intro x; refine (fun (hx : Keeps pd x) => ?_) ?_; clear_value x; rotate_left; unfold x; clear x)
    | (lift_lets; intro x)
    | simp only [↓keeps_mk])

theorem fetchWords_keeps {pd : Kept} (s : State) (a count : Nat) (late : Option Nat) (hs : Keeps pd s) :
    Keeps pd (fetchWords s a count late).2 := by
  unfold fetchWords
  repeat' (first
    | with_reducible assumption
    | (with_reducible first | apply hostError_keeps | apply windowRead_keeps | apply regReads_keeps | apply portError_keeps)
    | ((try lift_lets); intro x; refine (fun (hx : Keeps pd x) => ?_) ?_; clear_value x; rotate_left; unfold x; clear x)
    | (lift_lets; intro x)
    | simp only
    | intro _
    | with_reducible apply keeps_ite
    | split)

theorem hostRead_keeps {pd : Kept} (s : State) (addr : BitVec 24) (count : Nat) (tm : HostTiming) (hs : Keeps pd s) :
    Keeps pd (hostRead s addr count tm) := by
  unfold hostRead
  repeat' (first
    | with_reducible assumption
    | (with_reducible first | apply emit_keeps | apply hostError_keeps | apply opcodePhase_keeps | apply fetchWords_keeps)
    | ((try lift_lets); intro x; refine (fun (hx : Keeps pd x) => ?_) ?_; clear_value x; rotate_left; unfold x; clear x)
    | (lift_lets; intro x)
    | simp only
    | intro _
    | with_reducible apply keeps_ite
    | simp +zetaDelta only [↓keeps_mk]
    | split
    | (clear_value *; split)
    | (with_reducible refine keeps_pair1 (by assumption) ?_)
    | (with_reducible refine keeps_pair2 (by assumption) ?_)
    | (with_reducible refine keeps_pair3 (by assumption) ?_))

theorem hostWrites_keeps {pd : Kept} (y0 : Nat) (y2 : Bool) (y3 : List (Nat × Word)) (y4 : State) (hy4 : Keeps pd y4) :
    Keeps pd (hostWrites y0 y2 y3 y4) := by
  induction y3 generalizing y0 y2 y4 with
  | nil => exact hy4
  | cons a l ih =>
    unfold hostWrites
    repeat' (first
      | with_reducible assumption
      | (with_reducible apply ih)
      | (with_reducible apply regWrite_keeps)
      | ((try lift_lets); intro x; refine (fun (hx : Keeps pd x) => ?_) ?_; clear_value x; rotate_left; unfold x; clear x)
      | (lift_lets; intro x)
      | intro _
      | simp only [↓keeps_mk]
      | with_reducible apply keeps_ite)

theorem keepAnswer_keeps {pd : Kept} (r : PortAnswer × State) (hr : Keeps pd r.2) :
    Keeps pd (keepAnswer r) := by
  unfold keepAnswer
  repeat' (first
    | with_reducible assumption
    | ((try lift_lets); intro x; refine (fun (hx : Keeps pd x) => ?_) ?_; clear_value x; rotate_left; unfold x; clear x)
    | (lift_lets; intro x)
    | simp only [↓keeps_mk])

theorem takeWords_keeps {pd : Kept} (s : State) (a : Nat) (words : List Word) (tm : HostTiming) (hs : Keeps pd s) :
    Keeps pd (takeWords s a words tm) := by
  unfold takeWords
  repeat' (first
    | with_reducible assumption
    | (with_reducible first | apply windowWrite_keeps | apply portError_keeps | apply hostWrites_keeps | apply keepAnswer_keeps)
    | ((try lift_lets); intro x; refine (fun (hx : Keeps pd x) => ?_) ?_; clear_value x; rotate_left; unfold x; clear x)
    | (lift_lets; intro x)
    | simp only [↓keeps_mk]
    | intro _
    | with_reducible apply keeps_ite
    | split)

theorem hostWrite_keeps {pd : Kept} (s : State) (addr : BitVec 24) (words : List Word) (tm : HostTiming) (hs : Keeps pd s) :
    Keeps pd (hostWrite s addr words tm) := by
  unfold hostWrite
  repeat' (first
    | with_reducible assumption
    | (with_reducible first | apply emit_keeps | apply opcodePhase_keeps | apply takeWords_keeps)
    | intro _
    | with_reducible apply keeps_ite)

theorem execRead_keeps {pd : Kept} (addr : BitVec 24) (count : Nat) (tm : HostTiming) (s : State) (hs : Keeps pd s) :
    KeepsO pd (execRead addr count tm s) := by
  unfold execRead
  repeat' (first
    | with_reducible assumption
    | with_reducible exact keepsO_fault _
    | with_reducible refine keepsO_next ?_
    | (with_reducible first | apply hostRead_keeps))

theorem execQuadRead_keeps {pd : Kept} (addr : BitVec 24) (count : Nat) (tm : HostTiming) (s : State) (hs : Keeps pd s) :
    KeepsO pd (execQuadRead addr count tm s) := by
  unfold execQuadRead
  repeat' (first
    | with_reducible assumption
    | with_reducible exact keepsO_fault _
    | with_reducible refine keepsO_next ?_
    | (with_reducible first | apply hostRead_keeps))

theorem execWrite_keeps {pd : Kept} (addr : BitVec 24) (words : List Word) (tm : HostTiming) (s : State) (hs : Keeps pd s) :
    KeepsO pd (execWrite addr words tm s) := by
  unfold execWrite
  repeat' (first
    | with_reducible assumption
    | with_reducible exact keepsO_fault _
    | with_reducible refine keepsO_next ?_
    | (with_reducible first | apply hostWrite_keeps))

theorem execQuadWrite_keeps {pd : Kept} (addr : BitVec 24) (words : List Word) (tm : HostTiming) (s : State) (hs : Keeps pd s) :
    KeepsO pd (execQuadWrite addr words tm s) := by
  unfold execQuadWrite
  repeat' (first
    | with_reducible assumption
    | with_reducible exact keepsO_fault _
    | with_reducible refine keepsO_next ?_
    | (with_reducible first | apply hostWrite_keeps))

theorem execStatus_keeps {pd : Kept} (tm : HostTiming) (s : State) (hs : Keeps pd s) :
    KeepsO pd (execStatus tm s) := by
  unfold execStatus
  repeat' (first
    | with_reducible assumption
    | with_reducible exact keepsO_fault _
    | with_reducible refine keepsO_next ?_
    | (with_reducible first | apply emit_keeps | apply opcodePhase_keeps)
    | ((try lift_lets); intro x; refine (fun (hx : Keeps pd x) => ?_) ?_; clear_value x; rotate_left; unfold x; clear x)
    | (lift_lets; intro x)
    | intro _
    | with_reducible apply keeps_ite
    | with_reducible apply keepsO_ite)

theorem execBadOpcode_keeps {pd : Kept} (op : Byte) (s : State) (hs : Keeps pd s) :
    KeepsO pd (execBadOpcode op s) := by
  unfold execBadOpcode
  repeat' (first
    | with_reducible assumption
    | with_reducible exact keepsO_fault _
    | with_reducible refine keepsO_next ?_
    | (with_reducible first | apply emit_keeps | apply opcodePhase_keeps | apply portError_keeps)
    | intro _
    | with_reducible apply keeps_ite
    | with_reducible apply keepsO_ite)

theorem portRead_keeps {pd : Kept} (s : State) (p : Port) (a : Nat) (hs : Keeps pd s) :
    Keeps pd (portRead s p a) := by
  unfold portRead
  repeat' (first
    | with_reducible assumption
    | (with_reducible first | apply regRead_keeps | apply hostRead_keeps)
    | simp only [↓keeps_mk]
    | intro _
    | with_reducible apply keeps_ite
    | split)

theorem portWrite_keeps {pd : Kept} (s : State) (p : Port) (a : Nat) (w : Word) (hs : Keeps pd s) :
    Keeps pd (portWrite s p a w) := by
  unfold portWrite
  repeat' (first
    | with_reducible assumption
    | (with_reducible first | apply regWrite_keeps | apply hostWrite_keeps)
    | simp only [↓keeps_mk]
    | intro _
    | with_reducible apply keeps_ite
    | split)

theorem execRegisterWrite_keeps {pd : Kept} (port : Port) (addr : BitVec 24) (w : Word) (s : State) (hs : Keeps pd s) :
    KeepsO pd (execRegisterWrite port addr w s) := by
  unfold execRegisterWrite
  repeat' (first
    | with_reducible assumption
    | with_reducible exact keepsO_fault _
    | with_reducible refine keepsO_next ?_
    | (with_reducible first | apply portWrite_keeps)
    | intro _
    | with_reducible apply keeps_ite
    | with_reducible apply keepsO_ite)

theorem execRcFieldRead_keeps {pd : Kept} (port : Port) (addr : BitVec 24) (s : State) (hs : Keeps pd s) :
    KeepsO pd (execRcFieldRead port addr s) := by
  unfold execRcFieldRead
  repeat' (first
    | with_reducible assumption
    | with_reducible exact keepsO_fault _
    | with_reducible refine keepsO_next ?_
    | (with_reducible first | apply portRead_keeps)
    | intro _
    | with_reducible apply keeps_ite
    | with_reducible apply keepsO_ite)

theorem execSnap_keeps {pd : Kept} (s : State) (hs : Keeps pd s) :
    KeepsO pd (execSnap s) := by
  unfold execSnap
  repeat' (first
    | with_reducible assumption
    | with_reducible exact keepsO_fault _
    | with_reducible refine keepsO_next ?_
    | (with_reducible first | apply portWrite_keeps)
    | ((try lift_lets); intro x; refine (fun (hx : Keeps pd x) => ?_) ?_; clear_value x; rotate_left; unfold x; clear x)
    | (lift_lets; intro x)
    | intro _
    | simp only [↓keeps_mk]
    | with_reducible apply keeps_ite
    | with_reducible apply keepsO_ite
    | split)

theorem execAxnValHiRead_keeps {pd : Kept} (n : Fin 4) (s : State) (hs : Keeps pd s) :
    KeepsO pd (execAxnValHiRead n s) := by
  unfold execAxnValHiRead
  repeat' (first
    | with_reducible assumption
    | with_reducible exact keepsO_fault _
    | with_reducible refine keepsO_next ?_
    | (with_reducible first | apply portRead_keeps)
    | ((try lift_lets); intro x; refine (fun (hx : Keeps pd x) => ?_) ?_; clear_value x; rotate_left; unfold x; clear x)
    | (lift_lets; intro x)
    | intro _
    | simp only [↓keeps_mk]
    | with_reducible apply keeps_ite
    | with_reducible apply keepsO_ite
    | split)

theorem execModHarvestHiRead_keeps {pd : Kept} (s : State) (hs : Keeps pd s) :
    KeepsO pd (execModHarvestHiRead s) := by
  unfold execModHarvestHiRead
  repeat' (first
    | with_reducible assumption
    | with_reducible exact keepsO_fault _
    | with_reducible refine keepsO_next ?_
    | (with_reducible first | apply portRead_keeps))

theorem execMbxnValRead_keeps {pd : Kept} (n : Fin 16) (s : State) (hs : Keeps pd s) :
    KeepsO pd (execMbxnValRead n s) := by
  unfold execMbxnValRead
  repeat' (first
    | with_reducible assumption
    | with_reducible exact keepsO_fault _
    | with_reducible refine keepsO_next ?_
    | (with_reducible first | apply portRead_keeps))

theorem execRecCursorLoWrite_keeps {pd : Kept} (port : Port) (w : Word) (s : State) (hs : Keeps pd s) :
    KeepsO pd (execRecCursorLoWrite port w s) := by
  unfold execRecCursorLoWrite
  repeat' (first
    | with_reducible assumption
    | with_reducible exact keepsO_fault _
    | with_reducible refine keepsO_next ?_
    | (with_reducible first | apply portWrite_keeps))

theorem execRecDataRead_keeps {pd : Kept} (port : Port) (s : State) (hs : Keeps pd s) :
    KeepsO pd (execRecDataRead port s) := by
  unfold execRecDataRead
  repeat' (first
    | with_reducible assumption
    | with_reducible exact keepsO_fault _
    | with_reducible refine keepsO_next ?_
    | (with_reducible first | apply portRead_keeps))

theorem execFltCursorLoWrite_keeps {pd : Kept} (port : Port) (w : Word) (s : State) (hs : Keeps pd s) :
    KeepsO pd (execFltCursorLoWrite port w s) := by
  unfold execFltCursorLoWrite
  repeat' (first
    | with_reducible assumption
    | with_reducible exact keepsO_fault _
    | with_reducible refine keepsO_next ?_
    | (with_reducible first | apply portWrite_keeps))

theorem execFltLogDataRead_keeps {pd : Kept} (port : Port) (s : State) (hs : Keeps pd s) :
    KeepsO pd (execFltLogDataRead port s) := by
  unfold execFltLogDataRead
  repeat' (first
    | with_reducible assumption
    | with_reducible exact keepsO_fault _
    | with_reducible refine keepsO_next ?_
    | (with_reducible first | apply portRead_keeps))

theorem execClear_keeps {pd : Kept} (s : State) (hs : Keeps pd s) :
    KeepsO pd (execClear s) := by
  unfold execClear
  repeat' (first
    | with_reducible assumption
    | with_reducible exact keepsO_fault _
    | with_reducible refine keepsO_next ?_
    | (with_reducible first | apply portWrite_keeps))

theorem execBrLogDataRead_keeps {pd : Kept} (s : State) (hs : Keeps pd s) :
    KeepsO pd (execBrLogDataRead s) := by
  unfold execBrLogDataRead
  repeat' (first
    | with_reducible assumption
    | with_reducible exact keepsO_fault _
    | with_reducible refine keepsO_next ?_
    | (with_reducible first | apply portRead_keeps))

theorem execBrPagenCfgWrite_keeps {pd : Kept} (n : Fin 16) (w : Word) (s : State) (hs : Keeps pd s) :
    KeepsO pd (execBrPagenCfgWrite n w s) := by
  unfold execBrPagenCfgWrite
  repeat' (first
    | with_reducible assumption
    | with_reducible exact keepsO_fault _
    | with_reducible refine keepsO_next ?_
    | (with_reducible first | apply portWrite_keeps))

theorem execRemoteWindowRead_keeps {pd : Kept} (addr : BitVec 24) (count : Nat) (s : State) (hs : Keeps pd s) :
    KeepsO pd (execRemoteWindowRead addr count s) := by
  unfold execRemoteWindowRead
  repeat' (first
    | with_reducible assumption
    | with_reducible exact keepsO_fault _
    | with_reducible refine keepsO_next ?_
    | (with_reducible first | apply hostRead_keeps)
    | intro _
    | with_reducible apply keeps_ite
    | with_reducible apply keepsO_ite)

theorem execRemoteWindowWrite_keeps {pd : Kept} (addr : BitVec 24) (words : List Word) (s : State) (hs : Keeps pd s) :
    KeepsO pd (execRemoteWindowWrite addr words s) := by
  unfold execRemoteWindowWrite
  repeat' (first
    | with_reducible assumption
    | with_reducible exact keepsO_fault _
    | with_reducible refine keepsO_next ?_
    | (with_reducible first | apply hostWrite_keeps)
    | intro _
    | with_reducible apply keeps_ite
    | with_reducible apply keepsO_ite)

theorem execPost_keeps {pd : Kept} (addr : BitVec 24) (words : List Word) (s : State) (hs : Keeps pd s) :
    KeepsO pd (execPost addr words s) := by
  unfold execPost
  repeat' (first
    | with_reducible assumption
    | with_reducible exact keepsO_fault _
    | with_reducible refine keepsO_next ?_
    | (with_reducible first | apply hostWrite_keeps)
    | intro _
    | with_reducible apply keeps_ite
    | with_reducible apply keepsO_ite)

theorem drainMb_keeps {pd : Kept} (s : State) (mb : Mb) (n : Nat) (hs : Keeps pd s) :
    Keeps pd (drainMb s mb n) := by
  unfold drainMb
  repeat' (first
    | with_reducible assumption
    | (with_reducible first | apply modMb_keeps)
    | ((try lift_lets); intro x; refine (fun (hx : Keeps pd x) => ?_) ?_; clear_value x; rotate_left; unfold x; clear x)
    | (lift_lets; intro x)
    | intro _
    | simp only [↓keeps_mk]
    | with_reducible apply keeps_ite
    | split)

theorem sourceWrite_keeps {pd : Kept} (s : State) (mb : Mb) (src : Source) (off : Nat) (w : Word) (hs : Keeps pd s) :
    Keeps pd (sourceWrite s mb src off w) := by
  unfold sourceWrite
  repeat' (first
    | with_reducible assumption
    | (with_reducible first | apply portWrite_keeps | apply regWrite_keeps)
    | ((try lift_lets); intro x; refine (fun (hx : Keeps pd x) => ?_) ?_; clear_value x; rotate_left; unfold x; clear x)
    | (lift_lets; intro x)
    | intro _
    | simp only [↓keeps_mk]
    | with_reducible apply keeps_ite
    | split)

theorem execMbDataWrite_keeps {pd : Kept} (mb : Mb) (src : Source) (w : Word) (drained : Nat) (s : State) (hs : Keeps pd s) :
    KeepsO pd (execMbDataWrite mb src w drained s) := by
  unfold execMbDataWrite
  repeat' (first
    | with_reducible assumption
    | with_reducible exact keepsO_fault _
    | with_reducible refine keepsO_next ?_
    | (with_reducible first | apply drainMb_keeps | apply sourceWrite_keeps)
    | ((try lift_lets); intro x; refine (fun (hx : Keeps pd x) => ?_) ?_; clear_value x; rotate_left; unfold x; clear x)
    | (lift_lets; intro x)
    | intro _
    | simp only [↓keeps_mk]
    | with_reducible apply keeps_ite
    | with_reducible apply keepsO_ite
    | split)

theorem execMbDataRead_keeps {pd : Kept} (mb : Mb) (src : Source) (s : State) (hs : Keeps pd s) :
    KeepsO pd (execMbDataRead mb src s) := by
  unfold execMbDataRead
  repeat' (first
    | with_reducible assumption
    | with_reducible exact keepsO_fault _
    | with_reducible refine keepsO_next ?_
    | (with_reducible first | apply portRead_keeps)
    | ((try lift_lets); intro x; refine (fun (hx : Keeps pd x) => ?_) ?_; clear_value x; rotate_left; unfold x; clear x)
    | (lift_lets; intro x)
    | intro _
    | simp only [↓keeps_mk]
    | with_reducible apply keeps_ite
    | with_reducible apply keepsO_ite
    | split)

theorem execMbCtrlAck_keeps {pd : Kept} (mb : Mb) (src : Source) (s : State) (hs : Keeps pd s) :
    KeepsO pd (execMbCtrlAck mb src s) := by
  unfold execMbCtrlAck
  repeat' (first
    | with_reducible assumption
    | with_reducible exact keepsO_fault _
    | with_reducible refine keepsO_next ?_
    | (with_reducible first | apply sourceWrite_keeps)
    | ((try lift_lets); intro x; refine (fun (hx : Keeps pd x) => ?_) ?_; clear_value x; rotate_left; unfold x; clear x)
    | (lift_lets; intro x)
    | intro _
    | simp only [↓keeps_mk]
    | with_reducible apply keeps_ite
    | with_reducible apply keepsO_ite
    | split)

theorem execMbCtrlAbort_keeps {pd : Kept} (mb : Mb) (src : Source) (s : State) (hs : Keeps pd s) :
    KeepsO pd (execMbCtrlAbort mb src s) := by
  unfold execMbCtrlAbort
  repeat' (first
    | with_reducible assumption
    | with_reducible exact keepsO_fault _
    | with_reducible refine keepsO_next ?_
    | (with_reducible first | apply sourceWrite_keeps)
    | ((try lift_lets); intro x; refine (fun (hx : Keeps pd x) => ?_) ?_; clear_value x; rotate_left; unfold x; clear x)
    | (lift_lets; intro x)
    | intro _
    | simp only [↓keeps_mk]
    | with_reducible apply keeps_ite
    | with_reducible apply keepsO_ite
    | split)

end Sys2Proof.Machine
end

