-- ==== Sys2Proof/Laws/KeepsNetRx.lean ====
section
/-! SUPPORT. Every operation of Machine/NetRx.lean leaves the queue alone and keeps the memories canonical; one that writes no memory keeps every byte.
-/
namespace Sys2Proof.Machine

theorem takeFlowPacket_keeps {pd : Kept} (s : State) (node : Nat) (b : List Byte) (hs : Keeps pd s) :
    Keeps pd (takeFlowPacket s node b) := by
  unfold takeFlowPacket
  repeat' (first
    | with_reducible assumption
    | (with_reducible first | apply placePacket_keeps)
    | ((try lift_lets); intro x; refine (fun (hx : Keeps pd x) => ?_) ?_; clear_value x; rotate_left; unfold x; clear x)
    | (lift_lets; intro x)
    | intro _
    | simp only
    | with_reducible apply keeps_ite
    | split)

theorem execFlowPacketReceive_keeps {pd : Kept} (node : Nat) (body : List Byte) (s : State) (hs : Keeps pd s) :
    KeepsO pd (execFlowPacketReceive node body s) := by
  unfold execFlowPacketReceive
  repeat' (first
    | with_reducible assumption
    | with_reducible exact keepsO_fault _
    | with_reducible refine keepsO_next ?_
    | (with_reducible first | apply takeFlowPacket_keeps))

theorem takeContainer_keeps {pd : Kept} (s : State) (pb : Bool) (node ty : Nat) (body : List Byte) (hs : Keeps pd s) :
    Keeps pd (takeContainer s pb node ty body) := by
  unfold takeContainer
  repeat' (first
    | with_reducible assumption
    | (with_reducible first | apply groupArrive_keeps | apply takeResponse_keeps | apply arriveRequest_keeps | apply takeTunnel_keeps | apply safeArrive_keeps | apply takeFlowPacket_keeps)
    | simp only [↓keeps_mk]
    | intro _
    | with_reducible apply keeps_ite
    | split)

theorem takeContainers_keeps {pd : Kept} (s : State) (pb second : Bool) (node : Nat) (cs : List (Nat × Nat × List Byte)) (hs : Keeps pd s) :
    Keeps pd (takeContainers s pb second node cs) := by
  unfold takeContainers
  repeat' (first
    | with_reducible assumption
    | (with_reducible first | apply takeContainer_keeps)
    | with_reducible refine keeps_foldl ?_ (fun _ _ _ => ?_)
    | intro _
    | simp only [↓keeps_mk]
    | with_reducible apply keeps_ite)

theorem receiveData_keeps {pd : Kept} (s : State) (pb : Bool) (bs : List Byte) (hs : Keeps pd s) :
    Keeps pd (receiveData s pb bs) := by
  unfold receiveData
  repeat' (first
    | with_reducible assumption
    | (with_reducible first | apply takeContainers_keeps)
    | ((try lift_lets); intro x; refine (fun (hx : Keeps pd x) => ?_) ?_; clear_value x; rotate_left; unfold x; clear x)
    | (lift_lets; intro x)
    | intro _
    | simp only [↓keeps_mk]
    | with_reducible apply keeps_ite
    | split)

theorem execFlovisFrameReceive_keeps {pd : Kept} (p : Plane) (bytes : List Byte) (s : State) (hs : Keeps pd s) :
    KeepsO pd (execFlovisFrameReceive p bytes s) := by
  unfold execFlovisFrameReceive
  repeat' (first
    | with_reducible assumption
    | with_reducible exact keepsO_fault _
    | with_reducible refine keepsO_next ?_
    | (with_reducible first | apply receiveData_keeps))

end Sys2Proof.Machine
end

