-- ==== Sys2Proof/Laws/KeepsSystem.lean ====
section
/-! SUPPORT. Every operation of Machine/System.lean leaves the queue alone and keeps the memories canonical; one that writes no memory keeps every byte.
-/
namespace Sys2Proof.Machine

theorem execGetInfo_keeps {pd : Kept} (mb : Mb) (s : State) (hs : Keeps pd s) :
    KeepsO pd (execGetInfo mb s) := by
  unfold execGetInfo
  repeat' (first
    | with_reducible assumption
    | with_reducible exact keepsO_fault _
    | with_reducible refine keepsO_next ?_
    | (with_reducible first | apply okMb_keeps | apply runCmd_keeps <;> (try intro _ _ _))
    | intro _)

theorem execGetStatus_keeps {pd : Kept} (mb : Mb) (s : State) (hs : Keeps pd s) :
    KeepsO pd (execGetStatus mb s) := by
  unfold execGetStatus
  repeat' (first
    | with_reducible assumption
    | with_reducible exact keepsO_fault _
    | with_reducible refine keepsO_next ?_
    | (with_reducible first | apply okMb_keeps | apply runCmd_keeps <;> (try intro _ _ _))
    | intro _)

theorem sessionRecord_keeps {pd : Kept} (s : State) (what : Nat) (mb : Mb) (hs : Keeps pd s) :
    Keeps pd (sessionRecord s what mb) := by
  unfold sessionRecord
  repeat' (first
    | with_reducible assumption
    | (with_reducible first | apply raiseHub_keeps)
    | simp only [↓keeps_mk]
    | split)

theorem endSession_keeps {pl : List Instr} (s : State) (mb : Mb) (hs : Keeps (.mk pl none) s) :
    Keeps (.mk pl none) (endSession s mb) := by
  unfold endSession
  repeat' (first
    | with_reducible assumption
    | (with_reducible first | apply detach_keeps | apply sessionRecord_keeps)
    | ((try lift_lets); intro x; refine (fun (hx : Keeps (.mk pl none) x) => ?_) ?_; clear_value x; rotate_left; unfold x; clear x)
    | (lift_lets; intro x)
    | intro _
    | simp only [↓keeps_mk]
    | with_reducible apply keeps_ite
    | simp +zetaDelta only [↓keeps_mk]
    | split
    | (clear_value *; split))

theorem sessionPhase1_keeps {pd : Kept} (s : State) (mb : Mb) (src : Source) (key : Nat) (hs : Keeps pd s) :
    Keeps pd (sessionPhase1 s mb src key) := by
  unfold sessionPhase1
  repeat' (first
    | with_reducible assumption
    | (with_reducible first | apply resultMb_keeps | apply okMb_keeps)
    | ((try lift_lets); intro x; refine (fun (hx : Keeps pd x) => ?_) ?_; clear_value x; rotate_left; unfold x; clear x)
    | (lift_lets; intro x)
    | intro _
    | simp only [↓keeps_mk]
    | with_reducible apply keeps_ite)

theorem denySession_keeps {pd : Kept} (s : State) (mb : Mb) (hs : Keeps pd s) :
    Keeps pd (denySession s mb) := by
  unfold denySession
  repeat' (first
    | with_reducible assumption
    | (with_reducible first | apply resultMb_keeps | apply sessionRecord_keeps)
    | ((try lift_lets); intro x; refine (fun (hx : Keeps pd x) => ?_) ?_; clear_value x; rotate_left; unfold x; clear x)
    | (lift_lets; intro x)
    | intro _
    | simp only [↓keeps_mk]
    | with_reducible apply keeps_ite)

theorem sessionPhase2_keeps {pl : List Instr} (s : State) (mb : Mb) (src : Source) (mac : List Byte) (hs : Keeps (.mk pl none) s) :
    Keeps (.mk pl none) (sessionPhase2 s mb src mac) := by
  unfold sessionPhase2
  repeat' (first
    | with_reducible assumption
    | (with_reducible first | apply resultMb_keeps | apply okMb_keeps | apply sessionRecord_keeps | apply endSession_keeps | apply denySession_keeps)
    | ((try lift_lets); intro x; refine (fun (hx : Keeps (.mk pl none) x) => ?_) ?_; clear_value x; rotate_left; unfold x; clear x)
    | (lift_lets; intro x)
    | intro _
    | simp only [↓keeps_mk]
    | with_reducible apply keeps_ite
    | split)

theorem execSessionOpen_keeps {pl : List Instr} (mb : Mb) (s : State) (hs : Keeps (.mk pl none) s) :
    KeepsO (.mk pl none) (execSessionOpen mb s) := by
  unfold execSessionOpen
  repeat' (first
    | with_reducible assumption
    | with_reducible exact keepsO_fault _
    | with_reducible refine keepsO_next ?_
    | (with_reducible first | apply resultMb_keeps | apply runCmd_keeps <;> (try intro _ _ _) | apply sessionRecord_keeps | apply sessionPhase1_keeps | apply sessionPhase2_keeps)
    | ((try lift_lets); intro x; refine (fun (hx : Keeps (.mk pl none) x) => ?_) ?_; clear_value x; rotate_left; unfold x; clear x)
    | (lift_lets; intro x)
    | intro _
    | simp only [↓keeps_mk]
    | with_reducible apply keeps_ite
    | with_reducible apply keepsO_ite
    | split)

theorem execSessionClose_keeps {pl : List Instr} (mb : Mb) (s : State) (hs : Keeps (.mk pl none) s) :
    KeepsO (.mk pl none) (execSessionClose mb s) := by
  unfold execSessionClose
  repeat' (first
    | with_reducible assumption
    | with_reducible exact keepsO_fault _
    | with_reducible refine keepsO_next ?_
    | (with_reducible first | apply okMb_keeps | apply runCmd_keeps <;> (try intro _ _ _) | apply endSession_keeps)
    | intro _
    | with_reducible apply keeps_ite
    | with_reducible apply keepsO_ite)

theorem execSessionInactivity_keeps {pl : List Instr} (mb : Mb) (s : State) (hs : Keeps (.mk pl none) s) :
    KeepsO (.mk pl none) (execSessionInactivity mb s) := by
  unfold execSessionInactivity
  repeat' (first
    | with_reducible assumption
    | with_reducible exact keepsO_fault _
    | with_reducible refine keepsO_next ?_
    | (with_reducible first | apply endSession_keeps)
    | intro _
    | with_reducible apply keeps_ite
    | with_reducible apply keepsO_ite)

theorem execModuleReset_keeps {pd : Kept} (mb : Mb) (s : State) (hs : Keeps pd s) :
    KeepsO pd (execModuleReset mb s) := by
  unfold execModuleReset
  repeat' (first
    | with_reducible assumption
    | with_reducible exact keepsO_fault _
    | with_reducible refine keepsO_next ?_
    | (with_reducible first | apply resultMb_keeps | apply okMb_keeps | apply runCmd_keeps <;> (try intro _ _ _))
    | intro _
    | simp only [↓keeps_mk]
    | with_reducible apply keeps_ite
    | with_reducible apply keepsO_ite)

theorem resetModule_keeps {pl : List Instr} (s : State) (hs : Keeps (.mk pl none) s) :
    Keeps (.mk pl none) (resetModule s) := by
  unfold resetModule
  repeat' (first
    | with_reducible assumption
    | (with_reducible first | apply writeLogControl_keeps | apply hubReset_keeps | apply drainRecorder_keeps | apply drainFaults_keeps | apply dropForces_keeps | apply endSession_keeps)
    | ((try lift_lets); intro x; refine (fun (hx : Keeps (.mk pl none) x) => ?_) ?_; clear_value x; rotate_left; unfold x; clear x)
    | (lift_lets; intro x)
    | intro _
    | simp only [↓keeps_mk])

theorem execResetExecute_keeps {pl : List Instr} (mb : Mb) (s : State) (hs : Keeps (.mk pl none) s) :
    KeepsO (.mk pl none) (execResetExecute mb s) := by
  unfold execResetExecute
  repeat' (first
    | with_reducible assumption
    | with_reducible exact keepsO_fault _
    | with_reducible refine keepsO_next ?_
    | (with_reducible first | apply resetModule_keeps)
    | simp only [↓keeps_mk]
    | intro _
    | with_reducible apply keeps_ite
    | with_reducible apply keepsO_ite
    | split)

theorem execBadCmd_keeps {pd : Kept} (mb : Mb) (s : State) (hs : Keeps pd s) :
    KeepsO pd (execBadCmd mb s) := by
  unfold execBadCmd
  repeat' (first
    | with_reducible assumption
    | with_reducible exact keepsO_fault _
    | with_reducible refine keepsO_next ?_
    | (with_reducible first | apply resultMb_keeps)
    | ((try lift_lets); intro x; refine (fun (hx : Keeps pd x) => ?_) ?_; clear_value x; rotate_left; unfold x; clear x)
    | (lift_lets; intro x)
    | intro _
    | with_reducible apply keeps_ite
    | with_reducible apply keepsO_ite)

end Sys2Proof.Machine
end

