-- ==== Sys2Proof/Laws/KeepsPairing.lean ====
section
/-! SUPPORT. Every operation of Machine/Pairing.lean leaves the queue alone and keeps the memories canonical; one that writes no memory keeps every byte.
-/
namespace Sys2Proof.Machine

theorem linkLost_keeps {pd : Kept} (s : State) (hs : Keeps pd s) :
    Keeps pd (linkLost s) := by
  unfold linkLost
  repeat' (first
    | with_reducible assumption
    | (with_reducible first | apply setIrq_keeps | apply raiseHub_keeps | apply abandonSwitch_keeps)
    | ((try lift_lets); intro x; refine (fun (hx : Keeps pd x) => ?_) ?_; clear_value x; rotate_left; unfold x; clear x)
    | (lift_lets; intro x)
    | simp only [↓keeps_mk]
    | intro _
    | with_reducible apply keeps_ite)

theorem execLinkDown_keeps {pd : Kept} (s : State) (hs : Keeps pd s) :
    KeepsO pd (execLinkDown s) := by
  unfold execLinkDown
  repeat' (first
    | with_reducible assumption
    | with_reducible exact keepsO_fault _
    | with_reducible refine keepsO_next ?_
    | (with_reducible first | apply linkLost_keeps))

theorem execLinkUp_keeps {pd : Kept} (s : State) (hs : Keeps pd s) :
    KeepsO pd (execLinkUp s) := by
  unfold execLinkUp
  repeat' (first
    | with_reducible assumption
    | with_reducible exact keepsO_fault _
    | with_reducible refine keepsO_next ?_
    | ((try lift_lets); intro x; refine (fun (hx : Keeps pd x) => ?_) ?_; clear_value x; rotate_left; unfold x; clear x)
    | (lift_lets; intro x)
    | simp only [↓keeps_mk]
    | intro _
    | with_reducible apply keeps_ite
    | with_reducible apply keepsO_ite)

theorem execJaranBadCrc_keeps {pd : Kept} (s : State) (hs : Keeps pd s) :
    KeepsO pd (execJaranBadCrc s) := by
  unfold execJaranBadCrc
  repeat' (first
    | with_reducible assumption
    | with_reducible exact keepsO_fault _
    | with_reducible refine keepsO_next ?_
    | (with_reducible first | apply requestCopy_keeps)
    | ((try lift_lets); intro x; refine (fun (hx : Keeps pd x) => ?_) ?_; clear_value x; rotate_left; unfold x; clear x)
    | (lift_lets; intro x)
    | simp only [↓keeps_mk]
    | intro _
    | with_reducible apply keeps_ite
    | with_reducible apply keepsO_ite)

theorem becomePaired_keeps {pd : Kept} (s : State) (hs : Keeps pd s) :
    Keeps pd (becomePaired s) := by
  unfold becomePaired
  repeat' (first
    | with_reducible assumption
    | (with_reducible first | apply setIrq_keeps | apply raiseHub_keeps | apply requestCopy_keeps)
    | ((try lift_lets); intro x; refine (fun (hx : Keeps pd x) => ?_) ?_; clear_value x; rotate_left; unfold x; clear x)
    | (lift_lets; intro x)
    | simp only [↓keeps_mk]
    | intro _
    | with_reducible apply keeps_ite)

theorem takeHello_keeps {pd : Kept} (s : State) (h : JaranHead) (m : HelloMsg) (hs : Keeps pd s) :
    Keeps pd (takeHello s h m) := by
  unfold takeHello
  repeat' (first
    | with_reducible assumption
    | (with_reducible first | apply acceptJaran_keeps | apply makeIncompatible_keeps | apply sendHello_keeps | apply resolveConflict_keeps | apply takeRole_keeps | apply becomePaired_keeps)
    | ((try lift_lets); intro x; refine (fun (hx : Keeps pd x) => ?_) ?_; clear_value x; rotate_left; unfold x; clear x)
    | (lift_lets; intro x)
    | intro _
    | simp only [↓keeps_mk]
    | with_reducible apply keeps_ite)

theorem execHello_keeps {pd : Kept} (h : JaranHead) (payload : List Byte) (s : State) (hs : Keeps pd s) :
    KeepsO pd (execHello h payload s) := by
  unfold execHello
  repeat' (first
    | with_reducible assumption
    | with_reducible exact keepsO_fault _
    | with_reducible refine keepsO_next ?_
    | (with_reducible first | apply takeHello_keeps)
    | ((try lift_lets); intro x; refine (fun (hx : Keeps pd x) => ?_) ?_; clear_value x; rotate_left; unfold x; clear x)
    | (lift_lets; intro x)
    | intro _
    | simp only [↓keeps_mk]
    | with_reducible apply keeps_ite
    | with_reducible apply keepsO_ite
    | split)

theorem execHelloSend_keeps {pd : Kept} (s : State) (hs : Keeps pd s) :
    KeepsO pd (execHelloSend s) := by
  unfold execHelloSend
  repeat' (first
    | with_reducible assumption
    | with_reducible exact keepsO_fault _
    | with_reducible refine keepsO_next ?_
    | (with_reducible first | apply sendHello_keeps)
    | intro _
    | with_reducible apply keeps_ite
    | with_reducible apply keepsO_ite)

theorem followLatches_keeps {pd : Kept} (s : State) (clear : Bool) (hs : Keeps pd s) :
    Keeps pd (followLatches s clear) := by
  unfold followLatches
  repeat' (first
    | with_reducible assumption
    | (with_reducible first | apply setLatches_keeps)
    | simp only [↓keeps_mk]
    | intro _
    | with_reducible apply keeps_ite)

theorem followState_keeps {pd : Kept} (s : State) (code : Nat) (hs : Keeps pd s) :
    Keeps pd (followState s code) := by
  unfold followState
  repeat' (first
    | with_reducible assumption
    | (with_reducible first | apply raiseHub_keeps | apply setIrq_keeps)
    | ((try lift_lets); intro x; refine (fun (hx : Keeps pd x) => ?_) ?_; clear_value x; rotate_left; unfold x; clear x)
    | (lift_lets; intro x)
    | intro _
    | simp only [↓keeps_mk]
    | with_reducible apply keeps_ite
    | split)

theorem partnerMismatch_keeps {pd : Kept} (s : State) (m : HeartbeatMsg) (hs : Keeps pd s) :
    Keeps pd (partnerMismatch s m) := by
  unfold partnerMismatch
  repeat' (first
    | with_reducible assumption
    | (with_reducible first | apply raiseHub_keeps | apply abandonSwitch_keeps | apply proposeSwitch_keeps)
    | ((try lift_lets); intro x; refine (fun (hx : Keeps pd x) => ?_) ?_; clear_value x; rotate_left; unfold x; clear x)
    | (lift_lets; intro x)
    | simp only [↓keeps_mk]
    | intro _
    | with_reducible apply keeps_ite)

theorem takeHeartbeat_keeps {pd : Kept} (s : State) (h : JaranHead) (m : HeartbeatMsg) (hs : Keeps pd s) :
    Keeps pd (takeHeartbeat s h m) := by
  unfold takeHeartbeat
  repeat' (first
    | with_reducible assumption
    | (with_reducible first | apply abandonSwitch_keeps | apply acceptJaran_keeps | apply followLatches_keeps | apply followState_keeps | apply partnerMismatch_keeps | apply resolveConflict_keeps | apply setVote_keeps | apply takeControl_keeps | apply takeRole_keeps)
    | ((try lift_lets); intro x; refine (fun (hx : Keeps pd x) => ?_) ?_; clear_value x; rotate_left; unfold x; clear x)
    | (lift_lets; intro x)
    | intro _
    | simp only [↓keeps_mk]
    | with_reducible apply keeps_ite
    | split)

theorem execHeartbeat_keeps {pd : Kept} (h : JaranHead) (payload : List Byte) (s : State) (hs : Keeps pd s) :
    KeepsO pd (execHeartbeat h payload s) := by
  unfold execHeartbeat
  repeat' (first
    | with_reducible assumption
    | with_reducible exact keepsO_fault _
    | with_reducible refine keepsO_next ?_
    | (with_reducible first | apply takeHeartbeat_keeps)
    | ((try lift_lets); intro x; refine (fun (hx : Keeps pd x) => ?_) ?_; clear_value x; rotate_left; unfold x; clear x)
    | (lift_lets; intro x)
    | intro _
    | simp only [↓keeps_mk]
    | with_reducible apply keeps_ite
    | with_reducible apply keepsO_ite
    | split)

theorem asStandby_keeps {pd : Kept} (s : State) (h : JaranHead) (f : State → State) (hs : Keeps pd s) (hf : ∀ a0, Keeps pd a0 → Keeps pd (f a0)) :
    Keeps pd (asStandby s h f) := by
  unfold asStandby
  repeat' (first
    | with_reducible assumption
    | (with_reducible first | apply acceptJaran_keeps)
    | with_reducible apply hf
    | ((try lift_lets); intro x; refine (fun (hx : Keeps pd x) => ?_) ?_; clear_value x; rotate_left; unfold x; clear x)
    | (lift_lets; intro x)
    | intro _
    | with_reducible apply keeps_ite)

theorem execImageFrame_keeps {pl : List Instr} (h : JaranHead) (m : ImageMsg) (s : State) (hs : Keeps (.mk pl none) s) :
    KeepsO (.mk pl none) (execImageFrame h m s) := by
  unfold execImageFrame
  repeat' (first
    | with_reducible assumption
    | with_reducible exact keepsO_fault _
    | with_reducible refine keepsO_next ?_
    | (with_reducible first | apply copyRelease_keeps | apply asStandby_keeps <;> (try intro _ _ _))
    | intro _)

theorem takeOutput_keeps {pd : Kept} (s : State) (m : OutputMsg) (hs : Keeps pd s) :
    Keeps pd (takeOutput s m) := by
  unfold takeOutput
  repeat' (first
    | with_reducible assumption
    | (with_reducible first | apply compareOutputs_keeps)
    | with_reducible refine keeps_foldl ?_ (fun _ _ _ => ?_)
    | ((try lift_lets); intro x; refine (fun (hx : Keeps pd x) => ?_) ?_; clear_value x; rotate_left; unfold x; clear x)
    | (lift_lets; intro x)
    | intro _
    | simp only [↓keeps_mk]
    | with_reducible apply keeps_ite)

theorem execOutputFrame_keeps {pd : Kept} (h : JaranHead) (m : OutputMsg) (s : State) (hs : Keeps pd s) :
    KeepsO pd (execOutputFrame h m s) := by
  unfold execOutputFrame
  repeat' (first
    | with_reducible assumption
    | with_reducible exact keepsO_fault _
    | with_reducible refine keepsO_next ?_
    | (with_reducible first | apply asStandby_keeps <;> (try intro _ _ _) | apply takeOutput_keeps)
    | intro _)

theorem takePairPage_keeps {pd : Kept} (s : State) (m : PageMsg) (hs : Keeps pd s) :
    Keeps pd (takePairPage s m) := by
  unfold takePairPage
  repeat' (first
    | with_reducible assumption
    | (with_reducible first | apply modTask_keeps)
    | ((try lift_lets); intro x; refine (fun (hx : Keeps pd x) => ?_) ?_; clear_value x; rotate_left; unfold x; clear x)
    | (lift_lets; intro x)
    | intro _
    | simp only [↓keeps_mk]
    | with_reducible apply keeps_ite)

theorem execPageFrame_keeps {pd : Kept} (h : JaranHead) (payload : List Byte) (s : State) (hs : Keeps pd s) :
    KeepsO pd (execPageFrame h payload s) := by
  unfold execPageFrame
  repeat' (first
    | with_reducible assumption
    | with_reducible exact keepsO_fault _
    | with_reducible refine keepsO_next ?_
    | (with_reducible first | apply asStandby_keeps | apply takePairPage_keeps)
    | ((try lift_lets); intro x; refine (fun (hx : Keeps pd x) => ?_) ?_; clear_value x; rotate_left; unfold x; clear x)
    | (lift_lets; intro x)
    | intro _
    | simp only [↓keeps_mk]
    | with_reducible apply keeps_ite
    | with_reducible apply keepsO_ite
    | split)

theorem sendCopy_keeps {pd : Kept} (s : State) (ts : List Nat) (hs : Keeps pd s) :
    Keeps pd (sendCopy s ts) := by
  unfold sendCopy
  repeat' (first
    | with_reducible assumption
    | (with_reducible first | apply setIrqIf_keeps)
    | with_reducible refine keeps_foldl ?_ (fun _ _ _ => ?_)
    | ((try lift_lets); intro x; refine (fun (hx : Keeps pd x) => ?_) ?_; clear_value x; rotate_left; unfold x; clear x)
    | (lift_lets; intro x)
    | intro _
    | simp only [↓keeps_mk])

theorem execJaranResync_keeps {pd : Kept} (h : JaranHead) (mask : BitVec 16) (s : State) (hs : Keeps pd s) :
    KeepsO pd (execJaranResync h mask s) := by
  unfold execJaranResync
  repeat' (first
    | with_reducible assumption
    | with_reducible exact keepsO_fault _
    | with_reducible refine keepsO_next ?_
    | (with_reducible first | apply acceptJaran_keeps | apply sendCopy_keeps)
    | ((try lift_lets); intro x; refine (fun (hx : Keeps pd x) => ?_) ?_; clear_value x; rotate_left; unfold x; clear x)
    | (lift_lets; intro x)
    | intro _
    | with_reducible apply keeps_ite
    | with_reducible apply keepsO_ite)

theorem execOutputBudgetExpiry_keeps {pd : Kept} (t : Fin 16) (s : State) (hs : Keeps pd s) :
    KeepsO pd (execOutputBudgetExpiry t s) := by
  unfold execOutputBudgetExpiry
  repeat' (first
    | with_reducible assumption
    | with_reducible exact keepsO_fault _
    | with_reducible refine keepsO_next ?_
    | (with_reducible first | apply seeMismatch_keeps)
    | intro _
    | simp only [↓keeps_mk]
    | with_reducible apply keeps_ite
    | with_reducible apply keepsO_ite)

theorem roleTimeout_keeps {pd : Kept} (s : State) (hs : Keeps pd s) :
    Keeps pd (roleTimeout s) := by
  unfold roleTimeout
  repeat' (first
    | with_reducible assumption
    | (with_reducible first | apply setIrq_keeps | apply pump_keeps | apply voteAll_keeps)
    | ((try lift_lets); intro x; refine (fun (hx : Keeps pd x) => ?_) ?_; clear_value x; rotate_left; unfold x; clear x)
    | (lift_lets; intro x)
    | simp only [↓keeps_mk]
    | intro _
    | with_reducible apply keeps_ite
    | split)

theorem execRoleTimeout_keeps {pd : Kept} (s : State) (hs : Keeps pd s) :
    KeepsO pd (execRoleTimeout s) := by
  unfold execRoleTimeout
  repeat' (first
    | with_reducible assumption
    | with_reducible exact keepsO_fault _
    | with_reducible refine keepsO_next ?_
    | (with_reducible first | apply roleTimeout_keeps))

theorem tryTakeover_keeps {pd : Kept} (s : State) (hs : Keeps pd s) :
    Keeps pd (tryTakeover s) := by
  unfold tryTakeover
  repeat' (first
    | with_reducible assumption
    | (with_reducible first | apply raiseHub_keeps | apply takeControl_keeps)
    | simp only [↓keeps_mk]
    | intro _
    | with_reducible apply keeps_ite)

theorem execTakeover_keeps {pd : Kept} (s : State) (hs : Keeps pd s) :
    KeepsO pd (execTakeover s) := by
  unfold execTakeover
  repeat' (first
    | with_reducible assumption
    | with_reducible exact keepsO_fault _
    | with_reducible refine keepsO_next ?_
    | (with_reducible first | apply tryTakeover_keeps))

theorem takeSwitch_keeps {pd : Kept} (s : State) (rel reason : Nat) (hs : Keeps pd s) :
    Keeps pd (takeSwitch s rel reason) := by
  unfold takeSwitch
  repeat' (first
    | with_reducible assumption
    | (with_reducible first | apply jaranSend_keeps)
    | ((try lift_lets); intro x; refine (fun (hx : Keeps pd x) => ?_) ?_; clear_value x; rotate_left; unfold x; clear x)
    | (lift_lets; intro x)
    | simp only [↓keeps_mk]
    | intro _
    | with_reducible apply keeps_ite)

theorem execSwitchFrame_keeps {pd : Kept} (h : JaranHead) (rel reason : Nat) (s : State) (hs : Keeps pd s) :
    KeepsO pd (execSwitchFrame h rel reason s) := by
  unfold execSwitchFrame
  repeat' (first
    | with_reducible assumption
    | with_reducible exact keepsO_fault _
    | with_reducible refine keepsO_next ?_
    | (with_reducible first | apply acceptJaran_keeps | apply takeSwitch_keeps)
    | intro _
    | with_reducible apply keeps_ite
    | with_reducible apply keepsO_ite)

theorem execSwitchAck_keeps {pd : Kept} (h : JaranHead) (rel : Nat) (s : State) (hs : Keeps pd s) :
    KeepsO pd (execSwitchAck h rel s) := by
  unfold execSwitchAck
  repeat' (first
    | with_reducible assumption
    | with_reducible exact keepsO_fault _
    | with_reducible refine keepsO_next ?_
    | (with_reducible first | apply acceptJaran_keeps)
    | ((try lift_lets); intro x; refine (fun (hx : Keeps pd x) => ?_) ?_; clear_value x; rotate_left; unfold x; clear x)
    | (lift_lets; intro x)
    | intro _
    | simp only [↓keeps_mk]
    | with_reducible apply keeps_ite
    | with_reducible apply keepsO_ite)

theorem execSwitchAckTimeout_keeps {pd : Kept} (s : State) (hs : Keeps pd s) :
    KeepsO pd (execSwitchAckTimeout s) := by
  unfold execSwitchAckTimeout
  repeat' (first
    | with_reducible assumption
    | with_reducible exact keepsO_fault _
    | with_reducible refine keepsO_next ?_
    | (with_reducible first | apply abandonSwitch_keeps)
    | ((try lift_lets); intro x; refine (fun (hx : Keeps pd x) => ?_) ?_; clear_value x; rotate_left; unfold x; clear x)
    | (lift_lets; intro x)
    | intro _
    | with_reducible apply keeps_ite
    | with_reducible apply keepsO_ite)

theorem execPairStatus_keeps {pd : Kept} (mb : Mb) (s : State) (hs : Keeps pd s) :
    KeepsO pd (execPairStatus mb s) := by
  unfold execPairStatus
  repeat' (first
    | with_reducible assumption
    | with_reducible exact keepsO_fault _
    | with_reducible refine keepsO_next ?_
    | (with_reducible first | apply okMb_keeps | apply runCmd_keeps <;> (try intro _ _ _))
    | intro _)

theorem pairSwitch_keeps {pd : Kept} (s : State) (mb : Mb) (hs : Keeps pd s) :
    Keeps pd (pairSwitch s mb) := by
  unfold pairSwitch
  repeat' (first
    | with_reducible assumption
    | (with_reducible first | apply resultMb_keeps | apply waitMb_keeps | apply proposeSwitch_keeps)
    | ((try lift_lets); intro x; refine (fun (hx : Keeps pd x) => ?_) ?_; clear_value x; rotate_left; unfold x; clear x)
    | (lift_lets; intro x)
    | intro _
    | with_reducible apply keeps_ite)

theorem execPairSwitch_keeps {pd : Kept} (mb : Mb) (s : State) (hs : Keeps pd s) :
    KeepsO pd (execPairSwitch mb s) := by
  unfold execPairSwitch
  repeat' (first
    | with_reducible assumption
    | with_reducible exact keepsO_fault _
    | with_reducible refine keepsO_next ?_
    | (with_reducible first | apply runCmd_keeps <;> (try intro _ _ _) | apply pairSwitch_keeps)
    | intro _)

theorem copyAll_keeps {pd : Kept} (s : State) (hs : Keeps pd s) :
    Keeps pd (copyAll s) := by
  unfold copyAll
  repeat' (first
    | with_reducible assumption
    | (with_reducible first | apply requestCopy_keeps | apply sendCopy_keeps)
    | intro _
    | with_reducible apply keeps_ite)

theorem execPairResync_keeps {pd : Kept} (mb : Mb) (s : State) (hs : Keeps pd s) :
    KeepsO pd (execPairResync mb s) := by
  unfold execPairResync
  repeat' (first
    | with_reducible assumption
    | with_reducible exact keepsO_fault _
    | with_reducible refine keepsO_next ?_
    | (with_reducible first | apply resultMb_keeps | apply okMb_keeps | apply runCmd_keeps <;> (try intro _ _ _) | apply copyAll_keeps)
    | intro _
    | simp only [↓keeps_mk]
    | with_reducible apply keeps_ite
    | with_reducible apply keepsO_ite)

end Sys2Proof.Machine
end

