-- ==== Sys2Proof/Laws/Mailbox.lean ====
section
/-! SUPPORT. What running and ending a mailbox command does (R433, R446, R448). -/
namespace Sys2Proof.Machine

@[simp] theorem mbox_modMb (s : State) (mb : Mb) (f : Mailbox → Mailbox) : mbox (modMb s mb f) mb = f (mbox s mb) := by
  cases mb <;> rfl

theorem mbox_modMb_ne {s : State} {mb k : Mb} (f : Mailbox → Mailbox) (h : k ≠ mb) : mbox (modMb s mb f) k = mbox s k := by
  cases mb <;> cases k <;> first | rfl | exact absurd rfl h

@[simp] theorem mbox_setIrq (s : State) (b : Nat) (mb : Mb) : mbox (setIrq s b) mb = mbox s mb := by cases mb <;> rfl
@[simp] theorem mbox_emit (s : State) (e : Emission) (mb : Mb) : mbox (emit s e) mb = mbox s mb := by cases mb <;> rfl

/-- Two updates of a mailbox are one. -/
theorem modMb_modMb (s : State) (mb : Mb) (f g : Mailbox → Mailbox) : modMb (modMb s mb f) mb g = modMb s mb (fun m => g (f m)) := by
  cases mb <;> rfl
/-- An update of a mailbox rests only on what the mailbox holds. -/
theorem modMb_congr {s : State} {mb : Mb} {f g : Mailbox → Mailbox} (h : f (mbox s mb) = g (mbox s mb)) :
    modMb s mb f = modMb s mb g := by
  cases mb
  · simp only [modMb]; rw [show f s.hp.mb0 = g s.hp.mb0 from h]
  · simp only [modMb]; rw [show f s.hp.mb1 = g s.hp.mb1 from h]
@[simp] theorem rawNow_modMb (s : State) (mb : Mb) (f : Mailbox → Mailbox) : rawNow (modMb s mb f) = rawNow s := by cases mb <;> rfl

/-- A command that is not in hand does nothing. -/
theorem runCmd_idle {s : State} {mb : Mb} {code : Nat} {lim hal : Bool} {fail : List Word} {need : List Word → Nat}
    {f : State → List Word → State} (h : inHand s mb code = false) : runCmd s mb code lim hal fail need f = .next s := by
  simp [runCmd, h]

/-- A command in hand in a mode that does not take it ends with WRONG_STATE. -/
theorem runCmd_wrongState {s : State} {mb : Mb} {code : Nat} {lim hal : Bool} {fail : List Word} {need : List Word → Nat}
    {f : State → List Word → State} (h : inHand s mb code = true) (hm : modeTakes s lim hal = false) :
    runCmd s mb code lim hal fail need f = .next (finishMb s mb 4 fail) := by
  simp [runCmd, h, hm]

/-- A command in hand whose request has another length ends with BAD_ARG at the word where the layout is broken. -/
theorem runCmd_badLength {s : State} {mb : Mb} {code : Nat} {lim hal : Bool} {fail : List Word} {need : List Word → Nat}
    {f : State → List Word → State} (h : inHand s mb code = true) (hm : modeTakes s lim hal = true)
    (hl : (mbox s mb).req.length ≠ need (mbox s mb).req) :
    runCmd s mb code lim hal fail need f
      = .next (finishMbAt s mb 3 fail (min (mbox s mb).req.length (need (mbox s mb).req + 1))) := by
  simp [runCmd, h, hm, hl]

/-- A command in hand, in a mode that takes it and of its length, has its effect. -/
theorem runCmd_asked {s : State} {mb : Mb} {code : Nat} {lim hal : Bool} {fail ws : List Word} {need : List Word → Nat}
    {f : State → List Word → State} (h : Asked s mb code lim hal ws) (hn : ws.length = need ws) :
    runCmd s mb code lim hal fail need f = .next (f s ws) := by
  obtain ⟨h1, h2, rfl⟩ := h
  simp [runCmd, h1, h2, hn]

end Sys2Proof.Machine
end

