-- ==== Sys2Proof/WellFormed.lean ====
section
/-! DEFINITION. The operands that a command can carry on this module: what the lines and the formats of the spec admit. The meanings
are total; this says which commands an environment sends. -/
namespace Sys2Proof

/-- A device identifier (R7). -/
def deviceOk (n : Nat) : Bool := decide (n < 1024)
/-- An Ethernet frame of the network (R268, R275). -/
def frameOk (bs : List Byte) : Bool := decide (64 ≤ bs.length) && decide (bs.length ≤ 1518)
/-- A container body (R270). -/
def bodyOk (bs : List Byte) : Bool := decide (1 ≤ bs.length) && decide (bs.length ≤ 1476)
/-- A posted tag (R328). -/
def tagOk (n : Nat) : Bool := decide (n < 65536)
/-- A frame of a foreign bus: at most 64 CAN data bytes, at most 1,024 serial bytes (R338). -/
def ForeignFrame.ok : ForeignFrame → Bool
  | .can _ _ data _ => decide (data.length ≤ 64)
  | .async bs _ => decide (bs.length ≤ 1024)
  | .hdlc bs _ => decide (bs.length ≤ 1024)
/-- MB0 is reached through the host port alone (R333, R448). -/
def sourceOk : Mb → Source → Bool
  | .mb0, .host => true
  | .mb0, _ => false
  | .mb1, _ => true

/-- The operands of a command are ones that can occur. -/
def Instr.wf : Instr → Bool
  | .mbDataWrite mb src _ drained => sourceOk mb src && decide (drained ≤ 1024)
  | .mbDataRead mb src => sourceOk mb src
  | .mbCtrlAck mb src => sourceOk mb src
  | .mbCtrlAbort mb src => sourceOk mb src
  | .badOpcode op => !(op = 0xA1 || op = 0xA2 || op = 0xA5 || op = 0xA6 || op = 0xAF)
  | .registerWrite _ addr _ => decide (addr.toNat < 0x800000)
  | .rcFieldRead _ addr => decide (addr.toNat < 0x800000)
  | .remoteWindowRead addr _ => decide (0x800000 ≤ addr.toNat)
  | .remoteWindowWrite addr _ => decide (0x800000 ≤ addr.toNat)
  | .post addr _ => decide (0x800000 ≤ addr.toNat)
  | .sampleStrobe mv ma => decide (mv.length = 32) && decide (ma.length = 32)
  | .flowPacketReceive node body => deviceOk node && bodyOk body
  | .flovisFrameIngress _ bytes => frameOk bytes
  | .flovisFrameReceive _ bytes => frameOk bytes
  | .referenceReceive _ bytes => frameOk bytes
  | .coldstartReceive _ bytes => frameOk bytes
  | .delayResp _ bytes => frameOk bytes
  | .delayReqReceive _ bytes => frameOk bytes
  | .claim _ bytes => frameOk bytes
  | .grant _ bytes => frameOk bytes
  | .slotTransmit slot => decide (slot < 256)
  | .leaseLapse _ slot => decide (slot < 256)
  | .trdpPublish g => decide (g < 1024)
  | .inboundRequest node body => deviceOk node && bodyOk body
  | .remoteAccessResponse node body => deviceOk node && bodyOk body
  | .credit node body => deviceOk node && bodyOk body
  | .resync node tag => deviceOk node && tagOk tag
  | .resyncDone node tag => deviceOk node && tagOk tag
  | .reqTimeout (.post node tag) => deviceOk node && tagOk tag
  | .seqGap node => deviceOk node
  | .foreignFrameReceive _ f _ => f.ok
  | .tunnelContainerReceive node body => deviceOk node && bodyOk body
  | .busOff iface _ => decide (iface.val < 2)
  | .faultRecord f => decide (f.sev ≤ 4) && decide (f.level ≤ 3)
  | .ethernetLinkChange _ speed => decide (speed ≤ 2)
  | .ptpDelayRequestReceive port _ _ => decide (port < 11)
  | _ => true

end Sys2Proof
end

