-- ==== Sys2Proof/Tests/Slice0.lean ====
section
/-! SUPPORT. Tests: commands that cannot occur are refused by the well-formedness check; one step on a small state, by the values the
spec gives; and a witness for the hypotheses of each statement. -/
namespace Sys2Proof.Tests
open Sys2Proof Sys2Proof.Machine

/-! ### Small states -/

/-- A lane that runs. -/
def running : LaneSt := { st := .active, held := false, latch := false }
/-- A module in service: VOTED_3, three lanes ACTIVE, every domain on, a bank and a program in effect. -/
def live : State :=
  { State.reset with
    modu.mode := .voted3, pwr.on := 0xFF, bring.stage := .none, bank.valid := true, prog := some {}
    lanes := ⟨running, running, running⟩ }
/-- The same state with the raw count of axis 0, and so the hub clock, at ns. -/
def later (ns : Nat) (s : State) : State := modAxis s 0 (fun a => { a with raw := BitVec.ofNat 64 ns })
/-- The same state with a command of the host in hand in MB0. -/
def ask (code : Nat) (ws : List Word) (s : State) : State :=
  modMb s .mb0 (fun m => { m with st := .busy, code := code, req := ws, holder := some .host })
/-- The same state with a session of the host open over MB0. -/
def sess (s : State) : State := { s with hp.sessions := [{ mb := .mb0, src := .host, lastCmd := 0 }] }
/-- Operands of an opcode. -/
def opIn (op ty : Nat) (a b : Word) : EvalIn :=
  { op := op, ty := ty, inv := false, sat := false, initEdge := false, param := 0, a := { w := a }, b := { w := b }, c := {}
    st := [], stamp := [] }
/-- A small instance, page, lane frame, record and fault of the tests. -/
def inst0 : Inst :=
  { key := 0, task := 0, home := 0, op := 0, mods := 0, out := 0, inA := 0, inB := 0, inC := 0, st := 0, param := 0 }
def laneFrame0 : LaneFrame :=
  { kind := 1, lane := .a, task := 0, wpos := 1, rel := 0, seq := 0, runSig := 0, runCount := 0, flags := 0, words := [], lines := [] }
def rec0 : RecRecord := { seq := 1, trigger := 0, flags := 0, suppressed := 0, words := [] }
def fault0 : FaultIn := { region := .hub, sev := 0, level := 0, code := 0x1001 }
def task0 : TaskDef :=
  { task := 0, safety := false, prio := 0, source := 0, dir := 0, period := 0, phase := 0, event := 0, deadline := 0, skew := 0 }
def rel0 : RelDue := { cause := 0, axes := {}, stepped := [], reverse := false, holdover := false }
def ckpt0 : Ckpt := { task := 0, gen := 0, source := .a, todo := [{ space := 0, page := 0, words := [], crcs := [] }] }
def page0 : PageDecl := { task := 0, space := 0, page := 0, slice := 0, retained := true, key := 0, init := none }
def sample0 : SampleSet := { seq := 0, ax0 := 0, vals := [], rot := 0, status := 0 }
def group0 : SigGroup :=
  { group := 0, publish := false, format := 0, carrier := 2, mode := 0, size := 0, peer := 0, conn := 0, comId := 7, ip := 0, period := 0
    fresh := 0, grace := 0 }
def pd0 : PdHeader :=
  { ip := { options := false, fragment := false }, fcsGood := true, major := 1, comId := 7, etbTopoCnt := 0, datasetLength := 0, sequence := 0, replyComId := 0, replyIp := 0 }
def jaran0 : JaranHead := { seq := 0, harvest := 0, flags := 0 }
def ptpHead0 : PtpHead := { port := 8, udp := false, domain := 0 }
def announce0 : PtpAnnounceMsg :=
  { head := ptpHead0, gmIdentity := 0, gmPriority1 := 0, gmClass := 0, gmAccuracy := 0, gmVariance := 0, gmPriority2 := 0, stepsRemoved := 0
    parentIdentity := 0, parentPort := 0 }
def topology0 : TopologyMsg := { inaugurated := true, etbTopoCnt := 0, consists := 1, src := 0, nodes := [] }
def flow0 : FlowCfg := { id := 0, send := true, channels := 1, format := 0, peer := 1, latency := 1, depth := 0 }
def force0 : Force := { slot := 0, kind := 0, id := 0, v0 := 0, v1 := 0, keep := false }
def conn0 : SafeConn :=
  { conn := 0, send := false, task := 0, scid := 0, peer := 0, loc := 0, length := 0, timeoutMs := 0, singleMs := 0, passive := [] }
def entry0 : DelayedEntry :=
  { page := 0, addr := 0x800000, node := 0, train := false, remote := 0, write := false, count := 1, data := [], at_ := 0, reqMs := 50
    discardMs := 10 }
def post0 : PostSt := { tag := 0, page := 0, remote := 0, count := 1, at_ := 0, reqMs := 50 }
def endpoint0 : Endpoint := { ep := 0, iface := 0, peer := 0, peerEp := 0, delay := 0, filters := [] }
def desc0 : Desc := { id := 0, port := 0, egress := [1], bytes := [], since := 0, sof := 0 }
/-- A DATA slot of owner 0 and an OPEN window, on both planes. -/
def slot0 : SchedEntry := { ty := 2, planes := 3, owner := 0, slot := 0, rep := 1, base := 0, start := 0, length := 200000 }
def open0 : SchedEntry := { slot0 with ty := 5 }
/-- A node of the network in SYNC with that schedule. -/
def net1 : State :=
  { live with net.node := .sync, net.sched.id := 1, net.sched.entries := [slot0], bank.net.ports := [{ role := 1 }] }
/-- A star of plane A: port 0 to a star, port 1 to a node. -/
def star : State := { live with net.node := .sync, net.sched.id := 1, bank.net.ports := [{ role := 3 }, { role := 2 }] }
/-- A frame of device 5. -/
def frameOf (kind : Nat) (payload : List Byte) : List Byte :=
  flovisFrame { net1 with bank.net.deviceId := 5 } false kind 0 0 0 payload
/-- The header of a slot in state VERIFIED, at an address. -/
def slotMark (a : Nat) : List Host.Cell := [(a, 0x53), (a + 1, 0x4C), (a + 2, 0x4F), (a + 3, 0x54), (a + 4, 0x3F)]
/-- A module that feeds channel 0 as an output with these flags. -/
def output (mode flags : Nat) : State := { live with bank.chans := [{ mode := mode, flags := flags }] }
/-- A module whose lane A has one instance in hand in PAN 0 of block 0. -/
def busyPan : State :=
  { live with lanes := ⟨{ running with blocks := [{ pans := [{ busy := some ⟨false, 0⟩ }] }] }, running, running⟩
              prog := some { insts := [inst0] } }
/-- A module in LIMITED, ready for a release. -/
def limited : State :=
  { live with modu.mode := .limited, bring.stage := .l1, bring.waiting := true, bring.verified := true }
/-- A standby linked to its partner. -/
def standbyOf (s : State) : State :=
  { s with bank.pair.enable := true, pair.up := true, pair.paired := true, pair.controlling := false, pair.roleTaken := true
           pair.st := .synced }
/-- A controlling module linked to its partner. -/
def partnered (s : State) : State := { standbyOf s with pair.controlling := true }
/-- A lane whose block 1 has work and no pan for it. -/
def raking : State :=
  { live with
    lanes := ⟨{ running with
                blocks := [{}, { pans := [], queue := [⟨false, 0⟩], published := some (0, 1) }] }, running, running⟩
    prog := some { insts := [inst0] } }
/-- There is a list of words of every length. -/
theorem words_of_length (n : Nat) : ∃ ws : List Word, ws.length = n := ⟨List.replicate n 0, List.length_replicate⟩

/-! ### Commands that cannot occur -/

/-- MB0 is no one's but the host's; at most 1,024 words leave the request FIFO (R333, R447). -/
theorem test_wf_mailbox :
    Instr.wf (.mbDataWrite .mb0 (.node 3) 0 0) = false ∧ Instr.wf (.mbDataWrite .mb0 .host 0 1025) = false ∧
    Instr.wf (.mbDataRead .mb0 (.node 3)) = false ∧ Instr.wf (.mbCtrlAck .mb0 (.trdp 1)) = false ∧
    Instr.wf (.mbCtrlAbort .mb0 (.node 3)) = false ∧ Instr.wf (.mbDataWrite .mb1 (.node 3) 0 1024) = true := by decide

/-- The five opcodes are no unknown ones (R435); the window begins at 0x80_0000 (R318). -/
theorem test_wf_host_port :
    Instr.wf (.badOpcode 0xA1) = false ∧ Instr.wf (.badOpcode 0xAF) = false ∧ Instr.wf (.badOpcode 0xA0) = true ∧
    Instr.wf (.registerWrite .host 0x800000 0) = false ∧ Instr.wf (.rcFieldRead .host 0x800000) = false ∧
    Instr.wf (.remoteWindowRead 0x7FFFFC 1) = false ∧ Instr.wf (.remoteWindowWrite 0x7FFFFC [0]) = false ∧
    Instr.wf (.post 0x7FFFFC [0]) = false ∧ Instr.wf (.rcFieldRead .host 0x7FFFFC) = true := by decide

/-- A strobe samples 32 contacts. -/
theorem test_wf_strobe :
    Instr.wf (.sampleStrobe [] (List.replicate 32 0)) = false ∧ Instr.wf (.sampleStrobe (List.replicate 32 0) []) = false ∧
    Instr.wf (.sampleStrobe (List.replicate 32 0) (List.replicate 32 0)) = true := by decide

/-- Device identifiers are below 1,024 and bodies are not empty (R7, R270). -/
theorem test_wf_containers :
    Instr.wf (.flowPacketReceive 1024 [0]) = false ∧ Instr.wf (.inboundRequest 0 []) = false ∧
    Instr.wf (.remoteAccessResponse 1024 [0]) = false ∧ Instr.wf (.credit 0 []) = false ∧
    Instr.wf (.tunnelContainerReceive 0 []) = false ∧ Instr.wf (.resync 0 65536) = false ∧ Instr.wf (.resyncDone 1024 0) = false ∧
    Instr.wf (.reqTimeout (.post 0 65536)) = false ∧ Instr.wf (.seqGap 1024) = false ∧ Instr.wf (.credit 1023 [0]) = true := by decide

/-- A frame of the network has at least 64 bytes (R268). -/
theorem test_wf_frames :
    Instr.wf (.flovisFrameIngress 0 []) = false ∧ Instr.wf (.flovisFrameReceive .a []) = false ∧ Instr.wf (.referenceReceive .a []) = false ∧
    Instr.wf (.coldstartReceive .a []) = false ∧ Instr.wf (.delayResp 0 []) = false ∧ Instr.wf (.delayReqReceive 0 []) = false ∧
    Instr.wf (.claim 0 []) = false ∧ Instr.wf (.grant .a []) = false ∧
    Instr.wf (.flovisFrameIngress 0 (List.replicate 64 0)) = true := by decide

/-- The other numbers of the lines. -/
theorem test_wf_numbers :
    Instr.wf (.slotTransmit 256) = false ∧ Instr.wf (.leaseLapse .a 256) = false ∧ Instr.wf (.trdpPublish 1024) = false ∧
    Instr.wf (.foreignFrameReceive 0 (.can 0 0 (List.replicate 65 0) true) 0) = false ∧ Instr.wf (.busOff 2 true) = false ∧
    Instr.wf (.faultRecord { fault0 with sev := 5 }) = false ∧ Instr.wf (.faultRecord { fault0 with level := 4 }) = false ∧
    Instr.wf (.ethernetLinkChange 0 3) = false ∧ Instr.wf (.ptpDelayRequestReceive 11 { udp := false, domain := 0, peer := false } 0) = false := by decide

/-- No word spells a command: the table gives its rows no bits. -/
theorem test_no_word_spells_a_command : decodeTableWord 32 0 = none ∧ (live.withFetchWord 32 0) = live := ⟨rfl, rfl⟩

/-! ### One step, by the spec's own examples -/

/-- The signal 517/40 is 0x40_A028 (00_scope). -/
theorem test_signal_number : signalId 517 40 = 0x40A028 := by decide

/-- The axis of the example of 02_axes reads 1,700,000,001,000,002,980 ns. -/
theorem test_axis_reads_by_offset_and_scale :
    axisAt 1700000000000000000 0x0000000100003200 1000000000 = 1700000001000002980 := by decide

/-- A new scale keeps the value at which it is applied (02_axes): the same axis, given scale 1.0 in the tick that reaches that raw count. -/
theorem test_new_scale_keeps_the_value :
    let a : Axis := { raw := 999999998, offset := 1700000000000000000, scale := 0x0000000100003200, writes := [.scale 0x0000000100000000] }
    ∃ t, exec .timingTick { live with tim.axes := [a, {}, {}, {}] } = .next t ∧
      (axis t 0).value = 1700000001000002980 ∧ (axis t 0).scale = 0x0000000100000000 := ⟨_, rfl, by decide, by decide⟩

/-- ADD and ADDS of 2,147,483,000 and 1,000 (04_block_instructions). -/
theorem test_add_wraps_and_adds_saturates :
    (eval (opIn 0x20 0 2147483000 1000) []).words = [BitVec.ofInt 32 (-2147483296)] ∧
    (eval (opIn 0x21 0 2147483000 1000) []).words = [0x7FFFFFFF] := by decide

/-- Step 3 of the timer example of 04_block_instructions: IN held over 100,000 ns gives E = 100,000 and Q = 0 against PT = 250,000. -/
theorem test_timer_counts :
    let st := [0, 0, 0, 1000000, mkFlags true true false false false false false]
    let stamp := [(0, 0), (0, 0), (0, 0), (1100000, 0)]
    let o := eval { opIn 0x50 0 1 0 with b := { l := 250000 }, st := st, stamp := stamp } []
    o.words = [0] ∧ o.st.take 4 = [0, 100000, 0, 1100000] := by decide

/-- With UPPER 200 and LOWER 50 an input becomes 1 at its 200th good sample, and not before (09_field_channels). -/
theorem test_input_filter :
    let cfg : ChCfg := { mode := 1, upper := 200, lower := 50, cmax := 250 }
    (sampleInput cfg 110000 110000 { c := 199 }).val = true ∧ (sampleInput cfg 110000 110000 { c := 198 }).val = false ∧
    (sampleInput cfg 110000 0 { c := 51, val := true }).val = false ∧ (sampleInput cfg 110000 0 { c := 52, val := true }).val = true := by
  decide

/-- A slot of 16,000 ns with a precision of 1,000 ns is limited by Ethernet's 1,518 bytes (11_flovis_consist_network). -/
theorem test_frame_limit :
    frameLimit { live with bank.net.ports := [{ role := 1 }] } false
      { slot0 with length := 16000 } = 1518 := by decide

/-! ### One step, by the rules -/

/-- The check value of CRC-32C over the ASCII digits 1 to 9 (R4). -/
theorem test_crc32c : crc32c [0x31, 0x32, 0x33, 0x34, 0x35, 0x36, 0x37, 0x38, 0x39] = 0xE3069283 := by decide +kernel

/-- The first word of the register space is the family's (R442). -/
theorem test_part_register : (peek State.reset .host 0) = some 0x4B4C3090 := by decide

/-- An unknown opcode sets cause 5 (R435, R441). -/
theorem test_bad_opcode : ∃ t, exec (.badOpcode 0x00) live = .next t ∧ t.hp.cause = 5 ∧ t.hp.err = true :=
  ⟨_, rfl, by decide, by decide⟩

/-- A code without a row ends with BAD_CMD (R433). -/
theorem test_bad_command : ∃ t, exec (.badCmd .mb0) (ask 0x0F00 [] live) = .next t ∧ t.hp.mb0.st = .done ∧ t.hp.mb0.result = 2 :=
  ⟨_, rfl, by decide, by decide⟩

/-- FORCE_SET is not a command for LIMITED: WRONG_STATE (R433). -/
theorem test_wrong_state :
    ∃ t, exec (.forceSet .mb0) (ask 0x0400 [0, 0, 0, 0] limited) = .next t ∧ t.hp.mb0.st = .done ∧ t.hp.mb0.result = 4 :=
  ⟨_, rfl, by decide, by decide⟩

/-- REC_CLEAR without a session is DENIED (R450). -/
theorem test_denied_without_session :
    ∃ t, exec (.recClear .mb0) (ask 0x0701 [] live) = .next t ∧ t.hp.mb0.result = 5 := ⟨_, rfl, by decide⟩

/-- MODULE_RESET asks for its own word (R423). -/
theorem test_module_reset_word :
    ∃ t, exec (.moduleReset .mb0) (ask 0x0102 [0] (sess live)) = .next t ∧ t.hp.mb0.result = 3 ∧ t.bring.resetWait = none :=
  ⟨_, rfl, by decide, by decide⟩

/-- AXIS_STEP of AX1 waits for the next tick, which applies it (R34). -/
theorem test_axis_step :
    ∃ t, exec (.axisStep .mb0) (ask 0x0500 [1, 0, 7] live) = .next t ∧ (axis t 1).value = 0 ∧
      ∃ u, exec .timingTick t = .next u ∧ (axis u 1).value = 7 := ⟨_, rfl, by decide, _, rfl, by decide⟩

/-- SNAP latches the values of all axes (R41). -/
theorem test_snap : ∃ t, exec .snap (later 123 live) = .next t ∧ (axis t 0).latVal = 123 := ⟨_, rfl, by decide⟩

/-- Two lanes that give a channel energy close its switch, one does not (R25). -/
theorem test_output_voter :
    let on : DriveLink := { latest := { on := 1 }, timeout := false }
    let off : DriveLink := { timeout := false }
    energised { output 4 0 with field.links := ⟨on, on, off⟩, field.chans := [{ on := true }], field.grpA := { closed := true } } 0 = true ∧
    energised { output 4 0 with field.links := ⟨on, off, off⟩, field.grpA := { closed := true } } 0 = false := by decide

/-- A return of power above the absolute maximum is the one stop (R466). -/
theorem test_overvoltage_stops :
    exec (.powerReturn 6001) { live with pwr.aon := false } = .fault .beyondAbsoluteMaximum ∧
    (∃ t, exec (.powerReturn 6000) { live with pwr.aon := false } = .next t ∧ t.pwr.aon = true) := ⟨rfl, _, rfl, by decide⟩

/-- A step takes the front command and leaves the rest (the model's form of a block). -/
theorem test_step_takes_the_front : ∃ t, step { live with pending := [.snap, .timingTick] } = .next t ∧ t.pending = [.timingTick] :=
  ⟨_, rfl, by decide⟩

/-- A frame with a wrong check sequence changes no clock (R268). -/
theorem test_bad_frame_is_dropped :
    ∃ t, exec (.referenceReceive .a (List.replicate 64 0)) net1 = .next t ∧ t.net.planeA.lastRef = none ∧ t.net.node = .sync :=
  ⟨_, rfl, by decide +kernel, by decide +kernel⟩

/-- A wake frame for another device is discarded and counted, one for this device is not (R415). -/
theorem test_wake_frame :
    (∃ t, exec (.wakeFrame [0x57, 0x41, 0x4B, 0x45, 0, 1, 0xFF, 0]) live = .next t ∧ t.pwr.frameDiscards = 1) ∧
    (∃ t, exec (.wakeFrame [0x57, 0x41, 0x4B, 0x45, 0, 0, 0x21, 0]) live = .next t ∧ t.pwr.frameDiscards = 0 ∧
      t.pwr.votes.getD 2 0 = 0x21) := ⟨⟨_, rfl, by decide⟩, _, rfl, by decide, by decide⟩

/-- An ARP request for an own address is answered (R305). -/
theorem test_arp_reply :
    ∃ t, exec (.arpFrame true 0x0A800002 0x0A800001 0) { live with bank.net.ip := { etbAddr := 0x0A800001, etbMask := 0xFFFF0000 } } = .next t ∧
      t.out.length = 1 := ⟨_, rfl, by decide⟩

/-! ### Witnesses: for each statement with hypotheses, a state and operands that meet them -/

theorem witness_StepRunsTheFrontCommand :
  (∃ (s : State), s.pending = []) :=
  ⟨live, by decide⟩

theorem witness_StepTakesExactlyTheFrontCommand :
  (∃ (s : State) (t : State), step s = .next t) :=
  ⟨live, _, rfl⟩

theorem witness_StepKeepsTheMemoriesCanonical :
  (∃ (s : State) (t : State), s.Inv ∧ step s = .next t) :=
  ⟨live, _, ⟨rfl, rfl⟩, rfl⟩

theorem witness_OtherCommandsLeaveTheMemories :
  (∃ (c : Instr) (s : State) (t : State), s.Inv ∧ mayWriteMemory c = false ∧ exec c s = .next t) ∧
  (∃ (c : Instr) (s : State) (t : State), s.Inv ∧ mayWriteMemory c = false ∧ exec c s = .next t ∧ ∃ a, logCopyByte a = false) :=
  ⟨⟨.snap, live, _, ⟨rfl, rfl⟩, by decide, rfl⟩,
   ⟨.snap, live, _, ⟨rfl, rfl⟩, by decide, rfl, 0, by decide⟩⟩

theorem witness_ReadingCommandsChangeOnlyTheirMailbox :
  (∃ (c : Instr) (r : MbRow) (s : State) (t : State), readsOnly c = true ∧ mbRow c = some r ∧ exec c s = .next t) ∧
  (∃ (c : Instr) (r : MbRow) (s : State) (t : State), readsOnly c = true ∧ mbRow c = some r ∧ exec c s = .next t ∧ ∃ k, k ≠ r.mb) ∧
  (∃ (c : Instr) (r : MbRow) (s : State) (t : State), readsOnly c = true ∧ mbRow c = some r ∧ exec c s = .next t ∧
    (∀ ip, (mbox s r.mb).holder ≠ some (.trdp ip))) :=
  ⟨⟨.getInfo .mb0, _, live, _, by decide, rfl, rfl⟩,
   ⟨.getInfo .mb0, _, live, _, by decide, rfl, rfl, .mb1, by decide⟩,
   ⟨.getInfo .mb0, _, live, _, by decide, rfl, rfl, (fun _ h => nomatch h)⟩⟩

theorem witness_CommandNotInHandDoesNothing :
  (∃ (c : Instr) (r : MbRow) (s : State), mbRow c = some r ∧ inHand s r.mb r.code = false) :=
  ⟨.getInfo .mb0, _, live, rfl, by decide⟩

theorem witness_BringupMailboxIsSilent :
  (∃ (s : State), s.modu.mode = .bringup ∧ ∃ (c : Instr) (r : MbRow), mbRow c = some r) ∧
  (∃ (s : State), s.modu.mode = .bringup) :=
  ⟨⟨State.reset, by decide, .getInfo .mb0, _, rfl⟩,
   ⟨State.reset, by decide⟩⟩

theorem witness_ModeTableOfTheMailbox :
  (∃ (c : Instr) (r : MbRow) (s : State), mbRow c = some r ∧ inHand s r.mb r.code = true ∧ modeTakes s r.limited r.halted = false) ∧
  (∃ (c : Instr) (r : MbRow) (s : State), mbRow c = some r ∧ inHand s r.mb r.code = true ∧ s.modu.mode = .limited) ∧
  (∃ (c : Instr) (r : MbRow) (s : State), mbRow c = some r ∧ inHand s r.mb r.code = true ∧ s.modu.mode = .halted) ∧
  (∃ (c : Instr) (r : MbRow) (s : State), mbRow c = some r ∧ inHand s r.mb r.code = true ∧ (s.modu.mode = .voted3 ∨ s.modu.mode =
    .voted2 ∨ s.modu.mode = .safe)) ∧
  (∃ (c : Instr) (r : MbRow) (s : State), mbRow c = some r ∧ inHand s r.mb r.code = true ∧ ∃ mb, c = .progActivate mb ∧
    (mbox s mb).req = [1] ∧ (s.modu.mode = .limited ∨ s.modu.mode = .halted) ∧ s.prog ≠ none ∧ inSession s mb = true ∧
    shadowVerified s true = true ∧ exchanging s = false ∧ s.xch.swap = none ∧ releasing s = false) :=
  ⟨⟨.start .mb0, _, ask 0x0121 [] { live with modu.mode := .halted }, rfl, by decide, by decide⟩,
   ⟨.getInfo .mb0, _, ask 0x0100 [] { live with modu.mode := .limited }, rfl, by decide, by decide⟩,
   ⟨.getInfo .mb0, _, ask 0x0100 [] { live with modu.mode := .halted }, rfl, by decide, by decide⟩,
   ⟨.getInfo .mb0, _, ask 0x0100 [] live, rfl, by decide, by decide⟩,
   ⟨.progActivate .mb0, _, ask 0x0203 [1] (sess { live with modu.mode := .limited, xch.flash := slotMark 0x02000000 }), rfl,
    by decide, .mb0, by decide, by decide, by decide, by decide, by decide,
    by decide, by decide, by decide, by decide⟩⟩

theorem witness_CommandEndsInItsMailbox :
  (∃ (s : State) (mb : Mb), (∀ ip, (mbox s mb).holder ≠ some (.trdp ip))) ∧
  (∃ (s : State) (mb : Mb), (∀ ip, (mbox s mb).holder ≠ some (.trdp ip)) ∧ ∃ k, k ≠ mb) ∧
  (∃ (s : State) (mb : Mb) (ip : Word), (mbox s mb).holder = some (.trdp ip)) ∧
  (∃ (s : State) (mb : Mb) (ip : Word), (mbox s mb).holder = some (.trdp ip) ∧ ∃ k, k ≠ mb) :=
  ⟨⟨live, .mb0, (fun _ h => nomatch h)⟩,
   ⟨live, .mb0, (fun _ h => nomatch h), .mb1, by decide⟩,
   ⟨{ live with hp.mb1.holder := some (.trdp 1) }, .mb1, 1, by decide⟩,
   ⟨{ live with hp.mb1.holder := some (.trdp 1) }, .mb1, 1, by decide, .mb0, by decide⟩⟩

theorem witness_CompareWithNanIsInvalid :
  (∃ (x : EvalIn), 0x10 ≤ x.op ∧ x.op ≤ 0x17 ∧ x.ty = 2 ∧ (comparesNan x = true ∨ (x.op = 0x17 ∧ ∃ neg, Fl.of32 x.a.w = .inf neg ∧
    Fl.of32 x.b.w = .inf neg))) :=
  ⟨opIn 0x10 2 0x7FC00000 0, by decide, by decide, by decide, by left; decide⟩

theorem witness_BoolsAreReadAndWrittenWhole :
  (∃ (x : EvalIn) (i : OpInfo), opInfo x.op = some i ∧ i.out = .bool) :=
  ⟨opIn 0x10 0 1 1, _, rfl, rfl⟩

theorem witness_IntegerOperationsWrapAndSaturate :
  (∃ (x : EvalIn), x.ty = 0 ∧ x.op = 0x20) ∧
  (∃ (x : EvalIn), x.ty = 0 ∧ x.op = 0x24) ∧
  (∃ (x : EvalIn), x.ty = 0 ∧ x.op = 0x21) ∧
  (∃ (x : EvalIn), x.ty = 0 ∧ x.op = 0x23) ∧
  (∃ (x : EvalIn), x.ty = 0 ∧ x.op = 0x25) ∧
  (∃ (x : EvalIn), x.ty = 0 ∧ x.op = 0x26 ∧ x.b.w ≠ 0) ∧
  (∃ (x : EvalIn), x.ty = 0 ∧ x.op = 0x27 ∧ x.b.w ≠ 0) ∧
  (∃ (x : EvalIn), x.ty = 0 ∧ x.op = 0x28 ∧ x.b.w ≠ 0) ∧
  (∃ (x : EvalIn), x.ty = 0 ∧ (x.op = 0x26 ∨ x.op = 0x28) ∧ x.b.w = 0) ∧
  (∃ (x : EvalIn), x.ty = 0 ∧ x.op = 0x27 ∧ x.b.w = 0) :=
  ⟨⟨opIn 0x20 0 1 1, by decide, by decide⟩,
   ⟨opIn 0x24 0 1 1, by decide, by decide⟩,
   ⟨opIn 0x21 0 1 1, by decide, by decide⟩,
   ⟨opIn 0x23 0 1 1, by decide, by decide⟩,
   ⟨opIn 0x25 0 1 1, by decide, by decide⟩,
   ⟨opIn 0x26 0 1 1, by decide, by decide, by decide⟩,
   ⟨opIn 0x27 0 1 1, by decide, by decide, by decide⟩,
   ⟨opIn 0x28 0 1 1, by decide, by decide, by decide⟩,
   ⟨opIn 0x26 0 1 0, by decide, by decide, by decide⟩,
   ⟨opIn 0x27 0 1 0, by decide, by decide, by decide⟩⟩

theorem witness_SystemCommandsHaveTheirEffect :
  (∃ (mb : Mb) (s : State), Asked s mb 0x0100 true true []) ∧
  (∃ (mb : Mb) (s : State), Asked s mb 0x0101 true true []) ∧
  (∃ (mb : Mb) (s : State), Asked s mb 0x0102 true true [0x52535421] ∧ (inService s = true → inSession s mb = true)) ∧
  (∃ (mb : Mb) (s : State) (k : Word), Asked s mb 0x0110 true true [1, k] ∧ k.toNat ≤ 3 ∧ s.hp.blocked = []) ∧
  (∃ (mb : Mb) (s : State), Asked s mb 0x0111 true true [] ∧ inSession s mb = true) ∧
  (∃ (mb : Mb) (s : State), Asked s mb 0x0121 true false [] ∧ awaitsRelease s = true ∧ s.bank.modu.autoStart = false ∧ s.bring.started = false) ∧
  (∃ (mb : Mb) (s : State), ∃ t, s.bring.resetWait = some (mb, t) ∧ (mbox s mb).st ≠ .done) ∧
  (∃ (mb : Mb) (s : State), s.hp.sessions.any (fun x => x.mb = mb && elapsed s x.lastCmd 600000000000) = true) ∧
  (∃ (mb : Mb) (s : State), (mbox s mb).st = .busy ∧ (mbox s mb).waiting = false ∧ knownCodes.contains (mbox s mb).code = false ∧
    s.modu.wdExpired = false ∧ s.modu.mode ≠ .bringup) ∧
  (∃ (mb : Mb) (s : State) (token : Word), Asked s mb 0x0120 false true [token] ∧ token ≠ 0 ∧ bit s.bank.modu.ackSources (mbAckSource mb) =
    true ∧ ackWait s = true ∧ s.pair.controlling = true ∧ s.ack.firsts = []) ∧
  (∃ (mb : Mb) (s : State) (token : Word), ∃ t n, Asked s mb 0x0120 false true [token] ∧ token ≠ 0 ∧ bit s.bank.modu.ackSources (mbAckSource
    mb) = true ∧ ackWait s = true ∧ s.pair.controlling = true ∧ s.ack.firsts = [(mb, (mbox s mb).holder.getD .host, t, n)] ∧ t ≠ token ∧ elapsed
    s n 100000000 = true ∧ elapsed s n 2000000001 = false) :=
  ⟨⟨.mb0, ask 0x0100 [] live, by decide⟩,
   ⟨.mb0, ask 0x0101 [] live, by decide⟩,
   ⟨.mb0, ask 0x0102 [0x52535421] (sess live), by decide, by decide⟩,
   ⟨.mb0, ask 0x0110 [1, 3] live, 3, by decide, by decide, by decide⟩,
   ⟨.mb0, ask 0x0111 [] (sess live), by decide, by decide⟩,
   ⟨.mb0, ask 0x0121 [] { limited with bank.modu.autoStart := false }, by decide, by decide, by decide, by decide⟩,
   ⟨.mb0, { live with bring.resetWait := some (.mb0, 0) }, 0, by decide, by decide⟩,
   ⟨.mb0, later 600000000000 (sess live), by decide⟩,
   ⟨.mb0, ask 0x0F00 [] live, by decide, by decide, by decide, by decide, by decide⟩,
   ⟨.mb0, ask 0x0120 [1] { live with modu.mode := .halted, bank.modu.ackSources := 4 }, 1, by decide, by decide, by decide, by decide,
    by decide, by decide⟩,
   ⟨.mb0, ask 0x0120 [1] (later 100000000 { live with modu.mode := .halted, bank.modu.ackSources := 4, ack.firsts := [(.mb0, .host, 2, 0)] }),
    1, 2, 0, by decide, by decide, by decide, by decide, by decide, by decide, by decide, by decide, by decide⟩⟩

theorem witness_LoadCommandsHaveTheirEffect :
  (∃ (mb : Mb) (s : State) (n : Word), Asked s mb 0x0200 true true [n] ∧ n ≠ 0 ∧ n.toNat ≤ objectMax true ∧ s.xch.imgLoad = none ∧ exchanging s
    = false) ∧
  (∃ (mb : Mb) (s : State) (n : Word), Asked s mb 0x0300 true true [n] ∧ n ≠ 0 ∧ n.toNat ≤ objectMax false ∧ s.xch.bankLoad = none ∧ s.xch.swap
    = none) ∧
  (∃ (mb : Mb) (s : State) (img : Bool) (l : Load) (off : Word) (n : Word) (ds : List Word), Asked s mb (if img then 0x0201 else 0x0301) true
    true (off :: n :: ds) ∧ ds.length = (n.toNat + 3) / 4 ∧ loadOf s img = some l ∧ l.mb = mb ∧ off.toNat = l.received ∧ 0 < n.toNat ∧ n.toNat ≤
    16384 ∧ n.toNat % 4 = 0 ∧ l.received + n.toNat ≤ l.length) ∧
  (∃ (mb : Mb) (s : State) (img : Bool) (l : Load), Asked s mb (if img then 0x0202 else 0x0302) true true [] ∧ loadOf s img = some l ∧ l.mb =
    mb) :=
  ⟨⟨.mb0, ask 0x0200 [16777152] live, 16777152, by decide, by decide, by decide, by decide, by decide⟩,
   ⟨.mb0, ask 0x0300 [4194240] live, 4194240, by decide, by decide, by decide, by decide, by decide⟩,
   ⟨.mb0, ask 0x0201 [0, 4, 7] { live with xch.imgLoad := some { mb := .mb0, length := 4, received := 0 } }, true,
    { mb := .mb0, length := 4, received := 0 }, 0, 4, [7], by decide, by decide, by decide, by decide, by decide, by decide, by decide,
    by decide, by decide⟩,
   ⟨.mb0, ask 0x0302 [] { live with xch.bankLoad := some { mb := .mb0, length := 4, received := 0 } }, false,
    { mb := .mb0, length := 4, received := 0 }, by decide, by decide, by decide⟩⟩

theorem witness_ExchangeCommandsHaveTheirEffect :
  (∃ (mb : Mb) (s : State), Asked s mb 0x0203 true true [2] ∧ inSession s mb = true ∧ shadowVerified s true = true ∧ exchanging s = false ∧
    s.xch.swap = none ∧ releasing s = false ∧ s.bank.valid = false ∧ voted s = true) ∧
  (∃ (mb : Mb) (s : State), ∃ p, p = parseProgram (slotWhole s true (shadowSlot s true)) (shadowSlot s true) ∧ Asked s mb 0x0203 true true [1]
    ∧ inSession s mb = true ∧ shadowVerified s true = true ∧ exchanging s = false ∧ s.xch.swap = none ∧ releasing s = false ∧ s.bank.valid =
    false ∧ voted s = true ∧ debugging s = false ∧ s.prog.any (fun old => ox01 old p) = false ∧ ox02 s p = false) ∧
  (∃ (mb : Mb) (s : State), Asked s mb 0x0303 true true [] ∧ inSession s mb = true ∧ shadowVerified s false = true ∧ exchanging s = false ∧
    s.xch.swap = none ∧ releasing s = false ∧ s.prog = none ∧ inService s = true) ∧
  (∃ (mb : Mb) (s : State), Asked s mb 0x0204 true true [] ∧ switching s = false ∧ (s.xch.act ≠ none ∨ s.xch.restartPending = true)) ∧
  (∃ (mb : Mb) (s : State), Asked s mb 0x0204 true true [] ∧ switching s = false ∧ s.xch.act = none ∧ s.xch.restartPending = false) ∧
  (∃ (mb : Mb) (s : State), Asked s mb 0x0205 true true [1]) ∧
  (∃ (mb : Mb) (s : State), ∃ k, Asked s mb 0x0205 true true [0] ∧ s.xch.imgSlot = some k) ∧
  (∃ (mb : Mb) (s : State), Asked s mb 0x0205 true true [0] ∧ s.xch.imgSlot = none) ∧
  (∃ (mb : Mb) (s : State), ∃ k bs, ∃ (what : Word) (off : Word) (n : Word), Asked s mb 0x0304 true true [0, what, off, n] ∧ n.toNat ≤ 16384 ∧
    s.xch.bankSlot = some k ∧ cfgBytes s (slotWhole s false k) what.toNat = some bs) :=
  ⟨⟨.mb0, ask 0x0203 [2] (sess { live with bank.valid := false, xch.flash := slotMark 0x02000000 }), by decide, by decide, by decide, by decide,
    by decide, by decide, by decide, by decide⟩,
   ⟨.mb0, ask 0x0203 [1] (sess { live with bank.valid := false, prog := none, xch.flash := slotMark 0x02000000 }), _, rfl, by decide, by decide,
    by decide, by decide, by decide, by decide, by decide, by decide, by decide, by decide, by decide⟩,
   ⟨.mb0, ask 0x0303 [] (sess { live with prog := none, xch.mram := slotMark 0x01000000 }), by decide, by decide, by decide, by decide,
    by decide, by decide, by decide, by decide⟩,
   ⟨.mb0, ask 0x0204 [] { live with xch.restartPending := true }, by decide, by decide, by decide⟩,
   ⟨.mb0, ask 0x0204 [] live, by decide, by decide, by decide, by decide⟩,
   ⟨.mb0, ask 0x0205 [1] live, by decide⟩,
   ⟨.mb0, ask 0x0205 [0] { live with xch.imgSlot := some 1 }, 1, by decide, by decide⟩,
   ⟨.mb0, ask 0x0205 [0] live, by decide, by decide⟩,
   ⟨.mb0, ask 0x0304 [0, 0, 0, 16384] { live with xch.bankSlot := some 1 }, 1, ([] : List Byte), 0, 0, 16384, by decide, by decide, by decide,
    by decide⟩⟩

theorem witness_ForceCommandsHaveTheirEffect :
  (∃ (mb : Mb) (s : State), ∃ p k, ∃ (w : Word) (id : Word) (v0 : Word) (v1 : Word), Asked s mb 0x0400 false false [w, id, v0, v1] ∧ s.prog =
    some p ∧ p.bindsTarget (bits w.toNat 24 8) id = true ∧ p.perms.contains { kind := bits w.toNat 24 8, id := id } = true ∧ safetyClassed s p
    (bits w.toNat 24 8) id = false ∧ s.modu.forceWait = none ∧ forceSlot s (bits w.toNat 24 8) id = some k) ∧
  (∃ (mb : Mb) (s : State) (k : Word), Asked s mb 0x0401 true true [k] ∧ k ≠ 0xFFFFFFFF ∧ s.modu.forceWait = none ∧ s.modu.forces.any (fun f =>
    f.slot = k.toNat) = true) ∧
  (∃ (mb : Mb) (s : State), Asked s mb 0x0401 true true [0xFFFFFFFF] ∧ s.modu.forceWait = none ∧ s.modu.forces ≠ []) ∧
  (∃ (mb : Mb) (s : State), ∃ f, Asked s mb 0x0402 true true [] ∧ forceTable s = [f] ∧ f.slot < 256) ∧
  (∃ (mb : Mb) (s : State), ∃ f, s.modu.forceWait = some mb ∧ s.modu.forces = [f] ∧ f.effective = false ∧ f.leaving = false ∧ forceTable s =
    [f]) :=
  ⟨⟨.mb0, ask 0x0400 [0x01000000, 0, 0, 0]
    { live with prog := some { binds := [{ task := 0, kind := 1, index := 0, id := 0, arg := 0 }], perms := [{ kind := 1, id := 0 }] } },
    ({ binds := [{ task := 0, kind := 1, index := 0, id := 0, arg := 0 }], perms := [{ kind := 1, id := 0 }] } : Program), 0, 0x01000000, 0, 0,
    0, by decide, by decide, by decide, by decide, by decide, by decide, by decide⟩,
   ⟨.mb0, ask 0x0401 [0] { live with modu.forces := [force0] }, 0, by decide, by decide, by decide, by decide⟩,
   ⟨.mb0, ask 0x0401 [0xFFFFFFFF] { live with modu.forces := [force0] }, by decide, by decide, by decide⟩,
   ⟨.mb0, ask 0x0402 [] { live with modu.forces := [{ force0 with slot := 255 }] }, { force0 with slot := 255 }, by decide, by decide,
    by decide⟩,
   ⟨.mb0, { live with modu.forceWait := some .mb0, modu.forces := [force0] }, force0, by decide, by decide, by decide, by decide, by decide⟩⟩

theorem witness_AxisAndTriggerCommandsHaveTheirEffect :
  (∃ (mb : Mb) (s : State) (w : Word) (hi : Word) (lo : Word), Asked s mb 0x0500 true true [w, hi, lo] ∧ bits w.toNat 0 2 ≠ 0) ∧
  (∃ (mb : Mb) (s : State) (w : Word) (hi : Word) (lo : Word), Asked s mb 0x0500 true true [w, hi, lo] ∧ bits w.toNat 0 2 = 0 ∧ (axis s 0).src
    = 0 ∧ stepPermitted s (join64 hi lo).toInt = true) ∧
  (∃ (mb : Mb) (s : State) (w : Word) (hi : Word) (lo : Word), Asked s mb 0x0501 true true [w, hi, lo] ∧ scaleOk (bits w.toNat 0 2) (join64 hi
    lo) = true ∧ (bits w.toNat 0 2 = 0 → (axis s 0).src = 0)) ∧
  (∃ (mb : Mb) (s : State) (w : Word) (hi : Word) (lo : Word), Asked s mb 0x0502 true true [w] ∧ bit w.toNat 16 = false ∧ bits w.toNat 8 4 ≤
    lastSource (bits w.toNat 0 2) ∧ bits w.toNat 20 8 = 0 ∧ bits w.toNat 0 2 < 2) ∧
  (∃ (mb : Mb) (s : State) (w : Word) (vh : Word) (vl : Word) (ph : Word) (pl : Word) (w5 : Word) (w6 : Word) (w7 : Word) (w8 : Word), Asked s
    mb 0x0510 true true [w, vh, vl, ph, pl, w5, w6, w7, w8] ∧ bit w.toNat 6 = false ∧ armOk (bits w.toNat 8 2) (bits w.toNat 12 2) (bits w.toNat
    16 2) (join64 ph pl) = true ∧ actionsOk w5.toNat (join64 w6 w7).toNat = true ∧ heldByProgram s (bits w.toNat 0 6) = false ∧ heldByUnit s
    (bits w.toNat 0 6) = false) ∧
  (∃ (mb : Mb) (s : State) (n : Word), Asked s mb 0x0511 true true [n] ∧ n.toNat < 64 ∧ heldByProgram s n.toNat = false ∧ heldByUnit s n.toNat
    = false ∧ (trigger s n.toNat).armed = true) :=
  ⟨⟨.mb0, ask 0x0500 [1, 0, 5] live, 1, 0, 5, by decide, by decide⟩,
   ⟨.mb0, ask 0x0500 [0, 0, 5] live, 0, 0, 5, by decide, by decide, by decide, by decide⟩,
   ⟨.mb0, ask 0x0501 [0, 1, 0] live, 0, 1, 0, by decide, by decide, by decide⟩,
   ⟨.mb0, ask 0x0502 [0x00000201] live, 0x00000201, 0, 0, by decide, by decide, by decide, by decide, by decide⟩,
   ⟨.mb0, ask 0x0510 [0x00000100, 0, 0, 0, 0, 0, 0, 0, 0] live, 0x00000100, 0, 0, 0, 0, 0, 0, 0, 0, by decide, by decide, by decide, by decide,
    by decide, by decide⟩,
   ⟨.mb0, ask 0x0511 [63] { live with tim.triggers := List.replicate 63 {} ++ [{ armed := true }] }, 63, by decide, by decide, by decide,
    by decide, by decide⟩⟩

theorem witness_NetworkCommandsHaveTheirEffect :
  (∃ (mb : Mb) (s : State) (n : Word), Asked s mb 0x0600 true true [0, n] ∧ n.toNat < 2) ∧
  (∃ (mb : Mb) (s : State) (n : Word), Asked s mb 0x0600 true true [1, n] ∧ n.toNat < 11) ∧
  (∃ (mb : Mb) (s : State) (n : Word), Asked s mb 0x0600 true true [2, n] ∧ n.toNat < 2) ∧
  (∃ (mb : Mb) (s : State) (n : Word), Asked s mb 0x0600 true true [3, n]) ∧
  (∃ (mb : Mb) (s : State) (n : Word), Asked s mb 0x0600 true true [4, n]) ∧
  (∃ (mb : Mb) (s : State) (u : State) (w : Word) (slot : Nat) (planes : Nat) (k : Int), Asked s mb 0x0601 false false [w] ∧ slot = bits
    w.toNat 0 8 ∧ planes = bits w.toNat 8 2 ∧ planes ≠ 0 ∧ s.net.sched.entries.any (fun e => e.slot = slot && e.ty = 3) = true ∧
    s.bank.net.tx.any (fun x => x.slot = slot) = true ∧ domainOn s 5 = true ∧ s.net.node = .sync ∧ s.net.claimCmd = none ∧ k =
    s.net.sched.cluster (s.net.sched.cycleOf (now0 s)) ∧ u =
    { waitMb s mb with net := { s.net with claims := { slot := slot, planes := planes, next :=
                                                         k } :: s.net.claims.filter (fun x => x.slot ≠ slot), claimCmd := some (mb, slot, planes,
                                           k), planeA := { s.net.planeA with decided := s.net.planeA.decided.filter (fun d => d.1 ≠ slot) },
                                           planeB := { s.net.planeB with decided := s.net.planeB.decided.filter (fun d => d.1 ≠ slot) } } }) ∧
  (∃ (mb : Mb) (s : State) (u : State) (w : Word) (slot : Nat) (planes : Nat) (k : Int), Asked s mb 0x0601 false false [w] ∧ slot = bits
    w.toNat 0 8 ∧ planes = bits w.toNat 8 2 ∧ planes ≠ 0 ∧ s.net.sched.entries.any (fun e => e.slot = slot && e.ty = 3) = true ∧
    s.bank.net.tx.any (fun x => x.slot = slot) = true ∧ domainOn s 5 = true ∧ s.net.node = .sync ∧ s.net.claimCmd = none ∧ k =
    s.net.sched.cluster (s.net.sched.cycleOf (now0 s)) ∧ u =
    { waitMb s mb with net := { s.net with claims := { slot := slot, planes := planes, next :=
                                                         k } :: s.net.claims.filter (fun x => x.slot ≠ slot), claimCmd := some (mb, slot, planes,
                                           k), planeA := { s.net.planeA with decided := s.net.planeA.decided.filter (fun d => d.1 ≠ slot) },
                                           planeB := { s.net.planeB with decided := s.net.planeB.decided.filter (fun d => d.1 ≠ slot) } } } ∧
    (claimState u planes slot false = none ∨ claimState u planes slot true = none) ∧ claimState u planes slot false ≠ some 2 ∧ claimState u
    planes slot false ≠ some 3 ∧ claimState u planes slot true ≠ some 2 ∧ claimState u planes slot true ≠ some 3) ∧
  (∃ (mb : Mb) (s : State) (slot : Nat) (planes : Nat) (k : Int), s.net.claimCmd = some (mb, slot, planes, k) ∧ k + 16 ≤ s.net.sched.cluster
    (s.net.sched.cycleOf (now0 s))) ∧
  (∃ (mb : Mb) (s : State) (w : Word), Asked s mb 0x0602 true true [w] ∧ inSession s mb = true ∧ domainOn s 5 = true ∧ (starPlane s).isSome =
    true ∧ (portCfg s (bits w.toNat 0 3)).role = 2) ∧
  (∃ (mb : Mb) (s : State) (g : BitVec 64) (q : BitVec 64) (port : Nat) (steps : Nat), Asked s mb 0x0610 true true [] ∧ (ptpMaster s = none → g
    = 0 ∧ q = 0 ∧ port = 0 ∧ steps = 0) ∧ (∀ m, ptpMaster s = some m → g = m.gmIdentity ∧ q = m.parentIdentity ∧ port = m.parentPort ∧ steps =
    m.stepsRemoved)) :=
  ⟨⟨.mb0, ask 0x0600 [0, 1] live, 1, by decide, by decide⟩,
   ⟨.mb0, ask 0x0600 [1, 10] live, 10, by decide, by decide⟩,
   ⟨.mb0, ask 0x0600 [2, 1] live, 1, by decide, by decide⟩,
   ⟨.mb0, ask 0x0600 [3, 0] live, 0, by decide⟩,
   ⟨.mb0, ask 0x0600 [4, 0] live, 0, by decide⟩,
   ⟨.mb0, ask 0x0601 [0x100]
    { live with net.node := .sync, net.sched.entries := [{ slot0 with ty := 3 }], bank.net.tx := [{ slot := 0, planes := 1, ty := 1, auto :=
                                                                                                      false, ident := 0 }] }, _, 0x100, _, _, _,
    by decide, rfl, rfl, by decide, by decide, by decide, by decide, by decide, by decide, rfl, rfl⟩,
   ⟨.mb0, ask 0x0601 [0x100]
    { live with net.node := .sync, net.sched.entries := [{ slot0 with ty := 3 }], bank.net.tx := [{ slot := 0, planes := 1, ty := 1, auto :=
                                                                                                      false, ident := 0 }] }, _, 0x100, _, _, _,
    by decide, rfl, rfl, by decide, by decide, by decide, by decide, by decide, by decide, rfl, rfl, by decide, by decide, by decide, by decide,
    by decide⟩,
   ⟨.mb0, { live with net.claimCmd := some (.mb0, 0, 1, -16) }, 0, 1, -16, by decide, by decide⟩,
   ⟨.mb0, ask 0x0602 [1] (sess star), 1, by decide, by decide, by decide, by decide, by decide⟩,
   ⟨.mb0, ask 0x0610 [] live, 0, 0, 0, 0, by decide, by decide, (fun _ h => nomatch h)⟩⟩

theorem witness_RecorderAndPowerCommandsHaveTheirEffect :
  (∃ (mb : Mb) (s : State), Asked s mb 0x0700 true true [] ∧ s.recd.buffer = []) ∧
  (∃ (mb : Mb) (s : State), ∃ r, Asked s mb 0x0700 true true [] ∧ s.recd.buffer.getLast? = some r) ∧
  (∃ (mb : Mb) (s : State), Asked s mb 0x0701 true true [] ∧ inSession s mb = true) ∧
  (∃ (mb : Mb) (s : State) (w : Word), Asked s mb 0x0702 true true [w]) ∧
  (∃ (mb : Mb) (s : State) (w : Word), Asked s mb 0x0800 true true [w]) ∧
  (∃ (mb : Mb) (s : State), Asked s mb 0x0801 true true []) ∧
  (∃ (mb : Mb) (s : State) (w0 : Word) (w1 : Word) (w2 : Word) (w3 : Word) (w4 : Word), Asked s mb 0x0802 true true [w0, w1, w2, w3, w4] ∧
    (dutyFields (dutyAsked s [w0, w1, w2, w3, w4]) s.bank.chans).all (·.2) = true) :=
  ⟨⟨.mb0, ask 0x0700 [] live, by decide, by decide⟩,
   ⟨.mb0, ask 0x0700 [] { live with recd.buffer := [rec0] }, rec0, by decide, by decide⟩,
   ⟨.mb0, ask 0x0701 [] (sess live), by decide, by decide⟩,
   ⟨.mb0, ask 0x0702 [0] live, 0, by decide⟩,
   ⟨.mb0, ask 0x0800 [255] live, 255, by decide⟩,
   ⟨.mb0, ask 0x0801 [] live, by decide⟩,
   ⟨.mb0, ask 0x0802 [60000, 0x03E80000, 0, 0, 0] live, 60000, 0x03E80000, 0, 0, 0, by decide, by decide⟩⟩

theorem witness_PairSoundAndFieldCommandsHaveTheirEffect :
  (∃ (mb : Mb) (s : State), Asked s mb 0x0900 true true []) ∧
  (∃ (mb : Mb) (s : State), Asked s mb 0x0901 false false [] ∧ inSession s mb = true ∧ linked s = true ∧ standby s = true ∧ eligible s = true ∧
    s.pair.switch = none) ∧
  (∃ (mb : Mb) (s : State), Asked s mb 0x0902 true true [] ∧ s.pair.paired = true) ∧
  (∃ (mb : Mb) (s : State) (w : Word), ∃ c, Asked s mb 0x0A00 false false [w] ∧ soundOn s = true ∧ flowCfg s (bits w.toNat 0 8) = some c ∧
    flowOwned s (bits w.toNat 0 8) = false ∧ ((flowSt s (bits w.toNat 0 8)).run = true ∨ flowCommitted s + flowBytes c ≤ 1572864)) ∧
  (∃ (mb : Mb) (s : State) (w : Word), Asked s mb 0x0A01 false false [w] ∧ soundOn s = true ∧ (flowCfg s (bits w.toNat 0 8)).isSome = true ∧
    flowOwned s (bits w.toNat 0 8) = false) ∧
  (∃ (mb : Mb) (s : State) (w : Word) (g : Word), Asked s mb 0x0A02 false false [w, g] ∧ soundOn s = true ∧ -24576 ≤ signed 16 g.toNat ∧ signed
    16 g.toNat ≤ 3072 ∧ mixOwned s (bits w.toNat 0 10) = false) ∧
  (∃ (mb : Mb) (s : State) (w : Word) (ch : Nat) (c : ChCfg) (x : ChSt), Asked s mb 0x0B00 true true [w] ∧ fieldOn s = true ∧ ch = bits w.toNat
    0 5 ∧ c = chCfg s ch ∧ x = chSt s ch) ∧
  (∃ (mb : Mb) (s : State) (w : Word) (ch : Nat) (low : Nat) (u : State), Asked s mb 0x0B01 false false [w] ∧ ch = bits w.toNat 0 5 ∧ low =
    lowestOf s ch ∧ fieldOn s = true ∧ isOut s ch = true ∧ chFlag s ch 3 = true ∧ (safetyOut s ch = true → inSession s mb = true) ∧ (chSt s
    low).on = true ∧ (chSt s low).testOk = true ∧ s.field.chTests.any (fun y => chGrp y.2 = chGrp ch) = false ∧ groupTesting s (chGrp ch) = false
    ∧ heldOff s low = false ∧ u = modLanes s (fun _ l => if l.st = .off then l else
    { l with drive := upd l.drive low (fun c => { c with treq := 3 }) })) :=
  ⟨⟨.mb0, ask 0x0900 [] live, by decide⟩,
   ⟨.mb0, ask 0x0901 [] (sess (standbyOf live)), by decide, by decide, by decide, by decide, by decide, by decide⟩,
   ⟨.mb0, ask 0x0902 [] (partnered live), by decide, by decide⟩,
   ⟨.mb0, ask 0x0A00 [0] { live with bank.sound.flows := [flow0] }, 0, flow0, by decide, by decide, by decide, by decide, by decide⟩,
   ⟨.mb0, ask 0x0A01 [0] { live with bank.sound.flows := [flow0] }, 0, by decide, by decide, by decide, by decide⟩,
   ⟨.mb0, ask 0x0A02 [1023, 0xA000] live, 1023, 0xA000, by decide, by decide, by decide, by decide, by decide⟩,
   ⟨.mb0, ask 0x0B00 [0] live, 0, _, _, _, by decide, by decide, rfl, rfl, rfl⟩,
   ⟨.mb0, ask 0x0B01 [0] { output 4 8 with field.chans := [{ on := true, testOk := true }] }, 0, _, _, _, by decide, rfl, rfl, by decide,
    by decide, by decide, by decide, by decide, by decide, by decide, by decide, by decide, rfl⟩⟩

theorem witness_DiagnosticAndBridgeCommandsHaveTheirEffect :
  (∃ (mb : Mb) (s : State), Asked s mb 0x0C00 false false [] ∧ s.vote.injecting = none) ∧
  (∃ (mb : Mb) (s : State) (w : Word) (t : Word) (r : Word), Asked s mb 0x0C01 false false [w, t, r] ∧ inSession s mb = true ∧ (s.modu.mode =
    .voted3 ∨ (s.modu.mode = .voted2 ∧ s.bank.modu.bench = true)) ∧ bits w.toNat 0 2 ≠ 3 ∧ (bit w.toNat 8 = true → (allTasks s).contains (bits
    t.toNat 0 4) = true) ∧ (lane s (laneOf (bits w.toNat 0 2))).st = .active ∧ debugging s = false ∧ s.vote.attach = none) ∧
  (∃ (mb : Mb) (s : State), Asked s mb 0x0C02 false false [] ∧ debugging s = true) ∧
  (∃ (mb : Mb) (s : State) (w : Word), Asked s mb 0x0C03 true true [w] ∧ bit w.toNat 8 = false ∧ bits w.toNat 0 2 ≠ 3) ∧
  (∃ (mb : Mb) (s : State) (w : Word) (v : Word) (first : Word) (n : Word) (l : Lane) (t : Nat) (space : Nat) (out : List QWord), Asked s mb
    0x0C03 true true [w, v, first, n] ∧ bit w.toNat 8 = true ∧ bits w.toNat 0 2 ≠ 3 ∧ l = laneOf (bits w.toNat 0 2) ∧ laneDomainOn s l = true ∧
    (lane s l).st = .debug ∧ (lane s l).freeze = true ∧ (lane s l).frozen = true ∧ t = bits v.toNat 0 4 ∧ space = bits v.toNat 8 2 ∧ space ≠ 3 ∧
    n ≠ 0 ∧ n.toNat ≤ 4096 ∧ (List.range n.toNat).all (fun k => (findPage (lane s l).pages t space ((first.toNat + k) / 256)).isSome) = true ∧
    out = (List.range n.toNat).map (fun k => readWord (lane s l).pages t space (first.toNat + k) (laneTask s l t).cyc.rel.toNat)) ∧
  (∃ (mb : Mb) (s : State) (w : Word) (p : Word) (d : Word) (fs : List Word) (ep : Nat) (i : Nat), Asked s mb 0x0D00 false false (w :: p :: d
    :: fs) ∧ ep = bits w.toNat 0 5 ∧ i = bits w.toNat 8 2 ∧ fs.length = 2 * bits w.toNat 12 4 ∧ bits w.toNat 12 4 ≤ 8 ∧ ifOn s i = true ∧ (2 ≤ i
    → bits w.toNat 12 4 = 0) ∧ (d = 0 ∨ (250 ≤ d.toNat ∧ d.toNat ≤ 100000)) ∧ s.bank.net.tx.any (fun x => x.ty = 4 && x.ident = ep) = true ∧
    endpoint s ep = none ∧ (2 ≤ i → s.br.eps.any (fun e => e.iface = i) = false)) ∧
  (∃ (mb : Mb) (s : State) (w : Word), Asked s mb 0x0D01 true true [w] ∧ (endpoint s (bits w.toNat 0 5)).isSome = true) ∧
  (∃ (mb : Mb) (s : State) (w : Word), ∃ x, Asked s mb 0x0D02 false false [w] ∧ x = nodeSt s (bits w.toNat 0 10) ∧ x.fenced = true ∧ x.clearing
    = none ∧ domainOn s 5 = true) ∧
  (∃ (mb : Mb) (s : State) (n : NodeSt), ∃ tag at_, s.br.nodes = [n] ∧ n.clearing = some (mb, tag, at_) ∧ elapsed s at_
    (s.bank.net.bridge.reqTimeout * 1000000) = true) :=
  ⟨⟨.mb0, ask 0x0C00 [] live, by decide, by decide⟩,
   ⟨.mb0, ask 0x0C01 [2, 0, 0] (sess live), 2, 0, 0, by decide, by decide, by decide, by decide, by decide, by decide, by decide, by decide⟩,
   ⟨.mb0, ask 0x0C02 [] { live with lanes.c := { running with st := .debug } }, by decide, by decide⟩,
   ⟨.mb0, ask 0x0C03 [0] live, 0, by decide, by decide, by decide⟩,
   ⟨.mb0, ask 0x0C03 [0x100, 0x200, 255, 1]
    { live with lanes.a := { running with st := .debug, freeze := true, frozen := true, pages := [⟨0, 2, 0, [], []⟩] } }, 0x100, 0x200, 255, 1,
    _, _, _, _, by decide, by decide, by decide, rfl, by decide, by decide, by decide, by decide, rfl, rfl, by decide, by decide, by decide,
    by decide, rfl⟩,
   ⟨.mb0, ask 0x0D00 [0x11F, 0, 0]
    { live with bank.net.bridge.ifs := [[0], [1]], bank.net.tx := [{ slot := 0, planes := 1, ty := 4, auto := false, ident := 31 }] }, 0x11F, 0,
    0, [], _, _, by decide, rfl, rfl, by decide, by decide, by decide, by decide, by decide, by decide, by decide, by decide⟩,
   ⟨.mb0, ask 0x0D01 [31] { live with br.eps := [{ endpoint0 with ep := 31 }] }, 31, by decide, by decide⟩,
   ⟨.mb0, ask 0x0D02 [1023] { live with br.nodes := [{ node := 1023, fenced := true }] }, 1023, _, by decide, rfl, by decide, by decide,
    by decide⟩,
   ⟨.mb0, later 50000000 { live with br.nodes := [{ node := 1, clearing := some (.mb0, 5, 0) }] }, { node := 1, clearing := some (.mb0, 5, 0) },
    5, 0, by decide, by decide, by decide⟩⟩

theorem witness_MailboxRegistersHaveTheirEffect :
  (∃ (mb : Mb) (src : Source) (w : Word) (drained : Nat) (s : State) (u : State), reaches mb src = true ∧ domainOn s 1 = true ∧
    s.bring.bootFail = false ∧ u = accessed (drainMb s mb drained) src ∧ (mbox s mb).holder = some src ∧ (mbox s mb).st = .receiving ∧ (mbox s
    mb).fill - drained < 1024 ∧ (mbox s mb).req.length + 1 < (mbox s mb).need) ∧
  (∃ (mb : Mb) (src : Source) (w : Word) (drained : Nat) (s : State) (u : State), reaches mb src = true ∧ domainOn s 1 = true ∧
    s.bring.bootFail = false ∧ u = accessed (drainMb s mb drained) src ∧ (mbox s mb).holder = some src ∧ (mbox s mb).st = .receiving ∧ (mbox s
    mb).fill - drained < 1024 ∧ (mbox s mb).need ≤ (mbox s mb).req.length + 1) ∧
  (∃ (mb : Mb) (src : Source) (w : Word) (drained : Nat) (s : State) (u : State), reaches mb src = true ∧ domainOn s 1 = true ∧
    s.bring.bootFail = false ∧ u = accessed (drainMb s mb drained) src ∧ (mbox s mb).holder = some src ∧ (mbox s mb).st = .receiving ∧ 1024 ≤
    (mbox s mb).fill - drained) ∧
  (∃ (mb : Mb) (src : Source) (w : Word) (drained : Nat) (s : State) (u : State), reaches mb src = true ∧ domainOn s 1 = true ∧
    s.bring.bootFail = false ∧ u = accessed (drainMb s mb drained) src ∧ (mbox s mb).holder = some src ∧ (mbox s mb).st ≠ .receiving) ∧
  (∃ (mb : Mb) (src : Source) (w : Word) (drained : Nat) (s : State) (u : State), ∃ other, reaches mb src = true ∧ domainOn s 1 = true ∧
    s.bring.bootFail = false ∧ u = accessed (drainMb s mb drained) src ∧ (mbox s mb).holder = some other ∧ other ≠ src) ∧
  (∃ (mb : Mb) (src : Source) (s : State) (u : State), ∃ v, reaches mb src = true ∧ domainOn s 1 = true ∧ s.bring.bootFail = false ∧ u =
    accessed s src ∧ src = .host ∧ v = modMb u mb (fun m => { m with resp := m.resp.drop 1 })) ∧
  (∃ (mb : Mb) (src : Source) (s : State) (u : State), reaches mb src = true ∧ domainOn s 1 = true ∧ s.bring.bootFail = false ∧ u = accessed s
    src ∧ src ≠ .host) ∧
  (∃ (mb : Mb) (src : Source) (s : State) (u : State), reaches mb src = true ∧ domainOn s 1 = true ∧ s.bring.bootFail = false ∧ u = accessed s
    src ∧ (mbox s mb).holder = some src ∧ (mbox s mb).st = .done) ∧
  (∃ (mb : Mb) (src : Source) (s : State) (u : State), reaches mb src = true ∧ domainOn s 1 = true ∧ s.bring.bootFail = false ∧ u = accessed s
    src ∧ (mbox s mb).holder = some src ∧ (mbox s mb).st ≠ .done) ∧
  (∃ (mb : Mb) (src : Source) (s : State) (u : State), reaches mb src = true ∧ domainOn s 1 = true ∧ s.bring.bootFail = false ∧ u = accessed s
    src ∧ (mbox s mb).holder = some src ∧ (mbox s mb).st = .receiving) ∧
  (∃ (mb : Mb) (src : Source) (s : State) (u : State), reaches mb src = true ∧ domainOn s 1 = true ∧ s.bring.bootFail = false ∧ u = accessed s
    src ∧ (mbox s mb).holder = some src ∧ (mbox s mb).st ≠ .receiving) ∧
  (∃ (mb : Mb) (src : Source) (s : State) (u : State), ∃ other, reaches mb src = true ∧ domainOn s 1 = true ∧ s.bring.bootFail = false ∧ u =
    accessed s src ∧ (mbox s mb).holder = some other ∧ other ≠ src) ∧
  (∃ (mb : Mb) (w : Word) (drained : Nat) (s : State), domainOn s 1 = false) :=
  ⟨⟨.mb0, .host, 0, 0, { live with hp.mb0 := { holder := some .host, st := .receiving, need := 2, fill := 1023 } }, _, by decide, by decide,
    by decide, rfl, by decide, by decide, by decide, by decide⟩,
   ⟨.mb0, .host, 0, 0, { live with hp.mb0 := { holder := some .host, st := .receiving, need := 1 } }, _, by decide, by decide, by decide, rfl,
    by decide, by decide, by decide, by decide⟩,
   ⟨.mb0, .host, 0, 0, { live with hp.mb0 := { holder := some .host, st := .receiving, need := 2, fill := 1024 } }, _, by decide, by decide,
    by decide, rfl, by decide, by decide, by decide⟩,
   ⟨.mb0, .host, 0, 0, { live with hp.mb0 := { holder := some .host, st := .idle } }, _, by decide, by decide, by decide, rfl, by decide,
    by decide⟩,
   ⟨.mb1, .host, 0, 0, { live with hp.mb1 := { holder := some (.node 5), st := .idle } }, _, Source.node 5, by decide, by decide, by decide,
    rfl, by decide, by decide⟩,
   ⟨.mb0, .host, { live with hp.mb0 := { holder := some .host, st := .done, resp := [1] } }, _, _, by decide, by decide, by decide, rfl,
    by decide, rfl⟩,
   ⟨.mb1, .node 5, { live with hp.mb1 := { holder := some (.node 5), st := .done, resp := [1] } }, _, by decide, by decide, by decide, rfl,
    by decide⟩,
   ⟨.mb0, .host, { live with hp.mb0 := { holder := some .host, st := .done } }, _, by decide, by decide, by decide, rfl, by decide, by decide⟩,
   ⟨.mb0, .host, { live with hp.mb0 := { holder := some .host, st := .idle } }, _, by decide, by decide, by decide, rfl, by decide, by decide⟩,
   ⟨.mb0, .host, { live with hp.mb0 := { holder := some .host, st := .receiving } }, _, by decide, by decide, by decide, rfl, by decide,
    by decide⟩,
   ⟨.mb0, .host, { live with hp.mb0 := { holder := some .host, st := .idle } }, _, by decide, by decide, by decide, rfl, by decide, by decide⟩,
   ⟨.mb1, .host, { live with hp.mb1 := { holder := some (.node 5), st := .idle } }, _, Source.node 5, by decide, by decide, by decide, rfl,
    by decide, by decide⟩,
   ⟨.mb0, 0, 0, { live with pwr.on := 0 }, by decide⟩⟩

theorem witness_HostPortHasItsEffect :
  (∃ (addr : BitVec 24) (count : Nat) (tm : HostTiming) (s : State) (u : State), ∃ r, domainOn s 1 = true ∧ addr.toNat < 0x800000 ∧ u =
    opcodePhase s tm ∧ addr.toNat % 4 = 0 ∧ tm.late = none ∧ (peek u .host addr.toNat).isSome = true ∧ r = regReads .host (accessAddrs addr.toNat
    count) u) ∧
  (∃ (addr : BitVec 24) (count : Nat) (tm : HostTiming) (s : State) (u : State), ∃ k r v, domainOn s 1 = true ∧ addr.toNat < 0x800000 ∧ u =
    opcodePhase s tm ∧ addr.toNat % 4 = 0 ∧ tm.late = some k ∧ k < count ∧ (peek u .host addr.toNat).isSome = true ∧ r = regReads .host
    (accessAddrs addr.toNat k) u ∧ v = portError r.2 3 k) ∧
  (∃ (addr : BitVec 24) (count : Nat) (tm : HostTiming) (s : State) (u : State), ∃ r, domainOn s 1 = true ∧ addr.toNat < 0x800000 ∧ u =
    opcodePhase s tm ∧ addr.toNat % 4 = 0 ∧ tm.late = none ∧ peek u .host addr.toNat = none ∧ r = regReads .host (accessAddrs addr.toNat count)
    (hostError u 2 0)) ∧
  (∃ (addr : BitVec 24) (count : Nat) (tm : HostTiming) (s : State) (u : State), ∃ v, domainOn s 1 = true ∧ addr.toNat < 0x800000 ∧ u =
    opcodePhase s tm ∧ addr.toNat % 4 ≠ 0 ∧ tm.late = none ∧ v = hostError u 1 0) ∧
  (∃ (addr : BitVec 24) (count : Nat) (tm : HostTiming) (s : State) (u : State), domainOn s 1 = true ∧ addr.toNat < 0x800000 ∧ u = opcodePhase
    s tm) ∧
  (∃ (addr : BitVec 24) (words : List Word) (tm : HostTiming) (s : State) (u : State), domainOn s 1 = true ∧ addr.toNat < 0x800000 ∧ u =
    opcodePhase s tm ∧ addr.toNat % 4 = 0 ∧ tm.full = none ∧ (peek u .host addr.toNat).isSome = true) ∧
  (∃ (addr : BitVec 24) (words : List Word) (tm : HostTiming) (s : State) (u : State), ∃ k, domainOn s 1 = true ∧ addr.toNat < 0x800000 ∧ u =
    opcodePhase s tm ∧ addr.toNat % 4 = 0 ∧ tm.full = some k ∧ k < words.length ∧ (peek u .host addr.toNat).isSome = true) ∧
  (∃ (addr : BitVec 24) (words : List Word) (tm : HostTiming) (s : State) (u : State), domainOn s 1 = true ∧ addr.toNat < 0x800000 ∧ u =
    opcodePhase s tm ∧ addr.toNat % 4 = 0 ∧ tm.full = none ∧ peek u .host addr.toNat = none) ∧
  (∃ (addr : BitVec 24) (words : List Word) (tm : HostTiming) (s : State) (u : State), domainOn s 1 = true ∧ addr.toNat < 0x800000 ∧ u =
    opcodePhase s tm ∧ addr.toNat % 4 ≠ 0) ∧
  (∃ (addr : BitVec 24) (words : List Word) (tm : HostTiming) (s : State) (u : State), domainOn s 1 = true ∧ addr.toNat < 0x800000 ∧ u =
    opcodePhase s tm) ∧
  (∃ (tm : HostTiming) (s : State) (u : State), domainOn s 1 = true ∧ u = opcodePhase s tm) ∧
  (∃ (op : Byte) (s : State), domainOn s 1 = true ∧ op ≠ 0xA1 ∧ op ≠ 0xA2 ∧ op ≠ 0xA5 ∧ op ≠ 0xA6 ∧ op ≠ 0xAF) ∧
  (∃ (addr : BitVec 24) (count : Nat) (words : List Word) (tm : HostTiming) (op : Byte) (s : State), domainOn s 1 = false) :=
  ⟨⟨0x100, 0, {}, live, _, _, by decide, by decide, rfl, by decide, by decide, by decide, rfl⟩,
   ⟨0x000, 2, { late := some 1 }, live, _, 1, _, _, by decide, by decide, rfl, by decide, by decide, by decide, by decide, rfl, rfl⟩,
   ⟨0x7FFFFC, 1, {}, live, _, _, by decide, by decide, rfl, by decide, by decide, by decide, rfl⟩,
   ⟨0x001, 2, {}, live, _, _, by decide, by decide, rfl, by decide, by decide, rfl⟩,
   ⟨0x108, 0, {}, live, _, by decide, by decide, rfl⟩,
   ⟨0x108, [], {}, live, _, by decide, by decide, rfl, by decide, by decide, by decide⟩,
   ⟨0x108, [0, 1], { full := some 1 }, live, _, 1, by decide, by decide, rfl, by decide, by decide, by decide, by decide⟩,
   ⟨0x7FFFFC, [5], {}, live, _, by decide, by decide, rfl, by decide, by decide, by decide⟩,
   ⟨0x109, [1], {}, live, _, by decide, by decide, rfl, by decide⟩,
   ⟨0x108, [], {}, live, _, by decide, by decide, rfl⟩,
   ⟨{}, live, _, by decide, rfl⟩,
   ⟨0xA0, live, by decide, by decide, by decide, by decide, by decide, by decide⟩,
   ⟨0, 0, [], {}, 0, { live with pwr.on := 1 }, by decide⟩⟩

theorem witness_RegistersHaveTheirEffect :
  (∃ (s : State) (u : State) (v : State), domainOn s 1 = true ∧ s.bring.bootFail = false ∧ u = opcodePhase s {} ∧ v =
    { u with hp := { u.hp with harvestLo := lo32 s.vote.harvest } }) ∧
  (∃ (s : State) (u : State) (v : State) (n : Fin 16), domainOn s 1 = true ∧ s.bring.bootFail = false ∧ u = opcodePhase s {} ∧ v =
    { u with hp := { u.hp with slots := upd s.hp.slots n.val (fun x => { x with lat := x.q }) } }) ∧
  (∃ (s : State) (u : State) (v : State), domainOn s 1 = true ∧ s.bring.bootFail = false ∧ u = opcodePhase s {} ∧ v = (readRecData u .host).2) ∧
  (∃ (s : State) (u : State) (v : State), domainOn s 1 = true ∧ s.bring.bootFail = false ∧ u = opcodePhase s {} ∧ v = (readLogData u .host).2) ∧
  (∃ (s : State) (u : State) (v : State), domainOn s 1 = true ∧ s.bring.bootFail = false ∧ u = opcodePhase s {} ∧ v = (readBrLog u).2) ∧
  (∃ (s : State) (u : State) (v : State), domainOn s 1 = true ∧ s.bring.bootFail = false ∧ u = opcodePhase s {} ∧ v =
    { u with pwr := { s.pwr with count := 0 } }) ∧
  (∃ (s : State) (u : State) (v : State) (addr : BitVec 24) (w : Word), domainOn s 1 = true ∧ s.bring.bootFail = false ∧ u = opcodePhase s {} ∧
    addr.toNat < 0x800000 ∧ isValHi addr.toNat = false ∧ peek u .host addr.toNat = some w ∧ v = readEffect u .host addr.toNat) ∧
  (∃ (s : State), domainOn s 1 = true ∧ s.bring.bootFail = false) ∧
  (∃ (w : Word) (s : State) (u : State), domainOn s 1 = true ∧ s.bring.bootFail = false ∧ u = opcodePhase s {}) ∧
  (∃ (w : Word) (s : State) (u : State) (n : Fin 16), domainOn s 1 = true ∧ s.bring.bootFail = false ∧ u = opcodePhase s {}) :=
  ⟨⟨live, _, _, by decide, by decide, rfl, rfl⟩,
   ⟨live, _, _, 0, by decide, by decide, rfl, rfl⟩,
   ⟨live, _, _, by decide, by decide, rfl, rfl⟩,
   ⟨live, _, _, by decide, by decide, rfl, rfl⟩,
   ⟨live, _, _, by decide, by decide, rfl, rfl⟩,
   ⟨live, _, _, by decide, by decide, rfl, rfl⟩,
   ⟨live, _, _, 0, 0x4B4C3090, by decide, by decide, rfl, by decide, by decide, by decide, rfl⟩,
   ⟨live, by decide, by decide⟩,
   ⟨0, live, _, by decide, by decide, rfl⟩,
   ⟨0, live, _, 0, by decide, by decide, rfl⟩⟩

theorem witness_RemoteWindowCommandsHaveTheirEffect :
  (∃ (addr : BitVec 24) (count : Nat) (page : Nat) (k : Nat) (s : State) (u : State), ∃ v, 0x800000 ≤ addr.toNat ∧ addr.toNat % 4 = 0 ∧
    domainOn s 1 = true ∧ domainOn s 5 = true ∧ inService s = true ∧ (brPage s page).en = true ∧ 0 < count ∧ (page, k) = windowSpan addr.toNat
    count ∧ u = refuse (opcodePhase s {}) (count - k) ∧ findDelayed s page addr.toNat false = none ∧ v = newDelayed u page addr.toNat k false []) ∧
  (∃ (addr : BitVec 24) (count : Nat) (page : Nat) (k : Nat) (s : State) (u : State), ∃ i e, 0x800000 ≤ addr.toNat ∧ addr.toNat % 4 = 0 ∧
    domainOn s 1 = true ∧ domainOn s 5 = true ∧ inService s = true ∧ (brPage s page).en = true ∧ 0 < count ∧ (page, k) = windowSpan addr.toNat
    count ∧ u = refuse (opcodePhase s {}) (count - k) ∧ findDelayed s page addr.toNat false = some (i, e) ∧ e.done = none ∧ e.count = k) ∧
  (∃ (addr : BitVec 24) (count : Nat) (page : Nat) (k : Nat) (s : State) (u : State), ∃ i e off ws t v, 0x800000 ≤ addr.toNat ∧ addr.toNat % 4
    = 0 ∧ domainOn s 1 = true ∧ domainOn s 5 = true ∧ inService s = true ∧ (brPage s page).en = true ∧ 0 < count ∧ (page, k) = windowSpan
    addr.toNat count ∧ u = refuse (opcodePhase s {}) (count - k) ∧ findDelayed s page addr.toNat false = some (i, e) ∧ e.done = some (0, off, ws,
    t) ∧ e.count = k ∧ v = setDelayed u i none) ∧
  (∃ (addr : BitVec 24) (count : Nat) (page : Nat) (k : Nat) (s : State) (u : State), ∃ i e code off ws t v, 0x800000 ≤ addr.toNat ∧ addr.toNat
    % 4 = 0 ∧ domainOn s 1 = true ∧ domainOn s 5 = true ∧ inService s = true ∧ (brPage s page).en = true ∧ 0 < count ∧ (page, k) = windowSpan
    addr.toNat count ∧ u = refuse (opcodePhase s {}) (count - k) ∧ findDelayed s page addr.toNat false = some (i, e) ∧ e.done = some (code, off,
    ws, t) ∧ code ≠ 0 ∧ e.count = k ∧ v = hostError
    { setDelayed u i none with br := { (setDelayed u i none).br with lastCode := BitVec.ofNat 8 code } } 6 0) ∧
  (∃ (addr : BitVec 24) (words : List Word) (data : List Word) (page : Nat) (k : Nat) (s : State) (u : State), 0x800000 ≤ addr.toNat ∧
    addr.toNat % 4 = 0 ∧ domainOn s 1 = true ∧ domainOn s 5 = true ∧ inService s = true ∧ (brPage s page).en = true ∧ words ≠ [] ∧ (page, k) =
    windowSpan addr.toNat words.length ∧ data = words.take k ∧ u = refuse (opcodePhase s {}) (words.length - k) ∧ (brPage s page).train = false ∧
    findDelayed s page addr.toNat true = none) ∧
  (∃ (addr : BitVec 24) (words : List Word) (data : List Word) (page : Nat) (k : Nat) (s : State) (u : State), ∃ i e, 0x800000 ≤ addr.toNat ∧
    addr.toNat % 4 = 0 ∧ domainOn s 1 = true ∧ domainOn s 5 = true ∧ inService s = true ∧ (brPage s page).en = true ∧ words ≠ [] ∧ (page, k) =
    windowSpan addr.toNat words.length ∧ data = words.take k ∧ u = refuse (opcodePhase s {}) (words.length - k) ∧ (brPage s page).train = false ∧
    findDelayed s page addr.toNat true = some (i, e) ∧ e.count = k ∧ e.data = data ∧ e.done = none) ∧
  (∃ (addr : BitVec 24) (words : List Word) (data : List Word) (page : Nat) (k : Nat) (s : State) (u : State), ∃ i e off ws t, 0x800000 ≤
    addr.toNat ∧ addr.toNat % 4 = 0 ∧ domainOn s 1 = true ∧ domainOn s 5 = true ∧ inService s = true ∧ (brPage s page).en = true ∧ words ≠ [] ∧
    (page, k) = windowSpan addr.toNat words.length ∧ data = words.take k ∧ u = refuse (opcodePhase s {}) (words.length - k) ∧ (brPage s
    page).train = false ∧ findDelayed s page addr.toNat true = some (i, e) ∧ e.count = k ∧ e.data = data ∧ e.done = some (0, off, ws, t)) ∧
  (∃ (addr : BitVec 24) (words : List Word) (data : List Word) (page : Nat) (k : Nat) (s : State) (u : State), ∃ x next, 0x800000 ≤ addr.toNat
    ∧ addr.toNat % 4 = 0 ∧ domainOn s 1 = true ∧ domainOn s 5 = true ∧ inService s = true ∧ (brPage s page).en = true ∧ words ≠ [] ∧ (page, k) =
    windowSpan addr.toNat words.length ∧ data = words.take k ∧ u = refuse (opcodePhase s {}) (words.length - k) ∧ (brPage s page).train = true ∧
    x = nodeSt s (brPage s page).node ∧ next = (x.next + 1) % 65536 ∧ x.fenced = false ∧ x.credits ≠ 0 ∧ outUsed s < 1024) ∧
  (∃ (addr : BitVec 24) (words : List Word) (data : List Word) (page : Nat) (k : Nat) (s : State) (u : State), ∃ x next, 0x800000 ≤ addr.toNat
    ∧ addr.toNat % 4 = 0 ∧ domainOn s 1 = true ∧ domainOn s 5 = true ∧ inService s = true ∧ (brPage s page).en = true ∧ words ≠ [] ∧ (page, k) =
    windowSpan addr.toNat words.length ∧ data = words.take k ∧ u = refuse (opcodePhase s {}) (words.length - k) ∧ (brPage s page).train = true ∧
    x = nodeSt s (brPage s page).node ∧ next = (x.next + 1) % 65536 ∧ x.fenced = true) ∧
  (∃ (addr : BitVec 24) (words : List Word) (data : List Word) (page : Nat) (k : Nat) (s : State) (u : State), ∃ x next, 0x800000 ≤ addr.toNat
    ∧ addr.toNat % 4 = 0 ∧ domainOn s 1 = true ∧ domainOn s 5 = true ∧ inService s = true ∧ (brPage s page).en = true ∧ words ≠ [] ∧ (page, k) =
    windowSpan addr.toNat words.length ∧ data = words.take k ∧ u = refuse (opcodePhase s {}) (words.length - k) ∧ (brPage s page).train = true ∧
    x = nodeSt s (brPage s page).node ∧ next = (x.next + 1) % 65536 ∧ x.fenced = false ∧ (x.credits = 0 ∨ 1024 ≤ outUsed s)) :=
  ⟨⟨0x800000, 1, 0, 1, { live with br.pages := [{ en := true }] }, _, _, by decide, by decide, by decide, by decide, by decide, by decide,
    by decide, by decide, rfl, by decide, rfl⟩,
   ⟨0x800000, 1, 0, 1, { live with br.pages := [{ en := true }], br.delayed := [some entry0] }, _, 0, entry0, by decide, by decide, by decide,
    by decide, by decide, by decide, by decide, by decide, rfl, by decide, by decide, by decide⟩,
   ⟨0x800000, 1, 0, 1, { live with br.pages := [{ en := true }], br.delayed := [some { entry0 with done := some (0, false, [7], 0) }] }, _, 0,
    { entry0 with done := some (0, false, [7], 0) }, false, ([7] : List Word), 0, _, by decide, by decide, by decide, by decide, by decide,
    by decide, by decide, by decide, rfl, by decide, by decide, by decide, rfl⟩,
   ⟨0x800000, 1, 0, 1, { live with br.pages := [{ en := true }], br.delayed := [some { entry0 with done := some (3, false, [], 0) }] }, _, 0,
    { entry0 with done := some (3, false, [], 0) }, 3, false, ([] : List Word), 0, _, by decide, by decide, by decide, by decide, by decide,
    by decide, by decide, by decide, rfl, by decide, by decide, by decide, by decide, rfl⟩,
   ⟨0x87FFFC, [1, 2], _, 0, 1, { live with br.pages := [{ en := true }] }, _, by decide, by decide, by decide, by decide, by decide, by decide,
    by decide, by decide, rfl, rfl, by decide, by decide⟩,
   ⟨0x800000, [5], _, 0, 1, { live with br.pages := [{ en := true }], br.delayed := [some { entry0 with write := true, data := [5] }] }, _, 0,
    { entry0 with write := true, data := [5] }, by decide, by decide, by decide, by decide, by decide, by decide, by decide, by decide, rfl, rfl,
    by decide, by decide, by decide, by decide, by decide⟩,
   ⟨0x800000, [5], _, 0, 1,
    { live with br.pages := [{ en := true }], br.delayed := [some { entry0 with write := true, data := [5], done := some (0, true, [], 0) }] },
    _, 0, { entry0 with write := true, data := [5], done := some (0, true, [], 0) }, true, ([] : List Word), 0, by decide, by decide, by decide,
    by decide, by decide, by decide, by decide, by decide, rfl, rfl, by decide, by decide, by decide, by decide, by decide⟩,
   ⟨0x800000, [5], _, 0, 1, { live with br.pages := [{ en := true, train := true }] }, _, _, _, by decide, by decide, by decide, by decide,
    by decide, by decide, by decide, by decide, rfl, rfl, by decide, rfl, rfl, by decide, by decide, by decide⟩,
   ⟨0x800000, [5], _, 0, 1, { live with br.pages := [{ en := true, train := true }], br.nodes := [{ node := 0, fenced := true }] }, _, _, _,
    by decide, by decide, by decide, by decide, by decide, by decide, by decide, by decide, rfl, rfl, by decide, rfl, rfl, by decide⟩,
   ⟨0x800000, [5], _, 0, 1, { live with br.pages := [{ en := true, train := true }], br.nodes := [{ node := 0, credits := 0 }] }, _, _, _,
    by decide, by decide, by decide, by decide, by decide, by decide, by decide, by decide, rfl, rfl, by decide, rfl, rfl, by decide, by decide⟩⟩

theorem witness_AxesHaveTheirEffect :
  (∃ (s : State) (u : State), domainOn s 1 = true ∧ s.bring.bootFail = false ∧ u = opcodePhase s {}) ∧
  (∃ (s : State) (u : State) (n : Fin 4) (v : State), domainOn s 1 = true ∧ s.bring.bootFail = false ∧ u = opcodePhase s {} ∧ n.val <
    s.tim.axes.length ∧ v = modAxis u n.val (fun a => if a.snapped then { a with snapped := false } else
    { a with latVal := a.value, latRaw := a.raw, latOfs := a.offset, latScale := a.scale })) ∧
  (∃ (ch : Fin 16) (t : DWord) (before : List (Nat × DWord)) (rest : List (Nat × DWord)) (s : State) (u : State), s.snd.zcReports = before ++
    (ch.val, t) :: rest ∧ (∀ r ∈ before, r.1 ≠ ch.val) ∧ u = { s with snd := { s.snd with zcReports := before ++ rest } } ∧ ((axis s 2).src ≠ 1 ∨
    (axis s 2).input ≠ ch.val)) ∧
  (∃ (ch : Fin 16) (t : DWord) (tk : DWord) (before : List (Nat × DWord)) (rest : List (Nat × DWord)) (s : State) (u : State), s.snd.zcReports
    = before ++ (ch.val, t) :: rest ∧ (∀ r ∈ before, r.1 ≠ ch.val) ∧ u = { s with snd := { s.snd with zcReports := before ++ rest } } ∧ (axis s
    2).src = 1 ∧ (axis s 2).input = ch.val ∧ (axis s 2).crossedAt = some tk ∧ (axis s 2).lost = false ∧ 2 < s.tim.axes.length ∧ tk.toInt ≤
    t.toInt ∧ (axis s 2).period ≤ 2 * (t.toInt - tk.toInt).toNat) ∧
  (∃ (ch : Fin 16) (t : DWord) (tk : DWord) (before : List (Nat × DWord)) (rest : List (Nat × DWord)) (s : State) (u : State), s.snd.zcReports
    = before ++ (ch.val, t) :: rest ∧ (∀ r ∈ before, r.1 ≠ ch.val) ∧ u = { s with snd := { s.snd with zcReports := before ++ rest } } ∧ (axis s
    2).src = 1 ∧ (axis s 2).input = ch.val ∧ (axis s 2).crossedAt = some tk ∧ (axis s 2).lost = false ∧ 2 < s.tim.axes.length ∧ tk.toInt ≤
    t.toInt ∧ 2 * (t.toInt - tk.toInt).toNat < (axis s 2).period) ∧
  (∃ (s : State), ∃ tk, (axis s 2).crossedAt = some tk ∧ (axis s 2).src ≠ 0 ∧ (axis s 2).lost = false ∧ 5 * ((axis s 2).period : Int) ≤ 2 *
    ((ax0 s).toInt - tk.toInt)) ∧
  (∃ (s : State), (axis s 0).holdover = true ∧ (axis s 0).holdoverOver = false ∧ elapsed s (axis s 0).holdoverSince (s.tim.holdoverLimit *
    1000000000) = true) ∧
  (∃ (s : State) (u : State) (v : State), u = tickStep1 (latchViews s) ∧ v = evaluate ([0, 1, 2, 3].foldl applyWrite u) ([0, 1, 2, 3].map (fun
    n => stepOf (axis u n)))) :=
  ⟨⟨later 50000000 { live with tim.axes := [{}, {}, { src := 1, crossedAt := some 0 }, {}] }, _, by decide, by decide, rfl⟩,
   ⟨{ live with tim.axes := [{}, {}, {}, { snapped := true }] }, _, 0, _, by decide, by decide, rfl, by decide, rfl⟩,
   ⟨15, 0, [], [], { { live with tim.axes := [{}, {}, { src := 1, input := 14 }, {}] } with snd.zcReports := [(15, 0)] }, _, by decide,
    by decide, rfl, by decide⟩,
   ⟨15, 10000000, 0, [(3, 5)], [],
    { { live with tim.axes := [{}, {}, { src := 1, input := 15, crossedAt := some 0 }, {}] } with snd.zcReports := [(3, 5), (15, 10000000)] }, _,
    by decide, by decide, rfl, by decide, by decide, by decide, by decide, by decide, by decide, by decide⟩,
   ⟨0, 9999999, 0, [], [], { { live with tim.axes := [{}, {}, { src := 1, crossedAt := some 0 }, {}] } with snd.zcReports := [(0, 9999999)] },
    _, by decide, by decide, rfl, by decide, by decide, by decide, by decide, by decide, by decide, by decide⟩,
   ⟨later 50000000 { live with tim.axes := [{}, {}, { src := 1, crossedAt := some 0 }, {}] }, 0, by decide, by decide, by decide, by decide⟩,
   ⟨later 60000000000 { live with tim.axes := [{ holdover := true }, {}, {}, {}] }, by decide, by decide, by decide⟩,
   ⟨live, _, _, rfl, rfl⟩⟩

theorem witness_InputEdgeHasItsEffect :
  (∃ (e : ArrivedEdge) (s : State) (i : TimingInput) (r : Nat), i = s.tim.inputs.getD e.ti {} ∧ r = rawNow s - b2n e.half ∧ e.width < filterNs
    i.cfg) ∧
  (∃ (e : ArrivedEdge) (s : State) (i : TimingInput) (r : Nat), i = s.tim.inputs.getD e.ti {} ∧ r = rawNow s - b2n e.half ∧ filterNs i.cfg ≤
    e.width ∧ e.width < 40) ∧
  (∃ (e : ArrivedEdge) (s : State) (i : TimingInput) (r : Nat), i = s.tim.inputs.getD e.ti {} ∧ r = rawNow s - b2n e.half ∧ filterNs i.cfg ≤
    e.width ∧ 40 ≤ e.width ∧ (∀ t, (if e.rising then i.lastRise else i.lastFall) = some t → t + 100 ≤ r)) :=
  ⟨⟨⟨3, true, 39, false, false⟩, { live with tim.inputs := List.replicate 8 { cfg := 4 } }, _, _, rfl, rfl, by decide⟩,
   ⟨⟨3, true, 39, false, true⟩, live, _, _, rfl, rfl, by decide, by decide⟩,
   ⟨⟨3, true, 40, false, false⟩, live, _, _, rfl, rfl, by decide, by decide, (fun _ h => nomatch h)⟩⟩

theorem witness_FiringAndReleaseHaveTheirEffect :
  (∃ (n : Fin 64) (r : FiringReport) (rest : List FiringReport) (s : State), (trigger s n.val).due = r :: rest) ∧
  (∃ (n : Fin 64) (r : FiringReport) (rest : List FiringReport) (s : State), (trigger s n.val).due = r :: rest ∧ r.actions.output = none ∧
    r.actions.task = none ∧ r.actions.recorder = none ∧ r.actions.sound = none ∧ r.actions.hostIrq = true) ∧
  (∃ (t : Fin 16) (r : RelDue) (rest : List RelDue) (s : State) (u : State), (s.tim.gens.getD t.val {}).due = r :: rest ∧ u =
    { s with tim := { s.tim with gens := upd s.tim.gens t.val (fun g => { g with due := rest }) } } ∧ inService s = true ∧ standby s = false) ∧
  (∃ (t : Fin 16) (r : RelDue) (rest : List RelDue) (s : State) (u : State), (s.tim.gens.getD t.val {}).due = r :: rest ∧ u =
    { s with tim := { s.tim with gens := upd s.tim.gens t.val (fun g => { g with due := rest }) } } ∧ inService s = false) :=
  ⟨⟨0, {}, [], { live with tim.triggers := [{ due := [{}] }] }, by decide⟩,
   ⟨0, { actions := { hostIrq := true } }, [], { live with tim.triggers := [{ due := [{ actions := { hostIrq := true } }] }] }, by decide,
    by decide, by decide, by decide, by decide, by decide⟩,
   ⟨0, rel0, [], { live with tim.gens := [{ due := [rel0] }] }, _, by decide, rfl, by decide, by decide⟩,
   ⟨0, rel0, [], { limited with tim.gens := [{ due := [rel0] }] }, _, by decide, rfl, by decide⟩⟩

theorem witness_LaneCommandsHaveTheirEffect :
  (∃ (l : Lane) (s : State), ∃ m u, (lane s l).stamps.find? (fun m => !m.here) = some m ∧ u = modLane s l (fun x =>
    { x with stamps := x.stamps.map (fun y => if y = m then { y with here := true } else y) }) ∧ (lane s l).st = .active) ∧
  (∃ (l : Lane) (s : State), ∃ m u, (lane s l).stamps.find? (fun m => !m.here) = some m ∧ u = modLane s l (fun x =>
    { x with stamps := x.stamps.map (fun y => if y = m then { y with here := true } else y) }) ∧ (lane s l).st ≠ .active) ∧
  (∃ (l : Lane) (s : State), ∃ m u, (lane s l).stamps.find? (fun m => !m.here) = some m ∧ u = modLane s l (fun x =>
    { x with stamps := x.stamps.map (fun y => if y = m then { y with here := true } else y) })) ∧
  (∃ (l : Lane) (s : State) (b : Fin 16) (p : Fin 16) (xb : Xbar) (r : InstRef) (publish : State → State), laneRuns (lane s l) = true ∧ (panOf
    s l b.val p.val).retired = false ∧ (panOf s l b.val p.val).busy = none ∧ publish = (fun u => modLane u l (fun x =>
    { x with blocks := (numbered x.blocks).map (fun k => { k.2 with published := queueStatus s ((lane s l).blocks.getD k.1 {}).queue }) })) ∧
    queueHead s ((lane s l).blocks.getD b.val {}).queue = some r ∧ localGrant s l b.val p.val = true) ∧
  (∃ (l : Lane) (s : State) (b : Fin 16) (p : Fin 16) (xb : Xbar) (r : InstRef) (publish : State → State), ∃ v u, laneRuns (lane s l) = true ∧
    (panOf s l b.val p.val).retired = false ∧ (panOf s l b.val p.val).busy = none ∧ publish = (fun u => modLane u l (fun x =>
    { x with blocks := (numbered x.blocks).map (fun k => { k.2 with published := queueStatus s ((lane s l).blocks.getD k.1 {}).queue }) })) ∧
    queueHead s ((lane s l).blocks.getD b.val {}).queue = none ∧ chooseVictim s l b.val = some v ∧ queueHead s ((lane s l).blocks.getD v
    {}).queue = some r ∧ rakeGrant s l v = some b.val ∧ crossbar s l b.val p.val (some r) xb = (u, true)) ∧
  (∃ (l : Lane) (s : State) (b : Fin 16) (p : Fin 16) (xb : Xbar) (r : InstRef) (i : Inst) (g : Program), laneRuns (lane s l) = true ∧ (panOf s
    l b.val p.val).busy = some r ∧ instOf s r = some i ∧ laneProg s r.new = some g ∧ pageWaits s l i.task i.pagesWritten = true) ∧
  (∃ (l : Lane) (s : State) (b : Fin 16) (p : Fin 16) (xb : Xbar) (r : InstRef) (i : Inst) (g : Program), ∃ v, laneRuns (lane s l) = true ∧
    (panOf s l b.val p.val).busy = some r ∧ instOf s r = some i ∧ laneProg s r.new = some g ∧ pageWaits s l i.task i.pagesWritten = false ∧ (if
    crossesBar g i b.val then crossbar s l b.val p.val (some r) xb else (s, true)) = (v, true)) ∧
  (∃ (l : Lane) (s : State) (b : Fin 16) (p : Fin 16) (xb : Xbar) (r : InstRef), laneRuns (lane s l) = true ∧ (panOf s l b.val p.val).busy =
    some r) ∧
  (∃ (l : Lane) (s : State) (b : Fin 16) (p : Fin 16) (r : InstRef), laneRuns (lane s l) = true ∧ (panOf s l b.val p.val).busy = some r) ∧
  (∃ (l : Lane) (s : State) (k : Nat) (xb : Xbar) (r : InstRef) (u : State), (lane s l).wakes[k]? = some r ∧ crossbar (modLane s l (fun x =>
    { x with wakes := x.wakes.eraseIdx k })) l (((instOf s r).map (·.home)).getD 0) 0 (some r) xb = (u, true) ∧ laneRuns (lane u l) = true) :=
  ⟨⟨.a, { live with lanes.a := { running with stamps := [{ task := 0, rel := 0, stamp := [], image := [] }] } },
    { task := 0, rel := 0, stamp := [], image := [] }, _, by decide, rfl, by decide⟩,
   ⟨.a, { live with lanes.a := { running with st := .debug, stamps := [{ task := 0, rel := 0, stamp := [], image := [] }] } },
    { task := 0, rel := 0, stamp := [], image := [] }, _, by decide, rfl, by decide⟩,
   ⟨.a, { live with lanes.a := { running with stamps := [{ task := 0, rel := 0, stamp := [], image := [] }] } },
    { task := 0, rel := 0, stamp := [], image := [] }, _, by decide, rfl⟩,
   ⟨.a, { live with lanes.a := { running with blocks := [{ queue := [⟨false, 0⟩] }] }, prog := some { insts := [inst0] } }, 0, 0, .good, ⟨false,
    0⟩, _, by decide, by decide, by decide, rfl, by decide, by decide⟩,
   ⟨.a, raking, 2, 15, .good, ⟨false, 0⟩, _, 1, raking, by decide, by decide, by decide, rfl, by decide, by decide, by decide, by decide,
    by decide⟩,
   ⟨.a, { busyPan with vote.ckpts := [ckpt0] }, 0, 0, .good, ⟨false, 0⟩, inst0, { insts := [inst0] }, by decide, by decide, by decide,
    by decide, by decide⟩,
   ⟨.a, busyPan, 0, 0, .good, ⟨false, 0⟩, inst0, { insts := [inst0] }, busyPan, by decide, by decide, by decide, by decide, by decide,
    by decide⟩,
   ⟨.a, busyPan, 0, 0, .good, ⟨false, 0⟩, by decide, by decide⟩,
   ⟨.a, busyPan, 0, 0, ⟨false, 0⟩, by decide, by decide⟩,
   ⟨.a, { live with lanes.a := { running with wakes := [⟨false, 0⟩] } }, 0, .good, ⟨false, 0⟩, live, by decide, by decide, by decide⟩⟩

theorem witness_LaneFaultsHaveTheirEffect :
  (∃ (l : Lane) (mem : LaneMem) (b : Fin 16) (addr : Nat) (s : State), (lane s l).st ≠ .off) ∧
  (∃ (l : Lane) (mem : LaneMem) (b : Fin 16) (addr : Nat) (s : State) (same : LaneMem × Nat × Nat × Nat → Bool) (u : State), (lane s l).st ≠
    .off ∧ same = (fun e => e.1 = mem && e.2.1 = b.val && e.2.2.1 = addr) ∧ u = modLane s l (fun x =>
    { countEcc x mem with eccLast := (mem, b.val, addr, rawNow s) :: x.eccLast.filter (fun e => !same e) })) ∧
  (∃ (l : Lane) (t : Fin 16) (s : State) (u : State) (rel : Word), (lane s l).st = .active ∧ (laneTask s l t.val).watch = some rel ∧ (hubTask s
    t.val).inFlight = true ∧ (hubTask s t.val).overrun = false ∧ (s.tim.gens.getD t.val {}).count = rel ∧ u = modTask (modLaneTask s l t.val (fun
    lt => { lt with expired := some rel, watch := none })) t.val (fun h => { h with expired := addNew h.expired l }) ∧ 2 ≤ activeCount u -
    ((activeLanes u).filter (fun k => (hubTask u t.val).expired.contains k)).length) :=
  ⟨⟨.a, .block, 15, 0, live, by decide⟩,
   ⟨.a, .queue, 15, 0, live, _, _, by decide, rfl, rfl⟩,
   ⟨.a, 0, { live with lanes.a := { running with tasks := [{ watch := some 0 }] }, hubt := [{ inFlight := true }] }, _, 0, by decide, by decide,
    by decide, by decide, by decide, rfl, by decide⟩⟩

theorem witness_FieldLinkCommandsHaveTheirEffect :
  (∃ (s : State), fieldOn s = true) ∧
  (∃ (s : State) (l : Lane), ∃ f fs, (s.field.links.get l).samples = f :: fs ∧ seqAccept (s.field.links.get l).laneSeq f.seq = true) ∧
  (∃ (s : State) (l : Lane), ∃ f fs good, (s.field.links.get l).samples = f :: fs ∧ (good = false ∨ seqAccept (s.field.links.get l).laneSeq
    f.seq = false)) ∧
  (∃ (s : State) (l : Lane), (lane s l).st ≠ .off) ∧
  (∃ (s : State) (l : Lane), ∃ f fs, fieldOn s = true ∧ (s.field.links.get l).frames = f :: fs ∧ seqAccept (s.field.links.get l).fieldSeq f.seq
    = true) ∧
  (∃ (s : State) (l : Lane), ∃ f fs good, fieldOn s = true ∧ (s.field.links.get l).frames = f :: fs ∧ (good = false ∨ seqAccept
    (s.field.links.get l).fieldSeq f.seq = false)) ∧
  (∃ (ch : Fin 32) (tm : DisagreeTimes) (s : State) (u : State) (x : Lane) (y : Lane) (z : Lane), (∀ l, linkForced s l = false) ∧ x ≠ y ∧ x ≠ z
    ∧ y ≠ z ∧ laneCmd s x (lowestOf s ch.val) ≠ laneCmd s y (lowestOf s ch.val) ∧ laneCmd s z (lowestOf s ch.val) = laneCmd s y (lowestOf s
    ch.val) ∧ u = (if 1000 < tm.us ∧ (chSt s ch.val).disagree = false then diagChange (modCh s ch.val (fun c => { c with disagree := true }))
    ch.val else s) ∧ tm.minorityUs < 10000) ∧
  (∃ (ch : Fin 32) (tm : DisagreeTimes) (s : State) (u : State) (x : Lane) (y : Lane) (z : Lane), (∀ l, linkForced s l = false) ∧ x ≠ y ∧ x ≠ z
    ∧ y ≠ z ∧ laneCmd s x (lowestOf s ch.val) ≠ laneCmd s y (lowestOf s ch.val) ∧ laneCmd s z (lowestOf s ch.val) = laneCmd s y (lowestOf s
    ch.val) ∧ u = (if 1000 < tm.us ∧ (chSt s ch.val).disagree = false then diagChange (modCh s ch.val (fun c => { c with disagree := true }))
    ch.val else s) ∧ 10000 ≤ tm.minorityUs ∧ (chSt s ch.val).minority ≠ some x) ∧
  (∃ (ch : Fin 32) (tm : DisagreeTimes) (s : State) (u : State), (∀ l, linkForced s l = false) ∧ (∀ l, laneCmd s l (lowestOf s ch.val) =
    laneCmd s .a (lowestOf s ch.val)) ∧ 1000 ≤ tm.us ∧ (chSt s ch.val).disagree = true) :=
  ⟨⟨live, by decide⟩,
   ⟨{ live with field.links := ⟨{ samples := [sample0] }, {}, {}⟩ }, .a, sample0, [], by decide, by decide⟩,
   ⟨{ live with field.links := ⟨{ samples := [sample0] }, {}, {}⟩ }, .a, sample0, [], false, by decide, by decide⟩,
   ⟨live, .a, by decide⟩,
   ⟨{ live with field.links := ⟨{ frames := [{}] }, {}, {}⟩ }, .a, {}, [], by decide, by decide, by decide⟩,
   ⟨{ live with field.links := ⟨{ frames := [{}] }, {}, {}⟩ }, .a, ({} : DriveFrame), ([] : List DriveFrame), false, by decide, by decide,
    by decide⟩,
   ⟨31, ⟨1001, 9999⟩, { live with field.links := ⟨{ timeout := false, latest := { latch := false, on := 0x80000000 } }, {}, {}⟩ }, _, Lane.a,
    Lane.b, Lane.c, (fun l => by cases l <;> decide), by decide, by decide, by decide, by decide, by decide, rfl, by decide⟩,
   ⟨31, ⟨1000, 10000⟩, { live with field.links := ⟨{ timeout := false, latest := { latch := false, on := 0x80000000 } }, {}, {}⟩ }, _, Lane.a,
    Lane.b, Lane.c, (fun l => by cases l <;> decide), by decide, by decide, by decide, by decide, by decide, rfl, by decide, by decide⟩,
   ⟨31, ⟨1000, 0⟩, { live with field.chans := List.replicate 32 { disagree := true } }, live, (fun l => by cases l <;> decide), (fun l => by
    cases l <;> decide), by decide, by decide⟩⟩

theorem witness_FieldProtectionsHaveTheirEffect :
  (∃ (s : State) (g : Grp), fieldOn s = true) ∧
  (∃ (s : State) (g : Grp), fieldOn s = true ∧ (grpSt s g).supplyFault = true) ∧
  (∃ (s : State) (ch : Fin 32) (limit : Bool), fieldOn s = true ∧ isOut s ch.val = true) ∧
  (∃ (s : State) (ch : Fin 32), fieldOn s = true ∧ ((chSt s ch.val).overload = true ∨ (chSt s ch.val).overtemp = true) ∧ (chSt s ch.val).on =
    false) ∧
  (∃ (s : State) (ch : Fin 32), ∃ cool, fieldOn s = true ∧ ((chSt s ch.val).overload = true ∨ (chSt s ch.val).overtemp = true) ∧ chFlag s
    ch.val 2 = true ∧ (cool = true ∨ (chSt s ch.val).overtemp = false) ∧ (chSt s ch.val).retries < 3) :=
  ⟨⟨live, .fb, by decide⟩,
   ⟨{ live with field.grpB := { supplyFault := true } }, .fb, by decide, by decide⟩,
   ⟨output 4 0, 0, false, by decide, by decide⟩,
   ⟨{ live with field.chans := [{ overload := true }] }, 0, by decide, by decide, by decide⟩,
   ⟨{ output 4 4 with field.chans := [{ overload := true, retries := 2 }] }, 0, false, by decide, by decide, by decide, by decide, by decide⟩⟩

theorem witness_FieldDiagnosticsHaveTheirEffect :
  (∃ (ch : Fin 32) (s : State), fieldOn s = true ∧ isInputMode (chCfg s ch.val).mode = true ∧ (chCfg s ch.val).stuckTime ≠ 0 ∧ (chSt s
    ch.val).val = true ∧ (chSt s ch.val).stuck = false) ∧
  (∃ (ch : Fin 32) (s : State) (seen : OpenSense), fieldOn s = true ∧ isOut s ch.val = true ∧ suspended s ch.val = false ∧ chFlag s ch.val 1 =
    true ∧ (chSt s ch.val).openWire = false ∧ openCondition s ch.val seen.mv seen.ma seen.ms = true) ∧
  (∃ (ch : Fin 32) (s : State) (seen : OpenSense), fieldOn s = true ∧ isOut s ch.val = true ∧ suspended s ch.val = false ∧ chFlag s ch.val 1 =
    true ∧ (chSt s ch.val).openWire = true ∧ openCondition s ch.val seen.mv seen.ma seen.ms = false) ∧
  (∃ (ch : Fin 32) (s : State), fieldOn s = true ∧ isOut s ch.val = true ∧ suspended s ch.val = false ∧ safetyOut s ch.val = true) ∧
  (∃ (ch : Fin 32) (s : State), fieldOn s = true ∧ isOut s ch.val = true ∧ suspended s ch.val = false) ∧
  (∃ (s : State) (l : Lane) (ch : Fin 32), isOut s ch.val = true ∧ chFlag s ch.val 3 = true ∧ (lane s l).st ≠ .off) ∧
  (∃ (s : State) (ch : Fin 32) (u : State), (chSt s ch.val).testing = true ∧ u = diagChange (modCh s ch.val (fun c =>
    { c with testing := false, failed := c.failed + 1, testFail := true })) ch.val ∧ s.field.chTests.find? (fun x => x.2 = ch.val) = none) ∧
  (∃ (s : State) (ch : Fin 32) (u : State), ∃ mb c, (chSt s ch.val).testing = true ∧ u = diagChange (modCh s ch.val (fun c =>
    { c with testing := false, failed := c.failed + 1, testFail := true })) ch.val ∧ s.field.chTests.find? (fun x => x.2 = ch.val) = some (mb,
    c)) ∧
  (∃ (s : State) (ch : Fin 32), fieldOn s = true ∧ isOut s ch.val = true ∧ chFlag s ch.val 3 = true ∧ (chSt s ch.val).testOverdue = false) ∧
  (∃ (s : State) (g : Grp), gswReady s g = true) ∧
  (∃ (s : State) (g : Grp), (grpSt s g).testing = true) :=
  ⟨⟨31, { live with bank.chans := List.replicate 31 {} ++ [{ mode := 1, flags := 0, stuckTime := 1 }], field.chans :=
                       List.replicate 31 {} ++ [{ val := true }] }, by decide, by decide, by decide, by decide, by decide⟩,
   ⟨0, output 4 2, ⟨4001, 0, 0⟩, by decide, by decide, by decide, by decide, by decide, by decide⟩,
   ⟨0, { output 4 2 with field.chans := [{ openWire := true }] }, ⟨4000, 0, 0⟩, by decide, by decide, by decide, by decide, by decide,
    by decide⟩,
   ⟨0, output 5 2, by decide, by decide, by decide, by decide⟩,
   ⟨0, output 4 0, by decide, by decide, by decide⟩,
   ⟨output 4 8, .c, 0, by decide, by decide, by decide⟩,
   ⟨{ live with field.chans := [{ testing := true }] }, 0, _, by decide, rfl, by decide⟩,
   ⟨{ live with field.chans := [{ testing := true }], field.chTests := [(.mb0, 0)] }, 0, _, Mb.mb0, 0, by decide, rfl, by decide⟩,
   ⟨output 4 8, 0, by decide, by decide, by decide, by decide⟩,
   ⟨{ live with bank.grpB := { gswTest := true }, field.grpB := { closed := true } }, .fb, by decide⟩,
   ⟨{ live with field.grpB := { closed := true, testing := true } }, .fb, by decide⟩⟩

theorem witness_SoundCommandsHaveTheirEffect :
  (∃ (s : State) (ch : Fin 16), soundOn s = true) ∧
  (∃ (s : State) (bs : List (Fin 16 × List Bool)) (tdmi : List Word), soundOn s = true) :=
  ⟨⟨live, 0, by decide⟩,
   ⟨live, [], [], by decide⟩⟩

theorem witness_PowerSequencerHasItsEffect :
  (∃ (s : State), ∃ k, s.pwr.shedStep = some k) ∧
  (∃ (s : State) (res : RestoreResult), s.pwr.restoring.getLsbD (restoreBit res) = true ∧ s.pwr.aon = true) ∧
  (∃ (s : State) (d : Fin 5), s.pwr.on &&& [0x02, 0x1C, 0x20, 0x40, 0x80].getD d.val 0 = [0x02, 0x1C, 0x20, 0x40, 0x80].getD d.val 0 ∧ elapsed
    s (s.pwr.onSince.getD d.val 0) (s.pwr.cfg.minOn.getD d.val 0 * 1000000) = true) ∧
  (∃ (s : State), (s.pair.up = false ∨ s.pair.paired = false) ∧ elapsed s s.pair.downAt 1000000000 = true) :=
  ⟨⟨{ live with pwr.shedStep := some 0 }, 0, by decide⟩,
   ⟨{ live with pwr.restoring := 0xFC }, .net, by decide, by decide⟩,
   ⟨later 1000000000 live, 4, by decide, by decide⟩,
   ⟨later 1000000000 live, by decide, by decide⟩⟩

theorem witness_WakeSourcesHaveTheirEffect :
  (∃ (s : State), s.pwr.aon = true ∧ wakeSrc s 0 = true) ∧
  (∃ (s : State), s.pwr.aon = true ∧ wakeSrc s 0 = true) ∧
  (∃ (s : State), s.pwr.aon = true ∧ wakeSrc s 0 = true) ∧
  (∃ (s : State), ∃ a, s.pwr.aon = true ∧ (a ≠ 0x58 + Config.wka.setWidth 7 ∨ wakeSrc s 0 = false)) ∧
  (∃ (s : State) (ch : Fin 8), s.pwr.aon = true ∧ wakeSrc s 1 = true ∧ s.pwr.wakeCh.getLsbD ch.val = true ∧ s.pwr.stuck.getLsbD ch.val = false
    ∧ powerState s ≠ 0) ∧
  (∃ (s : State) (ch : Fin 8), s.pwr.aon = true) ∧
  (∃ (s : State), s.pwr.aon = true ∧ wakeSrc s 2 = true ∧ s.pwr.cfg.tick ≠ 0 ∧ powerState s ≠ 0) ∧
  (∃ (s : State) (p : List Byte), s.pwr.aon = true ∧ domainOn s 5 = true ∧ wakeSrc s 3 = true ∧ p.length = 8 ∧ getWord p 0 = 0x57414B45 ∧
    getNat p 4 2 = s.bank.net.deviceId) ∧
  (∃ (s : State) (p : List Byte), s.pwr.aon = true ∧ domainOn s 5 = true ∧ wakeSrc s 3 = true ∧ (p.length ≠ 8 ∨ getWord p 0 ≠ 0x57414B45 ∨
    getNat p 4 2 ≠ s.bank.net.deviceId)) ∧
  (∃ (s : State), ∃ mv bs pattern, s.pwr.aon = true ∧ s.pwr.on.getLsbD 1 = false ∧ s.pwr.restoring.getLsbD 1 = false ∧ s.pwr.cfg.period ≠ 0 ∧
    pattern = (if bit s.pwr.cfg.flags 0 then s.pwr.learned else s.pwr.cfg.pattern) ∧ wakeSrc s 4 = true ∧ ((watchValues s mv &&& s.pwr.cfg.mask)
    ≠ (pattern &&& s.pwr.cfg.mask) ∨ (bit s.pwr.cfg.flags 1 = true ∧ watchLoud s bs = true))) ∧
  (∃ (s : State), ∃ mv bs pattern, s.pwr.aon = true ∧ s.pwr.on.getLsbD 1 = false ∧ s.pwr.restoring.getLsbD 1 = false ∧ s.pwr.cfg.period ≠ 0 ∧
    pattern = (if bit s.pwr.cfg.flags 0 then s.pwr.learned else s.pwr.cfg.pattern) ∧ (watchValues s mv &&& s.pwr.cfg.mask) = (pattern &&&
    s.pwr.cfg.mask) ∧ (bit s.pwr.cfg.flags 1 = false ∨ watchLoud s bs = false)) ∧
  (∃ (s : State) (cause : Nat) (inputs : Byte), s.pwr.aon = true) :=
  ⟨⟨live, by decide, by decide⟩,
   ⟨live, by decide, by decide⟩,
   ⟨live, by decide, by decide⟩,
   ⟨{ live with pwr.cfg.src := 0 }, 0, by decide, Or.inr (by decide)⟩,
   ⟨{ live with pwr.on := 3, pwr.wakeCh := 0x80 }, 7, by decide, by decide, by decide, by decide, by decide⟩,
   ⟨live, 0, by decide⟩,
   ⟨{ live with pwr.on := 3, pwr.cfg.tick := 1 }, by decide, by decide, by decide, by decide⟩,
   ⟨live, [0x57, 0x41, 0x4B, 0x45, 0, 0, 0, 0], by decide, by decide, by decide, by decide, by decide, by decide⟩,
   ⟨live, [0x57, 0x41, 0x4B, 0x45, 0, 1, 0, 0], by decide, by decide, by decide, by decide⟩,
   ⟨{ live with pwr.on := 1, pwr.cfg.period := 1, pwr.cfg.mask := 1, pwr.cfg.pattern := 1 }, [], [], _, by decide, by decide, by decide,
    by decide, rfl, by decide, by decide⟩,
   ⟨{ live with pwr.on := 1, pwr.cfg.period := 1 }, [], [], _, by decide, by decide, by decide, by decide, rfl, by decide, by decide⟩,
   ⟨live, 0, 0, by decide⟩⟩

theorem witness_PowerFailAndReturnHaveTheirEffect :
  (∃ (s : State), ∃ u, s.pwr.aon = true ∧ s.pwr.failing = false ∧ u =
    { s with pwr := { s.pwr with pfNow := true, pfCount := satInc s.pwr.pfCount } } ∧ s.pwr.on.getLsbD 1 = true) ∧
  (∃ (s : State), ∃ u, s.pwr.aon = true ∧ s.pwr.failing = false ∧ u =
    { s with pwr := { s.pwr with pfNow := true, pfCount := satInc s.pwr.pfCount } } ∧ s.pwr.on.getLsbD 1 = false) ∧
  (∃ (s : State), s.pwr.failing = true) ∧
  (∃ (s : State), ∃ mv, s.pwr.aon = false ∧ 2700 ≤ mv ∧ mv ≤ 6000) ∧
  (∃ (s : State), ∃ mv, 6000 < mv) :=
  ⟨⟨live, _, by decide, by decide, rfl, by decide⟩,
   ⟨{ live with pwr.on := 1 }, _, by decide, by decide, rfl, by decide⟩,
   ⟨{ live with pwr.failing := true }, by decide⟩,
   ⟨{ live with pwr.aon := false }, 2700, by decide, by decide, by decide⟩,
   ⟨live, 6001, by decide⟩⟩

theorem witness_VotingAndCheckpointsHaveTheirEffect :
  (∃ (p : Party) (l : Lane) (t : Fin 16) (s : State), ∃ f rest u, takeFrame s.vote.inFlight p l t.val = some (f, rest) ∧ u =
    { s with vote := { s.vote with inFlight := rest } }) ∧
  (∃ (p : Party) (l : Lane) (t : Fin 16) (s : State), ∃ f rest u, takeFrame s.vote.inFlight p l t.val = some (f, rest) ∧ u =
    { s with vote := { s.vote with inFlight := rest } }) ∧
  (∃ (p : Party) (l : Lane) (t : Fin 16) (s : State), ∃ v n, voteAt s .hub t.val = some v ∧ v.started = some n ∧ v.vector = none ∧ v.stalled =
    false ∧ elapsed s n (skewOf s t.val) = true) ∧
  (∃ (p : Party) (l : Lane) (t : Fin 16) (s : State), ∃ v n u, voteAt s (.unit l) t.val = some v ∧ v.started = some n ∧ v.vector = none ∧
    v.stalled = false ∧ u = modVote s (.unit l) t.val (fun v => { v with vector := some (vectorOf s v) })) ∧
  (∃ (p : Party) (l : Lane) (t : Fin 16) (s : State), ∃ v u, voteAt s p t.val = some v ∧ v.vector = none ∧ v.stalled = false ∧ overdue s p
    t.val = true ∧ u = modVote s p t.val (fun v => { v with stalled := true }) ∧ p ≠ .hub) ∧
  (∃ (p : Party) (l : Lane) (t : Fin 16) (s : State), ∃ v u, voteAt s p t.val = some v ∧ v.vector = none ∧ v.stalled = false ∧ overdue s p
    t.val = true ∧ u = modVote s p t.val (fun v => { v with stalled := true }) ∧ p = .hub) ∧
  (∃ (s : State), ∃ c cs d rest, s.vote.ckpts = c :: cs ∧ c.todo = d :: rest) ∧
  (∃ (s : State), ∃ c cs d rest, s.vote.ckpts = c :: cs ∧ c.todo = d :: rest ∧ c.retried = true) ∧
  (∃ (s : State), ∃ c cs d rest, s.vote.ckpts = c :: cs ∧ c.todo = d :: rest ∧ c.retried = false) ∧
  (∃ (s : State), ∃ p, s.prog = some p ∧ s.vote.retDue = true ∧ (p.pages.filter (fun d => d.retained)) ≠ []) :=
  ⟨⟨.hub, .a, 0, { live with vote.inFlight := [(.hub, laneFrame0)] }, laneFrame0, [], _, by decide, rfl⟩,
   ⟨.hub, .a, 0, { live with vote.inFlight := [(.hub, laneFrame0)] }, laneFrame0, [], _, by decide, rfl⟩,
   ⟨.hub, .a, 15, { live with vote.votes := [{ party := .hub, task := 15, rel := 0, started := some 0 }] }, ({ party := .hub, task := 15, rel :=
                                                                                                                  0, started := some 0 } : Vote),
    0, by decide, by decide, by decide, by decide, by decide⟩,
   ⟨.hub, .c, 15, { live with vote.votes := [{ party := .unit .c, task := 15, rel := 0, act := [.c], started := some 0 }] }, ({ party :=
                                                                                                                                   .unit .c,
                                                                                                                                 task := 15,
                                                                                                                                 rel := 0, act :=
                                                                                                                                   [.c],
                                                                                                                                 started :=
                                                                                                                                   some 0 } :
    Vote), 0, _, by decide, by decide, by decide, by decide, rfl⟩,
   ⟨.unit .c, .c, 15, { live with vote.votes := [{ party := .unit .c, task := 15, rel := 0, act := [.c], started := some 0 }] }, ({ party :=
                                                                                                                                       .unit .c,
                                                                                                                                     task := 15,
                                                                                                                                     rel := 0,
                                                                                                                                     act := [.c],
                                                                                                                                     started :=
                                                                                                                                       some 0 } :
    Vote), _, by decide, by decide, by decide, by decide, rfl, by decide⟩,
   ⟨.hub, .c, 15, later 1000000 { live with vote.votes := [{ party := .hub, task := 15, rel := 0, act := [.c], started := some 0 }] },
    ({ party := .hub, task := 15, rel := 0, act := [.c], started := some 0 } : Vote), _, by decide, by decide, by decide, by decide, rfl,
    by decide⟩,
   ⟨{ live with vote.ckpts := [ckpt0] }, ckpt0, ([] : List Ckpt), ({ space := 0, page := 0, words := [], crcs := [] } : CkptPage), ([] : List
    CkptPage), by decide, by decide⟩,
   ⟨{ live with vote.ckpts := [{ ckpt0 with retried := true }] }, { ckpt0 with retried := true }, ([] : List Ckpt), ({ space := 0, page := 0,
                                                                                                                        words := [], crcs := [] }
    : CkptPage), ([] : List CkptPage), by decide, by decide, by decide⟩,
   ⟨{ live with vote.ckpts := [ckpt0] }, ckpt0, ([] : List Ckpt), ({ space := 0, page := 0, words := [], crcs := [] } : CkptPage), ([] : List
    CkptPage), by decide, by decide, by decide⟩,
   ⟨{ live with prog := some { pages := [page0] }, vote.retDue := true }, ({ pages := [page0] } : Program), by decide, by decide, by decide⟩⟩

theorem witness_RestartAndRejoinHaveTheirEffect :
  (∃ (l : Lane) (bad : List (Fin 16 × Fin 16)) (s : State), ∃ u left, ∃ (fail : Option Nat), s.vote.restarting = true ∧
    s.vote.selftests.contains l = true ∧ left = s.vote.selftests.filter (· ≠ l) ∧ u = modLane
    { s with vote := { s.vote with selftests := left } } l (fun x => { setRetired x bad with injection := some (fail.getD 0) })) ∧
  (∃ (l : Lane) (bad : List (Fin 16 × Fin 16)) (s : State), ∃ u ls w, w = s.bank.modu.window ∧ s.vote.restarting = true ∧ s.vote.awaitRelease =
    false ∧ s.vote.selftests = [] ∧ s.vote.noRestart = false ∧ inService s = true ∧ s.pwr.on &&& laneBits = laneBits ∧ u = (allTasks s).foldl
    (fun s t => modTask s t (fun h =>
    { h with wpos := 1, window := w, switched := if s.xch.switchingSince.isSome && (newTasks s).contains t then h.ckptNew else h.switched })) s ∧
    ls = (lanesIn u .rejoining).filter (fun l => (lane u l).restartPath && (lane u l).stage = .load) ∧ ls ≠ []) ∧
  (∃ (l : Lane) (bad : List (Fin 16 × Fin 16)) (s : State), (lane s l).st = .excluded ∧ (lane s l).holdRunning = true ∧ elapsed s (lane s
    l).holdAt 100000 = true ∧ (lane s l).hot = false ∧ s.vote.restarting = false ∧ s.xch.switchingSince = none ∧ inService s = true) ∧
  (∃ (l : Lane) (bad : List (Fin 16 × Fin 16)) (s : State), rejoinsAt s l .selftest = true) ∧
  (∃ (l : Lane) (bad : List (Fin 16 × Fin 16)) (s : State), rejoinsAt s l .selftest = true) ∧
  (∃ (l : Lane) (bad : List (Fin 16 × Fin 16)) (s : State), rejoinsAt s l .load = true) :=
  ⟨⟨.a, [], { live with vote.restarting := true, vote.selftests := [.a, .b] }, _, _, some 12, by decide, by decide, rfl, rfl⟩,
   ⟨.a, [], { live with vote.restarting := true, lanes.a := { running with st := .rejoining, restartPath := true, stage := .load } }, _, _, _,
    rfl, by decide, by decide, by decide, by decide, by decide, by decide, rfl, rfl, by decide⟩,
   ⟨.a, [], later 100000 { live with lanes.a := { running with st := .excluded, holdRunning := true } }, by decide, by decide, by decide,
    by decide, by decide, by decide, by decide⟩,
   ⟨.a, [], { live with lanes.a := { running with st := .rejoining, stage := .selftest } }, by decide⟩,
   ⟨.a, [], { live with lanes.a := { running with st := .rejoining, stage := .selftest } }, by decide⟩,
   ⟨.a, [], { live with lanes.a := { running with st := .rejoining, stage := .load } }, by decide⟩⟩

theorem witness_InjectionAndAcknowledgeHaveTheirEffect :
  (∃ (s : State), inService s = true ∧ s.vote.injecting = none ∧ elapsed s s.vote.lastInject 86400000000000 = true) ∧
  (∃ (s : State), ∃ who u, u = { s with vote := { s.vote with testFrames := [] } } ∧ s.bring.stage ≠ .l3 ∧ s.vote.injecting = some who) ∧
  (∃ (s : State), ∃ u, u = { s with vote := { s.vote with testFrames := [] } } ∧ s.bring.stage = .l3) ∧
  (∃ (src : AckSource) (s : State), ∃ rcv hi stp n st u, ackEnabled s src = true ∧ ackIsJammed s src = false ∧ ackTimes s rcv = true ∧
    endedPulse s rcv src hi stp = some (n, st) ∧ u = takePulse s rcv src ∧ 100000000 ≤ n ∧ n ≤ 2000000000 ∧ (st = false ∨ src = .pin)) ∧
  (∃ (src : AckSource) (s : State), ∃ rcv hi stp n st u, ackEnabled s src = true ∧ ackIsJammed s src = false ∧ ackTimes s rcv = true ∧
    endedPulse s rcv src hi stp = some (n, st) ∧ u = takePulse s rcv src ∧ n < 100000000) ∧
  (∃ (src : AckSource) (s : State), ∃ rcv hi stp n st u, ackEnabled s src = true ∧ ackIsJammed s src = false ∧ ackTimes s rcv = true ∧
    endedPulse s rcv src hi stp = some (n, st) ∧ u = takePulse s rcv src ∧ 100000000 ≤ n ∧ n ≤ 2000000000 ∧ st = true ∧ src = .channel) ∧
  (∃ (src : AckSource) (s : State), ∃ rcv hi stp n st u, ackEnabled s src = true ∧ ackIsJammed s src = false ∧ ackTimes s rcv = true ∧
    endedPulse s rcv src hi stp = some (n, st) ∧ u = takePulse s rcv src ∧ 2000000000 < n) ∧
  (∃ (src : AckSource) (s : State), ∃ rcv, ackEnabled s src = true ∧ ackIsJammed s src = false ∧ ackTimes s rcv = true ∧ heldHigh s rcv src =
    true) ∧
  (∃ (src : AckSource) (s : State) (l : Lane), ∃ u had, (lane s l).ackReported.contains src = true ∧ (lane s l).st = .active ∧ u = purgeReports
    (modLane s l (fun x => { x with ackReported := x.ackReported.filter (· ≠ src) })) src ∧ had = u.ack.reports.filter (fun r => r.1 = src &&
    r.2.1 != l) ∧ had = []) ∧
  (∃ (src : AckSource) (s : State) (l : Lane), ∃ u had, (lane s l).ackReported.contains src = true ∧ (lane s l).st = .active ∧ u = purgeReports
    (modLane s l (fun x => { x with ackReported := x.ackReported.filter (· ≠ src) })) src ∧ had = u.ack.reports.filter (fun r => r.1 = src &&
    r.2.1 != l) ∧ had ≠ []) ∧
  (∃ (src : AckSource) (s : State), heldLow s src = true) :=
  ⟨⟨later 86400000000000 live, by decide, by decide, by decide⟩,
   ⟨{ live with vote.injecting := some .timer }, .timer, _, rfl, by decide, by decide⟩,
   ⟨{ live with bring.stage := .l3 }, _, rfl, by decide⟩,
   ⟨.pin, live, AckReceiver.lane .a, 100000000, true, 100000000, true, _, by decide, by decide, by decide, by decide, rfl, by decide, by decide,
    by decide⟩,
   ⟨.pin, live, AckReceiver.lane .a, 99999999, false, 99999999, false, _, by decide, by decide, by decide, by decide, rfl, by decide⟩,
   ⟨.channel, { live with bank.modu.ackSources := 2, bank.modu.ackChannel := some 0, lanes.a :=
                             { running with ackTrack := { ended := some (2000000000, true) } } }, AckReceiver.lane .a, 0, false, 2000000000,
    true, _, by decide, by decide, by decide, by decide, rfl, by decide, by decide, by decide, by decide⟩,
   ⟨.pin, live, AckReceiver.lane .a, 2000000001, false, 2000000001, false, _, by decide, by decide, by decide, by decide, rfl, by decide⟩,
   ⟨.pin, live, .lane .a, by decide, by decide, by decide, by decide⟩,
   ⟨.pin, { live with lanes.a := { running with ackReported := [.pin] } }, .a, _, _, by decide, by decide, rfl, rfl, by decide⟩,
   ⟨.pin, { live with lanes.a := { running with ackReported := [.pin] }, ack.reports := [(.pin, .b, 0, false)] }, .a, _, _, by decide,
    by decide, rfl, rfl, by decide⟩,
   ⟨.pin, later 1000000000 { live with ack.pinLow := some 0 }, by decide⟩⟩

theorem witness_ThermalAndSupervisorCommandsHaveTheirEffect :
  (∃ (s : State) (l : Lane), (lane s l).st = .active) ∧
  (∃ (s : State), s.modu.mode ≠ .bringup) :=
  ⟨⟨live, .a, by decide⟩,
   ⟨live, by decide⟩⟩

theorem witness_BringUpHasItsEffect :
  (∃ (s : State), s.modu.mode = .bringup ∧ s.bring.stage = .b1 ∧ domainOn s 1 = true ∧ s.bring.bootFail = false) ∧
  (∃ (s : State), ∃ k, s.modu.mode = .bringup ∧ s.bring.stage = .b1 ∧ domainOn s 1 = true ∧ s.bring.bootFail = false ∧ s.xch.fwRetired = some
    k) ∧
  (∃ (s : State), s.modu.mode = .bringup ∧ s.bring.stage = .b2 ∧ domainOn s 1 = true) ∧
  (∃ (s : State), s.modu.mode = .limited ∧ s.bring.verified = false) ∧
  (∃ (s : State), awaitsRelease s = true ∧ lanesReady s = true ∧ (s.bank.modu.autoStart = true ∨ s.bring.started = true)) ∧
  (∃ (s : State), ∃ p, s.prog = some p ∧ s.bring.stage = .l2) ∧
  (∃ (s : State), ∃ p, s.prog = some p ∧ s.bring.stage = .l4) ∧
  (∃ (s : State), ∃ p, s.prog = some p ∧ s.bring.stage = .l5) ∧
  (∃ (s : State), ∃ n, s.modu.mode = .limited ∧ s.bring.waiting = false ∧ stageLimit s.bring.stage = some n ∧ elapsed s s.bring.stageAt n =
    true) ∧
  (∃ (p : Program) (s : State), (lanesIn s .rejoining).length < 2) :=
  ⟨⟨State.reset, by decide, by decide, by decide, by decide⟩,
   ⟨{ State.reset with xch.fwRetired := some 0 }, 0, by decide, by decide, by decide, by decide, by decide⟩,
   ⟨{ State.reset with bring.stage := .b2 }, by decide, by decide, by decide⟩,
   ⟨{ limited with bring.verified := false }, by decide, by decide⟩,
   ⟨limited, by decide, by decide, by decide⟩,
   ⟨{ limited with prog := some {}, bring.stage := .l2 }, ({} : Program), by decide, by decide⟩,
   ⟨{ limited with prog := some {}, bring.stage := .l4 }, ({} : Program), by decide, by decide⟩,
   ⟨{ limited with prog := some {}, bring.stage := .l5 }, ({} : Program), by decide, by decide⟩,
   ⟨later 280000000 { limited with bring.waiting := false }, 280000000, by decide, by decide, by decide, by decide⟩,
   ⟨{}, live, by decide⟩⟩

theorem witness_DigestsAndSwitchesHaveTheirEffect :
  (∃ (l : Lane) (s : State), (lane s l).st = .active ∧ s.xch.swap.isSome = true) ∧
  (∃ (l : Lane) (s : State), (lane s l).st = .active ∧ s.xch.swap.isSome = true ∧ s.modu.mode = .voted3 ∧ (lane s l).resent = false) ∧
  (∃ (l : Lane) (s : State), (lane s l).st = .active ∧ s.xch.swap.isSome = true ∧ s.modu.mode = .voted3 ∧ (lane s l).resent = true) ∧
  (∃ (l : Lane) (s : State), (lane s l).st = .active ∧ s.xch.swap.isSome = true ∧ s.modu.mode ≠ .voted3) ∧
  (∃ (l : Lane) (s : State), (lane s l).st = .active ∧ staging s = true) ∧
  (∃ (t : Fin 16) (s : State) (since : DWord), s.xch.switchingSince = some since ∧ 1000000000 ≤ (ax0 s - since).toInt ∧ (newTasks s).contains
    t.val = true ∧ (hubTask s t.val).switched = false ∧ (hubTask s t.val).inFlight = false ∧ (s.tim.gens.getD t.val {}).due = []) :=
  ⟨⟨.a, { live with xch.swap := some .mb0 }, by decide, by decide⟩,
   ⟨.a, { live with xch.swap := some .mb0 }, by decide, by decide, by decide, by decide⟩,
   ⟨.a, { live with xch.swap := some .mb0, lanes.a := { running with resent := true } }, by decide, by decide, by decide, by decide⟩,
   ⟨.a, { live with xch.swap := some .mb0, modu.mode := .voted2 }, by decide, by decide, by decide⟩,
   ⟨.a, { live with xch.act := some { mb := .mb0, online := true } }, by decide, by decide⟩,
   ⟨0, later 1000000000 { live with xch.switchingSince := some 0, progNew := some { tasks := [task0] } }, 0, by decide, by decide, by decide,
    by decide, by decide, by decide⟩⟩

theorem witness_JaranLinkChangesHaveTheirEffect :
  (∃ (s : State), s.pair.up = false) ∧
  (∃ (s : State), s.pair.up = true ∧ (s.pair.paired = false ∨ pairEnabled s = false)) ∧
  (∃ (s : State), s.pair.up = true ∧ s.pair.paired = true ∧ pairEnabled s = true) ∧
  (∃ (s : State), ∃ u, u = { s with pair := { s.pair with discarded := s.pair.discarded + 1 } }) ∧
  (∃ (s : State), s.modu.mode ≠ .bringup) ∧
  (∃ (h : JaranHead) (s : State) (n : Word), s.pair.seqIn = some n ∧ h.seq = n + 1) ∧
  (∃ (h : JaranHead) (s : State) (n : Word), s.pair.seqIn = some n ∧ h.seq ≠ n + 1 ∧ standby s = false) ∧
  (∃ (h : JaranHead) (s : State) (n : Word), ∃ u, s.pair.seqIn = some n ∧ h.seq ≠ n + 1 ∧ standby s = true ∧ linked s = true ∧ u =
    { s with pair := { s.pair with seqIn := some h.seq, gaps := s.pair.gaps + 1 } }) :=
  ⟨⟨live, by decide⟩,
   ⟨{ live with pair.up := true }, by decide, by decide⟩,
   ⟨partnered live, by decide, by decide, by decide⟩,
   ⟨live, _, rfl⟩,
   ⟨live, by decide⟩,
   ⟨jaran0, { live with pair.seqIn := some 0xFFFFFFFF }, 0xFFFFFFFF, by decide, by decide⟩,
   ⟨jaran0, { live with pair.seqIn := some 7 }, 7, by decide, by decide, by decide⟩,
   ⟨jaran0, { standbyOf live with pair.seqIn := some 7 }, 7, _, by decide, by decide, by decide, by decide, rfl⟩⟩

theorem witness_JaranFramesHaveTheirEffect :
  (∃ (h : JaranHead) (s : State) (b : List Byte), hearsPartner s = true) ∧
  (∃ (h : JaranHead) (s : State) (m : ImageMsg), hearsPartner s = true ∧ standby (acceptJaran s h) = true ∧ linked (acceptJaran s h) = true) ∧
  (∃ (h : JaranHead) (s : State) (m : OutputMsg), hearsPartner s = true ∧ standby (acceptJaran s h) = true ∧ linked (acceptJaran s h) = true) ∧
  (∃ (h : JaranHead) (s : State) (b : List Byte), hearsPartner s = true ∧ standby (acceptJaran s h) = true ∧ linked (acceptJaran s h) = true) ∧
  (∃ (h : JaranHead) (s : State), hearsPartner s = true ∧ standby (acceptJaran s h) = false ∧ linked (acceptJaran s h) = true) ∧
  (∃ (h : JaranHead) (s : State), hearsPartner s = true) ∧
  (∃ (h : JaranHead) (s : State), ∃ rel w, hearsPartner s = true ∧ (acceptJaran s h).pair.switch = some w ∧ w.rel = BitVec.ofNat 32 rel) :=
  ⟨⟨jaran0, standbyOf live, [], by decide⟩,
   ⟨jaran0, { standbyOf live with pair.seqIn := some 0xFFFFFFFF }, { task := 0, stamp := [], image := [] }, by decide, by decide, by decide⟩,
   ⟨jaran0, { standbyOf live with pair.seqIn := some 0xFFFFFFFF },
    { task := 0, rel := 0, words := [], lines := [], groupSeqs := [], comSeqs := [] }, by decide, by decide, by decide⟩,
   ⟨jaran0, { standbyOf live with pair.seqIn := some 0xFFFFFFFF }, [], by decide, by decide, by decide⟩,
   ⟨jaran0, partnered live, by decide, by decide, by decide⟩,
   ⟨jaran0, standbyOf live, by decide⟩,
   ⟨jaran0, { partnered live with pair.switch := some { rel := 5, reason := 0, acked := false, incoming := false, at_ := 0 } }, 5, ({ rel := 5,
                                                                                                                                       reason :=
                                                                                                                                         0,
                                                                                                                                       acked :=
                                                                                                                                         false,
                                                                                                                                       incoming :=
                                                                                                                                         false,
                                                                                                                                       at_ := 0 }
    : PairSwitch), by decide, by decide, by decide⟩⟩

theorem witness_PairTimesHaveTheirEffect :
  (∃ (s : State), ∃ h t rest u, s.modu.step6 = (h, t) :: rest ∧ u = { s with modu := { s.modu with step6 := rest } } ∧ (standby s = true ∨
    linked s = false)) ∧
  (∃ (s : State), ∃ h t rest u n, s.modu.step6 = (h, t) :: rest ∧ u = { s with modu := { s.modu with step6 := rest } } ∧ standby s = false ∧
    linked s = true ∧ n = (match taskDef s t with | some d => pairBudget d | none => 0)) ∧
  (∃ (s : State) (t : Fin 16), standby s = true ∧ linked s = true ∧ s.pair.ours.any (fun x => x.1 = t.val) = true ∧ budgetOver s t.val = true) ∧
  (∃ (s : State), pairEnabled s = true ∧ s.pair.roleTaken = false ∧ s.pair.strapConflict = false ∧ s.modu.mode ≠ .bringup ∧ elapsed s
    s.pair.limitedAt 50000000 = true ∧ (s.bank.pair.flovisCheck = true → elapsed s s.pair.limitedAt (listenTime s) = true ∧ ∀ t, s.net.pairData =
    some t → elapsed s t (listenTime s) = true)) ∧
  (∃ (s : State), eligible s = true ∧ 3 ≤ s.pair.missed ∧ (s.bank.pair.flovisCheck = false ∨ pairDataSince s s.pair.missedFrom = false)) ∧
  (∃ (s : State), eligible s = true ∧ 3 ≤ s.pair.missed ∧ s.bank.pair.flovisCheck = true ∧ pairDataSince s s.pair.missedFrom = true) ∧
  (∃ (s : State), ∃ w, s.pair.switch = some w ∧ w.acked = false ∧ elapsed s w.at_ (((taskDef s 0).map (fun d => d.period.toNat)).getD 0) =
    true) ∧
  (∃ (s : State), ∃ w, s.pair.switch = some w ∧ w.acked = false ∧ elapsed s w.at_ (((taskDef s 0).map (fun d => d.period.toNat)).getD 0) = true
    ∧ s.pair.controlling ≠ w.incoming) :=
  ⟨⟨{ live with modu.step6 := [(0, 0)] }, 0, 0, [], _, by decide, rfl, by decide⟩,
   ⟨{ partnered live with modu.step6 := [(0, 0)] }, 0, 0, [], _, _, by decide, rfl, by decide, by decide, rfl⟩,
   ⟨later 1000000000
    { standbyOf live with pair.ours := [(15, 0, [], [])], pair.oursAt := [(15, 0)], prog := some { tasks := [{ task0 with task := 15 }] } }, 15,
    by decide, by decide, by decide, by decide⟩,
   ⟨later 50000000 { live with bank.pair := { enable := true, flovisCheck := false } }, by decide, by decide, by decide, by decide, by decide,
    by decide⟩,
   ⟨{ standbyOf live with pair.missed := 3, bank.pair := { enable := true, flovisCheck := false } }, by decide, by decide, by decide⟩,
   ⟨{ standbyOf live with pair.missed := 3, bank.pair := { enable := true, flovisCheck := true }, net.pairData := some 0 }, by decide,
    by decide, by decide, by decide⟩,
   ⟨{ partnered live with pair.switch := some { rel := 5, reason := 0, acked := false, incoming := false, at_ := 0 } }, ({ rel := 5, reason :=
                                                                                                                              0, acked := false,
                                                                                                                            incoming := false,
                                                                                                                            at_ := 0 } :
    PairSwitch), by decide, by decide, by decide⟩,
   ⟨{ partnered live with pair.switch := some { rel := 5, reason := 0, acked := false, incoming := false, at_ := 0 } }, ({ rel := 5, reason :=
                                                                                                                              0, acked := false,
                                                                                                                            incoming := false,
                                                                                                                            at_ := 0 } :
    PairSwitch), by decide, by decide, by decide, by decide⟩⟩

theorem witness_StarCommandsHaveTheirEffect :
  (∃ (port : Fin 9) (bytes : List Byte) (pb : Bool) (s : State) (u : State), starPlane s = some pb ∧ u = settle s ∧ domainOn u 5 = true ∧ 18 ≤
    bytes.length ∧ port.val ≠ 8 ∧ (portCfg u port.val).planeB = pb ∧ (portCfg u port.val).role = 3 ∧ integrated u = true ∧ (fType bytes =
    u.bank.net.ethertype ∧ fKind bytes = 6 ∧ getByte (fPayload bytes) 0 ≠ 3)) ∧
  (∃ (port : Fin 9) (bytes : List Byte) (pb : Bool) (s : State) (u : State), starPlane s = some pb ∧ u = settle s ∧ domainOn u 5 = true ∧ 18 ≤
    bytes.length ∧ port.val ≠ 8 ∧ (portCfg u port.val).planeB = pb ∧ (portCfg u port.val).role = 3 ∧ integrated u = true ∧ ¬(fType bytes =
    u.bank.net.ethertype ∧ fKind bytes = 6 ∧ getByte (fPayload bytes) 0 ≠ 3)) ∧
  (∃ (port : Fin 9) (bytes : List Byte) (pb : Bool) (s : State) (u : State), starPlane s = some pb ∧ u = settle s ∧ domainOn u 5 = true ∧ 18 ≤
    bytes.length ∧ port.val ≠ 8 ∧ (portCfg u port.val).planeB = pb ∧ (portCfg u port.val).role = 3 ∧ integrated u = false) ∧
  (∃ (port : Fin 9) (bytes : List Byte) (pb : Bool) (s : State) (u : State), starPlane s = some pb ∧ u = settle s ∧ domainOn u 5 = true ∧ 18 ≤
    bytes.length ∧ (port.val = 8 ∨ ((portCfg u port.val).planeB = pb ∧ (portCfg u port.val).role = 2)) ∧ (sluice u port.val).quar = none ∧
    integrated u = true) ∧
  (∃ (port : Fin 9) (bytes : List Byte) (pb : Bool) (s : State) (u : State), starPlane s = some pb ∧ u = settle s ∧ domainOn u 5 = true ∧ 18 ≤
    bytes.length ∧ (port.val = 8 ∨ ((portCfg u port.val).planeB = pb ∧ (portCfg u port.val).role = 2)) ∧ (sluice u port.val).quar = none ∧
    integrated u = false) ∧
  (∃ (port : Fin 9) (bytes : List Byte) (pb : Bool) (s : State) (u : State), starPlane s = some pb ∧ u = settle s ∧ domainOn u 5 = true ∧ 18 ≤
    bytes.length ∧ (port.val = 8 ∨ ((portCfg u port.val).planeB = pb ∧ (portCfg u port.val).role = 2)) ∧ (sluice u port.val).quar ≠ none) ∧
  (∃ (port : Fin 9) (bytes : List Byte) (pb : Bool) (s : State) (u : State) (slotEnd : Bool) (due : Desc → Option Nat) (d : Desc) (v : State)
    (w : State), starPlane s = some pb ∧ u = settle s ∧ due = (fun d => (if slotEnd then d.cutAtEnd u else d.cutAtLimit u).filter (fun t =>
    decide (t ≤ rawNow u))) ∧ u.net.descs.find? (fun d => d.port = port.val && !d.cut && (due d).isSome) = some d ∧ v = endCopies u d ((due
    d).getD 0) ∧ w = (if d.queued then freeDesc v d.id else modDesc v d.id (fun d => { d with cut := true }))) ∧
  (∃ (port : Fin 9) (bytes : List Byte) (pb : Bool) (s : State) (u : State), ∃ k, starPlane s = some pb ∧ u = settle s ∧ (sluice s
    port.val).quar = some k ∧ k ≤ s.net.sched.cluster (s.net.sched.cycleOf (now0 s))) ∧
  (∃ (id : Nat) (d : Desc) (s : State) (u : State), u = settle s ∧ u.net.descs.find? (fun d => d.id = id) = some d ∧ d.queued = true ∧ elapsed
    u d.since (u.bank.net.openAge * 1000000) = true) ∧
  (∃ (id : Nat) (d : Desc) (s : State) (u : State), u = settle s ∧ u.net.descs.find? (fun d => d.id = id) = some d) ∧
  (∃ (id : Nat) (d : Desc) (s : State) (u : State), u = settle s ∧ u.net.descs.find? (fun d => d.id = id) = some d ∧ d.cut = true) ∧
  (∃ (id : Nat) (d : Desc) (s : State) (u : State), u = settle s ∧ u.net.descs.find? (fun d => d.id = id) = some d ∧ d.cut = false ∧ d.cutAtEnd
    u = none ∧ d.cutAtLimit u = none ∧ d.queued = false ∧ d.egress.all (fun m => decide (d.since + latency u d.port m d.bytes.length + (8 +
    d.bytes.length) * portByteNs u m ≤ rawNow u)) = true) ∧
  (∃ (id : Nat) (d : Desc) (s : State) (u : State) (wire : Nat) (wait : Nat) (left : Int), u = settle s ∧ u.net.descs.find? (fun d => d.id =
    id) = some d ∧ d.cut = false ∧ d.cutAtEnd u = none ∧ d.cutAtLimit u = none ∧ d.queued = true ∧ wire = d.wire u ∧ openFrom u ((starPlane
    u).getD false) (-(wire : Int)) = some left ∧ (wire : Int) ≤ left ∧ d.received u + wire ≤ rawNow u ∧ wait = rawNow u - wire - d.since) :=
  ⟨⟨0, frameOf 6 (1 :: List.replicate 19 0), false, star, _, by decide +kernel, rfl, by decide +kernel, by decide +kernel, by decide +kernel,
    by decide +kernel, by decide +kernel, by decide +kernel, by decide +kernel⟩,
   ⟨0, List.replicate 18 0, false, star, _, by decide +kernel, rfl, by decide +kernel, by decide +kernel, by decide +kernel, by decide +kernel,
    by decide +kernel, by decide +kernel, by decide +kernel⟩,
   ⟨0, List.replicate 18 0, false, { star with net.node := .listen }, _, by decide +kernel, rfl, by decide +kernel, by decide +kernel,
    by decide +kernel, by decide +kernel, by decide +kernel, by decide +kernel⟩,
   ⟨1, List.replicate 18 0, false, star, _, by decide +kernel, rfl, by decide +kernel, by decide +kernel, by decide +kernel, by decide +kernel,
    by decide +kernel⟩,
   ⟨1, List.replicate 18 0, false, { star with net.node := .listen }, _, by decide +kernel, rfl, by decide +kernel, by decide +kernel,
    by decide +kernel, by decide +kernel, by decide +kernel⟩,
   ⟨1, List.replicate 18 0, false, { star with net.sluices := [{}, { quar := some 0 }] }, _, by decide +kernel, rfl, by decide +kernel,
    by decide +kernel, by decide +kernel, by decide +kernel⟩,
   ⟨0, [], false, later 63 { star with net.descs := [{ desc0 with ends := some 63 }] }, _, true, _, { desc0 with ends := some 63 }, _, _,
    by decide +kernel, rfl, rfl, by decide +kernel, rfl, rfl⟩,
   ⟨0, List.replicate 18 0, false, { star with net.sluices := [{ quar := some 0 }] }, _, 0, by decide +kernel, rfl, by decide +kernel,
    by decide +kernel⟩,
   ⟨0, { desc0 with queued := true }, later 10000000 { star with net.descs := [{ desc0 with queued := true }] }, _, rfl, by decide +kernel,
    by decide +kernel, by decide +kernel⟩,
   ⟨0, desc0, { star with net.descs := [desc0] }, _, rfl, by decide +kernel⟩,
   ⟨0, { desc0 with cut := true }, { star with net.descs := [{ desc0 with cut := true }] }, _, rfl, by decide +kernel, by decide +kernel⟩,
   ⟨0, desc0, later 10000 { star with net.descs := [desc0] }, _, rfl, by decide +kernel, by decide +kernel, by decide +kernel,
    by decide +kernel, by decide +kernel, by decide +kernel⟩,
   ⟨0, { desc0 with queued := true }, later 1000 { star with net.sched.entries := [open0], net.descs := [{ desc0 with queued := true }] }, _, _,
    _, 199160, rfl, by decide +kernel, by decide +kernel, by decide +kernel, by decide +kernel, by decide +kernel, rfl, by decide +kernel,
    by decide +kernel, by decide +kernel, rfl⟩⟩

theorem witness_NodeFramesHaveTheirEffect :
  (∃ (p : Plane) (bytes : List Byte) (s : State), domainOn s 5 = true ∧ s.bank.valid = true ∧ nodePort s (planeB p) ≠ none ∧ dataGood s (planeB
    p) bytes = false) ∧
  (∃ (p : Plane) (bytes : List Byte) (s : State), ∃ b off second u, domainOn s 5 = true ∧ s.bank.valid = true ∧ nodePort s (planeB p) ≠ none ∧
    dataGood s (planeB p) bytes = true ∧ cycleAt s 0 = some (b, off) ∧ second = s.net.taken.any (fun t => t = (b, fSlot bytes, fNode bytes)) ∧ u
    = { s with net := { s.net with taken := if second then s.net.taken else (b, fSlot bytes,
                                   fNode bytes) :: s.net.taken.filter (fun t => t.1 = b), pairData :=
                                     if fNode bytes = s.bank.net.deviceId then some (rawNow s) else s.net.pairData } }) ∧
  (∃ (p : Plane) (bytes : List Byte) (s : State), domainOn s 5 = true ∧ s.bank.valid = true ∧ fcsGood bytes = true ∧ headerGood s bytes = true
    ∧ fKind bytes = 1 ∧ 34 + fLength bytes ≤ bytes.length ∧ fNode bytes ≠ s.bank.net.deviceId ∧ schedKnown s (fSched bytes) = true) ∧
  (∃ (p : Plane) (bytes : List Byte) (s : State), ∃ u, domainOn s 5 = true ∧ s.bank.valid = true ∧ fcsGood bytes = true ∧ headerGood s bytes =
    true ∧ fKind bytes = 1 ∧ 34 + fLength bytes ≤ bytes.length ∧ fNode bytes ≠ s.bank.net.deviceId ∧ schedKnown s (fSched bytes) = false ∧ u =
    (if s.bank.net.sched.id ≠ 0 ∧ fSched bytes = s.bank.net.sched.id then switchSchedule s s.bank.net.sched (planeB p) else s) ∧ schedKnown u
    (fSched bytes) = true) ∧
  (∃ (p : Plane) (bytes : List Byte) (s : State), ∃ u, domainOn s 5 = true ∧ s.bank.valid = true ∧ fcsGood bytes = true ∧ headerGood s bytes =
    true ∧ fKind bytes = 1 ∧ 34 + fLength bytes ≤ bytes.length ∧ fNode bytes ≠ s.bank.net.deviceId ∧ schedKnown s (fSched bytes) = false ∧ u =
    (if s.bank.net.sched.id ≠ 0 ∧ fSched bytes = s.bank.net.sched.id then switchSchedule s s.bank.net.sched (planeB p) else s) ∧ schedKnown u
    (fSched bytes) = false) ∧
  (∃ (p : Plane) (bytes : List Byte) (s : State), domainOn s 5 = true ∧ s.bank.valid = true ∧ (fcsGood bytes = false ∨ headerGood s bytes =
    false ∨ fKind bytes ≠ 1 ∨ bytes.length < 34 + fLength bytes ∨ fNode bytes = s.bank.net.deviceId)) ∧
  (∃ (p : Plane) (bytes : List Byte) (s : State), domainOn s 5 = true ∧ nodePort s (planeB p) ≠ none ∧ frameGood s bytes = true ∧ fKind bytes =
    2 ∧ fNode bytes ≠ s.bank.net.deviceId ∧ s.net.node = .listen) ∧
  (∃ (p : Plane) (bytes : List Byte) (s : State), domainOn s 5 = true ∧ nodePort s (planeB p) ≠ none ∧ frameGood s bytes = true ∧ fKind bytes =
    2 ∧ fNode bytes ≠ s.bank.net.deviceId ∧ s.net.node = .contend) ∧
  (∃ (p : Plane) (bytes : List Byte) (s : State), domainOn s 5 = true ∧ nodePort s (planeB p) ≠ none ∧ frameGood s bytes = true ∧ fKind bytes =
    2 ∧ fNode bytes ≠ s.bank.net.deviceId ∧ s.net.node ≠ .listen ∧ s.net.node ≠ .contend) ∧
  (∃ (p : Plane) (bytes : List Byte) (s : State), domainOn s 5 = true ∧ nodePort s (planeB p) ≠ none ∧ (frameGood s bytes = false ∨ fKind bytes
    ≠ 2)) :=
  ⟨⟨.a, [], net1, by decide +kernel, by decide +kernel, by decide +kernel, by decide +kernel⟩,
   ⟨.a, frameOf 3 [], { net1 with net.sched.entries := [{ slot0 with owner := 5 }] }, 0, 0, _, _, by decide +kernel, by decide +kernel,
    by decide +kernel, by decide +kernel, by decide +kernel, rfl, rfl⟩,
   ⟨.a, frameOf 1 (List.replicate 16 0), net1, by decide +kernel, by decide +kernel, by decide +kernel, by decide +kernel, by decide +kernel,
    by decide +kernel, by decide +kernel, by decide +kernel⟩,
   ⟨.a, frameOf 1 (List.replicate 16 0), { net1 with net.sched.id := 3, bank.net.sched.id := 1 }, _, by decide +kernel, by decide +kernel,
    by decide +kernel, by decide +kernel, by decide +kernel, by decide +kernel, by decide +kernel, by decide +kernel, rfl, by decide +kernel⟩,
   ⟨.b, frameOf 1 (List.replicate 16 0), { net1 with net.sched.id := 3 }, _, by decide +kernel, by decide +kernel, by decide +kernel,
    by decide +kernel, by decide +kernel, by decide +kernel, by decide +kernel, by decide +kernel, rfl, by decide +kernel⟩,
   ⟨.b, [], net1, by decide +kernel, by decide +kernel, by decide +kernel⟩,
   ⟨.a, frameOf 2 [], { net1 with net.node := .listen }, by decide +kernel, by decide +kernel, by decide +kernel, by decide +kernel,
    by decide +kernel, by decide +kernel⟩,
   ⟨.a, frameOf 2 [], { net1 with net.node := .contend }, by decide +kernel, by decide +kernel, by decide +kernel, by decide +kernel,
    by decide +kernel, by decide +kernel⟩,
   ⟨.a, frameOf 2 [], net1, by decide +kernel, by decide +kernel, by decide +kernel, by decide +kernel, by decide +kernel, by decide +kernel,
    by decide +kernel⟩,
   ⟨.a, [], net1, by decide +kernel, by decide +kernel, by decide +kernel⟩⟩

theorem witness_NodeTimesAndSlotsHaveTheirEffect :
  (∃ (s : State) (b : Int) (t : Int) (u : State), s.net.node = .listen ∧ s.bank.net.rank ≤ 3 ∧ sends s = true ∧ s.net.sched.id ≠ 0 ∧ elapsed s
    s.net.listenFrom (listenTime s) = true ∧ (∀ h, s.net.heldAt = some h → elapsed s h (4 * s.net.sched.tb) = true) ∧ b = s.net.sched.cycleOf
    (now0 s) + 1 ∧ t = s.net.sched.startOf b ∧ u =
    { setNode s .contend with net := { (setNode s .contend).net with coldAt := t, schedMismatch := false } }) ∧
  (∃ (s : State), ∃ b u, s.net.node = .contend ∧ s.net.coldAt + (s.net.sched.tb : Int) ≤ now0 s ∧ b = s.net.sched.cycleOf (now0 s) ∧ u =
    { setNode s .sync with net := { (setNode s .sync).net with master := true, sendFrom := rawNow (setNode s .sync) } }) ∧
  (∃ (s : State), ∃ u, refLost s false = true ∧ refLost s true = true ∧ u = (if (axis s 0).src = 2 then sourceLost s else s) ∧ (sendsReference
    u false = true ∨ sendsReference u true = true ∨ u.net.node = .listen ∨ u.net.node = .contend)) ∧
  (∃ (s : State), ∃ u, refLost s false = true ∧ refLost s true = true ∧ u = (if (axis s 0).src = 2 then sourceLost s else s) ∧ sendsReference u
    false = false ∧ sendsReference u true = false ∧ u.net.node ≠ .listen ∧ u.net.node ≠ .contend) ∧
  (∃ (s : State), ∃ p, refLost s (planeB p) = true ∧ sendsReference s (planeB p) = false ∧ (planeSt s (planeB p)).lossSeen = false ∧ nodePort s
    (planeB p) ≠ none) ∧
  (∃ (s : State), ∃ pb slot b e t a bb u, sendEntry s pb slot = some (b, e, t) ∧ sendEntry s (!pb) slot = none ∧ ((e.ty = 2 ∧ e.owner =
    s.bank.net.deviceId) ∨ (e.ty = 3 ∧ leased s pb slot = true)) ∧ slotContent s slot (2 ^ b2n pb) (frameLimit s pb e - 34) = (a, bb, u)) ∧
  (∃ (s : State), ∃ slot b e t b' e' t' a bb u, sendEntry s false slot = some (b, e, t) ∧ sendEntry s true slot = some (b', e', t') ∧ e.ty = 2
    ∧ e.owner = s.bank.net.deviceId ∧ e'.ty = 2 ∧ e'.owner = s.bank.net.deviceId ∧ slotContent s slot 3 (min (frameLimit s false e) (frameLimit s
    true e') - 34) = (a, bb, u)) ∧
  (∃ (s : State), ∃ pb slot b e t u, sendEntry s pb slot = some (b, e, t) ∧ sendEntry s (!pb) slot = none ∧ e.ty = 1 ∧ slot = 0 ∧
    s.bank.net.rank = 0 ∧ (planeSt s pb).sentRef ≠ some b ∧ u = modPlane { s with net := { s.net with master := true } } pb (fun p =>
    { p with sentRef := some b })) ∧
  (∃ (s : State), ∃ pb slot b e t want, sendEntry s pb slot = some (b, e, t) ∧ sendEntry s (!pb) slot = none ∧ e.ty = 4 ∧ claimDue s pb
    (s.net.sched.cluster b) = some want) ∧
  (∃ (s : State), ∃ pb slot b e t, sendEntry s pb slot = some (b, e, t) ∧ sendEntry s (!pb) slot = none ∧ e.ty = 5) ∧
  (∃ (s : State) (p : Plane), ∃ b off u, 1 ≤ s.bank.net.rank ∧ s.bank.net.rank ≤ 3 ∧ cycleAt s 0 = some (b, off) ∧ planeSends s 0 = true ∧ (∀
    r, (planeSt s (planeB p)).rankSeen = some (b, r) → s.bank.net.rank ≤ r) ∧ (planeSt s (planeB p)).sentRef ≠ some b ∧ (s.bank.net.rank : Int) *
    2000 + dRef s (planeB p) ≤ off ∧ u = modPlane { s with net := { s.net with master := true } } (planeB p) (fun x =>
    { x with sentRef := some b })) :=
  ⟨⟨later 5000000 { live with net.sched.id := 1, bank.net.rank := 3 }, _, _, _, by decide +kernel, by decide +kernel, by decide +kernel,
    by decide +kernel, by decide +kernel, (fun _ h => nomatch h), rfl, rfl, rfl⟩,
   ⟨later 5000000 { live with net.sched.id := 1, net.node := .contend }, _, _, by decide +kernel, by decide +kernel, rfl, rfl⟩,
   ⟨{ live with net.sched.id := 1, net.node := .listen }, _, by decide +kernel, by decide +kernel, rfl, by decide +kernel⟩,
   ⟨net1, _, by decide +kernel, by decide +kernel, rfl, by decide +kernel, by decide +kernel, by decide +kernel, by decide +kernel⟩,
   ⟨net1, .a, by decide +kernel, by decide +kernel, by decide +kernel, by decide +kernel⟩,
   ⟨{ net1 with bank.net.ports := [{ role := 2 }], net.sched.entries := [{ slot0 with planes := 1 }] }, false, 0, (0 : Int),
    { slot0 with planes := 1 }, (0 : Int), _, _, _, by decide +kernel, by decide +kernel, by decide +kernel, rfl⟩,
   ⟨{ net1 with bank.net.ports := [{ role := 2 }, { role := 2, planeB := true }] }, 0, (0 : Int), slot0, (0 : Int), (0 : Int), slot0, (0 : Int),
    _, _, _, by decide +kernel, by decide +kernel, by decide +kernel, by decide +kernel, by decide +kernel, by decide +kernel, rfl⟩,
   ⟨{ net1 with bank.net.ports := [{ role := 2 }], bank.net.rank := 0, net.sched.entries := [{ slot0 with ty := 1, planes := 1 }] }, false, 0,
    (0 : Int), { slot0 with ty := 1, planes := 1 }, (0 : Int), _, by decide +kernel, by decide +kernel, by decide +kernel, by decide +kernel,
    by decide +kernel, by decide +kernel, rfl⟩,
   ⟨{ net1 with bank.net.ports := [{ role := 2 }], net.sched.entries := [{ slot0 with ty := 4, planes := 1 }], net.claims := [{ slot := 0,
                                                                                                                                 planes := 1,
                                                                                                                                 next := 0 }] },
    false, 0, (0 : Int), { slot0 with ty := 4, planes := 1 }, (0 : Int), 0, by decide +kernel, by decide +kernel, by decide +kernel,
    by decide +kernel⟩,
   ⟨{ net1 with bank.net.ports := [{ role := 2 }], net.sched.entries := [{ open0 with planes := 1 }] }, false, 0, (0 : Int),
    { open0 with planes := 1 }, (0 : Int), by decide +kernel, by decide +kernel, by decide +kernel⟩,
   ⟨later 2000 { net1 with bank.net.rank := 1 }, .a, (0 : Int), (2000 : Int), _, by decide +kernel, by decide +kernel, by decide +kernel,
    by decide +kernel, (fun _ h => nomatch h), by decide +kernel, by decide +kernel, rfl⟩⟩

theorem witness_LinkDelayAndFlowsHaveTheirEffect :
  (∃ (port : Fin 9) (bytes : List Byte) (s : State) (p : LinkPort) (b : Int) (left : Int) (u : State), measuresDelay s port.val = true ∧ portUp
    s port.val = true ∧ s.net.node ≠ .silent ∧ cutBack s = false ∧ openLeft s (portCfg s port.val).planeB = some left ∧ ((84 * portByteNs s
    port.val : Nat) : Int) ≤ left ∧ b = s.net.sched.cycleOf (now0 s) ∧ (linkPort s port.val).askedIn ≠ some (s.net.sched.cluster b) ∧ p =
    { linkPort s port.val with asked := some (now0 s), askedIn := some (s.net.sched.cluster b) } ∧ u =
    { s with net := { s.net with ports := upd s.net.ports port.val (fun _ => p) } }) ∧
  (∃ (port : Fin 9) (bytes : List Byte) (s : State) (t1 : Int) (d : Int), portUp s port.val = true ∧ (portCfg s port.val).role ≠ 0 ∧
    portBlocked s port.val = false ∧ frameGood s bytes = true ∧ isDelay bytes 2 = true ∧ (linkPort s port.val).asked = some t1 ∧ d = ((now0 s -
    t1) - ((getDWord (fPayload bytes) 12).toInt - (getDWord (fPayload bytes) 4).toInt)) / 2) ∧
  (∃ (port : Fin 9) (bytes : List Byte) (s : State), portUp s port.val = true ∧ (portCfg s port.val).role ≠ 0 ∧ portBlocked s port.val = false
    ∧ (frameGood s bytes = false ∨ isDelay bytes 2 = false)) ∧
  (∃ (port : Fin 9) (bytes : List Byte) (s : State), ∃ b t3, portUp s port.val = true ∧ (portCfg s port.val).role ≠ 0 ∧ portBlocked s port.val
    = false ∧ frameGood s bytes = true ∧ isDelay bytes 1 = true ∧ s.net.node ≠ .silent ∧ cutBack s = false ∧ ((portCfg s port.val).role = 2 →
    integrated s = true → openLeft s (portCfg s port.val).planeB ≠ none) ∧ b = s.net.sched.cycleOf (now0 s) ∧ t3 = now0 s + (((bytes.length + 20)
    * portByteNs s port.val : Nat) : Int)) ∧
  (∃ (port : Fin 9) (bytes : List Byte) (s : State), portUp s port.val = true ∧ (portCfg s port.val).role ≠ 0 ∧ portBlocked s port.val = false
    ∧ (frameGood s bytes = false ∨ isDelay bytes 1 = false)) ∧
  (∃ (node : Nat) (b : List Byte) (c : FlowCfg) (s : State), flowCfg s (getByte b 0) = some c ∧ (c.peer = node ∨ c.peer = 0xFFFF) ∧ getByte b 1
    = c.channels ∧ getByte b 2 = c.format ∧ (b.drop 16).length = getNat b 12 2 * c.channels * (if bit c.format 2 then 3 else 2)) :=
  ⟨⟨0, [], { net1 with net.sched.entries := [open0], net.ports := [{ speed := 1 }] }, _, _, 200000, _, by decide +kernel, by decide +kernel,
    by decide +kernel, by decide +kernel, by decide +kernel, by decide +kernel, rfl, by decide +kernel, rfl, rfl⟩,
   ⟨0, frameOf 6 (2 :: List.replicate 19 0), { net1 with net.ports := [{ speed := 1, asked := some 0 }] }, 0, _, by decide +kernel,
    by decide +kernel, by decide +kernel, by decide +kernel, by decide +kernel, by decide +kernel, rfl⟩,
   ⟨0, frameOf 6 (1 :: List.replicate 19 0), { net1 with net.ports := [{ speed := 1 }] }, by decide +kernel, by decide +kernel,
    by decide +kernel, by decide +kernel⟩,
   ⟨0, frameOf 6 (1 :: List.replicate 19 0), { net1 with net.ports := [{ speed := 1 }] }, _, _, by decide +kernel, by decide +kernel,
    by decide +kernel, by decide +kernel, by decide +kernel, by decide +kernel, by decide +kernel, by decide +kernel, rfl, rfl⟩,
   ⟨0, [], { net1 with net.ports := [{ speed := 1 }] }, by decide +kernel, by decide +kernel, by decide +kernel, by decide +kernel⟩,
   ⟨1, [0, 1, 0, 0, 0, 0, 0, 0, 0, 0, 0, 0, 0, 1, 0, 0, 0x12, 0x34], flow0, { live with bank.sound.flows := [flow0] }, by decide +kernel,
    by decide +kernel, by decide +kernel, by decide +kernel, by decide +kernel⟩⟩

theorem witness_LeaseCommandsHaveTheirEffect :
  (∃ (bytes : List Byte) (s : State) (port : Fin 9), ∃ pb x u want r, starPlane s = some pb ∧ isRoot s = true ∧ integrated s = true ∧
    s.net.claimIn = some x ∧ x.decided = false ∧ x.port = port.val ∧ x.bytes = bytes ∧ elapsed s x.since ((8 + bytes.length) * portByteNs s
    port.val) = true ∧ u = { s with net := { s.net with claimIn := some { x with decided := true } } } ∧ want = getByte (fPayload bytes) 0 ∧ r =
    claimDecision s pb port.val (fNode bytes) want ∧ frameGood s bytes = true ∧ fKind bytes = 4 ∧ r = 1) ∧
  (∃ (bytes : List Byte) (s : State) (port : Fin 9), ∃ pb x u want r, starPlane s = some pb ∧ isRoot s = true ∧ integrated s = true ∧
    s.net.claimIn = some x ∧ x.decided = false ∧ x.port = port.val ∧ x.bytes = bytes ∧ elapsed s x.since ((8 + bytes.length) * portByteNs s
    port.val) = true ∧ u = { s with net := { s.net with claimIn := some { x with decided := true } } } ∧ want = getByte (fPayload bytes) 0 ∧ r =
    claimDecision s pb port.val (fNode bytes) want ∧ frameGood s bytes = true ∧ fKind bytes = 4 ∧ r ≠ 1) ∧
  (∃ (bytes : List Byte) (s : State) (port : Fin 9), ∃ pb x u want r, starPlane s = some pb ∧ isRoot s = true ∧ integrated s = true ∧
    s.net.claimIn = some x ∧ x.decided = false ∧ x.port = port.val ∧ x.bytes = bytes ∧ elapsed s x.since ((8 + bytes.length) * portByteNs s
    port.val) = true ∧ u = { s with net := { s.net with claimIn := some { x with decided := true } } } ∧ want = getByte (fPayload bytes) 0 ∧ r =
    claimDecision s pb port.val (fNode bytes) want ∧ (frameGood s bytes = false ∨ fKind bytes ≠ 4)) ∧
  (∃ (bytes : List Byte) (s : State) (pb : Bool) (port : Nat) (device : Nat) (want : Nat), ∃ e, s.net.sched.entries.find? (fun e => e.ty = 3 &&
    e.slot = want && bit e.planes (b2n pb)) = some e ∧ s.net.leases.find? (fun l => l.slot = want) = none) ∧
  (∃ (bytes : List Byte) (s : State) (pb : Bool) (port : Nat) (device : Nat) (want : Nat), ∃ e l, s.net.sched.entries.find? (fun e => e.ty = 3
    && e.slot = want && bit e.planes (b2n pb)) = some e ∧ s.net.leases.find? (fun l => l.slot = want) = some l) ∧
  (∃ (bytes : List Byte) (s : State) (p : Plane), domainOn s 5 = true ∧ (frameGood s bytes = false ∨ fKind bytes ≠ 5)) ∧
  (∃ (bytes : List Byte) (s : State) (p : Plane), domainOn s 5 = true ∧ frameGood s bytes = true ∧ fKind bytes = 5) ∧
  (∃ (bytes : List Byte) (s : State) (p : Plane), ∃ slot l, s.net.leases.find? (fun l => l.slot = slot) = some l ∧ isRoot s = true ∧ starPlane
    s = some (planeB p) ∧ l.last + 257 ≤ s.net.sched.cluster (s.net.sched.cycleOf (now0 s))) ∧
  (∃ (bytes : List Byte) (s : State), s.net.nextId ≠ 0 ∧ s.net.nextId ≠ s.net.sched.id ∧ switchInstant s ≤ now0 s ∧ s.bank.net.sched.id =
    s.net.nextId) ∧
  (∃ (bytes : List Byte) (s : State), ∃ u, s.net.nextId ≠ 0 ∧ s.net.nextId ≠ s.net.sched.id ∧ switchInstant s ≤ now0 s ∧ s.bank.net.sched.id ≠
    s.net.nextId ∧ u = mismatch (enterListen s) (refPlane s)) :=
  ⟨⟨frameOf 4 [0], later 4000
    { star with bank.net.ports := [{ role := 2 }], net.sched.entries := [{ slot0 with ty := 3, owner := 1 }], net.claimIn := some { cycle := 0,
                                                                                                                                    since := 0,
                                                                                                                                    port := 0,
                                                                                                                                    bytes :=
                                                                                                                                      frameOf 4 [0] } },
    0, false, { cycle := 0, since := 0, port := 0, bytes := frameOf 4 [0] : ClaimIn }, _, _, _, by decide +kernel, by decide +kernel,
    by decide +kernel, by decide +kernel, by decide +kernel, by decide +kernel, by decide +kernel, by decide +kernel, rfl, rfl, rfl,
    by decide +kernel, by decide +kernel, by decide +kernel⟩,
   ⟨frameOf 4 [0], later 4000
    { star with bank.net.ports := [{ role := 2 }], net.sched.entries := [{ slot0 with ty := 3, owner := 0 }], net.claimIn := some { cycle := 0,
                                                                                                                                    since := 0,
                                                                                                                                    port := 0,
                                                                                                                                    bytes :=
                                                                                                                                      frameOf 4 [0] } },
    0, false, { cycle := 0, since := 0, port := 0, bytes := frameOf 4 [0] : ClaimIn }, _, _, _, by decide +kernel, by decide +kernel,
    by decide +kernel, by decide +kernel, by decide +kernel, by decide +kernel, by decide +kernel, by decide +kernel, rfl, rfl, rfl,
    by decide +kernel, by decide +kernel, by decide +kernel⟩,
   ⟨frameOf 5 [0], later 4000
    { star with bank.net.ports := [{ role := 2 }], net.claimIn := some { cycle := 0, since := 0, port := 0, bytes := frameOf 5 [0] } }, 0, false,
    { cycle := 0, since := 0, port := 0, bytes := frameOf 5 [0] : ClaimIn }, _, _, _, by decide +kernel, by decide +kernel, by decide +kernel,
    by decide +kernel, by decide +kernel, by decide +kernel, by decide +kernel, by decide +kernel, rfl, rfl, rfl, by decide +kernel⟩,
   ⟨frameOf 4 [0], { star with bank.net.ports := [{ role := 2 }], net.sched.entries := [{ slot0 with ty := 3, owner := 1 }] }, false, 0, 0, 0,
    { slot0 with ty := 3, owner := 1 }, by decide +kernel, by decide +kernel⟩,
   ⟨[], { star with net.sched.entries := [{ slot0 with ty := 3, owner := 1 }], net.leases := [{ slot := 0, device := 6, port := 0, last :=
                                                                                                   0 }] }, false, 0, 6, 0,
    { slot0 with ty := 3, owner := 1 }, { slot := 0, device := 6, port := 0, last := 0 : Lease }, by decide +kernel, by decide +kernel⟩,
   ⟨[], net1, .a, by decide +kernel, by decide +kernel⟩,
   ⟨frameOf 5 [], net1, .b, by decide +kernel, by decide +kernel, by decide +kernel⟩,
   ⟨[], { star with bank.net.ports := [{ role := 2 }], net.leases := [{ slot := 0, device := 6, port := 0, last := -257 }] }, .a, 0,
    { slot := 0, device := 6, port := 0, last := -257 : Lease }, by decide +kernel, by decide +kernel, by decide +kernel, by decide +kernel⟩,
   ⟨[], { net1 with net.nextId := 2, bank.net.sched.id := 2 }, by decide +kernel, by decide +kernel, by decide +kernel, by decide +kernel⟩,
   ⟨[], { net1 with net.nextId := 2, bank.net.sched.id := 3 }, _, by decide +kernel, by decide +kernel, by decide +kernel, by decide +kernel,
    rfl⟩⟩

theorem witness_PtpHasItsEffect :
  (∃ (s : State) (m : PtpSyncMsg) (s' : State), s.train.ptp.st = .slave ∧ ptpMine s m.head = true ∧ s' = moduleSignalEvents s (modPtp s (fun p
    => { p with offset := m.t2 - m.t1 - pathDelay s - m.corrections })) ∧ (axis s' 0).src ≠ 1) ∧
  (∃ (s : State) (m : PtpSyncMsg) (s' : State), s.train.ptp.st = .slave ∧ ptpMine s m.head = true ∧ s' = moduleSignalEvents s (modPtp s (fun p
    => { p with offset := m.t2 - m.t1 - pathDelay s - m.corrections })) ∧ (axis s' 0).src = 1) ∧
  (∃ (s : State) (m : PtpDelayMsg) (s' : State), ptpMine s m.head = true ∧ s' = modPtp s (fun p =>
    { p with delays := (((m.t2 - m.t1) + (m.t4 - m.t3) - m.corrections) / 2 :: p.delays).take 16 }) ∧ ptpFlag s 3 = false ∧ s.train.ptp.st =
    .slave) ∧
  (∃ (s : State) (m : PtpDelayMsg) (s' : State), ptpMine s m.head = true ∧ s' = modPtp s (fun p =>
    { p with delays := (((m.t2 - m.t1) + (m.t4 - m.t3) - m.corrections) / 2 :: p.delays).take 16 }) ∧ ptpFlag s 3 = true) ∧
  (∃ (s : State) (m : PtpDelayMsg), ptpMine s m.head = false) ∧
  (∃ (s : State) (m : PtpAnnounceMsg) (u : State), ptpMine s m.head = true ∧ (∀ b, s.train.ptp.best = some b → (b.parentIdentity =
    m.parentIdentity ∧ b.parentPort = m.parentPort) ∨ keyBetter (announceKey m) (announceKey b) = true) ∧ u = modPtp s (fun p =>
    { p with best := some m, heard := rawNow s })) ∧
  (∃ (s : State) (m : PtpAnnounceMsg) (b : PtpAnnounceMsg), s.train.ptp.best = some b ∧ ¬ (b.parentIdentity = m.parentIdentity ∧ b.parentPort =
    m.parentPort) ∧ keyBetter (announceKey m) (announceKey b) = false) ∧
  (∃ (s : State) (m : PtpAnnounceMsg), ptpMine s m.head = false) ∧
  (∃ (s : State), ∃ u v, (s.train.ptp.st = .listening ∨ s.train.ptp.st = .slave ∨ s.train.ptp.st = .passive) ∧ elapsed s s.train.ptp.heard
    (announceNs s) = true ∧ u = raiseHub (modPtp s (fun p => { p with best := none, heard := rawNow s, timeouts := p.timeouts + 1 })) 1 0x8003
    (ptpPort s) ∧ v = (if s.train.ptp.st = .slave ∧ (axis u 0).src = 1 then sourceLost u else u)) ∧
  (∃ (s : State), (s.train.ptp.st = .master ∨ s.train.ptp.st = .disabled)) ∧
  (∃ (s : State), ptpFlag s 0 = true ∧ s.train.ptp.alt = false ∧ portUp s s.bank.ptp.port = false ∧ s.bank.ptp.portAlt ≠ 0xFF) ∧
  (∃ (s : State), s.train.ptp.alt = true ∧ portUp s s.bank.ptp.port = true ∧ elapsed s (linkPort s s.bank.ptp.port).since 10000000000 = true) ∧
  (∃ (s : State), s.train.ptp.alt = true ∧ portUp s s.bank.ptp.port = true ∧ elapsed s (linkPort s s.bank.ptp.port).since 10000000000 = false) ∧
  (∃ (s : State), ∃ u, s.train.ptp.st = .master ∧ portUp s (ptpPort s) = true ∧ u = sendPtp (modPtp s (fun p =>
    { p with seqSync := (p.seqSync + 1) % 65536 })) .sync s.train.ptp.seqSync 0 []) ∧
  (∃ (s : State), s.train.ptp.st = .master ∧ portUp s (ptpPort s) = true) ∧
  (∃ (s : State), s.train.ptp.st ≠ .master) ∧
  (∃ (s : State) (n : Nat), portPlane s (ptpPort s) = none ∧ ptpFlag s 4 = false) ∧
  (∃ (s : State), portUp s (ptpPort s) = true ∧ s.train.ptp.st ≠ .disabled ∧ (ptpFlag s 3 = true ∨ s.train.ptp.st = .slave)) ∧
  (∃ (s : State) (port : Nat) (udp : Bool) (domain : Nat) (t : DWord), portUp s port = true ∧ ptpFlag s 3 = false ∧ s.train.ptp.st = .master ∧
    ptpMine s { port := port, udp := udp, domain := domain } = true) ∧
  (∃ (s : State) (port : Nat) (udp : Bool) (domain : Nat) (t : DWord), ∃ u, portUp s port = true ∧ ptpFlag s 3 = true ∧ (ptpMine s
    { port := port, udp := udp, domain := domain } = true ∨ ptpMode s port ≠ 0) ∧ u = leave s (.ptp (ptpOut port domain 0 udp .pdelayResp t.toInt
    []))) ∧
  (∃ (s : State) (port : Nat) (r : PtpReq) (t : DWord), portUp s port = false) :=
  ⟨⟨{ live with train.ptp.st := .slave, bank.ptp.flags := 1 }, { head := ptpHead0, t1 := 0, t2 := 0, corrections := 0 }, _, by decide,
    by decide, rfl, by decide⟩,
   ⟨{ live with train.ptp.st := .slave, bank.ptp.flags := 1, tim.axes := [{ src := 1 }, {}, {}, {}] },
    { head := ptpHead0, t1 := 0, t2 := 0, corrections := 0 }, _, by decide, by decide, rfl, by decide⟩,
   ⟨{ live with train.ptp.st := .slave, bank.ptp.flags := 1 }, { head := ptpHead0, t1 := 0, t2 := 0, t3 := 0, t4 := 0, corrections := 0 }, _,
    by decide, rfl, by decide, by decide⟩,
   ⟨{ live with train.ptp.st := .slave, bank.ptp.flags := 9 }, { head := ptpHead0, t1 := 0, t2 := 0, t3 := 0, t4 := 0, corrections := 0 }, _,
    by decide, rfl, by decide⟩,
   ⟨live, { head := ptpHead0, t1 := 0, t2 := 0, t3 := 0, t4 := 0, corrections := 0 }, by decide⟩,
   ⟨{ live with train.ptp.st := .slave, bank.ptp.flags := 1, train.ptp.best := some announce0 }, announce0, _, by decide,
    (fun b h => by rw [← Option.some.inj (show some announce0 = some b from h)]; decide), rfl⟩,
   ⟨{ live with train.ptp.best := some announce0 }, { announce0 with gmClass := 1, parentPort := 1 }, announce0, by decide, by decide,
    by decide⟩,
   ⟨live, announce0, by decide⟩,
   ⟨later 100000000000 { live with train.ptp.st := .slave }, _, _, by decide, by decide, rfl, rfl⟩,
   ⟨live, by decide⟩,
   ⟨{ live with bank.ptp.flags := 1 }, by decide, by decide, by decide, by decide⟩,
   ⟨later 10000000000 { live with train.ptp.alt := true, net.ports := List.replicate 8 {} ++ [{ speed := 1 }] }, by decide, by decide,
    by decide⟩,
   ⟨later 9999999999 { live with train.ptp.alt := true, net.ports := List.replicate 8 {} ++ [{ speed := 1 }] }, by decide, by decide, by decide⟩,
   ⟨{ live with train.ptp.st := .master, bank.ptp.flags := 0, net.ports := List.replicate 8 {} ++ [{ speed := 1 }] }, _, by decide, by decide,
    rfl⟩,
   ⟨{ live with train.ptp.st := .master, net.ports := List.replicate 8 {} ++ [{ speed := 1 }] }, by decide, by decide⟩,
   ⟨{ live with train.ptp.st := .slave }, by decide⟩,
   ⟨{ live with train.ptp.st := .slave, net.ports := List.replicate 8 {} ++ [{ speed := 1 }] }, 0, by decide, by decide⟩,
   ⟨{ live with train.ptp.st := .listening, bank.ptp.flags := 9, net.ports := List.replicate 8 {} ++ [{ speed := 1 }] }, by decide, by decide,
    by decide⟩,
   ⟨{ live with train.ptp.st := .master, bank.ptp.flags := 1, net.ports := List.replicate 8 {} ++ [{ speed := 1 }] }, 8, false, 0, 0, by decide,
    by decide, by decide, by decide⟩,
   ⟨{ live with train.ptp.st := .slave, bank.ptp.flags := 41, net.ports := List.replicate 8 {} ++ [{ speed := 1 }] }, 8, false, 0, 0, _,
    by decide, by decide, by decide, rfl⟩,
   ⟨live, 10, { udp := false, domain := 0, peer := true }, 0, by decide⟩⟩

theorem witness_BackboneAndIpHaveTheirEffect :
  (∃ (s : State) (line : Fin 2) (m : TopologyMsg) (u : State) (v : State), portUp s (portEp0 + line.val) = true ∧ u =
    { s with train := { s.train with topo := some m, topoAt := rawNow s, topoStale := false } } ∧ v = (if s.train.topo.any (fun x => x.etbTopoCnt
    = m.etbTopoCnt) then u else raiseHub u 0 0x8005 0 m.etbTopoCnt.toNat)) ∧
  (∃ (s : State) (line : Fin 2) (m : TopologyMsg), portUp s (portEp0 + line.val) = false) ∧
  (∃ (s : State), s.train.topo.isSome = true ∧ s.train.topoStale = false ∧ elapsed s s.train.topoAt 1000000000 = true) ∧
  (∃ (s : State) (port : Fin 11) (speed : Nat) (permitted : Prop), domainOn s 5 = true ∧ (permitted = (speed = 0 ∨ (port.val = 10 ∧ speed = 1)
    ∨ port.val = 8 ∨ port.val = 9 ∨ ((portCfg s port.val).role ≠ 0 ∧ ((speed = 2 ∧ bit (portCfg s port.val).speed 0 = true) ∨ (speed = 1 ∧ bit
    (portCfg s port.val).speed 1 = true))))) ∧ permitted) ∧
  (∃ (s : State) (port : Fin 11) (speed : Nat) (permitted : Prop), domainOn s 5 = true ∧ (permitted = (speed = 0 ∨ (port.val = 10 ∧ speed = 1)
    ∨ port.val = 8 ∨ port.val = 9 ∨ ((portCfg s port.val).role ≠ 0 ∧ ((speed = 2 ∧ bit (portCfg s port.val).speed 0 = true) ∨ (speed = 1 ∧ bit
    (portCfg s port.val).speed 1 = true))))) ∧ ¬ permitted) ∧
  (∃ (s : State) (ip : Word) (target : Word) (mac : BitVec 48), domainOn s 5 = true) ∧
  (∃ (s : State) (ip : Word) (target : Word) (mac : BitVec 48) (port : Nat) (hop : Word), domainOn s 5 = true ∧ route s ip = some (port, hop) ∧
    ownAddress s target = true ∧ mayUse s port = true) ∧
  (∃ (s : State) (src : Word) (dst : Word) (m : EchoMsg), ipPlain m.ip = true ∧ ownAddress s dst = true) ∧
  (∃ (s : State) (src : Word) (dst : Word) (m : EchoMsg), ipPlain m.ip = true ∧ ownAddress s dst = false) ∧
  (∃ (s : State) (src : Word) (dst : Word) (m : EchoMsg), ipPlain m.ip = false) ∧
  (∃ (s : State) (line : Fin 3) (port : Nat) (p : Program), lineOn s line.val = true ∧ port = (if line.val = 0 then portEp0 else if line.val =
    1 then portEp1 else (nodePort s false).getD portInternal) ∧ mayUse s port = true ∧ s.prog = some p) ∧
  (∃ (s : State) (line : Fin 3), lineOn s line.val = false) :=
  ⟨⟨{ live with net.ports := List.replicate 9 {} ++ [{ speed := 1 }] }, 1, topology0, _, _, by decide, rfl, rfl⟩,
   ⟨live, 1, topology0, by decide⟩,
   ⟨later 1000000000 { live with train.topo := some topology0 }, by decide, by decide, by decide⟩,
   ⟨live, 8, 1, _, by decide, rfl, by decide⟩,
   ⟨live, 7, 1, _, by decide, rfl, by decide⟩,
   ⟨live, 0, 0, 0, by decide⟩,
   ⟨{ live with bank.net.ip := { etbAddr := 0x0A800001, etbMask := 0xFFFF0000 } }, 0x0A800002, 0x0A800001, 0, _, _, by decide, rfl, by decide,
    rfl⟩,
   ⟨{ live with bank.net.ip := { etbAddr := 0x0A800001 } }, 0, 0x0A800001, { ip := { options := false, fragment := false }, data := [1] },
    by decide, by decide⟩,
   ⟨live, 0, 1, { ip := { options := false, fragment := false }, data := [1] }, by decide, by decide⟩,
   ⟨live, 0, 1, { ip := { options := false, fragment := true }, data := [1] }, by decide⟩,
   ⟨{ live with bank.net.ip := { etbAddr := 0x0A800001 } }, 0, _, ({} : Program), by decide, rfl, by decide, by decide⟩,
   ⟨live, 2, by decide⟩⟩

theorem witness_TrdpHasItsEffect :
  (∃ (s : State) (line : Fin 3) (h : PdHeader) (data : List Byte), lineOn s line.val = true ∧ ipPlain h.ip = true ∧ pdGood s h data.length =
    false) ∧
  (∃ (s : State) (line : Fin 3) (h : PdHeader) (data : List Byte) (p : Program) (g : SigGroup), lineOn s line.val = true ∧ ipPlain h.ip = true
    ∧ pdGood s h data.length = true ∧ s.prog = some p ∧ p.groups.find? (fun g => !g.publish && g.carrier = 2 && g.comId = h.comId) = some g ∧
    g.format ≠ 2) ∧
  (∃ (s : State) (line : Fin 3) (h : PdHeader) (data : List Byte) (p : Program) (g : SigGroup), lineOn s line.val = true ∧ ipPlain h.ip = true
    ∧ pdGood s h data.length = true ∧ s.prog = some p ∧ p.groups.find? (fun g => !g.publish && g.carrier = 2 && g.comId = h.comId) = some g ∧
    g.format = 2 ∧ line.val < 2) ∧
  (∃ (s : State) (line : Fin 3) (src : Word) (h : PdHeader) (p : Program), lineOn s line.val = true ∧ ipPlain h.ip = true ∧ sends s = true ∧
    pdGood s h 0 = true ∧ s.prog = some p ∧ p.groups.find? (fun g => g.publish && g.carrier = 2 && g.comId = h.comId) = none) ∧
  (∃ (s : State) (line : Fin 3) (src : Word) (h : PdHeader) (p : Program) (g : SigGroup), lineOn s line.val = true ∧ ipPlain h.ip = true ∧
    sends s = true ∧ pdGood s h 0 = true ∧ s.prog = some p ∧ p.groups.find? (fun g => g.publish && g.carrier = 2 && g.comId = h.comId) = some g ∧
    g.format ≠ 2) ∧
  (∃ (s : State) (n : Nat) (g : SigGroup), sends s = true ∧ groupDef s n true = some g ∧ g.carrier = 2 ∧ g.mode = 0 ∧ g.format ≠ 2) ∧
  (∃ (s : State) (n : Nat), sends s = false) ∧
  (∃ (s : State) (p : Program), s.prog = some p) ∧
  (∃ (s : State) (line : Fin 3) (src : Word) (h : PdHeader) (data : List Byte) (u : State), lineOn s line.val = true ∧ ipPlain h.ip = false ∧ u
    = { s with train := { s.train with optDiscard := s.train.optDiscard + b2n h.ip.options, reasmDiscard :=
                                         s.train.reasmDiscard + b2n (h.ip.fragment && !h.ip.options) } }) ∧
  (∃ (s : State) (p : Plane) (bytes : List Byte) (c : SafeConn), s.safe.conns.find? (fun c => !c.send && c.scid = getWord bytes 4) = some c) ∧
  (∃ (src : Word) (comId : Word) (m : MdData) (s : State), ∃ x u, s.bank.valid = true ∧ domainOn s 5 = true ∧ s.modu.mode ≠ .bringup ∧
    m.options = false ∧ m.piece = some x ∧ reassemble s src x m.bytes = (none, u)) ∧
  (∃ (src : Word) (comId : Word) (m : MdData) (s : State), ∃ x whole u, s.bank.valid = true ∧ domainOn s 5 = true ∧ s.modu.mode ≠ .bringup ∧
    m.options = false ∧ m.piece = some x ∧ reassemble s src x m.bytes = (some whole, u)) ∧
  (∃ (src : Word) (comId : Word) (m : MdData) (s : State), ∃ data, s.bank.valid = true ∧ domainOn s 5 = true ∧ s.modu.mode ≠ .bringup ∧
    m.options = false ∧ m.piece = none ∧ data = m.bytes ∧ data.length ≤ 65388 ∧ comId ≠ s.bank.net.ip.mdComId) ∧
  (∃ (src : Word) (comId : Word) (m : MdData) (s : State), ∃ data, ∃ (mn : Bool) (u : State), s.bank.valid = true ∧ domainOn s 5 = true ∧
    s.modu.mode ≠ .bringup ∧ m.options = false ∧ m.piece = none ∧ data = m.bytes ∧ data.length ≤ 65388 ∧ comId = s.bank.net.ip.mdComId ∧ comId ≠
    0 ∧ s.hp.mb1.st = .idle ∧ u = startMb s .mb1 (.trdp src) ((toWords data).headD 0).toNat ((toWords data).drop 1).length ((toWords data).drop
    1) mn) ∧
  (∃ (src : Word) (comId : Word) (m : MdData) (s : State), ∃ data, s.bank.valid = true ∧ domainOn s 5 = true ∧ s.modu.mode ≠ .bringup ∧
    m.options = false ∧ m.piece = none ∧ data = m.bytes ∧ data.length ≤ 65388 ∧ comId = s.bank.net.ip.mdComId ∧ comId ≠ 0 ∧ s.hp.mb1.st ≠ .idle) :=
  ⟨⟨{ live with bank.net.ip := { etbAddr := 0x0A800001 } }, 1, { pd0 with fcsGood := false }, [], by decide, by decide, by decide⟩,
   ⟨{ live with bank.net.ip := { etbAddr := 0x0A800001 }, prog := some { groups := [group0] } }, 1, pd0, [], ({ groups := [group0] } : Program),
    group0, by decide, by decide, by decide, by decide, by decide, by decide⟩,
   ⟨{ live with bank.net.ip := { etbAddr := 0x0A800001 }, prog := some { groups := [{ group0 with format := 2 }] } }, 1, pd0, [], ({ groups :=
                                                                                                                                        [{ group0 with format :=
                                                                                                                                                         2 }] }
    : Program), { group0 with format := 2 }, by decide, by decide, by decide, by decide, by decide, by decide, by decide⟩,
   ⟨{ live with bank.net.ip := { etbAddr := 0x0A800001 } }, 1, 0, pd0, ({} : Program), by decide, by decide, by decide, by decide, by decide,
    by decide⟩,
   ⟨{ live with bank.net.ip := { etbAddr := 0x0A800001 }, prog := some { groups := [{ group0 with publish := true }] } }, 1, 0, pd0,
    ({ groups := [{ group0 with publish := true }] } : Program), { group0 with publish := true }, by decide, by decide, by decide, by decide,
    by decide, by decide, by decide⟩,
   ⟨{ live with prog := some { groups := [{ group0 with publish := true }] } }, 0, { group0 with publish := true }, by decide, by decide,
    by decide, by decide, by decide⟩,
   ⟨{ live with modu.mode := .limited }, 0, by decide⟩,
   ⟨live, ({} : Program), by decide⟩,
   ⟨{ live with bank.net.ip := { etbAddr := 0x0A800001 } }, 1, 0, { pd0 with ip := { options := true, fragment := false } }, [], _, by decide,
    by decide, rfl⟩,
   ⟨{ live with safe.conns := [conn0] }, .a, [], conn0, by decide⟩,
   ⟨0, 1, { options := false, piece := some { ident := 1, offset := 0, more := true }, bytes := [1] }, live,
    { ident := 1, offset := 0, more := true : IpPiece }, _, by decide, by decide, by decide, by decide, by decide, rfl⟩,
   ⟨0, 1, { options := false, piece := some { ident := 1, offset := 0, more := false }, bytes := [1] }, live,
    { ident := 1, offset := 0, more := false : IpPiece }, ([1] : List Byte), _, by decide, by decide, by decide, by decide, by decide, rfl⟩,
   ⟨0, 1, { options := false, piece := none, bytes := [1] }, live, _, by decide, by decide, by decide, by decide, by decide, rfl, by decide,
    by decide⟩,
   ⟨0, 9, { options := false, piece := none, bytes := [1] }, { live with bank.net.ip.mdComId := 9 }, _, false, _, by decide, by decide,
    by decide, by decide, by decide, rfl, by decide, by decide, by decide, by decide, rfl⟩,
   ⟨0, 9, { options := false, piece := none, bytes := [1] }, { live with bank.net.ip.mdComId := 9, hp.mb1.st := .done }, _, by decide,
    by decide, by decide, by decide, by decide, rfl, by decide, by decide, by decide, by decide⟩⟩

theorem witness_BridgeHasItsEffect :
  (∃ (node : Nat) (body : List Byte) (s : State), ∃ e, domainOn s 5 = true ∧ delayedAt s (getNat body 2 2) = some e ∧ e.node = node ∧ e.write =
    false ∧ e.done = none ∧ getByte body 0 = 1 ∧ getByte body 1 = 0 ∧ getByte body 5 = e.count) ∧
  (∃ (node : Nat) (body : List Byte) (s : State), domainOn s 5 = true ∧ delayedAt s (getNat body 2 2) = none) ∧
  (∃ (node : Nat) (body : List Byte) (s : State), ∃ p, domainOn s 5 = true ∧ getByte body 5 = 1 ∧ getByte body 10 = 0 ∧ (nodeSt s
    node).posts.find? (fun p => p.tag = getNat body 8 2 && !p.lost) = some p) ∧
  (∃ (node : Nat) (body : List Byte) (s : State), ∃ p code, domainOn s 5 = true ∧ getByte body 5 = 1 ∧ getByte body 10 = code ∧ code ≠ 0 ∧
    (nodeSt s node).posts.find? (fun p => p.tag = getNat body 8 2 && !p.lost) = some p) ∧
  (∃ (node : Nat) (body : List Byte) (s : State), ∃ mb tag t, domainOn s 5 = true ∧ (nodeSt s node).clearing = some (mb, tag, t)) ∧
  (∃ (node : Nat) (body : List Byte) (s : State) (i : Fin 16), ∃ e, delayedAt s i.val = some e ∧ e.done = none ∧ elapsed s e.at_ (e.reqMs *
    1000000) = true) ∧
  (∃ (node : Nat) (body : List Byte) (s : State), ∃ p, (nodeSt s node).posts.find? (fun q => q.tag = p.tag && !q.lost) = some p ∧ elapsed s
    p.at_ (p.reqMs * 1000000) = true ∧ s.br.trainQ = []) ∧
  (∃ (node : Nat) (body : List Byte) (s : State) (i : Fin 16), ∃ e r, delayedAt s i.val = some e ∧ e.done = some r ∧ elapsed s r.2.2.2
    (e.discardMs * 1000000) = true) ∧
  (∃ (node : Nat) (body : List Byte) (s : State), inService s = true ∧ domainOn s 5 = true ∧ rqOp body = 1 ∧ inboundUsed s < 1024 ∧ rqAfter
    body = none ∧ inboundCode s body = 0) ∧
  (∃ (node : Nat) (body : List Byte) (s : State), inService s = true ∧ domainOn s 5 = true ∧ rqOp body = 1 ∧ inboundUsed s < 1024 ∧ rqAfter
    body = none ∧ inboundCode s body ≠ 0) ∧
  (∃ (node : Nat) (body : List Byte) (s : State), inService s = true ∧ domainOn s 5 = true ∧ rqOp body = 3 ∧ tagAhead (rqTag body) (sourceSt s
    node).expect = 0 ∧ inboundUsed s < 1024 ∧ (sourceSt s node).fenced = false) ∧
  (∃ (node : Nat) (body : List Byte) (s : State), inService s = true ∧ domainOn s 5 = true ∧ rqOp body = 3 ∧ 0 < tagAhead (rqTag body)
    (sourceSt s node).expect ∧ tagAhead (rqTag body) (sourceSt s node).expect < 32768 ∧ inboundUsed s < 1024 ∧ (sourceSt s node).fenced = false ∧
    (sourceSt s node).held = []) ∧
  (∃ (node : Nat) (body : List Byte) (s : State), inService s = true ∧ domainOn s 5 = true ∧ rqOp body = 3 ∧ 32768 ≤ tagAhead (rqTag body)
    (sourceSt s node).expect) ∧
  (∃ (node : Nat) (body : List Byte) (s : State) (tag : Nat) (u : State), inService s = true ∧ domainOn s 5 = true ∧ (sourceSt s node).held =
    [] ∧ u = modSource s node (fun x => { x with fenced := false, held := [], expect := (tag + 1) % 65536 })) ∧
  (∃ (node : Nat) (body : List Byte) (s : State), ∃ tag b t, inService s = true ∧ domainOn s 5 = true ∧ (sourceSt s node).held = [(tag, b, t)]
    ∧ (sourceSt s node).waits = [] ∧ elapsed s t 10000000 = true ∧ tagAhead tag (sourceSt s node).expect = 1) ∧
  (∃ (node : Nat) (body : List Byte) (s : State), inService s = true ∧ domainOn s 5 = true ∧ (sourceSt s node).held = [] ∧ (sourceSt s
    node).waits = []) :=
  ⟨⟨0, [1, 0, 0, 0, 0, 1], { live with br.delayed := [some entry0] }, entry0, by decide, by decide, by decide, by decide, by decide, by decide,
    by decide, by decide⟩,
   ⟨0, [1, 0, 0, 15], live, by decide, by decide⟩,
   ⟨1, [0, 0, 0, 0, 0, 1, 0, 0, 0, 0, 0], { live with br.nodes := [{ node := 1, posts := [post0] }] }, post0, by decide, by decide, by decide,
    by decide⟩,
   ⟨1, [0, 0, 0, 0, 0, 1, 0, 0, 0, 0, 8], { live with br.nodes := [{ node := 1, posts := [post0] }] }, post0, 8, by decide, by decide,
    by decide, by decide, by decide⟩,
   ⟨1, [], { live with br.nodes := [{ node := 1, clearing := some (.mb0, 3, 0) }] }, .mb0, 3, 0, by decide, by decide⟩,
   ⟨0, [], later 50000000 { live with br.delayed := [some entry0] }, 0, entry0, by decide, by decide, by decide⟩,
   ⟨1, [], later 50000000 { live with br.nodes := [{ node := 1, posts := [post0] }] }, post0, by decide, by decide, by decide⟩,
   ⟨0, [], later 10000000 { live with br.delayed := [some { entry0 with done := some (0, true, [7], 0) }] }, 0,
    { entry0 with done := some (0, true, [7], 0) }, (0, true, [7], 0), by decide, by decide, by decide⟩,
   ⟨0, [1, 1, 0, 0, 0, 0, 0, 0, 0, 0, 1, 0], { live with bank.net.bridge.inbound := 1 }, by decide, by decide, by decide, by decide, by decide,
    by decide⟩,
   ⟨0, [1, 0, 0, 0, 0, 0, 0, 0, 0, 1, 1, 0], live, by decide, by decide, by decide, by decide, by decide, by decide⟩,
   ⟨1, [3], live, by decide, by decide, by decide, by decide, by decide, by decide⟩,
   ⟨1, [3, 0, 0x7F, 0xFF], live, by decide, by decide, by decide, by decide, by decide, by decide, by decide, by decide⟩,
   ⟨1, [3, 0, 0x80, 0], live, by decide, by decide, by decide, by decide⟩,
   ⟨1, [], live, 65535, _, by decide, by decide, by decide, rfl⟩,
   ⟨1, [], later 10000000 { live with br.sources := [{ node := 1, held := [(1, [], 0)] }] }, 1, ([] : List Byte), 0, by decide, by decide,
    by decide, by decide, by decide, by decide⟩,
   ⟨1, [], live, by decide, by decide, by decide, by decide⟩⟩

theorem witness_TunnelFramesHaveTheirEffect :
  (∃ (s : State) (i : Fin 4) (f : ForeignFrame) (ago : Nat) (e : Endpoint) (b : List Byte), ifOn s i.val = true ∧ inService s = true ∧
    effectsHeld s = false ∧ frameOfIf s i.val f = true ∧ (foreignBytes s i.val f).2.2 = true ∧ endpointFor s i.val f = some e ∧ b = [BitVec.ofNat
    8 e.peerEp, BitVec.ofNat 8 e.ep, BitVec.ofNat 8 (foreignBytes s i.val f).1, BitVec.ofNat 8 (b2n e.overrun)] ++ be16 e.seq ++ be16
    (foreignBytes s i.val f).2.1.length ++ beDWord (BitVec.ofInt 64 ((ax0 s).toInt - (ago : Int))) ++ (foreignBytes s i.val f).2.1 ∧ queued
    e.outQ + b.length ≤ 6144) ∧
  (∃ (s : State) (i : Fin 4) (f : ForeignFrame) (ago : Nat) (e : Endpoint) (b : List Byte), ifOn s i.val = true ∧ inService s = true ∧
    effectsHeld s = false ∧ frameOfIf s i.val f = true ∧ (foreignBytes s i.val f).2.2 = true ∧ endpointFor s i.val f = some e ∧ b = [BitVec.ofNat
    8 e.peerEp, BitVec.ofNat 8 e.ep, BitVec.ofNat 8 (foreignBytes s i.val f).1, BitVec.ofNat 8 (b2n e.overrun)] ++ be16 e.seq ++ be16
    (foreignBytes s i.val f).2.1.length ++ beDWord (BitVec.ofInt 64 ((ax0 s).toInt - (ago : Int))) ++ (foreignBytes s i.val f).2.1 ∧ 6144 <
    queued e.outQ + b.length) ∧
  (∃ (s : State) (i : Fin 4) (f : ForeignFrame) (ago : Nat), ifOn s i.val = true ∧ inService s = true ∧ effectsHeld s = false ∧ frameOfIf s
    i.val f = true ∧ (foreignBytes s i.val f).2.2 = false) ∧
  (∃ (s : State) (node : Nat) (body : List Byte), inService s = true ∧ endpoint s (getByte body 0) = none) ∧
  (∃ (s : State) (node : Nat) (body : List Byte) (e : Endpoint), inService s = true ∧ effectsHeld s = false ∧ endpoint s (getByte body 0) =
    some e ∧ e.peer = node ∧ e.peerEp = getByte body 1 ∧ 16 + getNat body 6 2 ≤ body.length ∧ e.lastSeq = none ∧ e.delay = 0 ∧ e.inQ = [] ∧
    getNat body 6 2 ≤ 6144) ∧
  (∃ (s : State) (ep : Fin 32) (ok : Bool) (e : Endpoint) (rx : Int) (frame : List Byte) (rest : List (Int × List Byte)), endpoint s ep.val =
    some e ∧ e.inQ = (rx, frame) :: rest ∧ inService s = true ∧ effectsHeld s = false ∧ ok = true ∧ ifOn s e.iface = true ∧ ¬ e.iface ∈
    s.br.busOff ∧ (e.delay = 0 ∨ rx + (e.delay : Int) * 1000 ≤ (ax0 s).toInt)) ∧
  (∃ (s : State) (ep : Fin 32) (ok : Bool) (e : Endpoint) (rx : Int) (frame : List Byte) (rest : List (Int × List Byte)), endpoint s ep.val =
    some e ∧ e.inQ = (rx, frame) :: rest ∧ inService s = true ∧ effectsHeld s = false ∧ ok = false ∧ e.delay = 0) ∧
  (∃ (s : State) (ep : Fin 32) (ok : Bool) (e : Endpoint) (rx : Int) (frame : List Byte) (rest : List (Int × List Byte)), endpoint s ep.val =
    some e ∧ e.inQ = (rx, frame) :: rest ∧ inService s = true ∧ effectsHeld s = false ∧ e.delay ≠ 0 ∧ (ax0 s).toInt < rx + (e.delay : Int) *
    1000) ∧
  (∃ (s : State) (i : Fin 4), i.val < 2 ∧ ifOn s i.val = true ∧ ¬ i.val ∈ s.br.busOff) ∧
  (∃ (s : State) (i : Fin 4), i.val < 2 ∧ ifOn s i.val = true ∧ i.val ∈ s.br.busOff) :=
  ⟨⟨{ live with bank.net.bridge.ifs := [[1], [1], [1], [1]], br.eps := [{ endpoint0 with iface := 3 }] }, 3, .async [1] true, 0,
    { endpoint0 with iface := 3 }, _, by decide +kernel, by decide +kernel, by decide +kernel, by decide +kernel, by decide +kernel,
    by decide +kernel, rfl, by decide +kernel⟩,
   ⟨{ live with bank.net.bridge.ifs := [[1], [1], [1], [1]], br.eps := [{ endpoint0 with iface := 3, outQ := [List.replicate 6144 0] }] }, 3,
    .async [1] true, 0, _, _, by decide +kernel, by decide +kernel, by decide +kernel, by decide +kernel, by decide +kernel, rfl, rfl,
    by decide +kernel⟩,
   ⟨{ live with bank.net.bridge.ifs := [[1], [1], [1], [1]], br.eps := [{ endpoint0 with iface := 3 }] }, 3, .async [] false, 0,
    by decide +kernel, by decide +kernel, by decide +kernel, by decide +kernel, by decide +kernel⟩,
   ⟨live, 0, [31], by decide +kernel, by decide +kernel⟩,
   ⟨{ live with bank.net.bridge.ifs := [[1], [1], [1], [1]], br.eps := [endpoint0] }, 0, [0, 0, 1, 0, 0, 0, 0, 1] ++ List.replicate 9 0,
    endpoint0, by decide +kernel, by decide +kernel, by decide +kernel, by decide +kernel, by decide +kernel, by decide +kernel,
    by decide +kernel, by decide +kernel, by decide +kernel, by decide +kernel⟩,
   ⟨{ live with bank.net.bridge.ifs := [[1], [1], [1], [1]], br.eps := [{ endpoint0 with inQ := [(0, [1, 2])] }] }, 0, true,
    { endpoint0 with inQ := [(0, [1, 2])] }, 0, [1, 2], [], by decide +kernel, by decide +kernel, by decide +kernel, by decide +kernel,
    by decide +kernel, by decide +kernel, by decide +kernel, by decide +kernel⟩,
   ⟨{ live with bank.net.bridge.ifs := [[1], [1], [1], [1]], br.eps := [{ endpoint0 with inQ := [(0, [1, 2])] }] }, 0, false,
    { endpoint0 with inQ := [(0, [1, 2])] }, 0, [1, 2], [], by decide +kernel, by decide +kernel, by decide +kernel, by decide +kernel,
    by decide +kernel, by decide +kernel⟩,
   ⟨{ live with bank.net.bridge.ifs := [[1], [1], [1], [1]], br.eps := [{ endpoint0 with delay := 1, inQ := [(0, [1, 2])] }] }, 0, false,
    { endpoint0 with delay := 1, inQ := [(0, [1, 2])] }, 0, [1, 2], [], by decide +kernel, by decide +kernel, by decide +kernel,
    by decide +kernel, by decide +kernel, by decide +kernel⟩,
   ⟨{ live with bank.net.bridge.ifs := [[1], [1], [1], [1]], br.eps := [endpoint0] }, 1, by decide +kernel, by decide +kernel,
    by decide +kernel⟩,
   ⟨{ live with br.busOff := [1], bank.net.bridge.ifs := [[1], [1], [1], [1]] }, 1, by decide +kernel, by decide +kernel, by decide +kernel⟩⟩

theorem witness_RecorderAndFaultsHaveTheirEffect :
  (∃ (s : State), ∃ h t reqs rest, s.modu.step7 = (h, t, reqs) :: rest) ∧
  (∃ (s : State), ∃ r rest, s.recd.staging = r :: rest ∧ bufferSize < bufferFill s + r.size) ∧
  (∃ (s : State), ∃ r rest u, s.recd.staging = r :: rest ∧ bufferFill s + r.size ≤ bufferSize ∧ r.flush = false ∧ s.pwr.failing = false ∧
    s.recd.held = [] ∧ s.recd.pfCause = none ∧ u =
    { s with recd := { s.recd with staging := rest, buffer := s.recd.buffer ++ [{ r with bufferedAt := rawNow s }] } } ∧ bufferFill u < 786432) ∧
  (∃ (s : State), s.recd.flushPending = true ∧ s.recd.flushing = none ∧ s.recd.buffer ≠ []) ∧
  (∃ (s : State), ∃ n, s.recd.flushing = some n) ∧
  (∃ (s : State), ∃ r, r ∈ s.recd.buffer ∧ elapsed s r.bufferedAt 1000000000 = true) ∧
  (∃ (s : State), s.recd.flushing = none ∧ s.pwr.failing = false) ∧
  (∃ (s : State), ∃ n r rest idx u, s.recd.flushing = some n ∧ s.recd.buffer = r :: rest ∧ s.pwr.failing = false ∧ idx = (if s.recd.keep then
    s.recd.index else dropOldest r.size s.recd.head s.recd.index) ∧ r.size ≤ ringFree s.recd.head idx ∧ u =
    { s with recd := { s.recd with buffer := rest, flushing := if n ≤ 1 then none else some (n - 1), index := idx ++ [(r.seq, s.recd.head,
                                   r.size)], tail := (idx.headD (0, s.recd.head, 0)).2.1, head :=
                                     storeBase + (s.recd.head - storeBase + r.size) % storeSize, newest := r.seq + 1, overwritten :=
                                     s.recd.overwritten + BitVec.ofNat 64 (s.recd.index.length - idx.length) } }) ∧
  (∃ (s : State), ∃ n r rest u, s.recd.flushing = some n ∧ s.recd.buffer = r :: rest ∧ s.pwr.failing = false ∧ s.recd.keep = true ∧ ringFree
    s.recd.head s.recd.index < r.size ∧ u = s.recd.flushWait.foldl (fun v w => resultMb v w.1 0x0A)
    { s with recd := { s.recd with flushing := none, storeFull := true, flushWait := [] } }) ∧
  (∃ (s : State) (f : FaultIn), s.modu.mode ≠ .bringup) ∧
  (∃ (s : State) (l : Lane) (hold : Bool) (w1 : Bool) (w2 : Bool) (x : FaultRec) (q : FaultQueue), takeFault (faultQueue s (.lane l)) (.lane l)
    = (some x, q)) ∧
  (∃ (s : State) (l : Lane) (hold : Bool) (w1 : Bool) (w2 : Bool) (q : FaultQueue), takeFault (faultQueue s (.lane l)) (.lane l) = (none, q)) ∧
  (∃ (s : State) (w1 : Bool) (w2 : Bool) (x : FaultRec) (q : FaultQueue), s.modu.wdExpired = false ∧ (faultQueue s .hub).hand = [] ∧ takeFault
    (faultQueue s .hub) .hub = (some x, q)) ∧
  (∃ (s : State) (hold : Bool) (w1 : Bool) (w2 : Bool), s.modu.wdExpired = false ∧ (faultQueue s .hub).hand ≠ []) ∧
  (∃ (s : State) (hold : Bool) (w1 : Bool) (w2 : Bool), s.modu.wdExpired = true) ∧
  (∃ (s : State) (row : Fin 9), s.modu.mode ≠ .bringup) :=
  ⟨⟨{ live with modu.step7 := [(0, 0, [])] }, 0, 0, [], [], by decide⟩,
   (let ⟨ws, h⟩ := words_of_length 262144
    ⟨{ live with recd.staging := [rec0], recd.buffer := [{ rec0 with words := ws }] }, rec0, [], rfl,

         by simp [bufferFill, bufferSize, RecRecord.size, rec0, h]⟩),
   ⟨{ live with recd.staging := [rec0] }, rec0, [], _, by decide, by decide, by decide, by decide, by decide, by decide, rfl, by decide⟩,
   ⟨{ live with recd.buffer := [rec0], recd.flushPending := true }, by decide, by decide, by decide⟩,
   ⟨{ live with recd.flushing := some 1 }, 1, by decide⟩,
   ⟨later 1000000000 { live with recd.buffer := [rec0] }, rec0, by decide, by decide⟩,
   ⟨live, by decide, by decide⟩,
   ⟨{ live with recd.buffer := [rec0], recd.flushing := some 1, recd.keep := true, recd.head := 0x1040, recd.index := [(1, 0x1000, 64)] }, 1,
    rec0, ([] : List RecRecord), _, _, by decide, by decide, by decide, rfl, by decide, rfl⟩,
   ⟨{ live with recd.buffer := [rec0], recd.flushing := some 1, recd.keep := true, recd.index := [(1, 0x1000, 64)] }, 1, rec0, ([] : List
    RecRecord), _, by decide, by decide, by decide, by decide, by decide, rfl⟩,
   ⟨live, fault0, by decide⟩,
   ⟨{ live with flt.laneQ.a := { queue := [{ fin := fault0 }] } }, .a, false, false, false, { fin := fault0 }, _, rfl⟩,
   ⟨live, .a, false, false, false, _, rfl⟩,
   ⟨{ live with flt.hubQ := { queue := [{ fin := fault0 }] } }, false, false, { fin := fault0 }, _, by decide, by decide, rfl⟩,
   ⟨{ live with flt.hubQ := { hand := [{ fin := fault0 }] } }, false, false, false, by decide, by decide⟩,
   ⟨{ live with modu.wdExpired := true }, false, false, false, by decide⟩,
   ⟨live, 0, by decide⟩⟩
end Sys2Proof.Tests
end

section
/-! SUPPORT. One register read or written through a port: the transaction of the host port and the access of the inbound engine
(R8, R9, R331, R357, R358, R372, R435 to R442). -/
namespace Sys2Proof.Machine

/-! ### What the opcode phase leaves alone (R436) -/

@[simp] theorem opcodePhase_vote (s : State) (tm : HostTiming) : (opcodePhase s tm).vote = s.vote := by
  simp only [opcodePhase, drainFifos, emit]
@[simp] theorem opcodePhase_recd (s : State) (tm : HostTiming) : (opcodePhase s tm).recd = s.recd := by
  simp only [opcodePhase, drainFifos, emit]
@[simp] theorem opcodePhase_flt (s : State) (tm : HostTiming) : (opcodePhase s tm).flt = s.flt := by
  simp only [opcodePhase, drainFifos, emit]
@[simp] theorem opcodePhase_pwr (s : State) (tm : HostTiming) : (opcodePhase s tm).pwr = s.pwr := by
  simp only [opcodePhase, drainFifos, emit]
@[simp] theorem opcodePhase_bring (s : State) (tm : HostTiming) : (opcodePhase s tm).bring = s.bring := by
  simp only [opcodePhase, drainFifos, emit]
@[simp] theorem opcodePhase_hp_irq (s : State) (tm : HostTiming) : (opcodePhase s tm).hp.irq = s.hp.irq := by
  simp only [opcodePhase, drainFifos, emit]
@[simp] theorem opcodePhase_hp_trig (s : State) (tm : HostTiming) : (opcodePhase s tm).hp.trig = s.hp.trig := by
  simp only [opcodePhase, drainFifos, emit]
@[simp] theorem opcodePhase_hp_mbxChg (s : State) (tm : HostTiming) : (opcodePhase s tm).hp.mbxChg = s.hp.mbxChg := by
  simp only [opcodePhase, drainFifos, emit]
@[simp] theorem opcodePhase_hp_slots (s : State) (tm : HostTiming) : (opcodePhase s tm).hp.slots = s.hp.slots := by
  simp only [opcodePhase, drainFifos, emit]

/-! ### The latest port error (R441) -/

@[simp] theorem hostError_hp_cause (s : State) (cause word : Nat) : (hostError s cause word).hp.cause = cause := rfl
/-- Writing back the error that stands there changes nothing. -/
theorem hostError_same {s : State} {cause word : Nat} (hc : s.hp.cause = cause) (hw : s.hp.word = word) :
    hostError s cause word = s := by
  subst hc hw; rfl

/-! ### An access of one word (R439) -/

theorem accessAddrs_one (a : Nat) : accessAddrs a 1 = [a] := by simp [accessAddrs]

/-- A misaligned address is reserved. -/
theorem aligned_of_peek_isSome {s : State} {p : Port} {a : Nat} (h : (peek s p a).isSome) : a % 4 = 0 := by
  refine Decidable.byContradiction fun h4 => absurd h ?_
  simp [peek, h4]

/-- A read of an aligned register other than AXn_VAL_HI gives what it peeks as, and takes its effect with it. -/
theorem regRead_eq {a : Nat} (s : State) (p : Port) (hv : isValHi a = false) (h4 : a % 4 = 0) :
    regRead s p a = (peek s p a, readEffect s p a) := by
  simp [regRead, hv, h4]

theorem regReads_one {a : Nat} (s : State) (p : Port) (ha : a < 0x800000) :
    regReads p [a] s = ([(regRead s p a).1.getD 0], (regRead s p a).2) := by
  have : a ≤ 0x7FFFFF := by omega
  simp [regReads, this]

/-- A write of one word that leaves no error restores the error that stood in HP_STAT before it. -/
theorem hostWrites_one {s t : State} {a : Nat} {w : Word} (ha : a < 0x800000)
    (h : regWrite (hostError s 0 s.hp.word) .host 0 a w 0 = hostError t 0 s.hp.word) :
    hostWrites 0 false [(a, w)] s = hostError t s.hp.cause s.hp.word := by
  have ha : a ≤ 0x7FFFFF := by omega
  have h' : regWrite { s with hp := { s.hp with cause := 0 } } .host 0 a w 0 = hostError t 0 s.hp.word := h
  simp only [hostWrites, ha, if_true, h', hostError_hp_cause, decide_true, bne_self_eq_false, Bool.and_true, Bool.not_false]
  rfl

/-! ### One register through a port -/

/-- A register read through the host port: the opcode phase, what the read takes with it, and the word with the status byte. -/
theorem portRead_host {s u v : State} {a : Nat} {w : Word} (hd : domainOn s 1 = true) (hu : u = opcodePhase s {}) (ha : a < 0x800000)
    (hv : isValHi a = false) (hp : peek u .host a = some w) (he : v = readEffect u .host a) :
    portRead s .host a = emit v (.hostData (statusByte v false false false false) [w]) := by
  have h4 : a % 4 = 0 := aligned_of_peek_isSome (by rw [hp]; rfl)
  have haddr : (BitVec.ofNat 24 a).toNat = a := by rw [BitVec.toNat_ofNat]; omega
  have hwin : ¬ 0x800000 ≤ a := by omega
  simp [portRead, hostRead, hd, haddr, h4, fetchWords, hwin, hp, accessAddrs_one, regReads_one _ _ ha, regRead_eq _ _ hv h4, he, ← hu]

/-- A register read by the inbound engine: only what the read takes with it. -/
theorem portRead_bridge {s : State} {a : Nat} (hd : domainOn s 1 = true) (hv : isValHi a = false) (h4 : a % 4 = 0) :
    portRead s .bridge a = readEffect s .bridge a := by
  simp [portRead, hd, regRead_eq _ _ hv h4]

/-- A register written through the host port without an error: the opcode phase, then the write, with HP_STAT as it was. -/
theorem portWrite_host {s u t : State} {a : Nat} {w : Word} (hd : domainOn s 1 = true) (hu : u = opcodePhase s {}) (ha : a < 0x800000)
    (hp : (peek u .host a).isSome) (hw : regWrite (hostError u 0 u.hp.word) .host 0 a w 0 = hostError t 0 u.hp.word)
    (hcause : t.hp.cause = u.hp.cause) (hword : t.hp.word = u.hp.word) :
    portWrite s .host a w = t := by
  have h4 : a % 4 = 0 := aligned_of_peek_isSome hp
  have haddr : (BitVec.ofNat 24 a).toNat = a := by rw [BitVec.toNat_ofNat]; omega
  have hwin : ¬ 0x800000 ≤ a := by omega
  have hreserved : (peek u .host a).isNone = false := by simpa using hp
  have hone : hostWrites 0 false [(a, w)] u = t := (hostWrites_one ha hw).trans (hostError_same hcause hword)
  simp [portWrite, hostWrite, hd, haddr, takeWords, h4, hwin, hreserved, accessAddrs_one, hone, ← hu]

/-- A register written by the inbound engine, outside MB0. -/
theorem portWrite_bridge {s : State} {a : Nat} {w : Word} (hd : domainOn s 1 = true) (hm : 0x218 < a ∨ a < 0x200) :
    portWrite s .bridge a w = regWrite s .bridge 0 a w 0 := by
  have hmb0 : ¬ (0x200 ≤ a ∧ a ≤ 0x218) := by omega
  simp only [portWrite, hd, Bool.true_and, ← Bool.decide_and, hmb0, decide_false, Bool.not_false, if_true]

/-! ### What the registers read as, what their reads take, and what their writes do, once the boot ROM has passed (R442) -/

section
variable {s : State} (p : Port) (hb : s.bring.bootFail = false)
include hb

theorem peek_modHarvestHi : peek s p 0x10C = some (hi32 s.vote.harvest) := by simp [peek, hb]
theorem readEffect_modHarvestHi :
    readEffect s p 0x10C = { s with hp := { s.hp with harvestLo := lo32 s.vote.harvest } } := by simp [readEffect, hb]

theorem peek_mbxVal (n : Fin 16) : peek s p (0x140 + 8 * n.val) = some (s.hp.slots.getD n.val {}).val := by
  have h4 : (8 * n.val + 0x140) % 4 = 0 := by omega
  have h8 : (8 * n.val + 0x140) % 8 = 0 := by omega
  have hrange : 8 * n.val + 0x140 < 0x1C0 := by omega
  simp [Nat.add_comm 0x140, peek, hb, h4, h8, hrange]
theorem readEffect_mbxVal (n : Fin 16) : readEffect s p (0x140 + 8 * n.val)
    = { s with hp := { s.hp with slots := upd s.hp.slots n.val (fun x => { x with lat := x.q }) } } := by
  have h8 : (8 * n.val + 0x140) % 8 = 0 := by omega
  have hrange : 8 * n.val + 0x140 < 0x1C0 := by omega
  simp [Nat.add_comm 0x140, readEffect, hb, h8, hrange]

theorem peek_recData : peek s p 0x40C = some (readRecData s p).1 := by simp [peek, hb]
theorem readEffect_recData : readEffect s p 0x40C = (readRecData s p).2 := by simp [readEffect, hb]

theorem peek_brLogData : peek s p 0x50C = some (readBrLog s).1 := by simp [peek, hb]
theorem readEffect_brLogData : readEffect s p 0x50C = (readBrLog s).2 := by simp [readEffect, hb]

theorem peek_wakeStat : peek s p 0x604 = some (wakeStat s) := by simp [peek, hb]
theorem readEffect_wakeStat : readEffect s p 0x604 = { s with pwr := { s.pwr with count := 0 } } := by simp [readEffect, hb]

theorem peek_fltLogData : peek s p 0x718 = some (readLogData s p).1 := by simp [peek, hb]
theorem readEffect_fltLogData : readEffect s p 0x718 = (readLogData s p).2 := by simp [readEffect, hb]

/-- The registers that the single writes name are not reserved. -/
theorem peek_isSome_of_written {a : Nat} (ha : a ∈ [0x104, 0x108, 0x118, 0x11C, 0x408, 0x700, 0x714]) : (peek s p a).isSome := by
  simp only [List.mem_cons, List.not_mem_nil, or_false] at ha
  rcases ha with rfl | rfl | rfl | rfl | rfl | rfl | rfl <;> simp [peek, hb]

theorem peek_pageCfg (n : Fin 16) : peek s p (0x580 + 8 * n.val) = some (pageCfgWord s n.val) := by
  have h4 : (8 * n.val + 0x580) % 4 = 0 := by omega
  have h8 : (8 * n.val + 0x580) % 8 = 0 := by omega
  have hrange : 8 * n.val + 0x580 < 0x600 := by omega
  have hlow (k : Nat) (hk : k ≤ 0x580) : ¬ 8 * n.val + 0x580 < k := by omega
  simp [Nat.add_comm 0x580, peek, hb, h4, h8, hrange, hlow]

variable (node : Nat) (w : Word) (drained : Nat)

theorem regWrite_modIrq :
    regWrite s p node 0x104 w drained = { s with hp := { s.hp with irq := s.hp.irq &&& ~~~w } } := by simp [regWrite, hb]
theorem regWrite_modIrqEn :
    regWrite s p node 0x108 w drained = { s with hp := { s.hp with irqEn := w &&& 0x7FFF } } := by simp [regWrite, hb]
theorem regWrite_modTrigLo :
    regWrite s p node 0x118 w drained = { s with hp := { s.hp with trig := s.hp.trig &&& ~~~(0#32 ++ w) } } := by simp [regWrite, hb]
theorem regWrite_mbxChg :
    regWrite s p node 0x11C w drained = { s with hp := { s.hp with mbxChg := s.hp.mbxChg &&& ~~~(w.setWidth 16) } } := by
  simp [regWrite, hb]
theorem regWrite_recCursorLo : regWrite s p node 0x408 w drained = setRecReader s p ((recReader s p).seek w) := by
  simp [regWrite, hb]
theorem regWrite_fltCursorLo : regWrite s p node 0x714 w drained = setFltReader s p ((fltReader s p).seek w) := by
  simp [regWrite, hb]
/-- A write of FLT_SUM with CLEAR set. -/
theorem regWrite_fltSum_clear (hw : w.getLsbD 27 = true) :
    regWrite s p node 0x700 w drained = { s with flt := { s.flt with latched := 0, count := 0 } } := by simp [regWrite, hb, hw]
theorem regWrite_pageCfg (n : Fin 16) : regWrite s p node (0x580 + 8 * n.val) w drained = writePageCfg s n.val w := by
  have h4 : (8 * n.val + 0x580) % 4 = 0 := by omega
  have h8 : (8 * n.val + 0x580) % 8 = 0 := by omega
  have hrange : 8 * n.val + 0x580 < 0x600 := by omega
  have hlow (k : Nat) (hk : k ≤ 0x580) : ¬ 8 * n.val + 0x580 < k := by omega
  simp [Nat.add_comm 0x580, regWrite, hb, h4, h8, hrange, hlow]
end

/-- A write to BR_PAGEn_CFG leaves the host port alone. -/
@[simp] theorem writePageCfg_hp (s : State) (n : Nat) (w : Word) : (writePageCfg s n w).hp = s.hp := by
  simp only [writePageCfg]; split <;> rfl
/-- A write to BR_PAGEn_CFG does not look at HP_STAT. -/
theorem writePageCfg_hostError (s : State) (cause word n : Nat) (w : Word) :
    writePageCfg (hostError s cause word) n w = hostError (writePageCfg s n w) cause word := by
  have hok (train : Bool) (node : Nat) : pagePermitted (hostError s cause word) train node = pagePermitted s train node := rfl
  simp only [writePageCfg, hok]; split <;> rfl

/-! ### Single registers (O27) -/

/-- Settles O27: every single read and write is one access of its port, to a register whose row of the map is known. -/
theorem registersHaveTheirEffect : Obligations.RegistersHaveTheirEffect := by
  unfold Obligations.RegistersHaveTheirEffect
  refine ⟨?hostReads, ?bridgeReads, ?writes⟩
  case hostReads =>
    intro s u v hd hb hu
    have hbu : u.bring.bootFail = false := by rw [hu, opcodePhase_bring, hb]
    have hvote : s.vote = u.vote := by rw [hu, opcodePhase_vote]
    have hslots : s.hp.slots = u.hp.slots := by rw [hu, opcodePhase_hp_slots]
    have hpwr : s.pwr = u.pwr := by rw [hu, opcodePhase_pwr]
    have hwake : wakeStat s = wakeStat u := by simp only [wakeStat, hpwr]
    simp only [hvote, hslots, hwake, hpwr]
    refine ⟨fun hv => ?_, fun n hv => ?_, fun hv => ?_, fun hv => ?_, fun hv => ?_, fun hv => ?_, fun addr w ha hx hp hv => ?_⟩
    · rw [← readEffect_modHarvestHi .host hbu] at hv
      exact congrArg Host.Outcome.next (portRead_host hd hu (by decide) (by decide) (peek_modHarvestHi .host hbu) hv)
    · rw [← readEffect_mbxVal .host hbu n] at hv
      have hx : isValHi (0x140 + 8 * n.val) = false := by simp only [isValHi, Bool.and_eq_false_iff, decide_eq_false_iff_not]; omega
      exact congrArg Host.Outcome.next (portRead_host hd hu (by omega) hx (peek_mbxVal .host hbu n) hv)
    · rw [← readEffect_recData .host hbu] at hv
      exact congrArg Host.Outcome.next (portRead_host hd hu (by decide) (by decide) (peek_recData .host hbu) hv)
    · rw [← readEffect_fltLogData .host hbu] at hv
      exact congrArg Host.Outcome.next (portRead_host hd hu (by decide) (by decide) (peek_fltLogData .host hbu) hv)
    · rw [← readEffect_brLogData .host hbu] at hv
      exact congrArg Host.Outcome.next (portRead_host hd hu (by decide) (by decide) (peek_brLogData .host hbu) hv)
    · rw [← readEffect_wakeStat .host hbu] at hv
      exact congrArg Host.Outcome.next (portRead_host hd hu (by decide) (by decide) (peek_wakeStat .host hbu) hv)
    · rw [exec_rcFieldRead, execRcFieldRead, if_pos ha, portRead_host hd hu ha hx hp hv]
  case bridgeReads =>
    intro s hd hb
    refine ⟨?_, ?_, ?_⟩
    · exact congrArg Host.Outcome.next ((portRead_bridge hd (by decide) (by decide)).trans (readEffect_recData .bridge hb))
    · exact congrArg Host.Outcome.next ((portRead_bridge hd (by decide) (by decide)).trans (readEffect_fltLogData .bridge hb))
    · exact congrArg Host.Outcome.next ((portRead_bridge hd (by decide) (by decide)).trans (readEffect_wakeStat .bridge hb))
  case writes =>
    intro w s u hd hb hu
    have hbu : u.bring.bootFail = false := by rw [hu, opcodePhase_bring, hb]
    have hbe : (hostError u 0 u.hp.word).bring.bootFail = false := hbu
    have hnamed {a : Nat} (ha : a ∈ [0x104, 0x108, 0x118, 0x11C, 0x408, 0x700, 0x714]) : (peek u .host a).isSome :=
      peek_isSome_of_written .host hbu ha
    have hrec : recReader s .host = recReader u .host := by simp only [recReader, hu, opcodePhase_recd]
    have hlog : fltReader s .host = fltReader u .host := by simp only [fltReader, hu, opcodePhase_flt]
    have hflt : s.flt = u.flt := by rw [hu, opcodePhase_flt]
    have hirq : s.hp.irq = u.hp.irq := by rw [hu, opcodePhase_hp_irq]
    have htrig : s.hp.trig = u.hp.trig := by rw [hu, opcodePhase_hp_trig]
    have hchg : s.hp.mbxChg = u.hp.mbxChg := by rw [hu, opcodePhase_hp_mbxChg]
    refine ⟨?_, ?_, ?_, ?_, ?_, ?_, ?_, ?_, ?_, ?_, fun n => ?_⟩
    · rw [hrec]
      exact congrArg Host.Outcome.next
        (portWrite_host hd hu (by decide) (hnamed (by decide)) (regWrite_recCursorLo .host hbe 0 w 0) rfl rfl)
    · exact congrArg Host.Outcome.next ((portWrite_bridge hd (by decide)).trans (regWrite_recCursorLo .bridge hb 0 w 0))
    · rw [hlog]
      exact congrArg Host.Outcome.next
        (portWrite_host hd hu (by decide) (hnamed (by decide)) (regWrite_fltCursorLo .host hbe 0 w 0) rfl rfl)
    · exact congrArg Host.Outcome.next ((portWrite_bridge hd (by decide)).trans (regWrite_fltCursorLo .bridge hb 0 w 0))
    · rw [hflt]
      exact congrArg Host.Outcome.next
        (portWrite_host hd hu (by decide) (hnamed (by decide)) (regWrite_fltSum_clear .host hbe 0 _ 0 (by decide)) rfl rfl)
    · rw [hirq]
      exact congrArg Host.Outcome.next
        (portWrite_host hd hu (by decide) (hnamed (by decide)) (regWrite_modIrq .host hbe 0 w 0) rfl rfl)
    · exact congrArg Host.Outcome.next
        (portWrite_host hd hu (by decide) (hnamed (by decide)) (regWrite_modIrqEn .host hbe 0 w 0) rfl rfl)
    · rw [htrig]
      exact congrArg Host.Outcome.next
        (portWrite_host hd hu (by decide) (hnamed (by decide)) (regWrite_modTrigLo .host hbe 0 w 0) rfl rfl)
    · rw [hchg]
      exact congrArg Host.Outcome.next
        (portWrite_host hd hu (by decide) (hnamed (by decide)) (regWrite_mbxChg .host hbe 0 w 0) rfl rfl)
    · exact congrArg Host.Outcome.next ((portWrite_bridge hd (by decide)).trans (regWrite_modIrq .bridge hb 0 w 0))
    · have hpage : (peek u .host (0x580 + 8 * n.val)).isSome := by rw [peek_pageCfg .host hbu n]; rfl
      have hw := (regWrite_pageCfg .host hbe 0 w 0 n).trans (writePageCfg_hostError _ _ _ n.val w)
      exact congrArg Host.Outcome.next (portWrite_host hd hu (by omega) hpage hw (by rw [writePageCfg_hp]) (by rw [writePageCfg_hp]))

end Sys2Proof.Machine
end

section
/-! SUPPORT. What every command keeps: the queue it is given, the canonical form of the memories, and for a command that
mayWriteMemory does not name their contents outside the control copies of the fault log (R21, R202, R363, R373). -/
namespace Sys2Proof.Machine

/-- What a command is to keep of a queue and of the memories' contents: the contents only where it is not one that may write them. -/
def keptBy (c : Instr) (queue : List Instr) (mem : Option (List Host.Cell × List Host.Cell)) : Kept :=
  ⟨queue, bif mayWriteMemory c then none else mem⟩

/-- Every command keeps what it is to keep, arm by arm of the dispatch. -/
theorem exec_keeps {queue : List Instr} {mem : Option (List Host.Cell × List Host.Cell)} (s : State) :
    ∀ c : Instr, Keeps (keptBy c queue mem) s → KeepsO (keptBy c queue mem) (exec c s)
  | .getInfo mb, hs => execGetInfo_keeps mb s hs
  | .getStatus mb, hs => execGetStatus_keeps mb s hs
  | .moduleReset mb, hs => execModuleReset_keeps mb s hs
  | .resetExecute mb, hs => execResetExecute_keeps mb s hs
  | .sessionOpen mb, hs => execSessionOpen_keeps mb s hs
  | .sessionClose mb, hs => execSessionClose_keeps mb s hs
  | .sessionInactivity mb, hs => execSessionInactivity_keeps mb s hs
  | .safeAck mb, hs => execSafeAck_keeps mb s hs
  | .start mb, hs => execStart_keeps mb s hs
  | .progBegin mb, hs => execProgBegin_keeps mb s hs
  | .progData mb, hs => execProgData_keeps mb s hs
  | .progEnd mb, hs => execProgEnd_keeps mb s hs
  | .progActivate mb, hs => execProgActivate_keeps mb s hs
  | .progDiscard mb, hs => execProgDiscard_keeps mb s hs
  | .progInfo mb, hs => execProgInfo_keeps mb s hs
  | .cfgBegin mb, hs => execCfgBegin_keeps mb s hs
  | .cfgData mb, hs => execCfgData_keeps mb s hs
  | .cfgEnd mb, hs => execCfgEnd_keeps mb s hs
  | .cfgSwap mb, hs => execCfgSwap_keeps mb s hs
  | .cfgRead mb, hs => execCfgRead_keeps mb s hs
  | .forceSet mb, hs => execForceSet_keeps mb s hs
  | .forceClear mb, hs => execForceClear_keeps mb s hs
  | .forceList mb, hs => execForceList_keeps mb s hs
  | .axisStep mb, hs => execAxisStep_keeps mb s hs
  | .axisScale mb, hs => execAxisScale_keeps mb s hs
  | .axisSource mb, hs => execAxisSource_keeps mb s hs
  | .trigArm mb, hs => execTrigArm_keeps mb s hs
  | .trigCancel mb, hs => execTrigCancel_keeps mb s hs
  | .netStatus mb, hs => execNetStatus_keeps mb s hs
  | .slotClaim mb, hs => execSlotClaim_keeps mb s hs
  | .slotClaimTimeout mb, hs => execSlotClaimTimeout_keeps mb s hs
  | .portRelease mb, hs => execPortRelease_keeps mb s hs
  | .ptpStatus mb, hs => execPtpStatus_keeps mb s hs
  | .recFlush mb, hs => execRecFlush_keeps mb s hs
  | .recClear mb, hs => execRecClear_keeps mb s hs
  | .recInfo mb, hs => execRecInfo_keeps mb s hs
  | .pwrVote mb, hs => execPwrVote_keeps mb s hs
  | .pwrStatus mb, hs => execPwrStatus_keeps mb s hs
  | .dutySet mb, hs => execDutySet_keeps mb s hs
  | .pairStatus mb, hs => execPairStatus_keeps mb s hs
  | .pairSwitch mb, hs => execPairSwitch_keeps mb s hs
  | .pairResync mb, hs => execPairResync_keeps mb s hs
  | .flowOpen mb, hs => execFlowOpen_keeps mb s hs
  | .flowClose mb, hs => execFlowClose_keeps mb s hs
  | .mixSet mb, hs => execMixSet_keeps mb s hs
  | .chStatus mb, hs => execChStatus_keeps mb s hs
  | .chTest mb, hs => execChTest_keeps mb s hs
  | .selftestRun mb, hs => execSelftestRun_keeps mb s hs
  | .dbgAttach mb, hs => execDbgAttach_keeps mb s hs
  | .dbgDetach mb, hs => execDbgDetach_keeps mb s hs
  | .laneStatus mb, hs => execLaneStatus_keeps mb s hs
  | .tunnelOpen mb, hs => execTunnelOpen_keeps mb s hs
  | .tunnelClose mb, hs => execTunnelClose_keeps mb s hs
  | .fenceClear mb, hs => execFenceClear_keeps mb s hs
  | .fenceClearTimeout mb, hs => execFenceClearTimeout_keeps mb s hs
  | .badCmd mb, hs => execBadCmd_keeps mb s hs
  | .mbDataWrite mb src w drained, hs => execMbDataWrite_keeps mb src w drained s hs
  | .mbDataRead mb src, hs => execMbDataRead_keeps mb src s hs
  | .mbCtrlAck mb src, hs => execMbCtrlAck_keeps mb src s hs
  | .mbCtrlAbort mb src, hs => execMbCtrlAbort_keeps mb src s hs
  | .read addr count tm, hs => execRead_keeps addr count tm s hs
  | .write addr words tm, hs => execWrite_keeps addr words tm s hs
  | .quadRead addr count tm, hs => execQuadRead_keeps addr count tm s hs
  | .quadWrite addr words tm, hs => execQuadWrite_keeps addr words tm s hs
  | .status tm, hs => execStatus_keeps tm s hs
  | .badOpcode op, hs => execBadOpcode_keeps op s hs
  | .registerWrite port addr w, hs => execRegisterWrite_keeps port addr w s hs
  | .rcFieldRead port addr, hs => execRcFieldRead_keeps port addr s hs
  | .snap, hs => execSnap_keeps s hs
  | .axnValHiRead n, hs => execAxnValHiRead_keeps n s hs
  | .modHarvestHiRead, hs => execModHarvestHiRead_keeps s hs
  | .mbxnValRead n, hs => execMbxnValRead_keeps n s hs
  | .recCursorLoWrite port w, hs => execRecCursorLoWrite_keeps port w s hs
  | .recDataRead port, hs => execRecDataRead_keeps port s hs
  | .fltCursorLoWrite port w, hs => execFltCursorLoWrite_keeps port w s hs
  | .fltLogDataRead port, hs => execFltLogDataRead_keeps port s hs
  | .clear, hs => execClear_keeps s hs
  | .brLogDataRead, hs => execBrLogDataRead_keeps s hs
  | .brPagenCfgWrite n w, hs => execBrPagenCfgWrite_keeps n w s hs
  | .remoteWindowRead addr count, hs => execRemoteWindowRead_keeps addr count s hs
  | .remoteWindowWrite addr words, hs => execRemoteWindowWrite_keeps addr words s hs
  | .post addr words, hs => execPost_keeps addr words s hs
  | .timingTick, hs => execTimingTick_keeps s hs
  | .triggerFiring n, hs => execTriggerFiring_keeps n s hs
  | .release t, hs => execRelease_keeps t s hs
  | .timingInputEdge ti rising width both half, hs => execTimingInputEdge_keeps ti rising width both half s hs
  | .zeroCrossing ch, hs => execZeroCrossing_keeps ch s hs
  | .lost, hs => execLost_keeps s hs
  | .holdoverLimit, hs => execHoldoverLimit_keeps s hs
  | .releaseStampArrival a, hs => execReleaseStampArrival_keeps a s hs
  | .panDispatch l block pan xbar, hs => execPanDispatch_keeps l block pan xbar s hs
  | .instanceCommit l block pan agree xbar, hs => execInstanceCommit_keeps l block pan agree xbar s hs
  | .wakeMessage l k xbar, hs => execWakeMessage_keeps l k xbar s hs
  | .commitTimeout l block pan, hs => execCommitTimeout_keeps l block pan s hs
  | .eccError l mem block addr fixed, hs => execEccError_keeps l mem block addr fixed s hs
  | .taskWatchdogExpiry l t, hs => execTaskWatchdogExpiry_keeps l t s hs
  | .laneFrameArrival p l t fate, hs => execLaneFrameArrival_keeps p l t fate s hs
  | .voteDeadline p t, hs => execVoteDeadline_keeps p t s hs
  | .comparatorNoVerdict p t, hs => execComparatorNoVerdict_keeps p t s hs
  | .checkpointPage fate, hs => execCheckpointPage_keeps fate s hs
  | .retainedWrite, hs => execRetainedWrite_keeps s hs
  | .restartSelftestDone l fail retired, hs => execRestartSelftestDone_keeps l fail retired s hs
  | .checkpointLoadDone, hs => execCheckpointLoadDone_keeps s hs
  | .resetHoldExpiry l, hs => execResetHoldExpiry_keeps l s hs
  | .rejoinLoadDone l ok, hs => execRejoinLoadDone_keeps l ok s hs
  | .injectionTestTimer, hs => execInjectionTestTimer_keeps s hs
  | .injectionTestResult seen, hs => execInjectionTestResult_keeps seen s hs
  | .ackEdge rcv src highNs stepped, hs => execAckEdge_keeps rcv src highNs stepped s hs
  | .ackReport l src, hs => execAckReport_keeps l src s hs
  | .ackJammed rcv src, hs => execAckJammed_keeps rcv src s hs
  | .ackJamClear src, hs => execAckJamClear_keeps src s hs
  | .safeTelegramReceive p bytes, hs => execSafeTelegramReceive_keeps p bytes s hs
  | .stagingComplete same, hs => execStagingComplete_keeps same s hs
  | .switchWithoutRelease t, hs => execSwitchWithoutRelease_keeps t s hs
  | .bankDigestReport l same, hs => execBankDigestReport_keeps l same s hs
  | .sampleStrobe mv ma, hs => execSampleStrobe_keeps mv ma s hs
  | .stuck ch, hs => execStuck_keeps ch s hs
  | .sampleFrameReceive l good, hs => execSampleFrameReceive_keeps l good s hs
  | .driveFrameSend l, hs => execDriveFrameSend_keeps l s hs
  | .driveFrameReceive l good, hs => execDriveFrameReceive_keeps l good s hs
  | .driveLinkTimeout l, hs => execDriveLinkTimeout_keeps l s hs
  | .disagree ch times, hs => execDisagree_keeps ch times s hs
  | .supplyFault g, hs => execSupplyFault_keeps g s hs
  | .supplyGood g, hs => execSupplyGood_keeps g s hs
  | .groupOverload g, hs => execGroupOverload_keeps g s hs
  | .overload ch limit, hs => execOverload_keeps ch limit s hs
  | .overtemp ch, hs => execOvertemp_keeps ch s hs
  | .tripLatchClear ch retry cool, hs => execTripLatchClear_keeps ch retry cool s hs
  | .openWire ch seen, hs => execOpenWire_keeps ch seen s hs
  | .rbErr ch wrong, hs => execRbErr_keeps ch wrong s hs
  | .testPeriod l ch, hs => execTestPeriod_keeps l ch s hs
  | .testWidthExpiry ch, hs => execTestWidthExpiry_keeps ch s hs
  | .testOverdue ch, hs => execTestOverdue_keeps ch s hs
  | .gswTest g phase, hs => execGswTest_keeps g phase s hs
  | .modStuck ch, hs => execModStuck_keeps ch s hs
  | .measurementBlock ch bits, hs => execMeasurementBlock_keeps ch bits s hs
  | .mixerFrame bits tdmi, hs => execMixerFrame_keeps bits tdmi s hs
  | .flowPacketReceive node body, hs => execFlowPacketReceive_keeps node body s hs
  | .flovisFrameIngress port bytes, hs => execFlovisFrameIngress_keeps port bytes s hs
  | .frameCut port slotEnd, hs => execFrameCut_keeps port slotEnd s hs
  | .quarantineEnd port, hs => execQuarantineEnd_keeps port s hs
  | .flovisFrameReceive p bytes, hs => execFlovisFrameReceive_keeps p bytes s hs
  | .referenceReceive p bytes, hs => execReferenceReceive_keeps p bytes s hs
  | .coldstartReceive p bytes, hs => execColdstartReceive_keeps p bytes s hs
  | .listenTimerExpiry, hs => execListenTimerExpiry_keeps s hs
  | .contentionEnd, hs => execContentionEnd_keeps s hs
  | .referenceLoss p, hs => execReferenceLoss_keeps p s hs
  | .slotTransmit slot, hs => execSlotTransmit_keeps slot s hs
  | .rankDeadline p, hs => execRankDeadline_keeps p s hs
  | .delayReq port, hs => execDelayReq_keeps port s hs
  | .delayResp port bytes, hs => execDelayResp_keeps port bytes s hs
  | .claim port bytes, hs => execClaim_keeps port bytes s hs
  | .grant p bytes, hs => execGrant_keeps p bytes s hs
  | .leaseLapse p slot, hs => execLeaseLapse_keeps p slot s hs
  | .scheduleSwitch, hs => execScheduleSwitch_keeps s hs
  | .ptpSync m, hs => execPtpSync_keeps m s hs
  | .ptpDelayResp m, hs => execPtpDelayResp_keeps m s hs
  | .announce m, hs => execAnnounce_keeps m s hs
  | .announceReceiptTimeout, hs => execAnnounceReceiptTimeout_keeps s hs
  | .portAltMove, hs => execPortAltMove_keeps s hs
  | .portReturn, hs => execPortReturn_keeps s hs
  | .ptpMasterSend isAnnounce, hs => execPtpMasterSend_keeps isAnnounce s hs
  | .topology line m, hs => execTopology_keeps line m s hs
  | .topologyTimeout, hs => execTopologyTimeout_keeps s hs
  | .trdpPdReceive line h data, hs => execTrdpPdReceive_keeps line h data s hs
  | .trdpPrReceive line src h, hs => execTrdpPrReceive_keeps line src h s hs
  | .trdpPublish g, hs => execTrdpPublish_keeps g s hs
  | .trdpMrReceive src comId data, hs => execTrdpMrReceive_keeps src comId data s hs
  | .trdpMnReceive src comId data, hs => execTrdpMnReceive_keeps src comId data s hs
  | .freshnessEvaluation, hs => execFreshnessEvaluation_keeps s hs
  | .arpExpiry ip unresolved, hs => execArpExpiry_keeps ip unresolved s hs
  | .reassemblyTimeout id, hs => execReassemblyTimeout_keeps id s hs
  | .inboundRequest node body, hs => execInboundRequest_keeps node body s hs
  | .remoteAccessResponse node body, hs => execRemoteAccessResponse_keeps node body s hs
  | .credit node body, hs => execCredit_keeps node body s hs
  | .resync node tag, hs => execResync_keeps node tag s hs
  | .resyncDone node tag, hs => execResyncDone_keeps node tag s hs
  | .reqTimeout what, hs => execReqTimeout_keeps what s hs
  | .discardMs entry, hs => execDiscardMs_keeps entry s hs
  | .seqGap node, hs => execSeqGap_keeps node s hs
  | .foreignFrameReceive iface f ago, hs => execForeignFrameReceive_keeps iface f ago s hs
  | .tunnelContainerReceive node body, hs => execTunnelContainerReceive_keeps node body s hs
  | .replay ep ok, hs => execReplay_keeps ep ok s hs
  | .busOff iface entered, hs => execBusOff_keeps iface entered s hs
  | .recorderFiring, hs => execRecorderFiring_keeps s hs
  | .stagedMove, hs => execStagedMove_keeps s hs
  | .flushStart, hs => execFlushStart_keeps s hs
  | .flushRecordWritten, hs => execFlushRecordWritten_keeps s hs
  | .recordAge, hs => execRecordAge_keeps s hs
  | .faultRecord f, hs => execFaultRecord_keeps f s hs
  | .faultHandle r hold w1 w2, hs => execFaultHandle_keeps r hold w1 w2 s hs
  | .supervisorWatchdog, hs => execSupervisorWatchdog_keeps s hs
  | .ledgerImbalance row, hs => execLedgerImbalance_keeps row s hs
  | .powerFail vsys, hs => execPowerFail_keeps vsys s hs
  | .powerReturn vsysMv, hs => execPowerReturn_keeps vsysMv s hs
  | .domainShedStep, hs => execDomainShedStep_keeps s hs
  | .domainRestore res, hs => execDomainRestore_keeps res s hs
  | .minOnExpiry d, hs => execMinOnExpiry_keeps d s hs
  | .wakePortStop tx, hs => execWakePortStop_keeps tx s hs
  | .wakeInput ch, hs => execWakeInput_keeps ch s hs
  | .wakeStuckClear ch, hs => execWakeStuckClear_keeps ch s hs
  | .aonTick, hs => execAonTick_keeps s hs
  | .wakeFrame payload, hs => execWakeFrame_keeps payload s hs
  | .wakeHoldExpiry, hs => execWakeHoldExpiry_keeps s hs
  | .dutyWatchCycle mv bits, hs => execDutyWatchCycle_keeps mv bits s hs
  | .partnerVoteLoss, hs => execPartnerVoteLoss_keeps s hs
  | .firmwareVerified ok0 ok1, hs => execFirmwareVerified_keeps ok0 ok1 s hs
  | .supervisorStart strapPrimary, hs => execSupervisorStart_keeps strapPrimary s hs
  | .objectVerification, hs => execObjectVerification_keeps s hs
  | .laneRelease, hs => execLaneRelease_keeps s hs
  | .programLoadDone fails, hs => execProgramLoadDone_keeps fails s hs
  | .retainedRestore, hs => execRetainedRestore_keeps s hs
  | .admission, hs => execAdmission_keeps s hs
  | .stageTimeLimit, hs => execStageTimeLimit_keeps s hs
  | .jtagTrstHigh high, hs => execJtagTrstHigh_keeps high s hs
  | .hello h m, hs => execHello_keeps h m s hs
  | .heartbeat h m, hs => execHeartbeat_keeps h m s hs
  | .imageFrame h m, hs => execImageFrame_keeps h m s hs
  | .outputFrame h m, hs => execOutputFrame_keeps h m s hs
  | .pageFrame h m, hs => execPageFrame_keeps h m s hs
  | .switchFrame h rel reason, hs => execSwitchFrame_keeps h rel reason s hs
  | .switchAck h rel, hs => execSwitchAck_keeps h rel s hs
  | .switchAckTimeout, hs => execSwitchAckTimeout_keeps s hs
  | .jaranResync h mask, hs => execJaranResync_keeps h mask s hs
  | .jaranCopy, hs => execJaranCopy_keeps s hs
  | .linkDown, hs => execLinkDown_keeps s hs
  | .linkUp, hs => execLinkUp_keeps s hs
  | .roleTimeout, hs => execRoleTimeout_keeps s hs
  | .takeover, hs => execTakeover_keeps s hs
  | .laneThermalTrip l, hs => execLaneThermalTrip_keeps l s hs
  | .outputBudgetExpiry t, hs => execOutputBudgetExpiry_keeps t s hs
  | .laneJunctionCooled l, hs => execLaneJunctionCooled_keeps l s hs
  | .ethernetLinkChange port speed, hs => execEthernetLinkChange_keeps port speed s hs
  | .modStuckClear ch, hs => execModStuckClear_keeps ch s hs
  | .openAgeExpiry desc, hs => execOpenAgeExpiry_keeps desc s hs
  | .egressCopyLeft e, hs => execEgressCopyLeft_keeps e s hs
  | .ptpDelayRequestReceive port req t, hs => execPtpDelayRequestReceive_keeps port req t s hs
  | .delayReqReceive port bytes, hs => execDelayReqReceive_keeps port bytes s hs
  | .arpFrame request ip target mac, hs => execArpFrame_keeps request ip target mac s hs
  | .icmpEchoRequest src dst data, hs => execIcmpEchoRequest_keeps src dst data s hs
  | .igmpQuery line, hs => execIgmpQuery_keeps line s hs
  | .rejoinSelftestDone l fail retired, hs => execRejoinSelftestDone_keeps l fail retired s hs
  | .loneAckReport src, hs => execLoneAckReport_keeps src s hs
  | .jaranBadCrc, hs => execJaranBadCrc_keeps s hs
  | .helloSend, hs => execHelloSend_keeps s hs
  | .hubThermalTrip, hs => execHubThermalTrip_keeps s hs
  | .vholdExhausted, hs => execVholdExhausted_keeps s hs
  | .ptpDelayRequestSend, hs => execPtpDelayRequestSend_keeps s hs
  | .forceAcknowledge, hs => execForceAcknowledge_keeps s hs
  | .supervisorRestarted, hs => execSupervisorRestarted_keeps s hs

/-- A canonical state keeps its own queue and its own memories' contents. -/
theorem Keeps.of_inv {s : State} (h : s.Inv) : Keeps ⟨s.pending, some (s.xch.mram, s.xch.flash)⟩ s :=
  ⟨rfl, h.1, h.2, fun x hx => by cases hx; exact ⟨fun _ _ => rfl, rfl⟩⟩

/-- What keeps the contents of the memories keeps what a command is to keep. -/
theorem Keeps.to_keptBy {queue : List Instr} {mem : Option (List Host.Cell × List Host.Cell)} {s : State} (c : Instr)
    (h : Keeps ⟨queue, mem⟩ s) : Keeps (keptBy c queue mem) s :=
  { pending := h.pending, mram := h.mram, flash := h.flash
    same := fun x hx => h.same x (by
      cases hc : mayWriteMemory c
      · simpa only [keptBy, hc, cond_false] using hx
      · simp only [keptBy, hc, cond_true, reduceCtorEq] at hx) }

theorem Keeps.inv {p : Kept} {s : State} (h : Keeps p s) : s.Inv := ⟨h.mram, h.flash⟩

/-- Every command keeps the memories canonical. -/
theorem exec_keeps_inv {c : Instr} {s t : State} (hs : s.Inv) (ht : exec c s = .next t) : t.Inv :=
  ((exec_keeps s c ((Keeps.of_inv hs).to_keptBy c)).keeps t ht).inv

/-- Settles O4: an idle step changes nothing, any other runs the front command on the queue's rest. -/
theorem stepKeepsTheMemoriesCanonical : Obligations.StepKeepsTheMemoriesCanonical := by
  unfold Obligations.StepKeepsTheMemoriesCanonical
  intro s t hs ht
  unfold step at ht
  split at ht
  next => cases ht; exact hs
  next c rest _ => exact exec_keeps_inv (s := { s with pending := rest }) hs ht

/-- Settles O6: a command that may not write memory keeps the contents it finds. -/
theorem otherCommandsLeaveTheMemories : Obligations.OtherCommandsLeaveTheMemories := by
  unfold Obligations.OtherCommandsLeaveTheMemories
  intro c s t hs hc ht a
  have kept := (exec_keeps s c ((Keeps.of_inv hs).to_keptBy c)).keeps t ht
  obtain ⟨hmram, hflash⟩ := kept.same (s.xch.mram, s.xch.flash) (by rw [keptBy, hc]; rfl)
  exact ⟨by rw [hflash], hmram a⟩

/-! ### The state after reset (O3) -/

/-- Settles O3: the state after reset is a literal, and the statement is decided on it. -/
theorem resetMeetsTheInvariant : Obligations.ResetMeetsTheInvariant := by
  unfold Obligations.ResetMeetsTheInvariant
  refine ⟨⟨by decide, by decide⟩, rfl, rfl, fun mb => by cases mb <;> rfl, by decide, by decide⟩

end Sys2Proof.Machine
end

section
/-! SUPPORT. What a lane does with a stamp, with a pan that asks for work or completes it, and with a decrement (R18, R19,
R62, R67 to R70, R74, R75, R83, R138, R168). -/
namespace Sys2Proof.Machine

section
variable {s : State} {l : Lane}

/-! ### Stamps (R18, R68, R138) -/

@[simp] theorem lane_modLane (s : State) (l : Lane) (f : LaneSt → LaneSt) : lane (modLane s l f) l = f (lane s l) := by
  cases l <;> rfl

/-- A stamp reaches a lane: the watchdog starts where the lane is ACTIVE, then what can begin begins. -/
theorem stampArrives_eq {m : StampMsg} {u : State}
    (hu : u = modLane s l (fun x => { x with stamps := x.stamps.map (fun y => if y = m then { y with here := true } else y) })) :
    stampArrives s l m
      = startReleases (if (lane s l).st = .active then modLaneTask u l m.task (fun lt => { lt with watch := some m.rel }) else u) l := by
  subst hu
  simp only [stampArrives, lane_modLane]

theorem releaseStampArrival_of_find {m : StampMsg} (hm : (lane s l).stamps.find? (fun m => !m.here) = some m) (good : Bool) :
    exec (.releaseStampArrival { lane := l, good := good }) s
      = .next (if good then stampArrives s l m else modLane s l (fun x => { x with stamps := x.stamps.erase m })) := by
  simp only [exec_releaseStampArrival, execReleaseStampArrival, hm]

/-! ### Dispatch (R74, R75) -/

/-- The queues' status published for the next clock. -/
def publishQueues (s : State) (l : Lane) (u : State) : State :=
  modLane u l (fun x => { x with blocks := (numbered x.blocks).map (fun k =>
    { k.2 with published := queueStatus s ((lane s l).blocks.getD k.1 {}).queue }) })

variable {b p : Nat} {xb : Xbar} {r : InstRef}

theorem dispatchPan_own (hruns : laneRuns (lane s l) = true) (hidle : (panOf s l b p).idle = true)
    (hr : queueHead s ((lane s l).blocks.getD b {}).queue = some r) (hgrant : localGrant s l b p = true) :
    dispatchPan s l b p xb
      = publishQueues s l (modPan (takeFrom s l b r) l b p (fun q => { q with busy := some r })) := by
  simp only [dispatchPan, publishQueues, hruns, hidle, hr, hgrant, Bool.not_true, Bool.or_self, Bool.false_eq_true, if_false, if_true]

theorem dispatchPan_rakes (hruns : laneRuns (lane s l) = true) (hidle : (panOf s l b p).idle = true)
    (hr : queueHead s ((lane s l).blocks.getD b {}).queue = none) :
    dispatchPan s l b p xb = publishQueues s l (rakeFor s l b p xb) := by
  simp only [dispatchPan, publishQueues, hruns, hidle, hr, Bool.not_true, Bool.or_self, Bool.false_eq_true, if_false]

theorem rakeFor_of_grant {v : Nat} {u : State} (hv : chooseVictim s l b = some v)
    (hr : queueHead s ((lane s l).blocks.getD v {}).queue = some r) (hgrant : rakeGrant s l v = some b)
    (hx : crossbar s l b p (some r) xb = (u, true)) :
    rakeFor s l b p xb = modPan (takeFrom (modLane u l (fun x => { x with granted := upd x.granted v (fun _ => b) })) l v r) l b p
      (fun q => { q with busy := some r }) := by
  simp only [rakeFor, hv, hr, hgrant, hx, bne_self_eq_false, Bool.false_eq_true, if_false, if_true]

/-! ### Commit (R62, R69, R83, R168) -/

section
variable (hruns : laneRuns (lane s l) = true) (hbusy : (panOf s l b p).busy = some r)
include hruns hbusy

theorem completeInst_copiesDiffer : completeInst s l b p false xb = retirePan s l b p r 0x1003 := by
  simp [completeInst, hruns, hbusy]

variable {i : Inst} {g : Program} (hi : instOf s r = some i) (hg : laneProg s r.new = some g)
include hi hg

theorem completeInst_waits (hw : pageWaits s l i.task i.pagesWritten = true) :
    completeInst s l b p true xb = sendFirst s i.task i.pagesWritten := by
  simp [completeInst, hruns, hbusy, hi, hg, hw]

theorem completeInst_commits {v u : State} (hw : pageWaits s l i.task i.pagesWritten = false)
    (hx : (if crossesBar g i b then crossbar s l b p (some r) xb else (s, true)) = (v, true))
    (hu : u = commitInst (modPan v l b p (fun q => { q with busy := none })) l r g i) :
    completeInst s l b p true xb = if laneRuns (lane u l) then endCycle u l i.task else u := by
  simp [completeInst, hruns, hbusy, hi, hg, hw, hx, hu]
end

theorem commitTimeout_eq {b p : Fin 16} (hruns : laneRuns (lane s l) = true) (hbusy : (panOf s l b.val p.val).busy = some r) :
    exec (.commitTimeout l b p) s = .next (if commitWaits s l r then s else retirePan s l b.val p.val r 0x1004) := by
  simp only [exec_commitTimeout, execCommitTimeout, hbusy, hruns]
  cases commitWaits s l r <;> rfl

/-! ### Decrements (R70) -/

theorem takeWake_arrives {k : Nat} {u : State} (hr : (lane s l).wakes[k]? = some r)
    (hx : crossbar (modLane s l (fun x => { x with wakes := x.wakes.eraseIdx k })) l (((instOf s r).map (·.home)).getD 0) 0 (some r) xb
      = (u, true))
    (hruns : laneRuns (lane u l) = true) : takeWake s l k xb = decrement u l r := by
  simp [takeWake, hr, hx, hruns]
end

/-! ### Lanes (O32) -/

/-- Settles O32: a stamp, a dispatch, a commit, copies that disagree, a commit timeout and a decrement. -/
theorem laneCommandsHaveTheirEffect : Obligations.LaneCommandsHaveTheirEffect := by
  unfold Obligations.LaneCommandsHaveTheirEffect
  refine fun l s => ⟨?stamp, ?dispatch, ?commit, ?differ, fun b p r hruns hbusy => commitTimeout_eq hruns hbusy, ?wake⟩
  case stamp =>
    intro m u hm hu
    simp only [releaseStampArrival_of_find hm, stampArrives_eq hu, if_true, Bool.false_eq_true, if_false, and_true]
    exact ⟨fun ha => by rw [if_pos ha], fun ha => by rw [if_neg ha]⟩
  case dispatch =>
    intro b p xb r publish hruns hret hbusy hpub
    have hidle : (panOf s l b.val p.val).idle = true := by simp [Pan.idle, hret, hbusy]
    have hp : publish = publishQueues s l := hpub
    refine ⟨fun hr hgrant => ?_, fun v u hnone hv hr hgrant hx => ?_⟩
    · rw [exec_panDispatch, execPanDispatch, dispatchPan_own hruns hidle hr hgrant, hp]
    · rw [exec_panDispatch, execPanDispatch, dispatchPan_rakes hruns hidle hnone, rakeFor_of_grant hv hr hgrant hx, hp]
  case commit =>
    intro b p xb r i g hruns hbusy hi hg
    refine ⟨fun hw => ?_, fun v hw hx => ⟨_, rfl, ?_⟩⟩
    · rw [exec_instanceCommit, execInstanceCommit, completeInst_waits hruns hbusy hi hg hw]
    · rw [exec_instanceCommit, execInstanceCommit, completeInst_commits hruns hbusy hi hg hw hx rfl]
  case differ =>
    intro b p xb r hruns hbusy
    rw [exec_instanceCommit, execInstanceCommit, completeInst_copiesDiffer hruns hbusy]
  case wake =>
    intro k xb r u hr hx hruns
    rw [exec_wakeMessage, execWakeMessage, takeWake_arrives hr hx hruns]

end Sys2Proof.Machine
end

section
/-! SUPPORT. What the links between field stage and lanes do with a frame, and what a comparison of the lanes' commands does (R19, R229,
R235, R236, R240, R242). -/
namespace Sys2Proof.Machine

/-! ### Frames on the field links (R235, R240) -/

section
variable {s : State} {l : Lane}

theorem takeSample_accepted {f : SampleSet} {fs : List SampleSet} (hf : (s.field.links.get l).samples = f :: fs)
    (ha : seqAccept (s.field.links.get l).laneSeq f.seq = true) :
    takeSample s l true = lockoutReport (modLane (setLink s l { s.field.links.get l with samples := fs, laneSeq := some (f.seq % 256) }) l
      (fun x => { x with samples := (f :: x.samples).take 1100, ackTrack := trackAck s x.ackTrack f })) l f := by
  simp only [takeSample, hf, ha, Bool.and_self, if_true]; rfl

theorem takeSample_discarded {f : SampleSet} {fs : List SampleSet} {good : Bool} (hf : (s.field.links.get l).samples = f :: fs)
    (hb : good = false ∨ seqAccept (s.field.links.get l).laneSeq f.seq = false) :
    takeSample s l good = setLink s l { s.field.links.get l with
      samples := fs, laneSeq := none, laneDiscards := (s.field.links.get l).laneDiscards + 1 } := by
  have hbad : (good && seqAccept (s.field.links.get l).laneSeq f.seq) = false := Bool.and_eq_false_iff.mpr hb
  simp only [takeSample, hf, hbad, Bool.false_eq_true, if_false]

theorem takeDrive_accepted {f : DriveFrame} {fs : List DriveFrame} (hf : (s.field.links.get l).frames = f :: fs)
    (ha : seqAccept (s.field.links.get l).fieldSeq f.seq = true) :
    takeDrive s l true = settleChTests (startTests (voteAll ([Grp.fa, Grp.fb].foldl (fun u g =>
      if lockoutShown s g = lockoutShown u g then u else (grpChans g).foldl diagChange u)
      (setLink s l { s.field.links.get l with frames := fs, latest := f, fieldSeq := some f.seq, timeout := false })))) := by
  simp only [takeDrive, hf, ha, Bool.and_self, if_true]

theorem takeDrive_discarded {f : DriveFrame} {fs : List DriveFrame} {good : Bool} (hf : (s.field.links.get l).frames = f :: fs)
    (hb : good = false ∨ seqAccept (s.field.links.get l).fieldSeq f.seq = false) :
    takeDrive s l good = settleChTests (setLink s l { s.field.links.get l with
      frames := fs, fieldSeq := none, fieldDiscards := (s.field.links.get l).fieldDiscards + 1 }) := by
  have hbad : (good && seqAccept (s.field.links.get l).fieldSeq f.seq) = false := Bool.and_eq_false_iff.mpr hb
  simp only [takeDrive, hf, hbad, Bool.false_eq_true, if_false]
end

/-! ### Lane commands that differ (R235) -/

/-- The commands of the three lanes, each with its lane. -/
def laneCmds (f : Lane → Bool × Bool) : List (Lane × Bool × Bool) := allLanes.map (fun l => (l, f l))

/-- The lanes of some commands whose command no other lane has. -/
def aloneIn (cmds : List (Lane × Bool × Bool)) : List (Lane × Bool × Bool) :=
  cmds.filter (fun x => (cmds.filter (fun y => y.2 = x.2)).length = 1)

/-- Three lanes are all the lanes. -/
theorem lane_of_three {x y z : Lane} (hxy : x ≠ y) (hxz : x ≠ z) (hyz : y ≠ z) (l : Lane) : l = x ∨ l = y ∨ l = z := by
  cases x <;> cases y <;> cases z <;> cases l <;> simp_all

/-- Of three lanes of which two agree the third is alone. -/
theorem aloneIn_laneCmds {f : Lane → Bool × Bool} {x y z : Lane} (hxy : x ≠ y) (hxz : x ≠ z) (hyz : y ≠ z)
    (hdiff : f x ≠ f y) (hsame : f z = f y) : aloneIn (laneCmds f) = [(x, f x)] := by
  have hf : f = fun l => if l = x then f x else f y := funext fun l => by
    obtain rfl | rfl | rfl := lane_of_three hxy hxz hyz l
    · rw [if_pos rfl]
    · rw [if_neg hxy.symm]
    · rw [if_neg hxz.symm, hsame]
  rw [hf]
  cases x <;> simp [aloneIn, laneCmds, allLanes, hdiff, hdiff.symm]

/-- The commands of the lanes whose link is not forced, where none is. -/
theorem unforced_cmds {s : State} (hfree : ∀ l, linkForced s l = false) (ch : Nat) :
    (allLanes.filter (fun l => !linkForced s l)).map (fun l => (l, laneCmd s l ch)) = laneCmds (fun l => laneCmd s l ch) := by
  have hall : allLanes.filter (fun l => !linkForced s l) = allLanes := List.filter_eq_self.mpr (fun l _ => by rw [hfree]; rfl)
  exact congrArg (List.map _) hall

section
variable {s : State} {ch : Fin 32} {tm : DisagreeTimes} (hfree : ∀ l, linkForced s l = false)
include hfree

/-- Lane commands that are equal, the last difference 1 ms ago: DISAGREE clears. -/
theorem disagree_of_equal (heq : ∀ l, laneCmd s l (lowestOf s ch.val) = laneCmd s .a (lowestOf s ch.val)) (hus : 1000 ≤ tm.us)
    (hon : (chSt s ch.val).disagree = true) :
    exec (.disagree ch tm) s = .next (diagChange (modCh (modCh s ch.val (fun c => { c with minority := none })) ch.val
      (fun c => { c with disagree := false })) ch.val) := by
  simp only [exec_disagree, execDisagree, unforced_cmds hfree]
  simp [laneCmds, allLanes, heq, hus, hon]

/-- One lane alone with its command: DISAGREE sets once the difference lasts over 1 ms, and a minority of 10 ms is recorded once. -/
theorem disagree_of_lone {x y z : Lane} {u : State} (hxy : x ≠ y) (hxz : x ≠ z) (hyz : y ≠ z)
    (hdiff : laneCmd s x (lowestOf s ch.val) ≠ laneCmd s y (lowestOf s ch.val))
    (hsame : laneCmd s z (lowestOf s ch.val) = laneCmd s y (lowestOf s ch.val))
    (hu : u = (if 1000 < tm.us ∧ (chSt s ch.val).disagree = false
      then diagChange (modCh s ch.val (fun c => { c with disagree := true })) ch.val else s)) :
    exec (.disagree ch tm) s = .next (if 10000 ≤ tm.minorityUs ∧ (chSt s ch.val).minority ≠ some x
      then raiseHub (modCh u ch.val (fun c => { c with minority := some x })) 2 0x5007 ch.val (laneNum x)
      else modCh u ch.val (fun c => { c with minority := c.minority.filter (fun l => l = x) })) := by
  have hlone := aloneIn_laneCmds (f := fun l => laneCmd s l (lowestOf s ch.val)) hxy hxz hyz hdiff hsame
  unfold aloneIn at hlone
  have hequal : ¬ (laneCmd s .b (lowestOf s ch.val) = laneCmd s .a (lowestOf s ch.val)
      ∧ laneCmd s .c (lowestOf s ch.val) = laneCmd s .a (lowestOf s ch.val)) := by
    rintro ⟨hb, hc⟩
    have hall : ∀ l, laneCmd s l (lowestOf s ch.val) = laneCmd s .a (lowestOf s ch.val) := fun l => by cases l <;> simp [hb, hc]
    exact hdiff ((hall x).trans (hall y).symm)
  have hshow : (if 1000 < tm.us then if (chSt s ch.val).disagree = true then s
      else diagChange (modCh s ch.val (fun c => { c with disagree := true })) ch.val else s) = u := by
    rw [hu]; cases (chSt s ch.val).disagree <;> simp
  simp only [exec_disagree, execDisagree, unforced_cmds hfree, hlone, hshow]
  simp [laneCmds, allLanes, hequal, apply_ite Host.Outcome.next]
end

/-! ### The field links (O34) -/

/-- Settles O34: a frame, a send and a timeout of the field links; then a comparison of the lanes' commands. -/
theorem fieldLinkCommandsHaveTheirEffect : Obligations.FieldLinkCommandsHaveTheirEffect := by
  unfold Obligations.FieldLinkCommandsHaveTheirEffect
  refine ⟨fun s => ⟨?strobe, ?sample, ?send, ?drive, fun l => rfl⟩, fun ch tm s u hfree => ⟨?lone, ?equal⟩⟩
  case strobe => intro mv ma hon; rw [exec_sampleStrobe, execSampleStrobe, if_pos hon]
  case sample =>
    intro l f fs hf
    exact ⟨fun ha => by rw [exec_sampleFrameReceive, execSampleFrameReceive, takeSample_accepted hf ha],
      fun good hb => by rw [exec_sampleFrameReceive, execSampleFrameReceive, takeSample_discarded hf hb]⟩
  case send => intro l hl; rw [exec_driveFrameSend, execDriveFrameSend, if_neg hl]
  case drive =>
    intro l f fs hon hf
    exact ⟨fun ha => by rw [exec_driveFrameReceive, execDriveFrameReceive, if_pos hon, takeDrive_accepted hf ha],
      fun good hb => by rw [exec_driveFrameReceive, execDriveFrameReceive, if_pos hon, takeDrive_discarded hf hb]⟩
  case lone =>
    intro x y z hxy hxz hyz hdiff hsame hu
    rw [disagree_of_lone hfree hxy hxz hyz hdiff hsame hu]
    exact ⟨fun hshort => by rw [if_neg (fun h => by omega)], fun hlong hnew => by rw [if_pos ⟨hlong, hnew⟩]⟩
  case equal => exact disagree_of_equal hfree

end Sys2Proof.Machine
end

section
/-! SUPPORT. What a comparator does with a frame, at its deadline and when it stalls; a checkpoint page; a retained write (R22, R27, R150,
R152, R155, R163, R169, R173). -/
namespace Sys2Proof.Machine

/-! ### Votes (R152, R155, R163) -/

section
variable {s : State} {p : Party} {l : Lane} {t : Nat}

/-- The hub's comparator completes an open vote with the frames present: it harvests. -/
theorem closeVote_hub {v : Vote} (hv : voteAt s .hub t = some v) (hn : v.vector = none) (hs : v.stalled = false) :
    closeVote s .hub t = hubHarvest (modVote s .hub t (fun v => { v with vector := some (vectorOf s v) })) t := by
  simp [closeVote, hv, hn, hs]

/-- A unit completes an open vote with the frames present: where its lane takes part it performs that lane's step 3. -/
theorem closeVote_unit {v : Vote} {u : State} (hv : voteAt s (.unit l) t = some v) (hn : v.vector = none) (hs : v.stalled = false)
    (hu : u = modVote s (.unit l) t (fun v => { v with vector := some (vectorOf s v) })) :
    closeVote s (.unit l) t = if (voters u v).contains l then holdTask (judge (laneStep3 u l t) t) t else u := by
  simp [closeVote, hv, hn, hs, hu]

/-- The deadline of a vote that has started completes it; at the hub once the skew limit is over by hub time. -/
theorem voteDeadline_of_started {t : Fin 16} {v : Vote} {n : Nat} (hv : voteAt s p t.val = some v) (hn : v.started = some n)
    (hub : p = .hub → elapsed s n (skewOf s t.val) = true) : exec (.voteDeadline p t) s = .next (closeVote s p t.val) := by
  have hdue : ¬ ((p = .hub && !elapsed s n (skewOf s t.val)) = true) := by simpa using hub
  simp [execVoteDeadline, hv, hn, hdue]

/-- A comparator overdue with its vote stalls; the hub's harvest is numbered and keeps its step 7. -/
theorem comparatorNoVerdict_of_overdue {t : Fin 16} {v : Vote} {u : State} (hv : voteAt s p t.val = some v) (hn : v.vector = none)
    (hs : v.stalled = false) (ho : overdue s p t.val = true) (hu : u = modVote s p t.val (fun v => { v with stalled := true })) :
    exec (.comparatorNoVerdict p t) s = .next (judge (if p = .hub then abortHarvest (modTask { u with vote := { u.vote with
      harvest := u.vote.harvest + 1 } } t.val (fun h => { h with inFlight := false })) (u.vote.harvest + 1) t.val else u) t.val) := by
  simp [execComparatorNoVerdict, hv, hn, hs, ho, hu]
end

/-! ### Checkpoint pages and the retained store (R150, R169, R173) -/

section
variable {s : State} {c : Ckpt} {cs : List Ckpt} {d : CkptPage} {rest : List CkptPage}
  (hc : s.vote.ckpts = c :: cs) (hd : c.todo = d :: rest)
include hc hd

theorem takePage_whole : takePage s .whole = judgePage s c d rest := by simp [takePage, hc, hd]
theorem takePage_catchUpDiffers : takePage s .catchUpDiffers = judgePage (failCatchUp s c) { c with catchUp := none } d rest := by
  simp [takePage, hc, hd]
theorem takePage_damaged_again (h : c.retried = true) : takePage s .damaged = ckptRecord (abandonCkpt s c) 1 c.task := by
  simp [takePage, hc, hd, h]
theorem takePage_damaged (h : c.retried = false) :
    takePage s .damaged
      = putCkpt s { c with retried := true, source := ((listedLanes s c).find? (fun l => l ≠ c.source)).getD c.source } := by
  simp [takePage, hc, hd, h]
end

section
variable {s : State} {p : Program} (hp : s.prog = some p) (hdue : s.vote.retDue = true)
  (hpages : p.pages.filter (fun d => d.retained) ≠ [])
include hp hdue hpages

theorem writeRetained_retDue : (writeRetained s).vote.retDue = false := by simp [writeRetained, hp, hdue, hpages]
theorem writeRetained_retActive : (writeRetained s).vote.retActive = 1 - s.vote.retActive := by
  simp [writeRetained, hp, hdue, hpages]
theorem writeRetained_mram :
    (writeRetained s).xch.mram
      = writtenBuffer s p (1 - s.vote.retActive) ((p.pages.filter (fun d => d.retained)).map (·.key)) := by
  simp [writeRetained, hp, hdue, hpages, modMram]
end

/-! ### Voting and checkpoints (O41) -/

/-- Settles O41: frame, deadline and stall at a comparator; then a page of the oldest checkpoint and a retained write. -/
theorem votingAndCheckpointsHaveTheirEffect : Obligations.VotingAndCheckpointsHaveTheirEffect := by
  unfold Obligations.VotingAndCheckpointsHaveTheirEffect
  refine ⟨fun p l t s => ⟨?frame, ?hubDeadline, ?unitDeadline, ?stall⟩, fun s => ⟨?page, ?retained⟩⟩
  case frame =>
    intro f rest u hf hu
    subst hu
    refine ⟨?_, fun g => ?_, ?_, ?_, ?_⟩ <;> simp [execLaneFrameArrival, arriveFrame, hf, countAtHub]
  case hubDeadline =>
    intro v n hv hn hvec hst hel
    rw [voteDeadline_of_started hv hn (fun _ => hel), closeVote_hub hv hvec hst]
  case unitDeadline =>
    intro v n u hv hn hvec hst hu
    rw [voteDeadline_of_started hv hn (fun h => nomatch h), closeVote_unit hv hvec hst hu]
  case stall =>
    intro v u hv hvec hst ho hu
    rw [comparatorNoVerdict_of_overdue hv hvec hst ho hu]
    exact ⟨fun hp => by rw [if_neg hp], fun hp => by rw [if_pos hp]⟩
  case page =>
    intro c cs d rest hc hd
    simp only [exec_checkpointPage, execCheckpointPage, takePage_whole hc hd, takePage_catchUpDiffers hc hd, true_and]
    exact ⟨fun h => by rw [takePage_damaged_again hc hd h], fun h => by rw [takePage_damaged hc hd h]⟩
  case retained =>
    intro p hp hdue hpages
    exact ⟨writeRetained s, rfl, writeRetained_retDue hp hdue hpages, writeRetained_retActive hp hdue hpages,
      writeRetained_mram hp hdue hpages⟩

end Sys2Proof.Machine
end

section
/-! SUPPORT. What a star does with a frame at its ingress ports, with one that has to be cut and with one in its frame store (R16, R267,
R279, R283 to R288). -/
namespace Sys2Proof.Machine

/-! ### Ingress (R267, R279, R283, R288) -/

/-- The role of an ingress port in a star of a plane: the internal port is one of its ports, and a port of the other plane has none. -/
def ingressRole (s : State) (pb : Bool) (n : Nat) : Nat :=
  if n = 8 then 2 else if (portCfg s n).planeB = pb then (portCfg s n).role else 0

/-- A DELAY frame of the link, which ends at the port (R279). -/
def isLinkDelay (s : State) (bs : List Byte) : Bool :=
  fType bs = s.bank.net.ethertype && fKind bs = 6 && getByte (fPayload bs) 0 != 3

section
variable {s : State} {n : Nat} {bs : List Byte} {pb : Bool} (hstar : starPlane s = some pb) (hon : domainOn (settle s) 5 = true)
  (hlen : 18 ≤ bs.length)
include hstar hon hlen

theorem frameIngress_uplink (hrole : ingressRole (settle s) pb n = 3) :
    frameIngress s n bs
      = if integrated (settle s) then
          (if isLinkDelay (settle s) bs then settle s
           else forward (settle s) pb n (portsOf (settle s) pb 2 ++ [8]) bs false none)
        else ingressAlone (settle s) pb n bs := by
  unfold ingressRole at hrole
  have hshort : ¬ bs.length < 18 := by omega
  cases hi : integrated (settle s) <;> simp [frameIngress, hstar, hon, hshort, hrole, hi, isLinkDelay]

theorem frameIngress_port (hrole : ingressRole (settle s) pb n = 2) :
    frameIngress s n bs
      = if (sluice (settle s) n).quar.isSome then modSluice (settle s) n (fun x => { x with quarBlocked := x.quarBlocked + 1 })
        else if integrated (settle s) then sluiceJudge (settle s) pb n bs
        else ingressAlone (settle s) pb n bs := by
  unfold ingressRole at hrole
  have hshort : ¬ bs.length < 18 := by omega
  cases hi : integrated (settle s) <;> simp [frameIngress, hstar, hon, hshort, hrole, hi]
end

/-! ### Cuts and the end of a quarantine (R287, R288) -/

theorem quarantineEnd_of_due {s : State} {n : Nat} {k : Int} (hq : (sluice s n).quar = some k)
    (hk : k ≤ s.net.sched.cluster (s.net.sched.cycleOf (now0 s))) :
    quarantineEnd s n = clearRun (modSluice s n (fun x => { x with quar := none })) n := by
  simp only [quarantineEnd, hq, hk, if_true, endQuarantine]

/-! ### The frame store (R16, R285, R286) -/

/-- Two folds agree whose steps agree on the states that an invariant holds of, which the steps keep. -/
theorem foldl_congr_of_invariant {σ α : Type} {f g : σ → α → σ} (P : σ → Prop) (hfg : ∀ u a, P u → f u a = g u a)
    (hP : ∀ u a, P u → P (g u a)) (l : List α) {u : σ} (hu : P u) : l.foldl f u = l.foldl g u := by
  induction l generalizing u with
  | nil => rfl
  | cons a l ih => rw [List.foldl_cons, List.foldl_cons, hfg u a hu, ih (hP u a hu)]

/-- AX0 rests on the timing region alone. -/
theorem now0_congr {s t : State} (h : s.tim = t.tim) : now0 s = now0 t := by
  unfold now0 ax0 axis
  rw [h]

/-- A copy that leaves does not move AX0. -/
@[simp] theorem now0_copyOut (s : State) (d : Desc) (m lat : Nat) : now0 (copyOut s d m lat) = now0 s :=
  now0_congr (by unfold copyOut; rw [emit_tim])

/-- Copies that leave one after the other all see the AX0 at which the first one left. -/
theorem foldl_copyOut_now0 (f : Int → Desc) (lat : Nat) (ms : List Nat) (s : State) :
    ms.foldl (fun v m => copyOut v (f (now0 v)) m lat) s = ms.foldl (fun v m => copyOut v (f (now0 s)) m lat) s :=
  foldl_congr_of_invariant (fun v => now0 v = now0 s) (fun v m hv => by simp only [hv])
    (fun v m hv => (now0_copyOut v (f (now0 s)) m lat).trans hv) ms rfl

section
variable {s : State} {id : Nat} {d : Desc}

theorem openAgeExpiry_of_old (hd : (settle s).net.descs.find? (fun d => d.id = id) = some d) (hq : d.queued = true)
    (hold : elapsed (settle s) d.since ((settle s).bank.net.openAge * 1000000) = true) :
    openAgeExpiry s id = freeDesc (settle s) id := by
  simp only [openAgeExpiry, hd, hq, hold, Bool.and_self, if_true]

theorem egressCopyLeft_of_find (hd : (settle s).net.descs.find? (fun d => d.id = id) = some d) (parity : Bool) :
    egressCopyLeft s { desc := id, parity := parity }
      = if parity then dropFrame (settle s) d (rawNow (settle s)) 2 else lastCopy (settle s) d := by
  simp only [egressCopyLeft, hd]

theorem lastCopy_cut (hc : d.cut = true) : lastCopy s d = freeDesc s d.id := by simp only [lastCopy, hc, if_true]

section
variable (hc : d.cut = false) (hend : d.cutAtEnd s = none) (hlim : d.cutAtLimit s = none)
include hc hend hlim

/-- A frame that did not wait leaves once its bytes have been sent at every egress port. -/
theorem lastCopy_forwarded (hq : d.queued = false)
    (hsent : d.egress.all (fun m =>
      decide (d.since + latency s d.port m d.bytes.length + (8 + d.bytes.length) * portByteNs s m ≤ rawNow s)) = true) :
    lastCopy s d = freeDesc (d.egress.foldl (fun v m => copyOut v d m (latency v d.port m d.bytes.length)) s) d.id := by
  simp only [lastCopy, hc, hend, hlim, hq, hsent, Option.isSome_none, Bool.or_self, Bool.false_eq_true, if_false, if_true]

/-- A frame that waited leaves in an OPEN window that holds the whole of it, begun after its reception. -/
theorem lastCopy_waited {wire wait : Nat} {left : Int} (hq : d.queued = true) (hwire : wire = d.wire s)
    (hopen : openFrom s ((starPlane s).getD false) (-(wire : Int)) = some left) (hfits : (wire : Int) ≤ left)
    (hrec : d.received s + wire ≤ rawNow s) (hwait : wait = rawNow s - wire - d.since) :
    lastCopy s d = freeDesc (d.egress.foldl (fun v m =>
      copyOut v { d with sof := now0 s - (wire : Int) - (wait : Int) } m wait) s) d.id := by
  subst hwait hwire
  simp only [lastCopy, hc, hend, hlim, hq, hopen, hfits, hrec, Option.isSome_none, Bool.or_self, Bool.false_eq_true, if_false, if_true,
    decide_true, Bool.and_self]
  exact congrArg (freeDesc · d.id) (foldl_copyOut_now0
    (fun t => { d with sof := t - (d.wire s : Int) - ((rawNow s - d.wire s - d.since : Nat) : Int) }) _ d.egress s)
end
end

/-! ### Stars (O50) -/

/-- Settles O50: a frame at an uplink or a port, a cut and the end of a quarantine; then the frame store. -/
theorem starCommandsHaveTheirEffect : Obligations.StarCommandsHaveTheirEffect := by
  unfold Obligations.StarCommandsHaveTheirEffect
  refine ⟨fun port bytes pb s u hstar hu => ?_, fun id d s u hu hd => ?_⟩ <;> subst hu
  · refine ⟨fun hon hlen => ⟨?uplink, ?uplinkAlone, ?port⟩, ?cut, ?quarantine⟩
    case uplink =>
      intro hn hplane hrole hint
      have h3 : ingressRole (settle s) pb port.val = 3 := by simp [ingressRole, hn, hplane, hrole]
      simp only [exec_flovisFrameIngress, execFlovisFrameIngress, frameIngress_uplink hstar hon hlen h3, hint, if_true]
      exact ⟨fun h => by rw [if_pos (by simp [isLinkDelay, h])], fun h => by rw [if_neg (by simpa [isLinkDelay] using h)]⟩
    case uplinkAlone =>
      intro hn hplane hrole hint
      have h3 : ingressRole (settle s) pb port.val = 3 := by simp [ingressRole, hn, hplane, hrole]
      simp only [exec_flovisFrameIngress, execFlovisFrameIngress, frameIngress_uplink hstar hon hlen h3, hint, Bool.false_eq_true, if_false]
    case port =>
      intro hport
      have h2 : ingressRole (settle s) pb port.val = 2 := by
        obtain hn | ⟨hplane, hrole⟩ := hport
        · simp [ingressRole, hn]
        · simp [ingressRole, hplane, hrole]
      simp only [exec_flovisFrameIngress, execFlovisFrameIngress, frameIngress_port hstar hon hlen h2]
      refine ⟨fun hq hint => ?_, fun hq hint => ?_, fun hq => ?_⟩
      · simp [hq, hint]
      · simp [hq, hint]
      · rw [if_pos (Option.isSome_iff_ne_none.mpr hq)]
    case cut =>
      intro slotEnd due d v w hdue hd hv hw
      subst hdue hv hw
      simp only [exec_frameCut, execFrameCut, frameCut, hd]
    case quarantine =>
      intro k hq hk
      rw [exec_quarantineEnd, execQuarantineEnd, quarantineEnd_of_due hq hk]
  · simp only [exec_openAgeExpiry, execOpenAgeExpiry, exec_egressCopyLeft, execEgressCopyLeft, egressCopyLeft_of_find hd, if_true,
      Bool.false_eq_true, if_false, true_and]
    refine ⟨fun hq hold => ?_, fun hc => ?_, fun hc hend hlim =>
      ⟨fun hq hsent => ?_, fun wire wait left hq hwire ho hfits hrec hwait => ?_⟩⟩
    · rw [openAgeExpiry_of_old hd hq hold]
    · rw [lastCopy_cut hc]
    · rw [lastCopy_forwarded hc hend hlim hq hsent]
    · rw [lastCopy_waited hc hend hlim hq hwire ho hfits hrec hwait]

end Sys2Proof.Machine
end

section
/-! SUPPORT. What the axis and trigger commands do with a request (R32 to R36, R50, R51, R53, R453). -/
namespace Sys2Proof.Machine

/-! ### Fields of a request word (R453) -/

/-- A field inside a field that is zero is zero. -/
theorem bits_eq_zero_of_enclosing {w lo len lo' len' : Nat} (h : bits w lo len = 0) (hlo : lo ≤ lo') (hhi : lo' + len' ≤ lo + len) :
    bits w lo' len' = 0 := by
  obtain ⟨k, rfl⟩ := Nat.exists_eq_add_of_le hlo
  have hmod : w / 2 ^ lo % 2 ^ (k + len') = 0 := by
    rw [← Nat.mod_mod_of_dvd _ (Nat.pow_dvd_pow 2 (by omega : k + len' ≤ len))]
    exact (congrArg (· % 2 ^ (k + len')) h).trans (Nat.zero_mod _)
  unfold bits
  rw [Nat.pow_add, ← Nat.div_div_eq_div_mul, ← Nat.mod_mul_right_div_self, ← Nat.pow_add, hmod, Nat.zero_div]

/-! ### Axes (R32 to R36) -/

section
variable {mb : Mb} {s : State} {w hi lo : Word}

/-- AXIS_STEP of an axis other than AX0 always waits in its queue; one of AX0 while AX0 is FREE and the mode permits its size. -/
theorem axisStep_taken (h : Asked s mb 0x0500 true true [w, hi, lo])
    (hok : bits w.toNat 0 2 = 0 → (axis s 0).src = 0 ∧ stepPermitted s (join64 hi lo).toInt = true) :
    exec (.axisStep mb) s = .next (resultMb (pushWrite s (bits w.toNat 0 2) (.step (join64 hi lo) 1)) mb 0) := by
  have htaken : ¬ (bits w.toNat 0 2 = 0 ∧ ((axis s 0).src ≠ 0 ∨ stepPermitted s (join64 hi lo).toInt = false)) := by
    rintro ⟨hn, hsrc | hbig⟩
    · exact hsrc (hok hn).1
    · exact absurd (hok hn).2 (by simp [hbig])
  rw [exec_axisStep, execAxisStep, runCmd_asked h (by rfl), if_neg (by simpa [wNat, wLong] using htaken)]
  rfl

theorem axisScale_taken (h : Asked s mb 0x0501 true true [w, hi, lo]) (hscale : scaleOk (bits w.toNat 0 2) (join64 hi lo) = true)
    (hfree : bits w.toNat 0 2 = 0 → (axis s 0).src = 0) :
    exec (.axisScale mb) s = .next (resultMb (pushWrite s (bits w.toNat 0 2) (.scale (join64 hi lo))) mb 0) := by
  rw [exec_axisScale, execAxisScale, runCmd_asked h (by rfl), if_neg (by simpa [wNat, wLong] using hscale),
    if_neg (by simpa [wNat] using hfree)]
  rfl

/-- AXIS_SOURCE of AX0 or AX1 without a starting value: timing input, edges and channel are zero. -/
theorem axisSource_selects (h : Asked s mb 0x0502 true true [w]) (hstart : bit w.toNat 16 = false)
    (hsrc : bits w.toNat 8 4 ≤ lastSource (bits w.toNat 0 2)) (hargs : bits w.toNat 20 8 = 0) (hn : bits w.toNat 0 2 < 2) :
    exec (.axisSource mb) s
      = .next (resultMb (axisIrq s (selectSource s (bits w.toNat 0 2) (bits w.toNat 8 4) 0 0 none)) mb 0) := by
  have hinput : bits w.toNat 20 2 = 0 := bits_eq_zero_of_enclosing hargs (by decide) (by decide)
  have hedges : bits w.toNat 22 2 = 0 := bits_eq_zero_of_enclosing hargs (by decide) (by decide)
  have h2 : bits w.toNat 0 2 ≠ 2 := by omega
  have h3 : bits w.toNat 0 2 ≠ 3 := by omega
  have hlast : ¬ lastSource (bits w.toNat 0 2) < bits w.toNat 8 4 := by omega
  have hok : sourceArgsOk (bits w.toNat 0 2) (bits w.toNat 8 4) w.toNat = true := by simp [sourceArgsOk, h2, h3, hargs]
  rw [exec_axisSource, execAxisSource, runCmd_asked h (by simp [wNat, hstart])]
  simp [wNat, hstart, hlast, hok, h2, hinput, hedges]
end

/-! ### Triggers (R50, R51, R53) -/

section
variable {mb : Mb} {s : State}

/-- TRIG_ARM of a named trigger that neither the program nor a unit holds. -/
theorem trigArm_arms {w vh vl ph pl w5 w6 w7 w8 : Word} {n : Nat}
    (h : Asked s mb 0x0510 true true [w, vh, vl, ph, pl, w5, w6, w7, w8]) (hauto : bit w.toNat 6 = false) (hn : n = bits w.toNat 0 6)
    (harm : armOk (bits w.toNat 8 2) (bits w.toNat 12 2) (bits w.toNat 16 2) (join64 ph pl) = true)
    (hact : actionsOk w5.toNat (join64 w6 w7).toNat = true) (hp : heldByProgram s n = false) (hu : heldByUnit s n = false) :
    exec (.trigArm mb) s = .next (finishMb (armTrigger s n .host
      { kind := trigKind (bits w.toNat 8 2), axis := bits w.toNat 12 2, dir := dirOf (bits w.toNat 16 2), value := join64 vh vl
        period := join64 ph pl, input := bits w.toNat 20 2
        actions := trigActions w5.toNat (join64 w6 w7).toNat (bits w8.toNat 0 8) } (trigger s n).armed) mb 0 [BitVec.ofNat 32 n]) := by
  subst hn
  rw [exec_trigArm, execTrigArm, runCmd_asked h (by rfl)]
  simp [wNat, wLong, hauto, harm, hact, hp, hu]

/-- TRIG_CANCEL of an armed trigger: it answers 0, since a ONESHOT that has fired is armed no more. -/
theorem trigCancel_cancels {n : Word} (h : Asked s mb 0x0511 true true [n]) (hn : n.toNat < 64) (hp : heldByProgram s n.toNat = false)
    (hu : heldByUnit s n.toNat = false) (harmed : (trigger s n.toNat).armed = true) :
    exec (.trigCancel mb) s = .next (finishMb (cancelTrigger s n.toNat) mb 0 [0]) := by
  rw [exec_trigCancel, execTrigCancel, runCmd_asked h (by rfl)]
  simp [wNat, Nat.not_le.mpr hn, hp, hu, harmed, boolWord]
end

/-! ### Axis and trigger commands (O20) -/

/-- Settles O20: the axis commands, each taken under its condition; then TRIG_ARM and TRIG_CANCEL. -/
theorem axisAndTriggerCommandsHaveTheirEffect : Obligations.AxisAndTriggerCommandsHaveTheirEffect := by
  unfold Obligations.AxisAndTriggerCommandsHaveTheirEffect
  refine ⟨fun mb s w hi lo => ⟨?other, ?ax0, axisScale_taken, axisSource_selects⟩, fun mb s => ⟨?arm, fun n => trigCancel_cancels⟩⟩
  case other => exact fun h hn => axisStep_taken h (fun h0 => absurd h0 hn)
  case ax0 =>
    intro h hn hsrc hsize
    rw [axisStep_taken h (fun _ => ⟨hsrc, hsize⟩), hn]
  case arm => exact fun w vh vl ph pl w5 w6 w7 w8 h hauto harm hact hp hu => trigArm_arms h hauto rfl harm hact hp hu

end Sys2Proof.Machine
end

section
/-! SUPPORT. What the latches of the axes, a zero-crossing report and the time-driven events of the axes do (R32 to R41). -/
namespace Sys2Proof.Machine

/-! ### Updates of one axis -/

/-- Two functions that agree on the element at an index update the list alike. -/
theorem upd_congr {α : Type} {f g : α → α} {l : List α} {n : Nat} {d : α} (h : f (l.getD n d) = g (l.getD n d)) :
    upd l n f = upd l n g := by
  induction l generalizing n with
  | nil => rfl
  | cons x xs ih =>
    cases n with
    | zero => exact congrArg (· :: xs) h
    | succ n => exact congrArg (x :: ·) (ih h)

/-- An update of an axis rests only on that axis. -/
theorem modAxis_congr {s : State} {n : Nat} {f g : Axis → Axis} (h : f (axis s n) = g (axis s n)) : modAxis s n f = modAxis s n g := by
  unfold modAxis; rw [upd_congr h]

/-! ### Latches (R41) -/

@[simp] theorem opcodePhase_tim (s : State) (tm : HostTiming) : (opcodePhase s tm).tim = s.tim := by
  simp only [opcodePhase, drainFifos, emit]

/-- A register read through the host port, with its whole effect: the opcode phase, the read, and the word with the status byte. -/
theorem portRead_host_of_regRead {s u v : State} {a : Nat} {w : Word} (hd : domainOn s 1 = true) (hu : u = opcodePhase s {})
    (ha : a < 0x800000) (hp : (peek u .host a).isSome) (hr : regRead u .host a = (some w, v)) :
    portRead s .host a = emit v (.hostData (statusByte v false false false false) [w]) := by
  have h4 : a % 4 = 0 := aligned_of_peek_isSome hp
  have haddr : (BitVec.ofNat 24 a).toNat = a := by rw [BitVec.toNat_ofNat]; omega
  have hwin : ¬ 0x800000 ≤ a := by omega
  have hreserved : (peek u .host a).isNone = false := by simpa using hp
  simp [portRead, hostRead, hd, haddr, h4, fetchWords, hwin, hreserved, accessAddrs_one, regReads_one _ _ ha, hr, ← hu]

section
variable {s : State} (p : Port) (hb : s.bring.bootFail = false)
include hb

theorem peek_axSnap : peek s p 0x300 = some 0 := by simp [peek, hb]
/-- A write of AX_SNAP with bit 0 set. -/
theorem regWrite_axSnap {w : Word} (hw : w.getLsbD 0 = true) (node drained : Nat) : regWrite s p node 0x300 w drained = snapAll s := by
  simp [regWrite, hb, hw]

/-- AXn_VAL_HI shows the high word of the value latched. -/
theorem peek_axnValHi (n : Fin 4) : peek s p (0x310 + 32 * n.val) = some (hi32 (axis s n.val).latVal) := by
  obtain ⟨n, hn⟩ := n
  obtain rfl | rfl | rfl | rfl : n = 0 ∨ n = 1 ∨ n = 2 ∨ n = 3 := by omega
  all_goals simp [peek, hb, axisWord]
theorem readEffect_axnValHi (n : Fin 4) : readEffect s p (0x310 + 32 * n.val) = s := by
  obtain ⟨n, hn⟩ := n
  obtain rfl | rfl | rfl | rfl : n = 0 ∨ n = 1 ∨ n = 2 ∨ n = 3 := by omega
  all_goals simp [readEffect, hb]

/-- A read of AXn_VAL_HI latches its axis before it gives the word. -/
theorem regRead_axnValHi (n : Fin 4) :
    regRead s p (0x310 + 32 * n.val) = (some (hi32 (axis (readValHi s n.val) n.val).latVal), readValHi s n.val) := by
  have hx : isValHi (0x310 + 32 * n.val) = true := by simp only [isValHi, Bool.and_eq_true, decide_eq_true_eq]; omega
  have hn : (0x310 + 32 * n.val - 0x310) / 32 = n.val := by omega
  have h4 : (0x310 + 32 * n.val) % 4 = 0 := by omega
  have hbv : (readValHi s n.val).bring.bootFail = false := by rw [readValHi, modAxis_bring, hb]
  simp only [regRead, hx, hb, hn, h4, peek_axnValHi p hbv n, readEffect_axnValHi p hbv n, Bool.not_false, Bool.and_self, if_true]
end

/-- A read of AXn_VAL_HI spelt out: after AX_SNAP it only takes the mark back, otherwise it latches. -/
theorem readValHi_eq (s : State) (n : Nat) :
    readValHi s n = modAxis s n (fun a => if a.snapped then { a with snapped := false }
      else { a with latVal := a.value, latRaw := a.raw, latOfs := a.offset, latScale := a.scale }) := by
  refine modAxis_congr ?_
  cases h : (axis s n).snapped <;> simp [h, latchAxis]

/-! ### Zero crossings (R35, R38) -/

/-- The oldest report of a channel lies behind reports of other channels only. -/
theorem takeReport_append {ch : Nat} {t : DWord} {before rest : List (Nat × DWord)} (hb : ∀ r ∈ before, r.1 ≠ ch) :
    takeReport ch (before ++ (ch, t) :: rest) = some (t, before ++ rest) := by
  induction before with
  | nil => simp [takeReport]
  | cons r before ih =>
    obtain ⟨hr, hrest⟩ := List.forall_mem_cons.mp hb
    simp [takeReport, hr, ih hrest]

section
variable {ch : Fin 16} {t : DWord} {before rest : List (Nat × DWord)} {s u : State}
  (hz : s.snd.zcReports = before ++ (ch.val, t) :: rest) (hb : ∀ r ∈ before, r.1 ≠ ch.val)
  (hu : u = { s with snd := { s.snd with zcReports := before ++ rest } })
include hz hb hu

theorem zeroCrossing_of_other (ho : (axis s 2).src ≠ 1 ∨ (axis s 2).input ≠ ch.val) : exec (.zeroCrossing ch) s = .next u := by
  have hno : ¬ ((axis u 2).src = 1 ∧ (axis u 2).input = ch.val) := by
    rw [show axis u 2 = axis s 2 by rw [hu]; rfl]
    rintro ⟨hs, hi⟩
    exact ho.elim (absurd hs) (absurd hi)
  simp only [exec_zeroCrossing, execZeroCrossing, hz, takeReport_append hb, ← hu]
  rw [if_neg (by simpa using hno)]

theorem zeroCrossing_of_source (hs : (axis s 2).src = 1) (hi : (axis s 2).input = ch.val) :
    exec (.zeroCrossing ch) s = .next (axisIrq u (crossing u t)) := by
  have hown : (axis u 2).src = 1 ∧ (axis u 2).input = ch.val := by
    rw [show axis u 2 = axis s 2 by rw [hu]; rfl]
    exact ⟨hs, hi⟩
  simp only [exec_zeroCrossing, execZeroCrossing, hz, takeReport_append hb, ← hu]
  rw [if_pos (by simpa using hown)]
end

section
variable {s : State} {t tk : DWord} (hc : (axis s 2).crossedAt = some tk) (hl : (axis s 2).lost = false)
include hc hl

/-- A crossing half a period or more after the last moves the axis to the next whole cycle and measures the period. -/
theorem crossing_counts (hp : (axis s 2).period ≤ 2 * (t.toInt - tk.toInt).toNat) :
    crossing s t = modAxis s 2 (fun a => { a with
      crossings := a.crossings + 1, crossedAt := some t, lost := false
      period := max 1000000 (min 100000000 (t.toInt - tk.toInt).toNat), raw := BitVec.ofNat 64 ((a.crossings + 1) * 65536) }) :=
  modAxis_congr (by simp [hc, hl, Nat.not_lt.mpr hp])

/-- A crossing less than half a period after the last is discarded and counted. -/
theorem crossing_early (hp : 2 * (t.toInt - tk.toInt).toNat < (axis s 2).period) :
    crossing s t = modAxis s 2 (fun a => { a with earlyDiscards := a.earlyDiscards + 1 }) :=
  modAxis_congr (by simp [hc, hl, hp])
end

/-! ### Time-driven events (R34, R36, R38) -/

section
variable {s : State}

theorem lost_of_late {tk : DWord} (hc : (axis s 2).crossedAt = some tk) (hs : (axis s 2).src ≠ 0) (hl : (axis s 2).lost = false)
    (ht : 5 * ((axis s 2).period : Int) ≤ 2 * ((ax0 s).toInt - tk.toInt)) :
    exec .lost s = .next (axisIrq s (modAxis s 2 (fun a => { a with
      lost := true, raw := BitVec.ofNat 64 (a.crossings * 65536 + 65535) }))) := by
  simp [execLost, hc, hs, hl, ht]

theorem holdoverLimit_of_over (hh : (axis s 0).holdover = true) (ho : (axis s 0).holdoverOver = false)
    (he : elapsed s (axis s 0).holdoverSince (s.tim.holdoverLimit * 1000000000) = true) :
    exec .holdoverLimit s = .next (axisIrq s (modAxis s 0 (fun a => { a with holdoverOver := true }))) := by
  simp [execHoldoverLimit, hh, ho, he]
end

/-- A tick: step 1, the waiting writes, step 3, then the output edges and what the next tick compares with. -/
theorem timingTick_eq {s u v : State} (hu : u = tickStep1 (latchViews s))
    (hv : v = evaluate ([0, 1, 2, 3].foldl applyWrite u) ([0, 1, 2, 3].map (fun n => stepOf (axis u n)))) :
    exec .timingTick s = .next (axisIrq (latchViews s) { v with tim := { v.tim with
      outputs := v.tim.outputs.map (fun o => placeEdges (rawNow v) (2 * o.sched.length + 2) o)
      axes := v.tim.axes.map (fun a => { a with prev := a.value, prevPath := a.path }), pins := clockPins v } }) := by
  simp only [exec_timingTick, execTimingTick, tick, ← hu, ← hv]

/-! ### Axes (O29) -/

/-- Settles O29: the two accesses that latch; the reports of the zero-crossing detectors; then the time-driven events. -/
theorem axesHaveTheirEffect : Obligations.AxesHaveTheirEffect := by
  unfold Obligations.AxesHaveTheirEffect
  refine ⟨fun s u hd hb hu => ?latches, ?other, ?source, fun s => ⟨?lost, holdoverLimit_of_over, fun u v => timingTick_eq⟩⟩
  case latches =>
    have hbu : u.bring.bootFail = false := by rw [hu, opcodePhase_bring, hb]
    have htim : s.tim = u.tim := by rw [hu, opcodePhase_tim]
    refine ⟨?_, fun n v _ hv => ?_⟩
    · have hbe : (hostError u 0 u.hp.word).bring.bootFail = false := hbu
      have hp : (peek u .host 0x300).isSome := by rw [peek_axSnap .host hbu]; rfl
      rw [htim]
      exact congrArg Host.Outcome.next
        (portWrite_host hd hu (by decide) hp (regWrite_axSnap .host hbe (by decide) 0 0) rfl rfl)
    · rw [← readValHi_eq] at hv
      have hp : (peek u .host (0x310 + 32 * n.val)).isSome := by rw [peek_axnValHi .host hbu n]; rfl
      rw [hv]
      exact congrArg Host.Outcome.next (portRead_host_of_regRead hd hu (by omega) hp (regRead_axnValHi .host hbu n))
  case other => exact fun ch t before rest s u hz hb hu => zeroCrossing_of_other hz hb hu
  case source =>
    intro ch t tk before rest s u hz hb hu hs hi hc hl _ _
    have hax : axis u 2 = axis s 2 := by rw [hu]; rfl
    rw [zeroCrossing_of_source hz hb hu hs hi]
    rw [← hax] at hc hl ⊢
    exact ⟨fun hp => by rw [crossing_counts hc hl hp], fun hp => by rw [crossing_early hc hl hp]⟩
  case lost => exact fun tk => lost_of_late

end Sys2Proof.Machine
end

section
/-! SUPPORT. What the model sends in a DATA slot of plane B alone, and a module for which that is less than plane B permits (R274 to
R276). -/
namespace Sys2Proof.Machine

/-! ### A DATA slot of plane B alone (R275, R276) -/

/-- Where a slot has no entry on a plane in any basic cycle, the node sends nothing in it there. -/
theorem sendEntry_eq_none {s : State} {pb : Bool} {slot : Nat} (h : ∀ b, slotEntry s pb slot b = none) : sendEntry s pb slot = none := by
  simp only [sendEntry, h, Option.map_none, ite_self]
  cases cycleAt s (dUp s pb) <;> rfl

/-- A frame put on a plane leaves the bridge and the tunnels alone. -/
theorem sendOn_br (s : State) (pb : Bool) (t : Int) (bs : List Byte) : (sendOn s pb t bs).br = s.br := by
  simp only [sendOn]
  split
  · split <;> rfl
  · rfl

/-- The model gives the frame of an own DATA slot of plane B alone the room that both planes permit, not that of plane B. -/
theorem slotTransmit_of_planeB_alone {s u : State} {slot : Nat} {b t : Int} {e : SchedEntry} {a bb : List Byte}
    (hA : sendEntry s false slot = none) (hB : sendEntry s true slot = some (b, e, t)) (hty : e.ty = 2)
    (howner : e.owner = s.bank.net.deviceId)
    (hc : slotContent s slot (2 ^ b2n true) (min (frameLimit s false e) (frameLimit s true e) - 34) = (a, bb, u)) :
    exec (.slotTransmit slot) s
      = .next (sendOn u true t (flovisFrame u true 3 slot (u.net.sched.cyc b) (u.net.sched.ccount b) bb)) := by
  have hownA : ownEntry s false slot = none := by simp [ownEntry, hA]
  have hownB : ownEntry s true slot = some (b, e, t) := by simp [ownEntry, hB, hty, howner]
  have hcontrol (v : State) : sendControl v slot true b e t = v := by simp [sendControl, hty]
  simp [execSlotTransmit, transmitSlot, sendData, hA, hB, hownA, hownB, hcontrol, hc]

/-! ### Plane B beside a slower plane A -/

/-- A DATA slot of 8,000 ns on plane B alone. It takes a frame of 730 bytes at 1000 Mbit/s, and one of 55 bytes at 100 Mbit/s. -/
def dataSlotB : SchedEntry := { ty := 2, planes := 2, owner := 0, slot := 1, rep := 1, base := 0, start := 100000, length := 8000 }

/-- A lane that runs. -/
def laneInService : LaneSt := { st := .active, held := false, latch := false }

/-- A module in service and in SYNC, a node of plane A at 100 Mbit/s and the star of plane B at 1000 Mbit/s, under a schedule that passes
the checks of R274. Its tunnel endpoint 0 holds one container with a body of 16 bytes for the DATA slot. -/
def slowPlaneA : State :=
  { State.reset with
    modu.mode := .voted3, pwr.on := 0xFF, bring.stage := .none, bank.valid := true, prog := some {}
    lanes := ⟨laneInService, laneInService, laneInService⟩
    net.node := .sync, net.sched.id := 1
    net.sched.entries := [{ ty := 1, planes := 3, owner := 0xFFFF, slot := 0, rep := 1, base := 0, start := 0, length := 40000 }, dataSlotB,
      { ty := 4, planes := 3, owner := 0xFFFF, slot := 2, rep := 1, base := 0, start := 200000, length := 40000 }]
    bank.net.ports := [{ role := 1, speed := 2, linkDelay := 100 }, { role := 2, planeB := true, speed := 1, linkDelay := 100 }]
    bank.net.tx := [{ slot := 1, planes := 2, ty := 4, auto := false, ident := 0 }]
    br.eps := [{ ep := 0, iface := 0, peer := 1, peerEp := 0, delay := 0, filters := [], outQ := [List.replicate 16 0] }] }

theorem slowPlaneA_sends_nothing_on_planeA : sendEntry slowPlaneA false 1 = none :=
  sendEntry_eq_none (fun b => by simp [slotEntry, slowPlaneA, dataSlotB, SchedEntry.present, bit, b2n])

theorem slowPlaneA_sends_on_planeB : sendEntry slowPlaneA true 1 = some (0, dataSlotB, 100000) := by decide

/-- How many containers each tunnel endpoint has sent. -/
def tunnelsSent (s : State) : List Nat := s.br.eps.map (·.sent)

theorem tunnelsSent_sendOn (s : State) (pb : Bool) (t : Int) (bs : List Byte) : tunnelsSent (sendOn s pb t bs) = tunnelsSent s := by
  rw [tunnelsSent, sendOn_br, tunnelsSent]

/-- In the room that plane B permits, the container goes. -/
theorem slowPlaneA_content_planeB :
    tunnelsSent (slotContent slowPlaneA 1 (2 ^ b2n true) (frameLimit slowPlaneA true dataSlotB - 34)).2.2 = [1] := by decide

/-- In the room that both planes permit, the container stays. -/
theorem slowPlaneA_content_both_planes : tunnelsSent (slotContent slowPlaneA 1 (2 ^ b2n true)
    (min (frameLimit slowPlaneA false dataSlotB) (frameLimit slowPlaneA true dataSlotB) - 34)).2.2 = [0] := by decide

/-- The model sends a frame without the container. -/
theorem slowPlaneA_slotTransmit : ∃ v, exec (.slotTransmit 1) slowPlaneA = .next v ∧ tunnelsSent v = [0] := by
  refine ⟨_, slotTransmit_of_planeB_alone slowPlaneA_sends_nothing_on_planeA slowPlaneA_sends_on_planeB rfl rfl rfl, ?_⟩
  rw [tunnelsSent_sendOn]
  exact slowPlaneA_content_both_planes

/-! ### Times and slots of a node (O52) -/

/-- Refutes O52: in a slot of plane B alone the statement gives the DATA frame the room that plane B permits (R275), while the model's
sendData begins its minimum with the limit of plane A. Where plane A is the slower one (R274), a container that fits on plane B is not
sent: slowPlaneA keeps its tunnel container, which the statement has sent. -/
theorem not_nodeTimesAndSlotsHaveTheirEffect : ¬ Obligations.NodeTimesAndSlotsHaveTheirEffect := by
  unfold Obligations.NodeTimesAndSlotsHaveTheirEffect
  rintro ⟨-, hslots⟩
  obtain ⟨hone, -⟩ := hslots slowPlaneA
  obtain ⟨v, hmodel, hkept⟩ := slowPlaneA_slotTransmit
  have hstated := hone true 1 0 dataSlotB 100000 _ _ _ slowPlaneA_sends_on_planeB slowPlaneA_sends_nothing_on_planeA (.inl ⟨rfl, rfl⟩) rfl
  have hv := Host.Outcome.next.inj (hmodel.symm.trans hstated)
  have hsent : tunnelsSent v = [1] := by
    rw [hv, tunnelsSent_sendOn]
    exact slowPlaneA_content_planeB
  exact absurd (hkept.symm.trans hsent) (by decide)

end Sys2Proof.Machine
end

section
/-! SUPPORT. What the diagnostic commands, the tunnel commands and FENCE_CLEAR do with a request (R84, R165, R177 to R179, R330, R339,
R453). -/
namespace Sys2Proof.Machine

/-! ### Injection test and debug attach (R165, R177, R178) -/

section
variable {mb : Mb} {s : State}

theorem selftestRun_starts (h : Asked s mb 0x0C00 false false []) (hidle : s.vote.injecting = none) :
    exec (.selftestRun mb) s = .next (waitMb (startInjection s (.command mb)) mb) := by
  rw [exec_selftestRun, execSelftestRun, runCmd_asked h (by rfl), hidle]
  rfl

/-- An attach that none of the refusals of R177 meets is kept for the next harvest of T0. -/
theorem dbgAttach_kept {w t r : Word} (hsess : inSession s mb = true)
    (hmode : s.modu.mode = .voted3 ∨ (s.modu.mode = .voted2 ∧ s.bank.modu.bench = true)) (hlane : bits w.toNat 0 2 ≠ 3)
    (htask : bit w.toNat 8 = true → (allTasks s).contains (bits t.toNat 0 4) = true)
    (hactive : (lane s (laneOf (bits w.toNat 0 2))).st = .active) (hdebug : debugging s = false) (hnone : s.vote.attach = none) :
    dbgAttach s mb [w, t, r] = okMb { s with vote := { s.vote with
      attach := some (laneOf (bits w.toNat 0 2), bit w.toNat 8, bits t.toNat 0 4, r), debugMb := some mb } } mb [] := by
  have hpermitted : (s.modu.mode = .voted3 || (s.modu.mode = .voted2 && s.bank.modu.bench)) = true := by simpa using hmode
  have hnamed : (bits w.toNat 0 2 = 3 || (bit w.toNat 8 && !(allTasks s).contains (bits t.toNat 0 4))) = false := by
    simpa [hlane] using htask
  have hfree : ((lane s (laneOf (bits w.toNat 0 2))).st != .active || debugging s || s.vote.attach.isSome) = false := by
    simp [hactive, hdebug, hnone]
  simp only [dbgAttach, wNat, List.getD_cons_zero, List.getD_cons_succ, hsess, hpermitted, hnamed, hfree, Bool.not_true, Bool.false_eq_true,
    if_false]

theorem dbgDetach_detaches (h : Asked s mb 0x0C02 false false []) (hdebug : debugging s = true) :
    exec (.dbgDetach mb) s = .next (okMb (detach s) mb []) := by
  rw [exec_dbgDetach, execDbgDetach, runCmd_asked h (by rfl), hdebug]
  rfl

/-! ### LANE_STATUS (R84, R179, R453) -/

/-- LANE_STATUS of a named lane without a memory read. DOMAIN_OFF of a lane whose domain is off is deduced (R369, R370; log 185). -/
theorem laneStatus_answers {w : Word} (h : Asked s mb 0x0C03 true true [w]) (hread : bit w.toNat 8 = false)
    (hlane : bits w.toNat 0 2 ≠ 3) :
    exec (.laneStatus mb) s = .next (if laneDomainOn s (laneOf (bits w.toNat 0 2))
      then okMb s mb (laneStatus s (laneOf (bits w.toNat 0 2))) else resultMb s mb 6) := by
  rw [exec_laneStatus, execLaneStatus, runCmd_asked h (by simp [wNat, hread])]
  simp only [wNat, List.getD_cons_zero, hlane, hread, if_false, Bool.false_eq_true]
  cases laneDomainOn s (laneOf (bits w.toNat 0 2)) <;> rfl

/-- A memory read of a lane whose domain is on is that of laneMemory. -/
theorem laneStatus_reads {w v first n : Word} (h : Asked s mb 0x0C03 true true [w, v, first, n]) (hread : bit w.toNat 8 = true)
    (hlane : bits w.toNat 0 2 ≠ 3) (hon : laneDomainOn s (laneOf (bits w.toNat 0 2)) = true) :
    exec (.laneStatus mb) s = .next (laneMemory s mb (laneOf (bits w.toNat 0 2)) [w, v, first, n]) := by
  rw [exec_laneStatus, execLaneStatus, runCmd_asked h (by simp [wNat, hread])]
  simp only [wNat, List.getD_cons_zero, hlane, hread, hon, if_false, if_true, Bool.not_true, Bool.false_eq_true]

/-- A lane frozen in DEBUG answers a read of declared pages with their words and nibbles. -/
theorem laneMemory_of_frozen {w v first n : Word} {l : Lane} (hst : (lane s l).st = .debug) (hfreeze : (lane s l).freeze = true)
    (hfrozen : (lane s l).frozen = true) (hspace : bits v.toNat 8 2 ≠ 3) (h0 : n ≠ 0) (hmax : n.toNat ≤ 4096)
    (hdecl : (List.range n.toNat).all (fun k =>
      (findPage (lane s l).pages (bits v.toNat 0 4) (bits v.toNat 8 2) ((first.toNat + k) / 256)).isSome) = true) {out : List QWord}
    (hout : out = (List.range n.toNat).map (fun k => readWord (lane s l).pages (bits v.toNat 0 4) (bits v.toNat 8 2) (first.toNat + k)
      (laneTask s l (bits v.toNat 0 4)).cyc.rel.toNat)) :
    laneMemory s mb l [w, v, first, n] = okMb s mb (out.map (·.v) ++ nibbleWords ((n.toNat + 7) / 8) out) := by
  subst hout
  have hn : n.toNat ≠ 0 := fun h => h0 (BitVec.eq_of_toNat_eq h)
  have hcount : ¬ 4096 < n.toNat := Nat.not_lt.mpr hmax
  simp only [laneMemory, wNat, List.getD_cons_zero, List.getD_cons_succ, hst, hfreeze, hfrozen, hspace, hn, hcount, hdecl, decide_true,
    decide_false, Bool.and_self, Bool.or_self, Bool.not_true, Bool.false_eq_true, if_false]

/-! ### Tunnels (R339) -/

/-- TUNNEL_OPEN of a closed endpoint with a transmit entry, on an interface that is on and, where it carries one endpoint, free. -/
theorem tunnelOpen_opens {w p d : Word} {fs : List Word} (h : Asked s mb 0x0D00 false false (w :: p :: d :: fs))
    (hlen : fs.length = 2 * bits w.toNat 12 4) (hfilters : bits w.toNat 12 4 ≤ 8) (hon : ifOn s (bits w.toNat 8 2) = true)
    (hcan : 2 ≤ bits w.toNat 8 2 → bits w.toNat 12 4 = 0) (hdelay : d = 0 ∨ (250 ≤ d.toNat ∧ d.toNat ≤ 100000))
    (htx : s.bank.net.tx.any (fun x => x.ty = 4 && x.ident = bits w.toNat 0 5) = true) (hclosed : endpoint s (bits w.toNat 0 5) = none)
    (hfree : 2 ≤ bits w.toNat 8 2 → s.br.eps.any (fun e => e.iface = bits w.toNat 8 2) = false) :
    exec (.tunnelOpen mb) s = .next (resultMb (tunnelRecord { s with br := { s.br with
      eps := (s.br.eps.filter (fun y => y.ep < bits w.toNat 0 5))
        ++ { ep := bits w.toNat 0 5, iface := bits w.toNat 8 2, peer := bits p.toNat 0 10, peerEp := bits p.toNat 16 5, delay := d.toNat
             filters := filterWords (bits w.toNat 12 4) fs }
        :: (s.br.eps.filter (fun y => bits w.toNat 0 5 < y.ep)) } } 0 0x9007 (bits w.toNat 0 5) true) mb 0) := by
  have hcount : ¬ 8 < bits w.toNat 12 4 := Nat.not_lt.mpr hfilters
  have htime : (d.toNat = 0 || (250 ≤ d.toNat && d.toNat ≤ 100000)) = true := by
    simpa using hdelay.imp_left (congrArg BitVec.toNat)
  have hnofilter : (!decide (bits w.toNat 8 2 < 2) && bits w.toNat 12 4 != 0) = false := by
    simpa only [Bool.and_eq_false_imp, Bool.not_eq_true', decide_eq_false_iff_not, Nat.not_lt, bne_eq_false_iff_eq] using hcan
  have hown : (!decide (bits w.toNat 8 2 < 2) && s.br.eps.any (fun e => e.iface = bits w.toNat 8 2)) = false := by
    simpa only [Bool.and_eq_false_imp, Bool.not_eq_true', decide_eq_false_iff_not, Nat.not_lt] using hfree
  rw [exec_tunnelOpen, execTunnelOpen, runCmd_asked h (by simp only [List.length_cons, hlen, wNat, List.getD_cons_zero]; omega)]
  simp only [wNat, List.getD_cons_zero, List.getD_cons_succ, List.drop_succ_cons, List.drop_zero, hon, htx, hcount, hnofilter, htime,
    hclosed, hown, decide_false, Option.isSome_none, Bool.not_true, Bool.or_self, Bool.false_eq_true, if_false]

theorem tunnelClose_closes {w : Word} (h : Asked s mb 0x0D01 true true [w]) (hopen : (endpoint s (bits w.toNat 0 5)).isSome = true) :
    exec (.tunnelClose mb) s = .next (resultMb (tunnelRecord { s with br := { s.br with
      eps := s.br.eps.filter (fun x => x.ep ≠ bits w.toNat 0 5) } } 0 0x9007 (bits w.toNat 0 5) false) mb 0) := by
  have hsome : ¬ (endpoint s (bits w.toNat 0 5)).isNone = true := by simpa [Option.isSome_iff_ne_none] using hopen
  rw [exec_tunnelClose, execTunnelClose, runCmd_asked h (by rfl)]
  exact congrArg Host.Outcome.next (if_neg hsome)

/-! ### FENCE_CLEAR (R330) -/

theorem fenceClear_issues {w : Word} {x : NodeSt} (h : Asked s mb 0x0D02 false false [w]) (hx : x = nodeSt s (bits w.toNat 0 10))
    (hfenced : x.fenced = true) (hfree : x.clearing = none) (hnet : domainOn s 5 = true) :
    exec (.fenceClear mb) s = .next (issue (modNode (waitMb s mb) (bits w.toNat 0 10)
        (fun y => { y with clearing := some (mb, x.next, rawNow s), next := (x.next + 1) % 65536 }))
      true (bits w.toNat 0 10) none 0 (requestBody 4 0 x.next x.last 0 [])) := by
  subst hx
  rw [exec_fenceClear, execFenceClear, runCmd_asked h (by rfl)]
  simp only [wNat, List.getD_cons_zero, hfenced, hfree, hnet, Option.isSome_none, Bool.not_true, Bool.false_eq_true, if_false]

/-- The request time of the only node's RESYNC has passed. -/
theorem fenceClearTimeout_of_elapsed {n : NodeSt} {tag at_ : Nat} (hn : s.br.nodes = [n]) (hc : n.clearing = some (mb, tag, at_))
    (he : elapsed s at_ (s.bank.net.bridge.reqTimeout * 1000000) = true) :
    exec (.fenceClearTimeout mb) s = .next (resultMb (modNode s n.node (fun y => { y with clearing := none })) mb 8) := by
  simp [execFenceClearTimeout, hn, hc, he]
end

/-! ### Diagnostic and bridge commands (O24) -/

/-- Settles O24: each diagnostic, tunnel and fence command under its condition, and the timeout of FENCE_CLEAR. -/
theorem diagnosticAndBridgeCommandsHaveTheirEffect : Obligations.DiagnosticAndBridgeCommandsHaveTheirEffect := by
  unfold Obligations.DiagnosticAndBridgeCommandsHaveTheirEffect
  refine fun mb s => ⟨selftestRun_starts, ?attach, dbgDetach_detaches, fun w => laneStatus_answers, ?memory, ?tunnel,
    fun w => tunnelClose_closes, fun w x => fenceClear_issues, fun n tag at_ => fenceClearTimeout_of_elapsed⟩
  case attach =>
    intro w t r h hsess hmode hlane htask hactive hdebug hnone
    rw [exec_dbgAttach, execDbgAttach, runCmd_asked h (by rfl), dbgAttach_kept hsess hmode hlane htask hactive hdebug hnone]
  case memory =>
    intro w v first n l t space out h hread hlane hl hon hst hfreeze hfrozen ht hspace h3 h0 hmax hdecl hout
    subst hl ht hspace
    rw [laneStatus_reads h hread hlane hon, laneMemory_of_frozen hst hfreeze hfrozen h3 h0 hmax hdecl hout]
  case tunnel =>
    intro w p d fs ep i h hep hi hlen hfilters hon hcan hdelay htx hclosed hfree
    subst hep hi
    exact ⟨_, rfl, tunnelOpen_opens h hlen hfilters hon hcan hdelay htx hclosed hfree⟩

end Sys2Proof.Machine
end

section
/-! SUPPORT. What an ECC error and an expired task watchdog do in a lane (R83, R84, R138 to R140). -/
namespace Sys2Proof.Machine

/-! ### ECC errors (R83, R84) -/

section
variable {s : State} {l : Lane} (hon : (lane s l).st ≠ .off) (mem : LaneMem) (b addr : Nat)
include hon

theorem eccEvent_uncorrectable : eccEvent s l mem b addr false = stopLane (raiseLane s l 2 2 0x1002 b 0 0xFFFFFFFF) l := by
  simp [eccEvent, hon]

/-- A corrected error is counted and its time kept; it is recorded where none at its address lies less than 1 s back.
That the 1 s counts from the latest error, recorded or not, and that LOCATION names pan 0 are the model's choices (log 164). -/
theorem eccEvent_corrected {same : LaneMem × Nat × Nat × Nat → Bool} {u : State}
    (hsame : same = (fun e => e.1 = mem && e.2.1 = b && e.2.2.1 = addr))
    (hu : u = modLane s l (fun x => { countEcc x mem with
      eccLast := (mem, b, addr, rawNow s) :: x.eccLast.filter (fun e => !same e) })) :
    eccEvent s l mem b addr true
      = if (lane s l).eccLast.any (fun e => same e && !elapsed s e.2.2.2 1000000000) then u
        else raiseLane u l 1 1 0x1001 b 0 0xFFFFFFFF := by
  subst hsame hu
  simp only [eccEvent, hon, Bool.not_true, Bool.false_eq_true, if_false]
end

/-! ### Task watchdogs (R138 to R140) -/

@[simp] theorem hubTask_modLaneTask (s : State) (l : Lane) (t k : Nat) (f : LaneTask → LaneTask) :
    hubTask (modLaneTask s l t f) k = hubTask s k := by
  rw [hubTask, modLaneTask_hubt, hubTask]

/-- The watchdog of the release in flight expires in an ACTIVE lane while two other ACTIVE lanes go on: a record of the lane only. -/
theorem watchdogExpires_of_two_left {s u : State} {l : Lane} {t : Nat} {rel : Word} (hactive : (lane s l).st = .active)
    (hwatch : (laneTask s l t).watch = some rel) (hflight : (hubTask s t).inFlight = true) (hover : (hubTask s t).overrun = false)
    (hrel : (s.tim.gens.getD t {}).count = rel)
    (hu : u = modTask (modLaneTask s l t (fun lt => { lt with expired := some rel, watch := none })) t
      (fun h => { h with expired := addNew h.expired l }))
    (hleft : 2 ≤ activeCount u - ((activeLanes u).filter (fun k => (hubTask u t).expired.contains k)).length) :
    watchdogExpires s l t
      = raise u { region := .lane l, sev := 2, level := 2, code := 0x3004, loc := BitVec.ofNat 32 t, arg0 := rel } := by
  subst hu
  simp only [watchdogExpires, hwatch, hactive, hubTask_modLaneTask, modLaneTask_tim, hflight, hover, hrel, bne_self_eq_false,
    Bool.not_true, Bool.or_self, Bool.false_eq_true, if_false]
  exact if_pos hleft

/-! ### Lane faults (O33) -/

/-- Settles O33: an uncorrectable and a corrected ECC error, then a task watchdog that leaves two lanes. -/
theorem laneFaultsHaveTheirEffect : Obligations.LaneFaultsHaveTheirEffect := by
  unfold Obligations.LaneFaultsHaveTheirEffect
  refine ⟨fun l mem b addr s hon => ⟨?uncorrectable, ?corrected⟩, ?watchdog⟩
  case uncorrectable => rw [exec_eccError, execEccError, eccEvent_uncorrectable hon]
  case corrected =>
    intro same u hsame hu
    rw [exec_eccError, execEccError, eccEvent_corrected hon mem b.val addr hsame hu]
  case watchdog =>
    intro l t s u rel hactive hwatch hflight hover hrel hu hleft
    rw [exec_taskWatchdogExpiry, execTaskWatchdogExpiry, watchdogExpires_of_two_left hactive hwatch hflight hover hrel hu hleft]

end Sys2Proof.Machine
end

section
/-! SUPPORT. What the compare opcodes evaluate to where they have no result (R94, R103, R104). -/
namespace Sys2Proof.Machine

/-! ### Compares with a NaN (R103, R104) -/

theorem tyLt_real_of_nan {u v : Opnd} (h : f32nan u.w = true ∨ f32nan v.w = true) : tyLt 2 u v = none := by
  simp [tyLt, h]

theorem Fl.add_nan_right (f : Fmt) (a : Fl) : Fl.add f a .nan = .nan := by cases a <;> rfl

theorem Fl.sub_of_nan (f : Fmt) {a b : Fl} (h : a.isNan = true ∨ b.isNan = true) : Fl.sub f a b = .nan := by
  simp only [Fl.isNan, beq_iff_eq] at h
  obtain rfl | rfl := h
  · rfl
  · exact Fl.add_nan_right f a

@[simp] theorem Fl.sub_inf_self (f : Fmt) (neg : Bool) : Fl.sub f (.inf neg) (.inf neg) = .nan := by cases neg <;> rfl

theorem compare_op_cases {op : Nat} (hlo : 0x10 ≤ op) (hhi : op ≤ 0x17) :
    op = 0x10 ∨ op = 0x11 ∨ op = 0x12 ∨ op = 0x13 ∨ op = 0x14 ∨ op = 0x15 ∨ op = 0x16 ∨ op = 0x17 := by omega

theorem opInfo_of_compare {op : Nat} (hlo : 0x10 ≤ op) (hhi : op ≤ 0x17) : ∃ i, opInfo op = some i := by
  obtain rfl | rfl | rfl | rfl | rfl | rfl | rfl | rfl := compare_op_cases hlo hhi
  all_goals exact ⟨_, rfl⟩

section
variable {x : EvalIn} {konst : List Word}

theorem evalCompare_none_of_nan_ab (hlo : 0x10 ≤ x.op) (hhi : x.op ≤ 0x17) (hty : x.ty = 2)
    (h : f32nan x.a.w = true ∨ f32nan x.b.w = true) : evalCompare x = none := by
  have hab : tyLt 2 x.a x.b = none := tyLt_real_of_nan h
  have hba : tyLt 2 x.b x.a = none := tyLt_real_of_nan h.symm
  have hsub : Fl.sub .b32 (.of32 x.a.w) (.of32 x.b.w) = .nan := Fl.sub_of_nan .b32 h
  obtain hop | hop | hop | hop | hop | hop | hop | hop := compare_op_cases hlo hhi
  all_goals simp [evalCompare, hop, hty, hab, hba, hsub, Fl.isNan]

theorem evalCompare_within_none_of_nan_c (hop : x.op = 0x16) (hty : x.ty = 2) (h : f32nan x.c.w = true) : evalCompare x = none := by
  have hca : tyLt 2 x.c x.a = none := tyLt_real_of_nan (.inl h)
  simp [evalCompare, hop, hty, hca]

theorem evalCompare_near_none (hop : x.op = 0x17)
    (h : Fl.sub .b32 (.of32 x.a.w) (.of32 x.b.w) = .nan ∨ f32nan x.c.w = true) : evalCompare x = none := by
  simp only [evalCompare, hop]
  exact if_pos (by simpa [Fl.isNan] using h)

theorem evalCompare_none_of_comparesNan (hlo : 0x10 ≤ x.op) (hhi : x.op ≤ 0x17) (hty : x.ty = 2) (h : comparesNan x = true) :
    evalCompare x = none := by
  simp only [comparesNan, Bool.or_eq_true, Bool.and_eq_true, decide_eq_true_eq] at h
  obtain hab | ⟨hop, hc⟩ := h
  · exact evalCompare_none_of_nan_ab hlo hhi hty hab
  · obtain hop | hop : x.op = 0x16 ∨ x.op = 0x17 := by omega
    · exact evalCompare_within_none_of_nan_c hop hty hc
    · exact evalCompare_near_none hop (.inr hc)

theorem eval_of_evalCompare_none (hlo : 0x10 ≤ x.op) (hhi : x.op ≤ 0x17) (h : evalCompare x = none) :
    eval x konst = { words := [boolWord ((x.op == 0x11) != x.inv)], q := qInvalid } := by
  obtain ⟨i, hi⟩ := opInfo_of_compare hlo hhi
  simp [eval, hi, h, hhi, show ¬ x.op ≤ 0x0F by omega]

theorem eval_compare_words (hlo : 0x10 ≤ x.op) (hhi : x.op ≤ 0x17) : ∃ b, (eval x konst).words = [boolWord b] := by
  cases h : evalCompare x with
  | none => exact ⟨_, by rw [eval_of_evalCompare_none hlo hhi h]⟩
  | some b =>
    obtain ⟨i, hi⟩ := opInfo_of_compare hlo hhi
    exact ⟨b != x.inv, by simp [eval, hi, h, hhi, show ¬ x.op ≤ 0x0F by omega]⟩

end

/-! ### Compares (O13) -/

/-- Settles O13: no compare has a result where an operand is a NaN, nor has NEAR where the difference is one. -/
theorem compareWithNanIsInvalid : Obligations.CompareWithNanIsInvalid := by
  unfold Obligations.CompareWithNanIsInvalid
  intro x konst hlo hhi hty h
  refine eval_of_evalCompare_none hlo hhi ?_
  obtain hnan | ⟨hop, neg, ha, hb⟩ := h
  · exact evalCompare_none_of_comparesNan hlo hhi hty hnan
  · exact evalCompare_near_none hop (.inl (by rw [ha, hb, Fl.sub_inf_self]))

end Sys2Proof.Machine
end

section
/-! SUPPORT. What a word is as BOOL, and what the opcodes with a BOOL output write (R91, R94, R102, R103, R110, R113, R114, R116). -/
namespace Sys2Proof.Machine

/-! ### BOOL words (R91) -/

theorem eq_zero_of_no_bit {w : Word} (h : ¬ ∃ i, i < 32 ∧ w.getLsbD i = true) : w = 0 :=
  BitVec.eq_of_getLsbD_eq fun i hi => (Bool.eq_false_iff.mpr fun hset => h ⟨i, hi, hset⟩).trans BitVec.getLsbD_zero.symm

theorem asBool_eq_true_iff (w : Word) : asBool w = true ↔ ∃ i, i < 32 ∧ w.getLsbD i = true := by
  rw [asBool, bne_iff_ne]
  constructor
  · intro hne
    exact Classical.byContradiction fun hbits => hne (eq_zero_of_no_bit hbits)
  · rintro ⟨i, -, hset⟩ rfl
    exact Bool.false_ne_true (BitVec.getLsbD_zero.symm.trans hset)

theorem boolWord_words (b : Bool) : [boolWord b] = [0] ∨ [boolWord b] = [1] := by cases b <;> simp [boolWord]

/-! ### Opcodes with a BOOL output (R102, R103, R110, R113, R114, R116) -/

theorem op_of_bool_out {op : Nat} {i : OpInfo} (hi : opInfo op = some i) (hout : i.out = .bool) :
    op ≤ 0x0F ∨ (0x10 ≤ op ∧ op ≤ 0x17) ∨ (0x50 ≤ op ∧ op ≤ 0x53) ∨ (0x55 ≤ op ∧ op ≤ 0x57) ∨ op = 0x5B ∨
      (op = 0x60 ∨ op = 0x61) ∨ op = 0x62 ∨ op = 0x71 := by
  unfold opInfo at hi
  split at hi <;> cases hi <;> simp at hout ⊢

section
variable {x : EvalIn} {konst : List Word}

theorem eval_logic_words {i : OpInfo} (hi : opInfo x.op = some i) (hout : i.out = .bool) (hop : x.op ≤ 0x0F) :
    ∃ b, (eval x konst).words = [boolWord b] :=
  ⟨asBool ((evalLogic x).getD 0 0) != x.inv, by simp [eval, hi, hout, hop]⟩

theorem eval_timer (hlo : 0x50 ≤ x.op) (hhi : x.op ≤ 0x53) : ∃ q, eval x konst = evalTimer x q := by
  obtain hop | hop | hop | hop : x.op = 0x50 ∨ x.op = 0x51 ∨ x.op = 0x52 ∨ x.op = 0x53 := by omega
  all_goals
    simp only [eval, opInfo, hop]
    exact ⟨_, rfl⟩

theorem eval_edge (hlo : 0x55 ≤ x.op) (hhi : x.op ≤ 0x57) : ∃ q, eval x konst = evalEdge x q := by
  obtain hop | hop | hop : x.op = 0x55 ∨ x.op = 0x56 ∨ x.op = 0x57 := by omega
  all_goals
    simp only [eval, opInfo, hop]
    exact ⟨_, rfl⟩

theorem eval_pair (hop : x.op = 0x5B) : ∃ q, eval x konst = evalPair x q := by
  simp only [eval, opInfo, hop]
  exact ⟨_, rfl⟩

theorem eval_latch (hop : x.op = 0x60 ∨ x.op = 0x61) : ∃ q, eval x konst = evalLatch x q := by
  obtain hop | hop := hop
  all_goals
    simp only [eval, opInfo, hop]
    exact ⟨_, rfl⟩

theorem eval_hyst (hop : x.op = 0x62) : ∃ q, eval x konst = evalHyst x q := by
  simp only [eval, opInfo, hop]
  exact ⟨_, rfl⟩

theorem eval_inMask_words (hop : x.op = 0x71) : (eval x konst).words = [boolWord (acceptable x.param x.a.q != x.inv)] := by
  simp [eval, opInfo, evalQuality, hop]

theorem evalTimer_words (hop : x.op ≠ 0x54) (q : BitVec 4) : ∃ b, (evalTimer x q).words = [boolWord b] := by
  simp only [evalTimer, beq_eq_false_iff_ne.mpr hop]
  exact ⟨_, rfl⟩

theorem evalEdge_words (q : BitVec 4) : ∃ b, (evalEdge x q).words = [boolWord b] := ⟨_, rfl⟩

theorem evalPair_words (q : BitVec 4) : ∃ b, (evalPair x q).words = [boolWord b] := ⟨_, rfl⟩

theorem evalLatch_words (q : BitVec 4) : ∃ b, (evalLatch x q).words = [boolWord b] := ⟨_, rfl⟩

theorem evalHyst_words (q : BitVec 4) : ∃ b, (evalHyst x q).words = [boolWord b] := ⟨_, rfl⟩

/-- Every BOOL output is one word, formed from a truth value to which INV has been applied. -/
theorem eval_bool_words {i : OpInfo} (hi : opInfo x.op = some i) (hout : i.out = .bool) :
    ∃ b, (eval x konst).words = [boolWord b] := by
  obtain hop | ⟨hlo, hhi⟩ | ⟨hlo, hhi⟩ | ⟨hlo, hhi⟩ | hop | hop | hop | hop := op_of_bool_out hi hout
  · exact eval_logic_words hi hout hop
  · exact eval_compare_words hlo hhi
  · obtain ⟨q, h⟩ := eval_timer (konst := konst) hlo hhi
    exact h ▸ evalTimer_words (by omega) q
  · obtain ⟨q, h⟩ := eval_edge (konst := konst) hlo hhi
    exact h ▸ evalEdge_words q
  · obtain ⟨q, h⟩ := eval_pair (konst := konst) hop
    exact h ▸ evalPair_words q
  · obtain ⟨q, h⟩ := eval_latch (konst := konst) hop
    exact h ▸ evalLatch_words q
  · obtain ⟨q, h⟩ := eval_hyst (konst := konst) hop
    exact h ▸ evalHyst_words q
  · exact ⟨_, eval_inMask_words hop⟩

end

/-! ### BOOL values (O14) -/

/-- Settles O14: a word is nonzero as one of its bits is, and a BOOL output is the word of a truth value. -/
theorem boolsAreReadAndWrittenWhole : Obligations.BoolsAreReadAndWrittenWhole := by
  unfold Obligations.BoolsAreReadAndWrittenWhole
  refine ⟨asBool_eq_true_iff, fun x i konst hi hout => ?_⟩
  obtain ⟨b, hwords⟩ := eval_bool_words (konst := konst) hi hout
  rw [hwords]
  exact boolWord_words b

end Sys2Proof.Machine
end

section
/-! SUPPORT. What the INT32 arithmetic evaluates to: wrapped, saturated, divided, and divided by zero (R93, R96, R105, R106). -/
namespace Sys2Proof.Machine

/-! ### The range of INT32 (R96) -/

theorem toInt_ofInt_int32 {z : Int} (hlo : -2 ^ 31 ≤ z) (hhi : z ≤ 2 ^ 31 - 1) : (BitVec.ofInt 32 z).toInt = z :=
  BitVec.toInt_ofInt_eq_self (by decide) hlo (Int.lt_of_le_sub_one hhi)

theorem toInt_int32_range (w : Word) : -2 ^ 31 ≤ w.toInt ∧ w.toInt ≤ 2 ^ 31 - 1 :=
  ⟨w.le_toInt, Int.le_sub_one_of_lt BitVec.toInt_lt⟩

theorem toInt_ne_zero {w : Word} (h : w ≠ 0) : w.toInt ≠ 0 := fun hzero => h (BitVec.eq_of_toInt_eq hzero)

/-- The quotient of two INT32 values is one, but for that of -2^31 and -1. -/
theorem tdiv_overflows_or_int32 (a b : Word) :
    (a.toInt = -2 ^ 31 ∧ b.toInt = -1) ∨ (-2 ^ 31 ≤ a.toInt.tdiv b.toInt ∧ a.toInt.tdiv b.toInt ≤ 2 ^ 31 - 1) := by
  by_cases ha : a = BitVec.intMin 32
  · by_cases hb : b = -1#32
    · subst ha hb
      exact .inl (by decide)
    · exact .inr (BitVec.toInt_sdiv_of_ne_or_ne a b (.inr hb) ▸ toInt_int32_range _)
  · exact .inr (BitVec.toInt_sdiv_of_ne_or_ne a b (.inl ha) ▸ toInt_int32_range _)

theorem int32_le_tdiv (a b : Word) : -2 ^ 31 ≤ a.toInt.tdiv b.toInt := by
  obtain ⟨ha, hb⟩ | ⟨hlo, -⟩ := tdiv_overflows_or_int32 a b
  · rw [ha, hb]
    decide
  · exact hlo

theorem toInt_ofInt_tmod (a b : Word) : (BitVec.ofInt 32 (a.toInt.tmod b.toInt)).toInt = a.toInt.tmod b.toInt := by
  rw [← BitVec.toInt_srem, BitVec.ofInt_toInt]

/-! ### Results of INT32 (R96, R106) -/

@[simp] theorem opInt_int32 (o : Opnd) : opInt 0 o = o.w.toInt := rfl

@[simp] theorem intWords_int32 (z : Int) : intWords 0 z = [BitVec.ofInt 32 z] := rfl

@[simp] theorem intResult_wrap_int32 (z : Int) : intResult 0 false z = [BitVec.ofInt 32 z] := rfl

theorem intResult_saturates_int32 (z : Int) :
    ∃ w : Word, intResult 0 true z = [w] ∧ w.toInt = max (-2 ^ 31) (min (2 ^ 31 - 1) z) :=
  ⟨_, rfl, toInt_ofInt_int32 (Int.le_max_left _ _) (Int.max_le.mpr ⟨by decide, Int.min_le_left _ _⟩)⟩

theorem intDiv_of_ne {ty : Nat} {sat : Bool} {n d : Int} {q : BitVec 4} (hd : d ≠ 0) :
    intDiv ty sat n d q = { words := intResult ty sat (Int.tdiv n d), q := q } := if_neg hd

theorem intDiv_wrap_zero_int32 (n : Int) (q : BitVec 4) : intDiv 0 false n 0 q = { words := [0], q := qInvalid } := rfl

theorem intDiv_saturating_zero_int32 (n : Int) (q : BitVec 4) :
    ∃ w : Word, intDiv 0 true n 0 q = { words := [w], q := qInvalid } ∧
      w.toInt = if 0 < n then 2 ^ 31 - 1 else if n < 0 then -2 ^ 31 else 0 := by
  refine ⟨BitVec.ofInt 32 (if 0 < n then 2 ^ 31 - 1 else if n < 0 then -2 ^ 31 else 0), rfl, toInt_ofInt_int32 ?_ ?_⟩
  all_goals omega

/-! ### INT32 arithmetic, 0x20 to 0x28 (R105, R106) -/

theorem opInfo_of_binary_arith {op : Nat} (hlo : 0x20 ≤ op) (hhi : op ≤ 0x28) :
    ∃ i, opInfo op = some i ∧ i.a = .ty ∧ i.b = .ty ∧ i.c = .none := by
  obtain rfl | rfl | rfl | rfl | rfl | rfl | rfl | rfl | rfl : op = 0x20 ∨ op = 0x21 ∨ op = 0x22 ∨ op = 0x23 ∨ op = 0x24 ∨
      op = 0x25 ∨ op = 0x26 ∨ op = 0x27 ∨ op = 0x28 := by omega
  all_goals exact ⟨_, rfl, rfl, rfl, rfl⟩

section
variable {x : EvalIn} {konst : List Word}

theorem eval_int32 (hty : x.ty = 0) (hlo : 0x20 ≤ x.op) (hhi : x.op ≤ 0x28) :
    eval x konst = evalInt x (qWorst [x.a.q, x.b.q]) := by
  obtain ⟨i, hi, ha, hb, hc⟩ := opInfo_of_binary_arith hlo hhi
  simp [eval, argC, hi, ha, hb, hc, hty, show ¬ x.op ≤ 0x0F by omega, show ¬ x.op ≤ 0x17 by omega, show x.op ≤ 0x31 by omega]

theorem eval_saturates {z : Int} {q : BitVec 4} (h : eval x konst = { words := intResult 0 true z, q := q }) :
    ∃ w : Word, eval x konst = { words := [w], q := q } ∧ w.toInt = max (-2 ^ 31) (min (2 ^ 31 - 1) z) := by
  obtain ⟨w, hw, hval⟩ := intResult_saturates_int32 z
  exact ⟨w, by rw [h, hw], hval⟩

end

/-! ### Integer arithmetic (O15) -/

/-- Settles O15: sums and products, saturated forms, then division and remainder by a divisor and by zero. -/
theorem integerOperationsWrapAndSaturate : Obligations.IntegerOperationsWrapAndSaturate := by
  unfold Obligations.IntegerOperationsWrapAndSaturate
  intro x konst hty
  refine ⟨?add, ?mul, ?addS, ?subS, ?mulS, ?div, ?divS, ?mod, ?wrapByZero, ?divSByZero⟩
  case add => intro hop; simp [eval_int32 hty, evalInt, hop, hty]
  case mul => intro hop; simp [eval_int32 hty, evalInt, hop, hty]
  case addS => exact fun hop => eval_saturates (by simp [eval_int32 hty, evalInt, hop, hty])
  case subS => exact fun hop => eval_saturates (by simp [eval_int32 hty, evalInt, hop, hty])
  case mulS => exact fun hop => eval_saturates (by simp [eval_int32 hty, evalInt, hop, hty])
  case div =>
    intro hop hb
    refine ⟨BitVec.ofInt 32 (x.a.w.toInt.tdiv x.b.w.toInt),
      by simp [eval_int32 hty, evalInt, hop, hty, intDiv_of_ne (toInt_ne_zero hb)], ?_⟩
    obtain ⟨hmin, hneg⟩ | ⟨hlo, hhi⟩ := tdiv_overflows_or_int32 x.a.w x.b.w
    · exact .inr ⟨hmin, hneg, by rw [hmin, hneg]; decide⟩
    · exact .inl (toInt_ofInt_int32 hlo hhi)
  case divS =>
    intro hop hb
    have hdiv : eval x konst = { words := intResult 0 true (x.a.w.toInt.tdiv x.b.w.toInt), q := qWorst [x.a.q, x.b.q] } := by
      simp [eval_int32 hty, evalInt, hop, hty, intDiv_of_ne (toInt_ne_zero hb)]
    obtain ⟨w, heval, hw⟩ := eval_saturates hdiv
    exact ⟨w, heval, hw.trans (Int.max_eq_right (Int.le_min.mpr ⟨by decide, int32_le_tdiv _ _⟩))⟩
  case mod =>
    intro hop hb
    exact ⟨BitVec.ofInt 32 (x.a.w.toInt.tmod x.b.w.toInt),
      by simp [eval_int32 hty, evalInt, hop, hty, toInt_ne_zero hb], toInt_ofInt_tmod _ _⟩
  case wrapByZero =>
    rintro (hop | hop) hb
    · simp [eval_int32 hty, evalInt, hop, hty, hb, intDiv_wrap_zero_int32]
    · simp [eval_int32 hty, evalInt, hop, hty, hb]
  case divSByZero =>
    intro hop hb
    obtain ⟨w, hdiv, hw⟩ := intDiv_saturating_zero_int32 x.a.w.toInt (qWorst [x.a.q, x.b.q])
    exact ⟨w, by simp [eval_int32 hty, evalInt, hop, hty, hb, hdiv], hw⟩

end Sys2Proof.Machine
end

section
/-! SUPPORT. What the force commands do with a request, and what the lanes' acknowledge makes of the entry that awaits it (R143 to R147,
R453). -/
namespace Sys2Proof.Machine

/-! ### FORCE_SET (R143, R146) -/

section
variable {mb : Mb} {s : State}

/-- FORCE_SET of a bound and permitted target that is not safety-classed, with a place in the table and no other change under way. -/
theorem forceSet_waits {p : Program} {k : Nat} {w id v0 v1 : Word} (h : Asked s mb 0x0400 false false [w, id, v0, v1])
    (hprog : s.prog = some p) (hbound : p.bindsTarget (bits w.toNat 24 8) id = true)
    (hperm : p.perms.contains { kind := bits w.toNat 24 8, id := id } = true)
    (hclass : safetyClassed s p (bits w.toNat 24 8) id = false) (hfree : s.modu.forceWait = none)
    (hslot : forceSlot s (bits w.toNat 24 8) id = some k) :
    exec (.forceSet mb) s = .next (waitMb { s with modu := { s.modu with
      forces := s.modu.forces ++ [{ slot := k, kind := bits w.toNat 24 8, id := id, v0 := v0, v1 := v1, keep := bit w.toNat 0 }]
      forceWait := some mb } } mb) := by
  rw [exec_forceSet, execForceSet, runCmd_asked h (by rfl)]
  simp only [wNat, List.getD_cons_zero, List.getD_cons_succ, hprog, Option.getD_some, hbound, hperm, hclass, hfree, hslot,
    Option.isSome_none, Bool.not_true, Bool.false_and, Bool.or_self, Bool.false_eq_true, if_false]

/-! ### FORCE_CLEAR (R146, R453) -/

/-- The entries that FORCE_CLEAR names by its word: every one by 0xFFFFFFFF, that of its number by any other. -/
def clearNames (k : Word) (f : Force) : Bool := decide (k.toNat = 0xFFFFFFFF) || decide (f.slot = k.toNat)

theorem clearNames_every (f : Force) : clearNames 0xFFFFFFFF f = true := rfl

theorem clearNames_one {k : Word} (hk : k ≠ 0xFFFFFFFF) (f : Force) : clearNames k f = decide (f.slot = k.toNat) := by
  have hnum : k.toNat ≠ 0xFFFFFFFF := fun h => hk (BitVec.eq_of_toNat_eq h)
  rw [clearNames, decide_eq_false hnum, Bool.false_or]

/-- FORCE_CLEAR that names an entry marks what it names, and waits for the lanes where no other change is under way. -/
theorem forceClear_waits {k : Word} (h : Asked s mb 0x0401 true true [k]) (hfree : s.modu.forceWait = none)
    (hnamed : s.modu.forces.any (clearNames k) = true) :
    exec (.forceClear mb) s = .next (waitMb { s with modu := { s.modu with
      forces := s.modu.forces.map (fun f => if clearNames k f then { f with leaving := true } else f)
      forceWait := some mb } } mb) := by
  obtain ⟨f, hf, -⟩ := List.any_eq_true.mp hnamed
  have hused : s.modu.forces.isEmpty = false := List.isEmpty_eq_false_iff_exists_mem.mpr ⟨f, hf⟩
  have hgoes : s.modu.forces.any (fun f => decide (k.toNat = 0xFFFFFFFF) || decide (f.slot = k.toNat)) = true := hnamed
  rw [exec_forceClear, execForceClear, runCmd_asked h (by rfl)]
  simp only [wNat, List.getD_cons_zero, hfree, hgoes, hused, Option.isSome_none, Bool.not_true, Bool.and_false,
    Bool.false_eq_true, if_false]
  rfl

theorem forceClear_one {k : Word} (h : Asked s mb 0x0401 true true [k]) (hk : k ≠ 0xFFFFFFFF) (hfree : s.modu.forceWait = none)
    (hused : s.modu.forces.any (fun f => f.slot = k.toNat) = true) :
    exec (.forceClear mb) s = .next (waitMb { s with modu := { s.modu with
      forces := s.modu.forces.map (fun f => if f.slot = k.toNat then { f with leaving := true } else f)
      forceWait := some mb } } mb) := by
  have hnames : clearNames k = fun f => decide (f.slot = k.toNat) := funext (clearNames_one hk)
  rw [forceClear_waits h hfree (by rw [hnames]; exact hused)]
  simp only [hnames, decide_eq_true_eq]

theorem forceClear_every (h : Asked s mb 0x0401 true true [0xFFFFFFFF]) (hfree : s.modu.forceWait = none) (hne : s.modu.forces ≠ []) :
    exec (.forceClear mb) s = .next (waitMb { s with modu := { s.modu with
      forces := s.modu.forces.map (fun f => { f with leaving := true }), forceWait := some mb } } mb) := by
  obtain ⟨f, hf⟩ := List.exists_mem_of_ne_nil _ hne
  rw [forceClear_waits h hfree (List.any_eq_true.mpr ⟨f, hf, clearNames_every f⟩)]
  simp only [clearNames_every, if_true]

/-! ### FORCE_LIST (R453) -/

/-- A walk over the places of the table meets an entry once, at its own. -/
theorem flatMap_range_slot (f : Force) {n : Nat} (hn : f.slot < n) :
    (List.range n).flatMap (fun k => [f].filter (fun g => decide (g.slot = k))) = [f] := by
  induction n with
  | zero => omega
  | succ n ih =>
    rw [List.range_succ, List.flatMap_append, List.flatMap_singleton]
    rcases Nat.lt_succ_iff_lt_or_eq.mp hn with hlt | rfl
    · rw [ih hlt, List.filter_cons_of_neg (by simpa using Nat.ne_of_lt hlt)]
      rfl
    · rw [List.filter_cons_of_pos (by simp), List.flatMap_eq_nil_iff.mpr]
      · rfl
      · intro k hk
        exact List.filter_cons_of_neg (by simpa using Nat.ne_of_gt (List.mem_range.mp hk))

theorem forceList_single {f : Force} (h : Asked s mb 0x0402 true true []) (htable : forceTable s = [f]) (hslot : f.slot < 256) :
    exec (.forceList mb) s = .next (okMb s mb
      [1, BitVec.ofNat 32 f.slot, BitVec.ofNat 32 (f.kind * 2 ^ 24 + b2n f.keep), f.id, f.v0, f.v1]) := by
  rw [exec_forceList, execForceList, runCmd_asked h (by rfl), htable, flatMap_range_slot f hslot]
  rfl

/-! ### The lanes' acknowledge (R144, R145) -/

/-- The only entry of the table is new: it governs from now on, is recorded as a FORCE_SET, and its number ends the command. -/
theorem forceAcknowledge_set {f : Force} (hwait : s.modu.forceWait = some mb) (hforces : s.modu.forces = [f])
    (hnew : f.effective = false) (hstays : f.leaving = false) (htable : forceTable s = [f]) :
    exec .forceAcknowledge s = .next (finishMb (setIrq (forceRecord { s with modu := { s.modu with
      forces := [{ f with effective := true }], forceWait := none } } 1 f) irqForce) mb 0 [BitVec.ofNat 32 f.slot]) := by
  have hset : s.modu.forces.filter (fun g => !g.effective && !g.leaving) = [f] := by simp [hforces, hnew, hstays]
  have hcleared : s.modu.forces.filter (·.leaving) = [] := by simp [hforces, hstays]
  have hkept : (forceTable s).filter (fun g => !g.leaving) = [f] := by simp [htable, hstays]
  simp only [exec_forceAcknowledge, execForceAcknowledge, hwait, hset, hcleared, hkept, List.map_cons, List.map_nil, List.foldl_cons,
    List.foldl_nil]
end

/-! ### Force commands (O19) -/

/-- Settles O19: FORCE_SET, the two forms of FORCE_CLEAR, FORCE_LIST, and the lanes' acknowledge of a set. -/
theorem forceCommandsHaveTheirEffect : Obligations.ForceCommandsHaveTheirEffect := by
  unfold Obligations.ForceCommandsHaveTheirEffect
  exact fun mb s => ⟨fun p k w id v0 v1 => forceSet_waits, fun k => forceClear_one, forceClear_every, fun f => forceList_single,
    fun f => forceAcknowledge_set⟩

end Sys2Proof.Machine
end

section
/-! SUPPORT. What each stage of a restart and of a rejoin makes of a lane (R84, R171 to R173). -/
namespace Sys2Proof.Machine

section
variable {s : State} {l : Lane}

/-! ### The self-tests of a restart (R171) -/

/-- A self-test of a restart is over, `left` are the lanes still to test: after the last one a module without two lanes halts (R171). -/
def endSelftest (left : List Lane) (s : State) : State :=
  if left = [] ∧ (lanesIn s .rejoining).length < 2 then enterHalted s else s

section
variable {u : State} {left : List Lane} {fail : Option Nat} {bad : List (Fin 16 × Fin 16)}
  (hrestart : s.vote.restarting = true) (htested : s.vote.selftests.contains l = true)
  (hleft : left = s.vote.selftests.filter (· ≠ l))
  (hu : u = modLane { s with vote := { s.vote with selftests := left } } l (fun x => { setRetired x bad with injection := some (fail.getD 0) }))
include hrestart htested hleft hu

/-- A lane that passes begins its load. -/
theorem restartSelftest_passed (hpass : fail = none) :
    restartSelftest s l fail bad = endSelftest left (modLane u l (fun x => { x with stage := .load })) := by
  subst hleft hu hpass
  simp only [restartSelftest, hrestart, htested, Bool.not_true, Bool.or_self, Bool.false_eq_true, if_false, endSelftest,
    Bool.and_eq_true, List.isEmpty_iff, decide_eq_true_eq]

/-- A lane that fails is excluded, counted. The event and the pattern as its argument are the model's choice (log 52). -/
theorem restartSelftest_failed {p : Nat} (hfail : fail = some p) :
    restartSelftest s l fail bad = endSelftest left (toExcluded (raiseHub u 2 0x2004 (laneNum l) p) l true) := by
  subst hleft hu hfail
  simp only [restartSelftest, hrestart, htested, Bool.not_true, Bool.or_self, Bool.false_eq_true, if_false, endSelftest,
    Bool.and_eq_true, List.isEmpty_iff, decide_eq_true_eq]
end

/-! ### The load of a restart (R171, R223) -/

/-- The lanes of a restart that passed load together, and wait for the first release. -/
theorem checkpointLoaded_awaits {u : State} {ls : List Lane} (hrestart : s.vote.restarting = true)
    (hwait : s.vote.awaitRelease = false) (htests : s.vote.selftests = []) (hruns : s.vote.noRestart = false)
    (hservice : inService s = true) (hpower : s.pwr.on &&& laneBits = laneBits)
    (hu : u = (allTasks s).foldl (fun v t => modTask v t (fun h => { h with
      wpos := 1, window := s.bank.modu.window
      switched := if v.xch.switchingSince.isSome && (newTasks v).contains t then h.ckptNew else h.switched })) s)
    (hls : ls = (lanesIn u .rejoining).filter (fun l => (lane u l).restartPath && (lane u l).stage = .load)) (hsome : ls ≠ []) :
    checkpointLoaded s
      = { ls.foldl (fun v l => modLane (loadLane v l) l (fun x => { x with stage := .await, loaded := true })) u with
          vote := { (ls.foldl (fun v l => modLane (loadLane v l) l (fun x => { x with stage := .await, loaded := true })) u).vote with
            awaitRelease := true } } := by
  subst hu hls
  have hjoin := mt List.isEmpty_iff.mp hsome
  simp only [checkpointLoaded, hrestart, hwait, htests, hruns, hservice, hpower, List.isEmpty_nil, Bool.not_true, Bool.or_self,
    bne_self_eq_false, Bool.false_eq_true, if_false]
  exact if_neg hjoin

/-! ### The end of the reset hold (R172) -/

/-- 100 µs after its exclusion a cool lane leaves its hold: it rejoins where it may return, otherwise it is beyond REJOIN_LIMIT. -/
theorem holdOver_of_due (hst : (lane s l).st = .excluded) (hrun : (lane s l).holdRunning = true)
    (hdue : elapsed s (lane s l).holdAt 100000 = true) (hcool : (lane s l).hot = false) (hrestart : s.vote.restarting = false)
    (hswitch : s.xch.switchingSince = none) (hservice : inService s = true) :
    holdOver s l = if mayReturn s l
      then modLane s l (fun x => { x with st := .rejoining, restartPath := false, stage := .selftest, held := false, holdRunning := false })
      else modLane s l (fun x => { x with beyond := true, holdRunning := false }) := by
  simp only [holdOver, hst, hrun, hdue, hcool, hrestart, hswitch, hservice, bne_self_eq_false, Option.isSome_none, Bool.not_true,
    Bool.or_self, Bool.false_eq_true, if_false]

/-! ### The self-test and the load of a rejoin (R84, R173) -/

theorem rejoinSelftest_passed (bad : List (Fin 16 × Fin 16)) (hat : rejoinsAt s l .selftest = true) :
    rejoinSelftest s l none bad = modLane (modLane s l (fun x => { setRetired x bad with injection := some 0 })) l
      (fun x => { x with stage := .load }) := by
  simp only [rejoinSelftest, hat, Bool.not_true, Bool.false_eq_true, if_false, Option.getD_none]

/-- The event and the pattern as its argument are the model's choice (log 52). -/
theorem rejoinSelftest_failed (bad : List (Fin 16 × Fin 16)) (p : Nat) (hat : rejoinsAt s l .selftest = true) :
    rejoinSelftest s l (some p) bad
      = failRejoin (modLane s l (fun x => { setRetired x bad with injection := some p })) l 0x2004 p := by
  simp only [rejoinSelftest, hat, Bool.not_true, Bool.false_eq_true, if_false, Option.getD_some]

@[simp] theorem allTasks_modLane (f : LaneSt → LaneSt) : allTasks (modLane s l f) = allTasks s := rfl

theorem allTasks_loadLaneTask (t : Nat) : allTasks (loadLaneTask s l t) = allTasks s := by
  unfold loadLaneTask
  cases hp : laneProg s ((hubTask s t).ckptNew && s.progNew.isSome) with
  | none => simp only [hp]
  | some p => simp only [hp]; rfl

/-- The load of a lane leaves the programs and so their tasks. -/
@[simp] theorem allTasks_loadLane : allTasks (loadLane s l) = allTasks s :=
  List.foldlRecOn (motive := fun u => allTasks u = allTasks s) (allTasks s) _ rfl
    (fun _ hu t _ => (allTasks_loadLaneTask t).trans hu)

/-- The lane that has loaded catches up, first with the tasks at rest. -/
theorem rejoinLoaded_catchesUp (hat : rejoinsAt s l .load = true) :
    rejoinLoaded s l true = (allTasks s).foldl catchUps
      (modLane (loadLane s l) l (fun x => { x with stage := .catchUp, loaded := true, shadowT0 := 0 })) := by
  simp only [rejoinLoaded, hat, Bool.not_true, Bool.false_eq_true, if_false, allTasks_modLane, allTasks_loadLane]

/-- A load that fails excludes the lane. The word of vectors as the argument is the model's choice (log 69). -/
theorem rejoinLoaded_failed (hat : rejoinsAt s l .load = true) :
    rejoinLoaded s l false = failRejoin s l 0x2001 (vectorsWord s 0) := by
  simp only [rejoinLoaded, hat, Bool.not_true, Bool.false_eq_true, if_false, Bool.not_false, if_true]
end

/-! ### Restart and rejoin (O42) -/

/-- Settles O42: the self-test and the load of a restart, the end of a reset hold, then the self-test and the load of a rejoin. -/
theorem restartAndRejoinHaveTheirEffect : Obligations.RestartAndRejoinHaveTheirEffect := by
  unfold Obligations.RestartAndRejoinHaveTheirEffect
  refine fun l bad s => ⟨?restartSelftest, ?restartLoad, ?hold, ?rejoinSelftest, ?rejoinLoad⟩
  case restartSelftest =>
    intro u left fail hrestart htested hleft hu
    refine ⟨_, rfl, congrArg Host.Outcome.next ?_⟩
    cases fail with
    | none => exact restartSelftest_passed hrestart htested hleft hu rfl
    | some p => exact restartSelftest_failed hrestart htested hleft hu rfl
  case restartLoad =>
    intro u ls w hw hrestart hwait htests hruns hservice hpower hu hls hsome
    subst hw
    exact ⟨_, rfl, congrArg Host.Outcome.next (checkpointLoaded_awaits hrestart hwait htests hruns hservice hpower hu hls hsome)⟩
  case hold =>
    intro hst hrun hdue hcool hrestart hswitch hservice
    exact congrArg Host.Outcome.next (holdOver_of_due hst hrun hdue hcool hrestart hswitch hservice)
  case rejoinSelftest =>
    exact fun hat => ⟨congrArg Host.Outcome.next (rejoinSelftest_passed bad hat),
      fun p => congrArg Host.Outcome.next (rejoinSelftest_failed bad p hat)⟩
  case rejoinLoad =>
    exact fun hat => ⟨congrArg Host.Outcome.next (rejoinLoaded_catchesUp hat), congrArg Host.Outcome.next (rejoinLoaded_failed hat)⟩

end Sys2Proof.Machine
end

section
/-! SUPPORT. How an injection test begins and ends, what a pulse of an acknowledge input counts for, what a lane's report of one does, and
when an input is jammed and free again (R164, R165, R185). -/
namespace Sys2Proof.Machine

section
variable {s : State}

/-! ### The injection test (R164, R165) -/

theorem injectionTestTimer_of_due (hservice : inService s = true) (hidle : s.vote.injecting = none)
    (hdue : elapsed s s.vote.lastInject 86400000000000 = true) : exec .injectionTestTimer s = .next (startInjection s .timer) := by
  simp only [exec_injectionTestTimer, execInjectionTestTimer, hservice, hidle, hdue, Option.isSome_none, Bool.not_true, Bool.or_self,
    Bool.false_eq_true, if_false]

section
variable {u : State} (seen : List InjectSeen) (hu : u = { s with vote := { s.vote with testFrames := [] } })
include hu

theorem injectionTestResult_bringUp (hstage : s.bring.stage = .l3) :
    exec (.injectionTestResult seen) s = .next (bringUpResult u (testFails s seen)) := by
  subst hu
  exact if_pos hstage

theorem injectionTestResult_service {who : InjectBy} (hstage : s.bring.stage ≠ .l3) (hwho : s.vote.injecting = some who) :
    exec (.injectionTestResult seen) s = .next (serviceResult u who (testFails s seen)) := by
  subst hu
  simp only [exec_injectionTestResult, execInjectionTestResult, hstage, if_false, hwho]
end

/-! ### A pulse of an acknowledge input (R185) -/

section
variable {rcv : AckReceiver} {src : AckSource}

@[simp] theorem ackEnabled_takePulse : ackEnabled (takePulse s rcv src) src = ackEnabled s src := by
  cases src with
  | pin => rfl
  | channel => cases rcv <;> rfl

@[simp] theorem ackIsJammed_takePulse : ackIsJammed (takePulse s rcv src) src = ackIsJammed s src := by
  cases src with
  | pin => rfl
  | channel => cases rcv <;> rfl

@[simp] theorem ackTimes_takePulse : ackTimes (takePulse s rcv src) rcv = ackTimes s rcv := by
  cases src with
  | pin => cases rcv <;> rfl
  | channel =>
    cases rcv with
    | lane l => simp only [takePulse, modAckTrack, ackTimes, lane_modLane, modLane_modu]
    | resetController => rfl

/-- A pulse that ends at a receiver that times its source, enabled and not jammed, is judged once it is taken. -/
theorem ackEdge_judged {hi n : Nat} {stp st : Bool} (hen : ackEnabled s src = true) (hjam : ackIsJammed s src = false)
    (htimes : ackTimes s rcv = true) (hended : endedPulse s rcv src hi stp = some (n, st)) :
    exec (.ackEdge rcv src hi stp) s = .next (judgePulse (takePulse s rcv src) rcv src n st) := by
  simp only [exec_ackEdge, execAckEdge, hended, ackEnabled_takePulse, ackIsJammed_takePulse, ackTimes_takePulse, hen, hjam, htimes,
    Bool.not_true, Bool.or_self, Bool.false_eq_true, if_false]

section
variable {n : Nat} {st : Bool}

theorem judgePulse_long (hlong : 2000000000 < n) : judgePulse s rcv src n st = s := if_pos hlong

/-- That one receiver counts a pulse for all of them rests on log 63. -/
theorem judgePulse_short (hshort : n < 100000000) :
    judgePulse s rcv src n st = if countsPulse s rcv then { s with ack := { s.ack with short := s.ack.short + 1 } } else s := by
  have hnot : ¬ 2000000000 < n := by omega
  simp only [judgePulse, hnot, hshort, if_false, if_true]

section
variable (hlo : 100000000 ≤ n) (hhi : n ≤ 2000000000)
include hlo hhi

/-- That one receiver records the spoilt pulse for all of them rests on log 63. -/
theorem judgePulse_spoilt (hst : st = true) (hsrc : src = .channel) :
    judgePulse s rcv src n st = if countsPulse s rcv then raiseHub s 1 0xF003 else s := by
  subst hst hsrc
  simp only [judgePulse, Nat.not_lt.mpr hlo, Nat.not_lt.mpr hhi, if_false, decide_true, Bool.and_self, if_true]

variable (hclean : (st && decide (src = .channel)) = false)
include hclean

theorem judgePulse_lane (l : Lane) :
    judgePulse s (.lane l) src n st = modLane s l (fun x => { x with ackReported := addNew x.ackReported src }) := by
  simp only [judgePulse, Nat.not_lt.mpr hlo, Nat.not_lt.mpr hhi, hclean, Bool.false_eq_true, if_false]

theorem judgePulse_resetController : judgePulse s .resetController src n st = acceptAck s := by
  simp only [judgePulse, Nat.not_lt.mpr hlo, Nat.not_lt.mpr hhi, hclean, Bool.false_eq_true, if_false]
end
end
end

/-! ### The lanes' reports (R185) -/

section
variable {src : AckSource} {l : Lane} {u : State} {had : List (AckSource × Lane × Nat × Bool)}
  (hrep : (lane s l).ackReported.contains src = true) (hactive : (lane s l).st = .active)
  (hu : u = purgeReports (modLane s l (fun x => { x with ackReported := x.ackReported.filter (· ≠ src) })) src)
  (hhad : had = u.ack.reports.filter (fun r => r.1 = src && r.2.1 != l))
include hrep hactive hu hhad

/-- The first report of an edge is kept for a second one. -/
theorem ackReport_first (hnone : had = []) :
    exec (.ackReport l src) s = .next { u with ack := { u.ack with reports := u.ack.reports ++ [(src, l, rawNow u, false)] } } := by
  have hempty : had.isEmpty = true := List.isEmpty_iff.mpr hnone
  subst hhad
  simp only [exec_ackReport, execAckReport, hrep, lane_modLane, hactive, ← hu, hempty, bne_self_eq_false, Bool.not_true, Bool.and_false,
    Bool.false_and, Bool.false_eq_true, if_false, List.map_id']

/-- A second report marks both as one edge and accepts it; where they are marked already the edge has been accepted. -/
theorem ackReport_again {v : State} (hsome : had ≠ [])
    (hv : v = { u with ack := { u.ack with reports := (u.ack.reports ++ [(src, l, rawNow u, false)]).map (fun r =>
      if r.1 = src then (r.1, r.2.1, r.2.2.1, true) else r) } }) :
    exec (.ackReport l src) s = .next (if had.all (fun r => !r.2.2.2) then acceptAck v else v) := by
  have hmark : had.isEmpty = false := List.isEmpty_eq_false_iff.mpr hsome
  subst hhad hv
  simp only [exec_ackReport, execAckReport, hrep, lane_modLane, hactive, ← hu, hmark, bne_self_eq_false, Bool.not_true, Bool.not_false,
    Bool.and_true, Bool.true_and, Bool.false_eq_true, decide_eq_true_eq, if_false]
end

/-! ### Jams (R185) -/

section
variable {src : AckSource}

/-- The ACK_JAMMED of one source, set or cleared. -/
def setJammed (s : State) (src : AckSource) (jammed : Bool) : State :=
  { s with ack := match src with
    | .pin => { s.ack with pinJammed := jammed }
    | .channel => { s.ack with chJammed := jammed } }

theorem ackJammed_sets {rcv : AckReceiver} (hen : ackEnabled s src = true) (hjam : ackIsJammed s src = false)
    (htimes : ackTimes s rcv = true) (hhigh : heldHigh s rcv src = true) :
    exec (.ackJammed rcv src) s = .next (raiseHub (setJammed s src true) 1 0xF002) := by
  simp only [exec_ackJammed, execAckJammed, hen, hjam, htimes, hhigh, Bool.not_true, Bool.or_self, Bool.false_eq_true, if_false]
  cases src <;> rfl

theorem ackJamClear_clears (hlow : heldLow s src = true) : exec (.ackJamClear src) s = .next (setJammed s src false) := by
  simp only [exec_ackJamClear, execAckJamClear, hlow, Bool.not_true, Bool.false_eq_true, if_false]
  cases src <;> rfl
end
end

/-! ### Injection and acknowledge (O43) -/

/-- Settles O43: the start and the result of an injection test; a pulse by its length, a jam, the lanes' reports, the end of a jam. -/
theorem injectionAndAcknowledgeHaveTheirEffect : Obligations.InjectionAndAcknowledgeHaveTheirEffect := by
  unfold Obligations.InjectionAndAcknowledgeHaveTheirEffect
  refine ⟨fun s => ⟨injectionTestTimer_of_due, fun who seen u hu =>
    ⟨injectionTestResult_service seen hu, injectionTestResult_bringUp seen hu⟩⟩, fun src s => ⟨?pulse, ?jam, ?report, rfl, ?clear⟩⟩
  case pulse =>
    intro rcv hi stp n st u hen hjam htimes hended hu
    subst hu
    rw [ackEdge_judged hen hjam htimes hended]
    refine ⟨fun hlo hhi hclean => ?_, fun hshort => ?_, fun hlo hhi hst hsrc => ?_, fun hlong => ?_⟩
    · have hclean : (st && decide (src = .channel)) = false := by obtain rfl | rfl := hclean <;> simp
      cases rcv with
      | lane l => rw [judgePulse_lane hlo hhi hclean]
      | resetController => rw [judgePulse_resetController hlo hhi hclean]
    · rw [judgePulse_short hshort]
    · rw [judgePulse_spoilt hlo hhi hst hsrc]
    · rw [judgePulse_long hlong]
  case jam => exact fun rcv hen hjam htimes hhigh => ackJammed_sets hen hjam htimes hhigh
  case report =>
    exact fun l u had hrep hactive hu hhad => ⟨ackReport_first hrep hactive hu hhad,
      fun hsome => ⟨_, rfl, ackReport_again hrep hactive hu hhad hsome rfl⟩⟩
  case clear => exact ackJamClear_clears

end Sys2Proof.Machine
end

section
/-! SUPPORT. What the system commands, the session commands and SAFE_ACK do with a request (R186, R423, R427, R446, R450, R451, R453). -/
namespace Sys2Proof.Machine

/-! ### GET_INFO to START (R423, R427, R453) -/

section
variable {mb : Mb} {s : State}

theorem getInfo_answers (h : Asked s mb 0x0100 true true []) : exec (.getInfo mb) s = .next (okMb s mb (infoWords s)) := by
  rw [exec_getInfo, execGetInfo, runCmd_asked h (by rfl)]

theorem getStatus_answers (h : Asked s mb 0x0101 true true []) : exec (.getStatus mb) s = .next (okMb s mb (statusWords s)) := by
  rw [exec_getStatus, execGetStatus, runCmd_asked h (by rfl)]

/-- MODULE_RESET with its key word: outside the voted modes and SAFE it needs no session. -/
theorem moduleReset_taken (h : Asked s mb 0x0102 true true [0x52535421]) (hsess : inService s = true → inSession s mb = true) :
    exec (.moduleReset mb) s = .next (okMb { s with bring := { s.bring with resetWait := some (mb, rawNow s) } } mb []) := by
  have hpermitted : ¬ (inService s && !inSession s mb) = true := by simpa using hsess
  rw [exec_moduleReset, execModuleReset, runCmd_asked h (by rfl), if_neg hpermitted]
  rfl

/-- The reset follows as soon as the mailbox is DONE no more. -/
theorem resetExecute_resets {t : Nat} (hwait : s.bring.resetWait = some (mb, t)) (hack : (mbox s mb).st ≠ .done) :
    exec (.resetExecute mb) s = .next (resetModule s) := by
  rw [exec_resetExecute, execResetExecute, hwait]
  exact if_pos (by simp [hack])

theorem start_taken (h : Asked s mb 0x0121 true false []) (hwaits : awaitsRelease s = true) (hauto : s.bank.modu.autoStart = false)
    (hstart : s.bring.started = false) :
    exec (.start mb) s = .next (okMb { s with bring := { s.bring with started := true } } mb []) := by
  rw [exec_start, execStart, runCmd_asked h (by rfl), hwaits, hauto, hstart]
  rfl

/-- A code that level 3 gives no command. -/
theorem badCmd_ends (hst : (mbox s mb).st = .busy) (hnew : (mbox s mb).waiting = false)
    (hcode : knownCodes.contains (mbox s mb).code = false) (hwd : s.modu.wdExpired = false) (hmode : s.modu.mode ≠ .bringup) :
    exec (.badCmd mb) s = .next (resultMb s mb 2) := by
  rw [exec_badCmd, execBadCmd, hst, hnew, hcode, hwd]
  exact if_pos (by simp [hmode])

/-! ### Maintenance sessions (R450, R451) -/

/-- Phase 1 of SESSION_OPEN on a mailbox that is not blocked gives a nonce, which takes the place of the mailbox's earlier one. -/
theorem sessionOpen_givesNonce {k : Word} (h : Asked s mb 0x0110 true true [1, k]) (hk : k.toNat ≤ 3) (hblocked : s.hp.blocked = []) :
    ∃ r : NonceRec, r.mb = mb ∧ r.key = k.toNat ∧ r.at_ = rawNow s ∧
      exec (.sessionOpen mb) s = .next (okMb { s with hp := { s.hp with
        nonceCount := s.hp.nonceCount + 1, nonces := r :: s.hp.nonces.filter (fun x => x.mb ≠ mb) } } mb ((toWords r.bytes).take 4)) := by
  have hphase : exec (.sessionOpen mb) s = .next (sessionPhase1 s mb ((mbox s mb).holder.getD .host) k.toNat) := by
    rw [exec_sessionOpen, execSessionOpen, runCmd_asked h (by rfl), hblocked]
    rfl
  rw [hphase, sessionPhase1, if_neg (Nat.not_lt.mpr hk)]
  exact ⟨_, rfl, rfl, rfl, rfl⟩

theorem sessionClose_ends (h : Asked s mb 0x0111 true true []) (hsess : inSession s mb = true) :
    exec (.sessionClose mb) s = .next (okMb (endSession s mb) mb []) := by
  rw [exec_sessionClose, execSessionClose, runCmd_asked h (by rfl), if_pos hsess]

theorem sessionInactivity_ends (hidle : s.hp.sessions.any (fun x => x.mb = mb && elapsed s x.lastCmd 600000000000) = true) :
    exec (.sessionInactivity mb) s = .next (endSession s mb) := by
  rw [exec_sessionInactivity, execSessionInactivity, if_pos hidle]
end

/-! ### SAFE_ACK (R186) -/

section
variable {mb : Mb} {s : State} {token : Word}

theorem exec_safeAck_asked (h : Asked s mb 0x0120 false true [token]) : exec (.safeAck mb) s = .next (safeAck s mb [token]) := by
  rw [exec_safeAck, execSafeAck, runCmd_asked h (by rfl)]

variable (htok : token ≠ 0) (hsrc : bit s.bank.modu.ackSources (mbAckSource mb) = true) (hwait : ackWait s = true)
  (hctl : s.pair.controlling = true)

include hsrc hwait hctl in
/-- Neither DENIED nor WRONG_STATE: the mailbox may acknowledge, and the controlling member waits for it. -/
theorem safeAck_permitted : ¬ (!bit s.bank.modu.ackSources (mbAckSource mb)) = true ∧ ¬ (!ackWait s || !s.pair.controlling) = true := by
  simp [hsrc, hwait, hctl]

include htok hsrc hwait hctl

/-- The first token of a source waits. -/
theorem safeAck_first (hfirsts : s.ack.firsts = []) :
    safeAck s mb [token] = okMb { s with ack := { s.ack with
      firsts := [(mb, (mbox s mb).holder.getD .host, token, rawNow s)] } } mb [1] := by
  obtain ⟨hdenied, hwrong⟩ := safeAck_permitted hsrc hwait hctl
  refine (if_neg htok).trans ((if_neg hdenied).trans ((if_neg hwrong).trans ?_))
  simp only [hfirsts, List.find?_nil, List.filter_nil, List.nil_append, List.getD_cons_zero]

/-- A second token of the same source, another one and inside its window, is accepted. -/
theorem safeAck_second {t : Word} {n : Nat} (hfirsts : s.ack.firsts = [(mb, (mbox s mb).holder.getD .host, t, n)]) (hne : t ≠ token)
    (hmin : elapsed s n 100000000 = true) (hmax : elapsed s n 2000000001 = false) :
    safeAck s mb [token] = acceptAck (okMb { s with ack := { s.ack with firsts := [] } } mb [2]) := by
  obtain ⟨hdenied, hwrong⟩ := safeAck_permitted hsrc hwait hctl
  refine (if_neg htok).trans ((if_neg hdenied).trans ((if_neg hwrong).trans ?_))
  simp [hfirsts, hne, hmin, hmax]
end

/-! ### System commands (O16) -/

/-- Settles O16: each system and session command under its condition, and the two tokens of SAFE_ACK. -/
theorem systemCommandsHaveTheirEffect : Obligations.SystemCommandsHaveTheirEffect := by
  unfold Obligations.SystemCommandsHaveTheirEffect
  refine ⟨fun mb s => ⟨getInfo_answers, getStatus_answers, moduleReset_taken, fun k => sessionOpen_givesNonce, sessionClose_ends,
    start_taken, fun t => resetExecute_resets, sessionInactivity_ends, badCmd_ends⟩, ?safeAck⟩
  intro mb s token h htok hsrc hwait hctl
  rw [exec_safeAck_asked h]
  exact ⟨fun hfirsts => congrArg _ (safeAck_first htok hsrc hwait hctl hfirsts),
    fun t n hfirsts hne hmin hmax => congrArg _ (safeAck_second htok hsrc hwait hctl hfirsts hne hmin hmax)⟩

end Sys2Proof.Machine
end

section
/-! SUPPORT. What BEGIN, DATA and END of an object do with the shadow slot (R210, R211, R453). -/
namespace Sys2Proof.Machine

/-! ### BEGIN (R210) -/

section
variable {mb : Mb} {s : State}

/-- BEGIN of an object that its slot can hold, with no load of its kind under way and nothing of the shadow slot on its way into service. -/
theorem beginLoad_starts {img : Bool} {n : Word} (hpos : n ≠ 0) (hmax : n.toNat ≤ objectMax img) (hidle : loadOf s img = none)
    (hservice : (if img then exchanging s else s.xch.swap.isSome) = false) :
    beginLoad s mb img [n] = okMb (setLoad (slotWrite (slotErase s img (shadowSlot s img)) img (shadowSlot s img) 0
      [0x53, 0x4C, 0x4F, 0x54, BitVec.ofNat 8 slReceiving]) img (some { mb := mb, length := n.toNat, received := 0 })) mb [] := by
  have hlen : n.toNat ≠ 0 := fun h => hpos (BitVec.eq_of_toNat_eq h)
  have hfits : (decide (n.toNat = 0) || decide (objectMax img < n.toNat)) = false := by simp [hlen, hmax]
  have hbusy : ((loadOf s img).any (fun l => l.mb != mb) || (if img then exchanging s else s.xch.swap.isSome)) = false := by
    rw [hidle, hservice]
    rfl
  simp only [beginLoad, wNat, List.getD_cons_zero, hfits, hbusy, Bool.false_eq_true, if_false]

theorem exec_progBegin_asked {n : Word} (h : Asked s mb 0x0200 true true [n]) :
    exec (.progBegin mb) s = .next (beginLoad s mb true [n]) := by
  rw [exec_progBegin, execProgBegin, runCmd_asked h (by rfl)]

theorem exec_cfgBegin_asked {n : Word} (h : Asked s mb 0x0300 true true [n]) :
    exec (.cfgBegin mb) s = .next (beginLoad s mb false [n]) := by
  rw [exec_cfgBegin, execCfgBegin, runCmd_asked h (by rfl)]

/-! ### DATA (R210, R453) -/

/-- The layout of a DATA request: its offset, its count and as many data words as the count needs. -/
theorem length_eq_dataNeed {off n : Word} {ds : List Word} (hds : ds.length = (n.toNat + 3) / 4) :
    (off :: n :: ds).length = dataNeed (off :: n :: ds) := by
  have hlong : ¬ (off :: n :: ds).length < 2 := by simp
  rw [dataNeed, if_neg hlong, List.length_cons, List.length_cons, hds, Nat.add_assoc, Nat.add_comm]
  rfl

/-- DATA of whole words at the expected offset, within the length that BEGIN announced. -/
theorem dataLoad_appends {img : Bool} {l : Load} {off n : Word} {ds : List Word} (hload : loadOf s img = some l) (howner : l.mb = mb)
    (hoff : off.toNat = l.received) (hpos : 0 < n.toNat) (hmax : n.toNat ≤ 16384) (hwhole : n.toNat % 4 = 0)
    (hfits : l.received + n.toNat ≤ l.length) :
    dataLoad s mb img (off :: n :: ds)
      = okMb (setLoad (slotWrite s img (shadowSlot s img) (64 + l.received) ((beWords ds).take n.toNat)) img
          (some { l with received := l.received + n.toNat })) mb [BitVec.ofNat 32 (l.received + n.toNat)] := by
  have hargs : (off.toNat != l.received || decide (n.toNat = 0) || decide (16384 < n.toNat) || decide (l.length < l.received + n.toNat)
      || (n.toNat % 4 != 0 && l.received + n.toNat != l.length)) = false := by
    simp [hoff, hwhole, hmax, hfits, Nat.ne_of_gt hpos]
  simp only [dataLoad, hload, howner, wNat, List.getD_cons_zero, List.getD_cons_succ, List.drop_succ_cons, List.drop_zero,
    bne_self_eq_false, hargs, Bool.false_eq_true, if_false]

/-- PROG_DATA and CFG_DATA are one command, of two kinds of object. -/
theorem exec_data_asked {img : Bool} {off n : Word} {ds : List Word}
    (h : Asked s mb (if img then 0x0201 else 0x0301) true true (off :: n :: ds)) (hds : ds.length = (n.toNat + 3) / 4) :
    exec (if img then .progData mb else .cfgData mb) s = .next (dataLoad s mb img (off :: n :: ds)) := by
  have hrun : exec (if img then .progData mb else .cfgData mb) s
      = runCmd s mb (if img then 0x0201 else 0x0301) true true [] dataNeed (fun s ws => dataLoad s mb img ws) := by
    cases img with
    | true => rfl
    | false => rfl
  rw [hrun, runCmd_asked h (length_eq_dataNeed hds)]

/-! ### END (R211) -/

section
variable {img : Bool} {l : Load} (hload : loadOf s img = some l) (howner : l.mb = mb)
include hload howner

/-- A load that a check of END finds wrong is given up and its slot erased. -/
theorem endLoad_of_bad {r : Nat} {f : CheckFail} (hbad : loadFails s img l = some (r, f)) :
    endLoad s mb img = finishMb (slotErase (setLoad s img none) img (shadowSlot s img)) mb r f.words := by
  simp only [endLoad, hload, howner, hbad, bne_self_eq_false, Bool.false_eq_true, if_false]

/-- A load that passes every check makes its slot VERIFIED, with length and digest in the header. -/
theorem endLoad_of_good (hgood : loadFails s img l = none) :
    endLoad s mb img = okMb (setSlotState (slotWrite (slotWrite (setLoad s img none) img (shadowSlot s img) 16
      (beWord (BitVec.ofNat 32 l.received))) img (shadowSlot s img) 24 (objDigest (slotObject s img (shadowSlot s img) l.received)))
      img (shadowSlot s img) slVerified) mb (toWords (objDigest (slotObject s img (shadowSlot s img) l.received))) := by
  simp only [endLoad, hload, howner, hgood, bne_self_eq_false, Bool.false_eq_true, if_false]
end

/-- PROG_END and CFG_END are one command, of two kinds of object. -/
theorem exec_end_asked {img : Bool} (h : Asked s mb (if img then 0x0202 else 0x0302) true true []) :
    exec (if img then .progEnd mb else .cfgEnd mb) s = .next (endLoad s mb img) := by
  have hrun : exec (if img then .progEnd mb else .cfgEnd mb) s
      = runCmd s mb (if img then 0x0202 else 0x0302) true true noCheck (fun _ => 0) (fun s _ => endLoad s mb img) := by
    cases img with
    | true => rfl
    | false => rfl
  rw [hrun, runCmd_asked h (by rfl)]
end

/-! ### Load commands (O17) -/

/-- Settles O17: BEGIN of an image and of a bank, DATA and END of either kind. -/
theorem loadCommandsHaveTheirEffect : Obligations.LoadCommandsHaveTheirEffect := by
  unfold Obligations.LoadCommandsHaveTheirEffect
  refine fun mb s => ⟨fun n h hpos hmax hidle hservice => ?progBegin, fun n h hpos hmax hidle hservice => ?cfgBegin,
    fun img l off n ds h hds hload howner hoff hpos hmax hwhole hfits => ?data, fun img l h hload howner => ?fin⟩
  case progBegin => exact (exec_progBegin_asked h).trans (congrArg _ (beginLoad_starts hpos hmax hidle hservice))
  case cfgBegin => exact (exec_cfgBegin_asked h).trans (congrArg _ (beginLoad_starts hpos hmax hidle (congrArg Option.isSome hservice)))
  case data => exact (exec_data_asked h hds).trans (congrArg _ (dataLoad_appends hload howner hoff hpos hmax hwhole hfits))
  case fin =>
    rw [exec_end_asked h]
    cases hchecks : loadFails s img l with
    | some bad =>
      obtain ⟨r, f⟩ := bad
      exact congrArg _ (endLoad_of_bad hload howner hchecks)
    | none => exact congrArg _ (endLoad_of_good hload howner hchecks)

end Sys2Proof.Machine
end

section
/-! SUPPORT. What a lane's digest report does, and how a task without a release switches to the new program (R214, R218, R219). -/
namespace Sys2Proof.Machine

/-! ### Digest reports (R214, R218) -/

section
variable {s : State} {l : Lane} (hactive : (lane s l).st = .active) (hasked : (s.xch.swap.isSome || staging s) = true)
include hactive hasked

/-- A report of an ACTIVE lane while a digest is asked for: a match is kept; a difference ends the exchange outside VOTED3, and in VOTED3
sends the bytes again at first and excludes the lane after that. -/
theorem reportDigest_of_asked (same : Bool) :
    reportDigest s l same = if same then checkStaging (modLane s l (fun x => { x with digest := some true }))
      else if s.modu.mode != .voted3 then refuseDigest s
      else if !(lane s l).resent then modLane s l (fun x => { x with resent := true })
      else checkStaging (excludeLane s l 0x2001 0) := by
  have hheard : (!(s.xch.swap.isSome || staging s) || !((lane s l).st = .active || (lane s l).st = .rejoining)) = false := by
    simp [hasked, hactive]
  rw [reportDigest, hheard, if_neg Bool.false_ne_true, if_pos hactive]

theorem reportDigest_match :
    reportDigest s l true = checkStaging (modLane s l (fun x => { x with digest := some true })) := by
  rw [reportDigest_of_asked hactive hasked, if_pos rfl]

theorem reportDigest_firstDifference (hmode : s.modu.mode = .voted3) (hfirst : (lane s l).resent = false) :
    reportDigest s l false = modLane s l (fun x => { x with resent := true }) := by
  simp [reportDigest_of_asked hactive hasked, hmode, hfirst]

theorem reportDigest_secondDifference (hmode : s.modu.mode = .voted3) (hagain : (lane s l).resent = true) :
    reportDigest s l false = checkStaging (excludeLane s l 0x2001 0) := by
  simp [reportDigest_of_asked hactive hasked, hmode, hagain]

theorem reportDigest_difference_outsideVoted3 (hmode : s.modu.mode ≠ .voted3) : reportDigest s l false = refuseDigest s := by
  simp [reportDigest_of_asked hactive hasked, hmode]
end

/-! ### A switch at rest (R219) -/

/-- A task of the new program with no release 1 s of AX0 after the swap point: the lanes that run it switch, then the hub. -/
theorem switchWithoutRelease_switches {t : Fin 16} {s : State} {since : DWord} (hsince : s.xch.switchingSince = some since)
    (hdue : 1000000000 ≤ (ax0 s - since).toInt) (hnew : (newTasks s).contains t.val = true) (hold : (hubTask s t.val).switched = false)
    (hidle : (hubTask s t.val).inFlight = false) (hnone : (s.tim.gens.getD t.val {}).due = []) :
    exec (.switchWithoutRelease t) s = .next (finishExchange (switchTask
      ((allLanes.filter (fun l => (lane s l).st = .active || (lane s l).st = .debug)).foldl (fun s l => switchLane s l t.val) s) t.val)) := by
  simp only [exec_switchWithoutRelease, execSwitchWithoutRelease, hsince, hdue, hnew, hold, hidle, hnone, decide_true, Bool.not_false,
    Bool.and_self, List.isEmpty_nil, if_true]

/-! ### Digests and switches (O46) -/

/-- Settles O46: the reports of an ACTIVE lane while a swap waits, its match while an activation is staged, and a switch at rest. -/
theorem digestsAndSwitchesHaveTheirEffect : Obligations.DigestsAndSwitchesHaveTheirEffect := by
  unfold Obligations.DigestsAndSwitchesHaveTheirEffect
  refine ⟨fun l s hactive => ⟨fun hswap => ?swap, fun hstaging => ?staging⟩, fun t s since => switchWithoutRelease_switches⟩
  case swap =>
    have hasked : (s.xch.swap.isSome || staging s) = true := by rw [hswap, Bool.true_or]
    exact ⟨congrArg _ (reportDigest_match hactive hasked),
      fun hmode hfirst => congrArg _ (reportDigest_firstDifference hactive hasked hmode hfirst),
      fun hmode hagain => congrArg _ (reportDigest_secondDifference hactive hasked hmode hagain),
      fun hmode => congrArg _ (reportDigest_difference_outsideVoted3 hactive hasked hmode)⟩
  case staging =>
    have hasked : (s.xch.swap.isSome || staging s) = true := by rw [hstaging, Bool.or_true]
    rw [exec_stagingComplete, execStagingComplete, if_pos hstaging, List.foldl_cons, List.foldl_nil,
      reportDigest_match hactive hasked]

end Sys2Proof.Machine
end

section
/-! SUPPORT. What the pairing, flow, mix and channel commands do with a request (R237, R242, R243, R259, R263, R392, R397, R453). -/
namespace Sys2Proof.Machine

section
variable {mb : Mb} {s : State}

/-! ### The pairing commands (R392, R397) -/

theorem pairStatus_answers (h : Asked s mb 0x0900 true true []) : exec (.pairStatus mb) s = .next (okMb s mb (pairWords s)) := by
  rw [exec_pairStatus, execPairStatus, runCmd_asked h (by rfl)]

/-- PAIR_SWITCH at an eligible standby in a session, over a link and with no other switch planned. -/
theorem pairSwitch_proposes (h : Asked s mb 0x0901 false false []) (hsess : inSession s mb = true) (hlink : linked s = true)
    (hstandby : standby s = true) (heligible : eligible s = true) (hnone : s.pair.switch = none) :
    exec (.pairSwitch mb) s = .next (proposeSwitch (waitMb s mb) 3 (some mb)) := by
  rw [exec_pairSwitch, execPairSwitch, runCmd_asked h (by rfl)]
  simp only [pairSwitch, hsess, hlink, hstandby, heligible, hnone, Option.isSome_none, Bool.not_true, Bool.or_self, Bool.false_eq_true,
    if_false, if_true]

/-- PAIR_RESYNC in a paired module. That the controlling member sends the copy itself is the model's choice (log 75). -/
theorem pairResync_copies (h : Asked s mb 0x0902 true true []) (hpaired : s.pair.paired = true) :
    exec (.pairResync mb) s = .next (copyAll (okMb { s with pair := { s.pair with
      st := if s.pair.st = .failed then .syncing else s.pair.st, fullAt := [] } } mb [])) := by
  rw [exec_pairResync, execPairResync, runCmd_asked h (by rfl)]
  simp only [hpaired, Bool.not_true, Bool.false_eq_true, if_false]

/-! ### The flow and mix commands (R259, R263) -/

section
variable {w : Word}

/-- FLOW_OPEN of a flow of the bank that no program word owns: it runs already, or the buffer bytes it adds are free. -/
theorem flowOpen_opens {c : FlowCfg} (h : Asked s mb 0x0A00 false false [w]) (hsound : soundOn s = true)
    (hcfg : flowCfg s (bits w.toNat 0 8) = some c) (hfree : flowOwned s (bits w.toNat 0 8) = false)
    (hfits : (flowSt s (bits w.toNat 0 8)).run = true ∨ flowCommitted s + flowBytes c ≤ 1572864) :
    exec (.flowOpen mb) s = .next (resultMb (setRun s (bits w.toNat 0 8) true) mb 0) := by
  have hroom : (!(flowSt s (bits w.toNat 0 8)).run && decide (1572864 < flowCommitted s + flowBytes c)) = false := by
    simpa only [Bool.and_eq_false_iff, Bool.not_eq_false', decide_eq_false_iff_not, Nat.not_lt] using hfits
  rw [exec_flowOpen, execFlowOpen, runCmd_asked h (by rfl)]
  simp only [wNat, List.getD_cons_zero, hsound, hcfg, hfree, hroom, Bool.not_true, Bool.false_eq_true, if_false]

theorem flowClose_closes (h : Asked s mb 0x0A01 false false [w]) (hsound : soundOn s = true)
    (hcfg : (flowCfg s (bits w.toNat 0 8)).isSome = true) (hfree : flowOwned s (bits w.toNat 0 8) = false) :
    exec (.flowClose mb) s = .next (resultMb (setRun s (bits w.toNat 0 8) false) mb 0) := by
  obtain ⟨c, hc⟩ := Option.isSome_iff_exists.mp hcfg
  rw [exec_flowClose, execFlowClose, runCmd_asked h (by rfl)]
  simp only [wNat, List.getD_cons_zero, hsound, hc, hfree, Option.isNone_some, Bool.not_true, Bool.false_eq_true, if_false]

/-- MIX_SET of a mix point that no program word owns, with a gain from -96 dB to +12 dB. -/
theorem mixSet_sets {g : Word} (h : Asked s mb 0x0A02 false false [w, g]) (hsound : soundOn s = true)
    (hlow : -24576 ≤ signed 16 g.toNat) (hhigh : signed 16 g.toNat ≤ 3072) (hfree : mixOwned s (bits w.toNat 0 10) = false) :
    exec (.mixSet mb) s = .next (resultMb (modMix s (bits w.toNat 0 10) (fun m =>
      { m with want := gainFactor (signed 16 g.toNat) 8, set := true })) mb 0) := by
  rw [exec_mixSet, execMixSet, runCmd_asked h (by rfl)]
  simp only [wNat, List.getD_cons_zero, List.getD_cons_succ, hsound, hfree, decide_eq_false (Int.not_lt.mpr hlow),
    decide_eq_false (Int.not_lt.mpr hhigh), Bool.or_self, Bool.not_true, Bool.false_eq_true, if_false]

/-! ### The channel commands (R237, R242, R243) -/

theorem chStatus_answers {ch : Nat} {c : ChCfg} {x : ChSt} (h : Asked s mb 0x0B00 true true [w]) (hfield : fieldOn s = true)
    (hch : ch = bits w.toNat 0 5) (hc : c = chCfg s ch) (hx : x = chSt s ch) :
    exec (.chStatus mb) s = .next (finishMb s mb 0 (chStatusWord s ch :: (toWords (channelEntry c) ++ [w32 (10 * tOn c), w32 (10 * tOff c),
      w32 x.transitions, w32 x.trips, w32 x.passed, w32 x.failed]))) := by
  subst hx hc hch
  rw [exec_chStatus, execChStatus, runCmd_asked h (by rfl)]
  simp only [wNat, List.getD_cons_zero, hfield, Bool.not_true, Bool.false_eq_true, if_false]
  rfl

/-- CH_TEST of an output with TEST_EN whose switch is on, voted TEST_OK and not held off, in a group without another test. -/
theorem chTest_requests {ch low : Nat} {u : State} (h : Asked s mb 0x0B01 false false [w]) (hch : ch = bits w.toNat 0 5)
    (hlow : low = lowestOf s ch) (hfield : fieldOn s = true) (hout : isOut s ch = true) (henabled : chFlag s ch 3 = true)
    (hsess : safetyOut s ch = true → inSession s mb = true) (hon : (chSt s low).on = true) (hok : (chSt s low).testOk = true)
    (hfirst : s.field.chTests.any (fun y => chGrp y.2 = chGrp ch) = false) (hidle : groupTesting s (chGrp ch) = false)
    (hheld : heldOff s low = false)
    (hu : u = modLanes s (fun _ l => if l.st = .off then l else { l with drive := upd l.drive low (fun c => { c with treq := 3 }) })) :
    exec (.chTest mb) s = .next (waitMb { u with field := { u.field with chTests := u.field.chTests ++ [(mb, low)] } } mb) := by
  subst hu hlow hch
  have hpermitted : (safetyOut s (bits w.toNat 0 5) && !inSession s mb) = false := by simpa using hsess
  rw [exec_chTest, execChTest, runCmd_asked h (by rfl)]
  simp only [wNat, List.getD_cons_zero, hfield, hout, henabled, hpermitted, hon, hok, hfirst, hidle, hheld, Bool.not_true, Bool.or_self,
    Bool.false_eq_true, if_false]
end
end

/-! ### Pairing, sound and field commands (O23) -/

/-- Settles O23: each pairing, flow, mix and channel command under its condition. -/
theorem pairSoundAndFieldCommandsHaveTheirEffect : Obligations.PairSoundAndFieldCommandsHaveTheirEffect := by
  unfold Obligations.PairSoundAndFieldCommandsHaveTheirEffect
  exact ⟨fun mb s => ⟨pairStatus_answers, pairSwitch_proposes, pairResync_copies⟩,
    fun mb s w => ⟨fun c => flowOpen_opens, flowClose_closes, fun g => mixSet_sets, fun ch c x => chStatus_answers,
      fun ch low u => chTest_requests⟩⟩

end Sys2Proof.Machine
end

section
/-! SUPPORT. What a trip does to an output and what the protections of the field stage do to a group and a channel (R225, R226, R236). -/
namespace Sys2Proof.Machine

section
variable {s : State}

/-! ### Trips (R226, R236) -/

/-- A trip of an output. That the record of a safety output is contained in the hub region is deduced (R16, R360; log 186). -/
theorem tripOutput_of_isOut {ch : Nat} (hout : isOut s ch = true) (temp limit : Bool) :
    tripOutput s ch temp limit = raiseChannel (abandonTests (diagChange (modCh s ch (fun c =>
        { c with overload := c.overload || !temp, overtemp := c.overtemp || temp, trips := c.trips + 1 })) ch) [lowestOf s ch])
      (if safetyOut s ch then 2 else 1) 0x5001 ch (b2n temp + 2 * b2n limit) := by
  rw [tripOutput, hout, Bool.not_true, if_neg Bool.false_ne_true]

section
variable {ch : Fin 32} (hfield : fieldOn s = true) (hout : isOut s ch.val = true)
include hfield hout

theorem overload_trips (limit : Bool) :
    exec (.overload ch limit) s = .next (raiseChannel (abandonTests (diagChange (modCh s ch.val (fun c =>
        { c with overload := true, trips := c.trips + 1 })) ch.val) [lowestOf s ch.val])
      (if safetyOut s ch.val then 2 else 1) 0x5001 ch.val (2 * b2n limit)) := by
  have harg : b2n false + 2 * b2n limit = 2 * b2n limit := Nat.zero_add _
  rw [exec_overload, execOverload, if_pos hfield, tripOutput_of_isOut hout, harg]
  simp only [Bool.not_false, Bool.or_true, Bool.or_false]

theorem overtemp_trips :
    exec (.overtemp ch) s = .next (raiseChannel (abandonTests (diagChange (modCh s ch.val (fun c =>
        { c with overtemp := true, trips := c.trips + 1 })) ch.val) [lowestOf s ch.val])
      (if safetyOut s ch.val then 2 else 1) 0x5001 ch.val 1) := by
  have harg : b2n true + 2 * b2n false = 1 := rfl
  rw [exec_overtemp, execOvertemp, if_pos hfield, tripOutput_of_isOut hout, harg]
  simp only [Bool.not_true, Bool.or_true, Bool.or_false]
end

/-! ### The clearing of a latch (R236) -/

section
variable {ch : Fin 32} (hlatched : (chSt s ch.val).overload = true ∨ (chSt s ch.val).overtemp = true)
include hlatched

theorem tripLatchClear_of_votedOff (hoff : (chSt s ch.val).on = false) (cool : Bool) :
    exec (.tripLatchClear ch false cool) s = .next (diagChange (modCh s ch.val (fun c =>
      { c with overload := false, overtemp := false, retries := 0 })) ch.val) := by
  have hset : ((chSt s ch.val).overload || (chSt s ch.val).overtemp) = true := Bool.or_eq_true_iff.mpr hlatched
  simp only [exec_tripLatchClear, execTripLatchClear, hset, hoff, Bool.not_true, Bool.not_false, Bool.and_self, Bool.false_eq_true,
    if_false, if_true]

/-- An automatic retry of an output with RETRY, cool enough and with fewer than three retries in its row. The count of strobes for which
it has held begins again, by the model's choice (log 176). -/
theorem tripLatchClear_of_retry {cool : Bool} (hretry : chFlag s ch.val 2 = true)
    (hcool : cool = true ∨ (chSt s ch.val).overtemp = false) (hrow : (chSt s ch.val).retries < 3) :
    exec (.tripLatchClear ch true cool) s = .next (diagChange (modCh s ch.val (fun c =>
      { c with overload := false, overtemp := false, retries := c.retries + 1, heldFor := 0 })) ch.val) := by
  have hset : ((chSt s ch.val).overload || (chSt s ch.val).overtemp) = true := Bool.or_eq_true_iff.mpr hlatched
  have hcold : (cool || !(chSt s ch.val).overtemp) = true := by simpa using hcool
  simp only [exec_tripLatchClear, execTripLatchClear, hset, hretry, hcold, hrow, decide_true, Bool.not_true, Bool.false_and, Bool.and_self,
    Bool.false_eq_true, if_false, if_true]
end

/-! ### The supply of a group (R225) -/

theorem supplyFault_sets (hfield : fieldOn s = true) (g : Grp) :
    exec (.supplyFault g) s = .next (abandonTests ((grpChans g).foldl diagChange
      (modGrp (modGrp s g (fun x => { x with supplyFault := true })) g (fun x => { x with testing := false }))) (grpChans g)) := by
  rw [exec_supplyFault, execSupplyFault, if_pos hfield]
  rfl

theorem supplyGood_clears (hfield : fieldOn s = true) {g : Grp} (hfault : (grpSt s g).supplyFault = true) :
    exec (.supplyGood g) s = .next ((grpChans g).foldl diagChange (modGrp s g (fun x => { x with supplyFault := false }))) := by
  rw [exec_supplyGood, execSupplyGood, if_pos (Bool.and_eq_true_iff.mpr ⟨hfield, hfault⟩)]

theorem groupOverload_trips (hfield : fieldOn s = true) (g : Grp) :
    exec (.groupOverload g) s = .next ((grpChans g).foldl (fun s ch => tripOutput s ch false false) s) := by
  rw [exec_groupOverload, execGroupOverload, if_pos hfield]
end

/-! ### Protections (O35) -/

/-- Settles O35: the supply of a group, the trips of a group and of an output, and the two ways in which a latch clears. -/
theorem fieldProtectionsHaveTheirEffect : Obligations.FieldProtectionsHaveTheirEffect := by
  unfold Obligations.FieldProtectionsHaveTheirEffect
  exact fun s hfield => ⟨supplyFault_sets hfield, fun g => supplyGood_clears hfield, groupOverload_trips hfield,
    fun ch hout limit => ⟨overload_trips hfield hout limit, overtemp_trips hfield hout⟩,
    fun ch hlatched => ⟨tripLatchClear_of_votedOff hlatched, fun cool => tripLatchClear_of_retry hlatched⟩⟩

end Sys2Proof.Machine
end

section
/-! SUPPORT. What the diagnostics of a channel, a dark test and the test of a group switch leave behind (R232, R236 to R239, R243). -/
namespace Sys2Proof.Machine

section
variable {s : State}

/-! ### Diagnostics of a channel (R232, R236) -/

section
variable {ch : Fin 32} (hfield : fieldOn s = true)
include hfield

theorem stuck_sets (hin : isInputMode (chCfg s ch.val).mode = true) (htime : (chCfg s ch.val).stuckTime ≠ 0)
    (hval : (chSt s ch.val).val = true) (hnew : (chSt s ch.val).stuck = false) :
    exec (.stuck ch) s = .next (diagChange (modCh s ch.val (fun c => { c with stuck := true })) ch.val) := by
  have htimed : ((chCfg s ch.val).stuckTime != 0) = true := bne_iff_ne.mpr htime
  simp only [exec_stuck, execStuck, hfield, hin, htimed, hval, hnew, Bool.not_false, Bool.and_self, if_true]

section
variable (hout : isOut s ch.val = true) (hsensed : suspended s ch.val = false)
include hout hsensed

/-- OPEN follows its condition where it differs from it; only an OPEN that sets is recorded. -/
theorem openWire_of_changed {seen : OpenSense} {present : Bool} (henabled : chFlag s ch.val 1 = true)
    (hcond : openCondition s ch.val seen.mv seen.ma seen.ms = present) (hold : (chSt s ch.val).openWire = !present) :
    exec (.openWire ch seen) s = .next (if present
      then raiseChannel (diagChange (modCh s ch.val (fun c => { c with openWire := present })) ch.val) 1 0x5002 ch.val
      else diagChange (modCh s ch.val (fun c => { c with openWire := present })) ch.val) := by
  have hchanged : ((!present) != present) = true := by cases present <;> rfl
  simp only [exec_openWire, execOpenWire, hcond, hfield, hout, henabled, hsensed, hold, hchanged, Bool.not_false, Bool.and_self, if_true]

/-- A read-back: a wrong one is recorded, and of a safety output it counts as a failed test. -/
theorem rbErr_reports (wrong : Bool) :
    exec (.rbErr ch wrong) s = .next (if wrong
      then raiseChannel (diagChange (modCh s ch.val (fun c =>
        { c with rbErr := true, testFail := c.testFail || safetyOut s ch.val })) ch.val) (if safetyOut s ch.val then 2 else 1) 0x5003 ch.val
      else diagChange (modCh s ch.val (fun c => { c with rbErr := false })) ch.val) := by
  simp only [exec_rbErr, execRbErr, hfield, hout, hsensed, Bool.not_false, Bool.and_self, if_true]
  cases wrong
  · simp only [Bool.false_and, Bool.or_false, Bool.false_eq_true, if_false]
  · simp only [Bool.true_and, if_true]

theorem rbErr_of_safetyOut (hsafe : safetyOut s ch.val = true) :
    exec (.rbErr ch true) s = .next (raiseChannel (diagChange (modCh s ch.val (fun c =>
      { c with rbErr := true, testFail := true })) ch.val) 2 0x5003 ch.val) := by
  simp only [rbErr_reports hfield hout hsensed, hsafe, Bool.or_true, if_true]
end

/-! ### Dark tests (R237, R238, R243) -/

theorem testOverdue_records (hout : isOut s ch.val = true) (henabled : chFlag s ch.val 3 = true)
    (hnew : (chSt s ch.val).testOverdue = false) :
    exec (.testOverdue ch) s
      = .next (raiseChannel (diagChange (modCh s ch.val (fun c => { c with testOverdue := true })) ch.val) 1 0x5005 ch.val) := by
  simp only [exec_testOverdue, execTestOverdue, hfield, hout, henabled, hnew, Bool.not_false, Bool.and_self, if_true]
end

theorem testPeriod_requests {l : Lane} {ch : Fin 32} (hout : isOut s ch.val = true) (henabled : chFlag s ch.val 3 = true)
    (hl : (lane s l).st ≠ .off) :
    exec (.testPeriod l ch) s
      = .next (modLane s l (fun x => { x with drive := upd x.drive ch.val (fun c => { c with treq := 3 }) })) := by
  have hrunning : ((lane s l).st != .off) = true := bne_iff_ne.mpr hl
  simp only [exec_testPeriod, execTestPeriod, hout, henabled, hrunning, Bool.and_self, if_true]

@[simp] theorem modCh_chTests (s : State) (ch : Nat) (f : ChSt → ChSt) : (modCh s ch f).field.chTests = s.field.chTests := rfl

@[simp] theorem diagChange_chTests (s : State) (ch : Nat) : (diagChange s ch).field.chTests = s.field.chTests := by
  unfold diagChange
  split <;> rfl

section
variable {ch : Fin 32} {u : State} (htest : (chSt s ch.val).testing = true)
  (hu : u = diagChange (modCh s ch.val (fun c => { c with testing := false, failed := c.failed + 1, testFail := true })) ch.val)
include htest hu

theorem testWidthExpiry_unasked (hnone : s.field.chTests.find? (fun x => x.2 = ch.val) = none) :
    exec (.testWidthExpiry ch) s = .next u := by
  have hfailed : (some false != some true) = true := rfl
  rw [exec_testWidthExpiry, execTestWidthExpiry, if_pos htest, hu]
  simp [endTest, hnone, hfailed]

/-- The CH_TEST that waits for the test ends with FAIL. -/
theorem testWidthExpiry_answers {mb : Mb} {c : Nat} (hsome : s.field.chTests.find? (fun x => x.2 = ch.val) = some (mb, c)) :
    exec (.testWidthExpiry ch) s
      = .next (finishMb { u with field := { u.field with chTests := u.field.chTests.filter (fun x => x.2 ≠ ch.val) } } mb 0 [2]) := by
  have hfailed : (some false != some true) = true := rfl
  rw [exec_testWidthExpiry, execTestWidthExpiry, if_pos htest, hu]
  simp [endTest, answerChTest, hsome, hfailed]
end

/-! ### The test of a group switch (R239) -/

section
variable {g : Grp}

theorem gswTest_start_opens (hready : gswReady s g = true) :
    exec (.gswTest g .start) s = .next (modGrp s g (fun x => { x with testing := true })) :=
  congrArg Host.Outcome.next (if_pos hready)

theorem gswTest_fall_closes : exec (.gswTest g .fall) s = .next (modGrp s g (fun x => { x with testing := false })) := rfl

theorem gswTest_expiry_fails (htest : (grpSt s g).testing = true) :
    exec (.gswTest g .expiry) s = .next (raiseHub (((grpChans g).filter (safetyOut s)).foldl (fun s ch =>
      diagChange (modCh s ch (fun c => { c with gswFail := true })) ch) (modGrp s g (fun x => { x with testing := false })))
      2 0x5006 (if g = .fa then 0 else 1)) := by
  cases g <;> exact if_pos htest
end
end

/-! ### Channel diagnostics and tests (O36) -/

/-- Settles O36: the diagnostics of a channel, its dark tests, and the test of a group switch. -/
theorem fieldDiagnosticsHaveTheirEffect : Obligations.FieldDiagnosticsHaveTheirEffect := by
  unfold Obligations.FieldDiagnosticsHaveTheirEffect
  exact ⟨fun ch s hfield => ⟨stuck_sets hfield, fun hout hsensed =>
      ⟨fun seen henabled hclear hcond => openWire_of_changed hfield hout hsensed henabled hcond hclear,
        fun seen henabled hset hcond => openWire_of_changed hfield hout hsensed henabled hcond hset,
        rbErr_of_safetyOut hfield hout hsensed, rbErr_reports hfield hout hsensed false⟩⟩,
    fun s => ⟨fun l ch => testPeriod_requests,
      fun ch u htest hu => ⟨testWidthExpiry_unasked htest hu, fun mb c => testWidthExpiry_answers htest hu⟩,
      fun ch => testOverdue_records, fun g => ⟨gswTest_start_opens, gswTest_fall_closes, gswTest_expiry_fails⟩⟩⟩

end Sys2Proof.Machine
end

section
/-! SUPPORT. What a stuck modulator, a measurement block and a mixer frame do (R245, R252, R257). -/
namespace Sys2Proof.Machine

section
variable {s : State}

/-! ### Modulators (R245) -/

theorem modStuck_sets (hsound : soundOn s = true) (ch : Fin 16) :
    exec (.modStuck ch) s
      = .next { s with snd := { s.snd with filters := upd s.snd.filters ch.val (fun x => { x with stuck := true }) } } :=
  congrArg Host.Outcome.next (if_pos hsound)

theorem modStuckClear_clears (ch : Fin 16) :
    exec (.modStuckClear ch) s
      = .next { s with snd := { s.snd with filters := upd s.snd.filters ch.val (fun x => { x with stuck := false }) } } := rfl

/-! ### Measurement blocks and mixer frames (R252, R257) -/

theorem measurementBlock_forms (ch : Fin 16) (bs : List Bool) :
    exec (.measurementBlock ch bs) s = .next (formBlock (feedChannel s ch.val bs) ch.val) := rfl

theorem mixerFrame_mixes (hsound : soundOn s = true) (bs : List (Fin 16 × List Bool)) (tdmi : List Word) :
    exec (.mixerFrame bs tdmi) s = .next (mixFrame (bs.foldl (fun s b => feedChannel s b.1.val b.2) s) tdmi) :=
  if_pos hsound
end

/-! ### Sound (O37) -/

/-- Settles O37: a modulator is marked stuck or free, and the bits up to now are fed before a block is formed or a frame mixed. -/
theorem soundCommandsHaveTheirEffect : Obligations.SoundCommandsHaveTheirEffect := by
  unfold Obligations.SoundCommandsHaveTheirEffect
  exact fun s => ⟨fun ch hsound => modStuck_sets hsound ch, modStuckClear_clears, measurementBlock_forms,
    fun bs tdmi hsound => mixerFrame_mixes hsound bs tdmi⟩

end Sys2Proof.Machine
end

section
/-! SUPPORT. What the requests and responses that measure a link's delay do, and where a flow packet goes (R260, R261, R271, R279,
R281, R285). -/
namespace Sys2Proof.Machine

/-! ### A request sent (R279, R281) -/

theorem sendDelayReq_asks {s : State} {n : Nat} {b left : Int} (hmeasures : measuresDelay s n = true) (hup : portUp s n = true)
    (hnode : s.net.node ≠ .silent) (hcut : cutBack s = false) (hopen : openLeft s (portCfg s n).planeB = some left)
    (hfits : ((84 * portByteNs s n : Nat) : Int) ≤ left) (hb : b = s.net.sched.cycleOf (now0 s))
    (honce : (linkPort s n).askedIn ≠ some (s.net.sched.cluster b)) :
    sendDelayReq s n
      = emit { s with net := { s.net with ports := upd s.net.ports n (fun _ =>
          { linkPort s n with asked := some (now0 s), askedIn := some (s.net.sched.cluster b) }) } }
        (.frame n (now0 s) (flovisFrame s (portCfg s n).planeB 6 0 (s.net.sched.cyc b) (s.net.sched.ccount b)
          ([1, 0, 0, 0] ++ zeros 16))) := by
  subst hb
  have hasks : (measuresDelay s n && portUp s n && s.net.node != .silent && !cutBack s
      && decide (((84 * portByteNs s n : Nat) : Int) ≤ left)
      && (linkPort s n).askedIn != some (s.net.sched.cluster (s.net.sched.cycleOf (now0 s)))) = true := by
    simp only [hmeasures, hup, bne_iff_ne.mpr hnode, hcut, decide_eq_true hfits, bne_iff_ne.mpr honce, Bool.not_false, Bool.and_self]
  simp only [sendDelayReq, hopen]
  exact if_pos hasks

/-! ### Frames received (R271, R279, R285) -/

section
variable {s : State} {n : Nat} {bs : List Byte} (hup : portUp s n = true) (hrole : (portCfg s n).role ≠ 0)
  (hfree : portBlocked s n = false)
include hup hrole hfree

/-- A port that is up, configured and not in quarantine looks at the frame. -/
theorem delayPort_not_idle : ¬ (!portUp s n || decide ((portCfg s n).role = 0) || portBlocked s n) = true := by
  simp [hup, hrole, hfree]

/-- The mean of both directions joins the last 16, and the request is no longer out. -/
theorem takeDelayResp_measures {t1 : Int} (hgood : frameGood s bs = true) (hkind : isDelay bs 2 = true)
    (hasked : (linkPort s n).asked = some t1) :
    takeDelayResp s n bs = { s with net := { s.net with ports := upd s.net.ports n (fun l =>
      { l with asked := none, delays := (((now0 s - t1)
          - ((getDWord (fPayload bs) 12).toInt - (getDWord (fPayload bs) 4).toInt)) / 2 :: l.delays).take 16 }) } } := by
  rw [takeDelayResp, if_neg (delayPort_not_idle hup hrole hfree), if_neg (by simp [hgood, hkind])]
  simp only [hasked]

/-- A star that is integrated answers in OPEN windows only; the response leaves behind the reception of the request. -/
theorem answerDelayReq_answers {b t3 : Int} (hgood : frameGood s bs = true) (hkind : isDelay bs 1 = true)
    (hnode : s.net.node ≠ .silent) (hcut : cutBack s = false)
    (hopen : (portCfg s n).role = 2 → integrated s = true → openLeft s (portCfg s n).planeB ≠ none)
    (hb : b = s.net.sched.cycleOf (now0 s)) (ht3 : t3 = now0 s + (((bs.length + 20) * portByteNs s n : Nat) : Int)) :
    answerDelayReq s n bs = emit s (.frame n t3 (flovisFrame s (portCfg s n).planeB 6 0 (s.net.sched.cyc b) (s.net.sched.ccount b)
      ([2, 0, 0, 0] ++ beDWord (ax0 s) ++ beDWord (BitVec.ofInt 64 t3)))) := by
  subst hb ht3
  have hsends : ¬ (decide (s.net.node = .silent) || cutBack s
      || (decide ((portCfg s n).role = 2) && integrated s && (openLeft s (portCfg s n).planeB).isNone)) = true := by
    simpa [hnode, hcut] using hopen
  rw [answerDelayReq, if_neg (delayPort_not_idle hup hrole hfree), if_neg (by simp [hgood, hkind]), if_neg hsends]

theorem takeDelayResp_rejects (hbad : frameGood s bs = false ∨ isDelay bs 2 = false) : takeDelayResp s n bs = reject s := by
  rw [takeDelayResp, if_neg (delayPort_not_idle hup hrole hfree), if_pos (by simpa using hbad)]

theorem answerDelayReq_rejects (hbad : frameGood s bs = false ∨ isDelay bs 1 = false) : answerDelayReq s n bs = reject s := by
  rw [answerDelayReq, if_neg (delayPort_not_idle hup hrole hfree), if_pos (by simpa using hbad)]
end

/-! ### Flow packets (R260, R261) -/

theorem takeFlowPacket_places {s : State} {node : Nat} {b : List Byte} {c : FlowCfg} (hflow : flowCfg s (getByte b 0) = some c)
    (hpeer : c.peer = node ∨ c.peer = 0xFFFF) (hchannels : getByte b 1 = c.channels) (hformat : getByte b 2 = c.format)
    (hlen : (b.drop 16).length = getNat b 12 2 * c.channels * (if bit c.format 2 then 3 else 2)) :
    takeFlowPacket s node b = placePacket s c.id (getDWord b 4).toInt ((List.range (getNat b 12 2)).map (fun k =>
      (List.range c.channels).map (fun j => packetSample (bit c.format 2) (b.drop 16) (k * c.channels + j)))) := by
  have hshape : ¬ ((c.peer != node && c.peer != 0xFFFF) || getByte b 1 != c.channels || getByte b 2 != c.format
      || (b.drop 16).length != getNat b 12 2 * c.channels * (if bit c.format 2 then 3 else 2)) = true := by
    simp only [hchannels, hformat, hlen, bne_self_eq_false, Bool.or_false]
    obtain h | h := hpeer <;> simp [h]
  simp only [takeFlowPacket, hflow]
  exact if_neg hshape

/-! ### Link delays and flows (O53) -/

/-- Settles O53: a request sent, a response and a request received, and a flow packet. -/
theorem linkDelayAndFlowsHaveTheirEffect : Obligations.LinkDelayAndFlowsHaveTheirEffect := by
  unfold Obligations.LinkDelayAndFlowsHaveTheirEffect
  simp only [exec_delayReq, execDelayReq, exec_delayResp, execDelayResp, exec_delayReqReceive, execDelayReqReceive,
    exec_flowPacketReceive, execFlowPacketReceive]
  refine ⟨fun port bytes s => ⟨?request, fun hup hrole hfree => ⟨?response, ?badResponse, ?answer, ?badRequest⟩⟩, ?flow⟩
  case request =>
    intro p b left u hmeasures hup hnode hcut hopen hfits hb honce hp hu
    subst hp hu
    rw [sendDelayReq_asks hmeasures hup hnode hcut hopen hfits hb honce]
  case response =>
    intro t1 d hgood hkind hasked hd
    rw [takeDelayResp_measures hup hrole hfree hgood hkind hasked, hd]
  case badResponse =>
    intro hbad
    rw [takeDelayResp_rejects hup hrole hfree hbad, reject]
  case answer =>
    intro b t3 hgood hkind hnode hcut hopen hb ht3
    rw [answerDelayReq_answers hup hrole hfree hgood hkind hnode hcut hopen hb ht3]
  case badRequest =>
    intro hbad
    rw [answerDelayReq_rejects hup hrole hfree hbad, reject]
  case flow =>
    intro node b c s hflow hpeer hchannels hformat hlen
    rw [takeFlowPacket_places hflow hpeer hchannels hformat hlen]

end Sys2Proof.Machine
end

section
/-! SUPPORT. What holds of every command: the queue, how it stops, and for a mailbox command the mailbox, its mode and what its answer
sends (R304, R432, R433, R442, R443, R446, R448, R466). -/
namespace Sys2Proof.Machine

/-! ### The rows of the command table (R433, R446, R453) -/

/-- A command of the table is one run of its row. -/
theorem exec_of_mbRow {c : Instr} {r : MbRow} (h : mbRow c = some r) :
    ∃ fail need f, ∀ s, exec c s = runCmd s r.mb r.code r.limited r.halted fail need f := by
  cases c <;> cases h <;> exact ⟨_, _, _, fun _ => by dsimp only [exec]; rfl⟩

/-- In BRINGUP no command is in hand. -/
theorem inHand_bringup {s : State} (h : s.modu.mode = .bringup) (mb : Mb) (code : Nat) : inHand s mb code = false := by
  simp [inHand, h]

/-- Settles O8: a row of the table does nothing where its command is not in hand. -/
theorem commandNotInHandDoesNothing : Obligations.CommandNotInHandDoesNothing := by
  unfold Obligations.CommandNotInHandDoesNothing
  intro c r s hrow hidle
  obtain ⟨fail, need, f, hexec⟩ := exec_of_mbRow hrow
  rw [hexec, runCmd_idle hidle]

/-- A write to MB_CMD reaches its mailbox, and in BRINGUP it is discarded and counted. -/
theorem regWrite_mbCmd_bringup {s : State} (h : s.modu.mode = .bringup) (p : Port) (node drained : Nat) (mb : Mb) (w : Word) :
    regWrite s p node (mbCmdAddr mb) w drained = discardWrite s := by
  cases mb <;> simp [regWrite, mbCmdAddr, writeMb, writeMbCmd, h]

/-- Settles O9: in BRINGUP nothing is in hand, and MB_CMD takes nothing. -/
theorem bringupMailboxIsSilent : Obligations.BringupMailboxIsSilent := by
  unfold Obligations.BringupMailboxIsSilent
  refine fun s hmode => ⟨fun c r hrow => ?_, fun p node drained mb w => regWrite_mbCmd_bringup hmode p node drained mb w⟩
  exact commandNotInHandDoesNothing c r s hrow (inHand_bringup hmode r.mb r.code)

theorem modeTakes_limited {s : State} (h : s.modu.mode = .limited) (limited halted : Bool) :
    modeTakes s limited halted = limited := by simp only [modeTakes, h]
theorem modeTakes_halted {s : State} (h : s.modu.mode = .halted) (limited halted : Bool) :
    modeTakes s limited halted = halted := by simp only [modeTakes, h]
theorem modeTakes_voted_or_safe {s : State} (h : s.modu.mode = .voted3 ∨ s.modu.mode = .voted2 ∨ s.modu.mode = .safe)
    (limited halted : Bool) : modeTakes s limited halted = true := by
  obtain h | h | h := h <;> simp only [modeTakes, h]

/-- PROG_ACTIVATE ONLINE over an active program in LIMITED or HALTED is refused before its signature is looked at. -/
theorem progActivate_online_still {s : State} {mb : Mb} (hmode : s.modu.mode = .limited ∨ s.modu.mode = .halted)
    (hprog : s.prog ≠ none) (hsession : inSession s mb = true) (hshadow : shadowVerified s true = true)
    (hidle : exchanging s = false) (hswap : s.xch.swap = none) (hlanes : releasing s = false) :
    progActivate s mb [1] = finishMb s mb 4 noCheck := by
  have hvoted : voted s = false := by obtain h | h := hmode <;> simp [voted, h]
  have hactive : s.prog.isNone = false := by rwa [Option.isNone_eq_false_iff, Option.isSome_iff_ne_none]
  have hword : wNat [1#32] 0 = 1 := rfl
  simp [progActivate, hword, hsession, hshadow, hidle, hswap, hlanes, hvoted, hactive]

/-- Settles O10: the mode table is what the row carries; PROG_ACTIVATE ONLINE is refused by its own rule. -/
theorem modeTableOfTheMailbox : Obligations.ModeTableOfTheMailbox := by
  unfold Obligations.ModeTableOfTheMailbox
  intro c r s hrow hhand
  obtain ⟨fail, need, f, hexec⟩ := exec_of_mbRow hrow
  refine ⟨fun hrefused => ⟨fail, by rw [hexec, runCmd_wrongState hhand hrefused]⟩, fun h => modeTakes_limited h _ _,
    fun h => modeTakes_halted h _ _, fun h => modeTakes_voted_or_safe h _ _, ?online⟩
  intro mb hc hreq hmode hprog hsession hshadow hidle hswap hlanes
  subst hc
  cases hrow
  have htakes : modeTakes s true true = true := by
    obtain h | h := hmode
    · exact modeTakes_limited h true true
    · exact modeTakes_halted h true true
  have hasked : Asked s mb 0x0203 true true [1] := ⟨hhand, htakes, hreq⟩
  rw [exec_progActivate, execProgActivate, runCmd_asked hasked (by rfl),
    progActivate_online_still hmode hprog hsession hshadow hidle hswap hlanes]

/-! ### What sending over IP changes (R302, R304) -/

/-- Two states differ at most in what waits for ARP or for an OPEN window, what has no route, the time a PTP event message left, until when
best-effort frames take a plane, and what has left. -/
def SendOnly (s t : State) : Prop :=
  ∃ arpWait unroutable sentAt best untilA untilB out, t = { s with
    train := { s.train with arpWait := arpWait, unroutable := unroutable, ptp := { s.train.ptp with sentAt := sentAt } }
    net := { s.net with best := best, planeA := { s.net.planeA with bestUntil := untilA }, planeB := { s.net.planeB with bestUntil := untilB } }
    out := s.out ++ out }

theorem SendOnly.refl (s : State) : SendOnly s s := ⟨_, _, _, _, _, _, [], by rw [List.append_nil]⟩
theorem SendOnly.trans {s t u : State} (hst : SendOnly s t) (htu : SendOnly t u) : SendOnly s u := by
  obtain ⟨_, _, _, _, _, _, out, rfl⟩ := hst
  obtain ⟨w, r, x, b, ua, ub, out', rfl⟩ := htu
  exact ⟨w, r, x, b, ua, ub, out ++ out', by simp only [List.append_assoc]⟩
theorem SendOnly.hp {s t : State} (h : SendOnly s t) : t.hp = s.hp := by
  obtain ⟨_, _, _, _, _, _, _, rfl⟩ := h; rfl
theorem SendOnly.mbox {s t : State} (h : SendOnly s t) (mb : Mb) : mbox t mb = mbox s mb := by
  cases mb <;> simp only [Machine.mbox, h.hp]

theorem sendOnly_emit (s : State) (e : Emission) : SendOnly s (emit s e) := ⟨_, _, _, _, _, _, [e], rfl⟩
theorem sendOnly_queue (s : State) (best : List (Bool × Emission)) : SendOnly s { s with net := { s.net with best := best } } :=
  ⟨_, _, _, best, _, _, [], by rw [List.append_nil]⟩
theorem sendOnly_sentAt (s : State) (t : Int) :
    SendOnly s { s with train := { s.train with ptp := { s.train.ptp with sentAt := t } } } :=
  ⟨_, _, t, _, _, _, [], by rw [List.append_nil]⟩
theorem sendOnly_busyUntil (s : State) (pb : Bool) (t : Nat) : SendOnly s (busyUntil s pb t) := by
  cases pb
  · exact ⟨_, _, _, _, t, _, [], by rw [List.append_nil]; rfl⟩
  · exact ⟨_, _, _, _, _, t, [], by rw [List.append_nil]; rfl⟩
theorem sendOnly_waitArp (s : State) (w : List (Nat × Word × Emission)) :
    SendOnly s { s with train := { s.train with arpWait := w } } := ⟨w, _, _, _, _, _, [], by rw [List.append_nil]⟩
theorem sendOnly_dropUnroutable (s : State) : SendOnly s (dropUnroutable s) :=
  ⟨_, s.train.unroutable + 1, _, _, _, _, [], by rw [List.append_nil]; rfl⟩

theorem sendOnly_putOut (s : State) (e : Emission) : SendOnly s (putOut s e) := by
  cases e with
  | ptp m =>
    simp only [putOut]
    split
    · exact (sendOnly_sentAt s _).trans (sendOnly_emit _ _)
    · exact sendOnly_emit _ _
    · exact sendOnly_emit _ _
    · exact (sendOnly_sentAt s _).trans (sendOnly_emit _ _)
    · exact sendOnly_emit _ _
    · exact sendOnly_emit _ _
    · exact sendOnly_emit _ _
  | _ => exact sendOnly_emit _ _

theorem sendOnly_drainBest (pb : Bool) (l : List Emission) (s : State) : SendOnly s (drainBest pb l s) := by
  induction l generalizing s with
  | nil => exact .refl s
  | cons e l ih =>
    exact iteInduction (fun _ => ((sendOnly_busyUntil s pb _).trans (sendOnly_putOut _ e)).trans (ih _)) (fun _ => sendOnly_queue s _)

theorem sendOnly_leave (s : State) (e : Emission) : SendOnly s (leave s e) := by
  simp only [leave]
  split
  · exact sendOnly_putOut s e
  · exact ((sendOnly_queue s _).trans (sendOnly_queue _ _)).trans (sendOnly_drainBest _ _ _)

theorem sendOnly_sendHop (s : State) (port : Nat) (hop : Word) (e : Nat → Emission) : SendOnly s (sendHop s port hop e) := by
  simp only [sendHop]
  split
  · exact .refl s
  · split
    · exact sendOnly_leave s _
    · exact (sendOnly_waitArp s _).trans (sendOnly_leave _ _)

theorem sendOnly_sendIp (s : State) (dst : Word) (e : Nat → Emission) : SendOnly s (sendIp s dst e) := by
  simp only [sendIp]
  split
  · exact sendOnly_dropUnroutable s
  · exact sendOnly_sendHop s _ _ e

/-! ### The end of a command (R446, R448) -/

@[simp] theorem mbox_idleMb (s : State) (mb : Mb) : mbox (idleMb s mb) mb = { mbox s mb with
    st := .idle, resp := [], req := [], fill := 0, holder := none, waiting := false, silent := false } := mbox_modMb s mb _

/-- A mailbox in which a command has ended, before its answer goes anywhere. -/
def endedMb (s : State) (mb : Mb) (result : Nat) (resp : List Word) (last : Nat) : State :=
  setIrq (modMb s mb (fun m => { m with
    st := .done, result := result, resp := resp, rlen := resp.length, last := last, waiting := false, fill := 0, since := rawNow s }))
    (mbIrq mb)

theorem mbox_endedMb_ne {s : State} {mb k : Mb} (h : k ≠ mb) (result last : Nat) (resp : List Word) :
    mbox (endedMb s mb result resp last) k = mbox s k := by
  rw [endedMb, mbox_setIrq, mbox_modMb_ne _ h]

/-- A command held by the host or a bridge node ends in its mailbox. -/
theorem finishMbAt_held {s : State} {mb : Mb} (h : ∀ ip, (mbox s mb).holder ≠ some (.trdp ip)) (result last : Nat) (resp : List Word) :
    finishMbAt s mb result resp last = endedMb s mb result resp last := by
  cases hholder : (mbox s mb).holder with
  | none => cases mb <;> simp only [finishMbAt, hholder] <;> rfl
  | some src =>
    cases src with
    | trdp ip => exact absurd hholder (h ip)
    | host => cases mb <;> simp only [finishMbAt, hholder] <;> rfl
    | node n => cases mb <;> simp only [finishMbAt, hholder] <;> rfl

/-- A command that came over TRDP ends in its mailbox, its answer leaves or waits, and the mailbox returns to IDLE. -/
theorem finishMbAt_trdp {s : State} {mb : Mb} {ip : Word} (h : (mbox s mb).holder = some (.trdp ip)) (result last : Nat)
    (resp : List Word) :
    ∃ u, SendOnly (endedMb s mb result resp last) u ∧ finishMbAt s mb result resp last = idleMb u mb := by
  unfold finishMbAt
  simp only [h]
  refine ⟨_, ?_, rfl⟩
  cases mb <;> exact iteInduction (fun _ => .refl _) (fun _ => sendOnly_sendIp _ ip _)

/-- Settles O11: the end of a command by its holder. -/
theorem commandEndsInItsMailbox : Obligations.CommandEndsInItsMailbox := by
  unfold Obligations.CommandEndsInItsMailbox
  refine ⟨fun s mb result last resp hheld => ?held, fun s mb result last resp ip htrdp => ?trdp⟩
  case held =>
    rw [finishMbAt_held hheld]
    exact ⟨rfl, by rw [endedMb, mbox_setIrq, mbox_modMb], fun k hk => mbox_endedMb_ne hk result last resp⟩
  case trdp =>
    obtain ⟨u, hsent, hends⟩ := finishMbAt_trdp htrdp result last resp
    rw [hends, mbox_idleMb]
    exact ⟨rfl, rfl, fun k hk => by rw [idleMb, mbox_modMb_ne _ hk, hsent.mbox, mbox_endedMb_ne hk]⟩

/-! ### Commands that only read (R453) -/

/-- A command that may change its mailbox, the interrupts and what its answer sends, and nothing else. -/
structure AnswerOnly (s : State) (mb : Mb) (t : State) : Prop where
  rest : t = { s with hp := t.hp, train := t.train, net := t.net, out := t.out }
  hp : t.hp = { s.hp with mb0 := t.hp.mb0, mb1 := t.hp.mb1, irq := t.hp.irq }
  train : t.train = { s.train with
    arpWait := t.train.arpWait, unroutable := t.train.unroutable, ptp := { s.train.ptp with sentAt := t.train.ptp.sentAt } }
  net : t.net = { s.net with best := t.net.best, planeA := { s.net.planeA with bestUntil := t.net.planeA.bestUntil }
                             planeB := { s.net.planeB with bestUntil := t.net.planeB.bestUntil } }
  others : ∀ k, k ≠ mb → mbox t k = mbox s k
  out : ∃ out, t.out = s.out ++ out
  held : (∀ ip, (mbox s mb).holder ≠ some (.trdp ip)) → t = { s with hp := t.hp }

theorem AnswerOnly.refl (s : State) (mb : Mb) : AnswerOnly s mb s :=
  ⟨rfl, rfl, rfl, rfl, fun _ _ => rfl, ⟨[], by rw [List.append_nil]⟩, fun _ => rfl⟩

theorem answerOnly_finishMbAt (s : State) (mb : Mb) (result last : Nat) (resp : List Word) :
    AnswerOnly s mb (finishMbAt s mb result resp last) := by
  by_cases hheld : ∀ ip, (mbox s mb).holder ≠ some (.trdp ip)
  · have hothers (k : Mb) (hk : k ≠ mb) := mbox_endedMb_ne (s := s) hk result last resp
    rw [finishMbAt_held hheld]
    cases mb <;> exact ⟨rfl, rfl, rfl, rfl, hothers, ⟨[], (List.append_nil _).symm⟩, fun _ => rfl⟩
  · obtain ⟨ip, hip⟩ := not_forall_not.mp hheld
    obtain ⟨u, hsent, hends⟩ := finishMbAt_trdp hip result last resp
    have hothers (k : Mb) (hk : k ≠ mb) : mbox (idleMb u mb) k = mbox s k := by
      rw [idleMb, mbox_modMb_ne _ hk, hsent.mbox, mbox_endedMb_ne hk]
    rw [hends]
    obtain ⟨_, _, _, _, _, _, out, rfl⟩ := hsent
    cases mb <;> exact ⟨rfl, rfl, rfl, rfl, hothers, ⟨out, rfl⟩, fun h => absurd hip (h ip)⟩

theorem answerOnly_okMb (s : State) (mb : Mb) (resp : List Word) : AnswerOnly s mb (okMb s mb resp) :=
  answerOnly_finishMbAt s mb 0 _ resp
theorem answerOnly_finishMb (s : State) (mb : Mb) (result : Nat) (resp : List Word) : AnswerOnly s mb (finishMb s mb result resp) :=
  answerOnly_finishMbAt s mb result _ resp
theorem answerOnly_resultMb (s : State) (mb : Mb) (result : Nat) : AnswerOnly s mb (resultMb s mb result) :=
  answerOnly_finishMbAt s mb result _ []

/-- A row whose effect only answers changes no more than its answer does. -/
theorem answerOnly_runCmd {s t : State} {mb : Mb} {code : Nat} {limited halted : Bool} {fail : List Word} {need : List Word → Nat}
    {f : State → List Word → State} (hf : ∀ ws, AnswerOnly s mb (f s ws)) (ht : runCmd s mb code limited halted fail need f = .next t) :
    AnswerOnly s mb t := by
  simp only [runCmd] at ht
  split at ht
  · cases ht; exact .refl s mb
  split at ht
  · cases ht; exact answerOnly_finishMb s mb _ _
  split at ht
  · cases ht; exact answerOnly_finishMbAt s mb _ _ _
  · cases ht; exact hf _

theorem answerOnly_ite {s t u : State} {mb : Mb} {c : Prop} [Decidable c] (ht : AnswerOnly s mb t) (hu : AnswerOnly s mb u) :
    AnswerOnly s mb (if c then t else u) := by
  split
  · exact ht
  · exact hu

theorem answerOnly_cfgRead (s : State) (mb : Mb) (ws : List Word) : AnswerOnly s mb (cfgRead s mb ws) := by
  simp only [cfgRead]
  refine answerOnly_ite (answerOnly_resultMb s mb 3) ?_
  split
  · exact answerOnly_resultMb s mb 3
  · exact answerOnly_ite (answerOnly_resultMb s mb 4) (answerOnly_okMb s mb _)

theorem answerOnly_laneMemory (s : State) (mb : Mb) (l : Lane) (ws : List Word) : AnswerOnly s mb (laneMemory s mb l ws) :=
  answerOnly_ite (answerOnly_resultMb s mb 4) (answerOnly_ite (answerOnly_resultMb s mb 3) (answerOnly_okMb s mb _))

/-- The effect of a command that only reads is an answer, whichever it is. -/
theorem answerOnly_of_readsOnly {c : Instr} {r : MbRow} {s t : State} (hreads : readsOnly c = true) (hrow : mbRow c = some r)
    (ht : exec c s = .next t) : AnswerOnly s r.mb t := by
  cases c
  case getInfo mb =>
    cases hrow
    rw [exec_getInfo, execGetInfo] at ht
    exact answerOnly_runCmd (fun ws => answerOnly_okMb s mb _) ht
  case getStatus mb =>
    cases hrow
    rw [exec_getStatus, execGetStatus] at ht
    exact answerOnly_runCmd (fun ws => answerOnly_okMb s mb _) ht
  case pairStatus mb =>
    cases hrow
    rw [exec_pairStatus, execPairStatus] at ht
    exact answerOnly_runCmd (fun ws => answerOnly_okMb s mb _) ht
  case forceList mb =>
    cases hrow
    rw [exec_forceList, execForceList] at ht
    exact answerOnly_runCmd (fun ws => answerOnly_finishMb s mb 0 _) ht
  case ptpStatus mb =>
    cases hrow
    rw [exec_ptpStatus, execPtpStatus] at ht
    exact answerOnly_runCmd (fun ws => answerOnly_finishMb s mb 0 _) ht
  case recInfo mb =>
    cases hrow
    rw [exec_recInfo, execRecInfo] at ht
    exact answerOnly_runCmd (fun ws => answerOnly_finishMb s mb 0 _) ht
  case pwrStatus mb =>
    cases hrow
    rw [exec_pwrStatus, execPwrStatus] at ht
    exact answerOnly_runCmd (fun ws => answerOnly_finishMb s mb 0 _) ht
  case cfgRead mb =>
    cases hrow
    rw [exec_cfgRead, execCfgRead] at ht
    exact answerOnly_runCmd (fun ws => answerOnly_cfgRead s mb ws) ht
  case chStatus mb =>
    cases hrow
    rw [exec_chStatus, execChStatus] at ht
    exact answerOnly_runCmd (fun ws => answerOnly_ite (answerOnly_resultMb s mb 6) (answerOnly_finishMb s mb 0 _)) ht
  case laneStatus mb =>
    cases hrow
    rw [exec_laneStatus, execLaneStatus] at ht
    exact answerOnly_runCmd (fun ws => answerOnly_ite (answerOnly_resultMb s mb 3) (answerOnly_ite (answerOnly_resultMb s mb 6)
      (answerOnly_ite (answerOnly_laneMemory s mb _ ws) (answerOnly_okMb s mb _)))) ht
  case progInfo mb =>
    cases hrow
    rw [exec_progInfo, execProgInfo] at ht
    refine answerOnly_runCmd (fun ws => ?_) ht
    split
    · split
      · exact answerOnly_okMb s mb _
      · exact answerOnly_okMb s mb _
    · exact answerOnly_okMb s mb _
    · exact answerOnly_resultMb s mb 3
  case netStatus mb =>
    cases hrow
    rw [exec_netStatus, execNetStatus] at ht
    have hnet (n limit : Nat) (words : List Word) : AnswerOnly s mb (if !decide (n < limit) then resultMb s mb 3
        else if !domainOn s 5 then resultMb s mb 6 else finishMb s mb 0 words) :=
      answerOnly_ite (answerOnly_resultMb s mb 3) (answerOnly_ite (answerOnly_resultMb s mb 6) (answerOnly_finishMb s mb 0 words))
    refine answerOnly_runCmd (fun ws => ?_) ht
    dsimp only
    split
    · exact hnet _ _ _
    · exact hnet _ _ _
    · exact hnet _ _ _
    · exact answerOnly_finishMb s mb 0 _
    · exact answerOnly_finishMb s mb 0 _
    · exact answerOnly_resultMb s mb 3
  all_goals cases hreads

/-- Settles O7: a command that only reads is an answer and nothing besides. -/
theorem readingCommandsChangeOnlyTheirMailbox : Obligations.ReadingCommandsChangeOnlyTheirMailbox := by
  unfold Obligations.ReadingCommandsChangeOnlyTheirMailbox
  intro c r s t hreads hrow ht
  obtain ⟨hrest, hhp, htrain, hnet, hothers, hout, hheld⟩ := answerOnly_of_readsOnly hreads hrow ht
  exact ⟨hrest, hhp, htrain, hnet, hothers, hout, hheld⟩

/-! ### The interrupt line (R443) -/

/-- Settles O12: a word is not zero exactly where one of its bits is set. -/
theorem hostIrqIsAnyEnabledBit : Obligations.HostIrqIsAnyEnabledBit := by
  unfold Obligations.HostIrqIsAnyEnabledBit
  intro s
  rw [hostIrqLow, bne_iff_ne]
  constructor
  · intro hset
    obtain ⟨i, hi⟩ := not_forall.mp (fun h => hset (BitVec.eq_of_getLsbD_eq h))
    obtain ⟨hi32, hbit⟩ := Classical.not_imp.mp hi
    have hboth : s.hp.irq.getLsbD i = true ∧ s.hp.irqEn.getLsbD i = true := by simpa using hbit
    exact ⟨i, hi32, hboth⟩
  · rintro ⟨i, -, hirq, hen⟩ hzero
    have hbit : (s.hp.irq &&& s.hp.irqEn).getLsbD i = true := by rw [BitVec.getLsbD_and, hirq, hen]; rfl
    rw [hzero] at hbit
    simp at hbit

/-! ### The queue and the end of a run (R466) -/

/-- Settles O1: the two arms of the step. -/
theorem stepRunsTheFrontCommand : Obligations.StepRunsTheFrontCommand := by
  unfold Obligations.StepRunsTheFrontCommand
  exact ⟨fun _ _ _ => rfl, fun s hs => by rw [step, hs]⟩

theorem runs_next (s : State) : Runs (.next s) := ⟨s, rfl⟩

/-- Every row of the command table ends in a next state. -/
theorem runs_runCmd (s : State) (mb : Mb) (code : Nat) (limited halted : Bool) (fail : List Word) (need : List Word → Nat)
    (f : State → List Word → State) : Runs (runCmd s mb code limited halted fail need f) := by
  simp only [runCmd]
  repeat' split
  all_goals exact runs_next _

theorem execPowerReturn_within {mv : Nat} {s : State} (h : ¬ 6000 < mv) : Runs (execPowerReturn mv s) := by
  simp only [execPowerReturn, h, if_false]
  repeat' split
  all_goals exact runs_next _

theorem execPowerReturn_beyond {mv : Nat} (s : State) (h : 6000 < mv) : execPowerReturn mv s = .fault .beyondAbsoluteMaximum := by
  simp only [execPowerReturn, h, if_true]

/-- Every command but a return of power ends in a next state: a row of the table, a meaning that is one, or one that chooses between
several. -/
theorem runs_of_not_powerReturn {c : Instr} (s : State) (h : ∀ mv, c ≠ .powerReturn mv) : Runs (exec c s) := by
  cases hrow : mbRow c with
  | some r =>
    obtain ⟨fail, need, f, hexec⟩ := exec_of_mbRow hrow
    rw [hexec]
    exact runs_runCmd s _ _ _ _ fail need f
  | none =>
    cases c
    case powerReturn mv => exact absurd rfl (h mv)
    case resetExecute | sessionInactivity | badCmd | triggerFiring | release | zeroCrossing | lost | holdoverLimit |
      releaseStampArrival | commitTimeout | voteDeadline | comparatorNoVerdict | injectionTestTimer | injectionTestResult | ackEdge |
      ackReport | ackJammed | ackJamClear | switchWithoutRelease | stuck | disagree | supplyFault | supplyGood | tripLatchClear |
      openWire | rbErr | testPeriod | testOverdue | gswTest | mixerFrame | recorderFiring | flushRecordWritten | recordAge |
      faultHandle | powerFail | domainShedStep | minOnExpiry | wakePortStop | wakeInput | aonTick | wakeFrame | dutyWatchCycle |
      partnerVoteLoss | firmwareVerified | supervisorStart | objectVerification | laneRelease | programLoadDone | retainedRestore |
      admission | stageTimeLimit | switchAck | jaranResync | linkUp | laneThermalTrip | outputBudgetExpiry | hubThermalTrip |
      vholdExhausted =>
      simp only [exec, execResetExecute, execSessionInactivity, execBadCmd, execTriggerFiring, execRelease, execZeroCrossing, execLost,
      execHoldoverLimit, execReleaseStampArrival, execCommitTimeout, execVoteDeadline, execComparatorNoVerdict, execInjectionTestTimer,
      execInjectionTestResult, execAckEdge, execAckReport, execAckJammed, execAckJamClear, execSwitchWithoutRelease, execStuck,
      execDisagree, execSupplyFault, execSupplyGood, execTripLatchClear, execOpenWire, execRbErr, execTestPeriod, execTestOverdue,
      execGswTest, execMixerFrame, execRecorderFiring, execFlushRecordWritten, execRecordAge, execFaultHandle, execPowerFail,
      execDomainShedStep, execMinOnExpiry, execWakePortStop, execWakeInput, execAonTick, execWakeFrame, execDutyWatchCycle,
      execPartnerVoteLoss, execFirmwareVerified, execSupervisorStart, execObjectVerification, execLaneRelease, execProgramLoadDone,
      execRetainedRestore, execAdmission, execStageTimeLimit, execSwitchAck, execJaranResync, execLinkUp, execLaneThermalTrip,
      execOutputBudgetExpiry, execHubThermalTrip, execVholdExhausted]
      repeat' split
      all_goals exact runs_next _
    all_goals cases hrow
    all_goals exact runs_next _

/-- Settles O5: a run ends only at a return of power, where the voltage says so. -/
theorem onlyOvervoltageStops : Obligations.OnlyOvervoltageStops := by
  unfold Obligations.OnlyOvervoltageStops
  have hnext (c : Instr) (s : State) : Runs (exec c s) ∨ ∃ mv, c = .powerReturn mv ∧ 6000 < mv := by
    by_cases hc : ∃ mv, c = .powerReturn mv
    · obtain ⟨mv, rfl⟩ := hc
      by_cases hmv : 6000 < mv
      · exact .inr ⟨mv, rfl, hmv⟩
      · exact .inl (execPowerReturn_within hmv)
    · exact .inl (runs_of_not_powerReturn s (fun mv h => hc ⟨mv, h⟩))
  refine ⟨fun c s r hr => ?_, fun c s f => ⟨fun hf => ?_, ?_⟩⟩
  · obtain ⟨t, ht⟩ | ⟨mv, rfl, hmv⟩ := hnext c s
    · rw [ht] at hr; cases hr
    · rw [exec_powerReturn, execPowerReturn_beyond s hmv] at hr; cases hr
  · obtain ⟨t, ht⟩ | ⟨mv, rfl, hmv⟩ := hnext c s
    · rw [ht] at hf; cases hf
    · rw [exec_powerReturn, execPowerReturn_beyond s hmv] at hf; cases hf
      exact ⟨rfl, mv, rfl, hmv⟩
  · rintro ⟨rfl, mv, rfl, hmv⟩
    exact execPowerReturn_beyond s hmv

end Sys2Proof.Machine
end

section
/-! SUPPORT. What the network commands do with a request, and what claims, grants, leases and announced schedules lead to (R271, R288 to
R292, R295, R301, R453, R454). -/
namespace Sys2Proof.Machine

/-! ### SLOT_CLAIM and PTP_STATUS (R289, R295, R301) -/

section
variable {s u : State} {mb : Mb} {w : Word} {slot planes : Nat} {k : Int}

/-- A claim that may be made is entered and waits, unless its planes have decided already. -/
theorem slotClaim_enters (hw : Asked s mb 0x0601 false false [w]) (hslot : slot = bits w.toNat 0 8) (hplanes : planes = bits w.toNat 8 2)
    (hany : planes ≠ 0) (hclaim : s.net.sched.entries.any (fun e => e.slot = slot && e.ty = 3) = true)
    (htx : s.bank.net.tx.any (fun x => x.slot = slot) = true) (hnet : domainOn s 5 = true) (hsync : s.net.node = .sync)
    (hfree : s.net.claimCmd = none) (hk : k = s.net.sched.cluster (s.net.sched.cycleOf (now0 s)))
    (hu : u = { waitMb s mb with net := { s.net with
      claims := { slot := slot, planes := planes, next := k } :: s.net.claims.filter (fun x => x.slot ≠ slot)
      claimCmd := some (mb, slot, planes, k)
      planeA := { s.net.planeA with decided := s.net.planeA.decided.filter (fun d => d.1 ≠ slot) }
      planeB := { s.net.planeB with decided := s.net.planeB.decided.filter (fun d => d.1 ≠ slot) } } }) :
    exec (.slotClaim mb) s = .next (endSlotClaim u) := by
  rw [exec_slotClaim, execSlotClaim, runCmd_asked hw (by rfl)]
  have hword : wNat [w] 0 = w.toNat := rfl
  subst hslot hplanes hk hu
  simp only [hword, hclaim, htx, hnet, hsync, hfree]
  simp [hany]
  rfl

/-- A claim that some named plane has still to decide, and that none has denied, goes on waiting. -/
theorem endSlotClaim_waits (hcmd : u.net.claimCmd = some (mb, slot, planes, k))
    (hopen : claimState u planes slot false = none ∨ claimState u planes slot true = none)
    (ha2 : claimState u planes slot false ≠ some 2) (ha3 : claimState u planes slot false ≠ some 3)
    (hb2 : claimState u planes slot true ≠ some 2) (hb3 : claimState u planes slot true ≠ some 3) : endSlotClaim u = u := by
  simp only [endSlotClaim, hcmd, ha2, ha3, hb2, hb3, decide_false, Bool.or_self, Bool.false_eq_true, if_false]
  obtain h | h := hopen
  · simp only [h]
  · cases claimState u planes slot false <;> simp only [h]

/-- 16 cluster cycles without a decision end the claim with TIMEOUT. -/
theorem slotClaimTimeout_ends (hcmd : s.net.claimCmd = some (mb, slot, planes, k))
    (hover : k + 16 ≤ s.net.sched.cluster (s.net.sched.cycleOf (now0 s))) :
    exec (.slotClaimTimeout mb) s = .next (resultMb { s with net := { s.net with
      claimCmd := none, claims := s.net.claims.filter (fun x => x.slot ≠ slot) } } mb 8) := by
  simp only [exec_slotClaimTimeout, execSlotClaimTimeout, hcmd, hover, decide_true, Bool.and_self, if_true]

/-- A port of a star is released: its quarantine ends, or its leases are revoked. -/
theorem portRelease_releases (hw : Asked s mb 0x0602 true true [w]) (hsession : inSession s mb = true) (hnet : domainOn s 5 = true)
    (hstar : (starPlane s).isSome = true) (hrole : (portCfg s (bits w.toNat 0 3)).role = 2) :
    exec (.portRelease mb) s = .next (resultMb (if bit w.toNat 8 then revokeLeases s (bits w.toNat 0 3)
      else endQuarantine s (bits w.toNat 0 3)) mb 0) := by
  have hword : wNat [w] 0 = w.toNat := rfl
  have hnone : (starPlane s).isNone = false := by rwa [Option.isNone_eq_false_iff]
  rw [exec_portRelease, execPortRelease, runCmd_asked hw (by rfl)]
  simp only [hword, hsession, hnet, hnone, hrole, bne_self_eq_false, Bool.not_true, Bool.false_eq_true, if_false]
  cases bit w.toNat 8 <;> rfl

/-- PTP_STATUS names the master where one is known, and zeros where none is. -/
theorem ptpStatus_answers {g q : BitVec 64} {port steps : Nat} (hw : Asked s mb 0x0610 true true [])
    (hnone : ptpMaster s = none → g = 0 ∧ q = 0 ∧ port = 0 ∧ steps = 0)
    (hsome : ∀ m, ptpMaster s = some m → g = m.gmIdentity ∧ q = m.parentIdentity ∧ port = m.parentPort ∧ steps = m.stepsRemoved) :
    exec (.ptpStatus mb) s = .next (finishMb s mb 0 ([w32 (ptpPort s % 256 + ptpCode s.train.ptp.st * 256), hi32 g, lo32 g, 0,
      hi32 q, lo32 q, w32 (port * 65536), w32 steps] ++ twoInt s.train.ptp.offset ++ twoInt (pathDelay s)
      ++ [w32 s.train.ptp.timeouts, w32 s.train.ptp.moves])) := by
  rw [exec_ptpStatus, execPtpStatus, runCmd_asked hw (by rfl)]
  cases hmaster : ptpMaster s with
  | none =>
    obtain ⟨rfl, rfl, rfl, rfl⟩ := hnone hmaster
    rfl
  | some m =>
    obtain ⟨rfl, rfl, rfl, rfl⟩ := hsome m hmaster
    rfl
end

/-! ### NET_STATUS (R295, R369, R454) -/

section
variable {s : State} {mb : Mb} {n : Word}

/-- The records of the network domain are answered while it is on; with it off the command ends with DOMAIN_OFF. -/
theorem netStatus_ofNet {sel : Word} {limit : Nat} {words : List Word} (hw : Asked s mb 0x0600 true true [sel, n])
    (hn : n.toNat < limit)
    (hsel : (sel = 0 ∧ limit = 2 ∧ words = planeStatus s (n.toNat = 1)) ∨ (sel = 1 ∧ limit = 11 ∧ words = portStatus s n.toNat)
      ∨ (sel = 2 ∧ limit = 2 ∧ words = leaseStatus s (n.toNat = 1))) :
    exec (.netStatus mb) s = .next (if domainOn s 5 then finishMb s mb 0 words else resultMb s mb 6) := by
  have hword : wNat [sel, n] 1 = n.toNat := rfl
  rw [exec_netStatus, execNetStatus, runCmd_asked hw (by rfl)]
  simp only [hword]
  rcases hsel with ⟨rfl, rfl, rfl⟩ | ⟨rfl, rfl, rfl⟩ | ⟨rfl, rfl, rfl⟩ <;>
    (simp only [wNat, List.getD_cons_zero, hn, decide_true, Bool.not_true, Bool.false_eq_true, if_false]; cases domainOn s 5 <;> rfl)
end

/-! ### Network commands (O21) -/

/-- Settles O21: each command by its lemma. -/
theorem networkCommandsHaveTheirEffect : Obligations.NetworkCommandsHaveTheirEffect := by
  unfold Obligations.NetworkCommandsHaveTheirEffect
  refine ⟨fun mb s n => ⟨?planes, ?ports, ?leases, ?groups, ?endpoints⟩, ?claim, fun mb s slot planes k => slotClaimTimeout_ends,
    fun mb s w hw hsession hnet hstar hrole => portRelease_releases hw hsession hnet hstar hrole,
    fun mb s g q port steps => ptpStatus_answers⟩
  case planes => exact fun hw hn => netStatus_ofNet hw hn (.inl ⟨rfl, rfl, rfl⟩)
  case ports => exact fun hw hn => netStatus_ofNet hw hn (.inr (.inl ⟨rfl, rfl, rfl⟩))
  case leases => exact fun hw hn => netStatus_ofNet hw hn (.inr (.inr ⟨rfl, rfl, rfl⟩))
  case groups => exact fun hw => by rw [exec_netStatus, execNetStatus, runCmd_asked hw (by rfl)]; rfl
  case endpoints => exact fun hw => by rw [exec_netStatus, execNetStatus, runCmd_asked hw (by rfl)]; rfl
  case claim =>
    intro mb s u w slot planes k hw hslot hplanes hany hclaim htx hnet hsync hfree hk hu
    have henters := slotClaim_enters hw hslot hplanes hany hclaim htx hnet hsync hfree hk hu
    have hcmd : u.net.claimCmd = some (mb, slot, planes, k) := by rw [hu]
    exact ⟨henters, fun hopen ha2 ha3 hb2 hb3 => by rw [henters, endSlotClaim_waits hcmd hopen ha2 ha3 hb2 hb3]⟩

/-! ### Claims (R271, R290) -/

section
variable {s u : State} {port : Nat} {bytes : List Byte} {pb : Bool} {x : ClaimIn}

/-- The root star takes the claim that its sluice consumed, once it is received: a bad one is discarded, a good one decided. -/
theorem decideClaim_received (hplane : starPlane s = some pb) (hroot : isRoot s = true) (hint : integrated s = true)
    (hin : s.net.claimIn = some x) (hnew : x.decided = false) (hport : x.port = port) (hbytes : x.bytes = bytes)
    (hover : elapsed s x.since ((8 + bytes.length) * portByteNs s port) = true)
    (hu : u = { s with net := { s.net with claimIn := some { x with decided := true } } }) :
    decideClaim s port bytes = if frameGood s bytes && fKind bytes = 4 then
        if claimDecision s pb port (fNode bytes) (getByte (fPayload bytes) 0) = 1 then
          netRecord { u with net := { u.net with
            decision := some (fNode bytes, getByte (fPayload bytes) 0, 1)
            leases := s.net.leases ++ [{ slot := getByte (fPayload bytes) 0, device := fNode bytes, port := port
                                         last := s.net.sched.cluster (s.net.sched.cycleOf (now0 s)) }] } }
            0 0x7007 pb (sluicePort port) (fNode bytes) 0 (getByte (fPayload bytes) 0)
        else { u with net := { u.net with decision := some (fNode bytes, getByte (fPayload bytes) 0,
          claimDecision s pb port (fNode bytes) (getByte (fPayload bytes) 0)) } }
      else reject u := by
  subst hport hbytes hu
  simp only [decideClaim, hplane, hin, hroot, hint, hnew, hover, bne_self_eq_false, Bool.not_true, Bool.or_self, Bool.false_eq_true,
    if_false]
  have hgood : frameGood { s with net := { s.net with claimIn := some { x with decided := true } } } x.bytes = frameGood s x.bytes := rfl
  have hdecision : claimDecision { s with net := { s.net with claimIn := some { x with decided := true } } } pb x.port (fNode x.bytes)
    (getByte (fPayload x.bytes) 0) = claimDecision s pb x.port (fNode x.bytes) (getByte (fPayload x.bytes) 0) := rfl
  rw [hgood, hdecision]
  cases frameGood s x.bytes && decide (fKind x.bytes = 4)
  · rfl
  · by_cases h : claimDecision s pb x.port (fNode x.bytes) (getByte (fPayload x.bytes) 0) = 1
    · simp only [h]; rfl
    · simp only [h]; rfl

/-- Whose claim is granted: of a slot without a lease the port's that may own it; a lease denies it, as a duplicate or as taken. -/
theorem claimDecision_eq {device want : Nat} {e : SchedEntry}
    (he : s.net.sched.entries.find? (fun e => e.ty = 3 && e.slot = want && bit e.planes (b2n pb)) = some e) :
    (s.net.leases.find? (fun l => l.slot = want) = none → claimDecision s pb port device want = if bit e.owner port then 1 else 3) ∧
    (∀ l, s.net.leases.find? (fun l => l.slot = want) = some l →
      claimDecision s pb port device want = if l.device = device then 3 else 2) :=
  ⟨fun hnone => by simp only [claimDecision, he, hnone], fun l hl => by simp only [claimDecision, he, hl]⟩
end

/-! ### Grants, lapses and schedule switches (R271, R289, R291, R292) -/

section
variable {s : State} {pb : Bool}

theorem receiveGrant_eq (bytes : List Byte) (hnet : domainOn s 5 = true) :
    receiveGrant s pb bytes = if frameGood s bytes && fKind bytes = 5 then followGrant s pb bytes else reject s := by
  simp only [receiveGrant, hnet]
  cases frameGood s bytes && decide (fKind bytes = 5) <;> rfl

theorem leaseLapse_lapses {slot : Nat} {l : Lease} (hl : s.net.leases.find? (fun l => l.slot = slot) = some l) (hroot : isRoot s = true)
    (hplane : starPlane s = some pb) (hover : l.last + 257 ≤ s.net.sched.cluster (s.net.sched.cycleOf (now0 s))) :
    leaseLapse s pb slot = netRecord { s with net := { s.net with leases := s.net.leases.filter (fun l => l.slot ≠ slot) } }
      0 0x7007 pb (sluicePort l.port) l.device 1 slot := by
  simp only [leaseLapse, hl, hroot, hplane, hover, decide_true, Bool.and_self, if_true]

/-- An announced schedule whose instant has come takes over where the bank holds it, and is a mismatch where it does not. -/
theorem scheduleSwitch_due (hnext : s.net.nextId ≠ 0) (hother : s.net.nextId ≠ s.net.sched.id) (hdue : switchInstant s ≤ now0 s) :
    scheduleSwitch s = if s.bank.net.sched.id = s.net.nextId then switchSchedule s s.bank.net.sched (refPlane s)
      else { mismatch (enterListen s) (refPlane s) with net := { (mismatch (enterListen s) (refPlane s)).net with
        nextId := 0, switchCount := 0 } } := by
  have hnow : ¬ now0 s < switchInstant s := by omega
  simp only [scheduleSwitch, hnext, hother, hnow, decide_false, Bool.or_self, Bool.false_eq_true, if_false]
end

/-! ### Leases (O54) -/

/-- Settles O54: a claim received, how it is decided, a grant, a lapse and a switch. -/
theorem leaseCommandsHaveTheirEffect : Obligations.LeaseCommandsHaveTheirEffect := by
  unfold Obligations.LeaseCommandsHaveTheirEffect
  simp only [exec_claim, execClaim, exec_grant, execGrant, exec_leaseLapse, execLeaseLapse, exec_scheduleSwitch, execScheduleSwitch]
  refine fun bytes s => ⟨?claim, fun pb port device want e he => claimDecision_eq he, ?grant, ?lapse, ?switch⟩
  case claim =>
    intro port pb x u want r hplane hroot hint hin hnew hport hbytes hover hu hwant hr
    have hreceived := decideClaim_received hplane hroot hint hin hnew hport hbytes hover hu
    rw [← hwant, ← hr] at hreceived
    refine ⟨fun hgood hkind => ?_, fun hbad => ?_⟩
    · rw [hreceived, if_pos (by simp [hgood, hkind])]
      exact ⟨fun hr1 => by rw [if_pos hr1], fun hr1 => by rw [if_neg hr1]⟩
    · rw [hreceived, if_neg (by simpa [imp_iff_not_or] using hbad), reject]
  case grant =>
    intro p hnet
    rw [receiveGrant_eq bytes hnet]
    exact ⟨fun hbad => by rw [if_neg (by simpa [imp_iff_not_or] using hbad), reject],
      fun hgood hkind => by rw [if_pos (by simp [hgood, hkind])]⟩
  case lapse => exact fun p slot l hl hroot hplane hover => by rw [leaseLapse_lapses hl hroot hplane hover]
  case switch =>
    intro hnext hother hdue
    rw [scheduleSwitch_due hnext hother hdue]
    exact ⟨fun hheld => by rw [if_pos hheld], fun u hheld hu => by rw [if_neg hheld, hu]⟩

end Sys2Proof.Machine
end

section
/-! SUPPORT. What the backbone, its links, ARP, ICMP and IGMP do (R277, R303 to R305, R317). -/
namespace Sys2Proof.Machine

/-! ### The backbone and its links (R277, R303, R317) -/

section
variable {s : State}

theorem topologyTimeout_stale (htopo : s.train.topo.isSome = true) (hfresh : s.train.topoStale = false)
    (hover : elapsed s s.train.topoAt 1000000000 = true) :
    topologyTimeout s = moduleSignalEvents s (raiseHub { s with train := { s.train with topoStale := true } } 1 0x8007) := by
  simp only [topologyTimeout, htopo, hfresh, hover, Bool.not_false, Bool.and_self, if_true]

/-- A speed a port permits: none, 100 Mbit/s on SVC, any on the backbone, and on a consist port those of its entry (R277). -/
def SpeedPermitted (s : State) (n speed : Nat) : Prop :=
  speed = 0 ∨ (n = 10 ∧ speed = 1) ∨ n = 8 ∨ n = 9 ∨ ((portCfg s n).role ≠ 0 ∧
    ((speed = 2 ∧ bit (portCfg s n).speed 0 = true) ∨ (speed = 1 ∧ bit (portCfg s n).speed 1 = true)))

theorem speedPermitted_iff (n speed : Nat) :
    ((n = 10 && speed ≤ 1) || n = 8 || n = 9 || speed = 0
      || ((portCfg s n).role != 0 && ((speed = 2 && bit (portCfg s n).speed 0) || (speed = 1 && bit (portCfg s n).speed 1)))) = true
      ↔ SpeedPermitted s n speed := by
  simp only [SpeedPermitted, Bool.or_eq_true, Bool.and_eq_true, decide_eq_true_eq, bne_iff_ne, Nat.le_one_iff_eq_zero_or_eq_one]
  tauto

theorem linkChange_permitted {n speed : Nat} (hnet : domainOn s 5 = true) (h : SpeedPermitted s n speed) :
    linkChange s n speed = moduleSignalEvents s { s with net := { s.net with ports := upd s.net.ports n (fun l =>
      { l with since := if l.speed = 0 && speed != 0 then rawNow s else l.since, speed := min speed 2 }) } } := by
  simp only [linkChange, hnet, (speedPermitted_iff n speed).mpr h, Bool.not_true, Bool.false_eq_true, if_false, if_true]

theorem linkChange_refused {n speed : Nat} (hnet : domainOn s 5 = true) (h : ¬ SpeedPermitted s n speed) :
    linkChange s n speed = moduleSignalEvents s { s with net := { s.net with ports := upd s.net.ports n (fun l =>
      { l with speed := 0, badSpeed := l.badSpeed + 1 }) } } := by
  have hno := Bool.eq_false_iff.mpr (mt (speedPermitted_iff n speed).mp h)
  simp only [linkChange, hnet, hno, Bool.not_true, Bool.false_eq_true, if_false]

/-! ### ARP and IGMP (R304, R305) -/

theorem arpFrame_request {ip target : Word} {port : Nat} {hop : Word} (mac : BitVec 48) (hnet : domainOn s 5 = true)
    (hroute : route s ip = some (port, hop)) (hown : ownAddress s target = true) (huse : mayUse s port = true) :
    arpFrame s true ip target mac = leave s (.arp port false target) := by
  simp only [arpFrame, hnet, hroute, hown, huse, Bool.not_true, Bool.and_self, Bool.false_eq_true, if_false, if_true]

theorem arpFrame_reply (ip target : Word) (mac : BitVec 48) (hnet : domainOn s 5 = true) :
    arpFrame s false ip target mac = (s.train.arpWait.filter (fun w => w.2.1 = ip)).foldl (fun u w => leave u w.2.2)
      { s with train := { s.train with
          arp := ((({ ip := ip, mac := mac, at_ := rawNow s } : ArpEntry)) :: s.train.arp.filter (fun e => e.ip ≠ ip)).take 64
          arpWait := s.train.arpWait.filter (fun w => w.2.1 ≠ ip) } } := by
  simp only [arpFrame, hnet, Bool.not_true, Bool.false_eq_true, if_false]
end

/-! ### The backbone and IP (O56) -/

/-- Settles O56: the backbone and its links; then IP. -/
theorem backboneAndIpHaveTheirEffect : Obligations.BackboneAndIpHaveTheirEffect := by
  unfold Obligations.BackboneAndIpHaveTheirEffect
  simp only [exec_topology, execTopology, exec_topologyTimeout, execTopologyTimeout, exec_ethernetLinkChange, execEthernetLinkChange,
    exec_arpFrame, execArpFrame, exec_arpExpiry, execArpExpiry, exec_reassemblyTimeout, execReassemblyTimeout, exec_icmpEchoRequest,
    execIcmpEchoRequest, exec_igmpQuery, execIgmpQuery]
  refine ⟨fun s => ⟨?topology, fun line m hdown => by rw [hdown]; rfl,
    fun htopo hfresh hover => by rw [topologyTimeout_stale htopo hfresh hover], ?link⟩,
    fun s => ⟨fun ip target mac hnet => by rw [arpFrame_reply ip target mac hnet],
      fun ip target mac port hop hnet hroute hown huse => by rw [arpFrame_request mac hnet hroute hown huse],
      fun ip => rfl, fun ip => rfl, ?reassembly, ?echo, ?query, fun line hoff => by rw [hoff]; rfl⟩⟩
  case topology =>
    intro line m u v hup hu hv
    rw [hup, if_pos rfl, takeTopology, hv, hu]
  case link =>
    intro port speed permitted hnet hpermitted
    subst hpermitted
    exact ⟨fun h => by rw [linkChange_permitted hnet h], fun h => by rw [linkChange_refused hnet h]⟩
  case reassembly => exact fun id => rfl
  case echo =>
    intro src dst m
    exact ⟨fun hplain hown => by rw [hplain, hown]; rfl, fun hplain hother => by rw [hplain, hother]; rfl,
      fun hnot => by rw [hnot]; rfl⟩
  case query =>
    intro line port p hon hport huse hprog
    rw [← hport, hon, huse, hprog]; rfl

end Sys2Proof.Machine
end

section
/-! SUPPORT. What PTP does with a message, at its times and when it sends (R297 to R301, R317). -/
namespace Sys2Proof.Machine

section
variable {s : State}

/-! ### Messages received (R297, R301) -/

theorem takeSync_slave {m : PtpSyncMsg} {s' : State} (hslave : s.train.ptp.st = .slave) (hmine : ptpMine s m.head = true)
    (hs' : s' = moduleSignalEvents s (modPtp s (fun p => { p with offset := m.t2 - m.t1 - pathDelay s - m.corrections }))) :
    takeSync s m = if (axis s' 0).src = 1 then discipline s' (-(m.t2 - m.t1 - pathDelay s - m.corrections)) else s' := by
  subst hs'
  simp only [takeSync, hslave, hmine, bne_self_eq_false, Bool.not_true, Bool.or_self, Bool.false_eq_true, if_false]

/-- A delay response joins the last 16; peer to peer it also gives the port's delay. -/
theorem takeDelay_joins {m : PtpDelayMsg} {s' : State} (hmine : ptpMine s m.head = true)
    (htaken : ptpFlag s 3 = true ∨ s.train.ptp.st = .slave)
    (hs' : s' = modPtp s (fun p => { p with delays := (((m.t2 - m.t1) + (m.t4 - m.t3) - m.corrections) / 2 :: p.delays).take 16 })) :
    takeDelay s m = if ptpFlag s 3 then { s' with net := { s'.net with
      ports := upd s'.net.ports (ptpPort s) (fun l => { l with peerDelay := pathDelay s' }) } } else s' := by
  subst hs'
  have htake : ¬ (!ptpMine s m.head || (!ptpFlag s 3 && s.train.ptp.st != .slave)) = true := by
    obtain h | h := htaken <;> simp [hmine, h]
  rw [takeDelay, if_neg htake]
  rfl

theorem takeDelay_other {m : PtpDelayMsg} (hother : ptpMine s m.head = false) : takeDelay s m = s := by
  simp only [takeDelay, hother, Bool.not_false, Bool.true_or, if_true]

/-- An ANNOUNCE of the present master or of a better one. -/
def Followed (s : State) (m : PtpAnnounceMsg) : Prop := ∀ b, s.train.ptp.best = some b →
  (b.parentIdentity = m.parentIdentity ∧ b.parentPort = m.parentPort) ∨ keyBetter (announceKey m) (announceKey b) = true

theorem takeAnnounce_followed {m : PtpAnnounceMsg} {u : State} (hmine : ptpMine s m.head = true) (hbest : Followed s m)
    (hu : u = modPtp s (fun p => { p with best := some m, heard := rawNow s })) :
    takeAnnounce s m = decidePtp (if s.train.ptp.best.any (fun b => b.gmIdentity = m.gmIdentity) then u
      else raiseHub u 0 0x8002 (ptpPort s) (hi32 m.gmIdentity).toNat (lo32 m.gmIdentity).toNat) := by
  subst hu
  cases hb : s.train.ptp.best with
  | none => simp [takeAnnounce, hmine, hb]; rfl
  | some b =>
    have htake : ((b.parentIdentity = m.parentIdentity && b.parentPort = m.parentPort)
        || keyBetter (announceKey m) (announceKey b)) = true := by simpa using hbest b hb
    by_cases hsame : b.gmIdentity = m.gmIdentity
    · simp [takeAnnounce, hmine, hb, htake, hsame]
    · simp [takeAnnounce, hmine, hb, htake, hsame]; rfl

theorem takeAnnounce_worse {m b : PtpAnnounceMsg} (hb : s.train.ptp.best = some b)
    (hother : ¬ (b.parentIdentity = m.parentIdentity ∧ b.parentPort = m.parentPort))
    (hworse : keyBetter (announceKey m) (announceKey b) = false) : takeAnnounce s m = s := by
  simp [takeAnnounce, hb, hother, hworse]

theorem takeAnnounce_other {m : PtpAnnounceMsg} (hother : ptpMine s m.head = false) : takeAnnounce s m = s := by
  simp only [takeAnnounce, hother, Bool.not_false, if_true]

/-! ### Times (R298, R301) -/

/-- The receipt timeout, where an ANNOUNCE is waited for: no master is known any more, and AX0 loses the source that it was. -/
theorem announceTimeout_over {u v : State}
    (hwaits : s.train.ptp.st = .listening ∨ s.train.ptp.st = .slave ∨ s.train.ptp.st = .passive)
    (hover : elapsed s s.train.ptp.heard (announceNs s) = true)
    (hu : u = raiseHub (modPtp s (fun p => { p with best := none, heard := rawNow s, timeouts := p.timeouts + 1 })) 1 0x8003 (ptpPort s))
    (hv : v = if s.train.ptp.st = .slave ∧ (axis u 0).src = 1 then sourceLost u else u) :
    announceTimeout s = setPtpState v (if ptpFlag v 1 then .listening else .master) := by
  have hdue : (decide (s.train.ptp.st = .listening) || decide (s.train.ptp.st = .slave) || decide (s.train.ptp.st = .passive)) = true := by
    simpa [or_assoc] using hwaits
  subst hv hu
  simp only [announceTimeout, hdue, hover, Bool.and_self, if_true, Bool.and_eq_true, decide_eq_true_eq]
  rfl

theorem announceTimeout_idle (h : s.train.ptp.st = .master ∨ s.train.ptp.st = .disabled) : announceTimeout s = s := by
  obtain h | h := h <;> simp [announceTimeout, h]

theorem portAltMove_moves (hon : ptpFlag s 0 = true) (hfirst : s.train.ptp.alt = false) (hdown : portUp s s.bank.ptp.port = false)
    (halt : s.bank.ptp.portAlt ≠ 0xFF) :
    portAltMove s
      = restartPtp (raiseHub (modPtp s (fun p => { p with alt := true, moves := p.moves + 1 })) 1 0x8004 s.bank.ptp.portAlt) := by
  simp only [portAltMove, hon, hfirst, hdown, bne_iff_ne.mpr halt, Bool.not_false, Bool.and_self, if_true]

theorem portReturn_eq (halt : s.train.ptp.alt = true) (hup : portUp s s.bank.ptp.port = true) :
    portReturn s = if elapsed s (linkPort s s.bank.ptp.port).since 10000000000
      then restartPtp (modPtp s (fun p => { p with alt := false })) else s := by
  simp only [portReturn, halt, hup, Bool.true_and]

/-! ### Sending (R297 to R301) -/

theorem masterSend_sync {u : State} (hmaster : s.train.ptp.st = .master) (hup : portUp s (ptpPort s) = true)
    (hu : u = sendPtp (modPtp s (fun p => { p with seqSync := (p.seqSync + 1) % 65536 })) .sync s.train.ptp.seqSync 0 []) :
    masterSend s false = if ptpFlag u 5 then sendPtp u .followUp s.train.ptp.seqSync 0 [] else u := by
  subst hu
  simp only [masterSend, hmaster, hup, bne_self_eq_false, Bool.not_true, Bool.or_self, Bool.false_eq_true, if_false]

theorem masterSend_announce (hmaster : s.train.ptp.st = .master) (hup : portUp s (ptpPort s) = true) :
    masterSend s true = sendPtp (modPtp s (fun p => { p with seqAnnounce := (p.seqAnnounce + 1) % 65536 })) .announce
      s.train.ptp.seqAnnounce 0 [(s.bank.ptp.utc : Int), s.bank.ptp.prio1, s.bank.ptp.clockClass, 0xFE, 0xFFFF,
        s.bank.ptp.prio2, Config.clockIdentity.toNat, 0, 0xA0, 1] := by
  simp only [masterSend, hmaster, hup, bne_self_eq_false, Bool.not_true, Bool.or_self, Bool.false_eq_true, if_false, if_true]

theorem masterSend_other (isAnnounce : Bool) (h : s.train.ptp.st ≠ .master) : masterSend s isAnnounce = s := by
  simp only [masterSend, bne_iff_ne.mpr h, Bool.true_or, if_true]

/-- A Sync on a port of no plane leaves at once: it takes its egress SOF, and on a ONESTEP port the part below 1 ns. -/
theorem sendPtp_sync (n : Nat) (hplane : portPlane s (ptpPort s) = none) (hudp : ptpFlag s 4 = false) :
    sendPtp s .sync n 0 [] = emit { s with train := { s.train with ptp := { s.train.ptp with sentAt := (ax0 s).toInt } } } (.ptp
      { port := ptpPort s, kind := .sync, proto := 0x88F7, dst := 0x011B19000000, domain := s.bank.ptp.domain, seq := n
        time := (ax0 s).toInt, correction := if ptpMode s (ptpPort s) = 2 then ax0Fraction s else 0, fields := [] }) := by
  rw [sendPtp, hudp]
  simp only [leave, Emission.port, ptpOut, hplane]
  rfl

theorem delayRequestSend_sends (hup : portUp s (ptpPort s) = true) (hon : s.train.ptp.st ≠ .disabled)
    (hasks : ptpFlag s 3 = true ∨ s.train.ptp.st = .slave) :
    delayRequestSend s = sendPtp (modPtp s (fun p => { p with seqDelay := (p.seqDelay + 1) % 65536 }))
      (if ptpFlag s 3 then .pdelayReq else .delayReq) s.train.ptp.seqDelay 0 [] := by
  have hsends : ¬ (!portUp s (ptpPort s) || decide (s.train.ptp.st = .disabled) || (!ptpFlag s 3 && s.train.ptp.st != .slave)) = true := by
    obtain h | h := hasks <;> simp [hup, hon, h]
  exact if_neg hsends

/-- What sending changes is not the configuration. -/
theorem ptpFlag_leave (e : Emission) (i : Nat) : ptpFlag (leave s e) i = ptpFlag s i := by
  obtain ⟨_, _, _, _, _, _, _, h⟩ := sendOnly_leave s e
  rw [h]; rfl

section
variable {port : Nat} {udp : Bool} {domain : Nat} (t : DWord) (hup : portUp s port = true)
include hup

theorem delayRequestReceive_master (hend : ptpFlag s 3 = false) (hmaster : s.train.ptp.st = .master)
    (hmine : ptpMine s { port := port, udp := udp, domain := domain } = true) :
    delayRequestReceive s port { udp := udp, domain := domain, peer := false } t
      = leave s (.ptp (ptpOut port domain 0 udp .delayResp t.toInt [])) := by
  simp only [delayRequestReceive, hup, hend, hmaster, hmine, Bool.not_true, Bool.not_false, Bool.and_self, decide_true, Bool.false_eq_true,
    if_false, if_true]

theorem delayRequestReceive_peer {u : State} (hpeer : ptpFlag s 3 = true)
    (hanswers : ptpMine s { port := port, udp := udp, domain := domain } = true ∨ ptpMode s port ≠ 0)
    (hu : u = leave s (.ptp (ptpOut port domain 0 udp .pdelayResp t.toInt []))) :
    delayRequestReceive s port { udp := udp, domain := domain, peer := true } t
      = if ptpFlag s 5 then leave u (.ptp (ptpOut port domain 0 udp .pdelayFollowUp t.toInt [])) else u := by
  have hgo : (ptpMine s { port := port, udp := udp, domain := domain } || ptpMode s port != 0) = true := by simpa using hanswers
  subst hu
  simp only [delayRequestReceive, hup, hpeer, hgo, ptpFlag_leave, Bool.not_true, Bool.and_self, Bool.false_eq_true, if_false, if_true]
end

theorem delayRequestReceive_down (port : Nat) (r : PtpReq) (t : DWord) (hdown : portUp s port = false) :
    delayRequestReceive s port r t = s := by
  simp only [delayRequestReceive, hdown, Bool.not_false, if_true]
end

/-! ### PTP (O55) -/

/-- Settles O55: the messages; then the times and what is sent. -/
theorem ptpHasItsEffect : Obligations.PtpHasItsEffect := by
  unfold Obligations.PtpHasItsEffect
  simp only [exec_ptpSync, execPtpSync, exec_ptpDelayResp, execPtpDelayResp, exec_announce, execAnnounce, exec_announceReceiptTimeout,
    execAnnounceReceiptTimeout, exec_portAltMove, execPortAltMove, exec_portReturn, execPortReturn, exec_ptpMasterSend, execPtpMasterSend,
    exec_ptpDelayRequestSend, execPtpDelayRequestSend, exec_ptpDelayRequestReceive, execPtpDelayRequestReceive]
  refine ⟨fun s => ⟨?sync, ?delay, fun m hother => by rw [takeDelay_other hother], ?announce,
      fun m b hb hother hworse => by rw [takeAnnounce_worse hb hother hworse], fun m hother => by rw [takeAnnounce_other hother]⟩,
    fun s => ⟨fun u v hwaits hover hu hv => by rw [announceTimeout_over hwaits hover hu hv],
      fun hidle => by rw [announceTimeout_idle hidle],
      fun hon hfirst hdown halt => by rw [portAltMove_moves hon hfirst hdown halt], ?back, ?master,
      fun isAnnounce hother => by rw [masterSend_other isAnnounce hother], fun hplane hudp n => sendPtp_sync n hplane hudp,
      fun hup hon hasks => by rw [delayRequestSend_sends hup hon hasks], ?request,
      fun port r t hdown => by rw [delayRequestReceive_down port r t hdown]⟩⟩
  case sync =>
    intro m s' hslave hmine hs'
    rw [takeSync_slave hslave hmine hs']
    exact ⟨fun hsrc => by rw [if_neg hsrc], fun hsrc => by rw [if_pos hsrc]⟩
  case delay =>
    intro m s' hmine hs'
    exact ⟨fun hend hslave => by rw [takeDelay_joins hmine (.inr hslave) hs', hend]; rfl,
      fun hpeer => by rw [takeDelay_joins hmine (.inl hpeer) hs', hpeer]; rfl⟩
  case announce => exact fun m u hmine hbest hu => by rw [takeAnnounce_followed hmine hbest hu]
  case back =>
    intro halt hup
    rw [portReturn_eq halt hup]
    exact ⟨fun hover => by rw [hover]; rfl, fun hearly => by rw [hearly]; rfl⟩
  case master =>
    intro hmaster hup
    exact ⟨fun u hu => by rw [masterSend_sync hmaster hup hu], by rw [masterSend_announce hmaster hup]⟩
  case request =>
    intro port udp domain t hup
    exact ⟨fun hend hmaster hmine => by rw [delayRequestReceive_master t hup hend hmaster hmine],
      fun u hpeer hanswers hu => by rw [delayRequestReceive_peer t hup hpeer hanswers hu]⟩

end Sys2Proof.Machine
end

section
/-! SUPPORT. A node of the bridge that is listed twice: what a POST to it leaves behind (R328). -/
namespace Sys2Proof.Machine

/-! ### A node listed twice (R328) -/

/-- A module in service with a TRAIN page for node 7, of which it keeps two entries whose next tags differ. -/
def nodeListedTwice : State :=
  { State.reset with
    modu.mode := .voted3, pwr.on := 0xFF, br.pages := [{ en := true, train := true, node := 7 }]
    br.nodes := [{ node := 7 }, { node := 7, next := 5 }] }

/-- The tags of the last POSTs to the nodes, in the state that an outcome gives. -/
def lastTags : Host.Outcome State Fault Refusal → List (Option Nat)
  | .next s => s.br.nodes.map (·.last)
  | _ => []

/-- The model notes in each entry the tag that was its own next one. -/
theorem lastTags_nodeListedTwice : lastTags (exec (.post 0x800000 [0]) nodeListedTwice) = [some 0, some 5] := by decide

/-! ### The remote window (O28) -/

/-- Refutes O28: a POST notes the tag it took in the node's entry. The statement notes the tag of the first entry of the node in every
entry, while windowPost notes each entry's own next tag. No hypothesis says that a node is listed once: in nodeListedTwice the second entry
gets 5 by the model and 0 by the statement. -/
theorem not_remoteWindowCommandsHaveTheirEffect : ¬ Obligations.RemoteWindowCommandsHaveTheirEffect := by
  unfold Obligations.RemoteWindowCommandsHaveTheirEffect
  rintro ⟨-, hwrites⟩
  obtain ⟨-, -, hposts⟩ := hwrites 0x800000 [0] [0] 0 1 nodeListedTwice _ (by decide) (by decide) (by decide) (by decide) (by decide)
    (by decide) (by decide) (by decide) rfl rfl
  obtain ⟨hissued, -, -⟩ := hposts { node := 7 } 1 (by decide) (by decide) (by decide)
  have hstated := hissued (by decide) (by decide) (by decide)
  have htags := lastTags_nodeListedTwice
  rw [hstated] at htags
  exact absurd htags (by decide)

end Sys2Proof.Machine
end

section
/-! SUPPORT. What the requesting side of the bridge does with responses and at its times, and what the answering side does with requests
(R326 to R330, R333, R334). -/
namespace Sys2Proof.Machine

section
variable {s : State} {node : Nat} {body : List Byte}

/-! ### Responses (R326 to R330) -/

/-- READ_DATA of the count asked for completes the delayed entry that it answers. -/
theorem completeDelayed_read {e : DelayedEntry} (he : delayedAt s (getNat body 2 2) = some e) (hnode : e.node = node)
    (hread : e.write = false) (hwaits : e.done = none) (hkind : getByte body 0 = 1) (hgood : getByte body 1 = 0)
    (hcount : getByte body 5 = e.count) :
    completeDelayed s node body = setDelayed s (getNat body 2 2) (some { e with
      done := some (0, bit (getByte body 4) 0, toWords (slice body 8 (4 * e.count)), rawNow s) }) := by
  simp [completeDelayed, he, hnode, hread, hwaits, hkind, hgood, hcount]

theorem completeDelayed_freed (hnone : delayedAt s (getNat body 2 2) = none) :
    completeDelayed s node body = { s with br := { s.br with discard := satInc s.br.discard } } := by
  simp only [completeDelayed, hnone]

/-- A CREDIT of one entry returns one credit. -/
theorem takeCredits_one (hnet : domainOn s 5 = true) (hone : getByte body 5 = 1) :
    takeCredits s node body = returnCredit s node (getNat body 8 2) (getByte body 10) := by
  simp only [takeCredits, hnet, hone, Bool.not_true, Bool.false_eq_true, if_false]
  rfl

theorem returnCredit_of_find {p : PostSt} {tag : Nat} (hp : (nodeSt s node).posts.find? (fun p => p.tag = tag && !p.lost) = some p)
    (code : Nat) : returnCredit s node tag code =
      if code = 0 then modNode s node (fun x => { x with
        posts := x.posts.filter (fun q => q.tag ≠ tag || q.lost), credits := min 32 (x.credits + 1) })
      else postError (modNode s node (fun x => { x with
        posts := x.posts.filter (fun q => q.tag ≠ tag || q.lost), credits := min 32 (x.credits + 1) })) node code p := by
  simp only [returnCredit, hp]

theorem resyncDone_clears {mb : Mb} {tag t : Nat} (hnet : domainOn s 5 = true)
    (hclearing : (nodeSt s node).clearing = some (mb, tag, t)) :
    resyncDone s node tag = resultMb (raiseHub (modNode s node (fun x => { x with
      fenced := false, credits := 32, posts := [], clearing := none, next := (tag + 1) % 65536 })) 0 0x9004 node) mb 0 := by
  simp only [resyncDone, hclearing, hnet, decide_true, Bool.and_self, if_true]

/-! ### Times of the requesting side (R327 to R329) -/

theorem reqTimeout_delayed {i : Fin 16} {e : DelayedEntry} (he : delayedAt s i.val = some e) (hwaits : e.done = none)
    (hover : elapsed s e.at_ (e.reqMs * 1000000) = true) :
    exec (.reqTimeout (.delayed i)) s = .next (delayedTimeout s i.val e) := by
  simp [execReqTimeout, he, hwaits, hover]

theorem reqTimeout_post {p : PostSt} (hp : (nodeSt s node).posts.find? (fun q => q.tag = p.tag && !q.lost) = some p)
    (hover : elapsed s p.at_ (p.reqMs * 1000000) = true) (hleft : s.br.trainQ = []) :
    exec (.reqTimeout (.post node p.tag)) s = .next (postError (modNode s node (fun x => { x with
      posts := x.posts.map (fun q => if q.tag = p.tag then { q with lost := true } else q) })) node 6 p) := by
  simp [execReqTimeout, hp, hover, hleft]

theorem discardEntry_over {i : Nat} {e : DelayedEntry} {r : Nat × Bool × List Word × Nat} (he : delayedAt s i = some e)
    (hdone : e.done = some r) (hover : elapsed s r.2.2.2 (e.discardMs * 1000000) = true) :
    discardEntry s i
      = { setDelayed s i none with br := { (setDelayed s i none).br with discard := satInc s.br.discard } } := by
  obtain ⟨code, off, ws, t⟩ := r
  simp only [discardEntry, he, hdone, hover, if_true]
  rfl

/-! ### Requests (R330, R333, R334) -/

section
variable (hservice : inService s = true) (hnet : domainOn s 5 = true)
include hservice hnet

theorem takeRequest_read (hop : rqOp body = 1) (hroom : inboundUsed s < 1024) (hafter : rqAfter body = none) :
    takeRequest s node body = if inboundCode s body = 0 then
        respond (regReads .bridge (accessAddrs (rqAddr body) (rqCount body)) s).2 node
          (responseBody 1 0 (rqTag body) 0 (regReads .bridge (accessAddrs (rqAddr body) (rqCount body)) s).1.length
            (beWords (regReads .bridge (accessAddrs (rqAddr body) (rqCount body)) s).1))
      else respond s node (responseBody 1 (inboundCode s body) (rqTag body) 0 0 []) := by
  have hmet : afterMet s node body = true := by simp only [afterMet, hafter]
  by_cases hcode : inboundCode s body = 0 <;>
    simp [takeRequest, hservice, hnet, hop, Nat.not_le.mpr hroom, hmet, answerAccess, hcode]

section
variable (hop : rqOp body = 3)
include hop

/-- A POST of the expected tag is performed, and the source's POSTs move on. -/
theorem takeRequest_expected (hturn : tagAhead (rqTag body) (sourceSt s node).expect = 0) (hroom : inboundUsed s < 1024)
    (hfree : (sourceSt s node).fenced = false) :
    takeRequest s node body = settleSource (performPost s node body).2 node [(rqTag body, (performPost s node body).1)] := by
  simp [takeRequest, hservice, hnet, hop, hturn, Nat.not_le.mpr hroom, hfree]

theorem takeRequest_early (hahead : 0 < tagAhead (rqTag body) (sourceSt s node).expect)
    (hnear : tagAhead (rqTag body) (sourceSt s node).expect < 32768) (hroom : inboundUsed s < 1024)
    (hfree : (sourceSt s node).fenced = false) (hnone : (sourceSt s node).held = []) :
    takeRequest s node body = modSource s node (fun x => { x with held := x.held ++ [(rqTag body, body, rawNow s)] }) := by
  have hnotTurn : tagAhead (rqTag body) (sourceSt s node).expect ≠ 0 := by omega
  simp [takeRequest, hservice, hnet, hop, hnotTurn, Nat.not_le.mpr hnear, Nat.not_le.mpr hroom, hfree, hnone]

theorem takeRequest_old (hbehind : 32768 ≤ tagAhead (rqTag body) (sourceSt s node).expect) : takeRequest s node body = s := by
  simp [takeRequest, hservice, hnet, hop, hbehind]
end

/-- A RESYNC clears the fence of a source of which nothing is held, and is answered. -/
theorem takeResync_clears {tag : Nat} {u : State} (hnone : (sourceSt s node).held = [])
    (hu : u = modSource s node (fun x => { x with fenced := false, held := [], expect := (tag + 1) % 65536 })) :
    takeResync s node tag = releaseWaits (respond u node (responseBody 4 0 tag 0 0 [])) node := by
  subst hu
  simp [takeResync, hservice, hnet, hnone, sendCredits]
end

/-- One POST held behind one missing tag: after 10 ms the source is fenced, and the missing tag reported. -/
theorem reportGap_one {tag t : Nat} {b : List Byte} (hservice : inService s = true) (hheld : (sourceSt s node).held = [(tag, b, t)])
    (hwaits : (sourceSt s node).waits = []) (hover : elapsed s t 10000000 = true)
    (hone : tagAhead tag (sourceSt s node).expect = 1) :
    reportGap s node = settleSource (modSource s node (fun x => { x with fenced := true, expect := (x.expect + 2) % 65536 })) node
      (([(sourceSt s node).expect % 65536, ((sourceSt s node).expect + 1) % 65536].filter (fun t => !(tag = t))).map (fun t => (t, 4))) := by
  have hrange : List.range 2 = [0, 1] := rfl
  simp [reportGap, hservice, hheld, hwaits, hover, hone, hrange]

theorem reportGap_none (hheld : (sourceSt s node).held = []) (hwaits : (sourceSt s node).waits = []) : reportGap s node = s := by
  simp [reportGap, hheld, hwaits]
end

/-! ### The bridge (O58) -/

/-- Settles O58: the requesting side, then the answering side. -/
theorem bridgeHasItsEffect : Obligations.BridgeHasItsEffect := by
  unfold Obligations.BridgeHasItsEffect
  simp only [exec_remoteAccessResponse, execRemoteAccessResponse, exec_credit, execCredit, exec_resyncDone, execResyncDone, exec_discardMs,
    execDiscardMs, exec_inboundRequest, execInboundRequest, exec_resync, execResync, exec_seqGap, execSeqGap]
  refine ⟨fun node body s => ⟨?response, ?credit, ?errorCredit,
      fun mb tag t hnet hclearing => by rw [resyncDone_clears hnet hclearing],
      fun i e he hwaits hover => reqTimeout_delayed he hwaits hover, fun p hp hover hleft => reqTimeout_post hp hover hleft,
      fun i e r he hdone hover => by rw [discardEntry_over he hdone hover]⟩,
    fun node body s hservice hnet => ⟨?read, fun hop hturn hroom hfree => by rw [takeRequest_expected hservice hnet hop hturn hroom hfree],
      fun hop hahead hnear hroom hfree hnone => by rw [takeRequest_early hservice hnet hop hahead hnear hroom hfree hnone],
      fun hop hbehind => by rw [takeRequest_old hservice hnet hop hbehind],
      fun tag u hnone hu => by rw [takeResync_clears hservice hnet hnone hu],
      fun tag b t hheld hwaits hover hone => by rw [reportGap_one hservice hheld hwaits hover hone],
      fun hheld hwaits => by rw [reportGap_none hheld hwaits]⟩⟩
  case response =>
    intro hnet
    refine ⟨fun e he hnode hread hwaits hkind hgood hcount => ?_, fun hnone => ?_⟩
    · rw [if_pos hnet, completeDelayed_read he hnode hread hwaits hkind hgood hcount]
    · rw [if_pos hnet, completeDelayed_freed hnone]
  case credit =>
    intro hnet hone hgood p hp
    rw [takeCredits_one hnet hone, returnCredit_of_find hp, if_pos hgood]
  case errorCredit =>
    intro p code hnet hone hcode hbad hp
    rw [takeCredits_one hnet hone, returnCredit_of_find hp, hcode, if_neg hbad]
  case read =>
    intro hop hroom hafter
    rw [takeRequest_read hservice hnet hop hroom hafter]
    exact ⟨fun hgood => by rw [if_pos hgood], fun hbad => by rw [if_neg hbad]⟩

end Sys2Proof.Machine
end

section
/-! SUPPORT. What the tunnels do with the frames of an interface, with containers and at a replay, and what a CAN interface's bus-off does
(R338 to R343). -/
namespace Sys2Proof.Machine

section
variable {s : State}

/-! ### Frames of an interface (R338 to R341) -/

section
variable {i : Fin 4} {f : ForeignFrame} (ago : Nat) (hon : ifOn s i.val = true) (hservice : inService s = true)
  (hacts : effectsHeld s = false) (hkind : frameOfIf s i.val f = true)
include hon hservice hacts hkind

/-- A good frame of an open endpoint is wrapped and queued, or dropped where the queue is full. -/
theorem foreignFrame_wrapped {e : Endpoint} {b : List Byte} (hgood : (foreignBytes s i.val f).2.2 = true)
    (he : endpointFor s i.val f = some e)
    (hb : b = [BitVec.ofNat 8 e.peerEp, BitVec.ofNat 8 e.ep, BitVec.ofNat 8 (foreignBytes s i.val f).1, BitVec.ofNat 8 (b2n e.overrun)]
      ++ be16 e.seq ++ be16 (foreignBytes s i.val f).2.1.length ++ beDWord (BitVec.ofInt 64 ((ax0 s).toInt - (ago : Int)))
      ++ (foreignBytes s i.val f).2.1) :
    exec (.foreignFrameReceive i f ago) s = .next (
      if 6144 < queued e.outQ + b.length then modEp s e.ep (fun e => { e with overrun := true, drops := e.drops + 1 })
      else modEp s e.ep (fun e => { e with overrun := false, seq := (e.seq + 1) % 65536, outQ := e.outQ ++ [b] })) := by
  subst hb
  simp only [exec_foreignFrameReceive, execForeignFrameReceive, hon, hservice, hacts, hkind, hgood, he, Bool.not_true, Bool.or_self,
    Bool.false_eq_true, if_false]

theorem foreignFrame_erroneous (hbad : (foreignBytes s i.val f).2.2 = false) :
    exec (.foreignFrameReceive i f ago) s = .next { s with br := { s.br with lineErrors := s.br.lineErrors + 1 } } := by
  simp only [exec_foreignFrameReceive, execForeignFrameReceive, hon, hservice, hacts, hkind, hbad, Bool.not_true, Bool.not_false,
    Bool.or_self, Bool.false_eq_true, if_false, if_true]
end

/-! ### Containers (R342) -/

section
variable {node : Nat} {body : List Byte} (hservice : inService s = true)
include hservice

theorem takeTunnel_unknown (hnone : endpoint s (getByte body 0) = none) :
    takeTunnel s node body = { s with br := { s.br with contDiscard := s.br.contDiscard + 1 } } := by
  simp only [takeTunnel, hservice, hnone, Bool.not_true, Bool.false_eq_true, if_false]

/-- The first container of the expected peer, without a delay and into an empty queue, waits for its replay. -/
theorem takeTunnel_first {e : Endpoint} (hacts : effectsHeld s = false) (he : endpoint s (getByte body 0) = some e)
    (hpeer : e.peer = node) (hep : e.peerEp = getByte body 1) (hlen : 16 + getNat body 6 2 ≤ body.length) (hfirst : e.lastSeq = none)
    (hdelay : e.delay = 0) (hempty : e.inQ = []) (hfits : getNat body 6 2 ≤ 6144) :
    takeTunnel s node body = modEp s e.ep (fun e => { e with
      lastSeq := some (getNat body 4 2), gaps := e.gaps + 0, late := e.late + 0
      drops := e.drops + b2n (bit (getByte body 3) 0) + 0
      inQ := e.inQ ++ [((getDWord body 8).toInt, slice body 16 (getNat body 6 2))] }) := by
  have hroom : ¬ 6144 < (slice body 16 (getNat body 6 2)).length := by
    have hslice : (slice body 16 (getNat body 6 2)).length ≤ getNat body 6 2 := by simp [slice]
    omega
  simp [takeTunnel, hservice, hacts, he, hpeer, hep, Nat.not_lt.mpr hlen, hfirst, hdelay, hempty, queued, hroom, b2n]
end

/-! ### Replay (R342) -/

section
variable {ep : Fin 32} {ok : Bool} {e : Endpoint} {rx : Int} {frame : List Byte} {rest : List (Int × List Byte)}
  (he : endpoint s ep.val = some e) (hqueue : e.inQ = (rx, frame) :: rest) (hservice : inService s = true) (hacts : effectsHeld s = false)
include he hqueue hservice hacts

/-- The oldest frame waits for its moment; then it starts, or is dropped where the interface does not take it. -/
theorem replay_eq : exec (.replay ep ok) s = .next (
    if e.delay ≠ 0 ∧ (ax0 s).toInt < rx + (e.delay : Int) * 1000 then s
    else if ok = true ∧ ifOn s e.iface = true ∧ ¬ e.iface ∈ s.br.busOff then
      emit (modEp s ep.val (fun e => { e with inQ := rest, replayed := e.replayed + 1 })) (.foreign e.iface frame)
    else modEp s ep.val (fun e => { e with inQ := rest, drops := e.drops + 1 })) := by
  simp [execReplay, he, hqueue, hservice, hacts, and_assoc]
end

end

/-! ### Tunnels (O59) -/

/-- Settles O59: frames, containers, replays and bus-off. -/
theorem tunnelFramesHaveTheirEffect : Obligations.TunnelFramesHaveTheirEffect := by
  unfold Obligations.TunnelFramesHaveTheirEffect
  simp only [exec_tunnelContainerReceive, execTunnelContainerReceive]
  refine fun s => ⟨?frame, fun i f ago hon hservice hacts hkind hbad => foreignFrame_erroneous ago hon hservice hacts hkind hbad,
    fun node body hservice hnone => by rw [takeTunnel_unknown hservice hnone],
    fun node body e hservice hacts he hpeer hep hlen hfirst hdelay hempty hfits => by
      rw [takeTunnel_first hservice hacts he hpeer hep hlen hfirst hdelay hempty hfits],
    ?replay, ?busOff⟩
  case frame =>
    intro i f ago e b hon hservice hacts hkind hgood he hb
    rw [foreignFrame_wrapped ago hon hservice hacts hkind hgood he hb]
    exact ⟨fun hfits => by rw [if_neg (Nat.not_lt.mpr hfits)], fun hfull => by rw [if_pos hfull]⟩
  case replay =>
    intro ep ok e rx frame rest he hqueue hservice hacts
    rw [replay_eq he hqueue hservice hacts]
    refine ⟨fun hok hon hbus hdue => ?_, fun hfails hdelay => ?_, fun hdelay hearly => ?_⟩
    · rw [if_neg (by omega), if_pos ⟨hok, hon, hbus⟩]
    · rw [if_neg (by omega), if_neg (by simp [hfails])]
    · rw [if_pos ⟨hdelay, hearly⟩]
  case busOff =>
    intro i hcan hon
    have hnot : ¬ 2 ≤ i.val := by omega
    exact ⟨fun hout => by simp [execBusOff, tunnelRecord, hnot, hon, hout, b2n],
      fun hin => by simp [execBusOff, tunnelRecord, hnot, hon, hin, b2n]⟩

end Sys2Proof.Machine
end

section
/-! SUPPORT. What the recorder and power commands do with a request, how the recorder moves on, and what the queues and handlers of faults
do (R345, R350, R352, R355, R357, R359, R362 to R366, R371, R401, R416, R453). -/
namespace Sys2Proof.Machine

/-! ### Recorder and power commands (O22) -/

/-- Settles O22: each command by its row and its effect. -/
theorem recorderAndPowerCommandsHaveTheirEffect : Obligations.RecorderAndPowerCommandsHaveTheirEffect := by
  unfold Obligations.RecorderAndPowerCommandsHaveTheirEffect
  simp only [exec_recFlush, execRecFlush, exec_recClear, execRecClear, exec_recInfo, execRecInfo, exec_pwrVote, execPwrVote,
    exec_pwrStatus, execPwrStatus, exec_dutySet, execDutySet]
  refine fun mb s => ⟨?empty, ?flush, ?clear, fun w hw => ⟨_, by rw [runCmd_asked hw (by rfl)]; rfl⟩, ?vote,
    fun hw => ⟨_, by rw [runCmd_asked hw (by rfl)]; rfl⟩, ?duty⟩
  case empty =>
    intro hw hempty
    rw [runCmd_asked hw (by rfl), hempty]; rfl
  case flush =>
    intro r hw hlast
    rw [runCmd_asked hw (by rfl), hlast]
  case clear =>
    intro hw hsession
    rw [runCmd_asked hw (by rfl), if_pos hsession]
  case vote =>
    intro w hw
    rw [runCmd_asked hw (by rfl)]
    cases mb <;> rfl
  case duty =>
    intro w0 w1 w2 w3 w4 hw hfields
    rw [runCmd_asked hw (by rfl)]
    exact congrArg Host.Outcome.next (if_pos hfields)

/-! ### The recorder moves on (R345, R350, R352, R355) -/

section
variable {s : State}

theorem moveStaged_noRoom {r : RecRecord} {rest : List RecRecord} (hstaging : s.recd.staging = r :: rest)
    (hfull : bufferSize < bufferFill s + r.size) : moveStaged s = s := by
  simp only [moveStaged, hstaging, hfull, if_true]

/-- The oldest staged record enters the buffer; where it asks for no flush, and nothing waits behind it, that is all. -/
theorem moveStaged_moves {r : RecRecord} {rest : List RecRecord} {u : State} (hstaging : s.recd.staging = r :: rest)
    (hroom : bufferFill s + r.size ≤ bufferSize) (hflush : r.flush = false) (hpower : s.pwr.failing = false) (hheld : s.recd.held = [])
    (hpf : s.recd.pfCause = none)
    (hu : u = { s with recd := { s.recd with staging := rest, buffer := s.recd.buffer ++ [{ r with bufferedAt := rawNow s }] } })
    (hlow : bufferFill u < 786432) : moveStaged s = u := by
  have hheld' : u.recd.held = [] := by rw [hu]; exact hheld
  have hpf' : u.recd.pfCause = none := by rw [hu]; exact hpf
  simp only [moveStaged, hstaging, Nat.not_lt.mpr hroom, if_false]
  rw [← hu]
  simp only [hflush, hpower, Nat.not_le.mpr hlow, decide_false, Bool.and_false, Bool.or_self, Bool.false_eq_true, if_false, hheld',
    placePowerfail, hpf']

theorem startFlush_starts (hwanted : s.recd.flushPending = true) (hidle : s.recd.flushing = none) (hsome : s.recd.buffer ≠ []) :
    startFlush s = { s with recd := { s.recd with flushPending := false, flushing := some s.recd.buffer.length } } := by
  simp [startFlush, hwanted, hidle, hsome]

theorem startFlush_busy {n : Nat} (hbusy : s.recd.flushing = some n) : startFlush s = s := by
  simp [startFlush, hbusy]

/-- Ending waits in the mailboxes leaves the power unit alone. -/
theorem foldl_resultMb_pwr (l : List (Mb × DWord)) (result : Nat) (s : State) :
    (l.foldl (fun v w => resultMb v w.1 result) s).pwr = s.pwr := by
  induction l generalizing s with
  | nil => rfl
  | cons w l ih => rw [List.foldl_cons, ih, (answerOnly_resultMb s w.1 result).rest]

/-- While power is good a written record ends with the write. -/
theorem flushRecordWritten_powered (h : (writeRecord s).pwr.failing = false) :
    exec .flushRecordWritten s = .next (writeRecord s) := by
  simp only [exec_flushRecordWritten, execFlushRecordWritten, h, Bool.not_false, if_true]

theorem writeRecord_idle (h : s.recd.flushing = none) : writeRecord s = s := by
  simp only [writeRecord, h]

section
variable {n : Nat} {r : RecRecord} {rest : List RecRecord} {u : State} (hflushing : s.recd.flushing = some n)
  (hbuffer : s.recd.buffer = r :: rest)
include hflushing hbuffer

/-- The oldest record of the buffer is written behind the newest of the store, over the oldest of it where the store does not keep. -/
theorem writeRecord_writes {idx : List (DWord × Nat × Nat)}
    (hidx : idx = if s.recd.keep then s.recd.index else dropOldest r.size s.recd.head s.recd.index)
    (hroom : r.size ≤ ringFree s.recd.head idx)
    (hu : u = { s with recd := { s.recd with
      buffer := rest, flushing := if n ≤ 1 then none else some (n - 1)
      index := idx ++ [(r.seq, s.recd.head, r.size)], tail := (idx.headD (0, s.recd.head, 0)).2.1
      head := storeBase + (s.recd.head - storeBase + r.size) % storeSize, newest := r.seq + 1
      overwritten := s.recd.overwritten + BitVec.ofNat 64 (s.recd.index.length - idx.length) } }) :
    writeRecord s = endFlushWaits (writeRecControl
      (modMram u (fun m => ringWrite m storeBase storeSize (s.recd.head - storeBase) r.bytes))) := by
  subst hu
  simp only [writeRecord, hflushing, hbuffer, ← hidx, Nat.not_lt.mpr hroom, if_false]
  cases idx <;> rfl

/-- A store that keeps, and has no room, ends the flush and the commands that wait for it. -/
theorem writeRecord_full (hkeep : s.recd.keep = true) (hfull : ringFree s.recd.head s.recd.index < r.size)
    (hu : u = s.recd.flushWait.foldl (fun v w => resultMb v w.1 0x0A)
      { s with recd := { s.recd with flushing := none, storeFull := true, flushWait := [] } }) :
    writeRecord s = if s.recd.storeFull then u else raiseHub (setIrq u irqRec) 2 0xA002 := by
  subst hu
  simp only [writeRecord, hflushing, hbuffer, hkeep, hfull, if_true]
  cases s.recd.storeFull <;> rfl
end

theorem endFlushWaits_pwr (s : State) : (endFlushWaits s).pwr = s.pwr := foldl_resultMb_pwr _ 0 _

/-! ### Faults (R362 to R366, R371) -/

theorem raise_in_service (f : FaultIn) (h : s.modu.mode ≠ .bringup) :
    raise s f = enqueueFault s f.region { fin := f, harvest := s.vote.harvest, ax0 := ax0 s } := by
  simp only [raise, h, if_false]

/-- The free handler of the hub takes the record next in order. -/
theorem handleHub_free {hold w1 w2 : Bool} {x : FaultRec} {q : FaultQueue} (hruns : s.modu.wdExpired = false)
    (hfree : (faultQueue s .hub).hand = []) (htake : takeFault (faultQueue s .hub) .hub = (some x, q)) :
    handleHub s hold w1 w2 = if hold then reportFault (setFaultQueue s .hub { q with hand := [x] }) x.fin.sev
      else finishFault (reportFault (setFaultQueue s .hub { q with hand := [x] }) x.fin.sev) w1 w2 := by
  simp [handleHub, hruns, hfree, htake]

theorem handleHub_busy {hold w1 w2 : Bool} (hruns : s.modu.wdExpired = false) (hbusy : (faultQueue s .hub).hand ≠ []) :
    handleHub s hold w1 w2 = finishFault s w1 w2 := by
  simp [handleHub, hruns, hbusy]

theorem handleHub_stopped {hold w1 w2 : Bool} (hstops : s.modu.wdExpired = true) : handleHub s hold w1 w2 = s := by
  simp [handleHub, hstops]
end

/-! ### Recorder and faults (O60) -/

/-- Settles O60: the recorder's engines; then the queues and handlers of faults. -/
theorem recorderAndFaultsHaveTheirEffect : Obligations.RecorderAndFaultsHaveTheirEffect := by
  unfold Obligations.RecorderAndFaultsHaveTheirEffect
  simp only [exec_recorderFiring, execRecorderFiring, exec_stagedMove, execStagedMove, exec_flushStart, execFlushStart, exec_recordAge,
    execRecordAge, exec_faultRecord, execFaultRecord, exec_faultHandle, execFaultHandle, exec_ledgerImbalance, execLedgerImbalance]
  refine ⟨fun s => ⟨fun h t reqs rest hstep => by rw [hstep], ?move,
      fun hwanted hidle hsome => by rw [startFlush_starts hwanted hidle hsome], fun n hbusy => by rw [startFlush_busy hbusy], ?age, ?idle,
      ?write, ?full⟩,
    fun s => ⟨fun f hmode => by rw [raise_in_service f hmode], fun l hold w1 w2 x q htake => by simp only [handleLane, htake],
      fun l hold w1 w2 q htake => by simp only [handleLane, htake],
      fun w1 w2 x q hruns hfree htake => ⟨by rw [handleHub_free hruns hfree htake, if_pos rfl],
        by rw [handleHub_free hruns hfree htake]; rfl⟩,
      fun hold w1 w2 hruns hbusy => by rw [handleHub_busy hruns hbusy], fun hold w1 w2 hstops => by rw [handleHub_stopped hstops],
      fun row hmode => congrArg Host.Outcome.next (raise_in_service _ hmode)⟩⟩
  case move =>
    intro r rest hstaging
    exact ⟨fun hfull => by rw [moveStaged_noRoom hstaging hfull], fun u hroom hflush hpower hheld hpf hu hlow => by
      rw [moveStaged_moves hstaging hroom hflush hpower hheld hpf hu hlow]⟩
  case age =>
    intro r hr hold
    rw [if_pos (List.any_eq_true.mpr ⟨r, hr, hold⟩), wantFlush]
  case idle =>
    intro hidle hpower
    have hsame := writeRecord_idle hidle
    rw [flushRecordWritten_powered (by rw [hsame, hpower]), hsame]
  case write =>
    intro n r rest idx u hflushing hbuffer hpower hidx hroom hu
    have hwrites := writeRecord_writes hflushing hbuffer hidx hroom hu
    rw [flushRecordWritten_powered, hwrites]
    rw [hwrites, endFlushWaits_pwr, hu]
    exact hpower
  case full =>
    intro n r rest u hflushing hbuffer hpower hkeep hfull hu
    have hwrites := writeRecord_full hflushing hbuffer hkeep hfull hu
    have hpwr : u.pwr.failing = false := by rw [hu, foldl_resultMb_pwr]; exact hpower
    rw [flushRecordWritten_powered, hwrites]
    rw [hwrites]
    cases s.recd.storeFull
    · simpa [setIrq] using hpwr
    · exact hpwr

end Sys2Proof.Machine
end

section
/-! SUPPORT. Temperature, the supervisor, and the pair's link, frames and times (R361, R368, R374, R380 to R392, R484). -/
namespace Sys2Proof.Machine

/-! ### Temperature and the supervisor (O44) -/

/-- An ACTIVE lane too hot stops and holds. -/
theorem laneThermalTrip_active {s : State} {l : Lane} (h : (lane s l).st = .active) :
    exec (.laneThermalTrip l) s = .next (modLane (stopLane (modLane s l (fun x => { x with hot := true, held := true })) l) l
      (fun x => { x.reset with stopped := true })) := by
  rw [exec_laneThermalTrip, execLaneThermalTrip]
  simp only [h]

/-- Settles O44: each command by its own branch. -/
theorem thermalAndSupervisorCommandsHaveTheirEffect : Obligations.ThermalAndSupervisorCommandsHaveTheirEffect := by
  unfold Obligations.ThermalAndSupervisorCommandsHaveTheirEffect
  refine fun s => ⟨fun l => laneThermalTrip_active, fun l => rfl, fun h => ?hub, fun h => ?watchdog, rfl, fun h => rfl⟩
  case hub => rw [exec_hubThermalTrip, execHubThermalTrip, if_neg h]
  case watchdog =>
    rw [exec_supervisorWatchdog, execSupervisorWatchdog]
    exact congrArg (fun u => Host.Outcome.next (failInFlight (raiseHub u 4 0xD004 0 0 0 3 true))) (if_neg h)

/-! ### The link of the pair (O47) -/

section
variable {s : State}

theorem linkUp_next (h : s.pair.up = false) :
    exec .linkUp s = .next { s with pair := { s.pair with
      up := true, seqOut := 0, seqIn := none, paired := false, st := if s.pair.st = .failed then .failed else .syncing
      syncedAtLoss := false } } := by
  rw [exec_linkUp, execLinkUp, if_neg (by simp [h])]
  by_cases hst : s.pair.st = .failed <;> simp only [hst, if_true, if_false]

/-- The modules were not paired: the link's loss leaves no record (R384). -/
theorem linkLost_unpaired (hup : s.pair.up = true) (h : s.pair.paired = false ∨ pairEnabled s = false) :
    linkLost s = { s with pair := { s.pair with up := false, seqIn := none, downAt := rawNow s } } := by
  have hwas : (s.pair.paired && pairEnabled s) = false := by
    cases h with
    | inl h => rw [h, Bool.false_and]
    | inr h => rw [h, Bool.and_false]
  simp [linkLost, hup, hwas]

theorem linkLost_paired (hup : s.pair.up = true) (hpaired : s.pair.paired = true) (henabled : pairEnabled s = true) :
    linkLost s = setIrq (raiseHub (abandonSwitch { s with pair := { s.pair with
      up := false, seqIn := none, downAt := rawNow s, syncedAtLoss := s.pair.st = .synced
      st := if s.pair.st = .failed then .failed else .linkLost } }) 2 0xC007) irqPair := by
  by_cases hst : s.pair.st = .failed <;> simp [linkLost, hup, hpaired, henabled, hst]

theorem acceptJaran_next {n : Word} (hin : s.pair.seqIn = some n) {h : JaranHead} (hseq : h.seq = n + 1) :
    acceptJaran s h = { s with pair := { s.pair with seqIn := some h.seq } } := by
  simp only [acceptJaran, hin, if_pos hseq]

/-- A gap is counted, and a standby on its link asks for a full copy (R380, R387). -/
theorem acceptJaran_gap {n : Word} (hin : s.pair.seqIn = some n) {h : JaranHead} (hseq : h.seq ≠ n + 1) {u : State}
    (hu : u = { s with pair := { s.pair with seqIn := some h.seq, gaps := s.pair.gaps + 1 } }) :
    acceptJaran s h = if standby s && linked s then requestCopy u (progTasks u) else u := by
  rw [hu]
  simp only [acceptJaran, hin, if_neg hseq]
  rfl
end

/-- Settles O47: the link's ends, and a frame in sequence and out of it. -/
theorem jaranLinkChangesHaveTheirEffect : Obligations.JaranLinkChangesHaveTheirEffect := by
  unfold Obligations.JaranLinkChangesHaveTheirEffect
  refine ⟨fun s => ⟨linkUp_next, fun hup h => congrArg _ (linkLost_unpaired hup h),
    fun hup hp he => congrArg _ (linkLost_paired hup hp he), ?badCrc, ?hello⟩,
    fun h s n hin => ⟨acceptJaran_next hin, ?gap, ?copy⟩⟩
  case badCrc =>
    intro u hu
    rw [hu, exec_jaranBadCrc, execJaranBadCrc]
    simp only [Bool.and_eq_true]
    rfl
  case hello =>
    intro h
    rw [exec_helloSend, execHelloSend, if_neg h]
  case gap =>
    intro hseq hstandby
    rw [acceptJaran_gap hin hseq rfl, hstandby, Bool.false_and, if_neg (by simp)]
  case copy =>
    intro u hseq hstandby hlinked hu
    rw [acceptJaran_gap hin hseq hu, hstandby, hlinked, Bool.true_and, if_pos rfl]

/-! ### The frames of the pair (O48) -/

section
variable {s : State} {h : JaranHead}

theorem asStandby_heard (hhears : hearsPartner s = true) (hstandby : standby (acceptJaran s h) = true)
    (hlinked : linked (acceptJaran s h) = true) (f : State → State) : asStandby s h f = f (acceptJaran s h) := by
  simp [asStandby, hhears, hstandby, hlinked]

theorem jaranResync_heard (hhears : hearsPartner s = true) (hstandby : standby (acceptJaran s h) = false)
    (hlinked : linked (acceptJaran s h) = true) (mask : BitVec 16) :
    exec (.jaranResync h mask) s = .next (sendCopy (acceptJaran s h)
      ((List.range 16).filter (fun t => mask.getLsbD t && (allTasks (acceptJaran s h)).contains t))) := by
  simp [execJaranResync, hhears, hstandby, hlinked]

theorem switchAck_heard (hhears : hearsPartner s = true) {rel : Nat} {w : PairSwitch} (hswitch : (acceptJaran s h).pair.switch = some w)
    (hrel : w.rel = BitVec.ofNat 32 rel) :
    exec (.switchAck h rel) s = .next { acceptJaran s h with pair := { (acceptJaran s h).pair with
      switch := some { w with acked := true } } } := by
  simp [execSwitchAck, hhears, hswitch, hrel]
end

/-- Settles O48: a frame that is heard does what its type does. -/
theorem jaranFramesHaveTheirEffect : Obligations.JaranFramesHaveTheirEffect := by
  unfold Obligations.JaranFramesHaveTheirEffect
  refine fun h s hhears => ⟨fun b => congrArg _ (if_pos hhears), fun b => congrArg _ (if_pos hhears),
    fun hstandby hlinked => ⟨fun m => ?_, fun m => ?_, fun b => ?_⟩,
    fun mask hstandby hlinked => jaranResync_heard hhears hstandby hlinked mask,
    fun rel reason => congrArg _ (if_pos hhears), fun rel w hswitch hrel => switchAck_heard hhears hswitch hrel⟩
  all_goals exact congrArg _ (asStandby_heard hhears hstandby hlinked _)

/-! ### The times of the pair (O49) -/

section
variable {s : State}

theorem copyPages_none {h : DWord} {t : Nat} {rest : List (DWord × Nat)} (hdue : s.modu.step6 = (h, t) :: rest)
    (hidle : standby s = true ∨ linked s = false) : copyPages s = { s with modu := { s.modu with step6 := rest } } := by
  have hcond : (standby s || !linked s) = true := by
    cases hidle with
    | inl h => rw [h, Bool.true_or]
    | inr h => rw [h, Bool.not_false, Bool.or_true]
  simp only [copyPages, hdue]
  exact if_pos hcond

theorem copyPages_some {h : DWord} {t : Nat} {rest : List (DWord × Nat)} (hdue : s.modu.step6 = (h, t) :: rest)
    (hstandby : standby s = false) (hlinked : linked s = true) {n : Nat}
    (hn : n = match taskDef s t with
      | some d => pairBudget d
      | none => 0) :
    copyPages s = carryState ((s.pair.queue.take n).foldl (fun s q => jaranSend s 5 0 (pageBytes q.task q.space q.page
      (((hubTask s q.task).generation).getD 0) (newestPage s q)))
      { s with modu := { s.modu with step6 := rest }, pair := { s.pair with queue := s.pair.queue.drop n } }) := by
  have hcond : ¬ (standby s || !linked s) = true := by simp [hstandby, hlinked]
  simp only [copyPages, hdue, hn]
  exact if_neg hcond

theorem outputBudgetExpiry_over {t : Fin 16} (hstandby : standby s = true) (hlinked : linked s = true)
    (hours : s.pair.ours.any (fun x => x.1 = t.val) = true) (hover : budgetOver s t.val = true) :
    exec (.outputBudgetExpiry t) s
      = .next (seeMismatch { s with pair := { s.pair with ours := s.pair.ours.filter (fun z => z.1 ≠ t.val) } }) := by
  rw [exec_outputBudgetExpiry, execOutputBudgetExpiry, if_pos (by rw [hstandby, hlinked, hours, hover]; rfl)]

/-- A module alone takes the controlling role, after the longer time where the FLOVIS check asks for silence (R383). -/
theorem roleTimeout_takes (henabled : pairEnabled s = true) (htaken : s.pair.roleTaken = false)
    (hconflict : s.pair.strapConflict = false) (hmode : s.modu.mode ≠ .bringup)
    (hwaited : elapsed s s.pair.limitedAt 50000000 = true)
    (hquiet : s.bank.pair.flovisCheck = true → elapsed s s.pair.limitedAt (listenTime s) = true ∧
      ∀ t, s.net.pairData = some t → elapsed s t (listenTime s) = true) :
    roleTimeout s
      = pump (voteAll (setIrq { s with pair := { s.pair with roleTaken := true, controlling := true } } irqPair)) := by
  cases hcheck : s.bank.pair.flovisCheck with
  | false => simp [roleTimeout, henabled, htaken, hconflict, hmode, hwaited, hcheck]
  | true =>
    obtain ⟨hlistened, hdata⟩ := hquiet hcheck
    cases hpair : s.net.pairData with
    | none => simp [roleTimeout, henabled, htaken, hconflict, hmode, hwaited, hlistened, hpair]
    | some t => simp [roleTimeout, henabled, htaken, hconflict, hmode, hwaited, hlistened, hpair, hdata t hpair]

theorem tryTakeover_eligible (heligible : eligible s = true) (hmissed : 3 ≤ s.pair.missed) :
    tryTakeover s = if s.bank.pair.flovisCheck && pairDataSince s s.pair.missedFrom
      then (if s.pair.up then s else raiseHub { s with pair := { s.pair with missed := 0 } } 2 0xC007) else takeControl s := by
  rw [tryTakeover, if_neg (by simp [heligible, hmissed])]

theorem switchAckTimeout_late {w : PairSwitch} (hswitch : s.pair.switch = some w) (hacked : w.acked = false)
    (hlate : elapsed s w.at_ (((taskDef s 0).map (fun d => d.period.toNat)).getD 0) = true) :
    exec .switchAckTimeout s = .next (abandonSwitch s) := by
  simp [execSwitchAckTimeout, hswitch, hacked, hlate]

theorem resultMb_pair (s : State) (mb : Mb) (result : Nat) : (resultMb s mb result).pair = s.pair := by
  rw [(answerOnly_resultMb s mb result).rest]

/-- An abandoned SWITCH that had not changed the role is forgotten. -/
theorem abandonSwitch_switch {w : PairSwitch} (hswitch : s.pair.switch = some w) (hrole : s.pair.controlling ≠ w.incoming) :
    (abandonSwitch s).pair.switch = none := by
  simp only [abandonSwitch, hswitch, if_neg hrole]
  cases w.mb with
  | some mb => exact congrArg Pair.switch (resultMb_pair _ mb 8)
  | none => rfl
end

/-- Settles O49: each time by its own lemma. -/
theorem pairTimesHaveTheirEffect : Obligations.PairTimesHaveTheirEffect := by
  unfold Obligations.PairTimesHaveTheirEffect
  refine fun s => ⟨fun h t rest u hdue hu => ⟨fun hidle => ?idle, fun n hstandby hlinked hn => ?copies⟩,
    fun t hstandby hlinked hours hover => outputBudgetExpiry_over hstandby hlinked hours hover,
    fun he ht hc hm hw hq => congrArg _ (roleTimeout_takes he ht hc hm hw hq),
    fun heligible hmissed => ⟨?takes, ?data⟩,
    fun w hswitch hacked hlate => ⟨switchAckTimeout_late hswitch hacked hlate, abandonSwitch_switch hswitch⟩⟩
  case idle => rw [hu, exec_jaranCopy, execJaranCopy, copyPages_none hdue hidle]
  case copies =>
    rw [exec_jaranCopy, execJaranCopy, copyPages_some hdue hstandby hlinked hn, hu]
  case takes =>
    intro hfree
    rw [exec_takeover, execTakeover, tryTakeover_eligible heligible hmissed]
    refine congrArg _ (if_neg ?_)
    cases hfree with
    | inl h => rw [h, Bool.false_and]; exact Bool.false_ne_true
    | inr h => rw [h, Bool.and_false]; exact Bool.false_ne_true
  case data =>
    intro hcheck hdata
    rw [exec_takeover, execTakeover, tryTakeover_eligible heligible hmissed, hcheck, hdata]; rfl

end Sys2Proof.Machine
end

section
/-! SUPPORT. The stages of bring-up, and power: the sequencer, the wake sources, power fail and return (R402 to R416, R418, R423 to R431,
R466). -/
namespace Sys2Proof.Machine

/-! ### Bring-up (O45) -/

section
variable {s : State}

theorem firmwareVerified_first {k : Nat} (hretired : s.xch.fwRetired = some k) :
    firmwareVerified s true true = atStage { s with xch := { s.xch with fwSlot := 1 - k } } .b2 := by
  simp [firmwareVerified, hretired]

/-- With one slot retired and the other spoilt the boot ROM has nothing left to start. -/
theorem firmwareVerified_none {k : Nat} (hretired : s.xch.fwRetired = some k) :
    firmwareVerified s false false = { s with bring := { s.bring with bootFail := true, cause := 1 } } := by
  simp [firmwareVerified, hretired]

theorem firmwareVerified_due {ok0 ok1 : Bool} (hmode : s.modu.mode = .bringup) (hstage : s.bring.stage = .b1)
    (hhub : domainOn s 1 = true) (hboots : s.bring.bootFail = false) :
    exec (.firmwareVerified ok0 ok1) s = .next (firmwareVerified s ok0 ok1) := by
  rw [exec_firmwareVerified, execFirmwareVerified, if_pos (by simp [hmode, hstage, hhub, hboots])]

theorem stageTimeLimit_over {n : Nat} (hmode : s.modu.mode = .limited) (hwaiting : s.bring.waiting = false)
    (hlimit : stageLimit s.bring.stage = some n) (hover : elapsed s s.bring.stageAt n = true) :
    exec .stageTimeLimit s = .next (enterHalted (raiseHub { s with bring := { s.bring with cause := 8 } } 4 0xE006
      (stageCode s.bring.stage) 0 0 3)) := by
  rw [exec_stageTimeLimit, execStageTimeLimit]
  exact if_pos (by simp [hmode, hwaiting, hlimit, hover])

/-- The lanes are released on the restart path, each with its latch set (R427). -/
theorem lane_releaseLanes (s : State) (l : Lane) : lane (releaseLanes s) l = { lane s l with
    st := .rejoining, restartPath := true, stage := .load, held := false, holdRunning := false, stopped := false, latch := true } := by
  cases l <;> rfl
end

/-- Settles O45: each stage from the stage before it, and what the release and the admission leave. -/
theorem bringUpHasItsEffect : Obligations.BringUpHasItsEffect := by
  unfold Obligations.BringUpHasItsEffect
  refine ⟨fun s => ⟨fun ok0 ok1 => firmwareVerified_due, fun k hm hs hh hb hretired => ⟨?first, ?spoilt⟩,
      fun strap hm hs hh => ?start, fun hm hv => ?objects, fun hawaits hready hstart => ?release,
      fun p fails hp hs => ?load, fun p hp hs => ?restore, fun p hp hs => ?admission, fun n => stageTimeLimit_over⟩,
    fun l s => ?released, fun p s hfew => if_pos hfew⟩
  case first => rw [firmwareVerified_due hm hs hh hb, firmwareVerified_first hretired]
  case spoilt => rw [firmwareVerified_due hm hs hh hb, firmwareVerified_none hretired]
  case start => rw [exec_supervisorStart, execSupervisorStart, if_pos (by simp [hm, hs, hh])]
  case objects => rw [exec_objectVerification, execObjectVerification, if_pos (by simp [hm, hv])]
  case release => rw [exec_laneRelease, execLaneRelease, if_pos (by simpa [hawaits, hready] using hstart)]
  case load => simp only [exec_programLoadDone, execProgramLoadDone, hp, if_pos hs]
  case restore => simp only [exec_retainedRestore, execRetainedRestore, hp, if_pos hs]; rfl
  case admission => simp only [exec_admission, execAdmission, hp, if_pos hs]
  case released =>
    rw [lane_releaseLanes]
    exact ⟨rfl, rfl, rfl, rfl, rfl⟩

/-! ### The power sequencer (O38) -/

/-- Settles O38: each step by its own branch. -/
theorem powerSequencerHasItsEffect : Obligations.PowerSequencerHasItsEffect := by
  unfold Obligations.PowerSequencerHasItsEffect
  refine fun s => ⟨fun k hk => ?shed, fun res hres haon => ?restore, fun d hd helapsed => ?ripe, rfl, fun hlink helapsed => ?partner⟩
  case shed => simp only [exec_domainShedStep, execDomainShedStep, hk]; rfl
  case restore => rw [exec_domainRestore, execDomainRestore, if_pos (by rw [hres, haon]; rfl)]
  case ripe =>
    rw [exec_minOnExpiry, execMinOnExpiry]
    exact if_pos (by rw [helapsed, Bool.and_true]; exact decide_eq_true hd)
  case partner =>
    have hlost : (s.pair.up && s.pair.paired) = false := by
      cases hlink with
      | inl h => rw [h, Bool.false_and]
      | inr h => rw [h, Bool.and_false]
    rw [exec_partnerVoteLoss, execPartnerVoteLoss, if_pos (by rw [hlost, helapsed]; rfl)]

/-! ### The wake sources (O39) -/

section
variable {s : State}

/-- The own address of the wake port is `0x58` and the strap (R413). -/
theorem wakePort_written {b : Byte} {bs : List Byte} (haon : s.pwr.aon = true) (hsrc : wakeSrc s 0 = true) :
    exec (.wakePortStop (.writeBytes (0x58 + Config.wka.setWidth 7) (b :: bs))) s
      = .next (wake (setVote (emit s (.wake true 1 [])) 1 b) 1 0) := by
  simp [execWakePortStop, haon, hsrc]

theorem wakePort_touched (haon : s.pwr.aon = true) (hsrc : wakeSrc s 0 = true) :
    exec (.wakePortStop (.writeBytes (0x58 + Config.wka.setWidth 7) [])) s = .next (wake (emit s (.wake true 0 [])) 1 0) := by
  simp [execWakePortStop, haon, hsrc]

theorem wakePort_read {n : Nat} (haon : s.pwr.aon = true) (hsrc : wakeSrc s 0 = true) :
    exec (.wakePortStop (.readBytes (0x58 + Config.wka.setWidth 7) n)) s = .next (emit s (.wake true 0
      (([BitVec.ofNat 8 (powerState s * 32 + b2n (powerBusy s) * 16 + s.pwr.cause), s.pwr.on] ++ List.replicate (n - 2) 0xFF).take n))) := by
  simp [execWakePortStop, haon, hsrc]

/-- Another address, or a port that WAKE_SRC does not enable, is not acknowledged. -/
theorem wakePort_foreign {a : BitVec 7} (h : a ≠ 0x58 + Config.wka.setWidth 7 ∨ wakeSrc s 0 = false) (bs : List Byte) (n : Nat) :
    exec (.wakePortStop (.writeBytes a bs)) s = .next (emit s (.wake false 0 [])) ∧
    exec (.wakePortStop (.readBytes a n)) s = .next (emit s (.wake false 0 [])) := by
  have hcond : (a != 0x58 + Config.wka.setWidth 7 || !(s.pwr.aon && wakeSrc s 0)) = true := by
    cases h with
    | inl h => rw [bne_iff_ne.mpr h, Bool.true_or]
    | inr h => rw [h, Bool.and_false, Bool.not_false, Bool.or_true]
  exact ⟨if_pos hcond, if_pos hcond⟩

theorem wakeInput_enabled {ch : Fin 8} (haon : s.pwr.aon = true) (hsrc : wakeSrc s 1 = true) (hch : s.pwr.wakeCh.getLsbD ch.val = true)
    (hfree : s.pwr.stuck.getLsbD ch.val = false) (hstate : powerState s ≠ 0) :
    exec (.wakeInput ch) s
      = .next (wake { s with pwr := { s.pwr with active := s.pwr.active ||| (1#8 <<< ch.val) } } 2 (1#8 <<< ch.val)) := by
  have hcond : (s.pwr.aon && wakeSrc s 1 && s.pwr.wakeCh.getLsbD ch.val && !s.pwr.stuck.getLsbD ch.val && (powerState s != 0)) = true := by
    rw [haon, hsrc, hch, hfree, bne_iff_ne.mpr hstate]; rfl
  rw [exec_wakeInput, execWakeInput]
  exact if_pos hcond

/-- A wake frame names itself and the module. -/
def IsWakeFrame (s : State) (p : List Byte) : Prop :=
  p.length = 8 ∧ getWord p 0 = 0x57414B45 ∧ getNat p 4 2 = s.bank.net.deviceId

theorem wakeFrame_own {p : List Byte} (hnet : domainOn s 5 = true) (hsrc : wakeSrc s 3 = true) (hown : IsWakeFrame s p) :
    exec (.wakeFrame p) s = .next (wake (setVote s 2 (BitVec.ofNat 8 (getByte p 6))) 4 0) := by
  obtain ⟨hlen, hmark, hid⟩ := hown
  simp [execWakeFrame, hnet, hsrc, hlen, hmark, hid]

theorem wakeFrame_other {p : List Byte} (hnet : domainOn s 5 = true) (hsrc : wakeSrc s 3 = true) (hother : ¬ IsWakeFrame s p) :
    exec (.wakeFrame p) s = .next { s with pwr := { s.pwr with frameDiscards := s.pwr.frameDiscards + 1 } } := by
  have hcond : ¬ (decide (p.length = 8) && decide (getWord p 0 = 0x57414B45) && decide (getNat p 4 2 = s.bank.net.deviceId)) = true := by
    simpa [IsWakeFrame, and_assoc] using hother
  rw [exec_wakeFrame, execWakeFrame, if_neg (by simp [hnet, hsrc]), if_neg hcond]

/-- The watched inputs, or the watched sound, differ from the pattern. -/
def watchHit (s : State) (mv : List (List Nat)) (bs : List Bool) : Bool :=
  (watchValues s mv &&& s.pwr.cfg.mask) != ((if bit s.pwr.cfg.flags 0 then s.pwr.learned else s.pwr.cfg.pattern) &&& s.pwr.cfg.mask)
    || (bit s.pwr.cfg.flags 1 && watchLoud s bs)

theorem dutyWatchCycle_watching {mv : List (List Nat)} {bs : List Bool} (haon : s.pwr.aon = true) (hhub : s.pwr.on.getLsbD 1 = false)
    (hrestoring : s.pwr.restoring.getLsbD 1 = false) (hperiod : s.pwr.cfg.period ≠ 0) :
    exec (.dutyWatchCycle mv bs) s = if watchHit s mv bs && wakeSrc s 4 then .next (wake s 5 0) else .next s := by
  rw [exec_dutyWatchCycle, execDutyWatchCycle, if_neg (by rw [haon, hhub, hrestoring, decide_eq_false hperiod]; exact Bool.false_ne_true)]
  rfl

/-- A wake keeps and counts its cause, records it and sets the supervisor's vote (R412, R418). -/
theorem wake_powered (haon : s.pwr.aon = true) (cause : Nat) (inputs : Byte) :
    wake s cause inputs = setVote (powerRecord { s with pwr := { s.pwr with
      cause := cause, input := inputs, count := satInc s.pwr.count, wakes := upd s.pwr.wakes cause (· + 1) } } 0 0xB002 0 cause)
      0 (s.pwr.cfg.base ||| s.pwr.cfg.wake) := by
  rw [wake, if_neg (by rw [haon]; exact Bool.false_ne_true)]
end

/-- Settles O39: each source by its own lemma. -/
theorem wakeSourcesHaveTheirEffect : Obligations.WakeSourcesHaveTheirEffect := by
  unfold Obligations.WakeSourcesHaveTheirEffect
  refine ⟨fun s haon => ⟨fun hsrc => ⟨fun b bs => wakePort_written haon hsrc, wakePort_touched haon hsrc, fun n => wakePort_read haon hsrc⟩,
      fun a bs n h => wakePort_foreign h bs n,
      fun ch hsrc hch hfree hstate => wakeInput_enabled haon hsrc hch hfree hstate, fun ch => rfl, fun hsrc hperiod hstate => ?tick,
      fun p hnet hsrc hlen hmark hid => wakeFrame_own hnet hsrc ⟨hlen, hmark, hid⟩, fun p hnet hsrc hother => ?other,
      fun mv bs pattern hhub hrestoring hperiod hpattern => ?watch⟩,
    fun s cause inputs haon => wake_powered haon cause inputs⟩
  case tick => rw [exec_aonTick, execAonTick, if_pos (by simp [hsrc, hperiod, hstate])]
  case other => exact wakeFrame_other hnet hsrc (fun ⟨hlen, hmark, hid⟩ => by simp [hlen, hmark, hid] at hother)
  case watch =>
    rw [dutyWatchCycle_watching haon hhub hrestoring hperiod, watchHit, ← hpattern]
    refine ⟨fun hsrc hhit => if_pos ?_, fun hsame hquiet => if_neg ?_⟩
    · simpa [hsrc] using hhit
    · rw [hsame]
      cases hquiet with
      | inl h => simp [h]
      | inr h => simp [h]

/-! ### Power fail and return (O40) -/

section
variable {s : State}

/-- OFF has no field supply, so no safety output gives energy (R411). -/
theorem safetyOff_of_fieldOff (h : fieldOn s = false) : safetyOff s = true := by
  simp [safetyOff, energised, switchClosed, h]

theorem powerFail_first {v : Bool} (haon : s.pwr.aon = true) (hfirst : s.pwr.failing = false) {u : State}
    (hu : u = { s with pwr := { s.pwr with pfNow := true, pfCount := satInc s.pwr.pfCount } }) :
    exec (.powerFail v) s = .next (if s.pwr.on.getLsbD 1 then failPower u v else goOff u) := by
  rw [exec_powerFail, execPowerFail, if_neg (by simp [haon, hfirst]), hu]

/-- The state of power as VSYS returns: AON on, HUB asked for, the votes that were kept (R410). -/
def returnedPower (p : PowerSt) : PowerSt :=
  { on := 1, restoring := 2, votes := p.kept.foldl (fun v x => upd v x.1 (fun _ => x.2)) (0xFF :: List.replicate 19 (0 : Byte))
    pfSeen := p.afterFail, pfCount := p.pfCount, pfPending := p.pfPending, owed := p.owed }

theorem powerReturn_enough {mv : Nat} (haon : s.pwr.aon = false) (hlow : 2700 ≤ mv) (hhigh : mv ≤ 6000) :
    exec (.powerReturn mv) s = .next (latchPwr { s with pwr := returnedPower s.pwr }) := by
  rw [exec_powerReturn, execPowerReturn, if_neg (Nat.not_lt.mpr hhigh), if_neg (by simp [haon, hlow])]
  rfl
end

/-- Settles O40: each command by its lemma; OFF is the reset with AON and every domain without power. -/
theorem powerFailAndReturnHaveTheirEffect : Obligations.PowerFailAndReturnHaveTheirEffect := by
  unfold Obligations.PowerFailAndReturnHaveTheirEffect
  refine ⟨fun s => ⟨fun v u haon hfirst hu => ⟨fun hhub => ?steps, fun hhub => ?gone⟩, fun hfailing => if_pos hfailing,
      fun mv haon hlow hhigh => ⟨_, powerReturn_enough haon hlow hhigh, rfl, rfl, rfl, rfl⟩,
      fun mv h => execPowerReturn_beyond s h⟩,
    fun s => ⟨rfl, rfl, rfl, rfl, rfl, safetyOff_of_fieldOff (by simp [fieldOn, goOff])⟩⟩
  case steps => rw [powerFail_first haon hfirst hu, if_pos hhub]
  case gone => rw [powerFail_first haon hfirst hu, if_neg (by rw [hhub]; exact Bool.false_ne_true)]

end Sys2Proof.Machine
end

section
/-! SUPPORT. The transactions of the host port on the register space, and the accesses of the mailbox registers through both ports
(R370, R434 to R441, R445, R446, R448). -/
namespace Sys2Proof.Machine

/-! ### HP_STAT alone shows the latest error (R441) -/

theorem readBrLog_hostError (s : State) (cause word : Nat) : (readBrLog (hostError s cause word)).1 = (readBrLog s).1 := by
  simp only [readBrLog, hostError]
  split <;> rfl

theorem peek_hostError {a : Nat} (ha : a ≠ 0x20) (s : State) (cause word : Nat) (p : Port) :
    peek (hostError s cause word) p a = peek s p a := by
  simp only [peek, if_neg ha, readBrLog_hostError]
  rfl

/-- The latest error changes what HP_STAT reads as, not which registers there are. -/
theorem peek_hostError_isNone (s : State) (cause word : Nat) (p : Port) (a : Nat) :
    (peek (hostError s cause word) p a).isNone = (peek s p a).isNone := by
  by_cases ha : a = 0x20
  · subst ha
    cases hboot : s.bring.bootFail <;> simp [peek, hostError, hboot]
  · rw [peek_hostError ha]

/-! ### A transaction of the register space (R435 to R441) -/

section
variable {s : State} {a count : Nat}

/-- The words of a read that is in time. -/
theorem fetchWords_inTime (ha : a < 0x800000) (hreal : (peek s .host a).isSome = true) :
    fetchWords s a count none
      = ({ words := (regReads .host (accessAddrs a count) s).1 }, (regReads .host (accessAddrs a count) s).2) := by
  have hnone : (peek s .host a).isNone = false := by simpa using hreal
  have hwin : ¬ 0x800000 ≤ a := Nat.not_le.mpr ha
  simp [fetchWords, hwin, hnone]

/-- The words that come too late are zero, and take nothing (R437). -/
theorem fetchWords_late {k : Nat} (ha : a < 0x800000) (hreal : (peek s .host a).isSome = true) (hk : k < count) :
    fetchWords s a count (some k)
      = ({ words := (regReads .host (accessAddrs a k) s).1 ++ List.replicate (count - k) 0 },
         portError (regReads .host (accessAddrs a k) s).2 3 k) := by
  have hnone : (peek s .host a).isNone = false := by simpa using hreal
  have hwin : ¬ 0x800000 ≤ a := Nat.not_le.mpr ha
  simp [fetchWords, hwin, hnone, Nat.min_eq_left (Nat.le_of_lt hk), hk]

/-- A reserved start is an error, and its words are read as ever. -/
theorem fetchWords_reserved (ha : a < 0x800000) (hreserved : peek s .host a = none) :
    fetchWords s a count none
      = ({ err := true, words := (regReads .host (accessAddrs a count) (hostError s 2 0)).1 },
         (regReads .host (accessAddrs a count) (hostError s 2 0)).2) := by
  have hnone : (peek s .host a).isNone = true := by rw [hreserved]; rfl
  have hwin : ¬ 0x800000 ≤ a := Nat.not_le.mpr ha
  simp [fetchWords, hwin, hnone, peek_hostError_isNone]

variable {words : List Word} {tm : HostTiming}

theorem takeWords_misaligned (h4 : a % 4 ≠ 0) : takeWords s a words tm = portError s 1 0 :=
  if_pos (bne_iff_ne.mpr h4)

/-- A write whose words the buffer takes. -/
theorem takeWords_whole (ha : a < 0x800000) (h4 : a % 4 = 0) (hfull : tm.full = none) :
    takeWords s a words tm = hostWrites 0 false ((accessAddrs a words.length).zip words)
      (if (peek s .host a).isNone then portError s 2 0 else s) := by
  have hwin : ¬ 0x800000 ≤ a := Nat.not_le.mpr ha
  simp [takeWords, h4, hfull, hwin]

/-- The write buffer is full after `k` words (R438). -/
theorem takeWords_full {k : Nat} (ha : a < 0x800000) (h4 : a % 4 = 0) (hfull : tm.full = some k) (hk : k < words.length)
    (hreal : (peek s .host a).isSome = true) :
    takeWords s a words tm = portError (hostWrites 0 false ((accessAddrs a k).zip (words.take k)) s) 4 k := by
  have hnone : (peek s .host a).isNone = false := by simpa using hreal
  have hwin : ¬ 0x800000 ≤ a := Nat.not_le.mpr ha
  simp [takeWords, h4, hfull, hwin, hnone, Nat.min_eq_left (Nat.le_of_lt hk), hk]
end

/-! ### The host port (O26) -/

section
variable {s u : State} {addr : BitVec 24} {count : Nat} {words : List Word} {tm : HostTiming}

theorem read_aligned (hd : domainOn s 1 = true) (hu : u = opcodePhase s tm) (h4 : addr.toNat % 4 = 0) {late : Option Nat}
    (hlate : tm.late = late) {r : PortAnswer} {v : State} (hr : fetchWords u addr.toNat count late = (r, v)) :
    exec (.read addr count tm) s
      = .next (emit v (.hostData (statusByte v r.err (late = some 0 && 0 < count) r.dOff r.retry) r.words)) := by
  simp [execRead, hostRead, hd, h4, ← hu, hlate, hr]

theorem read_misaligned (hd : domainOn s 1 = true) (hu : u = opcodePhase s tm) (h4 : addr.toNat % 4 ≠ 0) (hlate : tm.late = none) :
    exec (.read addr count tm) s = .next (emit (hostError u 1 0)
      (.hostData (statusByte (hostError u 1 0) true false false false) (List.replicate count 0))) := by
  simp [execRead, hostRead, hd, h4, ← hu, hlate]

theorem write_taken (hd : domainOn s 1 = true) (hu : u = opcodePhase s tm) :
    exec (.write addr words tm) s = .next (takeWords u addr.toNat words tm) := by
  rw [exec_write, execWrite, hostWrite, if_pos hd, hu]

/-- With HUB off every answer is ones, and nothing is written (R370). -/
theorem hostPort_hubOff (hd : domainOn s 1 = false) (op : Byte) :
    exec (.read addr count tm) s = .next (emit s (.hostData 0xFF (List.replicate count 0xFFFFFFFF))) ∧
    exec (.write addr words tm) s = .next (emit s (.hostData 0xFF [])) ∧
    exec (.status tm) s = .next (emit s (.hostData 0xFF [])) ∧ exec (.badOpcode op) s = .next (emit s (.hostData 0xFF [])) := by
  simp [execRead, hostRead, execWrite, hostWrite, execStatus, execBadOpcode, hd]
end

/-- Settles O26: the opcode phase, then the words fetched or taken. -/
theorem hostPortHasItsEffect : Obligations.HostPortHasItsEffect := by
  unfold Obligations.HostPortHasItsEffect
  refine ⟨fun addr count tm s u hd ha hu => ⟨?inTime, ?late, ?reserved, ?misaligned, rfl⟩,
    fun addr words tm s u hd ha hu => ⟨?whole, ?full, ?reservedWrite, fun h4 => ?misalignedWrite, rfl⟩,
    fun tm s u hd hu => ?status, fun op s hd h1 h2 h5 h6 hF => ?opcode, fun addr count words tm op s hd => hostPort_hubOff hd op⟩
  case inTime =>
    intro r h4 hlate hreal hr
    rw [read_aligned hd hu h4 hlate (fetchWords_inTime ha hreal), hr]; rfl
  case late =>
    intro k r v h4 hlate hk hreal hr hv
    rw [read_aligned hd hu h4 hlate (fetchWords_late ha hreal hk), hv, hr]
    simp [Nat.zero_lt_of_lt hk]
  case reserved =>
    intro r h4 hlate hnone hr
    rw [read_aligned hd hu h4 hlate (fetchWords_reserved ha hnone), hr]; rfl
  case misaligned =>
    intro v h4 hlate hv
    rw [read_misaligned hd hu h4 hlate, hv]
  case whole =>
    intro h4 hfull hreal
    have hnone : (peek u .host addr.toNat).isNone = false := by simpa using hreal
    rw [write_taken hd hu, takeWords_whole ha h4 hfull, hnone]; rfl
  case full =>
    intro k h4 hfull hk hreal
    rw [write_taken hd hu, takeWords_full ha h4 hfull hk hreal]
  case reservedWrite =>
    intro h4 hfull hnone
    rw [write_taken hd hu, takeWords_whole ha h4 hfull, hnone]; rfl
  case misalignedWrite => rw [write_taken hd hu, takeWords_misaligned h4]
  case status =>
    rw [exec_status, execStatus, if_neg (by simp [hd]), hu]; rfl
  case opcode =>
    have hforeign : ¬ (decide (op = 0xA1) || decide (op = 0xA2) || decide (op = 0xA5) || decide (op = 0xA6) || decide (op = 0xAF)) = true := by
      simp only [Bool.or_eq_true, decide_eq_true_eq, h1, h2, h5, h6, hF, or_self, not_false_iff]
    rw [exec_badOpcode, execBadOpcode, if_neg (by simp [hd]), if_neg hforeign]

end Sys2Proof.Machine
end

section
/-! SUPPORT. The registers of the mailboxes, written and read by the source that holds the mailbox and by others (R370, R436, R445, R446,
R448). -/
namespace Sys2Proof.Machine

/-! ### What a write to a mailbox register does (R445, R446, R448) -/

section
variable {v : State} {mb : Mb} {src other : Source} {w : Word}

theorem heldByOther_holder (hheld : (mbox v mb).holder = some src) : heldByOther v mb src = false := by
  simp [heldByOther, hheld]
theorem heldByOther_foreign (hheld : (mbox v mb).holder = some other) (hne : other ≠ src) : heldByOther v mb src = true := by
  simp [heldByOther, hheld, hne]

theorem writeMbData_foreign (hheld : (mbox v mb).holder = some other) (hne : other ≠ src) : writeMbData v mb src w 0 = v := by
  rw [writeMbData, heldByOther_foreign hheld hne, if_pos rfl]

theorem writeMbData_outside (hheld : (mbox v mb).holder = some src) (hst : (mbox v mb).st ≠ .receiving) :
    writeMbData v mb src w 0 = if src = .host then hostError v 7 0 else v := by
  simp [writeMbData, heldByOther_holder hheld, hst]

theorem writeMbData_taken (hheld : (mbox v mb).holder = some src) (hst : (mbox v mb).st = .receiving) (hroom : (mbox v mb).fill < 1024)
    (hmore : (mbox v mb).req.length + 1 < (mbox v mb).need) :
    writeMbData v mb src w 0 = modMb v mb (fun m => { m with fill := m.fill + 1, req := m.req ++ [w] }) := by
  simp only [writeMbData, heldByOther_holder hheld, hst, bne_self_eq_false, Bool.false_eq_true, if_false, Nat.sub_zero,
    if_neg (Nat.not_le.mpr hroom), mbox_modMb, List.length_append, List.length_singleton, if_pos hmore]
  exact modMb_congr rfl

theorem writeMbData_last (hheld : (mbox v mb).holder = some src) (hst : (mbox v mb).st = .receiving) (hroom : (mbox v mb).fill < 1024)
    (hlast : (mbox v mb).need ≤ (mbox v mb).req.length + 1) :
    writeMbData v mb src w 0
      = modMb v mb (fun m => { m with st := .busy, since := rawNow v, fill := m.fill + 1, req := m.req ++ [w] }) := by
  simp only [writeMbData, heldByOther_holder hheld, hst, bne_self_eq_false, Bool.false_eq_true, if_false, Nat.sub_zero,
    if_neg (Nat.not_le.mpr hroom), mbox_modMb, List.length_append, List.length_singleton, if_neg (Nat.not_lt.mpr hlast), modMb_modMb,
    rawNow_modMb]
  exact modMb_congr rfl

theorem writeMbData_overrun (hheld : (mbox v mb).holder = some src) (hst : (mbox v mb).st = .receiving)
    (hfull : 1024 ≤ (mbox v mb).fill) :
    writeMbData v mb src w 0 = finishMbAt (modMb v mb (fun m => { m with overrun := true })) mb 3 []
      ((mbox v mb).req.length - (mbox v mb).fill) := by
  simp only [writeMbData, heldByOther_holder hheld, hst, bne_self_eq_false, Bool.false_eq_true, if_false, Nat.sub_zero, if_pos hfull]
  rw [modMb_congr (g := fun m => { m with overrun := true }) rfl]

theorem writeMbCtrl_foreign (hheld : (mbox v mb).holder = some other) (hne : other ≠ src) : writeMbCtrl v mb src w = v := by
  rw [writeMbCtrl, heldByOther_foreign hheld hne, if_pos rfl]

/-- ACK alone. -/
theorem writeMbCtrl_ack (hheld : (mbox v mb).holder = some src) :
    writeMbCtrl v mb src 1 = if (mbox v mb).st = .done then idleMb v mb else v := by
  simp [writeMbCtrl, heldByOther_holder hheld]

/-- ABORT alone. -/
theorem writeMbCtrl_abort (hheld : (mbox v mb).holder = some src) :
    writeMbCtrl v mb src 2 = if (mbox v mb).st = .receiving then idleMb v mb else v := by
  simp [writeMbCtrl, heldByOther_holder hheld]
end

/-! ### The registers' rows (R442) -/

section
variable {v : State} (hb : v.bring.bootFail = false) (p : Port) (mb : Mb)
include hb

theorem regWrite_mbCtrl (node drained : Nat) (w : Word) :
    regWrite v p node (mbBase mb + 0) w drained = writeMbCtrl v mb (portSource p node) w := by
  cases mb <;> simp [regWrite, mbBase, hb, writeMb]
theorem regWrite_mbData (node drained : Nat) (w : Word) :
    regWrite v p node (mbBase mb + 0x10) w drained = writeMbData v mb (portSource p node) w drained := by
  cases mb <;> simp [regWrite, mbBase, hb, writeMb]
theorem peek_mbCtrl : peek v p (mbBase mb + 0) = some 0 := by
  cases mb <;> simp [peek, mbBase, hb, mbPeek]
theorem peek_mbData : peek v p (mbBase mb + 0x10) = some ((mbox v mb).resp.headD 0) := by
  cases mb <;> simp [peek, mbBase, hb, mbPeek, mbox]
theorem readEffect_mbData : readEffect v p (mbBase mb + 0x10) = modMb v mb (fun m => { m with resp := m.resp.drop 1 }) := by
  cases mb <;> simp [readEffect, mbBase, hb, readMbData]
end

/-! ### What a write does that does not look at HP_STAT (R441) -/

/-- A change of the state that neither looks at nor changes the latest error. -/
def BlindToError (g : State → State) : Prop :=
  ∀ (v : State) (cause word : Nat), g (hostError v cause word) = hostError (g v) cause word

theorem blindToError_id : BlindToError id := fun _ _ _ => rfl
theorem blindToError_modMb (mb : Mb) (f : Mailbox → Mailbox) : BlindToError (fun v => modMb v mb f) := by
  intro v cause word; cases mb <;> rfl
theorem blindToError_idleMb (mb : Mb) : BlindToError (fun v => idleMb v mb) := blindToError_modMb mb _
theorem blindToError_overrun (mb : Mb) (last : Nat) :
    BlindToError (fun v => endedMb (modMb v mb (fun m => { m with overrun := true })) mb 3 [] last) := by
  intro v cause word; cases mb <;> rfl

theorem BlindToError.cause {g : State → State} (h : BlindToError g) (v : State) :
    (g v).hp.cause = v.hp.cause ∧ (g v).hp.word = v.hp.word := by
  have hsame : g v = hostError (g v) v.hp.cause v.hp.word := h v v.hp.cause v.hp.word
  exact ⟨by rw [hsame]; rfl, by rw [hsame]; rfl⟩

/-- A write of one word that leaves an error leaves it in HP_STAT, at the first word. -/
theorem hostWrites_one_error {u : State} {a cause : Nat} {w : Word} (ha : a < 0x800000) (hcause : cause ≠ 0)
    (h : regWrite (hostError u 0 u.hp.word) .host 0 a w 0 = hostError u cause 0) :
    hostWrites 0 false [(a, w)] u = portError u cause 0 := by
  have hlow : a ≤ 0x7FFFFF := Nat.le_of_lt_succ ha
  have hbad : (cause != 0) = true := bne_iff_ne.mpr hcause
  have h' : regWrite { u with hp := { u.hp with cause := 0 } } .host 0 a w 0 = hostError u cause 0 := h
  simp only [hostWrites, hlow, if_true, h', hostError_hp_cause, hbad, decide_true, Bool.and_true, Bool.not_true, Bool.false_eq_true, if_false]
  rfl

/-! ### An access by a source (R436, R448) -/

theorem mbox_opcodePhase (s : State) (mb : Mb) : mbox (opcodePhase s {}) mb = mbox s mb := by cases mb <;> rfl
theorem mbox_accessed (s : State) (src : Source) (mb : Mb) : mbox (accessed s src) mb = mbox s mb := by
  rw [accessed]; split <;> simp only [mbox_opcodePhase]
theorem rawNow_accessed (s : State) (src : Source) : rawNow (accessed s src) = rawNow s := by
  rw [accessed]; split <;> rfl
theorem bring_accessed (s : State) (src : Source) : (accessed s src).bring = s.bring := by
  rw [accessed]; split <;> simp only [opcodePhase_bring]
theorem mbox_hostError (s : State) (cause word : Nat) (mb : Mb) : mbox (hostError s cause word) mb = mbox s mb := by cases mb <;> rfl

/-- The row of a mailbox register: what a write does to it, and that it can be read. -/
structure MbRegister (mb : Mb) (off : Nat) (write : State → Source → Word → State) : Prop where
  writes : ∀ {v : State}, v.bring.bootFail = false → ∀ (p : Port) (node : Nat) (w : Word),
    regWrite v p node (mbBase mb + off) w 0 = write v (portSource p node) w
  reads : ∀ {v : State}, v.bring.bootFail = false → ∀ p : Port, (peek v p (mbBase mb + off)).isSome = true
  below : mbBase mb + off < 0x800000

theorem mbRegister_ctrl (mb : Mb) : MbRegister mb 0 (fun v src w => writeMbCtrl v mb src w) where
  writes hb p node w := regWrite_mbCtrl hb p mb node 0 w
  reads hb p := by rw [peek_mbCtrl hb p mb]; rfl
  below := by cases mb <;> decide
theorem mbRegister_data (mb : Mb) : MbRegister mb 0x10 (fun v src w => writeMbData v mb src w 0) where
  writes hb p node w := regWrite_mbData hb p mb node 0 w
  reads hb p := by rw [peek_mbData hb p mb]; rfl
  below := by cases mb <;> decide

section
variable {mb : Mb} {src : Source} {off : Nat} {w : Word} {s u : State} {write : State → Source → Word → State}

/-- A node writes as the inbound engine does, without a status byte. -/
theorem sourceWrite_node {n : Nat} (hreg : MbRegister mb off write) (hreach : reaches mb (.node n) = true) (hd : domainOn s 1 = true)
    (hb : s.bring.bootFail = false) : sourceWrite s mb (.node n) off w = write s (.node n) w := by
  simp only [sourceWrite, hreach, hd, Bool.not_true, Bool.false_eq_true, if_false, if_true]
  exact hreg.writes hb .bridge n w

/-- A write whose effect does not look at HP_STAT is that effect after the opcode phase. -/
theorem sourceWrite_blind {g : State → State} (hg : BlindToError g) (hreg : MbRegister mb off write) (hreach : reaches mb src = true)
    (hd : domainOn s 1 = true) (hb : s.bring.bootFail = false) (hu : u = accessed s src)
    (hwrite : ∀ v, mbox v mb = mbox u mb → rawNow v = rawNow u → write v src w = g v) :
    sourceWrite s mb src off w = g u := by
  have hbu : u.bring.bootFail = false := by rw [hu, bring_accessed, hb]
  cases src with
  | trdp ip => cases mb <;> exact absurd hreach Bool.false_ne_true
  | node n =>
    have hsu : u = s := hu
    rw [sourceWrite_node hreg hreach hd hb, hsu]
    exact hwrite s (by rw [hsu]) (by rw [hsu])
  | host =>
    obtain ⟨hcause, hword⟩ := hg.cause u
    rw [sourceWrite, if_neg (by rw [hreach]; exact Bool.false_ne_true)]
    refine portWrite_host hd hu hreg.below (hreg.reads hbu .host) ?_ hcause hword
    rw [hreg.writes (v := hostError u 0 u.hp.word) hbu .host 0 w]
    exact (hwrite (hostError u 0 u.hp.word) (mbox_hostError u 0 u.hp.word mb) rfl).trans (hg u 0 u.hp.word)

/-- A word outside RECEIVING is discarded, for the host with MB_BUSY (R445). -/
theorem sourceWrite_outside (hreach : reaches mb src = true) (hd : domainOn s 1 = true) (hb : s.bring.bootFail = false)
    (hu : u = accessed s src) (hheld : (mbox u mb).holder = some src) (hst : (mbox u mb).st ≠ .receiving) :
    sourceWrite s mb src 0x10 w = if src = .host then portError u 7 0 else u := by
  have hbu : u.bring.bootFail = false := by rw [hu, bring_accessed, hb]
  cases src with
  | trdp ip => cases mb <;> exact absurd hreach Bool.false_ne_true
  | node n =>
    have hsu : u = s := hu
    rw [sourceWrite_node (mbRegister_data mb) hreach hd hb, ← hsu]
    exact writeMbData_outside hheld hst
  | host =>
    have hbelow : mbBase mb + 0x10 < 0x800000 := (mbRegister_data mb).below
    have haddr : (BitVec.ofNat 24 (mbBase mb + 0x10)).toNat = mbBase mb + 0x10 := by rw [BitVec.toNat_ofNat]; omega
    have h4 : (mbBase mb + 0x10) % 4 = 0 := by cases mb <;> rfl
    have hreal : (peek u .host (mbBase mb + 0x10)).isNone = false := by rw [peek_mbData hbu .host mb]; rfl
    have hspoils : regWrite (hostError u 0 u.hp.word) .host 0 (mbBase mb + 0x10) w 0 = hostError u 7 0 := by
      rw [regWrite_mbData (v := hostError u 0 u.hp.word) hbu .host mb 0 0 w]
      exact (writeMbData_outside (by rw [mbox_hostError]; exact hheld) (by rw [mbox_hostError]; exact hst)).trans rfl
    rw [sourceWrite, if_neg (by rw [hreach]; exact Bool.false_ne_true)]
    simp only [portWrite, hostWrite, if_pos hd, haddr]
    rw [show opcodePhase s {} = u from hu.symm, takeWords_whole hbelow h4 rfl, hreal]
    simpa [accessAddrs_one] using hostWrites_one_error hbelow (by decide) hspoils
end

/-! ### Words, ACK, ABORT and reads of the mailboxes (O25) -/

theorem mbox_drainMb (s : State) (mb : Mb) (n : Nat) : mbox (drainMb s mb n) mb = { mbox s mb with fill := (mbox s mb).fill - n } :=
  mbox_modMb s mb _
theorem domainOn_drainMb (s : State) (mb : Mb) (n d : Nat) : domainOn (drainMb s mb n) d = domainOn s d := by cases mb <;> rfl
theorem bring_drainMb (s : State) (mb : Mb) (n : Nat) : (drainMb s mb n).bring = s.bring := by cases mb <;> rfl
theorem rawNow_drainMb (s : State) (mb : Mb) (n : Nat) : rawNow (drainMb s mb n) = rawNow s := rawNow_modMb s mb _

/-- A source that reaches a mailbox is never TRDP. -/
theorem not_trdp_of_reaches {mb : Mb} {src : Source} (hreach : reaches mb src = true) (ip : Word) : src ≠ .trdp ip := by
  rintro rfl
  cases mb <;> exact Bool.false_ne_true hreach

section
variable {mb : Mb} {src other : Source} {w : Word} {drained : Nat} {s u : State} (hreach : reaches mb src = true)
  (hd : domainOn s 1 = true) (hb : s.bring.bootFail = false)
include hreach hd hb

/-- A request word has the effect of its write after the opcode phase, on the FIFO as far as it has drained. -/
theorem mbDataWrite_blind {g : State → State} (hg : BlindToError g) (hu : u = accessed (drainMb s mb drained) src)
    (hwrite : ∀ v, mbox v mb = { mbox s mb with fill := (mbox s mb).fill - drained } → rawNow v = rawNow s →
      writeMbData v mb src w 0 = g v) :
    exec (.mbDataWrite mb src w drained) s = .next (g u) := by
  have hmbox : mbox u mb = { mbox s mb with fill := (mbox s mb).fill - drained } := by rw [hu, mbox_accessed, mbox_drainMb]
  have hnow : rawNow u = rawNow s := by rw [hu, rawNow_accessed, rawNow_drainMb]
  rw [exec_mbDataWrite, execMbDataWrite]
  exact congrArg Host.Outcome.next (sourceWrite_blind hg (mbRegister_data mb) hreach (by rw [domainOn_drainMb, hd])
    (by rw [bring_drainMb, hb]) hu (fun v hv hn => hwrite v (hv.trans hmbox) (hn.trans hnow)))

theorem mbDataWrite_outside (hu : u = accessed (drainMb s mb drained) src) (hheld : (mbox s mb).holder = some src)
    (hst : (mbox s mb).st ≠ .receiving) :
    exec (.mbDataWrite mb src w drained) s = .next (if src = .host then portError u 7 0 else u) := by
  have hmbox : mbox u mb = { mbox s mb with fill := (mbox s mb).fill - drained } := by rw [hu, mbox_accessed, mbox_drainMb]
  rw [exec_mbDataWrite, execMbDataWrite]
  exact congrArg Host.Outcome.next (sourceWrite_outside hreach (by rw [domainOn_drainMb, hd]) (by rw [bring_drainMb, hb]) hu
    (by rw [hmbox]; exact hheld) (by rw [hmbox]; exact hst))

/-- A bit of MBx_CTRL has the effect of its write after the opcode phase. -/
theorem sourceWrite_ctrl {g : State → State} (hg : BlindToError g) (hu : u = accessed s src)
    (hwrite : ∀ v, mbox v mb = mbox s mb → writeMbCtrl v mb src w = g v) : sourceWrite s mb src 0 w = g u :=
  sourceWrite_blind hg (mbRegister_ctrl mb) hreach hd hb hu (fun v hv _ => hwrite v (by rw [hv, hu, mbox_accessed]))

theorem mbCtrlAck_held (hu : u = accessed s src) (hheld : (mbox s mb).holder = some src) :
    exec (.mbCtrlAck mb src) s = .next (if (mbox s mb).st = .done then idleMb u mb else u) := by
  rw [exec_mbCtrlAck, execMbCtrlAck]
  by_cases hst : (mbox s mb).st = .done
  · rw [if_pos hst, sourceWrite_ctrl hreach hd hb (blindToError_idleMb mb) hu (fun v hv => by
      rw [writeMbCtrl_ack (by rw [hv]; exact hheld), hv, if_pos hst])]
  · rw [if_neg hst, sourceWrite_ctrl hreach hd hb blindToError_id hu (fun v hv => by
      rw [writeMbCtrl_ack (by rw [hv]; exact hheld), hv, if_neg hst]; rfl)]
    rfl

theorem mbCtrlAbort_held (hu : u = accessed s src) (hheld : (mbox s mb).holder = some src) :
    exec (.mbCtrlAbort mb src) s = .next (if (mbox s mb).st = .receiving then idleMb u mb else u) := by
  rw [exec_mbCtrlAbort, execMbCtrlAbort]
  by_cases hst : (mbox s mb).st = .receiving
  · rw [if_pos hst, sourceWrite_ctrl hreach hd hb (blindToError_idleMb mb) hu (fun v hv => by
      rw [writeMbCtrl_abort (by rw [hv]; exact hheld), hv, if_pos hst])]
  · rw [if_neg hst, sourceWrite_ctrl hreach hd hb blindToError_id hu (fun v hv => by
      rw [writeMbCtrl_abort (by rw [hv]; exact hheld), hv, if_neg hst]; rfl)]
    rfl

/-- MBx_CTRL written by another source is discarded (R448). -/
theorem mbCtrl_foreign (hu : u = accessed s src) (hheld : (mbox s mb).holder = some other) (hne : other ≠ src) :
    sourceWrite s mb src 0 w = u :=
  sourceWrite_ctrl hreach hd hb blindToError_id hu (fun _ hv => writeMbCtrl_foreign (by rw [hv]; exact hheld) hne)

/-- A response word leaves as it is read, with a status byte for the host. -/
theorem mbDataRead_host (hsrc : src = .host) {v : State}
    (hv : v = modMb (accessed s src) mb (fun m => { m with resp := m.resp.drop 1 })) :
    exec (.mbDataRead mb src) s = .next (emit v (.hostData (statusByte v false false false false) [(mbox s mb).resp.headD 0])) := by
  subst hsrc
  have hbu : (accessed s .host).bring.bootFail = false := by rw [bring_accessed, hb]
  rw [exec_mbDataRead, execMbDataRead, if_pos hreach, if_pos rfl, ← mbox_accessed s .host mb]
  exact congrArg Host.Outcome.next (portRead_host hd rfl (mbRegister_data mb).below (by cases mb <;> decide)
    (peek_mbData hbu .host mb) (hv.trans (readEffect_mbData hbu .host mb).symm))

theorem mbDataRead_node (hsrc : src ≠ .host) :
    exec (.mbDataRead mb src) s = .next (modMb s mb (fun m => { m with resp := m.resp.drop 1 })) := by
  rw [exec_mbDataRead, execMbDataRead, if_pos hreach, if_neg hsrc, portRead_bridge hd (by cases mb <;> decide) (by cases mb <;> rfl),
    readEffect_mbData hb]
end

/-- With HUB off the host port answers ones, and nothing is written (R370). -/
theorem sourceWrite_hubOff {s : State} (hd : domainOn s 1 = false) (mb : Mb) (off : Nat) (w : Word) :
    sourceWrite s mb .host off w = emit s (.hostData 0xFF []) := by
  have hreach : reaches mb .host = true := by cases mb <;> rfl
  simp [sourceWrite, hreach, portWrite, hostWrite, hd]

/-- Settles O25: each access by its write or its read after the opcode phase. -/
theorem mailboxRegistersHaveTheirEffect : Obligations.MailboxRegistersHaveTheirEffect := by
  unfold Obligations.MailboxRegistersHaveTheirEffect
  refine ⟨fun mb src w drained s u hreach hd hb hu => ⟨?taken, ?last, ?overrun, mbDataWrite_outside hreach hd hb hu, ?foreign⟩,
    fun mb src s u hreach hd hb hu => ⟨fun hsrc v hv => mbDataRead_host hreach hd hb hsrc (by rw [hv, hu]), ?node,
      fun hheld hst => (mbCtrlAck_held hreach hd hb hu hheld).trans (by rw [if_pos hst]),
      fun hheld hst => (mbCtrlAck_held hreach hd hb hu hheld).trans (by rw [if_neg hst]),
      fun hheld hst => (mbCtrlAbort_held hreach hd hb hu hheld).trans (by rw [if_pos hst]),
      fun hheld hst => (mbCtrlAbort_held hreach hd hb hu hheld).trans (by rw [if_neg hst]),
      fun other hheld hne => ⟨congrArg _ (mbCtrl_foreign hreach hd hb hu hheld hne), congrArg _ (mbCtrl_foreign hreach hd hb hu hheld hne)⟩⟩,
    fun mb w drained s hd => ⟨?dataOff, ?readOff, congrArg _ (sourceWrite_hubOff hd mb 0 1), congrArg _ (sourceWrite_hubOff hd mb 0 2)⟩⟩
  case taken =>
    intro hheld hst hroom hmore
    refine mbDataWrite_blind hreach hd hb (blindToError_modMb mb _) hu (fun v hv _ => ?_)
    exact writeMbData_taken (by rw [hv]; exact hheld) (by rw [hv]; exact hst) (by rw [hv]; exact hroom) (by rw [hv]; exact hmore)
  case last =>
    intro hheld hst hroom hlast
    refine mbDataWrite_blind hreach hd hb (blindToError_modMb mb _) hu (fun v hv hnow => ?_)
    rw [← hnow]
    exact writeMbData_last (by rw [hv]; exact hheld) (by rw [hv]; exact hst) (by rw [hv]; exact hroom) (by rw [hv]; exact hlast)
  case overrun =>
    intro hheld hst hfull
    have hanswers (v : State) (hv : mbox v mb = { mbox s mb with fill := (mbox s mb).fill - drained }) (ip : Word) :
        (mbox (modMb v mb (fun m => { m with overrun := true })) mb).holder ≠ some (.trdp ip) := by
      rw [mbox_modMb, hv]
      exact fun h => not_trdp_of_reaches hreach ip (Option.some.inj (hheld.symm.trans h))
    rw [finishMbAt_held (hanswers u (by rw [hu, mbox_accessed, mbox_drainMb]))]
    refine mbDataWrite_blind hreach hd hb (blindToError_overrun mb _) hu (fun v hv _ => ?_)
    rw [writeMbData_overrun (by rw [hv]; exact hheld) (by rw [hv]; exact hst) (by rw [hv]; exact hfull), finishMbAt_held (hanswers v hv), hv]
  case foreign =>
    intro other hheld hne
    exact mbDataWrite_blind hreach hd hb blindToError_id hu (fun v hv _ => writeMbData_foreign (by rw [hv]; exact hheld) hne)
  case node =>
    intro hsrc
    have hsu : u = s := hu.trans (if_neg hsrc)
    rw [hsu, mbDataRead_node hreach hd hb hsrc]
  case dataOff => exact congrArg _ (sourceWrite_hubOff (by rw [domainOn_drainMb, hd]) mb 0x10 w)
  case readOff =>
    have hreach : reaches mb .host = true := by cases mb <;> rfl
    simp [execMbDataRead, hreach, portRead, hostRead, hd]

end Sys2Proof.Machine
end

section
/-! SUPPORT. No operation of the model touches the queue of waiting commands: one equation per operation. O2 speaks of every state, also of
one whose memories are in no canonical form, so the laws of Keeps, which ask for that form, do not serve here. -/
namespace Sys2Proof.Machine

/-! ### What the queue is after a choice, an update or a run of operations -/

@[simp] theorem pending_ite {c : Prop} [Decidable c] (s t : State) :
    (if c then s else t).pending = if c then s.pending else t.pending := apply_ite State.pending c s t

@[simp] theorem pending_ite_snd {α : Type} {c : Prop} [Decidable c] (x y : α × State) :
    (if c then x else y).2.pending = if c then x.2.pending else y.2.pending := apply_ite (fun x : α × State => x.2.pending) c x y

theorem pending_snd (s : State) (x : Sound) : ({ s with snd := x } : State).pending = s.pending := rfl

@[simp] theorem foldl_pending {α : Type} {f : State → α → State} (hf : ∀ s a, (f s a).pending = s.pending) (l : List α) (s : State) :
    (l.foldl f s).pending = s.pending := by
  induction l generalizing s with
  | nil => rfl
  | cons a l ih => rw [List.foldl_cons, ih, hf]

@[simp] theorem foldl_pending_snd {α γ : Type} {f : α × State → γ → α × State} (hf : ∀ x c, (f x c).2.pending = x.2.pending)
    (l : List γ) (x : α × State) : (l.foldl f x).2.pending = x.2.pending := by
  induction l generalizing x with
  | nil => rfl
  | cons a l ih => rw [List.foldl_cons, ih, hf]

theorem foldl_pending_third {α β γ : Type} {f : α × β × State → γ → α × β × State}
    (hf : ∀ x c, (f x c).2.2.pending = x.2.2.pending) (l : List γ) (x : α × β × State) :
    (l.foldl f x).2.2.pending = x.2.2.pending := by
  induction l generalizing x with
  | nil => rfl
  | cons a l ih => rw [List.foldl_cons, ih, hf]

/-- A command that goes on leaves this queue. -/
def Waits (q : List Instr) (o : Host.Outcome State Fault Refusal) : Prop := ∀ t, o = .next t → t.pending = q

@[simp] theorem waits_next (q : List Instr) (s : State) : Waits q (.next s) ↔ s.pending = q :=
  ⟨fun h => h s rfl, fun h _ ht => Host.Outcome.next.inj ht ▸ h⟩

@[simp] theorem waits_fault (q : List Instr) (f : Fault) : Waits q (.fault f) := fun _ h => nomatch h

/-! ### The operations on the state and on the fault queues -/

@[simp] theorem setIrqIf_pending (s : State) (c : Bool) (b : Nat) : (setIrqIf s c b).pending = s.pending := by simp [setIrqIf]
@[simp] theorem writeLogControl_pending (s : State) : (writeLogControl s).pending = s.pending := by simp [writeLogControl]
@[simp] theorem countOverflow_pending (s : State) (r : Region) : (countOverflow s r).pending = s.pending := by
  unfold countOverflow
  (repeat' split) <;> simp
@[simp] theorem takeFseq_pending (s : State) : (takeFseq s).2.pending = s.pending := by simp [takeFseq]
@[simp] theorem loseFault_pending (s : State) (r : Region) (x : FaultRec) : (loseFault s r x).pending = s.pending := by
  simp only [loseFault]
  (repeat' split) <;> simp
@[simp] theorem reportFault_pending (s : State) (sev : Nat) : (reportFault s sev).pending = s.pending := by simp [reportFault]
@[simp] theorem enqueueFault_pending (s : State) (r : Region) (x : FaultRec) : (enqueueFault s r x).pending = s.pending := by
  simp only [enqueueFault]
  (repeat' split) <;> simp
@[simp] theorem raise_pending (s : State) (f : FaultIn) : (raise s f).pending = s.pending := by simp [raise]
@[simp] theorem enterEarly_pending (s : State) : (enterEarly s).pending = s.pending := by simp [enterEarly]
@[simp] theorem raiseLane_pending (s : State) (l : Lane) (sev level : Nat) (code : BitVec 16) (block pan : Nat) (arg0 : Word) :
    (raiseLane s l sev level code block pan arg0).pending = s.pending := by simp [raiseLane]

/-! ### The clock pins -/

@[simp] theorem holdClocks_pending (s : State) (v0 v1 : Int) : (holdClocks s v0 v1).pending = s.pending := by rfl

/-! ### Sending over IP -/

@[simp] theorem putOut_pending (s : State) (e : Emission) : (putOut s e).pending = s.pending := by unfold putOut; (repeat' split) <;> simp
@[simp] theorem busyUntil_pending (s : State) (pb : Bool) (t : Nat) : (busyUntil s pb t).pending = s.pending := by simp [busyUntil]
@[simp] theorem drainBest_pending (pb : Bool) (l : List Emission) (s : State) : (drainBest pb l s).pending = s.pending := by
  induction l generalizing s with
  | nil => rfl
  | cons e l ih => unfold drainBest; simp [ih]
@[simp] theorem drainPlane_pending (s : State) (pb : Bool) : (drainPlane s pb).pending = s.pending := by simp [drainPlane]
@[simp] theorem leave_pending (s : State) (e : Emission) : (leave s e).pending = s.pending := by unfold leave; (repeat' split) <;> simp
@[simp] theorem sendHop_pending (s : State) (port : Nat) (hop : Word) (e : Nat → Emission) :
    (sendHop s port hop e).pending = s.pending := by simp [sendHop]
@[simp] theorem dropUnroutable_pending (s : State) : (dropUnroutable s).pending = s.pending := by rfl
@[simp] theorem sendIp_pending (s : State) (dst : Word) (e : Nat → Emission) : (sendIp s dst e).pending = s.pending := by
  unfold sendIp
  (repeat' split) <;> simp
@[simp] theorem sendLine_pending (s : State) (port : Nat) (dst : Word) (e : Nat → Emission) :
    (sendLine s port dst e).pending = s.pending := by simp [sendLine]
@[simp] theorem idleMb_pending (s : State) (mb : Mb) : (idleMb s mb).pending = s.pending := by simp [idleMb]
@[simp] theorem startMb_pending (s : State) (mb : Mb) (src : Source) (head : Nat) (need : Nat) (req : List Word) (silent : Bool) :
    (startMb s mb src head need req silent).pending = s.pending := by simp [startMb]
@[simp] theorem finishMbAt_pending (s : State) (mb : Mb) (result : Nat) (resp : List Word) (last : Nat) :
    (finishMbAt s mb result resp last).pending = s.pending := by simp only [finishMbAt]; (repeat' split) <;> simp
@[simp] theorem finishMb_pending (s : State) (mb : Mb) (result : Nat) (resp : List Word) :
    (finishMb s mb result resp).pending = s.pending := by simp [finishMb]
@[simp] theorem resultMb_pending (s : State) (mb : Mb) (result : Nat) : (resultMb s mb result).pending = s.pending := by simp [resultMb]

/-! ### The mailboxes -/

@[simp] theorem waitMb_pending (s : State) (mb : Mb) : (waitMb s mb).pending = s.pending := by simp [waitMb]
@[simp] theorem okMb_pending (s : State) (mb : Mb) (resp : List Word) : (okMb s mb resp).pending = s.pending := by simp [okMb]
@[simp] theorem runCmd_waits (s : State) (mb : Mb) (code : Nat) (limited halted : Bool) (fail : List Word)
    (need : List Word → Nat) (f : State → List Word → State) (hf : ∀ a0 a1, (f a0 a1).pending = a0.pending) :
    Waits s.pending (runCmd s mb code limited halted fail need f) := by simp only [runCmd]; (repeat' split) <;> simp [*]

/-! ### The axes -/

@[simp] theorem axisIrq_pending (s0 s : State) : (axisIrq s0 s).pending = s.pending := by simp [axisIrq]
@[simp] theorem pushWrite_pending (s : State) (n : Nat) (w : AxWrite) : (pushWrite s n w).pending = s.pending := by rfl
@[simp] theorem applyStep_pending (s : State) (n : Nat) (delta : DWord) (cause : Nat) :
    (applyStep s n delta cause).pending = s.pending := by simp [applyStep]
@[simp] theorem applyScale_pending (s : State) (n : Nat) (v : DWord) : (applyScale s n v).pending = s.pending := by rfl
@[simp] theorem applyWrite_pending (s : State) (n : Nat) : (applyWrite s n).pending = s.pending := by
  unfold applyWrite
  (repeat' split) <;> simp
@[simp] theorem countSkips_pending (s : State) (t n : Nat) : (countSkips s t n).pending = s.pending := by rfl
@[simp] theorem fireRelease_pending (s : State) (t cause : Nat) : (fireRelease s t cause).pending = s.pending := by rfl
@[simp] theorem standbyPoint_pending (s : State) (t : Nat) : (standbyPoint s t).pending = s.pending := by simp [standbyPoint]
@[simp] theorem dropDrive_pending (s : State) : (dropDrive s).pending = s.pending := by rfl
@[simp] theorem flipControl_pending (s : State) (w : PairSwitch) : (flipControl s w).pending = s.pending := by
  unfold flipControl
  (repeat' split) <;> simp
@[simp] theorem evalLattice_pending (s : State) (t : Nat) (axisNo : Nat) (dir : Dir) (phase period : DWord) (path0 : Nat) (mv : Move) :
    (evalLattice s t axisNo dir phase period path0 mv).pending = s.pending := by
  unfold evalLattice
  extract_lets g r turned _ moved h natural skipped released
  have hturned : turned.pending = s.pending := by
    unfold turned
    split
    · split <;> simp
    · rfl
  have hmoved : moved.pending = s.pending := hturned
  have hskipped : skipped.pending = s.pending := by rw [countSkips_pending, hmoved]
  have hreleased : released.pending = s.pending := by unfold released; split <;> simp [hmoved]
  clear_value turned moved skipped released
  (repeat' split) <;> simp [hturned, hmoved, hskipped, hreleased]
@[simp] theorem evalEvent_pending (s : State) (t : Nat) : (evalEvent s t).pending = s.pending := by simp [evalEvent]
@[simp] theorem eventArrive_pending (s : State) (t : Nat) : (eventArrive s t).pending = s.pending := by
  simp only [eventArrive]
  (repeat' split) <;> simp
@[simp] theorem eventAll_pending (s : State) (kind number : Nat) : (eventAll s kind number).pending = s.pending := by
  exact foldl_pending (fun s t => by (repeat' split) <;> simp) _ _
@[simp] theorem scheduleEdge_pending (s : State) (n : Nat) (e : OutEdge) (at_ armSeq : Nat) (late : Bool) :
    (scheduleEdge s n e at_ armSeq late).pending = s.pending := by rfl
@[simp] theorem advance_pending (s : State) : (advance s).pending = s.pending := by rfl
@[simp] theorem evaluate_pending (s : State) (steps : List Int) : (evaluate s steps).pending = s.pending := by
  exact foldl_pending (fun s t => by (repeat' split) <;> simp) _ _
@[simp] theorem discardEdge_pending (s : State) (ti : Nat) : (discardEdge s ti).pending = s.pending := by
  exact foldl_pending (fun s n => by simp) _ _
@[simp] theorem countTravel_pending (s : State) (rev : Bool) (r : Nat) : (countTravel s rev r).pending = s.pending := by rfl
@[simp] theorem crossing_pending (s : State) (t : DWord) : (crossing s t).pending = s.pending := by rfl
@[simp] theorem countEdge_pending (s : State) (ti : Nat) (rising both : Bool) (r : Nat) (t : DWord) :
    (countEdge s ti rising both r t).pending = s.pending := by simp [countEdge]
@[simp] theorem inputEdge_pending (s : State) (e : ArrivedEdge) : (inputEdge s e).pending = s.pending := by simp [inputEdge]
@[simp] theorem tickStep1_pending (s : State) : (tickStep1 s).pending = s.pending := by simp [tickStep1]
@[simp] theorem tick_pending (s : State) : (tick s).pending = s.pending := by simp [tick]
@[simp] theorem discipline_pending (s : State) (err : Int) : (discipline s err).pending = s.pending := by simp [discipline]
@[simp] theorem sourceLost_pending (s : State) : (sourceLost s).pending = s.pending := by simp [sourceLost]
@[simp] theorem masterHoldover_pending (s : State) : (masterHoldover s).pending = s.pending := by simp [masterHoldover]
@[simp] theorem selectSource_pending (s : State) (n src input edges : Nat) (start : Option DWord) :
    (selectSource s n src input edges start).pending = s.pending := by unfold selectSource; (repeat' split) <;> simp
@[simp] theorem execTimingInputEdge_waits (ti : Fin 4) (rising : Bool) (width : Nat) (both half : Bool) (s : State) :
    Waits s.pending (execTimingInputEdge ti rising width both half s) := by simp [execTimingInputEdge]
@[simp] theorem execZeroCrossing_waits (ch : Fin 16) (s : State) : Waits s.pending (execZeroCrossing ch s) := by
  unfold execZeroCrossing
  (repeat' split) <;> simp
@[simp] theorem execLost_waits (s : State) : Waits s.pending (execLost s) := by simp only [execLost]; (repeat' split) <;> simp
@[simp] theorem execHoldoverLimit_waits (s : State) : Waits s.pending (execHoldoverLimit s) := by
  simp only [execHoldoverLimit]
  (repeat' split) <;> simp
@[simp] theorem snapAll_pending (s : State) : (snapAll s).pending = s.pending := by rfl
@[simp] theorem readValHi_pending (s : State) (n : Nat) : (readValHi s n).pending = s.pending := by rfl

/-! ### The lanes' instances -/

@[simp] theorem stopLane_pending (s : State) (l : Lane) : (stopLane s l).pending = s.pending := by rfl
@[simp] theorem enqueueInst_pending (s : State) (l : Lane) (r : InstRef) : (enqueueInst s l r).pending = s.pending := by
  unfold enqueueInst
  (repeat' split) <;> simp
@[simp] theorem decrement_pending (s : State) (l : Lane) (r : InstRef) : (decrement s l r).pending = s.pending := by
  simp only [decrement]
  (repeat' split) <;> simp
@[simp] theorem takeFrom_pending (s : State) (l : Lane) (b : Nat) (r : InstRef) : (takeFrom s l b r).pending = s.pending := by rfl
@[simp] theorem crossbar_pending (s : State) (l : Lane) (b p : Nat) (r : Option InstRef) (x : Xbar) :
    (crossbar s l b p r x).1.pending = s.pending := by unfold crossbar; (repeat' split) <;> simp
@[simp] theorem rakeFor_pending (s : State) (l : Lane) (b p : Nat) (xb : Xbar) : (rakeFor s l b p xb).pending = s.pending := by
  simp only [rakeFor]
  (repeat' split) <;> simp
@[simp] theorem dispatchPan_pending (s : State) (l : Lane) (b p : Nat) (xb : Xbar) : (dispatchPan s l b p xb).pending = s.pending := by
  unfold dispatchPan
  (repeat' split) <;> simp
@[simp] theorem retirePan_pending (s : State) (l : Lane) (b p : Nat) (r : InstRef) (code : BitVec 16) :
    (retirePan s l b p r code).pending = s.pending := by simp only [retirePan]; (repeat' split) <;> simp
@[simp] theorem commitInst_pending (s : State) (l : Lane) (r : InstRef) (p : Program) (i : Inst) :
    (commitInst s l r p i).pending = s.pending := by
  refine (foldl_pending (fun s j => ?_) _ _).trans (by simp)
  repeat' split
  all_goals simp
@[simp] theorem sendFrame_pending (s : State) (l : Lane) (f : LaneFrame) : (sendFrame s l f).pending = s.pending := by rfl
@[simp] theorem advanceSeq_pending (s : State) (l : Lane) (t : Nat) : (advanceSeq s l t).pending = s.pending := by
  exact foldl_pending (fun s c => by simp) _ _
@[simp] theorem shipFrame_pending (s : State) (l : Lane) (t : Nat) : (shipFrame s l t).pending = s.pending := by
  unfold shipFrame
  (repeat' split) <;> simp
@[simp] theorem abandonCycle_pending (s : State) (l : Lane) (t : Nat) : (abandonCycle s l t).pending = s.pending := by simp [abandonCycle]
@[simp] theorem switchLane_pending (s : State) (l : Lane) (t : Nat) : (switchLane s l t).pending = s.pending := by
  unfold switchLane
  (repeat' split) <;> simp
@[simp] theorem startCycle_pending (s : State) (l : Lane) (m : StampMsg) (conn : List (Nat × QWord)) :
    (startCycle s l m conn).pending = s.pending := by simp only [startCycle]; (repeat' split) <;> simp

/-! ### The groups -/

@[simp] theorem nextGroupSeq_pending (s : State) (g : Nat) : (nextGroupSeq s g).2.pending = s.pending := by rfl
@[simp] theorem formGroup_pending (s : State) (g : SigGroup) : (formGroup s g).2.pending = s.pending := by simp [formGroup]
@[simp] theorem presentGroup_pending (s : State) (g : SigGroup) (row : BitVec 4) : (presentGroup s g row).pending = s.pending :=
  by simp [presentGroup]
@[simp] theorem groupArrive_pending (s : State) (g : SigGroup) (pdSeq : Word) (body : List Byte) :
    (groupArrive s g pdSeq body).pending = s.pending := by simp [groupArrive]
@[simp] theorem evalGroup_pending (s : State) (g : SigGroup) : (evalGroup s g).pending = s.pending := by simp [evalGroup]
@[simp] theorem moduleSignalEvents_pending (s0 s : State) : (moduleSignalEvents s0 s).pending = s.pending := by simp [moduleSignalEvents]
@[simp] theorem watchModuleSignals_pending (s : State) : (watchModuleSignals s).pending = s.pending := by simp [watchModuleSignals]
@[simp] theorem execFreshnessEvaluation_waits (s : State) : Waits s.pending (execFreshnessEvaluation s) := by
  unfold execFreshnessEvaluation
  (repeat' split) <;> simp

/-! ### Sound -/

@[simp] theorem feedChannel_pending (s : State) (ch : Nat) (bs : List Bool) : (feedChannel s ch bs).pending = s.pending :=
  by simp [feedChannel]
@[simp] theorem formBlock_pending (s : State) (ch : Nat) : (formBlock s ch).pending = s.pending := by
  simp only [formBlock]
  (repeat' split) <;> simp
@[simp] theorem setRun_pending (s : State) (id : Nat) (run : Bool) : (setRun s id run).pending = s.pending := by rfl
@[simp] theorem placePacket_pending (s : State) (id : Nat) (p0 : Int) (samples : List (List Int)) :
    (placePacket s id p0 samples).pending = s.pending := by unfold placePacket; (repeat' split) <;> simp
@[simp] theorem stepGains_pending (s : State) : (stepGains s).pending = s.pending := by simp [stepGains]
@[simp] theorem portOut_pending (s : State) (p : Nat) (vals : List Int) : (portOut s p vals).pending = s.pending := by simp [portOut]
@[simp] theorem mixFrame_pending (s : State) (tdmi : List Word) : (mixFrame s tdmi).pending = s.pending := by
  unfold mixFrame
  extract_lets g lat m n cap ins _ taken stepped here port port0 port1 ys vals prev _ mixed sent queued p
  have htaken : taken.pending = s.pending := by unfold taken; split <;> rfl
  clear_value taken
  have hstepped : stepped.pending = s.pending := (stepGains_pending taken).trans htaken
  clear_value prev vals cap n m stepped
  have hmixed : mixed.pending = s.pending := (pending_snd stepped _).trans hstepped
  clear_value mixed
  have hsent : sent.pending = s.pending := (portOut_pending _ _ _).trans ((portOut_pending _ _ _).trans hmixed)
  clear_value p sent
  have hqueued : queued.pending = s.pending := by
    unfold queued
    rw [foldl_pending ?keeps, hsent]
    case keeps => intro s c; dsimp only; (repeat' split) <;> simp
  clear_value queued
  rw [foldl_pending ?keeps, hqueued]
  case keeps => intro s c; split <;> simp
@[simp] theorem execModStuck_waits (ch : Fin 16) (s : State) : Waits s.pending (execModStuck ch s) := by simp [execModStuck]
@[simp] theorem execModStuckClear_waits (ch : Fin 16) (s : State) : Waits s.pending (execModStuckClear ch s) :=
  by simp [execModStuckClear]
@[simp] theorem execMeasurementBlock_waits (ch : Fin 16) (bs : List Bool) (s : State) :
    Waits s.pending (execMeasurementBlock ch bs s) := by simp [execMeasurementBlock]
@[simp] theorem execMixerFrame_waits (bs : List (Fin 16 × List Bool)) (tdmi : List Word) (s : State) :
    Waits s.pending (execMixerFrame bs tdmi s) := by unfold execMixerFrame; (repeat' split) <;> simp

/-! ### FLOVIS -/

@[simp] theorem netRecord_pending (s : State) (sev : Nat) (code : BitVec 16) (pb : Bool) (port device arg0 slot : Nat) :
    (netRecord s sev code pb port device arg0 slot).pending = s.pending := by simp [netRecord]
@[simp] theorem nodeRecord_pending (s : State) (sev : Nat) (code : BitVec 16) (pb : Bool) (arg0 slot : Nat) :
    (nodeRecord s sev code pb arg0 slot).pending = s.pending := by simp [nodeRecord]
@[simp] theorem setNode_pending (s : State) (x : NodeState) : (setNode s x).pending = s.pending := by simp [setNode]
@[simp] theorem restartListen_pending (s : State) : (restartListen s).pending = s.pending := by rfl
@[simp] theorem enterListen_pending (s : State) : (enterListen s).pending = s.pending := by simp [enterListen]
@[simp] theorem sendOn_pending (s : State) (pb : Bool) (at_ : Int) (bs : List Byte) : (sendOn s pb at_ bs).pending = s.pending := by
  unfold sendOn
  (repeat' split) <;> simp
@[simp] theorem entryContent_pending (s : State) (x : TxEntry) (left : Nat) : (entryContent s x left).2.2.pending = s.pending := by
  simp only [entryContent]
  (repeat' split) <;> simp
@[simp] theorem slotContent_pending (s : State) (slot planes : Nat) (limit : Nat) :
    (slotContent s slot planes limit).2.2.pending = s.pending := by
  unfold slotContent
  refine foldl_pending_third (fun x y => ?_) _ _
  simp
@[simp] theorem claimNoted_pending (s : State) (pb : Bool) (k : Int) (slot : Nat) : (claimNoted s pb k slot).pending = s.pending := by rfl
@[simp] theorem sendData_pending (s : State) (slot : Nat) : (sendData s slot).pending = s.pending := by
  simp only [sendData]
  (repeat' split) <;> simp
@[simp] theorem sendReference_pending (s : State) (pb : Bool) (b t : Int) : (sendReference s pb b t).pending = s.pending :=
  by simp [sendReference]
@[simp] theorem sendControl_pending (s : State) (slot : Nat) (pb : Bool) (b : Int) (e : SchedEntry) (t : Int) :
    (sendControl s slot pb b e t).pending = s.pending := by simp only [sendControl]; (repeat' split) <;> simp
@[simp] theorem transmitSlot_pending (s : State) (slot : Nat) : (transmitSlot s slot).pending = s.pending := by simp [transmitSlot]
@[simp] theorem renumber_pending (s : State) (c : Schedule) : (renumber s c).pending = s.pending := by rfl
@[simp] theorem switchSchedule_pending (s : State) (c : Schedule) (pb : Bool) : (switchSchedule s c pb).pending = s.pending :=
  by simp [switchSchedule]
@[simp] theorem mismatch_pending (s : State) (pb : Bool) : (mismatch s pb).pending = s.pending := by simp [mismatch]
@[simp] theorem foreignReference_pending (s : State) (pb : Bool) : (foreignReference s pb).pending = s.pending :=
  by simp [foreignReference]
@[simp] theorem enterSync_pending (s : State) : (enterSync s).pending = s.pending := by simp [enterSync]
@[simp] theorem referenceNode_pending (s : State) (pb : Bool) (theta : Int) (consistent : Bool) :
    (referenceNode s pb theta consistent).pending = s.pending := by unfold referenceNode; (repeat' split) <;> simp
@[simp] theorem followReference_pending (s : State) (pb : Bool) (bs : List Byte) : (followReference s pb bs).pending = s.pending :=
  by simp [followReference]
@[simp] theorem receiveReference_pending (s : State) (pb : Bool) (bs : List Byte) : (receiveReference s pb bs).pending = s.pending :=
  by simp [receiveReference]
@[simp] theorem receiveColdstart_pending (s : State) (bs : List Byte) : (receiveColdstart s bs).pending = s.pending := by
  unfold receiveColdstart
  (repeat' split) <;> simp
@[simp] theorem listenExpiry_pending (s : State) : (listenExpiry s).pending = s.pending := by simp [listenExpiry]
@[simp] theorem contentionEnd_pending (s : State) : (contentionEnd s).pending = s.pending := by simp [contentionEnd]
@[simp] theorem referenceLoss_pending (s : State) (p : Option Bool) : (referenceLoss s p).pending = s.pending := by
  simp only [referenceLoss]
  (repeat' split) <;> simp
@[simp] theorem rankDeadline_pending (s : State) (pb : Bool) : (rankDeadline s pb).pending = s.pending := by
  unfold rankDeadline
  (repeat' split) <;> simp
@[simp] theorem freeDesc_pending (s : State) (id : Nat) : (freeDesc s id).pending = s.pending := by rfl
@[simp] theorem copyOut_pending (s : State) (d : Desc) (m lat : Nat) : (copyOut s d m lat).pending = s.pending := by rfl
@[simp] theorem endCopies_pending (s : State) (d : Desc) (t : Nat) : (endCopies s d t).pending = s.pending := by simp [endCopies]
@[simp] theorem restoreRun_pending (s : State) (d : Desc) : (restoreRun s d).pending = s.pending := by rfl
@[simp] theorem dropFrame_pending (s : State) (d : Desc) (t reason : Nat) : (dropFrame s d t reason).pending = s.pending :=
  by simp [dropFrame]
@[simp] theorem takeCells_pending (k : Nat) (s : State) : (takeCells k s).pending = s.pending := by
  induction k generalizing s with
  | zero => rfl
  | succ k ih => unfold takeCells; split <;> simp [ih]
@[simp] theorem settle_pending (s : State) : (settle s).pending = s.pending := by simp [settle]
@[simp] theorem violate_pending (s : State) (pb : Bool) (n kind device slot : Nat) :
    (violate s pb n kind device slot).pending = s.pending := by simp [violate]
@[simp] theorem clearRun_pending (s : State) (n : Nat) : (clearRun s n).pending = s.pending := by rfl
@[simp] theorem endQuarantine_pending (s : State) (n : Nat) : (endQuarantine s n).pending = s.pending := by rfl
@[simp] theorem forward_pending (s : State) (pb : Bool) (n : Nat) (egress : List Nat) (bs : List Byte) (queue : Bool)
    (ends : Option Nat) :
    (forward s pb n egress bs queue ends).pending = s.pending := by simp [forward]
@[simp] theorem reject_pending (s : State) : (reject s).pending = s.pending := by rfl
@[simp] theorem sendDelayReq_pending (s : State) (n : Nat) : (sendDelayReq s n).pending = s.pending := by simp [sendDelayReq]
@[simp] theorem takeDelayResp_pending (s : State) (n : Nat) (bs : List Byte) : (takeDelayResp s n bs).pending = s.pending := by
  unfold takeDelayResp
  (repeat' split) <;> simp
@[simp] theorem answerDelayReq_pending (s : State) (n : Nat) (bs : List Byte) : (answerDelayReq s n bs).pending = s.pending :=
  by simp [answerDelayReq]
@[simp] theorem sendGrant_pending (s : State) (pb : Bool) (b : Int) (n len : Nat) : (sendGrant s pb b n len).pending = s.pending := by
  unfold sendGrant
  dsimp only
  split
  · exact foldl_pending (fun s m => by simp) _ _
  · rfl
@[simp] theorem takeBack_pending (s : State) (n : Nat) : (takeBack s n).pending = s.pending := by rfl
@[simp] theorem ingressAlone_pending (s : State) (pb : Bool) (n : Nat) (bs : List Byte) :
    (ingressAlone s pb n bs).pending = s.pending := by unfold ingressAlone; (repeat' split) <;> simp
@[simp] theorem bestEffort_pending (s : State) (pb : Bool) (n : Nat) (bs : List Byte) : (bestEffort s pb n bs).pending = s.pending := by
  unfold bestEffort
  (repeat' split) <;> simp
@[simp] theorem claimIngress_pending (s : State) (pb : Bool) (n : Nat) (bs : List Byte) (b : Int) (e : SchedEntry) (d : Int) :
    (claimIngress s pb n bs b e d).pending = s.pending := by unfold claimIngress; (repeat' split) <;> simp
@[simp] theorem sluiceJudge_pending (s : State) (pb : Bool) (n : Nat) (bs : List Byte) : (sluiceJudge s pb n bs).pending = s.pending := by
  simp only [sluiceJudge]
  (repeat' split) <;> simp
@[simp] theorem frameIngress_pending (s : State) (n : Nat) (bs : List Byte) : (frameIngress s n bs).pending = s.pending := by
  unfold frameIngress
  (repeat' split) <;> simp
@[simp] theorem frameCut_pending (s : State) (n : Nat) (slotEnd : Bool) : (frameCut s n slotEnd).pending = s.pending := by
  simp only [frameCut]
  (repeat' split) <;> simp
@[simp] theorem quarantineEnd_pending (s : State) (n : Nat) : (quarantineEnd s n).pending = s.pending := by
  unfold quarantineEnd
  (repeat' split) <;> simp
@[simp] theorem openAgeExpiry_pending (s : State) (id : Nat) : (openAgeExpiry s id).pending = s.pending := by
  simp only [openAgeExpiry]
  (repeat' split) <;> simp
@[simp] theorem lastCopy_pending (s : State) (d : Desc) : (lastCopy s d).pending = s.pending := by
  simp only [lastCopy]
  (repeat' split) <;> simp
@[simp] theorem egressCopyLeft_pending (s : State) (x : EgressEnd) : (egressCopyLeft s x).pending = s.pending := by
  simp only [egressCopyLeft]
  (repeat' split) <;> simp
@[simp] theorem decideClaim_pending (s : State) (n : Nat) (bs : List Byte) : (decideClaim s n bs).pending = s.pending := by
  unfold decideClaim
  (repeat' split) <;> simp
@[simp] theorem endSlotClaim_pending (s : State) : (endSlotClaim s).pending = s.pending := by
  simp only [endSlotClaim]
  (repeat' split) <;> simp
@[simp] theorem followGrant_pending (s : State) (pb : Bool) (bs : List Byte) : (followGrant s pb bs).pending = s.pending :=
  by simp [followGrant]
@[simp] theorem receiveGrant_pending (s : State) (pb : Bool) (bs : List Byte) : (receiveGrant s pb bs).pending = s.pending :=
  by simp [receiveGrant]
@[simp] theorem leaseLapse_pending (s : State) (pb : Bool) (slot : Nat) : (leaseLapse s pb slot).pending = s.pending := by
  unfold leaseLapse
  (repeat' split) <;> simp
@[simp] theorem revokeLeases_pending (s : State) (n : Nat) : (revokeLeases s n).pending = s.pending := by simp [revokeLeases]
@[simp] theorem scheduleSwitch_pending (s : State) : (scheduleSwitch s).pending = s.pending := by simp [scheduleSwitch]
@[simp] theorem adoptSchedule_pending (s : State) : (adoptSchedule s).pending = s.pending := by simp [adoptSchedule]
@[simp] theorem execFlovisFrameIngress_waits (port : Fin 9) (bytes : List Byte) (s : State) :
    Waits s.pending (execFlovisFrameIngress port bytes s) := by simp [execFlovisFrameIngress]
@[simp] theorem execFrameCut_waits (port : Fin 9) (slotEnd : Bool) (s : State) : Waits s.pending (execFrameCut port slotEnd s) :=
  by simp [execFrameCut]
@[simp] theorem execQuarantineEnd_waits (port : Fin 9) (s : State) : Waits s.pending (execQuarantineEnd port s) :=
  by simp [execQuarantineEnd]
@[simp] theorem execReferenceReceive_waits (p : Plane) (bytes : List Byte) (s : State) :
    Waits s.pending (execReferenceReceive p bytes s) := by simp [execReferenceReceive]
@[simp] theorem execColdstartReceive_waits (p : Plane) (bytes : List Byte) (s : State) :
    Waits s.pending (execColdstartReceive p bytes s) := by simp [execColdstartReceive]
@[simp] theorem execListenTimerExpiry_waits (s : State) : Waits s.pending (execListenTimerExpiry s) := by simp [execListenTimerExpiry]
@[simp] theorem execContentionEnd_waits (s : State) : Waits s.pending (execContentionEnd s) := by simp [execContentionEnd]
@[simp] theorem execReferenceLoss_waits (p : Option Plane) (s : State) : Waits s.pending (execReferenceLoss p s) :=
  by simp [execReferenceLoss]
@[simp] theorem execSlotTransmit_waits (slot : Nat) (s : State) : Waits s.pending (execSlotTransmit slot s) := by simp [execSlotTransmit]
@[simp] theorem execRankDeadline_waits (p : Plane) (s : State) : Waits s.pending (execRankDeadline p s) := by simp [execRankDeadline]
@[simp] theorem execDelayReq_waits (port : Fin 9) (s : State) : Waits s.pending (execDelayReq port s) := by simp [execDelayReq]
@[simp] theorem execDelayResp_waits (port : Fin 9) (bytes : List Byte) (s : State) : Waits s.pending (execDelayResp port bytes s) :=
  by simp [execDelayResp]
@[simp] theorem execDelayReqReceive_waits (port : Fin 9) (bytes : List Byte) (s : State) :
    Waits s.pending (execDelayReqReceive port bytes s) := by simp [execDelayReqReceive]
@[simp] theorem execClaim_waits (port : Fin 9) (bytes : List Byte) (s : State) : Waits s.pending (execClaim port bytes s) :=
  by simp [execClaim]
@[simp] theorem execGrant_waits (p : Plane) (bytes : List Byte) (s : State) : Waits s.pending (execGrant p bytes s) := by simp [execGrant]
@[simp] theorem execLeaseLapse_waits (p : Plane) (slot : Nat) (s : State) : Waits s.pending (execLeaseLapse p slot s) :=
  by simp [execLeaseLapse]
@[simp] theorem execScheduleSwitch_waits (s : State) : Waits s.pending (execScheduleSwitch s) := by simp [execScheduleSwitch]
@[simp] theorem execOpenAgeExpiry_waits (desc : Nat) (s : State) : Waits s.pending (execOpenAgeExpiry desc s) :=
  by simp [execOpenAgeExpiry]
@[simp] theorem execEgressCopyLeft_waits (e : EgressEnd) (s : State) : Waits s.pending (execEgressCopyLeft e s) :=
  by simp [execEgressCopyLeft]

/-! ### The field -/

@[simp] theorem diagChange_pending (s : State) (ch : Nat) : (diagChange s ch).pending = s.pending := by simp [diagChange]
@[simp] theorem endTest_pending (s : State) (ch : Nat) (verdict : Option Bool) (answer : State → Mb → Nat → State)
    (hanswer : ∀ a0 a1 a2, (answer a0 a1 a2).pending = a0.pending) :
    (endTest s ch verdict answer).pending = s.pending := by simp only [endTest]; (repeat' split) <;> simp [*]
@[simp] theorem answerChTest_pending (s : State) (mb : Mb) (v : Nat) : (answerChTest s mb v).pending = s.pending := by simp [answerChTest]
@[simp] theorem clearOpen_pending (s : State) (ch mv ma : Nat) : (clearOpen s ch mv ma).pending = s.pending := by simp [clearOpen]
@[simp] theorem countHeld_pending (s : State) (ch : Nat) : (countHeld s ch).pending = s.pending := by simp [countHeld]
@[simp] theorem strobe_pending (s : State) (mv ma : List Nat) : (strobe s mv ma).pending = s.pending := by simp [strobe]
@[simp] theorem voteChannel_pending (s : State) (ch : Nat) : (voteChannel s ch).pending = s.pending := by simp [voteChannel]
@[simp] theorem voteAll_pending (s : State) : (voteAll s).pending = s.pending := by simp [voteAll]
@[simp] theorem startTests_pending (s : State) : (startTests s).pending = s.pending := by simp [startTests]
@[simp] theorem settleChTests_pending (s : State) : (settleChTests s).pending = s.pending := by simp [settleChTests]
@[simp] theorem sendDrive_pending (s : State) (l : Lane) : (sendDrive s l).pending = s.pending := by rfl
@[simp] theorem takeDrive_pending (s : State) (l : Lane) (good : Bool) : (takeDrive s l good).pending = s.pending := by
  simp only [takeDrive]
  (repeat' split) <;> simp
@[simp] theorem lockoutReport_pending (s : State) (l : Lane) (smp : SampleSet) : (lockoutReport s l smp).pending = s.pending :=
  by simp [lockoutReport]
@[simp] theorem takeSample_pending (s : State) (l : Lane) (good : Bool) : (takeSample s l good).pending = s.pending := by
  simp only [takeSample]
  (repeat' split) <;> simp
@[simp] theorem abandonTests_pending (s : State) (chs : List Nat) : (abandonTests s chs).pending = s.pending := by simp [abandonTests]
@[simp] theorem abandonGsw_pending (s : State) (g : Grp) : (abandonGsw s g).pending = s.pending := by simp [abandonGsw]
@[simp] theorem raiseChannel_pending (s : State) (sev : Nat) (code : BitVec 16) (ch : Nat) (arg0 : Nat := 0) :
    (raiseChannel s sev code ch arg0).pending = s.pending := by simp [raiseChannel]
@[simp] theorem tripOutput_pending (s : State) (ch : Nat) (temp limit : Bool) : (tripOutput s ch temp limit).pending = s.pending :=
  by simp [tripOutput]
@[simp] theorem fieldSelftest_pending (s : State) (bad : BitVec 32) (badA badB : Bool) :
    (fieldSelftest s bad badA badB).pending = s.pending := by simp [fieldSelftest]
@[simp] theorem keepDrive_pending (s : State) (l : Lane) (cmds : List (Nat × Word)) (isOpen : Bool) :
    (keepDrive s l cmds isOpen).pending = s.pending := by rfl
@[simp] theorem execSampleStrobe_waits (mv ma : List Nat) (s : State) : Waits s.pending (execSampleStrobe mv ma s) :=
  by simp [execSampleStrobe]
@[simp] theorem execStuck_waits (ch : Fin 32) (s : State) : Waits s.pending (execStuck ch s) := by
  simp only [execStuck]
  (repeat' split) <;> simp
@[simp] theorem execDriveFrameSend_waits (l : Lane) (s : State) : Waits s.pending (execDriveFrameSend l s) := by simp [execDriveFrameSend]
@[simp] theorem execDriveFrameReceive_waits (l : Lane) (good : Bool) (s : State) : Waits s.pending (execDriveFrameReceive l good s) :=
  by simp [execDriveFrameReceive]
@[simp] theorem execDriveLinkTimeout_waits (l : Lane) (s : State) : Waits s.pending (execDriveLinkTimeout l s) :=
  by simp [execDriveLinkTimeout]
@[simp] theorem execDisagree_waits (ch : Fin 32) (times : DisagreeTimes) (s : State) : Waits s.pending (execDisagree ch times s) := by
  simp only [execDisagree]
  (repeat' split) <;> simp
@[simp] theorem execSupplyFault_waits (g : Grp) (s : State) : Waits s.pending (execSupplyFault g s) := by
  unfold execSupplyFault
  (repeat' split) <;> simp
@[simp] theorem execSupplyGood_waits (g : Grp) (s : State) : Waits s.pending (execSupplyGood g s) := by
  unfold execSupplyGood
  (repeat' split) <;> simp
@[simp] theorem execGroupOverload_waits (g : Grp) (s : State) : Waits s.pending (execGroupOverload g s) := by simp [execGroupOverload]
@[simp] theorem execOverload_waits (ch : Fin 32) (limit : Bool) (s : State) : Waits s.pending (execOverload ch limit s) :=
  by simp [execOverload]
@[simp] theorem execOvertemp_waits (ch : Fin 32) (s : State) : Waits s.pending (execOvertemp ch s) := by simp [execOvertemp]
@[simp] theorem execTripLatchClear_waits (ch : Fin 32) (retry cool : Bool) (s : State) :
    Waits s.pending (execTripLatchClear ch retry cool s) := by simp only [execTripLatchClear]; (repeat' split) <;> simp
@[simp] theorem execOpenWire_waits (ch : Fin 32) (seen : OpenSense) (s : State) : Waits s.pending (execOpenWire ch seen s) := by
  simp only [execOpenWire]
  (repeat' split) <;> simp
@[simp] theorem execRbErr_waits (ch : Fin 32) (wrong : Bool) (s : State) : Waits s.pending (execRbErr ch wrong s) := by
  unfold execRbErr
  (repeat' split) <;> simp
@[simp] theorem execTestPeriod_waits (l : Lane) (ch : Fin 32) (s : State) : Waits s.pending (execTestPeriod l ch s) := by
  unfold execTestPeriod
  (repeat' split) <;> simp
@[simp] theorem execTestWidthExpiry_waits (ch : Fin 32) (s : State) : Waits s.pending (execTestWidthExpiry ch s) :=
  by simp [execTestWidthExpiry]
@[simp] theorem execTestOverdue_waits (ch : Fin 32) (s : State) : Waits s.pending (execTestOverdue ch s) := by
  unfold execTestOverdue
  (repeat' split) <;> simp
@[simp] theorem execGswTest_waits (g : Grp) (phase : GswPhase) (s : State) : Waits s.pending (execGswTest g phase s) := by
  unfold execGswTest
  (repeat' split) <;> simp

/-! ### The recorder's store -/

@[simp] theorem writeRecControl_pending (s : State) : (writeRecControl s).pending = s.pending := by simp [writeRecControl]
@[simp] theorem setRecReader_pending (s : State) (p : Port) (r : Reader) : (setRecReader s p r).pending = s.pending := by
  unfold setRecReader
  (repeat' split) <;> simp
@[simp] theorem readRecData_pending (s : State) (p : Port) : (readRecData s p).2.pending = s.pending := by simp [readRecData]
@[simp] theorem logWrite_pending (s : State) (x : FaultRec) : (logWrite s x).pending = s.pending := by simp [logWrite]
@[simp] theorem setFltReader_pending (s : State) (p : Port) (r : Reader) : (setFltReader s p r).pending = s.pending := by
  unfold setFltReader
  (repeat' split) <;> simp
@[simp] theorem readLogData_pending (s : State) (p : Port) : (readLogData s p).2.pending = s.pending := by simp [readLogData]
@[simp] theorem loadRecorder_pending (s : State) : (loadRecorder s).pending = s.pending := by
  simp only [loadRecorder]
  (repeat' split) <;> simp
@[simp] theorem loadLog_pending (s : State) : (loadLog s).pending = s.pending := by simp only [loadLog]; (repeat' split) <;> simp

/-! ### The registers -/

@[simp] theorem ackIrq_pending (s0 s : State) : (ackIrq s0 s).pending = s.pending := by simp [ackIrq]
@[simp] theorem refuse_pending (s : State) (k : Nat) : (refuse s k).pending = s.pending := by rfl
@[simp] theorem writePageCfg_pending (s : State) (n : Nat) (w : Word) : (writePageCfg s n w).pending = s.pending := by simp [writePageCfg]
@[simp] theorem readBrLog_pending (s : State) : (readBrLog s).2.pending = s.pending := by unfold readBrLog; (repeat' split) <;> simp
@[simp] theorem hostError_pending (s : State) (cause word : Nat) : (hostError s cause word).pending = s.pending := by rfl
@[simp] theorem readMbData_pending (s : State) (mb : Mb) : (readMbData s mb).2.pending = s.pending := by simp [readMbData]
@[simp] theorem writeMbData_pending (s : State) (mb : Mb) (src : Source) (w : Word) (drained : Nat) :
    (writeMbData s mb src w drained).pending = s.pending := by simp [writeMbData]
@[simp] theorem writeMbCmd_pending (s : State) (mb : Mb) (src : Source) (w : Word) : (writeMbCmd s mb src w).pending = s.pending :=
  by simp [writeMbCmd]
@[simp] theorem writeMbCtrl_pending (s : State) (mb : Mb) (src : Source) (w : Word) : (writeMbCtrl s mb src w).pending = s.pending :=
  by simp [writeMbCtrl]
@[simp] theorem writeMb_pending (s : State) (mb : Mb) (src : Source) (off : Nat) (w : Word) (drained : Nat) :
    (writeMb s mb src off w drained).pending = s.pending := by unfold writeMb; (repeat' split) <;> simp
@[simp] theorem readEffect_pending (s : State) (p : Port) (a : Nat) : (readEffect s p a).pending = s.pending := by simp [readEffect]
@[simp] theorem regRead_pending (s : State) (p : Port) (a : Nat) : (regRead s p a).2.pending = s.pending := by simp [regRead]
@[simp] theorem regWrite_pending (s : State) (p : Port) (node : Nat) (a : Nat) (w : Word) (drained : Nat) :
    (regWrite s p node a w drained).pending = s.pending := by simp [regWrite]

/-! ### The bridge's operations -/

@[simp] theorem pumpTrain_pending (n : Nat) (s : State) : (pumpTrain n s).pending = s.pending := by
  induction n generalizing s with
  | zero => rfl
  | succ k ih =>
    unfold pumpTrain
    dsimp only
    split
    · rfl
    · rw [ih]
      split <;> simp
@[simp] theorem pump_pending (s : State) : (pump s).pending = s.pending := by simp [pump]
@[simp] theorem issue_pending (s : State) (train : Bool) (node : Nat) (tag : Option Nat) (page : Nat) (body : List Byte) :
    (issue s train node tag page body).pending = s.pending := by simp [issue]
@[simp] theorem respond_pending (s : State) (node : Nat) (body : List Byte) : (respond s node body).pending = s.pending :=
  by simp [respond]
@[simp] theorem logBridge_pending (s : State) (code page node tag count remote : Nat) :
    (logBridge s code page node tag count remote).pending = s.pending := by simp [logBridge]
@[simp] theorem fence_pending (s : State) (node : Nat) : (fence s node).pending = s.pending := by simp [fence]
@[simp] theorem postError_pending (s : State) (node code : Nat) (p : PostSt) : (postError s node code p).pending = s.pending :=
  by simp [postError]
@[simp] theorem returnCredit_pending (s : State) (node tag code : Nat) : (returnCredit s node tag code).pending = s.pending := by
  unfold returnCredit
  (repeat' split) <;> simp
@[simp] theorem delayedTimeout_pending (s : State) (i : Nat) (e : DelayedEntry) : (delayedTimeout s i e).pending = s.pending :=
  by simp [delayedTimeout]
@[simp] theorem discardEntry_pending (s : State) (i : Nat) : (discardEntry s i).pending = s.pending := by
  unfold discardEntry
  (repeat' split) <;> simp
@[simp] theorem windowRefused_pending (s : State) (zero : List Word) : (windowRefused s zero).2.pending = s.pending := by rfl
@[simp] theorem newDelayed_pending (s : State) (page a k : Nat) (write : Bool) (data : List Word) :
    (newDelayed s page a k write data).pending = s.pending := by unfold newDelayed; (repeat' split) <;> simp
@[simp] theorem windowRead_pending (s : State) (a count : Nat) : (windowRead s a count).2.pending = s.pending := by
  simp only [windowRead]
  (repeat' split) <;> simp
@[simp] theorem windowPost_pending (s : State) (page a : Nat) (ws : List Word) : (windowPost s page a ws).2.pending = s.pending :=
  by simp [windowPost]
@[simp] theorem windowWrite_pending (s : State) (a : Nat) (ws : List Word) : (windowWrite s a ws).2.pending = s.pending := by
  simp only [windowWrite]
  (repeat' split) <;> simp
@[simp] theorem completeDelayed_pending (s : State) (node : Nat) (body : List Byte) :
    (completeDelayed s node body).pending = s.pending := by simp only [completeDelayed]; (repeat' split) <;> simp
@[simp] theorem adoptBridge_pending (s : State) : (adoptBridge s).pending = s.pending := by
  refine foldl_pending (fun s n => ?_) _ _
  dsimp only
  split
  · rfl
  · exact foldl_pending (fun s i => by (repeat' split) <;> simp) _ _
@[simp] theorem regReads_pending (p : Port) (addrs : List Nat) (s : State) : (regReads p addrs s).2.pending = s.pending := by
  induction addrs generalizing s with
  | nil => rfl
  | cons a l ih =>
    simp only [regReads, ih]
    split <;> simp
@[simp] theorem regWrites_pending (p : Port) (node drained : Nat) (writes : List (Nat × Word)) (s : State) :
    (regWrites p node drained writes s).pending = s.pending := by
  induction writes generalizing s with
  | nil => rfl
  | cons a l ih => simp [regWrites, ih]
@[simp] theorem performWrite_pending (s : State) (node : Nat) (b : List Byte) : (performWrite s node b).2.pending = s.pending :=
  by simp [performWrite]
@[simp] theorem answerAccess_pending (s : State) (node : Nat) (b : List Byte) : (answerAccess s node b).pending = s.pending :=
  by simp [answerAccess]
@[simp] theorem sendCredits_pending (n : Nat) (s : State) (node : Nat) (es : List (Nat × Nat)) :
    (sendCredits n s node es).pending = s.pending := by
  induction n generalizing s node es with
  | zero => rfl
  | succ k ih => simp [sendCredits, ih]
@[simp] theorem performPost_pending (s : State) (node : Nat) (b : List Byte) : (performPost s node b).2.pending = s.pending :=
  by simp [performPost]
@[simp] theorem drainHeld_pending (n : Nat) (s : State) (node : Nat) (es : List (Nat × Nat)) :
    (drainHeld n s node es).2.pending = s.pending := by
  induction n generalizing s es with
  | zero => rfl
  | succ k ih =>
    simp only [drainHeld]
    repeat' split
    all_goals simp [ih]
@[simp] theorem releaseWaits_pending (s : State) (node : Nat) : (releaseWaits s node).pending = s.pending := by simp [releaseWaits]
@[simp] theorem settleSource_pending (s : State) (node : Nat) (es : List (Nat × Nat)) : (settleSource s node es).pending = s.pending :=
  by simp [settleSource]
@[simp] theorem takeRequest_pending (s : State) (node : Nat) (b : List Byte) : (takeRequest s node b).pending = s.pending := by
  simp only [takeRequest]
  (repeat' split) <;> simp
@[simp] theorem reportGap_pending (s : State) (node : Nat) : (reportGap s node).pending = s.pending := by simp [reportGap]
@[simp] theorem takeResync_pending (s : State) (node tag : Nat) : (takeResync s node tag).pending = s.pending := by simp [takeResync]

/-! ### The bridge -/

@[simp] theorem execFenceClear_waits (mb : Mb) (s : State) : Waits s.pending (execFenceClear mb s) := by simp [execFenceClear]
@[simp] theorem execFenceClearTimeout_waits (mb : Mb) (s : State) : Waits s.pending (execFenceClearTimeout mb s) := by
  unfold execFenceClearTimeout
  (repeat' split) <;> simp
@[simp] theorem resyncDone_pending (s : State) (node tag : Nat) : (resyncDone s node tag).pending = s.pending := by
  unfold resyncDone
  (repeat' split) <;> simp
@[simp] theorem execResyncDone_waits (node tag : Nat) (s : State) : Waits s.pending (execResyncDone node tag s) :=
  by simp [execResyncDone]
@[simp] theorem takeCredits_pending (s : State) (node : Nat) (body : List Byte) : (takeCredits s node body).pending = s.pending :=
  by simp [takeCredits]
@[simp] theorem execCredit_waits (node : Nat) (body : List Byte) (s : State) : Waits s.pending (execCredit node body s) :=
  by simp [execCredit]
@[simp] theorem execRemoteAccessResponse_waits (node : Nat) (body : List Byte) (s : State) :
    Waits s.pending (execRemoteAccessResponse node body s) := by simp [execRemoteAccessResponse]
@[simp] theorem takeResponse_pending (s : State) (node : Nat) (body : List Byte) : (takeResponse s node body).pending = s.pending := by
  unfold takeResponse
  (repeat' split) <;> simp
@[simp] theorem execResync_waits (node tag : Nat) (s : State) : Waits s.pending (execResync node tag s) := by simp [execResync]
@[simp] theorem execInboundRequest_waits (node : Nat) (body : List Byte) (s : State) :
    Waits s.pending (execInboundRequest node body s) := by simp [execInboundRequest]
@[simp] theorem execSeqGap_waits (node : Nat) (s : State) : Waits s.pending (execSeqGap node s) := by simp [execSeqGap]
@[simp] theorem arriveRequest_pending (s : State) (node : Nat) (body : List Byte) : (arriveRequest s node body).pending = s.pending :=
  by simp [arriveRequest]
@[simp] theorem execReqTimeout_waits (what : BridgeWait) (s : State) : Waits s.pending (execReqTimeout what s) := by
  unfold execReqTimeout
  (repeat' split) <;> simp
@[simp] theorem execDiscardMs_waits (entry : Fin 16) (s : State) : Waits s.pending (execDiscardMs entry s) := by simp [execDiscardMs]
@[simp] theorem tunnelRecord_pending (s : State) (sev : Nat) (code : BitVec 16) (unit : Nat) (on : Bool) :
    (tunnelRecord s sev code unit on).pending = s.pending := by simp [tunnelRecord]
@[simp] theorem execTunnelOpen_waits (mb : Mb) (s : State) : Waits s.pending (execTunnelOpen mb s) := by simp [execTunnelOpen]
@[simp] theorem execTunnelClose_waits (mb : Mb) (s : State) : Waits s.pending (execTunnelClose mb s) := by simp [execTunnelClose]
@[simp] theorem execForeignFrameReceive_waits (iface : Fin 4) (f : ForeignFrame) (ago : Nat) (s : State) :
    Waits s.pending (execForeignFrameReceive iface f ago s) := by unfold execForeignFrameReceive; (repeat' split) <;> simp
@[simp] theorem takeTunnel_pending (s : State) (node : Nat) (b : List Byte) : (takeTunnel s node b).pending = s.pending := by
  unfold takeTunnel
  (repeat' split) <;> simp
@[simp] theorem execTunnelContainerReceive_waits (node : Nat) (body : List Byte) (s : State) :
    Waits s.pending (execTunnelContainerReceive node body s) := by simp [execTunnelContainerReceive]
@[simp] theorem execReplay_waits (ep : Fin 32) (ok : Bool) (s : State) : Waits s.pending (execReplay ep ok s) := by
  unfold execReplay
  (repeat' split) <;> simp
@[simp] theorem execBusOff_waits (iface : Fin 4) (entered : Bool) (s : State) : Waits s.pending (execBusOff iface entered s) :=
  by simp [execBusOff]

/-! ### The recorder -/

@[simp] theorem takeRecSeq_pending (s : State) : (takeRecSeq s).2.pending = s.pending := by simp [takeRecSeq]
@[simp] theorem stage_pending (s : State) (r : RecRecord) : (stage s r).pending = s.pending := by simp [stage]
@[simp] theorem moduleRecord_pending (s : State) (ident : Nat) (words : List Word) : (moduleRecord s ident words).pending = s.pending :=
  by simp [moduleRecord]
@[simp] theorem fireDef_pending (s : State) (d : RecDef) (harvest : DWord) (stepped late : Bool) :
    (fireDef s d harvest stepped late).pending = s.pending := by simp [fireDef]
@[simp] theorem fireMode_pending (s : State) : (fireMode s).pending = s.pending := by simp [fireMode]
@[simp] theorem fireFault_pending (s : State) (sev : Nat) : (fireFault s sev).pending = s.pending := by simp [fireFault]
@[simp] theorem fireTrigger_pending (s : State) (defn : Nat) (stepped late : Bool) :
    (fireTrigger s defn stepped late).pending = s.pending := by simp [fireTrigger]
@[simp] theorem step7_pending (s : State) (harvest : DWord) (t : Nat) (reqs : List Nat) :
    (step7 s harvest t reqs).pending = s.pending := by
  refine (foldl_pending (fun s k => foldl_pending (fun s d => ?_) _ _) _ _).trans (by simp)
  repeat' split
  · exact foldl_pending (fun s _ => by simp) _ _
  · simp
  · rfl
@[simp] theorem wantFlush_pending (s : State) : (wantFlush s).pending = s.pending := by rfl
@[simp] theorem placePowerfail_pending (s : State) : (placePowerfail s).pending = s.pending := by
  unfold placePowerfail
  (repeat' split) <;> simp
@[simp] theorem moveStaged_pending (s : State) : (moveStaged s).pending = s.pending := by simp only [moveStaged]; (repeat' split) <;> simp
@[simp] theorem startFlush_pending (s : State) : (startFlush s).pending = s.pending := by simp [startFlush]
@[simp] theorem endFlushWaits_pending (s : State) : (endFlushWaits s).pending = s.pending := by simp [endFlushWaits]
@[simp] theorem writeRecord_pending (s : State) : (writeRecord s).pending = s.pending := by unfold writeRecord; (repeat' split) <;> simp
@[simp] theorem execStagedMove_waits (s : State) : Waits s.pending (execStagedMove s) := by simp [execStagedMove]
@[simp] theorem execFlushStart_waits (s : State) : Waits s.pending (execFlushStart s) := by simp [execFlushStart]
@[simp] theorem execRecordAge_waits (s : State) : Waits s.pending (execRecordAge s) := by unfold execRecordAge; (repeat' split) <;> simp
@[simp] theorem settleFault_pending (s : State) (x : FaultRec) (w1 w2 : Bool) : (settleFault s x w1 w2).pending = s.pending :=
  by simp [settleFault]
@[simp] theorem finishFault_pending (s : State) (w1 w2 : Bool) : (finishFault s w1 w2).pending = s.pending := by
  simp only [finishFault]
  (repeat' split) <;> simp
@[simp] theorem handleHub_pending (s : State) (hold w1 w2 : Bool) : (handleHub s hold w1 w2).pending = s.pending := by
  simp only [handleHub]
  (repeat' split) <;> simp
@[simp] theorem handleLane_pending (s : State) (l : Lane) : (handleLane s l).pending = s.pending := by
  unfold handleLane
  (repeat' split) <;> simp
@[simp] theorem execFaultRecord_waits (f : FaultIn) (s : State) : Waits s.pending (execFaultRecord f s) := by simp [execFaultRecord]
@[simp] theorem execFaultHandle_waits (r : Region) (hold w1 w2 : Bool) (s : State) : Waits s.pending (execFaultHandle r hold w1 w2 s) := by
  unfold execFaultHandle
  (repeat' split) <;> simp
@[simp] theorem execLedgerImbalance_waits (row : Fin 9) (s : State) : Waits s.pending (execLedgerImbalance row s) :=
  by simp [execLedgerImbalance]

/-! ### The modes -/

@[simp] theorem abandonSwitch_pending (s : State) : (abandonSwitch s).pending = s.pending := by
  unfold abandonSwitch
  (repeat' split) <;> simp
@[simp] theorem startPairing_pending (s : State) : (startPairing s).pending = s.pending := by rfl
@[simp] theorem setMode_pending (s : State) (m : Mode) (record : Option Nat) (left : Nat) :
    (setMode s m record left).pending = s.pending := by unfold setMode; (repeat' split) <;> simp
@[simp] theorem setLatches_pending (s : State) : (setLatches s).pending = s.pending := by rfl
@[simp] theorem failInFlight_pending (s : State) : (failInFlight s).pending = s.pending := by simp [failInFlight]
@[simp] theorem abortSwap_pending (s : State) : (abortSwap s).pending = s.pending := by unfold abortSwap; (repeat' split) <;> simp
@[simp] theorem discardActivation_pending (s : State) : (discardActivation s).pending = s.pending := by
  unfold discardActivation
  (repeat' split) <;> simp
@[simp] theorem resetVoter_pending (s : State) : (resetVoter s).pending = s.pending := by rfl
@[simp] theorem enterHalted_pending (s : State) (left : Nat) : (enterHalted s left).pending = s.pending := by simp [enterHalted]
@[simp] theorem toExcluded_pending (s : State) (l : Lane) (counts : Bool) : (toExcluded s l counts).pending = s.pending := by rfl
@[simp] theorem resetLanes_pending (s : State) : (resetLanes s).pending = s.pending := by rfl
@[simp] theorem countRestart_pending (s : State) : (countRestart s).pending = s.pending := by rfl
@[simp] theorem startRestart_pending (s : State) : (startRestart s).pending = s.pending := by simp [startRestart]
@[simp] theorem holdAll_pending (s : State) : (holdAll s).pending = s.pending := by simp [holdAll]
@[simp] theorem enterSafe_pending (s : State) (left : Nat := 0) : (enterSafe s left).pending = s.pending := by simp [enterSafe]
@[simp] theorem excludeLane_pending (s : State) (l : Lane) (event : BitVec 16) (arg0 : Nat) :
    (excludeLane s l event arg0).pending = s.pending := by simp [excludeLane]
@[simp] theorem failRejoin_pending (s : State) (l : Lane) (event : BitVec 16) (arg0 : Nat) :
    (failRejoin s l event arg0).pending = s.pending := by simp [failRejoin]
@[simp] theorem execSupervisorWatchdog_waits (s : State) : Waits s.pending (execSupervisorWatchdog s) := by simp [execSupervisorWatchdog]
@[simp] theorem execSupervisorRestarted_waits (s : State) : Waits s.pending (execSupervisorRestarted s) :=
  by simp [execSupervisorRestarted]
@[simp] theorem execHubThermalTrip_waits (s : State) : Waits s.pending (execHubThermalTrip s) := by
  unfold execHubThermalTrip
  (repeat' split) <;> simp
@[simp] theorem execLaneThermalTrip_waits (l : Lane) (s : State) : Waits s.pending (execLaneThermalTrip l s) := by
  simp only [execLaneThermalTrip]
  (repeat' split) <;> simp
@[simp] theorem execLaneJunctionCooled_waits (l : Lane) (s : State) : Waits s.pending (execLaneJunctionCooled l s) :=
  by simp [execLaneJunctionCooled]

/-! ### The train -/

@[simp] theorem setPtpState_pending (s : State) (x : PtpState) : (setPtpState s x).pending = s.pending := by simp [setPtpState]
@[simp] theorem restartPtp_pending (s : State) : (restartPtp s).pending = s.pending := by simp [restartPtp]
@[simp] theorem decidePtp_pending (s : State) : (decidePtp s).pending = s.pending := by unfold decidePtp; (repeat' split) <;> simp
@[simp] theorem takeAnnounce_pending (s : State) (m : PtpAnnounceMsg) : (takeAnnounce s m).pending = s.pending := by simp [takeAnnounce]
@[simp] theorem announceTimeout_pending (s : State) : (announceTimeout s).pending = s.pending := by simp [announceTimeout]
@[simp] theorem takeSync_pending (s : State) (m : PtpSyncMsg) : (takeSync s m).pending = s.pending := by simp [takeSync]
@[simp] theorem takeDelay_pending (s : State) (m : PtpDelayMsg) : (takeDelay s m).pending = s.pending := by simp [takeDelay]
@[simp] theorem sendPtp_pending (s : State) (kind : PtpKind) (seq : Nat) (time : Int) (fields : List Int) :
    (sendPtp s kind seq time fields).pending = s.pending := by simp [sendPtp]
@[simp] theorem masterSend_pending (s : State) (isAnnounce : Bool) : (masterSend s isAnnounce).pending = s.pending := by simp [masterSend]
@[simp] theorem delayRequestSend_pending (s : State) : (delayRequestSend s).pending = s.pending := by simp [delayRequestSend]
@[simp] theorem delayRequestReceive_pending (s : State) (port : Nat) (r : PtpReq) (t : DWord) :
    (delayRequestReceive s port r t).pending = s.pending := by simp [delayRequestReceive]
@[simp] theorem portAltMove_pending (s : State) : (portAltMove s).pending = s.pending := by simp [portAltMove]
@[simp] theorem portReturn_pending (s : State) : (portReturn s).pending = s.pending := by simp [portReturn]
@[simp] theorem takeTopology_pending (s : State) (m : TopologyMsg) : (takeTopology s m).pending = s.pending := by simp [takeTopology]
@[simp] theorem topologyTimeout_pending (s : State) : (topologyTimeout s).pending = s.pending := by simp [topologyTimeout]
@[simp] theorem linkChange_pending (s : State) (n speed : Nat) : (linkChange s n speed).pending = s.pending := by simp [linkChange]
@[simp] theorem arpExpire_pending (s : State) (ip : Word) (unresolved : Bool) : (arpExpire s ip unresolved).pending = s.pending :=
  by simp [arpExpire]
@[simp] theorem arpFrame_pending (s : State) (request : Bool) (ip target : Word) (mac : BitVec 48) :
    (arpFrame s request ip target mac).pending = s.pending := by unfold arpFrame; (repeat' split) <;> simp
@[simp] theorem nextPd_pending (s : State) (comId dst : Word) : (nextPd s comId dst).2.pending = s.pending := by
  unfold nextPd
  (repeat' split) <;> simp
@[simp] theorem sendPd_pending (s : State) (kind : String) (dst comId : Word) (body : List Byte) :
    (sendPd s kind dst comId body).pending = s.pending := by simp [sendPd]
@[simp] theorem sendSafePd_pending (s : State) (g : SigGroup) : (sendSafePd s g).pending = s.pending :=
  by simp [sendSafePd]; (repeat' split) <;> simp [*]
@[simp] theorem sendGroupPd_pending (s : State) (g : SigGroup) : (sendGroupPd s g).pending = s.pending := by simp [sendGroupPd]
@[simp] theorem publishTrdp_pending (s : State) (g : Nat) : (publishTrdp s g).pending = s.pending := by
  unfold publishTrdp
  (repeat' split) <;> simp
@[simp] theorem dropIp_pending (s : State) (h : IpHead) : (dropIp s h).pending = s.pending := by rfl
@[simp] theorem dropPd_pending (s : State) : (dropPd s).pending = s.pending := by rfl
@[simp] theorem keepSafe_pending (s : State) (conn : Nat) (pb : Bool) (bs : List Byte) : (keepSafe s conn pb bs).pending = s.pending :=
  by simp [keepSafe]
@[simp] theorem safeArrive_pending (s : State) (pb : Bool) (bs : List Byte) : (safeArrive s pb bs).pending = s.pending := by
  unfold safeArrive
  (repeat' split) <;> simp
@[simp] theorem receivePd_pending (s : State) (line : Nat) (h : PdHeader) (data : List Byte) :
    (receivePd s line h data).pending = s.pending := by unfold receivePd; (repeat' split) <;> simp
@[simp] theorem receivePr_pending (s : State) (line : Nat) (src : Word) (h : PdHeader) : (receivePr s line src h).pending = s.pending := by
  simp only [receivePr]
  (repeat' split) <;> simp
@[simp] theorem receiveMd_pending (s : State) (src comId : Word) (data : List Byte) (answer : Bool) :
    (receiveMd s src comId data answer).pending = s.pending := by simp [receiveMd]
@[simp] theorem reassemble_pending (s : State) (src : Word) (x : IpPiece) (bytes : List Byte) :
    (reassemble s src x bytes).2.pending = s.pending := by simp only [reassemble]; (repeat' split) <;> simp
@[simp] theorem arriveMd_pending (s : State) (src comId : Word) (m : MdData) (answer : Bool) :
    (arriveMd s src comId m answer).pending = s.pending := by
  unfold arriveMd
  split
  · rfl
  · split
    · rfl
    · split
      · simp
      · next x hx =>
        have hpart := reassemble_pending s src x m.bytes
        split
        · next whole u hw => rw [hw] at hpart; simpa using hpart
        · next u hw => rw [hw] at hpart; exact hpart
@[simp] theorem reassemblyTimeout_pending (s : State) (ident : Nat) : (reassemblyTimeout s ident).pending = s.pending := by rfl
@[simp] theorem execPtpSync_waits (m : PtpSyncMsg) (s : State) : Waits s.pending (execPtpSync m s) := by simp [execPtpSync]
@[simp] theorem execPtpDelayResp_waits (m : PtpDelayMsg) (s : State) : Waits s.pending (execPtpDelayResp m s) :=
  by simp [execPtpDelayResp]
@[simp] theorem execAnnounce_waits (m : PtpAnnounceMsg) (s : State) : Waits s.pending (execAnnounce m s) := by simp [execAnnounce]
@[simp] theorem execAnnounceReceiptTimeout_waits (s : State) : Waits s.pending (execAnnounceReceiptTimeout s) :=
  by simp [execAnnounceReceiptTimeout]
@[simp] theorem execPortAltMove_waits (s : State) : Waits s.pending (execPortAltMove s) := by simp [execPortAltMove]
@[simp] theorem execPortReturn_waits (s : State) : Waits s.pending (execPortReturn s) := by simp [execPortReturn]
@[simp] theorem execPtpMasterSend_waits (isAnnounce : Bool) (s : State) : Waits s.pending (execPtpMasterSend isAnnounce s) :=
  by simp [execPtpMasterSend]
@[simp] theorem execPtpDelayRequestSend_waits (s : State) : Waits s.pending (execPtpDelayRequestSend s) :=
  by simp [execPtpDelayRequestSend]
@[simp] theorem execPtpDelayRequestReceive_waits (port : Nat) (req : PtpReq) (t : DWord) (s : State) :
    Waits s.pending (execPtpDelayRequestReceive port req t s) := by simp [execPtpDelayRequestReceive]
@[simp] theorem execTopology_waits (line : Fin 2) (m : TopologyMsg) (s : State) : Waits s.pending (execTopology line m s) :=
  by simp [execTopology]
@[simp] theorem execTopologyTimeout_waits (s : State) : Waits s.pending (execTopologyTimeout s) := by simp [execTopologyTimeout]
@[simp] theorem execEthernetLinkChange_waits (port : Fin 11) (speed : Nat) (s : State) :
    Waits s.pending (execEthernetLinkChange port speed s) := by simp [execEthernetLinkChange]
@[simp] theorem execArpExpiry_waits (ip : Word) (unresolved : Bool) (s : State) : Waits s.pending (execArpExpiry ip unresolved s) :=
  by simp [execArpExpiry]
@[simp] theorem execReassemblyTimeout_waits (id : Nat) (s : State) : Waits s.pending (execReassemblyTimeout id s) :=
  by simp [execReassemblyTimeout]
@[simp] theorem execArpFrame_waits (request : Bool) (ip target : Word) (mac : BitVec 48) (s : State) :
    Waits s.pending (execArpFrame request ip target mac s) := by simp [execArpFrame]
@[simp] theorem execIcmpEchoRequest_waits (src dst : Word) (data : EchoMsg) (s : State) :
    Waits s.pending (execIcmpEchoRequest src dst data s) := by simp [execIcmpEchoRequest]
@[simp] theorem execIgmpQuery_waits (line : Fin 3) (s : State) : Waits s.pending (execIgmpQuery line s) := by
  unfold execIgmpQuery
  (repeat' split) <;> simp
@[simp] theorem execTrdpPdReceive_waits (line : Fin 3) (h : PdHeader) (data : List Byte) (s : State) :
    Waits s.pending (execTrdpPdReceive line h data s) := by simp [execTrdpPdReceive]
@[simp] theorem execTrdpPrReceive_waits (line : Fin 3) (src : Word) (h : PdHeader) (s : State) :
    Waits s.pending (execTrdpPrReceive line src h s) := by simp [execTrdpPrReceive]
@[simp] theorem execTrdpPublish_waits (g : Nat) (s : State) : Waits s.pending (execTrdpPublish g s) := by simp [execTrdpPublish]
@[simp] theorem execTrdpMrReceive_waits (src comId : Word) (data : MdData) (s : State) :
    Waits s.pending (execTrdpMrReceive src comId data s) := by simp [execTrdpMrReceive]
@[simp] theorem execTrdpMnReceive_waits (src comId : Word) (data : MdData) (s : State) :
    Waits s.pending (execTrdpMnReceive src comId data s) := by simp [execTrdpMnReceive]
@[simp] theorem execSafeTelegramReceive_waits (p : Plane) (bytes : List Byte) (s : State) :
    Waits s.pending (execSafeTelegramReceive p bytes s) := by simp [execSafeTelegramReceive]

/-! ### Power -/

@[simp] theorem latchPwr_pending (s : State) : (latchPwr s).pending = s.pending := by simp [latchPwr]
@[simp] theorem powerRecord_pending (s : State) (sev : Nat) (code : BitVec 16) (loc arg0 : Nat) :
    (powerRecord s sev code loc arg0).pending = s.pending := by simp [powerRecord]
@[simp] theorem powerDone_pending (s0 s : State) : (powerDone s0 s).pending = s.pending := by simp [powerDone]
@[simp] theorem fieldOff_pending (s : State) : (fieldOff s).pending = s.pending := by simp [fieldOff]
@[simp] theorem lanesOff_pending (s : State) : (lanesOff s).pending = s.pending := by rfl
@[simp] theorem soundOff_pending (s : State) : (soundOff s).pending = s.pending := by rfl
@[simp] theorem netOff_pending (s : State) : (netOff s).pending = s.pending := by unfold netOff; (repeat' split) <;> simp
@[simp] theorem hubReset_pending (s : State) : (hubReset s).pending = s.pending := by rfl
@[simp] theorem drainRecorder_pending (n : Nat) (s : State) : (drainRecorder n s).pending = s.pending := by
  induction n generalizing s with
  | zero => rfl
  | succ k ih => simp [drainRecorder, ih]
@[simp] theorem drainFaults_pending (n : Nat) (s : State) : (drainFaults n s).pending = s.pending := by
  induction n generalizing s with
  | zero => rfl
  | succ k ih => simp [drainFaults, ih]
@[simp] theorem forceRecord_pending (s : State) (cause : Nat) (f : Force) : (forceRecord s cause f).pending = s.pending :=
  by simp [forceRecord]
@[simp] theorem dropForces_pending (s : State) (cause : Nat) (p : Force → Bool) : (dropForces s cause p).pending = s.pending :=
  by simp [dropForces]
@[simp] theorem readControl_pending (s : State) : (readControl s).pending = s.pending := by simp [readControl]
@[simp] theorem hubOff_pending (s : State) : (hubOff s).pending = s.pending := by simp [hubOff]
@[simp] theorem startStep_pending (s : State) (k : Nat) : (startStep s k).pending = s.pending := by
  unfold startStep
  (repeat' split) <;> simp
@[simp] theorem beginShed_pending (s : State) (m : BitVec 8) : (beginShed s m).pending = s.pending := by
  unfold beginShed
  (repeat' split) <;> simp
@[simp] theorem reviewIdle_pending (s : State) : (reviewIdle s).pending = s.pending := by simp [reviewIdle]
@[simp] theorem review_pending (s : State) : (review s).pending = s.pending := by unfold review; (repeat' split) <;> simp
@[simp] theorem markStuck_pending (s : State) : (markStuck s).pending = s.pending := by simp [markStuck]
@[simp] theorem stepWork_pending (s : State) (k : Nat) (m : Byte) : (stepWork s k m).pending = s.pending := by simp [stepWork]
@[simp] theorem stepEnd_pending (s : State) (k : Nat) (m : Byte) : (stepEnd s k m).pending = s.pending := by simp [stepEnd]
@[simp] theorem endStep_pending (s : State) (k : Nat) : (endStep s k).pending = s.pending := by simp [endStep]
@[simp] theorem execDomainShedStep_waits (s : State) : Waits s.pending (execDomainShedStep s) := by
  unfold execDomainShedStep
  (repeat' split) <;> simp
@[simp] theorem shedAtStep8_pending (s : State) : (shedAtStep8 s).pending = s.pending := by simp [shedAtStep8]
@[simp] theorem setVote_pending (s : State) (client : Nat) (mask : Byte) : (setVote s client mask).pending = s.pending :=
  by simp [setVote]
@[simp] theorem wake_pending (s : State) (cause : Nat) (inputs : Byte) : (wake s cause inputs).pending = s.pending := by simp [wake]
@[simp] theorem execWakePortStop_waits (tx : WakeTx) (s : State) : Waits s.pending (execWakePortStop tx s) := by
  simp only [execWakePortStop]
  (repeat' split) <;> simp
@[simp] theorem execWakeInput_waits (ch : Fin 8) (s : State) : Waits s.pending (execWakeInput ch s) := by
  simp only [execWakeInput]
  (repeat' split) <;> simp
@[simp] theorem execWakeStuckClear_waits (ch : Fin 8) (s : State) : Waits s.pending (execWakeStuckClear ch s) :=
  by simp [execWakeStuckClear]
@[simp] theorem execAonTick_waits (s : State) : Waits s.pending (execAonTick s) := by unfold execAonTick; (repeat' split) <;> simp
@[simp] theorem execWakeFrame_waits (payload : List Byte) (s : State) : Waits s.pending (execWakeFrame payload s) := by
  unfold execWakeFrame
  (repeat' split) <;> simp
@[simp] theorem execWakeHoldExpiry_waits (s : State) : Waits s.pending (execWakeHoldExpiry s) := by simp [execWakeHoldExpiry]
@[simp] theorem execPartnerVoteLoss_waits (s : State) : Waits s.pending (execPartnerVoteLoss s) := by
  unfold execPartnerVoteLoss
  (repeat' split) <;> simp
@[simp] theorem execMinOnExpiry_waits (d : Fin 5) (s : State) : Waits s.pending (execMinOnExpiry d s) := by
  simp only [execMinOnExpiry]
  (repeat' split) <;> simp
@[simp] theorem execDutyWatchCycle_waits (mv : List (List Nat)) (bs : List Bool) (s : State) :
    Waits s.pending (execDutyWatchCycle mv bs s) := by simp only [execDutyWatchCycle]; (repeat' split) <;> simp
@[simp] theorem restored_pending (s : State) (m : BitVec 8) (idx : Nat) : (restored s m idx).pending = s.pending := by rfl
@[simp] theorem writeOwed_pending (s : State) : (writeOwed s).pending = s.pending := by simp [writeOwed]
@[simp] theorem hubOn_pending (s : State) : (hubOn s).pending = s.pending := by rfl
@[simp] theorem laneOn_pending (s : State) (l : Lane) (fail : Option Nat) (retired : List (Fin 16 × Fin 16)) :
    (laneOn s l fail retired).pending = s.pending := by unfold laneOn; (repeat' split) <;> simp
@[simp] theorem restoreWork_pending (s : State) (res : RestoreResult) : (restoreWork s res).pending = s.pending := by
  unfold restoreWork
  (repeat' split) <;> simp
@[simp] theorem endRestore_pending (s : State) (res : RestoreResult) : (endRestore s res).pending = s.pending := by simp [endRestore]
@[simp] theorem execDomainRestore_waits (res : RestoreResult) (s : State) : Waits s.pending (execDomainRestore res s) :=
  by simp [execDomainRestore]
@[simp] theorem goOff_pending (s : State) : (goOff s).pending = s.pending := by rfl
@[simp] theorem failPower_pending (s : State) (vsys : Bool) : (failPower s vsys).pending = s.pending := by simp [failPower]
@[simp] theorem execPowerFail_waits (vsys : Bool) (s : State) : Waits s.pending (execPowerFail vsys s) := by
  unfold execPowerFail
  (repeat' split) <;> simp
@[simp] theorem execFlushRecordWritten_waits (s : State) : Waits s.pending (execFlushRecordWritten s) := by
  simp only [execFlushRecordWritten]
  (repeat' split) <;> simp
@[simp] theorem execVholdExhausted_waits (s : State) : Waits s.pending (execVholdExhausted s) := by
  unfold execVholdExhausted
  (repeat' split) <;> simp
@[simp] theorem execPowerReturn_waits (vsysMv : Nat) (s : State) : Waits s.pending (execPowerReturn vsysMv s) := by
  unfold execPowerReturn
  (repeat' split) <;> simp

/-! ### Triggers -/

@[simp] theorem armTrigger_pending (s : State) (n : Nat) (owner : TrigOwner) (g : Trigger) (keep : Bool) :
    (armTrigger s n owner g keep).pending = s.pending := by rfl
@[simp] theorem cancelTrigger_pending (s : State) (n : Nat) : (cancelTrigger s n).pending = s.pending := by rfl
@[simp] theorem programArm_pending (s : State) (p : Program) (n arg : Nat) (value period : DWord) :
    (programArm s p n arg value period).pending = s.pending := by simp [programArm]
@[simp] theorem performFiring_pending (s : State) (n : Nat) (r : FiringReport) : (performFiring s n r).pending = s.pending := by
  simp only [performFiring]
  (repeat' split) <;> simp
@[simp] theorem execTriggerFiring_waits (n : Fin 64) (s : State) : Waits s.pending (execTriggerFiring n s) := by
  unfold execTriggerFiring
  (repeat' split) <;> simp

/-! ### Slots -/

@[simp] theorem slotWrite_pending (s : State) (img : Bool) (k off : Nat) (bs : List Byte) :
    (slotWrite s img k off bs).pending = s.pending := by simp [slotWrite]
@[simp] theorem slotErase_pending (s : State) (img : Bool) (k : Nat) : (slotErase s img k).pending = s.pending := by simp [slotErase]
@[simp] theorem setSlotState_pending (s : State) (img : Bool) (k x : Nat) : (setSlotState s img k x).pending = s.pending :=
  by simp [setSlotState]
@[simp] theorem makeActive_pending (s : State) (img : Bool) (k : Nat) : (makeActive s img k).pending = s.pending := by simp [makeActive]
@[simp] theorem setLoad_pending (s : State) (img : Bool) (l : Option Load) : (setLoad s img l).pending = s.pending := by simp [setLoad]
@[simp] theorem beginLoad_pending (s : State) (mb : Mb) (img : Bool) (ws : List Word) : (beginLoad s mb img ws).pending = s.pending :=
  by simp [beginLoad]
@[simp] theorem dataLoad_pending (s : State) (mb : Mb) (img : Bool) (ws : List Word) : (dataLoad s mb img ws).pending = s.pending := by
  unfold dataLoad
  (repeat' split) <;> simp
@[simp] theorem endLoad_pending (s : State) (mb : Mb) (img : Bool) : (endLoad s mb img).pending = s.pending := by
  simp only [endLoad]
  (repeat' split) <;> simp
@[simp] theorem execProgBegin_waits (mb : Mb) (s : State) : Waits s.pending (execProgBegin mb s) := by simp [execProgBegin]
@[simp] theorem execProgData_waits (mb : Mb) (s : State) : Waits s.pending (execProgData mb s) := by simp [execProgData]
@[simp] theorem execProgEnd_waits (mb : Mb) (s : State) : Waits s.pending (execProgEnd mb s) := by simp [execProgEnd]
@[simp] theorem execCfgBegin_waits (mb : Mb) (s : State) : Waits s.pending (execCfgBegin mb s) := by simp [execCfgBegin]
@[simp] theorem execCfgData_waits (mb : Mb) (s : State) : Waits s.pending (execCfgData mb s) := by simp [execCfgData]
@[simp] theorem execCfgEnd_waits (mb : Mb) (s : State) : Waits s.pending (execCfgEnd mb s) := by simp [execCfgEnd]

/-! ### The exchange -/

@[simp] theorem placeDestination_pending (s : State) (p : Program) (b : Binding) : (placeDestination s p b).pending = s.pending := by
  unfold placeDestination
  (repeat' split) <;> simp
@[simp] theorem loadDestinations_pending (s : State) : (loadDestinations s).pending = s.pending := by simp [loadDestinations]
@[simp] theorem toLaneRelease_pending (s : State) : (toLaneRelease s).pending = s.pending := by simp [toLaneRelease]
@[simp] theorem adoptField_pending (s : State) (old : Bank) : (adoptField s old).pending = s.pending := by simp [adoptField]
@[simp] theorem adoptTiming_pending (s : State) : (adoptTiming s).pending = s.pending := by simp [adoptTiming]
@[simp] theorem adoptSound_pending (s : State) (old : Bank) : (adoptSound s old).pending = s.pending := by rfl
@[simp] theorem adoptNet_pending (s : State) (old : Bank) : (adoptNet s old).pending = s.pending := by simp [adoptNet]
@[simp] theorem adoptPower_pending (s : State) : (adoptPower s).pending = s.pending := by simp [adoptPower]
@[simp] theorem takeConns_pending (s : State) (t : Nat) : (takeConns s t).pending = s.pending := by simp [takeConns]
@[simp] theorem adoptConns_pending (s : State) (old : Bank) : (adoptConns s old).pending = s.pending := by simp [adoptConns]
@[simp] theorem orphanConns_pending (s : State) (b : Bank) (p : Option Program) : (orphanConns s b p).pending = s.pending := by
  unfold orphanConns
  (repeat' split) <;> simp
@[simp] theorem adoptPair_pending (s : State) (old : Bank) : (adoptPair s old).pending = s.pending := by simp [adoptPair]
@[simp] theorem applyBank_pending (s : State) (b : Bank) : (applyBank s b).pending = s.pending := by simp [applyBank]
@[simp] theorem performSwap_pending (s : State) : (performSwap s).pending = s.pending :=
  by simp [performSwap]; (repeat' split) <;> simp [*]
@[simp] theorem checkStaging_pending (s : State) : (checkStaging s).pending = s.pending := by
  unfold checkStaging
  (repeat' split) <;> simp
@[simp] theorem refuseDigest_pending (s : State) : (refuseDigest s).pending = s.pending := by
  simp only [refuseDigest]
  (repeat' split) <;> simp
@[simp] theorem reportDigest_pending (s : State) (l : Lane) (same : Bool) : (reportDigest s l same).pending = s.pending :=
  by simp [reportDigest]
@[simp] theorem execBankDigestReport_waits (l : Lane) (same : Bool) (s : State) : Waits s.pending (execBankDigestReport l same s) :=
  by simp [execBankDigestReport]
@[simp] theorem execStagingComplete_waits (same : List (Lane × Bool)) (s : State) : Waits s.pending (execStagingComplete same s) :=
  by simp [execStagingComplete]
@[simp] theorem cfgSwap_pending (s : State) (mb : Mb) : (cfgSwap s mb).pending = s.pending := by
  simp only [cfgSwap]
  (repeat' split) <;> simp
@[simp] theorem execCfgSwap_waits (mb : Mb) (s : State) : Waits s.pending (execCfgSwap mb s) := by simp [execCfgSwap]
@[simp] theorem activateRestart_pending (s : State) : (activateRestart s).pending = s.pending := by
  simp only [activateRestart]
  (repeat' split) <;> simp
@[simp] theorem setGenerator_pending (s : State) (d : TaskDef) : (setGenerator s d).pending = s.pending := by rfl
@[simp] theorem initDestination_pending (s : State) (t : Nat) (b : Binding) : (initDestination s t b).pending = s.pending := by
  unfold initDestination
  (repeat' split) <;> simp
@[simp] theorem dropDestinations_pending (s : State) (old new : Program) (t : Nat) :
    (dropDestinations s old new t).pending = s.pending := by simp [dropDestinations]
@[simp] theorem switchTask_pending (s : State) (t : Nat) : (switchTask s t).pending = s.pending := by
  unfold switchTask
  (repeat' split) <;> simp
@[simp] theorem retireTask_pending (s : State) (t : Nat) : (retireTask s t).pending = s.pending := by
  unfold retireTask
  (repeat' split) <;> simp
@[simp] theorem retireGone_pending (s : State) : (retireGone s).pending = s.pending := by simp [retireGone]
@[simp] theorem swapPoint_pending (s : State) (same : RelDue → Bool) : (swapPoint s same).pending = s.pending := by
  unfold swapPoint
  (repeat' split) <;> simp
@[simp] theorem freeOld_pending (s : State) : (freeOld s).pending = s.pending := by unfold freeOld; (repeat' split) <;> simp
@[simp] theorem finishExchange_pending (s : State) : (finishExchange s).pending = s.pending := by
  unfold finishExchange
  (repeat' split) <;> simp
@[simp] theorem execSwitchWithoutRelease_waits (t : Fin 16) (s : State) : Waits s.pending (execSwitchWithoutRelease t s) := by
  simp only [execSwitchWithoutRelease]
  (repeat' split) <;> simp
@[simp] theorem stageProgram_pending (s : State) (mb : Mb) (p : Program) : (stageProgram s mb p).pending = s.pending :=
  by simp [stageProgram]
@[simp] theorem progActivate_pending (s : State) (mb : Mb) (ws : List Word) : (progActivate s mb ws).pending = s.pending := by
  simp only [progActivate]
  (repeat' split) <;> simp
@[simp] theorem execProgActivate_waits (mb : Mb) (s : State) : Waits s.pending (execProgActivate mb s) := by simp [execProgActivate]
@[simp] theorem progDiscard_pending (s : State) (mb : Mb) : (progDiscard s mb).pending = s.pending := by simp [progDiscard]
@[simp] theorem execProgDiscard_waits (mb : Mb) (s : State) : Waits s.pending (execProgDiscard mb s) := by simp [execProgDiscard]
@[simp] theorem execProgInfo_waits (mb : Mb) (s : State) : Waits s.pending (execProgInfo mb s) := by
  exact runCmd_waits _ _ _ _ _ _ _ _ (fun s ws => by (repeat' split) <;> simp)
@[simp] theorem cfgRead_pending (s : State) (mb : Mb) (ws : List Word) : (cfgRead s mb ws).pending = s.pending := by
  simp only [cfgRead]
  (repeat' split) <;> simp
@[simp] theorem execCfgRead_waits (mb : Mb) (s : State) : Waits s.pending (execCfgRead mb s) := by simp [execCfgRead]

/-! ### The safe state -/

@[simp] theorem acceptAck_pending (s : State) : (acceptAck s).pending = s.pending := by simp [acceptAck]
@[simp] theorem takePulse_pending (s : State) (rcv : AckReceiver) (src : AckSource) : (takePulse s rcv src).pending = s.pending := by
  unfold takePulse
  (repeat' split) <;> simp
@[simp] theorem judgePulse_pending (s : State) (rcv : AckReceiver) (src : AckSource) (highNs : Nat) (stepped : Bool) :
    (judgePulse s rcv src highNs stepped).pending = s.pending := by unfold judgePulse; (repeat' split) <;> simp
@[simp] theorem execAckEdge_waits (rcv : AckReceiver) (src : AckSource) (highNs : Nat) (stepped : Bool) (s : State) :
    Waits s.pending (execAckEdge rcv src highNs stepped s) := by simp only [execAckEdge]; (repeat' split) <;> simp
@[simp] theorem purgeReports_pending (s : State) (src : AckSource) : (purgeReports s src).pending = s.pending := by rfl
@[simp] theorem execAckReport_waits (l : Lane) (src : AckSource) (s : State) : Waits s.pending (execAckReport l src s) := by
  simp only [execAckReport]
  (repeat' split) <;> simp
@[simp] theorem execLoneAckReport_waits (src : AckSource) (s : State) : Waits s.pending (execLoneAckReport src s) :=
  by simp [execLoneAckReport]
@[simp] theorem execAckJammed_waits (rcv : AckReceiver) (src : AckSource) (s : State) : Waits s.pending (execAckJammed rcv src s) := by
  unfold execAckJammed
  (repeat' split) <;> simp
@[simp] theorem execAckJamClear_waits (src : AckSource) (s : State) : Waits s.pending (execAckJamClear src s) := by
  unfold execAckJamClear
  (repeat' split) <;> simp
@[simp] theorem safeAck_pending (s : State) (mb : Mb) (ws : List Word) : (safeAck s mb ws).pending = s.pending := by
  simp only [safeAck]
  (repeat' split) <;> simp
@[simp] theorem execSafeAck_waits (mb : Mb) (s : State) : Waits s.pending (execSafeAck mb s) := by simp [execSafeAck]
@[simp] theorem checkConns_pending (s : State) (l : Lane) (m : StampMsg) : (checkConns s l m).pending = s.pending := by simp [checkConns]
@[simp] theorem produceSafe_pending (s : State) (l : Lane) (p : Program) (t : Nat) (voted : List QWord) :
    (produceSafe s l p t voted).pending = s.pending := by simp [produceSafe]

/-! ### The pair -/

@[simp] theorem jaranSend_pending (s : State) (type flags : Nat) (payload : List Byte) :
    (jaranSend s type flags payload).pending = s.pending := by
  unfold jaranSend
  split
  · rfl
  · exact foldl_pending (fun s bs => by simp) _ _
@[simp] theorem sendResync_pending (s : State) (ts : List Nat) : (sendResync s ts).pending = s.pending := by simp [sendResync]
@[simp] theorem requestCopy_pending (s : State) (ts : List Nat) : (requestCopy s ts).pending = s.pending := by simp [requestCopy]
@[simp] theorem acceptJaran_pending (s : State) (h : JaranHead) : (acceptJaran s h).pending = s.pending := by simp [acceptJaran]
@[simp] theorem makeIncompatible_pending (s : State) : (makeIncompatible s).pending = s.pending := by simp [makeIncompatible]
@[simp] theorem seeMismatch_pending (s : State) : (seeMismatch s).pending = s.pending := by simp [seeMismatch]
@[simp] theorem compareOutputs_pending (s : State) (t : Nat) : (compareOutputs s t).pending = s.pending := by
  simp only [compareOutputs]
  (repeat' split) <;> simp
@[simp] theorem offerOutput_pending (s : State) (t : Nat) (f : LaneFrame) : (offerOutput s t f).pending = s.pending :=
  by simp [offerOutput]
@[simp] theorem sendOutput_pending (s : State) (t : Nat) (f : LaneFrame) : (sendOutput s t f).pending = s.pending := by
  unfold sendOutput
  (repeat' split) <;> simp
@[simp] theorem pairStep6_pending (s : State) (t : Nat) (f : LaneFrame) (dirty : List (Nat × Nat)) :
    (pairStep6 s t f dirty).pending = s.pending := by simp [pairStep6]
@[simp] theorem carryState_pending (s : State) : (carryState s).pending = s.pending := by simp [carryState]
@[simp] theorem copyPages_pending (s : State) : (copyPages s).pending = s.pending := by unfold copyPages; (repeat' split) <;> simp
@[simp] theorem sendHello_pending (s : State) : (sendHello s).pending = s.pending := by simp [sendHello]
@[simp] theorem proposeSwitch_pending (s : State) (reason : Nat) (mb : Option Mb) : (proposeSwitch s reason mb).pending = s.pending :=
  by simp [proposeSwitch]
@[simp] theorem decideStandby_pending (s : State) : (decideStandby s).pending = s.pending := by
  unfold decideStandby
  (repeat' split) <;> simp
@[simp] theorem pairStep8_pending (s : State) : (pairStep8 s).pending = s.pending := by simp [pairStep8]
@[simp] theorem takeControl_pending (s : State) : (takeControl s).pending = s.pending := by simp [takeControl]
@[simp] theorem resolveConflict_pending (s : State) (epoch : Word) (otherPrimary : Bool) :
    (resolveConflict s epoch otherPrimary).pending = s.pending := by simp [resolveConflict]
@[simp] theorem takeRole_pending (s : State) (controlling : Bool) (epoch : Word) (otherPrimary : Option Bool) :
    (takeRole s controlling epoch otherPrimary).pending = s.pending := by simp [takeRole]

/-! ### Checkpoints -/

@[simp] theorem endWindow_pending (s : State) (t : Nat) : (endWindow s t).pending = s.pending := by rfl
@[simp] theorem nextWpos_pending (s : State) (t : Nat) : (nextWpos s t).pending = s.pending := by rfl
@[simp] theorem loadLaneTask_pending (s : State) (l : Lane) (t : Nat) : (loadLaneTask s l t).pending = s.pending := by
  simp only [loadLaneTask]
  (repeat' split) <;> simp
@[simp] theorem finishCkpt_pending (s : State) (c : Ckpt) : (finishCkpt s c).pending = s.pending := by
  unfold finishCkpt
  (repeat' split) <;> simp
@[simp] theorem startCkpt_pending (s : State) (t : Nat) (catchUp : Option Lane) : (startCkpt s t catchUp).pending = s.pending := by
  unfold startCkpt
  (repeat' split) <;> simp
@[simp] theorem catchUps_pending (s : State) (t : Nat) : (catchUps s t).pending = s.pending := by
  unfold catchUps
  (repeat' split) <;> simp
@[simp] theorem abandonCkpt_pending (s : State) (c : Ckpt) : (abandonCkpt s c).pending = s.pending := by rfl
@[simp] theorem ckptRecord_pending (s : State) (sev t : Nat) : (ckptRecord s sev t).pending = s.pending := by simp [ckptRecord]
@[simp] theorem judgePage_pending (s : State) (c : Ckpt) (d : CkptPage) (rest : List CkptPage) :
    (judgePage s c d rest).pending = s.pending := by simp only [judgePage]; (repeat' split) <;> simp
@[simp] theorem failCatchUp_pending (s : State) (c : Ckpt) : (failCatchUp s c).pending = s.pending := by
  unfold failCatchUp
  (repeat' split) <;> simp
@[simp] theorem sendFirst_pending (s : State) (t : Nat) (pages : List (Nat × Nat)) : (sendFirst s t pages).pending = s.pending := by rfl
@[simp] theorem takePage_pending (s : State) (fate : PageFate) : (takePage s fate).pending = s.pending := by
  unfold takePage
  (repeat' split) <;> simp
@[simp] theorem execCheckpointPage_waits (fate : PageFate) (s : State) : Waits s.pending (execCheckpointPage fate s) :=
  by simp [execCheckpointPage]
@[simp] theorem retainedStep5_pending (s : State) (lines : List RetLine) : (retainedStep5 s lines).pending = s.pending := by rfl
@[simp] theorem writeRetained_pending (s : State) : (writeRetained s).pending = s.pending := by
  unfold writeRetained
  (repeat' split) <;> simp

/-! ### The harvest -/

@[simp] theorem judge_pending (s : State) (t : Nat) : (judge s t).pending = s.pending := by
  unfold judge
  extract_lets vs f arg judged _ counted raised _ lined
  have hraised : raised.pending = s.pending :=
    (foldl_pending (fun _ _ => by simp) _ counted).trans (foldl_pending (fun _ _ => by simp) _ s)
  have hlined : lined.pending = s.pending := hraised
  clear_value raised lined
  (repeat' split) <;> simp [hraised, hlined]
@[simp] theorem laneStep3_pending (s : State) (l : Lane) (t : Nat) : (laneStep3 s l t).pending = s.pending := by
  unfold laneStep3
  (repeat' split) <;> simp
@[simp] theorem publishSlot_pending (s : State) (n : Nat) (w : QWord) : (publishSlot s n w).pending = s.pending := by simp [publishSlot]
@[simp] theorem applyOutput_pending (s : State) (t : Nat) (p : Program) (f : LaneFrame) (b : Binding) :
    (applyOutput s t p f b).pending = s.pending := by unfold applyOutput; (repeat' split) <;> simp
@[simp] theorem requestGroup_pending (s : State) (g : Nat) : (requestGroup s g).pending = s.pending := by
  unfold requestGroup
  (repeat' split) <;> simp
@[simp] theorem hubStep3_pending (s : State) (t : Nat) (p : Program) (f : LaneFrame) : (hubStep3 s t p f).1.pending = s.pending :=
  by simp [hubStep3]
@[simp] theorem step4_pending (s : State) (t : Nat) (first : Bool) : (step4 s t first).pending = s.pending := by simp [step4]
@[simp] theorem takeAck_pending (s : State) : (takeAck s).pending = s.pending := by simp [takeAck]
@[simp] theorem takeAttach_pending (s : State) : (takeAttach s).pending = s.pending := by simp only [takeAttach]; (repeat' split) <;> simp
@[simp] theorem admitLanes_pending (s : State) : (admitLanes s).pending = s.pending := by simp [admitLanes]
@[simp] theorem renewRetained_pending (s : State) : (renewRetained s).pending = s.pending := by
  unfold renewRetained
  (repeat' split) <;> simp
@[simp] theorem step8_pending (s : State) (t : Nat) : (step8 s t).pending = s.pending := by simp [step8]
@[simp] theorem runStep8_pending (n : Nat) (s : State) : (runStep8 n s).pending = s.pending := by
  induction n generalizing s with
  | zero => rfl
  | succ n ih => unfold runStep8; split <;> simp [ih]
@[simp] theorem pumpStep8_pending (s : State) : (pumpStep8 s).pending = s.pending := by simp [pumpStep8]
@[simp] theorem execRetainedWrite_waits (s : State) : Waits s.pending (execRetainedWrite s) := by simp [execRetainedWrite]
@[simp] theorem execJaranCopy_waits (s : State) : Waits s.pending (execJaranCopy s) := by simp [execJaranCopy]
@[simp] theorem execRecorderFiring_waits (s : State) : Waits s.pending (execRecorderFiring s) := by
  unfold execRecorderFiring
  (repeat' split) <;> simp
@[simp] theorem judgeShadow_pending (s : State) (t : Nat) (x : Vector3) : (judgeShadow s t x).pending = s.pending := by
  refine foldl_pending (fun s l => ?_) _ _
  dsimp only
  split <;> simp
@[simp] theorem abortHarvest_pending (s : State) (seq : DWord) (t : Nat) : (abortHarvest s seq t).pending = s.pending := by rfl
@[simp] theorem performHarvest_pending (s : State) (seq : DWord) (t : Nat) (f : LaneFrame) :
    (performHarvest s seq t f).pending = s.pending := by simp only [performHarvest]; (repeat' split) <;> simp
@[simp] theorem numberHarvest_pending (s : State) (t : Nat) : (numberHarvest s t).pending = s.pending := by
  unfold numberHarvest
  split
  · rfl
  · extract_lets seq _ numbered answered act counted best judged
    have hcounted : counted.pending = s.pending := (foldl_pending (fun _ _ => by simp) _ answered).trans (by simp [answered, numbered])
    have hjudged : judged.pending = s.pending := by simp only [judged, judge_pending, judgeShadow_pending, hcounted]
    clear_value counted best judged
    split
    · split <;> simp [hcounted]
    · (repeat' split) <;> simp [hjudged]
@[simp] theorem hubHarvest_pending (s : State) (t : Nat) : (hubHarvest s t).pending = s.pending := by simp [hubHarvest]
@[simp] theorem holdTask_pending (s : State) (t : Nat) : (holdTask s t).pending = s.pending := by simp [holdTask]
@[simp] theorem closeVote_pending (s : State) (p : Party) (t : Nat) : (closeVote s p t).pending = s.pending := by
  unfold closeVote
  (repeat' split) <;> simp
@[simp] theorem countAtHub_pending (s : State) (p : Party) (l : Lane) (f : LaneSt → LaneSt) :
    (countAtHub s p l f).pending = s.pending := by simp [countAtHub]
@[simp] theorem badSlot_pending (s : State) (t : Nat) (l : Lane) (corrupt : Bool) : (badSlot s t l corrupt).pending = s.pending :=
  by simp [badSlot]
@[simp] theorem takeSeq_pending (s : State) (p : Party) (l : Lane) (seq : Word) (last : Option Word) :
    (takeSeq s p l seq last).pending = s.pending := by simp [takeSeq]
@[simp] theorem compareFrame_pending (s : State) (p : Party) (l : Lane) (f : LaneFrame) (v : Vote) (slot : Option Bool) :
    (compareFrame s p l f v slot).pending = s.pending := by simp only [compareFrame]; (repeat' split) <;> simp
@[simp] theorem acceptFrame_pending (s : State) (p : Party) (l : Lane) (f : LaneFrame) (slot : Option Bool) :
    (acceptFrame s p l f slot).pending = s.pending := by unfold acceptFrame; (repeat' split) <;> simp
@[simp] theorem arriveFrame_pending (s : State) (p : Party) (l : Lane) (t : Nat) (fate : FrameFate) :
    (arriveFrame s p l t fate).pending = s.pending := by unfold arriveFrame; (repeat' split) <;> simp
@[simp] theorem execLaneFrameArrival_waits (p : Party) (l : Lane) (t : Fin 16) (fate : FrameFate) (s : State) :
    Waits s.pending (execLaneFrameArrival p l t fate s) := by simp [execLaneFrameArrival]
@[simp] theorem execVoteDeadline_waits (p : Party) (t : Fin 16) (s : State) : Waits s.pending (execVoteDeadline p t s) := by
  unfold execVoteDeadline
  (repeat' split) <;> simp
@[simp] theorem execComparatorNoVerdict_waits (p : Party) (t : Fin 16) (s : State) : Waits s.pending (execComparatorNoVerdict p t s) := by
  unfold execComparatorNoVerdict
  (repeat' split) <;> simp

/-! ### The lanes -/

@[simp] theorem deliverOwn_pending (s : State) (l : Lane) (t : Nat) : (deliverOwn s l t).pending = s.pending := by simp [deliverOwn]
@[simp] theorem endCycle_pending (s : State) (l : Lane) (t : Nat) : (endCycle s l t).pending = s.pending := by simp [endCycle]
@[simp] theorem takeStamp_pending (s : State) (l : Lane) (m : StampMsg) : (takeStamp s l m).pending = s.pending := by simp [takeStamp]
@[simp] theorem startReleases_pending (s : State) (l : Lane) : (startReleases s l).pending = s.pending := by simp [startReleases]
@[simp] theorem stampArrives_pending (s : State) (l : Lane) (m : StampMsg) : (stampArrives s l m).pending = s.pending :=
  by simp [stampArrives]
@[simp] theorem execReleaseStampArrival_waits (a : StampArrival) (s : State) : Waits s.pending (execReleaseStampArrival a s) := by
  unfold execReleaseStampArrival
  (repeat' split) <;> simp
@[simp] theorem execSampleFrameReceive_waits (l : Lane) (good : Bool) (s : State) : Waits s.pending (execSampleFrameReceive l good s) :=
  by simp [execSampleFrameReceive]
@[simp] theorem execPanDispatch_waits (l : Lane) (block pan : Fin 16) (xbar : Xbar) (s : State) :
    Waits s.pending (execPanDispatch l block pan xbar s) := by simp [execPanDispatch]
@[simp] theorem completeInst_pending (s : State) (l : Lane) (b p : Nat) (agree : Bool) (xbar : Xbar) :
    (completeInst s l b p agree xbar).pending = s.pending := by simp only [completeInst]; (repeat' split) <;> simp
@[simp] theorem execInstanceCommit_waits (l : Lane) (block pan : Fin 16) (agree : Bool) (xbar : Xbar) (s : State) :
    Waits s.pending (execInstanceCommit l block pan agree xbar s) := by simp [execInstanceCommit]
@[simp] theorem takeWake_pending (s : State) (l : Lane) (k : Nat) (xbar : Xbar) : (takeWake s l k xbar).pending = s.pending := by
  unfold takeWake
  (repeat' split) <;> simp
@[simp] theorem execWakeMessage_waits (l : Lane) (k : Nat) (xbar : Xbar) (s : State) : Waits s.pending (execWakeMessage l k xbar s) :=
  by simp [execWakeMessage]
@[simp] theorem execCommitTimeout_waits (l : Lane) (block pan : Fin 16) (s : State) :
    Waits s.pending (execCommitTimeout l block pan s) := by unfold execCommitTimeout; (repeat' split) <;> simp
@[simp] theorem eccEvent_pending (s : State) (l : Lane) (mem : LaneMem) (b addr : Nat) (fixed : Bool) :
    (eccEvent s l mem b addr fixed).pending = s.pending := by simp [eccEvent]
@[simp] theorem execEccError_waits (l : Lane) (mem : LaneMem) (block : Fin 16) (addr : Nat) (fixed : Bool) (s : State) :
    Waits s.pending (execEccError l mem block addr fixed s) := by simp [execEccError]
@[simp] theorem serviceOverrun_pending (s : State) (t : Nat) (rel : Word) (mask : Nat) :
    (serviceOverrun s t rel mask).pending = s.pending := by simp [serviceOverrun]
@[simp] theorem watchdogExpires_pending (s : State) (l : Lane) (t : Nat) : (watchdogExpires s l t).pending = s.pending := by
  unfold watchdogExpires
  (repeat' split) <;> simp
@[simp] theorem execTaskWatchdogExpiry_waits (l : Lane) (t : Fin 16) (s : State) : Waits s.pending (execTaskWatchdogExpiry l t s) :=
  by simp [execTaskWatchdogExpiry]

/-! ### Releases -/

@[simp] theorem deliverCaptures_pending (s : State) (b : Binding) (caps : List (Nat × BitVec 16)) :
    (deliverCaptures s b caps).2.pending = s.pending := by rfl
@[simp] theorem captureImage_pending (s : State) (p : Program) (t : Nat) (caps : List (Nat × BitVec 16)) :
    (captureImage s p t caps).2.pending = s.pending := by simp [captureImage]
@[simp] theorem latchViews_pending (s : State) : (latchViews s).pending = s.pending := by rfl
@[simp] theorem execTimingTick_waits (s : State) : Waits s.pending (execTimingTick s) := by simp [execTimingTick]
@[simp] theorem endRestart_pending (s : State) : (endRestart s).pending = s.pending := by simp [endRestart]
@[simp] theorem failUnshipped_pending (s : State) (t : Nat) : (failUnshipped s t).pending = s.pending := by simp [failUnshipped]
@[simp] theorem openRelease_pending (s : State) (m : StampMsg) : (openRelease s m).pending = s.pending := by simp [openRelease]
@[simp] theorem sendImage_pending (s : State) (p : Program) (m : StampMsg) (smp : Option SampleSet) :
    (sendImage s p m smp).pending = s.pending := by simp [sendImage]
@[simp] theorem switchAtRelease_pending (s : State) (t : Nat) : (switchAtRelease s t).1.pending = s.pending := by
  unfold switchAtRelease
  (repeat' split) <;> simp
@[simp] theorem performRelease_pending (s : State) (t : Nat) (r : RelDue) : (performRelease s t r).pending = s.pending := by
  simp only [performRelease]
  (repeat' split) <;> simp
@[simp] theorem execRelease_waits (t : Fin 16) (s : State) : Waits s.pending (execRelease t s) := by
  simp only [execRelease]
  (repeat' split) <;> simp
@[simp] theorem followStamp_pending (s : State) (t : Nat) (stamp : List QWord) : (followStamp s t stamp).pending = s.pending := by rfl
@[simp] theorem reloadTask_pending (s : State) (t : Nat) : (reloadTask s t).pending = s.pending := by simp [reloadTask]
@[simp] theorem standbyLoad_pending (s : State) (t : Nat) : (standbyLoad s t).pending = s.pending := by simp [standbyLoad]
@[simp] theorem copyRelease_pending (s : State) (flags : Nat) (i : ImageMsg) : (copyRelease s flags i).pending = s.pending := by
  unfold copyRelease
  (repeat' split) <;> simp

/-! ### Restart and rejoin -/

@[simp] theorem restartSelftest_pending (s : State) (l : Lane) (fail : Option Nat) (bad : List (Fin 16 × Fin 16)) :
    (restartSelftest s l fail bad).pending = s.pending := by unfold restartSelftest; (repeat' split) <;> simp
@[simp] theorem execRestartSelftestDone_waits (l : Lane) (fail : Option Nat) (retired : List (Fin 16 × Fin 16)) (s : State) :
    Waits s.pending (execRestartSelftestDone l fail retired s) := by simp [execRestartSelftestDone]
@[simp] theorem loadLane_pending (s : State) (l : Lane) : (loadLane s l).pending = s.pending := by simp [loadLane]
@[simp] theorem checkpointLoaded_pending (s : State) : (checkpointLoaded s).pending = s.pending := by
  unfold checkpointLoaded
  dsimp only
  split
  · rfl
  · rw [pending_ite, ite_self, foldl_pending (fun _ _ => by simp), foldl_pending (fun _ _ => by simp)]
@[simp] theorem execCheckpointLoadDone_waits (s : State) : Waits s.pending (execCheckpointLoadDone s) := by simp [execCheckpointLoadDone]
@[simp] theorem holdOver_pending (s : State) (l : Lane) : (holdOver s l).pending = s.pending := by simp [holdOver]
@[simp] theorem execResetHoldExpiry_waits (l : Lane) (s : State) : Waits s.pending (execResetHoldExpiry l s) :=
  by simp [execResetHoldExpiry]
@[simp] theorem rejoinSelftest_pending (s : State) (l : Lane) (fail : Option Nat) (bad : List (Fin 16 × Fin 16)) :
    (rejoinSelftest s l fail bad).pending = s.pending := by unfold rejoinSelftest; (repeat' split) <;> simp
@[simp] theorem execRejoinSelftestDone_waits (l : Lane) (fail : Option Nat) (retired : List (Fin 16 × Fin 16)) (s : State) :
    Waits s.pending (execRejoinSelftestDone l fail retired s) := by simp [execRejoinSelftestDone]
@[simp] theorem rejoinLoaded_pending (s : State) (l : Lane) (ok : Bool) : (rejoinLoaded s l ok).pending = s.pending :=
  by simp [rejoinLoaded]
@[simp] theorem execRejoinLoadDone_waits (l : Lane) (ok : Bool) (s : State) : Waits s.pending (execRejoinLoadDone l ok s) :=
  by simp [execRejoinLoadDone]
@[simp] theorem startInjection_pending (s : State) (who : InjectBy) : (startInjection s who).pending = s.pending := by rfl
@[simp] theorem execSelftestRun_waits (mb : Mb) (s : State) : Waits s.pending (execSelftestRun mb s) := by simp [execSelftestRun]
@[simp] theorem execInjectionTestTimer_waits (s : State) : Waits s.pending (execInjectionTestTimer s) := by
  unfold execInjectionTestTimer
  (repeat' split) <;> simp
@[simp] theorem keepResults_pending (s : State) (fails : List (Party × Nat)) (tested : Party → Bool) :
    (keepResults s fails tested).pending = s.pending := by rfl
@[simp] theorem failParty_pending (s : State) (x : Party × Nat) : (failParty s x).pending = s.pending := by
  unfold failParty
  (repeat' split) <;> simp
@[simp] theorem failParties_pending (s : State) (bad : List (Party × Nat)) : (failParties s bad).pending = s.pending := by
  unfold failParties
  dsimp only
  split
  · refine (enterSafe_pending _ _).trans (foldl_pending (fun s x => ?_) _ _)
    split <;> simp
  · exact foldl_pending (fun s x => by simp) _ _
@[simp] theorem bringUpResult_pending (s : State) (fails : List (Party × Nat)) : (bringUpResult s fails).pending = s.pending := by
  unfold bringUpResult
  dsimp only
  split
  · simp
  · refine (foldl_pending (fun s l => ?_) _ _).trans (by simp)
    split <;> simp
@[simp] theorem serviceResult_pending (s : State) (who : InjectBy) (fails : List (Party × Nat)) :
    (serviceResult s who fails).pending = s.pending := by unfold serviceResult; (repeat' split) <;> simp
@[simp] theorem execInjectionTestResult_waits (seen : List InjectSeen) (s : State) : Waits s.pending (execInjectionTestResult seen s) := by
  simp only [execInjectionTestResult]
  (repeat' split) <;> simp
@[simp] theorem dbgAttach_pending (s : State) (mb : Mb) (ws : List Word) : (dbgAttach s mb ws).pending = s.pending := by simp [dbgAttach]
@[simp] theorem execDbgAttach_waits (mb : Mb) (s : State) : Waits s.pending (execDbgAttach mb s) := by simp [execDbgAttach]
@[simp] theorem detach_pending (s : State) : (detach s).pending = s.pending := by simp [detach]
@[simp] theorem execDbgDetach_waits (mb : Mb) (s : State) : Waits s.pending (execDbgDetach mb s) := by simp [execDbgDetach]
@[simp] theorem laneMemory_pending (s : State) (mb : Mb) (l : Lane) (ws : List Word) : (laneMemory s mb l ws).pending = s.pending :=
  by simp [laneMemory]
@[simp] theorem execLaneStatus_waits (mb : Mb) (s : State) : Waits s.pending (execLaneStatus mb s) := by simp [execLaneStatus]

/-! ### Bring-up -/

@[simp] theorem atStage_pending (s : State) (g : Stage) : (atStage s g).pending = s.pending := by rfl
@[simp] theorem firmwareVerified_pending (s : State) (ok0 ok1 : Bool) : (firmwareVerified s ok0 ok1).pending = s.pending := by
  unfold firmwareVerified
  (repeat' split) <;> simp
@[simp] theorem execFirmwareVerified_waits (ok0 ok1 : Bool) (s : State) : Waits s.pending (execFirmwareVerified ok0 ok1 s) := by
  unfold execFirmwareVerified
  (repeat' split) <;> simp
@[simp] theorem readHeaders_pending (s : State) (img : Bool) : (readHeaders s img).pending = s.pending := by simp [readHeaders]
@[simp] theorem supervisorStart_pending (s : State) (strapPrimary : Bool) : (supervisorStart s strapPrimary).pending = s.pending := by
  simp only [supervisorStart]
  (repeat' split) <;> simp
@[simp] theorem execSupervisorStart_waits (strapPrimary : Bool) (s : State) : Waits s.pending (execSupervisorStart strapPrimary s) := by
  unfold execSupervisorStart
  (repeat' split) <;> simp
@[simp] theorem verifyBank_pending (s : State) : (verifyBank s).pending = s.pending := by unfold verifyBank; (repeat' split) <;> simp
@[simp] theorem verifyProgram_pending (s : State) : (verifyProgram s).pending = s.pending := by
  unfold verifyProgram
  (repeat' split) <;> simp
@[simp] theorem verifyObjects_pending (s : State) : (verifyObjects s).pending = s.pending := by simp [verifyObjects]
@[simp] theorem execObjectVerification_waits (s : State) : Waits s.pending (execObjectVerification s) := by
  unfold execObjectVerification
  (repeat' split) <;> simp
@[simp] theorem execStart_waits (mb : Mb) (s : State) : Waits s.pending (execStart mb s) := by simp [execStart]
@[simp] theorem releaseLanes_pending (s : State) : (releaseLanes s).pending = s.pending := by rfl
@[simp] theorem execLaneRelease_waits (s : State) : Waits s.pending (execLaneRelease s) := by
  unfold execLaneRelease
  (repeat' split) <;> simp
@[simp] theorem programLoaded_pending (s : State) (p : Program) (fails : List Lane) : (programLoaded s p fails).pending = s.pending :=
  by simp [programLoaded]
@[simp] theorem execProgramLoadDone_waits (fails : List Lane) (s : State) : Waits s.pending (execProgramLoadDone fails s) := by
  unfold execProgramLoadDone
  (repeat' split) <;> simp
@[simp] theorem restoreRetained_pending (s : State) (p : Program) : (restoreRetained s p).pending = s.pending := by simp [restoreRetained]
@[simp] theorem restoreDone_pending (s : State) (p : Program) : (restoreDone s p).pending = s.pending := by simp [restoreDone]
@[simp] theorem execRetainedRestore_waits (s : State) : Waits s.pending (execRetainedRestore s) := by
  unfold execRetainedRestore
  (repeat' split) <;> simp
@[simp] theorem admitModule_pending (s : State) (p : Program) : (admitModule s p).pending = s.pending := by
  unfold admitModule
  (repeat' split) <;> simp
@[simp] theorem execAdmission_waits (s : State) : Waits s.pending (execAdmission s) := by unfold execAdmission; (repeat' split) <;> simp
@[simp] theorem execStageTimeLimit_waits (s : State) : Waits s.pending (execStageTimeLimit s) := by
  simp only [execStageTimeLimit]
  (repeat' split) <;> simp
@[simp] theorem execJtagTrstHigh_waits (high : Bool) (s : State) : Waits s.pending (execJtagTrstHigh high s) := by simp [execJtagTrstHigh]

/-! ### Forces -/

@[simp] theorem execForceSet_waits (mb : Mb) (s : State) : Waits s.pending (execForceSet mb s) := by
  refine runCmd_waits _ _ _ _ _ _ _ _ (fun s ws => ?_)
  dsimp only
  repeat' split
  all_goals simp
@[simp] theorem execForceClear_waits (mb : Mb) (s : State) : Waits s.pending (execForceClear mb s) := by simp [execForceClear]
@[simp] theorem execForceAcknowledge_waits (s : State) : Waits s.pending (execForceAcknowledge s) := by
  unfold execForceAcknowledge
  (repeat' split) <;> simp
@[simp] theorem execForceList_waits (mb : Mb) (s : State) : Waits s.pending (execForceList mb s) := by simp [execForceList]

/-! ### The host port -/

@[simp] theorem drainFifos_pending (s : State) (n : Nat) : (drainFifos s n).pending = s.pending := by rfl
@[simp] theorem opcodePhase_pending (s : State) (tm : HostTiming) : (opcodePhase s tm).pending = s.pending := by rfl
@[simp] theorem portError_pending (s : State) (cause word : Nat) : (portError s cause word).pending = s.pending := by rfl
@[simp] theorem fetchWords_pending (s : State) (a count : Nat) (late : Option Nat) :
    (fetchWords s a count late).2.pending = s.pending := by simp [fetchWords]
@[simp] theorem hostRead_pending (s : State) (addr : BitVec 24) (count : Nat) (tm : HostTiming) :
    (hostRead s addr count tm).pending = s.pending := by simp [hostRead]
@[simp] theorem hostWrites_pending (k : Nat) (seen : Bool) (writes : List (Nat × Word)) (s : State) :
    (hostWrites k seen writes s).pending = s.pending := by
  induction writes generalizing k seen s with
  | nil => rfl
  | cons a l ih => simp [hostWrites, ih]
@[simp] theorem keepAnswer_pending (r : PortAnswer × State) : (keepAnswer r).pending = r.2.pending := by rfl
@[simp] theorem takeWords_pending (s : State) (a : Nat) (words : List Word) (tm : HostTiming) :
    (takeWords s a words tm).pending = s.pending := by simp [takeWords]
@[simp] theorem hostWrite_pending (s : State) (addr : BitVec 24) (words : List Word) (tm : HostTiming) :
    (hostWrite s addr words tm).pending = s.pending := by simp [hostWrite]
@[simp] theorem execRead_waits (addr : BitVec 24) (count : Nat) (tm : HostTiming) (s : State) :
    Waits s.pending (execRead addr count tm s) := by simp [execRead]
@[simp] theorem execQuadRead_waits (addr : BitVec 24) (count : Nat) (tm : HostTiming) (s : State) :
    Waits s.pending (execQuadRead addr count tm s) := by simp [execQuadRead]
@[simp] theorem execWrite_waits (addr : BitVec 24) (words : List Word) (tm : HostTiming) (s : State) :
    Waits s.pending (execWrite addr words tm s) := by simp [execWrite]
@[simp] theorem execQuadWrite_waits (addr : BitVec 24) (words : List Word) (tm : HostTiming) (s : State) :
    Waits s.pending (execQuadWrite addr words tm s) := by simp [execQuadWrite]
@[simp] theorem execStatus_waits (tm : HostTiming) (s : State) : Waits s.pending (execStatus tm s) := by simp [execStatus]
@[simp] theorem execBadOpcode_waits (op : Byte) (s : State) : Waits s.pending (execBadOpcode op s) := by simp [execBadOpcode]
@[simp] theorem portRead_pending (s : State) (p : Port) (a : Nat) : (portRead s p a).pending = s.pending := by
  unfold portRead
  (repeat' split) <;> simp
@[simp] theorem portWrite_pending (s : State) (p : Port) (a : Nat) (w : Word) : (portWrite s p a w).pending = s.pending := by
  unfold portWrite
  (repeat' split) <;> simp
@[simp] theorem execRegisterWrite_waits (port : Port) (addr : BitVec 24) (w : Word) (s : State) :
    Waits s.pending (execRegisterWrite port addr w s) := by simp [execRegisterWrite]
@[simp] theorem execRcFieldRead_waits (port : Port) (addr : BitVec 24) (s : State) : Waits s.pending (execRcFieldRead port addr s) :=
  by simp [execRcFieldRead]
@[simp] theorem execSnap_waits (s : State) : Waits s.pending (execSnap s) := by simp [execSnap]
@[simp] theorem execAxnValHiRead_waits (n : Fin 4) (s : State) : Waits s.pending (execAxnValHiRead n s) := by simp [execAxnValHiRead]
@[simp] theorem execModHarvestHiRead_waits (s : State) : Waits s.pending (execModHarvestHiRead s) := by simp [execModHarvestHiRead]
@[simp] theorem execMbxnValRead_waits (n : Fin 16) (s : State) : Waits s.pending (execMbxnValRead n s) := by simp [execMbxnValRead]
@[simp] theorem execRecCursorLoWrite_waits (port : Port) (w : Word) (s : State) : Waits s.pending (execRecCursorLoWrite port w s) :=
  by simp [execRecCursorLoWrite]
@[simp] theorem execRecDataRead_waits (port : Port) (s : State) : Waits s.pending (execRecDataRead port s) := by simp [execRecDataRead]
@[simp] theorem execFltCursorLoWrite_waits (port : Port) (w : Word) (s : State) : Waits s.pending (execFltCursorLoWrite port w s) :=
  by simp [execFltCursorLoWrite]
@[simp] theorem execFltLogDataRead_waits (port : Port) (s : State) : Waits s.pending (execFltLogDataRead port s) :=
  by simp [execFltLogDataRead]
@[simp] theorem execClear_waits (s : State) : Waits s.pending (execClear s) := by simp [execClear]
@[simp] theorem execBrLogDataRead_waits (s : State) : Waits s.pending (execBrLogDataRead s) := by simp [execBrLogDataRead]
@[simp] theorem execBrPagenCfgWrite_waits (n : Fin 16) (w : Word) (s : State) : Waits s.pending (execBrPagenCfgWrite n w s) :=
  by simp [execBrPagenCfgWrite]
@[simp] theorem execRemoteWindowRead_waits (addr : BitVec 24) (count : Nat) (s : State) :
    Waits s.pending (execRemoteWindowRead addr count s) := by simp [execRemoteWindowRead]
@[simp] theorem execRemoteWindowWrite_waits (addr : BitVec 24) (words : List Word) (s : State) :
    Waits s.pending (execRemoteWindowWrite addr words s) := by simp [execRemoteWindowWrite]
@[simp] theorem execPost_waits (addr : BitVec 24) (words : List Word) (s : State) : Waits s.pending (execPost addr words s) :=
  by simp [execPost]
@[simp] theorem drainMb_pending (s : State) (mb : Mb) (n : Nat) : (drainMb s mb n).pending = s.pending := by simp [drainMb]
@[simp] theorem sourceWrite_pending (s : State) (mb : Mb) (src : Source) (off : Nat) (w : Word) :
    (sourceWrite s mb src off w).pending = s.pending := by unfold sourceWrite; (repeat' split) <;> simp
@[simp] theorem execMbDataWrite_waits (mb : Mb) (src : Source) (w : Word) (drained : Nat) (s : State) :
    Waits s.pending (execMbDataWrite mb src w drained s) := by simp [execMbDataWrite]
@[simp] theorem execMbDataRead_waits (mb : Mb) (src : Source) (s : State) : Waits s.pending (execMbDataRead mb src s) :=
  by simp [execMbDataRead]
@[simp] theorem execMbCtrlAck_waits (mb : Mb) (src : Source) (s : State) : Waits s.pending (execMbCtrlAck mb src s) :=
  by simp [execMbCtrlAck]
@[simp] theorem execMbCtrlAbort_waits (mb : Mb) (src : Source) (s : State) : Waits s.pending (execMbCtrlAbort mb src s) :=
  by simp [execMbCtrlAbort]

/-! ### The network commands -/

@[simp] theorem execNetStatus_waits (mb : Mb) (s : State) : Waits s.pending (execNetStatus mb s) := by
  exact runCmd_waits _ _ _ _ _ _ _ _ (fun s ws => by (repeat' split) <;> simp)
@[simp] theorem execSlotClaim_waits (mb : Mb) (s : State) : Waits s.pending (execSlotClaim mb s) := by simp [execSlotClaim]
@[simp] theorem execSlotClaimTimeout_waits (mb : Mb) (s : State) : Waits s.pending (execSlotClaimTimeout mb s) := by
  unfold execSlotClaimTimeout
  (repeat' split) <;> simp
@[simp] theorem execPortRelease_waits (mb : Mb) (s : State) : Waits s.pending (execPortRelease mb s) := by simp [execPortRelease]
@[simp] theorem execPtpStatus_waits (mb : Mb) (s : State) : Waits s.pending (execPtpStatus mb s) := by simp [execPtpStatus]

/-! ### Frames received -/

@[simp] theorem takeFlowPacket_pending (s : State) (node : Nat) (b : List Byte) : (takeFlowPacket s node b).pending = s.pending := by
  unfold takeFlowPacket
  (repeat' split) <;> simp
@[simp] theorem execFlowPacketReceive_waits (node : Nat) (body : List Byte) (s : State) :
    Waits s.pending (execFlowPacketReceive node body s) := by simp [execFlowPacketReceive]
@[simp] theorem takeContainer_pending (s : State) (pb : Bool) (node ty : Nat) (body : List Byte) :
    (takeContainer s pb node ty body).pending = s.pending := by unfold takeContainer; (repeat' split) <;> simp
@[simp] theorem takeContainers_pending (s : State) (pb second : Bool) (node : Nat) (cs : List (Nat × Nat × List Byte)) :
    (takeContainers s pb second node cs).pending = s.pending := by simp [takeContainers]
@[simp] theorem receiveData_pending (s : State) (pb : Bool) (bs : List Byte) : (receiveData s pb bs).pending = s.pending :=
  by simp [receiveData]
@[simp] theorem execFlovisFrameReceive_waits (p : Plane) (bytes : List Byte) (s : State) :
    Waits s.pending (execFlovisFrameReceive p bytes s) := by simp [execFlovisFrameReceive]

/-! ### The system commands -/

@[simp] theorem execGetInfo_waits (mb : Mb) (s : State) : Waits s.pending (execGetInfo mb s) := by simp [execGetInfo]
@[simp] theorem execGetStatus_waits (mb : Mb) (s : State) : Waits s.pending (execGetStatus mb s) := by simp [execGetStatus]
@[simp] theorem sessionRecord_pending (s : State) (what : Nat) (mb : Mb) : (sessionRecord s what mb).pending = s.pending :=
  by simp [sessionRecord]
@[simp] theorem endSession_pending (s : State) (mb : Mb) : (endSession s mb).pending = s.pending := by simp [endSession]
@[simp] theorem sessionPhase1_pending (s : State) (mb : Mb) (src : Source) (key : Nat) :
    (sessionPhase1 s mb src key).pending = s.pending := by simp [sessionPhase1]
@[simp] theorem denySession_pending (s : State) (mb : Mb) : (denySession s mb).pending = s.pending := by simp [denySession]
@[simp] theorem sessionPhase2_pending (s : State) (mb : Mb) (src : Source) (mac : List Byte) :
    (sessionPhase2 s mb src mac).pending = s.pending := by unfold sessionPhase2; (repeat' split) <;> simp
@[simp] theorem execSessionOpen_waits (mb : Mb) (s : State) : Waits s.pending (execSessionOpen mb s) := by
  exact runCmd_waits _ _ _ _ _ _ _ _ (fun s ws => by (repeat' split) <;> simp)
@[simp] theorem execSessionClose_waits (mb : Mb) (s : State) : Waits s.pending (execSessionClose mb s) := by simp [execSessionClose]
@[simp] theorem execSessionInactivity_waits (mb : Mb) (s : State) : Waits s.pending (execSessionInactivity mb s) := by
  unfold execSessionInactivity
  (repeat' split) <;> simp
@[simp] theorem execModuleReset_waits (mb : Mb) (s : State) : Waits s.pending (execModuleReset mb s) := by simp [execModuleReset]
@[simp] theorem resetModule_pending (s : State) : (resetModule s).pending = s.pending := by simp [resetModule]
@[simp] theorem execResetExecute_waits (mb : Mb) (s : State) : Waits s.pending (execResetExecute mb s) := by
  unfold execResetExecute
  (repeat' split) <;> simp
@[simp] theorem execBadCmd_waits (mb : Mb) (s : State) : Waits s.pending (execBadCmd mb s) := by
  simp only [execBadCmd]
  (repeat' split) <;> simp

/-! ### The frames of the pair -/

@[simp] theorem linkLost_pending (s : State) : (linkLost s).pending = s.pending := by simp [linkLost]
@[simp] theorem execLinkDown_waits (s : State) : Waits s.pending (execLinkDown s) := by simp [execLinkDown]
@[simp] theorem execLinkUp_waits (s : State) : Waits s.pending (execLinkUp s) := by unfold execLinkUp; (repeat' split) <;> simp
@[simp] theorem execJaranBadCrc_waits (s : State) : Waits s.pending (execJaranBadCrc s) := by simp [execJaranBadCrc]
@[simp] theorem becomePaired_pending (s : State) : (becomePaired s).pending = s.pending := by simp [becomePaired]
@[simp] theorem takeHello_pending (s : State) (h : JaranHead) (m : HelloMsg) : (takeHello s h m).pending = s.pending :=
  by simp [takeHello]
@[simp] theorem execHello_waits (h : JaranHead) (payload : List Byte) (s : State) : Waits s.pending (execHello h payload s) :=
  by simp [execHello]
@[simp] theorem execHelloSend_waits (s : State) : Waits s.pending (execHelloSend s) := by simp [execHelloSend]
@[simp] theorem followLatches_pending (s : State) (clear : Bool) : (followLatches s clear).pending = s.pending := by simp [followLatches]
@[simp] theorem followState_pending (s : State) (code : Nat) : (followState s code).pending = s.pending := by simp [followState]
@[simp] theorem partnerMismatch_pending (s : State) (m : HeartbeatMsg) : (partnerMismatch s m).pending = s.pending :=
  by simp [partnerMismatch]
@[simp] theorem takeHeartbeat_pending (s : State) (h : JaranHead) (m : HeartbeatMsg) : (takeHeartbeat s h m).pending = s.pending :=
  by simp [takeHeartbeat]
@[simp] theorem execHeartbeat_waits (h : JaranHead) (payload : List Byte) (s : State) : Waits s.pending (execHeartbeat h payload s) :=
  by simp [execHeartbeat]
@[simp] theorem asStandby_pending (s : State) (h : JaranHead) (f : State → State) (hf : ∀ a0, (f a0).pending = a0.pending) :
    (asStandby s h f).pending = s.pending := by simp only [asStandby]; (repeat' split) <;> simp [*]
@[simp] theorem execImageFrame_waits (h : JaranHead) (m : ImageMsg) (s : State) : Waits s.pending (execImageFrame h m s) :=
  by simp [execImageFrame]
@[simp] theorem takeOutput_pending (s : State) (m : OutputMsg) : (takeOutput s m).pending = s.pending := by simp [takeOutput]
@[simp] theorem execOutputFrame_waits (h : JaranHead) (m : OutputMsg) (s : State) : Waits s.pending (execOutputFrame h m s) :=
  by simp [execOutputFrame]
@[simp] theorem takePairPage_pending (s : State) (m : PageMsg) : (takePairPage s m).pending = s.pending := by simp [takePairPage]
@[simp] theorem execPageFrame_waits (h : JaranHead) (payload : List Byte) (s : State) : Waits s.pending (execPageFrame h payload s) :=
  by simp [execPageFrame]
@[simp] theorem sendCopy_pending (s : State) (ts : List Nat) : (sendCopy s ts).pending = s.pending := by simp [sendCopy]
@[simp] theorem execJaranResync_waits (h : JaranHead) (mask : BitVec 16) (s : State) : Waits s.pending (execJaranResync h mask s) := by
  simp only [execJaranResync]
  (repeat' split) <;> simp
@[simp] theorem execOutputBudgetExpiry_waits (t : Fin 16) (s : State) : Waits s.pending (execOutputBudgetExpiry t s) := by
  unfold execOutputBudgetExpiry
  (repeat' split) <;> simp
@[simp] theorem roleTimeout_pending (s : State) : (roleTimeout s).pending = s.pending := by simp [roleTimeout]
@[simp] theorem execRoleTimeout_waits (s : State) : Waits s.pending (execRoleTimeout s) := by simp [execRoleTimeout]
@[simp] theorem tryTakeover_pending (s : State) : (tryTakeover s).pending = s.pending := by simp [tryTakeover]
@[simp] theorem execTakeover_waits (s : State) : Waits s.pending (execTakeover s) := by simp [execTakeover]
@[simp] theorem takeSwitch_pending (s : State) (rel reason : Nat) : (takeSwitch s rel reason).pending = s.pending := by simp [takeSwitch]
@[simp] theorem execSwitchFrame_waits (h : JaranHead) (rel reason : Nat) (s : State) :
    Waits s.pending (execSwitchFrame h rel reason s) := by simp [execSwitchFrame]
@[simp] theorem execSwitchAck_waits (h : JaranHead) (rel : Nat) (s : State) : Waits s.pending (execSwitchAck h rel s) := by
  unfold execSwitchAck
  (repeat' split) <;> simp
@[simp] theorem execSwitchAckTimeout_waits (s : State) : Waits s.pending (execSwitchAckTimeout s) := by simp [execSwitchAckTimeout]
@[simp] theorem execPairStatus_waits (mb : Mb) (s : State) : Waits s.pending (execPairStatus mb s) := by simp [execPairStatus]
@[simp] theorem pairSwitch_pending (s : State) (mb : Mb) : (pairSwitch s mb).pending = s.pending := by simp [pairSwitch]
@[simp] theorem execPairSwitch_waits (mb : Mb) (s : State) : Waits s.pending (execPairSwitch mb s) := by simp [execPairSwitch]
@[simp] theorem copyAll_pending (s : State) : (copyAll s).pending = s.pending := by simp [copyAll]
@[simp] theorem execPairResync_waits (mb : Mb) (s : State) : Waits s.pending (execPairResync mb s) := by simp [execPairResync]

/-! ### The commands of the units -/

@[simp] theorem execAxisStep_waits (mb : Mb) (s : State) : Waits s.pending (execAxisStep mb s) := by simp [execAxisStep]
@[simp] theorem execAxisScale_waits (mb : Mb) (s : State) : Waits s.pending (execAxisScale mb s) := by simp [execAxisScale]
@[simp] theorem execAxisSource_waits (mb : Mb) (s : State) : Waits s.pending (execAxisSource mb s) := by simp [execAxisSource]
@[simp] theorem execTrigArm_waits (mb : Mb) (s : State) : Waits s.pending (execTrigArm mb s) := by
  refine runCmd_waits _ _ _ _ _ _ _ _ (fun s ws => ?_)
  extract_lets w w5 pulse kind pick
  split
  · simp
  · clear_value pick
    cases pick with
    | none => simp
    | some n => simp
@[simp] theorem execTrigCancel_waits (mb : Mb) (s : State) : Waits s.pending (execTrigCancel mb s) := by simp [execTrigCancel]
@[simp] theorem execRecFlush_waits (mb : Mb) (s : State) : Waits s.pending (execRecFlush mb s) := by
  exact runCmd_waits _ _ _ _ _ _ _ _ (fun s ws => by (repeat' split) <;> simp)
@[simp] theorem clearRecords_pending (s : State) : (clearRecords s).pending = s.pending := by simp [clearRecords]
@[simp] theorem execRecClear_waits (mb : Mb) (s : State) : Waits s.pending (execRecClear mb s) := by simp [execRecClear]
@[simp] theorem execRecInfo_waits (mb : Mb) (s : State) : Waits s.pending (execRecInfo mb s) := by simp [execRecInfo]
@[simp] theorem execPwrVote_waits (mb : Mb) (s : State) : Waits s.pending (execPwrVote mb s) := by simp [execPwrVote]
@[simp] theorem execPwrStatus_waits (mb : Mb) (s : State) : Waits s.pending (execPwrStatus mb s) := by simp [execPwrStatus]
@[simp] theorem execDutySet_waits (mb : Mb) (s : State) : Waits s.pending (execDutySet mb s) := by simp [execDutySet]
@[simp] theorem execFlowOpen_waits (mb : Mb) (s : State) : Waits s.pending (execFlowOpen mb s) := by
  refine runCmd_waits _ _ _ _ _ _ _ _ (fun s ws => ?_)
  dsimp only
  repeat' split
  all_goals simp
@[simp] theorem execFlowClose_waits (mb : Mb) (s : State) : Waits s.pending (execFlowClose mb s) := by simp [execFlowClose]
@[simp] theorem execMixSet_waits (mb : Mb) (s : State) : Waits s.pending (execMixSet mb s) := by simp [execMixSet]
@[simp] theorem execChStatus_waits (mb : Mb) (s : State) : Waits s.pending (execChStatus mb s) := by simp [execChStatus]
@[simp] theorem execChTest_waits (mb : Mb) (s : State) : Waits s.pending (execChTest mb s) := by simp [execChTest]

/-! ### Every command (O2) -/

/-- No command adds to, drops from or reorders the queue it finds. -/
theorem exec_waits (s : State) (c : Instr) : Waits s.pending (exec c s) := by
  cases c <;> simp

/-- Settles O2: the step takes the front command off, and the command leaves the rest as it is. -/
theorem stepTakesExactlyTheFrontCommand : Obligations.StepTakesExactlyTheFrontCommand := by
  unfold Obligations.StepTakesExactlyTheFrontCommand
  intro s t ht
  cases hqueue : s.pending with
  | nil =>
    simp only [step, hqueue] at ht
    rw [← Host.Outcome.next.inj ht, hqueue]
    rfl
  | cons c rest =>
    simp only [step, hqueue] at ht
    exact exec_waits { s with pending := rest } c t ht

end Sys2Proof.Machine
end
